-- ==== Sys2Proof/Word.lean ====
section
/-! DEFINITION. The words of the machine, the sparse maps that hold its numbered state, and the
byte memory with its one canonical form. -/

namespace Sys2Proof

/-- An integer register, an address, a CSR (R7, R23). -/
abbrev Word := BitVec 64
/-- An instruction word or a floating register (R7, R38). -/
abbrev W32 := BitVec 32
/-- A vector register (R7, R111). -/
abbrev VReg := BitVec 512
/-- A byte (R4). -/
abbrev Byte := BitVec 8

/-- A map from numbers to values, keys strictly rising; a key not listed has the reader's default. -/
abbrev SMap (α : Type) := List (Nat × α)

namespace SMap

/-- The value at `k`, if it is listed. -/
def find? {α : Type} : SMap α → Nat → Option α
  | [], _ => none
  | (j, v) :: r, k => if j = k then some v else find? r k

/-- The value at `k`, `d` where `k` is not listed. -/
def get {α : Type} (d : α) : SMap α → Nat → α
  | [], _ => d
  | (j, v) :: r, k => if j = k then v else get d r k

/-- List `v` at `k`, in the place its key has in rising order. -/
def put {α : Type} : SMap α → Nat → α → SMap α
  | [], k, v => [(k, v)]
  | (j, w) :: r, k, v =>
    if k < j then (k, v) :: (j, w) :: r
    else if k = j then (k, v) :: r
    else (j, w) :: put r k v

/-- Take `k` off the list. -/
def del {α : Type} : SMap α → Nat → SMap α
  | [], _ => []
  | (j, w) :: r, k => if j = k then del r k else (j, w) :: del r k

/-- Write `v` at `k` in the canonical form in which the default `d` is never listed. -/
def set {α : Type} [DecidableEq α] (d : α) (m : SMap α) (k : Nat) (v : α) : SMap α :=
  if v = d then del m k else put m k v

/-- The canonical form: keys strictly rising, all above `lo` (if given), no default listed. -/
def canon {α : Type} [DecidableEq α] (d : α) : Option Nat → SMap α → Bool
  | _, [] => true
  | lo, (k, v) :: r =>
    (match lo with | none => true | some b => decide (b < k)) && decide (v ≠ d) && canon d (some k) r

end SMap

/-- The byte memory: every byte the spec gives an address or a place, by its location number.
Unlisted locations read 0 (R183 for scratchpads; log entry 3 for the rest). -/
abbrev Memory := SMap Byte

namespace Memory

/-- What an unlisted location reads as. -/
def blank : Byte := 0

def read (m : Memory) (a : Nat) : Byte := SMap.get blank m a
def write (m : Memory) (a : Nat) (b : Byte) : Memory := SMap.set blank m a b

/-- `n` bytes from `a` upward, lowest address first. -/
def readBytes (m : Memory) (a : Nat) : Nat → List Byte
  | 0 => []
  | n + 1 => read m a :: readBytes m (a + 1) n

/-- Write bytes from `a` upward, lowest address first. -/
def writeBytes (m : Memory) (a : Nat) : List Byte → Memory
  | [] => m
  | b :: r => writeBytes (write m a b) (a + 1) r

/-- The canonical form of the memory: addresses strictly rising, no entry equal to `blank`. -/
def wf (m : Memory) : Bool := SMap.canon blank none m

end Memory

end Sys2Proof
end

