-- ==== Sys2Proof/Kinds.lean ====
section
/-! DEFINITION. The small enumerations that instructions carry: types, formats, scopes, widths,
rounding modes, conditions, engines, with their codes' order as the spec lists them. -/

namespace Sys2Proof

/-- The type code of a custom-0 word (R47). `pre` takes the types from an FMT word. -/
inductive VType | i32 | n32 | f32 | bf16 | f16 | i16 | i8 | pre
  deriving DecidableEq, Repr

/-- The element formats of an FMT word (R62). -/
inductive Fmt | i8 | n8 | i16 | n16 | i32 | n32 | f32 | bf16 | f16 | e4m3 | e5m2 | t4 | cb2 | none
  deriving DecidableEq, Repr

/-- The scale modes of an FMT word (R62). -/
inductive ScaleMode | plain | src | dst
  deriving DecidableEq, Repr

/-- The scopes (R51, R215), narrowest first. -/
inductive Scope | core | clu | die | pkg | sys
  deriving DecidableEq, Repr

/-- The kinds of a fence (R51). -/
inductive FKind | acq | rel | full
  deriving DecidableEq, Repr

/-- The widths of LDA and STRL (R51). -/
inductive MemW | d | w
  deriving DecidableEq, Repr

/-- Lane widths of the untyped lane forms (R49, R48). -/
inductive VWidth | w8 | w16 | w32
  deriving DecidableEq, Repr

/-- Rounding-mode fields of the base F forms (R39, R40). -/
inductive Rm | rne | rtz | rdn | rup | rmm | dyn
  deriving DecidableEq, Repr

/-- Rounding modes of the conversion group (R48, R158). -/
inductive CvRm | rne | rtz | sr
  deriving DecidableEq, Repr

/-- Conditions of VCMP (R48). -/
inductive Cc | eq | ne | lt | le
  deriving DecidableEq, Repr

/-- Chain formats of MCHAIN (R55). -/
inductive ChainFmt | f32 | bf16 | bf16sr
  deriving DecidableEq, Repr

/-- End kinds of a signed block (R66), in code order 000 to 110. -/
inductive EndKind | plain | branch | jal | jalr | trap | loop | task
  deriving DecidableEq, Repr

/-- The shared engines of a cluster (R37, R243). -/
inductive Engine | copy | matrix | merge | conv
  deriving DecidableEq, Repr

end Sys2Proof
end

