-- ==== Sys2Proof/Syntax.lean ====
section
/-! DEFINITION. The instructions: one constructor for every row of spec/opcode_table.json. Rows 0 to
269 are instruction words; rows 270 to 391 are the indivisible steps of the device's other agents
(spec/95_what_each_step_holds.md), which no word encodes. Each docstring names the row's rule. -/

namespace Sys2Proof

/-- One constructor per row of spec/opcode_table.json. -/
inductive Instr where
  /-- R39. Loads an upper immediate into rd. -/
  | lui (rd : BitVec 5) (imm : BitVec 20)
  /-- R39. Adds an upper immediate to the pc and writes rd. -/
  | auipc (rd : BitVec 5) (imm : BitVec 20)
  /-- R39. Jumps by a static offset and links rd. -/
  | jal (rd : BitVec 5) (off : BitVec 20)
  /-- R29. Jumps to a register target and links rd; a target that is not 4-B aligned faults with mcause 0. -/
  | jalr (rd rs1 : BitVec 5) (imm : BitVec 12)
  /-- R39. Branches if the two registers are equal. -/
  | beq (rs1 rs2 : BitVec 5) (off : BitVec 12)
  /-- R39. Branches if the two registers differ. -/
  | bne (rs1 rs2 : BitVec 5) (off : BitVec 12)
  /-- R39. Branches on signed less-than. -/
  | blt (rs1 rs2 : BitVec 5) (off : BitVec 12)
  /-- R39. Branches on signed greater-or-equal. -/
  | bge (rs1 rs2 : BitVec 5) (off : BitVec 12)
  /-- R39. Branches on unsigned less-than. -/
  | bltu (rs1 rs2 : BitVec 5) (off : BitVec 12)
  /-- R39. Branches on unsigned greater-or-equal. -/
  | bgeu (rs1 rs2 : BitVec 5) (off : BitVec 12)
  /-- R89. Loads a sign-extended byte, fixed on the own scratchpad and held elsewhere. -/
  | lb (rd rs1 : BitVec 5) (imm : BitVec 12)
  /-- R89. Loads a sign-extended halfword. -/
  | lh (rd rs1 : BitVec 5) (imm : BitVec 12)
  /-- R89. Loads a sign-extended word. -/
  | lw (rd rs1 : BitVec 5) (imm : BitVec 12)
  /-- R89. Loads a doubleword. -/
  | ld (rd rs1 : BitVec 5) (imm : BitVec 12)
  /-- R89. Loads a zero-extended byte. -/
  | lbu (rd rs1 : BitVec 5) (imm : BitVec 12)
  /-- R89. Loads a zero-extended halfword. -/
  | lhu (rd rs1 : BitVec 5) (imm : BitVec 12)
  /-- R89. Loads a zero-extended word. -/
  | lwu (rd rs1 : BitVec 5) (imm : BitVec 12)
  /-- R89. Stores a byte, fixed on the own scratchpad and posted elsewhere. -/
  | sb (rs1 rs2 : BitVec 5) (imm : BitVec 12)
  /-- R89. Stores a halfword. -/
  | sh (rs1 rs2 : BitVec 5) (imm : BitVec 12)
  /-- R89. Stores a word. -/
  | sw (rs1 rs2 : BitVec 5) (imm : BitVec 12)
  /-- R89. Stores a doubleword. -/
  | sd (rs1 rs2 : BitVec 5) (imm : BitVec 12)
  /-- R39. Adds an immediate. -/
  | addi (rd rs1 : BitVec 5) (imm : BitVec 12)
  /-- R39. Sets rd on signed less-than an immediate. -/
  | slti (rd rs1 : BitVec 5) (imm : BitVec 12)
  /-- R39. Sets rd on unsigned less-than an immediate. -/
  | sltiu (rd rs1 : BitVec 5) (imm : BitVec 12)
  /-- R39. XORs with an immediate. -/
  | xori (rd rs1 : BitVec 5) (imm : BitVec 12)
  /-- R39. ORs with an immediate. -/
  | ori (rd rs1 : BitVec 5) (imm : BitVec 12)
  /-- R39. ANDs with an immediate. -/
  | andi (rd rs1 : BitVec 5) (imm : BitVec 12)
  /-- R39. Shifts left by an immediate. -/
  | slli (rd rs1 : BitVec 5) (sh : BitVec 6)
  /-- R39. Shifts right logically by an immediate. -/
  | srli (rd rs1 : BitVec 5) (sh : BitVec 6)
  /-- R39. Shifts right arithmetically by an immediate. -/
  | srai (rd rs1 : BitVec 5) (sh : BitVec 6)
  /-- R39. Adds two registers. -/
  | add (rd rs1 rs2 : BitVec 5)
  /-- R39. Subtracts two registers. -/
  | sub (rd rs1 rs2 : BitVec 5)
  /-- R39. Shifts left by a register. -/
  | sll (rd rs1 rs2 : BitVec 5)
  /-- R39. Sets rd on signed less-than. -/
  | slt (rd rs1 rs2 : BitVec 5)
  /-- R39. Sets rd on unsigned less-than. -/
  | sltu (rd rs1 rs2 : BitVec 5)
  /-- R39. XORs two registers. -/
  | xor (rd rs1 rs2 : BitVec 5)
  /-- R39. Shifts right logically by a register. -/
  | srl (rd rs1 rs2 : BitVec 5)
  /-- R39. Shifts right arithmetically by a register. -/
  | sra (rd rs1 rs2 : BitVec 5)
  /-- R39. ORs two registers. -/
  | or (rd rs1 rs2 : BitVec 5)
  /-- R39. ANDs two registers. -/
  | and (rd rs1 rs2 : BitVec 5)
  /-- R39. Adds an immediate in 32 bits and sign-extends. -/
  | addiw (rd rs1 : BitVec 5) (imm : BitVec 12)
  /-- R39. 32-bit shift left by an immediate. -/
  | slliw (rd rs1 sh : BitVec 5)
  /-- R39. 32-bit logical shift right by an immediate. -/
  | srliw (rd rs1 sh : BitVec 5)
  /-- R39. 32-bit arithmetic shift right by an immediate. -/
  | sraiw (rd rs1 sh : BitVec 5)
  /-- R39. 32-bit add. -/
  | addw (rd rs1 rs2 : BitVec 5)
  /-- R39. 32-bit subtract. -/
  | subw (rd rs1 rs2 : BitVec 5)
  /-- R39. 32-bit shift left. -/
  | sllw (rd rs1 rs2 : BitVec 5)
  /-- R39. 32-bit logical shift right. -/
  | srlw (rd rs1 rs2 : BitVec 5)
  /-- R39. 32-bit arithmetic shift right. -/
  | sraw (rd rs1 rs2 : BitVec 5)
  /-- R225. Base fence acting as FENCE.pkg of a kind derived from its pred and succ sets. -/
  | fence (fm pred succ : BitVec 4) (rd rs1 : BitVec 5)
  /-- R225. Base FENCE.TSO, acting as a full fence at package scope. -/
  | fenceTso (rd rs1 : BitVec 5)
  /-- R225. Base PAUSE hint, which orders nothing. -/
  | pause
  /-- R404. Environment call; with x17 = 0x4E45 from S mode it asks firmware to end the task. -/
  | ecall
  /-- R39. Breakpoint exception. -/
  | ebreak
  /-- R39. Low 64 bits of a product. -/
  | mul (rd rs1 rs2 : BitVec 5)
  /-- R39. High bits of a signed product. -/
  | mulh (rd rs1 rs2 : BitVec 5)
  /-- R39. High bits of a signed-by-unsigned product. -/
  | mulhsu (rd rs1 rs2 : BitVec 5)
  /-- R39. High bits of an unsigned product. -/
  | mulhu (rd rs1 rs2 : BitVec 5)
  /-- R93. Signed division with data-dependent latency. -/
  | div (rd rs1 rs2 : BitVec 5)
  /-- R93. Unsigned division. -/
  | divu (rd rs1 rs2 : BitVec 5)
  /-- R93. Signed remainder. -/
  | rem (rd rs1 rs2 : BitVec 5)
  /-- R93. Unsigned remainder. -/
  | remu (rd rs1 rs2 : BitVec 5)
  /-- R39. 32-bit multiply. -/
  | mulw (rd rs1 rs2 : BitVec 5)
  /-- R93. 32-bit signed division. -/
  | divw (rd rs1 rs2 : BitVec 5)
  /-- R93. 32-bit unsigned division. -/
  | divuw (rd rs1 rs2 : BitVec 5)
  /-- R93. 32-bit signed remainder. -/
  | remw (rd rs1 rs2 : BitVec 5)
  /-- R93. 32-bit unsigned remainder. -/
  | remuw (rd rs1 rs2 : BitVec 5)
  /-- R91. Load-reserved word, own scratchpad only. -/
  | lrW (rd rs1 : BitVec 5) (aq rl : Bool)
  /-- R91. Load-reserved doubleword, own scratchpad only. -/
  | lrD (rd rs1 : BitVec 5) (aq rl : Bool)
  /-- R91. Store-conditional word, own scratchpad only. -/
  | scW (rd rs1 rs2 : BitVec 5) (aq rl : Bool)
  /-- R91. Store-conditional doubleword, own scratchpad only. -/
  | scD (rd rs1 rs2 : BitVec 5) (aq rl : Bool)
  /-- R231. Atomic swap of a word. -/
  | amoSwapW (rd rs1 rs2 : BitVec 5) (aq rl : Bool)
  /-- R231. Atomic swap of a doubleword. -/
  | amoSwapD (rd rs1 rs2 : BitVec 5) (aq rl : Bool)
  /-- R231. Atomic add of a word. -/
  | amoAddW (rd rs1 rs2 : BitVec 5) (aq rl : Bool)
  /-- R231. Atomic add of a doubleword. -/
  | amoAddD (rd rs1 rs2 : BitVec 5) (aq rl : Bool)
  /-- R231. Atomic XOR of a word. -/
  | amoXorW (rd rs1 rs2 : BitVec 5) (aq rl : Bool)
  /-- R231. Atomic XOR of a doubleword. -/
  | amoXorD (rd rs1 rs2 : BitVec 5) (aq rl : Bool)
  /-- R231. Atomic AND of a word. -/
  | amoAndW (rd rs1 rs2 : BitVec 5) (aq rl : Bool)
  /-- R231. Atomic AND of a doubleword. -/
  | amoAndD (rd rs1 rs2 : BitVec 5) (aq rl : Bool)
  /-- R231. Atomic OR of a word. -/
  | amoOrW (rd rs1 rs2 : BitVec 5) (aq rl : Bool)
  /-- R231. Atomic OR of a doubleword. -/
  | amoOrD (rd rs1 rs2 : BitVec 5) (aq rl : Bool)
  /-- R231. Atomic signed minimum of a word. -/
  | amoMinW (rd rs1 rs2 : BitVec 5) (aq rl : Bool)
  /-- R231. Atomic signed minimum of a doubleword. -/
  | amoMinD (rd rs1 rs2 : BitVec 5) (aq rl : Bool)
  /-- R231. Atomic signed maximum of a word. -/
  | amoMaxW (rd rs1 rs2 : BitVec 5) (aq rl : Bool)
  /-- R231. Atomic signed maximum of a doubleword. -/
  | amoMaxD (rd rs1 rs2 : BitVec 5) (aq rl : Bool)
  /-- R231. Atomic unsigned minimum of a word. -/
  | amoMinuW (rd rs1 rs2 : BitVec 5) (aq rl : Bool)
  /-- R231. Atomic unsigned minimum of a doubleword. -/
  | amoMinuD (rd rs1 rs2 : BitVec 5) (aq rl : Bool)
  /-- R231. Atomic unsigned maximum of a word. -/
  | amoMaxuW (rd rs1 rs2 : BitVec 5) (aq rl : Bool)
  /-- R231. Atomic unsigned maximum of a doubleword. -/
  | amoMaxuD (rd rs1 rs2 : BitVec 5) (aq rl : Bool)
  /-- R89. Loads a single-precision word into an f register. -/
  | flw (rd rs1 : BitVec 5) (imm : BitVec 12)
  /-- R89. Stores an f register. -/
  | fsw (rs1 rs2 : BitVec 5) (imm : BitVec 12)
  /-- R92. Fused multiply-add in f32. -/
  | fmaddS (rd rs1 rs2 rs3 : BitVec 5) (rm : Rm)
  /-- R92. Fused multiply-subtract in f32. -/
  | fmsubS (rd rs1 rs2 rs3 : BitVec 5) (rm : Rm)
  /-- R92. Negated fused multiply-subtract in f32. -/
  | fnmsubS (rd rs1 rs2 rs3 : BitVec 5) (rm : Rm)
  /-- R92. Negated fused multiply-add in f32. -/
  | fnmaddS (rd rs1 rs2 rs3 : BitVec 5) (rm : Rm)
  /-- R92. f32 add. -/
  | faddS (rd rs1 rs2 : BitVec 5) (rm : Rm)
  /-- R92. f32 subtract. -/
  | fsubS (rd rs1 rs2 : BitVec 5) (rm : Rm)
  /-- R92. f32 multiply. -/
  | fmulS (rd rs1 rs2 : BitVec 5) (rm : Rm)
  /-- R92. f32 divide. -/
  | fdivS (rd rs1 rs2 : BitVec 5) (rm : Rm)
  /-- R92. f32 square root. -/
  | fsqrtS (rd rs1 : BitVec 5) (rm : Rm)
  /-- R92. Sign injection. -/
  | fsgnjS (rd rs1 rs2 : BitVec 5)
  /-- R92. Negated sign injection. -/
  | fsgnjnS (rd rs1 rs2 : BitVec 5)
  /-- R92. XOR sign injection. -/
  | fsgnjxS (rd rs1 rs2 : BitVec 5)
  /-- R92. f32 minimum. -/
  | fminS (rd rs1 rs2 : BitVec 5)
  /-- R92. f32 maximum. -/
  | fmaxS (rd rs1 rs2 : BitVec 5)
  /-- R92. Converts f32 to a signed word. -/
  | fcvtWS (rd rs1 : BitVec 5) (rm : Rm)
  /-- R92. Converts f32 to an unsigned word. -/
  | fcvtWuS (rd rs1 : BitVec 5) (rm : Rm)
  /-- R92. Converts f32 to a signed doubleword. -/
  | fcvtLS (rd rs1 : BitVec 5) (rm : Rm)
  /-- R92. Converts f32 to an unsigned doubleword. -/
  | fcvtLuS (rd rs1 : BitVec 5) (rm : Rm)
  /-- R92. Converts a signed word to f32. -/
  | fcvtSW (rd rs1 : BitVec 5) (rm : Rm)
  /-- R92. Converts an unsigned word to f32. -/
  | fcvtSWu (rd rs1 : BitVec 5) (rm : Rm)
  /-- R92. Converts a signed doubleword to f32. -/
  | fcvtSL (rd rs1 : BitVec 5) (rm : Rm)
  /-- R92. Converts an unsigned doubleword to f32. -/
  | fcvtSLu (rd rs1 : BitVec 5) (rm : Rm)
  /-- R92. Moves f32 bits to an x register. -/
  | fmvXW (rd rs1 : BitVec 5)
  /-- R92. Moves x register bits to an f register. -/
  | fmvWX (rd rs1 : BitVec 5)
  /-- R92. f32 equality compare. -/
  | feqS (rd rs1 rs2 : BitVec 5)
  /-- R92. f32 less-than compare. -/
  | fltS (rd rs1 rs2 : BitVec 5)
  /-- R92. f32 less-or-equal compare. -/
  | fleS (rd rs1 rs2 : BitVec 5)
  /-- R92. Classifies an f32 value. -/
  | fclassS (rd rs1 : BitVec 5)
  /-- R85. Atomically swaps a CSR with a register. -/
  | csrrw (rd rs1 : BitVec 5) (csr : BitVec 12)
  /-- R85. Reads a CSR and sets bits. -/
  | csrrs (rd rs1 : BitVec 5) (csr : BitVec 12)
  /-- R85. Reads a CSR and clears bits. -/
  | csrrc (rd rs1 : BitVec 5) (csr : BitVec 12)
  /-- R85. Writes a CSR from an immediate. -/
  | csrrwi (rd uimm : BitVec 5) (csr : BitVec 12)
  /-- R85. Sets CSR bits from an immediate. -/
  | csrrsi (rd uimm : BitVec 5) (csr : BitVec 12)
  /-- R85. Clears CSR bits from an immediate. -/
  | csrrci (rd uimm : BitVec 5) (csr : BitVec 12)
  /-- R107. Returns from an M-mode trap, restoring prefix, checker and loop enable from mxsave. -/
  | mret
  /-- R107. Returns from an S-mode trap, restoring prefix, checker and loop enable from sxsave. -/
  | sret
  /-- R109. Waits for an interrupt as the privileged specification states. -/
  | wfi
  /-- R133. Lane-wise vector add. -/
  | vadd (vd vs1 vs2 : BitVec 5) (t : VType) (sc : BitVec 3)
  /-- R133. Lane-wise vector subtract. -/
  | vsub (vd vs1 vs2 : BitVec 5) (t : VType) (sc : BitVec 3)
  /-- R133. Lane-wise vector multiply. -/
  | vmul (vd vs1 vs2 : BitVec 5) (t : VType) (sc : BitVec 3)
  /-- R134. Fused multiply-add into vd. -/
  | vfma (vd vs1 vs2 : BitVec 5) (t : VType) (sc : BitVec 3)
  /-- R134. Fused multiply-subtract into vd. -/
  | vfms (vd vs1 vs2 : BitVec 5) (t : VType) (sc : BitVec 3)
  /-- R133. Lane-wise minimum. -/
  | vmin (vd vs1 vs2 : BitVec 5) (t : VType) (sc : BitVec 3)
  /-- R133. Lane-wise maximum. -/
  | vmax (vd vs1 vs2 : BitVec 5) (t : VType) (sc : BitVec 3)
  /-- R135. Four-way 8-bit dot product accumulated into 32-bit lanes. -/
  | vdot4 (vd vs1 vs2 : BitVec 5) (t : VType) (sc : BitVec 3)
  /-- R139. Compares lanes and writes a mask register. -/
  | vcmp (md : BitVec 3) (cc : Cc) (vs1 vs2 : BitVec 5) (t : VType) (sc : BitVec 3)
  /-- R136. Lane-wise shift left. -/
  | vshl (vd vs1 vs2 : BitVec 5) (t : VType) (sc : BitVec 3)
  /-- R136. Lane-wise logical shift right. -/
  | vshr (vd vs1 vs2 : BitVec 5) (t : VType) (sc : BitVec 3)
  /-- R136. Lane-wise arithmetic shift right. -/
  | vsra (vd vs1 vs2 : BitVec 5) (t : VType) (sc : BitVec 3)
  /-- R136. Bitwise AND of 512 bits. -/
  | vand (vd vs1 vs2 : BitVec 5) (sc : BitVec 3)
  /-- R136. Bitwise OR of 512 bits. -/
  | vor (vd vs1 vs2 : BitVec 5) (sc : BitVec 3)
  /-- R136. Bitwise XOR of 512 bits. -/
  | vxor (vd vs1 vs2 : BitVec 5) (sc : BitVec 3)
  /-- R142. Permutes lanes of vs1 by indices in vs2. -/
  | vperm (vd vs1 vs2 : BitVec 5) (w : VWidth) (sc : BitVec 3)
  /-- R137. Lane-wise absolute value. -/
  | vabs (vd vs1 : BitVec 5) (t : VType) (sc : BitVec 3)
  /-- R137. Lane-wise negation. -/
  | vneg (vd vs1 : BitVec 5) (t : VType) (sc : BitVec 3)
  /-- R137. Copies 512 bits unchanged. -/
  | vmov (vd vs1 : BitVec 5) (t : VType) (sc : BitVec 3)
  /-- R144. Correctly rounded 2^a per lane. -/
  | vexp2 (vd vs1 : BitVec 5) (t : VType) (sc : BitVec 3)
  /-- R144. Correctly rounded log2 per lane. -/
  | vlog2 (vd vs1 : BitVec 5) (t : VType) (sc : BitVec 3)
  /-- R144. Correctly rounded reciprocal per lane. -/
  | vrcp (vd vs1 : BitVec 5) (t : VType) (sc : BitVec 3)
  /-- R144. Correctly rounded reciprocal square root per lane. -/
  | vrsq (vd vs1 : BitVec 5) (t : VType) (sc : BitVec 3)
  /-- R138. Pairwise-tree sum of all lanes broadcast to vd. -/
  | vrsum (vd vs1 : BitVec 5) (t : VType) (sc : BitVec 3)
  /-- R138. Tree maximum of all lanes. -/
  | vrmax (vd vs1 : BitVec 5) (t : VType) (sc : BitVec 3)
  /-- R138. Tree minimum of all lanes. -/
  | vrmin (vd vs1 : BitVec 5) (t : VType) (sc : BitVec 3)
  /-- R137. Writes each lane's index. -/
  | vidx (vd : BitVec 5) (t : VType) (sc : BitVec 3)
  /-- R137. Broadcasts an x or f register to every lane. -/
  | vsplat (vd rs1 : BitVec 5) (t : VType) (sc : BitVec 3)
  /-- R137. Broadcasts lane 0 of vs1. -/
  | vbcast (vd vs1 : BitVec 5) (t : VType) (sc : BitVec 3)
  /-- R143. Slides lanes down by k. -/
  | vslideDn (vd vs1 k : BitVec 5) (w : VWidth) (sc : BitVec 3)
  /-- R143. Slides lanes up by k. -/
  | vslideUp (vd vs1 k : BitVec 5) (w : VWidth) (sc : BitVec 3)
  /-- R169. Converts elements between formats with rounding, saturation and optional amax. -/
  | vcvt (vd vs1 : BitVec 5) (rm : CvRm) (sat amax : Bool) (sc : BitVec 3)
  /-- R170. Quantizes a block into a scaled image. -/
  | vquant (vd vs1 : BitVec 5) (rm : CvRm) (sat amax : Bool) (sc : BitVec 3)
  /-- R171. Dequantizes codes back to floating values. -/
  | vdeq (vd vs1 : BitVec 5) (rm : CvRm) (sat amax : Bool) (sc : BitVec 3)
  /-- R172. Loads the hart's T4 table from a vector register. -/
  | tbld (vs1 : BitVec 5) (sc : BitVec 3)
  /-- R173. Loads the CB2 lattice table from 1,024 B of own scratchpad. -/
  | cbld (rs1 : BitVec 5)
  /-- R172. Seeds the stochastic-rounding LFSR. -/
  | srseed (rs1 : BitVec 5)
  /-- R129. Vector load with optional offset and mask. -/
  | vld (vd rs1 rs2 : BitVec 5) (mk : BitVec 3) (w : VWidth)
  /-- R129. Vector store with optional offset and mask. -/
  | vst (vs3 rs1 rs2 : BitVec 5) (mk : BitVec 3) (w : VWidth)
  /-- R129. Strided vector load. -/
  | vlds (vd rs1 rs2 : BitVec 5) (mk : BitVec 3) (w : VWidth)
  /-- R129. Strided vector store. -/
  | vsts (vs3 rs1 rs2 : BitVec 5) (mk : BitVec 3) (w : VWidth)
  /-- R121. Binds a stream register as a source stream from a shape record. -/
  | sbindSrc (v : BitVec 3) (rs1 : BitVec 5)
  /-- R121. Binds a stream register as a destination stream. -/
  | sbindDst (v : BitVec 3) (rs1 : BitVec 5)
  /-- R122. Unbinds a stream after destination images are handed off. -/
  | sunbind (v : BitVec 3)
  /-- R140. Selects lanes from vs1 or vs2 by a mask. -/
  | vsel (vd vs1 vs2 : BitVec 5) (mk : BitVec 3) (w : VWidth)
  /-- R141. ANDs two mask registers. -/
  | mand (md ms1 ms2 : BitVec 3)
  /-- R141. ORs two mask registers. -/
  | mor (md ms1 ms2 : BitVec 3)
  /-- R141. XORs two mask registers. -/
  | mxor (md ms1 ms2 : BitVec 3)
  /-- R141. Inverts a mask register. -/
  | mnot (md ms1 : BitVec 3)
  /-- R141. Counts set bits of a mask into an x register. -/
  | mpop (rd : BitVec 5) (ms1 : BitVec 3)
  /-- R145. Repeats a short vector body from the sequencer queue. -/
  | vloop (rs1 : BitVec 5) (len : BitVec 4)
  /-- R148. Appends a value to the branch-outcome queue. -/
  | bqput (rs1 : BitVec 5)
  /-- R148. Pops the oldest branch-outcome entry. -/
  | bqget (rd : BitVec 5)
  /-- R198. Waits for a full granule and loads 8 B, leaving it full. -/
  | ldFeKeep (rd rs1 : BitVec 5)
  /-- R198. Waits for a full granule, loads 8 B and empties it. -/
  | ldFeClr (rd rs1 : BitVec 5)
  /-- R198. Waits for an empty granule, stores 8 B and fills it. -/
  | stFe (rs1 rs2 : BitVec 5)
  /-- R198. Sets a granule's full-empty bit empty. -/
  | fesetEmpty (rs1 : BitVec 5)
  /-- R198. Sets a granule's full-empty bit full. -/
  | fesetFull (rs1 : BitVec 5)
  /-- R198. Returns a granule's full, poison and waiter count. -/
  | feqry (rd rs1 : BitVec 5)
  /-- R202. Gathers 16 lanes from addresses in an even register pair. -/
  | gathA (vd : BitVec 5) (va : BitVec 4)
  /-- R202. Gathers 16 lanes from a base plus indices. -/
  | gathX (vd rs1 vs2 : BitVec 5)
  /-- R204. Scatters 16 lanes to addresses in an even register pair. -/
  | scatA (vs3 : BitVec 5) (va : BitVec 4)
  /-- R204. Scatters 16 lanes to a base plus indices. -/
  | scatX (vs3 rs1 vs2 : BitVec 5)
  /-- R206. Hands a shaped copy to the cluster copy engine and returns a tag. -/
  | cpy (rd rs1 rs2 : BitVec 5)
  /-- R209. Waits for the hart's copies up to a tag and returns a failure status. -/
  | cpyw (rd rs1 : BitVec 5)
  /-- R224. Scoped acquire, release or full fence. -/
  | fenceScoped (s : Scope) (k : FKind)
  /-- R226. Acquire load at a scope. -/
  | lda (rd rs1 : BitVec 5) (s : Scope) (wd : MemW)
  /-- R226. Release store at a scope. -/
  | strl (rs1 rs2 : BitVec 5) (s : Scope) (wd : MemW)
  /-- R238. Adds an f32 value exactly into a fixed-point cell. -/
  | fxadd (rs1 rs2 : BitVec 5)
  /-- R238. Reads a fixed-point cell rounded to f32. -/
  | fxrd (rd rs1 : BitVec 5)
  /-- R238. Reads the low 64 bits of a cell. -/
  | fxrdLo (rd rs1 : BitVec 5)
  /-- R238. Reads the high 64 bits of a cell. -/
  | fxrdHi (rd rs1 : BitVec 5)
  /-- R238. Clears a fixed-point cell and its poison. -/
  | fxclr (rs1 : BitVec 5)
  /-- R244. Queries the range-lock table for an address. -/
  | rlqry (rd rs1 : BitVec 5)
  /-- R233. Scoped atomic add with release and acquire parts. -/
  | amoAddScoped (rd rs1 rs2 : BitVec 5) (s : Scope)
  /-- R233. Scoped atomic swap. -/
  | amoSwapScoped (rd rs1 rs2 : BitVec 5) (s : Scope)
  /-- R233. Scoped atomic AND. -/
  | amoAndScoped (rd rs1 rs2 : BitVec 5) (s : Scope)
  /-- R233. Scoped atomic OR. -/
  | amoOrScoped (rd rs1 rs2 : BitVec 5) (s : Scope)
  /-- R233. Scoped atomic XOR. -/
  | amoXorScoped (rd rs1 rs2 : BitVec 5) (s : Scope)
  /-- R233. Scoped atomic signed minimum. -/
  | amoMinScoped (rd rs1 rs2 : BitVec 5) (s : Scope)
  /-- R233. Scoped atomic signed maximum. -/
  | amoMaxScoped (rd rs1 rs2 : BitVec 5) (s : Scope)
  /-- R233. Scoped atomic unsigned minimum. -/
  | amoMinuScoped (rd rs1 rs2 : BitVec 5) (s : Scope)
  /-- R233. Scoped atomic unsigned maximum. -/
  | amoMaxuScoped (rd rs1 rs2 : BitVec 5) (s : Scope)
  /-- R233. Scoped compare-and-swap against X(rd). -/
  | amoCasScoped (rd rs1 rs2 : BitVec 5) (s : Scope)
  /-- R252. Spawns a task record into the forwarding rule, waiting for capacity. -/
  | spawn (rs1 : BitVec 5)
  /-- R253. Spawns without waiting and returns a status. -/
  | spawnNb (rd rs1 : BitVec 5)
  /-- R253. Spawns a RANGE record with an extent. -/
  | spawnr (rs1 rs2 : BitVec 5)
  /-- R253. Spawns a record to a named cluster. -/
  | spawnat (rs1 rs2 : BitVec 5)
  /-- R254. Ends the task after the end waits and signals its join or home. -/
  | tend (rs1 : BitVec 5)
  /-- R257. Initialises a join counter. -/
  | joininit (rs1 rs2 : BitVec 5)
  /-- R257. Adds to a join counter's count. -/
  | joinadd (rs1 rs2 : BitVec 5)
  /-- R257. Arms a join counter with a continuation, firing if already zero. -/
  | joinarm (rs1 rs2 : BitVec 5)
  /-- R266. Reads the cluster's pressure, distance and queue count. -/
  | press (rd : BitVec 5)
  /-- R276. Pushes a range onto the hart's deque. -/
  | dqpush (rs1 rs2 : BitVec 5)
  /-- R276. Pops the tail range of the deque. -/
  | dqpop (rd : BitVec 5)
  /-- R276. Splits the bottom range of the deque. -/
  | dqsplit
  /-- R277. Exports the larger half of the bottom range as a spawned RANGE record. -/
  | dqspill (rd rs1 : BitVec 5)
  /-- R280. Pushes a record into a ring, waiting for room. -/
  | rpush (rs1 rs2 : BitVec 5)
  /-- R281. Takes the next slot of a program-consumed ring. -/
  | rpop (rd rs1 rs2 : BitVec 5)
  /-- R281. Copies the next slot of a ring without consuming it. -/
  | rpeek (rd rs1 rs2 : BitVec 5)
  /-- R286. Arrives at and waits on a group barrier. -/
  | grpbar (rs1 : BitVec 5)
  /-- R292. Arms an x register for one deposit or takes a held deposit. -/
  | arm (rd : BitVec 5)
  /-- R293. Sends a 64-bit word deposit to a register or granule. -/
  | sendw (rs1 rs2 : BitVec 5)
  /-- R299. Sends a handler image to a target hart's inbox. -/
  | sendh (rs1 rs2 : BitVec 5)
  /-- R303. Returns from a handler or frees the error slot. -/
  | msgret
  /-- R308. Binds a stream register to an inbound or outbound channel. -/
  | chbind (v : BitVec 3) (rs1 : BitVec 5)
  /-- R311. Ends the task and sends its eight-register context to the owner core. -/
  | migrate (rs1 rs2 : BitVec 5)
  /-- R395. Rewrites a group entry across the region under a new version. -/
  | grpw (rs1 rs2 : BitVec 5)
  /-- R396. Multicasts 64 B to every member of a group. -/
  | mcw (rs1 rs2 : BitVec 5)
  /-- R397. Writes one job-key membership entry of the core or a gateway. -/
  | jkset (rs1 rs2 : BitVec 5)
  /-- R398. Rotates a fabric port's transmit key to its staged key. -/
  | keyrot (rs1 : BitVec 5)
  /-- R338. Issues one in-tile butterfly stage into an accumulator. -/
  | mstg (sx : BitVec 6) (sw : BitVec 5) (ac ms sc : BitVec 3)
  /-- R338. Issues one in-tile stage accumulating into an accumulator. -/
  | mstgAcc (sx : BitVec 6) (sw : BitVec 5) (ac ms sc : BitVec 3)
  /-- R338. Issues a cross-tile stage into an accumulator pair. -/
  | mxst (sx : BitVec 6) (sw : BitVec 5) (ac : BitVec 2) (ms sc : BitVec 3)
  /-- R338. Issues a cross-tile stage accumulating into an accumulator pair. -/
  | mxstAcc (sx : BitVec 6) (sw : BitVec 5) (ac : BitVec 2) (ms sc : BitVec 3)
  /-- R338. Issues a chain of stages ending in an accumulator. -/
  | mchain (sx : BitVec 6) (sw : BitVec 5) (ac ms sc : BitVec 3) (cf : ChainFmt)
  /-- R338. Issues a chain of stages accumulating into an accumulator. -/
  | mchainAcc (sx : BitVec 6) (sw : BitVec 5) (ac ms sc : BitVec 3) (cf : ChainFmt)
  /-- R321. Requests the cluster matrix engine lease for n commands. -/
  | mlease (rs1 : BitVec 5)
  /-- R321. Ends the core's lease. -/
  | mrel
  /-- R324. Maps free physical slots or accumulators to logical numbers. -/
  | oclaim (rd rs1 : BitVec 5)
  /-- R325. Unmaps logical slots or accumulators after their commands finish. -/
  | orel (rs1 rs2 : BitVec 5)
  /-- R343. Fills operand memory from a shaped source via the copy engine. -/
  | ofill (rs1 rs2 : BitVec 5)
  /-- R344. Drains an accumulator into memory with conversion. -/
  | odrain (rs1 rs2 : BitVec 5)
  /-- R344. Drains an accumulator and updates cvamax. -/
  | odrainAmax (rs1 rs2 : BitVec 5)
  /-- R328. Writes a stride register by computed index. -/
  | mstride (rs1 rs2 : BitVec 5)
  /-- R341. Zeroes a logical accumulator. -/
  | maccz (rs1 : BitVec 5)
  /-- R348. Waits for the hart's engine commands and reports a failure. -/
  | mwait
  /-- R361. Queues a sparse union merge. -/
  | mrgu (rs1 rs2 : BitVec 5)
  /-- R361. Queues a sparse union merge dropping zero sums. -/
  | mrguDz (rs1 rs2 : BitVec 5)
  /-- R363. Queues a sparse intersection dot product. -/
  | mrgi (rs1 rs2 : BitVec 5)
  /-- R366. Queues a dense or coordinate to CSR conversion. -/
  | scnv (rs1 rs2 : BitVec 5)
  /-- R369. Waits on a completion granule and returns its status. -/
  | scnvw (rd rs1 : BitVec 5)
  /-- R98. Clears loop level 0. -/
  | lclr0
  /-- R98. Clears loop level 1. -/
  | lclr1
  /-- R99. Safe point at which a pending pre-emption turns the task into a resume record. -/
  | safept (k : BitVec 10)
  /-- R74. Queues a scan that admits a range of instruction memory. -/
  | codecmt (rd rs1 : BitVec 5)
  /-- R109. Waits for an interrupt, a landing result, an inbox slot or an arrival. -/
  | wfm
  /-- R409. Mordant seals a worker core of its cluster. -/
  | cseal (rs1 : BitVec 5)
  /-- R410. Mordant resets, scans and unseals a sealed worker core. -/
  | crestart (rs1 : BitVec 5)
  /-- R69. Opens a signed block and compares the running CRC of the previous block. -/
  | sig (crc : BitVec 12) (e : Bool) (k : EndKind)
  /-- R95. Arms a hardware loop level. -/
  | hloop (level : Bool) (rs1 : BitVec 5) (soff : BitVec 2) (eoff : BitVec 10)
  /-- R64. Sets the pending format prefix for the next word. -/
  | fmt (fa fb fd : Fmt) (sm : ScaleMode)
  /-- R106. An enabled pending interrupt is taken at an instruction boundary, saving prefix and checker state. -/
  | trapEntry (h : Nat)
  /-- R110. The cycle counter reaches stimecmp and LTIP is set in the next cycle. -/
  | localTimer (h : Nat)
  /-- R110. A write to stimecmp re-arms the timer and may clear LTIP. -/
  | stimecmpWrite (h : Nat) (v : BitVec 64)
  /-- R163. A write to srseed sets the LFSR state, zero kept as 1. -/
  | srseedWrite (h : Nat) (v : BitVec 64)
  /-- R164. A CSR access to cvamax, cvamax_flags or srseed waits for earlier conversions and drains. -/
  | cvamaxAccess (h : Nat) (csr : BitVec 12) (wr : Option (BitVec 64))
  /-- R8. A write to any register without a row of its own, applying its access type. -/
  | registerWrite (h : Nat) (csr : BitVec 12) (v : BitVec 64)
  /-- R28. A load or store through the core window reads or writes a hart's CSR. -/
  | windowCsrAccess (c addr : Nat) (wr : Option (BitVec 64))
  /-- R27. A window write to instruction memory clears the word's executable attribute. -/
  | windowImemWrite (c off : Nat) (bytes : List (BitVec 8))
  /-- R74. The scanner takes a queued CODECMT, reads its descriptor and clears the range's attributes. -/
  | codeScanStart (c : Nat)
  /-- R74. The scan completes, setting attributes or a rejection result and updating the code-object store. -/
  | codecmtCompletion (c : Nat)
  /-- R125. A source stream's image fetch returns, with data or a fault. -/
  | streamImageFetch (h v : Nat)
  /-- R124. A destination stream image is handed to its bank or network interface. -/
  | streamImageStore (h v : Nat)
  /-- R214. A load, store or AMO packet arrives at its home bank and is performed. -/
  | remoteRequest (p : Nat)
  /-- R89. A reply lands and completes a held instruction, possibly with a precise fault. -/
  | replyLanding (p : Nat)
  /-- R90. An acknowledgement of a posted write arrives, recording any failure for deferral. -/
  | storeAck (p : Nat)
  /-- R306. An error reply replaces data for an unservable request. -/
  | errorReply (p : Nat)
  /-- R203. A gather lane's reply lands and writes its lane or records a failure. -/
  | gatherLaneReply (p : Nat)
  /-- R178. A translation station receives a virtual access, translates it and forwards it. -/
  | virtualAccess (p : Nat)
  /-- R181. The host's PRI response resumes or refuses the parked accesses. -/
  | priResponse (die station slot page : Nat) (success : Bool)
  /-- R182. An ATS Translation completion arrives and is cached or treated as a fault. -/
  | atsCompletion (die station slot page : Nat) (frame : Option Nat) (writable : Bool)
  /-- R182. The host's invalidation drops cached translations once accesses under them finish. -/
  | atsInvalidation (slot page : Nat)
  /-- R199. A full-empty request reaches the target and is served or joins the waiter list. -/
  | feRequest (p : Nat)
  /-- R199. A waiting full-empty request passes fe_limit and the issuer faults. -/
  | feTimeout (p : Nat)
  /-- R199. An interrupt makes the hart withdraw its waiting full-empty request. -/
  | feWithdraw (h : Nat)
  /-- R37. A freed queue place of a shared engine goes to the next stalled core in rotation. -/
  | engineQueueGrant (clu : Nat) (eng : Engine)
  /-- R207. The copy engine completes or fails a copy and releases its locks. -/
  | copyCompletion (clu : Nat)
  /-- R247. A cluster's read of a task-type entry returns and is cached or treated as a loss. -/
  | typeEntryRead (clu handle ty : Nat)
  /-- R262. A record enters a cluster and is accepted or forwarded by the gradient rule. -/
  | taskRecordArrival (p : Nat)
  /-- R262. A record waiting for a queue place or tile group is accepted when one frees. -/
  | taskBufferAccept (clu : Nat)
  /-- R271. The home records which cluster accepted a record. -/
  | acceptanceNotice (p : Nat)
  /-- R260. Every 64 router cycles a gradient unit sends (P, d) to its neighbours. -/
  | beaconInterval (clu : Nat)
  /-- R260. A beacon arrives and the receiver recomputes its distance. -/
  | beacon (p : Nat)
  /-- R260. A neighbour silent for 256 router cycles counts as infinite pressure. -/
  | neighbourSilence (clu nbr : Nat)
  /-- R267. The dispatcher starts a queued record, tile, resume record or arrival on a free hart. -/
  | dispatch (clu : Nat)
  /-- R270. After 2,048 cycles unplaced, the dispatcher sets PRIP on a lower-priority hart. -/
  | preemptionRequest (clu : Nat)
  /-- R258. An arrival decrements a join counter after serial deduplication. -/
  | dec (p : Nat)
  /-- R257. A posted JOININIT, JOINADD or JOINARM is applied at the counter's core. -/
  | joinOpArrival (p : Nat)
  /-- R271. A RELEASE finishes a copy at the home and may drop the retention entry. -/
  | release (p : Nat)
  /-- R272. An UNPIN unpins a key in the counter cluster's serial window. -/
  | unpin (p : Nat)
  /-- R275. A LOST notice makes the home re-spawn or report the lost copy. -/
  | lost (p : Nat)
  /-- R274. The saffron controller's notice makes homes treat copies on the failed die as lost. -/
  | dieFailureNotice (die : Nat)
  /-- R274. A copy with no acceptance notice 4,096 cycles after a die failure is taken as lost. -/
  | acceptanceTimeout (clu ser : Nat)
  /-- R282. A dispatcher notified of a device ring takes its slots. -/
  | ringNotify (p : Nat)
  /-- R282. Every 256 cycles a dispatcher polls the host work rings of its harts. -/
  | hostRingPoll (n : Nat)
  /-- R283. A launch record is installed in its region and its root spawned. -/
  | launchStart (p : Nat)
  /-- R285. The root receives the launch-end notice and sends collect down the tree. -/
  | launchEndNotice (p : Nat)
  /-- R285. A collect message reaches a cluster of the completion tree. -/
  | collect (p : Nat)
  /-- R285. A cluster's done message reaches its parent with the ORed status. -/
  | done (p : Nat)
  /-- R285. Every 256 cycles the root rereads a full completion ring. -/
  | completionRingRetry (handle : Nat)
  /-- R294. A deposit lands in an armed register or granule, or is held or refused. -/
  | depositArrival (p : Nat)
  /-- R294. A held deposit past fe_limit is refused. -/
  | depositHoldTimeout (p : Nat)
  /-- R297. A read waiting on an armed register or inbound channel passes fe_limit. -/
  | armedReadTimeout (h : Nat)
  /-- R299. A handler message takes a free slot or is refused. -/
  | handlerMessageArrival (p : Nat)
  /-- R299. Every 256 router cycles a refused handler message is resent. -/
  | handlerResend (p : Nat)
  /-- R299. Past fe_limit the sender stops resending and writes an error record of kind 4. -/
  | handlerResendTimeout (p : Nat)
  /-- R300. The scanner finishes checking a placed handler and admits or rejects it. -/
  | handlerScan (c slot : Nat)
  /-- R303. A hart enters its oldest scanned handler at an instruction boundary. -/
  | handlerEntry (h : Nat)
  /-- R309. A channel packet is accepted into or refused by an inbound binding. -/
  | channelPacketArrival (p : Nat)
  /-- R310. Every 256 router cycles unacknowledged channel images are resent. -/
  | channelResend (h v : Nat)
  /-- R310. An image unacknowledged past fe_limit gets an error acknowledgement. -/
  | channelImageTimeout (p : Nat)
  /-- R312. A migrated context lands in the arrival queue or spill list, or is refused. -/
  | contextArrival (p : Nat)
  /-- R312. Every 256 router cycles a refused context is resent. -/
  | contextResend (p : Nat)
  /-- R312. The oldest spilled context returns to the arrival queue. -/
  | spillRefill (c : Nat)
  /-- R319. The engine grants the lease to the next requesting core. -/
  | leaseGrant (clu : Nat)
  /-- R319. A lease ends after 4,096 idle cycles while another core waits. -/
  | leaseIdleTimeout (clu : Nat)
  /-- R350. The matrix engine begins a queued command once free and its fills are done. -/
  | engineCommandStart (clu : Nat)
  /-- R350. A matrix command completes 24 cycles after its last engine cycle. -/
  | engineCommandCompletion (clu : Nat)
  /-- R345. A drain completes, updating conversion flags and cvamax. -/
  | drainCompletion (clu : Nat)
  /-- R348. A fill or drain fails, recording the failure and discarding later commands. -/
  | engineCommandFailure (clu : Nat)
  /-- R325. Released slots and accumulators finish clearing and become free. -/
  | slotClearDone (clu : Nat)
  /-- R373. The merge unit or conversion engine begins a queued command. -/
  | sparseCommandStart (clu : Nat) (eng : Engine)
  /-- R359. A sparse command writes its completion granule after its other writes. -/
  | sparseCommandCompletion (clu : Nat) (eng : Engine)
  /-- R369. An SCNVW wait passes fe_limit and raises FE_TIMEOUT. -/
  | scnvwTimeout (h : Nat)
  /-- R252. A spawn wait passes fe_limit and raises SPAWN_LIMIT 0x03. -/
  | spawnWaitTimeout (h : Nat)
  /-- R280. An RPUSH wait for room passes fe_limit and raises RING 0x04. -/
  | ringWaitTimeout (h : Nat)
  /-- R381. A link receives a flit, checks it and joins its reassembly context. -/
  | flitReceive (l : Nat) (flit : List (BitVec 8))
  /-- R381. A received NAK makes the sender replay from the named flit. -/
  | nak (l lseq : Nat)
  /-- R382. After 32 router cycles without reverse traffic a link-control flit acknowledges. -/
  | linkControlFlit (l : Nat)
  /-- R384. A link silent for 2,048 router cycles is dropped and retrained. -/
  | linkDrop (l : Nat)
  /-- R384. A dropped link completes retraining. -/
  | linkRetrained (l : Nat)
  /-- R384. A bridge channel that fails to retrain in 4,096 router cycles is retired. -/
  | retrainTimeout (l : Nat)
  /-- R388. A gateway receives a peer packet and delivers or discards it by ESEQ. -/
  | gatewayPacketArrival (port eseq : Nat) (bytes : List (BitVec 8))
  /-- R388. A SACK arrives and the sender drops covered packets from its store. `port`: the port, plus 16 times the number of the
  package it comes from. -/
  | sack (port base : Nat) (bitmap : BitVec 64)
  /-- R388. Every 1,024 router cycles with a bit set the receiver sends a SACK. -/
  | sackTimer (port peer : Nat)
  /-- R388. An unacknowledged packet is resent 16,384 router cycles after its last send. `port`: the port, plus 16 times the number
  of the package it goes to. -/
  | e2eResend (port eseq : Nat)
  /-- R389. After 8 resends the gateway declares the peer unreachable. -/
  | peerUnreachable (port peer : Nat)
  /-- R396. A multicast copy writes 64 B at a member and sets the granules full. -/
  | mcwCopyArrival (p : Nat)
  /-- R395. A cluster installs a new group entry version. -/
  | groupInstall (p : Nat)
  /-- R395. The rewrite completes once all clusters hold the version and old packets are delivered. -/
  | grpwCompletion (h : Nat)
  /-- R399. The peer acknowledges the first flit of the new key generation. -/
  | keyrotCompletion (port : Nat)
  /-- R398. A KEYROT wait for a staged key passes fe_limit. -/
  | keyrotTimeout (h : Nat)
  /-- R423. A voltage sag stretches a cluster's core clock. -/
  | droopStretch (clu : Nat) (half : Bool)
  /-- R423. After 256 clean cycles the cluster clock returns to full rate. -/
  | droopRecover (clu : Nat)
  /-- R412. A die that misses the watchdog for 1 ms is retired. -/
  | saffronWatchdog (die : Nat)
  /-- R188. The Mordant core's bank-repair request retires a bank at a cycle boundary. -/
  | bankRetire (c bank : Nat)
  /-- R425. Power-on brings the device up through measurement, firmware load and port training. -/
  | powerOn (pkg : Nat) (mordantFw hartFw : List (BitVec 32))
  /-- R413. A host CXL.mem access is served at the HBM controller. -/
  | cxlMemAccess (port addr len : Nat) (wr : Option (List (BitVec 8)))
  /-- R414. Writing CMDRING starts the 1 µs command-ring polling. -/
  | cmdringWrite (v : BitVec 64)
  /-- R414. Every 1 µs the saffron controller polls the command ring. -/
  | cmdRingPoll
  /-- R417. Maps a PASID to the lowest free process slot. -/
  | attach (tag pasid mode root : Nat)
  /-- R418. Frees a process slot and refuses its parked accesses. -/
  | detach (tag slot : Nat)
  /-- R419. Binds a host work ring to a hart and process slot. -/
  | ringbind (tag n slot desc : Nat)
  /-- R420. Ends a live launch that cannot complete. -/
  | endlaunch (tag slot root lseq : Nat)
  /-- R412. Host-commanded retirement of a bank, core, cluster, die, channel or port. -/
  | retire (tag kind unit : Nat)
  /-- R424. Reloads a cluster's Mordant firmware and updates its measurement. -/
  | reload (tag die clu addr len : Nat)
  /-- R421. Copies device memory to host memory. -/
  | chkpt (tag base len off : Nat)
  /-- R421. Copies host memory back into device memory. -/
  | restore (tag base len off : Nat)
  /-- R416. Writes a 1,024-B counter snapshot of a cluster to host memory. -/
  | counters (tag die clu buf : Nat)
  /-- R424. SPDM request for supported versions. -/
  | getVersion
  /-- R424. SPDM request for capabilities. -/
  | getCapabilities
  /-- R424. SPDM algorithm negotiation. -/
  | negotiateAlgorithms (request : List (BitVec 8))
  /-- R424. SPDM request for certificate digests. -/
  | getDigests
  /-- R424. SPDM request for a certificate chain. -/
  | getCertificate (slot off len : Nat)
  /-- R424. SPDM challenge signed with ECDSA P-384. -/
  | challenge (nonce : List (BitVec 8))
  /-- R424. SPDM request for the SHA-384 measurements. -/
  | getMeasurements (index : Nat) (nonce : List (BitVec 8))
  /-- R180. A CXL port goes down, or comes back, and host-memory traffic of its dies moves to the other port or returns. -/
  | cxlPortDown (port : Nat) (up : Bool)
  /-- R398. The saffron controller stages the next transmit key of a fabric port at both ends. -/
  | keyStaging (port key : Nat)
  /-- R389. The saffron controller resets an unreachable fabric peer, restoring its sequence state and its port toward the gradient. -/
  | fabricPeerReset (port peer : Nat)
  /-- R412. A cluster whose Mordant core or router fails, or which has 8 retired cores, is retired: P becomes 0xFFFF and its records become lost. -/
  | clusterFailure (clu : Nat)
  /-- R412. A Spaust lane whose error rate exceeds the training limit is retired and the port runs on fewer lanes, or goes down after two. -/
  | spaustLaneFailure (port : Nat)
  /-- R421. A checkpoint or restore copy of device memory finishes, seconds after it began, and its response with the bytes moved is pushed. -/
  | chkptCompletion
  /-- R414. The host programs its HDM decoders, which sets HDMBASE and the window that stations use to tell device memory from host memory. -/
  | hdmDecoderSet (base : Nat)
  deriving DecidableEq, Repr

end Sys2Proof
end

