-- ==== Sys2Proof/Decode.lean ====
section
/-! DEFINITION. The decoder, total on every word, and the encoder, both written from the encoding
tables of R38 to R66. A word that is no instruction is rejected under the scanner's reason (R75). -/

namespace Sys2Proof

/-- Why a word is no instruction: `notInstr` is reason 0x01, `badPayload` reason 0x03 (R62, R75). -/
inductive Reject | notInstr | badPayload
  deriving DecidableEq, Repr

/-- The word rows of the opcode table, without operands. Lean's compiler makes no object of a
constructor past the 244th of a type, so what the machine computes from a word (the scan, the
registers it names) goes by `Op`; the definitions that build an `Instr` stand in a noncomputable
section, and the kernel evaluates them. -/
inductive Op
  | lui | auipc | jal | jalr | beq | bne | blt | bge | bltu | bgeu | lb | lh | lw | ld | lbu | lhu |
  lwu | sb | sh | sw | sd | addi | slti | sltiu | xori | ori | andi | slli | srli | srai | add | sub
  | sll | slt | sltu | xor | srl | sra | or | and | addiw | slliw | srliw | sraiw | addw | subw |
  sllw | srlw | sraw | fence | fenceTso | pause | ecall | ebreak | mul | mulh | mulhsu | mulhu | div
  | divu | rem | remu | mulw | divw | divuw | remw | remuw | lrW | lrD | scW | scD | amoSwapW |
  amoSwapD | amoAddW | amoAddD | amoXorW | amoXorD | amoAndW | amoAndD | amoOrW | amoOrD | amoMinW |
  amoMinD | amoMaxW | amoMaxD | amoMinuW | amoMinuD | amoMaxuW | amoMaxuD | flw | fsw | fmaddS |
  fmsubS | fnmsubS | fnmaddS | faddS | fsubS | fmulS | fdivS | fsqrtS | fsgnjS | fsgnjnS | fsgnjxS |
  fminS | fmaxS | fcvtWS | fcvtWuS | fcvtLS | fcvtLuS | fcvtSW | fcvtSWu | fcvtSL | fcvtSLu | fmvXW
  | fmvWX | feqS | fltS | fleS | fclassS | csrrw | csrrs | csrrc | csrrwi | csrrsi | csrrci | mret |
  sret | wfi | vadd | vsub | vmul | vfma | vfms | vmin | vmax | vdot4 | vcmp | vshl | vshr | vsra |
  vand | vor | vxor | vperm | vabs | vneg | vmov | vexp2 | vlog2 | vrcp | vrsq | vrsum | vrmax |
  vrmin | vidx | vsplat | vbcast | vslideDn | vslideUp | vcvt | vquant | vdeq | tbld | cbld | srseed
  | vld | vst | vlds | vsts | sbindSrc | sbindDst | sunbind | vsel | mand | mor | mxor | mnot | mpop
  | vloop | bqput | bqget | ldFeKeep | ldFeClr | stFe | fesetEmpty | fesetFull | feqry | gathA |
  gathX | scatA | scatX | cpy | cpyw | fenceScoped | lda | strl | fxadd | fxrd | fxrdLo | fxrdHi |
  fxclr | rlqry | amoAddScoped | amoSwapScoped | amoAndScoped | amoOrScoped | amoXorScoped |
  amoMinScoped | amoMaxScoped | amoMinuScoped | amoMaxuScoped | amoCasScoped | spawn | spawnNb |
  spawnr | spawnat | tend | joininit | joinadd | joinarm | press | dqpush | dqpop | dqsplit |
  dqspill | rpush | rpop | rpeek | grpbar | arm | sendw | sendh | msgret | chbind | migrate | grpw |
  mcw | jkset | keyrot | mstg | mstgAcc | mxst | mxstAcc | mchain | mchainAcc | mlease | mrel |
  oclaim | orel | ofill | odrain | odrainAmax | mstride | maccz | mwait | mrgu | mrguDz | mrgi |
  scnv | scnvw | lclr0 | lclr1 | safept | codecmt | wfm | cseal | crestart | sig | hloop | fmt
  deriving DecidableEq, Repr

/-- Bits lo .. lo+n-1 of a word. -/
def fld (w lo n : Nat) : Nat := w / 2 ^ lo % 2 ^ n

/-- A register field. -/
def r5 (n : Nat) : BitVec 5 := BitVec.ofNat 5 n

/-- A word from its value. -/
def w32 (n : Nat) : W32 := BitVec.ofNat 32 n

/-- Accept under a condition. -/
def when? (b : Bool) (i : Op) : Option Op := if b then some i else none

/-- The CSRs of R83 and R85 by number. -/
def csrPresent (n : Nat) : Bool :=
  (1 ≤ n && n ≤ 3) || n == 0xC00 || n == 0xC01 || n == 0x100 || n == 0x104 || n == 0x144 || n == 0x105
  || n == 0x106 || (0x140 ≤ n && n ≤ 0x143) || n == 0x14D || (0xF11 ≤ n && n ≤ 0xF15)
  || (0x300 ≤ n && n ≤ 0x306) || n == 0x344 || n == 0x30A || (0x340 ≤ n && n ≤ 0x343)
  || n == 0xB00 || (0x800 ≤ n && n ≤ 0x802) || (0x810 ≤ n && n ≤ 0x815) || (0x820 ≤ n && n ≤ 0x827)
  || (0xCC0 ≤ n && n ≤ 0xCC3) || (0xCC5 ≤ n && n ≤ 0xCC7) || (0xCE0 ≤ n && n ≤ 0xCFF)
  || n == 0x5C0 || (0x7C0 ≤ n && n ≤ 0x7C7) || n == 0xFC0

/-- Read-only by the CSR-number convention (R27, R40). -/
def csrReadOnly (n : Nat) : Bool := n / 1024 == 3

/-- A Zicsr word is an instruction (R40): the CSR exists and no visible write reaches a read-only one. -/
def csrOk (n : Nat) (visibleWrite : Bool) : Bool := csrPresent n && !(csrReadOnly n && visibleWrite)

/-- funct3 type codes (R47). -/
def VType.code : VType → Nat
  | .i32 => 0
  | .n32 => 1
  | .f32 => 2
  | .bf16 => 3
  | .f16 => 4
  | .i16 => 5
  | .i8 => 6
  | .pre => 7

/-- The inverse of `VType` codes; a code not listed is rejected. -/
def VType.ofCode : Nat → Option VType
  | 0 => some .i32
  | 1 => some .n32
  | 2 => some .f32
  | 3 => some .bf16
  | 4 => some .f16
  | 5 => some .i16
  | 6 => some .i8
  | 7 => some .pre
  | _ => none

/-- Format codes of an FMT payload (R62). -/
def Fmt.code : Fmt → Nat
  | .i8 => 0
  | .n8 => 1
  | .i16 => 2
  | .n16 => 3
  | .i32 => 4
  | .n32 => 5
  | .f32 => 6
  | .bf16 => 7
  | .f16 => 8
  | .e4m3 => 9
  | .e5m2 => 10
  | .t4 => 11
  | .cb2 => 12
  | .none => 15

/-- The inverse of `Fmt` codes; a code not listed is rejected. -/
def Fmt.ofCode : Nat → Option Fmt
  | 0 => some .i8
  | 1 => some .n8
  | 2 => some .i16
  | 3 => some .n16
  | 4 => some .i32
  | 5 => some .n32
  | 6 => some .f32
  | 7 => some .bf16
  | 8 => some .f16
  | 9 => some .e4m3
  | 10 => some .e5m2
  | 11 => some .t4
  | 12 => some .cb2
  | 15 => some Fmt.none
  | _ => Option.none

/-- Scale-mode codes (R62). -/
def ScaleMode.code : ScaleMode → Nat
  | .plain => 0
  | .src => 1
  | .dst => 2

/-- The inverse of `ScaleMode` codes; a code not listed is rejected. -/
def ScaleMode.ofCode : Nat → Option ScaleMode
  | 0 => some .plain
  | 1 => some .src
  | 2 => some .dst
  | _ => none

/-- Scope codes (R51). -/
def Scope.code : Scope → Nat
  | .core => 0
  | .clu => 1
  | .die => 2
  | .pkg => 3
  | .sys => 4

/-- The inverse of `Scope` codes; a code not listed is rejected. -/
def Scope.ofCode : Nat → Option Scope
  | 0 => some .core
  | 1 => some .clu
  | 2 => some .die
  | 3 => some .pkg
  | 4 => some .sys
  | _ => none

/-- Fence kind codes (R51). -/
def FKind.code : FKind → Nat
  | .acq => 0
  | .rel => 1
  | .full => 2

/-- The inverse of `FKind` codes; a code not listed is rejected. -/
def FKind.ofCode : Nat → Option FKind
  | 0 => some .acq
  | 1 => some .rel
  | 2 => some .full
  | _ => none

/-- Width codes of LDA and STRL (R51). -/
def MemW.code : MemW → Nat
  | .d => 0
  | .w => 1

/-- The inverse of `MemW` codes; a code not listed is rejected. -/
def MemW.ofCode : Nat → Option MemW
  | 0 => some .d
  | 1 => some .w
  | _ => none

/-- Lane-width codes (R49). -/
def VWidth.code : VWidth → Nat
  | .w8 => 0
  | .w16 => 1
  | .w32 => 2

/-- The inverse of `VWidth` codes; a code not listed is rejected. -/
def VWidth.ofCode : Nat → Option VWidth
  | 0 => some .w8
  | 1 => some .w16
  | 2 => some .w32
  | _ => none

/-- Rounding-mode codes of the F extension (R39, R40). -/
def Rm.code : Rm → Nat
  | .rne => 0
  | .rtz => 1
  | .rdn => 2
  | .rup => 3
  | .rmm => 4
  | .dyn => 7

/-- The inverse of `Rm` codes; a code not listed is rejected. -/
def Rm.ofCode : Nat → Option Rm
  | 0 => some .rne
  | 1 => some .rtz
  | 2 => some .rdn
  | 3 => some .rup
  | 4 => some .rmm
  | 7 => some .dyn
  | _ => none

/-- Rounding-mode codes of the conversion group (R48). -/
def CvRm.code : CvRm → Nat
  | .rne => 0
  | .rtz => 1
  | .sr => 2

/-- The inverse of `CvRm` codes; a code not listed is rejected. -/
def CvRm.ofCode : Nat → Option CvRm
  | 0 => some .rne
  | 1 => some .rtz
  | 2 => some .sr
  | _ => none

/-- Condition codes of VCMP (R48). -/
def Cc.code : Cc → Nat
  | .eq => 0
  | .ne => 1
  | .lt => 2
  | .le => 3

/-- The inverse of `Cc` codes; a code not listed is rejected. -/
def Cc.ofCode : Nat → Option Cc
  | 0 => some .eq
  | 1 => some .ne
  | 2 => some .lt
  | 3 => some .le
  | _ => none

/-- Chain-format codes (R55). -/
def ChainFmt.code : ChainFmt → Nat
  | .f32 => 0
  | .bf16 => 1
  | .bf16sr => 2

/-- The inverse of `ChainFmt` codes; a code not listed is rejected. -/
def ChainFmt.ofCode : Nat → Option ChainFmt
  | 0 => some .f32
  | 1 => some .bf16
  | 2 => some .bf16sr
  | _ => none

/-- End-kind codes (R66). -/
def EndKind.code : EndKind → Nat
  | .plain => 0
  | .branch => 1
  | .jal => 2
  | .jalr => 3
  | .trap => 4
  | .loop => 5
  | .task => 6

/-- The inverse of `EndKind` codes; a code not listed is rejected. -/
def EndKind.ofCode : Nat → Option EndKind
  | 0 => some .plain
  | 1 => some .branch
  | 2 => some .jal
  | 3 => some .jalr
  | 4 => some .trap
  | 5 => some .loop
  | 6 => some .task
  | _ => none

/-- Integer types of a custom-0 word (R48). -/
def VType.isInt : VType → Bool
  | .i32 | .n32 | .i16 | .i8 | .pre => true
  | .f32 | .bf16 | .f16 => false

/-- Floating types of a custom-0 word (R48). -/
def VType.isFloat : VType → Bool
  | .f32 | .bf16 | .f16 | .pre => true
  | .i32 | .n32 | .i16 | .i8 => false

/-- Types of VABS and VNEG (R48). -/
def VType.isSigned : VType → Bool
  | .n32 => false
  | _ => true

/-- Element width in bits (R112). -/
def Fmt.width : Fmt → Nat
  | .i32 | .n32 | .f32 => 32
  | .i16 | .n16 | .bf16 | .f16 | .cb2 => 16
  | .i8 | .n8 | .e4m3 | .e5m2 => 8
  | .t4 => 4
  | .none => 32

def Fmt.isInt : Fmt → Bool
  | .i8 | .n8 | .i16 | .n16 | .i32 | .n32 => true
  | _ => false
def Fmt.isFlt : Fmt → Bool
  | .f32 | .bf16 | .f16 => true
  | _ => false
/-- Signed integer formats. -/
def Fmt.isSig : Fmt → Bool
  | .i8 | .i16 | .i32 => true
  | _ => false
def Fmt.isF8 : Fmt → Bool
  | .e4m3 | .e5m2 => true
  | _ => false

/-- The format of a short type code. -/
def VType.fmt : VType → Fmt
  | .i32 => .i32
  | .n32 => .n32
  | .f32 => .f32
  | .bf16 => .bf16
  | .f16 => .f16
  | .i16 => .i16
  | .i8 => .i8
  | .pre => .none

/-- Accept a typed word when its type code is admitted. -/
def typed (f3 : Nat) (ok : VType → Bool) (k : Op) : Option Op :=
  match VType.ofCode f3 with
  | some t => when? (ok t) k
  | none => none

/-- Accept a word with a lane width. -/
def widthed (c : Nat) (k : Op) : Option Op := when? (VWidth.ofCode c).isSome k

/-- Accept a word with a rounding mode. -/
def rounded (c : Nat) (k : Op) : Option Op := when? (Rm.ofCode c).isSome k

/-- OP (R39): funct7, funct3. -/
def decOp (f7 f3 : Nat) : Option Op :=
  match f7, f3 with
  | 0, 0 => some .add
  | 0x20, 0 => some .sub
  | 0, 1 => some .sll
  | 0, 2 => some .slt
  | 0, 3 => some .sltu
  | 0, 4 => some .xor
  | 0, 5 => some .srl
  | 0x20, 5 => some .sra
  | 0, 6 => some .or
  | 0, 7 => some .and
  | 1, 0 => some .mul
  | 1, 1 => some .mulh
  | 1, 2 => some .mulhsu
  | 1, 3 => some .mulhu
  | 1, 4 => some .div
  | 1, 5 => some .divu
  | 1, 6 => some .rem
  | 1, 7 => some .remu
  | _, _ => none

/-- OP-32 (R39). -/
def decOp32 (f7 f3 : Nat) : Option Op :=
  match f7, f3 with
  | 0, 0 => some .addw
  | 0x20, 0 => some .subw
  | 0, 1 => some .sllw
  | 0, 5 => some .srlw
  | 0x20, 5 => some .sraw
  | 1, 0 => some .mulw
  | 1, 4 => some .divw
  | 1, 5 => some .divuw
  | 1, 6 => some .remw
  | 1, 7 => some .remuw
  | _, _ => none

/-- OP-IMM (R39): the shifts hold funct6 in [31:26]. -/
def decOpImm (imm f3 : Nat) : Option Op :=
  match f3 with
  | 0 => some .addi
  | 1 => when? (imm / 64 == 0) .slli
  | 2 => some .slti
  | 3 => some .sltiu
  | 4 => some .xori
  | 5 =>
    if imm / 64 == 0 then some .srli
    else when? (imm / 64 == 0x10) .srai
  | 6 => some .ori
  | 7 => some .andi
  | _ => none

/-- OP-IMM-32 (R39). -/
def decOpImm32 (imm f3 : Nat) : Option Op :=
  match f3 with
  | 0 => some .addiw
  | 1 => when? (imm / 32 == 0) .slliw
  | 5 =>
    if imm / 32 == 0 then some .srliw
    else when? (imm / 32 == 0x20) .sraiw
  | _ => none

/-- LOAD (R39). -/
def decLoad (f3 : Nat) : Option Op :=
  match f3 with
  | 0 => some .lb
  | 1 => some .lh
  | 2 => some .lw
  | 3 => some .ld
  | 4 => some .lbu
  | 5 => some .lhu
  | 6 => some .lwu
  | _ => none

/-- STORE (R39). -/
def decStore (f3 : Nat) : Option Op :=
  match f3 with
  | 0 => some .sb
  | 1 => some .sh
  | 2 => some .sw
  | 3 => some .sd
  | _ => none

/-- BRANCH (R39). -/
def decBranch (f3 : Nat) : Option Op :=
  match f3 with
  | 0 => some .beq
  | 1 => some .bne
  | 4 => some .blt
  | 5 => some .bge
  | 6 => some .bltu
  | 7 => some .bgeu
  | _ => none

/-- MISC-MEM (R39, R40): FENCE whatever its other fields hold, FENCE.TSO and PAUSE by their words. -/
def decFence (f12 a f3 rd : Nat) : Option Op :=
  if f3 != 0 then none
  else if f12 == 0x010 && a == 0 && rd == 0 then some .pause
  else if f12 == 0x833 then some .fenceTso
  else some .fence

/-- SYSTEM (R39, R40). -/
def decSystem (f12 a f3 rd : Nat) : Option Op :=
  match f3 with
  | 0 =>
    if a != 0 || rd != 0 then none
    else match f12 with
      | 0x000 => some .ecall
      | 0x001 => some .ebreak
      | 0x302 => some .mret
      | 0x102 => some .sret
      | 0x105 => some .wfi
      | _ => none
  | 1 => when? (csrOk f12 true) .csrrw
  | 2 => when? (csrOk f12 (a != 0)) .csrrs
  | 3 => when? (csrOk f12 (a != 0)) .csrrc
  | 5 => when? (csrOk f12 true) .csrrwi
  | 6 => when? (csrOk f12 (a != 0)) .csrrsi
  | 7 => when? (csrOk f12 (a != 0)) .csrrci
  | _ => none

/-- AMO (R39): LR needs rs2 = 0. -/
def decAmo (f5 b f3 : Nat) : Option Op :=
  match f3, f5 with
  | 2, 2 => when? (b == 0) .lrW
  | 2, 3 => some .scW
  | 2, 0 => some .amoAddW
  | 2, 1 => some .amoSwapW
  | 2, 4 => some .amoXorW
  | 2, 12 => some .amoAndW
  | 2, 8 => some .amoOrW
  | 2, 16 => some .amoMinW
  | 2, 20 => some .amoMaxW
  | 2, 24 => some .amoMinuW
  | 2, 28 => some .amoMaxuW
  | 3, 2 => when? (b == 0) .lrD
  | 3, 3 => some .scD
  | 3, 0 => some .amoAddD
  | 3, 1 => some .amoSwapD
  | 3, 4 => some .amoXorD
  | 3, 12 => some .amoAndD
  | 3, 8 => some .amoOrD
  | 3, 16 => some .amoMinD
  | 3, 20 => some .amoMaxD
  | 3, 24 => some .amoMinuD
  | 3, 28 => some .amoMaxuD
  | _, _ => none

/-- OP-FP, S forms (R39): `f7` is [31:25]. -/
def decFp (f7 b f3 : Nat) : Option Op :=
  match f7 with
  | 0x00 => rounded f3 .faddS
  | 0x04 => rounded f3 .fsubS
  | 0x08 => rounded f3 .fmulS
  | 0x0C => rounded f3 .fdivS
  | 0x2C => if b == 0 then rounded f3 .fsqrtS else none
  | 0x10 =>
    match f3 with
    | 0 => some .fsgnjS
    | 1 => some .fsgnjnS
    | 2 => some .fsgnjxS
    | _ => none
  | 0x14 =>
    match f3 with
    | 0 => some .fminS
    | 1 => some .fmaxS
    | _ => none
  | 0x60 =>
    match b with
    | 0 => rounded f3 .fcvtWS
    | 1 => rounded f3 .fcvtWuS
    | 2 => rounded f3 .fcvtLS
    | 3 => rounded f3 .fcvtLuS
    | _ => none
  | 0x68 =>
    match b with
    | 0 => rounded f3 .fcvtSW
    | 1 => rounded f3 .fcvtSWu
    | 2 => rounded f3 .fcvtSL
    | 3 => rounded f3 .fcvtSLu
    | _ => none
  | 0x70 =>
    if b != 0 then none
    else match f3 with
      | 0 => some .fmvXW
      | 1 => some .fclassS
      | _ => none
  | 0x50 =>
    match f3 with
    | 0 => some .fleS
    | 1 => some .fltS
    | 2 => some .feqS
    | _ => none
  | 0x78 => when? (b == 0 && f3 == 0) .fmvWX
  | _ => none

/-- The fused F forms (R39): fmt in [26:25] is 00. -/
def decFma (major fmt f3 : Nat) : Option Op :=
  if fmt != 0 then none
  else match major with
    | 0x43 => rounded f3 .fmaddS
    | 0x47 => rounded f3 .fmsubS
    | 0x4B => rounded f3 .fnmsubS
    | 0x4F => rounded f3 .fnmaddS
    | _ => none

/-- The unary group of custom-0 (R48): `b` is the sub-op. -/
def decUnary (b a f3 : Nat) : Option Op :=
  match b with
  | 0 => typed f3 VType.isSigned .vabs
  | 1 => typed f3 VType.isSigned .vneg
  | 2 => typed f3 (fun _ => true) .vmov
  | 3 => typed f3 VType.isFloat .vexp2
  | 4 => typed f3 VType.isFloat .vlog2
  | 5 => typed f3 VType.isFloat .vrcp
  | 6 => typed f3 VType.isFloat .vrsq
  | 7 => typed f3 (fun _ => true) .vrsum
  | 8 => typed f3 (fun _ => true) .vrmax
  | 9 => typed f3 (fun _ => true) .vrmin
  | 10 => if a == 0 then typed f3 (fun _ => true) .vidx else none
  | 11 => typed f3 (fun _ => true) .vsplat
  | 12 => typed f3 (fun _ => true) .vbcast
  | _ => none

/-- The conversion group of custom-0 (R48). -/
def decConv (c b f3 d : Nat) : Option Op :=
  match f3 with
  | 0 => if b % 2 == 0 then when? (CvRm.ofCode (b / 8)).isSome .vcvt else none
  | 1 => if b % 2 == 0 then when? (CvRm.ofCode (b / 8)).isSome .vquant else none
  | 2 => if b % 2 == 0 then when? (CvRm.ofCode (b / 8)).isSome .vdeq else none
  | 3 => when? (d == 0 && b == 0) .tbld
  | 4 => when? (d == 0 && b == 0 && c == 0) .cbld
  | 5 => when? (d == 0 && b == 0 && c == 0) .srseed
  | _ => none

/-- custom-0 (R47, R48). -/
def decCustom0 (f4 c b a f3 d : Nat) : Option Op :=
  match f4 with
  | 0 => typed f3 (fun _ => true) .vadd
  | 1 => typed f3 (fun _ => true) .vsub
  | 2 => typed f3 (fun _ => true) .vmul
  | 3 => typed f3 VType.isFloat .vfma
  | 4 => typed f3 VType.isFloat .vfms
  | 5 => typed f3 (fun _ => true) .vmin
  | 6 => typed f3 (fun _ => true) .vmax
  | 7 => typed f3 (fun t => t == .i8 || t == .pre) .vdot4
  | 8 => typed f3 (fun _ => true) .vcmp
  | 9 => typed f3 VType.isInt .vshl
  | 10 => typed f3 VType.isInt .vshr
  | 11 => typed f3 VType.isInt .vsra
  | 12 =>
    match f3 with
    | 0 => some .vand
    | 1 => some .vor
    | 2 => some .vxor
    | 4 => some .vperm
    | 5 => some .vperm
    | 6 => some .vperm
    | _ => none
  | 13 => decUnary b a f3
  | 14 =>
    if f3 % 2 == 0 then widthed (f3 / 2) .vslideDn
    else widthed (f3 / 2) .vslideUp
  | 15 => decConv c b f3 d
  | _ => none

/-- custom-1 (R49). -/
def decCustom1 (f4 mk b a f3 d : Nat) : Option Op :=
  match f4 with
  | 0 => widthed f3 .vld
  | 1 => widthed f3 .vst
  | 2 => widthed f3 .vlds
  | 3 => widthed f3 .vsts
  | 4 =>
    if mk == 0 && b == 0 && d / 8 == 3 then
      match f3 with
      | 0 => some .sbindSrc
      | 1 => some .sbindDst
      | _ => none
    else none
  | 5 => when? (mk == 0 && b == 0 && a == 0 && f3 == 0 && d / 8 == 3) .sunbind
  | 6 => widthed f3 .vsel
  | 7 =>
    if mk == 0 && a / 8 == 0 && b / 8 == 0 then
      match f3 with
      | 0 => when? (d / 8 == 0) .mand
      | 1 => when? (d / 8 == 0) .mor
      | 2 => when? (d / 8 == 0) .mxor
      | 3 => when? (d / 8 == 0 && b == 0) .mnot
      | 4 => when? (b == 0) .mpop
      | _ => none
    else none
  | 8 => when? (mk == 0 && f3 == 0 && d == 0 && b / 16 == 0) .vloop
  | 9 => when? (mk == 0 && f3 == 0 && d == 0 && b == 0) .bqput
  | 10 => when? (mk == 0 && f3 == 0 && a == 0 && b == 0) .bqget
  | _ => none

/-- custom-2 memory group (R50). -/
def decMem (s b a d : Nat) : Option Op :=
  match s with
  | 0x00 => when? (b == 0) .ldFeKeep
  | 0x01 => when? (b == 0) .ldFeClr
  | 0x02 => when? (d == 0) .stFe
  | 0x03 => when? (d == 0 && b == 0) .fesetEmpty
  | 0x04 => when? (d == 0 && b == 0) .fesetFull
  | 0x05 => when? (b == 0) .feqry
  | 0x08 => when? (b == 0 && a % 2 == 0) .gathA
  | 0x09 => some .gathX
  | 0x0A => when? (b == 0 && a % 2 == 0) .scatA
  | 0x0B => some .scatX
  | 0x10 => some .cpy
  | 0x11 => when? (b == 0) .cpyw
  | _ => none

/-- custom-2 ordering group (R51). -/
def decOrd (s b a d : Nat) : Option Op :=
  match s / 32 with
  | 0 =>
    if d == 0 && a == 0 && b == 0 then
      when? ((Scope.ofCode (s / 4 % 8)).isSome && (FKind.ofCode (s % 4)).isSome) .fenceScoped
    else none
  | 1 =>
    if b == 0 then when? ((Scope.ofCode (s / 4 % 8)).isSome && (MemW.ofCode (s % 4)).isSome) .lda
    else none
  | 2 =>
    if d == 0 then when? ((Scope.ofCode (s / 4 % 8)).isSome && (MemW.ofCode (s % 4)).isSome) .strl
    else none
  | 3 =>
    match s with
    | 0x60 => when? (d == 0) .fxadd
    | 0x61 => when? (b == 0) .fxrd
    | 0x62 => when? (b == 0) .fxrdLo
    | 0x63 => when? (b == 0) .fxrdHi
    | 0x64 => when? (d == 0 && b == 0) .fxclr
    | 0x65 => when? (b == 0) .rlqry
    | _ => none
  | _ => none

/-- custom-2 scoped AMOs (R52). -/
def decScoped (s : Nat) : Option Op :=
  if (Scope.ofCode (s % 8)).isNone then none
  else
    match s / 8 with
    | 0 => some .amoAddScoped
    | 1 => some .amoSwapScoped
    | 2 => some .amoAndScoped
    | 3 => some .amoOrScoped
    | 4 => some .amoXorScoped
    | 5 => some .amoMinScoped
    | 6 => some .amoMaxScoped
    | 7 => some .amoMinuScoped
    | 8 => some .amoMaxuScoped
    | 9 => some .amoCasScoped
    | _ => none

/-- custom-2 task group (R53). -/
def decTask (s b a d : Nat) : Option Op :=
  match s with
  | 0x00 => when? (d == 0 && b == 0) .spawn
  | 0x01 => when? (b == 0) .spawnNb
  | 0x02 => when? (d == 0) .spawnr
  | 0x03 => when? (d == 0) .spawnat
  | 0x04 => when? (d == 0 && b == 0) .tend
  | 0x08 => when? (d == 0) .joininit
  | 0x09 => when? (d == 0) .joinadd
  | 0x0A => when? (d == 0) .joinarm
  | 0x10 => when? (a == 0 && b == 0) .press
  | 0x18 => when? (d == 0) .dqpush
  | 0x19 => when? (a == 0 && b == 0) .dqpop
  | 0x1A => when? (d == 0 && a == 0 && b == 0) .dqsplit
  | 0x1B => when? (b == 0) .dqspill
  | 0x20 => when? (d == 0) .rpush
  | 0x21 => some .rpop
  | 0x22 => some .rpeek
  | 0x28 => when? (d == 0 && b == 0) .grpbar
  | _ => none

/-- custom-2 message group (R53, R291). -/
def decMsg (s b a d : Nat) : Option Op :=
  match s with
  | 0x00 => when? (a == 0 && b == 0) .arm
  | 0x01 => when? (d == 0) .sendw
  | 0x02 => when? (d == 0) .sendh
  | 0x03 => when? (d == 0 && a == 0 && b == 0) .msgret
  | 0x05 => when? (d == 0) .migrate
  | _ => none

/-- custom-2 fabric group (R53). -/
def decFab (s b d : Nat) : Option Op :=
  match s with
  | 0x00 => when? (d == 0) .grpw
  | 0x01 => when? (d == 0) .mcw
  | 0x02 => when? (d == 0) .jkset
  | 0x03 => when? (d == 0 && b == 0) .keyrot
  | _ => none

/-- custom-2 (R50). -/
def decCustom2 (s b a f3 d : Nat) : Option Op :=
  match f3 with
  | 0 => decMem s b a d
  | 1 => decOrd s b a d
  | 2 => decTask s b a d
  | 3 => decMsg s b a d
  | 4 => decFab s b d
  | 5 => decScoped s
  | _ => none

/-- custom-3 T-format group (R56) without SAFEPT. -/
def decMat (s b a d : Nat) : Option Op :=
  match s with
  | 0x00 => when? (d == 0 && b == 0) .mlease
  | 0x01 => when? (d == 0 && a == 0 && b == 0) .mrel
  | 0x02 => when? (b == 0) .oclaim
  | 0x03 => when? (d == 0) .orel
  | 0x04 => when? (d == 0) .ofill
  | 0x05 => when? (d == 0) .odrain
  | 0x06 => when? (d == 0) .odrainAmax
  | 0x07 => when? (d == 0) .mstride
  | 0x08 => when? (d == 0 && b == 0) .maccz
  | 0x09 => when? (d == 0 && a == 0 && b == 0) .mwait
  | 0x10 => when? (d == 0) .mrgu
  | 0x11 => when? (d == 0) .mrguDz
  | 0x12 => when? (d == 0) .mrgi
  | 0x13 => when? (d == 0) .scnv
  | 0x14 => when? (b == 0) .scnvw
  | 0x20 => when? (d == 0 && a == 0 && b == 0) .lclr0
  | 0x21 => when? (d == 0 && a == 0 && b == 0) .lclr1
  | 0x31 => when? (b == 0) .codecmt
  | 0x32 => when? (d == 0 && a == 0 && b == 0) .wfm
  | 0x38 => when? (d == 0 && b == 0) .cseal
  | 0x39 => when? (d == 0 && b == 0) .crestart
  | _ => none

/-- The FMT payload (R62). Its faults are reason 0x03. -/
def decFmt (w : Nat) : Except Reject Op :=
  match Fmt.ofCode (fld w 28 4), Fmt.ofCode (fld w 24 4), Fmt.ofCode (fld w 20 4), ScaleMode.ofCode (fld w 18 2) with
  | some _, some _, some _, some _ =>
    if fld w 15 3 == 0 && fld w 7 5 == 0 then .ok .fmt else .error .badPayload
  | _, _, _, _ => .error .badPayload

/-- custom-3 but FMT (R54 to R57, R66). -/
def decCustom3 (w : Nat) : Option Op :=
  match fld w 12 3 with
  | 0 =>
    match fld w 7 2 with
    | 0 => some .mstg
    | 1 => some .mstgAcc
    | _ => none
  | 1 =>
    if fld w 18 1 == 0 then
      match fld w 7 2 with
      | 0 => some .mxst
      | 1 => some .mxstAcc
      | _ => none
    else none
  | 2 => when? (ChainFmt.ofCode (fld w 7 2)).isSome .mchain
  | 3 => when? (ChainFmt.ofCode (fld w 7 2)).isSome .mchainAcc
  | 4 =>
    if fld w 25 7 == 0x30 then when? (fld w 7 5 == 0) .safept
    else decMat (fld w 25 7) (fld w 20 5) (fld w 15 5) (fld w 7 5)
  | 5 =>
    if fld w 15 2 == 0 && fld w 7 4 == 0 then
      when? (EndKind.ofCode (fld w 17 2 * 2 + fld w 11 1)).isSome .sig
    else none
  | 6 => when? (fld w 8 4 == 0) .hloop
  | _ => none

/-- The word of value `w` by its major opcode (R38). -/
def decMajor (w : Nat) : Option Op :=
  let f7 := fld w 25 7
  let b := fld w 20 5
  let a := fld w 15 5
  let f3 := fld w 12 3
  let d := fld w 7 5
  let i12 := fld w 20 12
  match fld w 0 7 with
  | 0x03 => decLoad f3
  | 0x07 => when? (f3 == 2) .flw
  | 0x0B => decCustom0 (fld w 28 4) (fld w 25 3) b a f3 d
  | 0x0F => decFence i12 a f3 d
  | 0x13 => decOpImm i12 f3
  | 0x17 => some .auipc
  | 0x1B => decOpImm32 i12 f3
  | 0x23 => decStore f3
  | 0x27 => when? (f3 == 2) .fsw
  | 0x2B => decCustom1 (fld w 28 4) (fld w 25 3) b a f3 d
  | 0x2F => decAmo (fld w 27 5) b f3
  | 0x33 => decOp f7 f3
  | 0x37 => some .lui
  | 0x3B => decOp32 f7 f3
  | 0x43 => decFma 0x43 (fld w 25 2) f3
  | 0x47 => decFma 0x47 (fld w 25 2) f3
  | 0x4B => decFma 0x4B (fld w 25 2) f3
  | 0x4F => decFma 0x4F (fld w 25 2) f3
  | 0x53 => decFp f7 b f3
  | 0x5B => if f3 == 3 && f7 == 4 then when? (b == 0 && d / 8 == 3) .chbind else decCustom2 f7 b a f3 d
  | 0x63 => decBranch f3
  | 0x67 => when? (f3 == 0) .jalr
  | 0x6F => some .jal
  | 0x73 => decSystem i12 a f3 d
  | 0x7B => decCustom3 w
  | _ => none

/-- A word from its four bytes, lowest address first (R3, R38). -/
def wordOf : List Byte → W32
  | [] => 0
  | b :: r => (wordOf r <<< 8) ||| BitVec.setWidth 32 b

/-- The bytes of a word, lowest address first. -/
def wordBytes (w : W32) : List Byte :=
  [w.extractLsb' 0 8, w.extractLsb' 8 8, w.extractLsb' 16 8, w.extractLsb' 24 8]

/-- The row of the opcode table that a word stands for (R38 to R66). -/
def opOf (w : W32) : Except Reject Op :=
  if fld w.toNat 0 7 == 0x7B && fld w.toNat 12 3 == 7 then decFmt w.toNat
  else match decMajor w.toNat with
    | some i => .ok i
    | none => .error .notInstr

noncomputable section

/-- The instruction of a row, its operands read from the fields of the word. -/
def build (w : Nat) : Op → Instr
  | .lui => .lui (r5 (fld w 7 5)) (BitVec.ofNat 20 (fld w 12 20))
  | .auipc => .auipc (r5 (fld w 7 5)) (BitVec.ofNat 20 (fld w 12 20))
  | .jal => .jal (r5 (fld w 7 5)) (BitVec.ofNat 20 (fld w 31 1 * 524288 + fld w 12 8 * 2048 + fld w 20 1 * 1024 + fld w 21 10))
  | .jalr => .jalr (r5 (fld w 7 5)) (r5 (fld w 15 5)) (BitVec.ofNat 12 (fld w 20 12))
  | .beq => .beq (r5 (fld w 15 5)) (r5 (fld w 20 5)) (BitVec.ofNat 12 (fld w 31 1 * 2048 + fld w 7 1 * 1024 + fld w 25 6 * 16 + fld w 8 4))
  | .bne => .bne (r5 (fld w 15 5)) (r5 (fld w 20 5)) (BitVec.ofNat 12 (fld w 31 1 * 2048 + fld w 7 1 * 1024 + fld w 25 6 * 16 + fld w 8 4))
  | .blt => .blt (r5 (fld w 15 5)) (r5 (fld w 20 5)) (BitVec.ofNat 12 (fld w 31 1 * 2048 + fld w 7 1 * 1024 + fld w 25 6 * 16 + fld w 8 4))
  | .bge => .bge (r5 (fld w 15 5)) (r5 (fld w 20 5)) (BitVec.ofNat 12 (fld w 31 1 * 2048 + fld w 7 1 * 1024 + fld w 25 6 * 16 + fld w 8 4))
  | .bltu => .bltu (r5 (fld w 15 5)) (r5 (fld w 20 5)) (BitVec.ofNat 12 (fld w 31 1 * 2048 + fld w 7 1 * 1024 + fld w 25 6 * 16 + fld w 8 4))
  | .bgeu => .bgeu (r5 (fld w 15 5)) (r5 (fld w 20 5)) (BitVec.ofNat 12 (fld w 31 1 * 2048 + fld w 7 1 * 1024 + fld w 25 6 * 16 + fld w 8 4))
  | .lb => .lb (r5 (fld w 7 5)) (r5 (fld w 15 5)) (BitVec.ofNat 12 (fld w 20 12))
  | .lh => .lh (r5 (fld w 7 5)) (r5 (fld w 15 5)) (BitVec.ofNat 12 (fld w 20 12))
  | .lw => .lw (r5 (fld w 7 5)) (r5 (fld w 15 5)) (BitVec.ofNat 12 (fld w 20 12))
  | .ld => .ld (r5 (fld w 7 5)) (r5 (fld w 15 5)) (BitVec.ofNat 12 (fld w 20 12))
  | .lbu => .lbu (r5 (fld w 7 5)) (r5 (fld w 15 5)) (BitVec.ofNat 12 (fld w 20 12))
  | .lhu => .lhu (r5 (fld w 7 5)) (r5 (fld w 15 5)) (BitVec.ofNat 12 (fld w 20 12))
  | .lwu => .lwu (r5 (fld w 7 5)) (r5 (fld w 15 5)) (BitVec.ofNat 12 (fld w 20 12))
  | .sb => .sb (r5 (fld w 15 5)) (r5 (fld w 20 5)) (BitVec.ofNat 12 (fld w 25 7 * 32 + fld w 7 5))
  | .sh => .sh (r5 (fld w 15 5)) (r5 (fld w 20 5)) (BitVec.ofNat 12 (fld w 25 7 * 32 + fld w 7 5))
  | .sw => .sw (r5 (fld w 15 5)) (r5 (fld w 20 5)) (BitVec.ofNat 12 (fld w 25 7 * 32 + fld w 7 5))
  | .sd => .sd (r5 (fld w 15 5)) (r5 (fld w 20 5)) (BitVec.ofNat 12 (fld w 25 7 * 32 + fld w 7 5))
  | .addi => .addi (r5 (fld w 7 5)) (r5 (fld w 15 5)) (BitVec.ofNat 12 (fld w 20 12))
  | .slti => .slti (r5 (fld w 7 5)) (r5 (fld w 15 5)) (BitVec.ofNat 12 (fld w 20 12))
  | .sltiu => .sltiu (r5 (fld w 7 5)) (r5 (fld w 15 5)) (BitVec.ofNat 12 (fld w 20 12))
  | .xori => .xori (r5 (fld w 7 5)) (r5 (fld w 15 5)) (BitVec.ofNat 12 (fld w 20 12))
  | .ori => .ori (r5 (fld w 7 5)) (r5 (fld w 15 5)) (BitVec.ofNat 12 (fld w 20 12))
  | .andi => .andi (r5 (fld w 7 5)) (r5 (fld w 15 5)) (BitVec.ofNat 12 (fld w 20 12))
  | .slli => .slli (r5 (fld w 7 5)) (r5 (fld w 15 5)) (BitVec.ofNat 6 (fld w 20 6))
  | .srli => .srli (r5 (fld w 7 5)) (r5 (fld w 15 5)) (BitVec.ofNat 6 (fld w 20 6))
  | .srai => .srai (r5 (fld w 7 5)) (r5 (fld w 15 5)) (BitVec.ofNat 6 (fld w 20 6))
  | .add => .add (r5 (fld w 7 5)) (r5 (fld w 15 5)) (r5 (fld w 20 5))
  | .sub => .sub (r5 (fld w 7 5)) (r5 (fld w 15 5)) (r5 (fld w 20 5))
  | .sll => .sll (r5 (fld w 7 5)) (r5 (fld w 15 5)) (r5 (fld w 20 5))
  | .slt => .slt (r5 (fld w 7 5)) (r5 (fld w 15 5)) (r5 (fld w 20 5))
  | .sltu => .sltu (r5 (fld w 7 5)) (r5 (fld w 15 5)) (r5 (fld w 20 5))
  | .xor => .xor (r5 (fld w 7 5)) (r5 (fld w 15 5)) (r5 (fld w 20 5))
  | .srl => .srl (r5 (fld w 7 5)) (r5 (fld w 15 5)) (r5 (fld w 20 5))
  | .sra => .sra (r5 (fld w 7 5)) (r5 (fld w 15 5)) (r5 (fld w 20 5))
  | .or => .or (r5 (fld w 7 5)) (r5 (fld w 15 5)) (r5 (fld w 20 5))
  | .and => .and (r5 (fld w 7 5)) (r5 (fld w 15 5)) (r5 (fld w 20 5))
  | .addiw => .addiw (r5 (fld w 7 5)) (r5 (fld w 15 5)) (BitVec.ofNat 12 (fld w 20 12))
  | .slliw => .slliw (r5 (fld w 7 5)) (r5 (fld w 15 5)) (r5 (fld w 20 5))
  | .srliw => .srliw (r5 (fld w 7 5)) (r5 (fld w 15 5)) (r5 (fld w 20 5))
  | .sraiw => .sraiw (r5 (fld w 7 5)) (r5 (fld w 15 5)) (r5 (fld w 20 5))
  | .addw => .addw (r5 (fld w 7 5)) (r5 (fld w 15 5)) (r5 (fld w 20 5))
  | .subw => .subw (r5 (fld w 7 5)) (r5 (fld w 15 5)) (r5 (fld w 20 5))
  | .sllw => .sllw (r5 (fld w 7 5)) (r5 (fld w 15 5)) (r5 (fld w 20 5))
  | .srlw => .srlw (r5 (fld w 7 5)) (r5 (fld w 15 5)) (r5 (fld w 20 5))
  | .sraw => .sraw (r5 (fld w 7 5)) (r5 (fld w 15 5)) (r5 (fld w 20 5))
  | .fence => .fence (BitVec.ofNat 4 (fld w 28 4)) (BitVec.ofNat 4 (fld w 24 4)) (BitVec.ofNat 4 (fld w 20 4)) (r5 (fld w 7 5)) (r5 (fld w 15 5))
  | .fenceTso => .fenceTso (r5 (fld w 7 5)) (r5 (fld w 15 5))
  | .pause => .pause
  | .ecall => .ecall
  | .ebreak => .ebreak
  | .mul => .mul (r5 (fld w 7 5)) (r5 (fld w 15 5)) (r5 (fld w 20 5))
  | .mulh => .mulh (r5 (fld w 7 5)) (r5 (fld w 15 5)) (r5 (fld w 20 5))
  | .mulhsu => .mulhsu (r5 (fld w 7 5)) (r5 (fld w 15 5)) (r5 (fld w 20 5))
  | .mulhu => .mulhu (r5 (fld w 7 5)) (r5 (fld w 15 5)) (r5 (fld w 20 5))
  | .div => .div (r5 (fld w 7 5)) (r5 (fld w 15 5)) (r5 (fld w 20 5))
  | .divu => .divu (r5 (fld w 7 5)) (r5 (fld w 15 5)) (r5 (fld w 20 5))
  | .rem => .rem (r5 (fld w 7 5)) (r5 (fld w 15 5)) (r5 (fld w 20 5))
  | .remu => .remu (r5 (fld w 7 5)) (r5 (fld w 15 5)) (r5 (fld w 20 5))
  | .mulw => .mulw (r5 (fld w 7 5)) (r5 (fld w 15 5)) (r5 (fld w 20 5))
  | .divw => .divw (r5 (fld w 7 5)) (r5 (fld w 15 5)) (r5 (fld w 20 5))
  | .divuw => .divuw (r5 (fld w 7 5)) (r5 (fld w 15 5)) (r5 (fld w 20 5))
  | .remw => .remw (r5 (fld w 7 5)) (r5 (fld w 15 5)) (r5 (fld w 20 5))
  | .remuw => .remuw (r5 (fld w 7 5)) (r5 (fld w 15 5)) (r5 (fld w 20 5))
  | .lrW => .lrW (r5 (fld w 7 5)) (r5 (fld w 15 5)) (fld w 26 1 == 1) (fld w 25 1 == 1)
  | .lrD => .lrD (r5 (fld w 7 5)) (r5 (fld w 15 5)) (fld w 26 1 == 1) (fld w 25 1 == 1)
  | .scW => .scW (r5 (fld w 7 5)) (r5 (fld w 15 5)) (r5 (fld w 20 5)) (fld w 26 1 == 1) (fld w 25 1 == 1)
  | .scD => .scD (r5 (fld w 7 5)) (r5 (fld w 15 5)) (r5 (fld w 20 5)) (fld w 26 1 == 1) (fld w 25 1 == 1)
  | .amoSwapW => .amoSwapW (r5 (fld w 7 5)) (r5 (fld w 15 5)) (r5 (fld w 20 5)) (fld w 26 1 == 1) (fld w 25 1 == 1)
  | .amoSwapD => .amoSwapD (r5 (fld w 7 5)) (r5 (fld w 15 5)) (r5 (fld w 20 5)) (fld w 26 1 == 1) (fld w 25 1 == 1)
  | .amoAddW => .amoAddW (r5 (fld w 7 5)) (r5 (fld w 15 5)) (r5 (fld w 20 5)) (fld w 26 1 == 1) (fld w 25 1 == 1)
  | .amoAddD => .amoAddD (r5 (fld w 7 5)) (r5 (fld w 15 5)) (r5 (fld w 20 5)) (fld w 26 1 == 1) (fld w 25 1 == 1)
  | .amoXorW => .amoXorW (r5 (fld w 7 5)) (r5 (fld w 15 5)) (r5 (fld w 20 5)) (fld w 26 1 == 1) (fld w 25 1 == 1)
  | .amoXorD => .amoXorD (r5 (fld w 7 5)) (r5 (fld w 15 5)) (r5 (fld w 20 5)) (fld w 26 1 == 1) (fld w 25 1 == 1)
  | .amoAndW => .amoAndW (r5 (fld w 7 5)) (r5 (fld w 15 5)) (r5 (fld w 20 5)) (fld w 26 1 == 1) (fld w 25 1 == 1)
  | .amoAndD => .amoAndD (r5 (fld w 7 5)) (r5 (fld w 15 5)) (r5 (fld w 20 5)) (fld w 26 1 == 1) (fld w 25 1 == 1)
  | .amoOrW => .amoOrW (r5 (fld w 7 5)) (r5 (fld w 15 5)) (r5 (fld w 20 5)) (fld w 26 1 == 1) (fld w 25 1 == 1)
  | .amoOrD => .amoOrD (r5 (fld w 7 5)) (r5 (fld w 15 5)) (r5 (fld w 20 5)) (fld w 26 1 == 1) (fld w 25 1 == 1)
  | .amoMinW => .amoMinW (r5 (fld w 7 5)) (r5 (fld w 15 5)) (r5 (fld w 20 5)) (fld w 26 1 == 1) (fld w 25 1 == 1)
  | .amoMinD => .amoMinD (r5 (fld w 7 5)) (r5 (fld w 15 5)) (r5 (fld w 20 5)) (fld w 26 1 == 1) (fld w 25 1 == 1)
  | .amoMaxW => .amoMaxW (r5 (fld w 7 5)) (r5 (fld w 15 5)) (r5 (fld w 20 5)) (fld w 26 1 == 1) (fld w 25 1 == 1)
  | .amoMaxD => .amoMaxD (r5 (fld w 7 5)) (r5 (fld w 15 5)) (r5 (fld w 20 5)) (fld w 26 1 == 1) (fld w 25 1 == 1)
  | .amoMinuW => .amoMinuW (r5 (fld w 7 5)) (r5 (fld w 15 5)) (r5 (fld w 20 5)) (fld w 26 1 == 1) (fld w 25 1 == 1)
  | .amoMinuD => .amoMinuD (r5 (fld w 7 5)) (r5 (fld w 15 5)) (r5 (fld w 20 5)) (fld w 26 1 == 1) (fld w 25 1 == 1)
  | .amoMaxuW => .amoMaxuW (r5 (fld w 7 5)) (r5 (fld w 15 5)) (r5 (fld w 20 5)) (fld w 26 1 == 1) (fld w 25 1 == 1)
  | .amoMaxuD => .amoMaxuD (r5 (fld w 7 5)) (r5 (fld w 15 5)) (r5 (fld w 20 5)) (fld w 26 1 == 1) (fld w 25 1 == 1)
  | .flw => .flw (r5 (fld w 7 5)) (r5 (fld w 15 5)) (BitVec.ofNat 12 (fld w 20 12))
  | .fsw => .fsw (r5 (fld w 15 5)) (r5 (fld w 20 5)) (BitVec.ofNat 12 (fld w 25 7 * 32 + fld w 7 5))
  | .fmaddS => .fmaddS (r5 (fld w 7 5)) (r5 (fld w 15 5)) (r5 (fld w 20 5)) (r5 (fld w 27 5)) ((Rm.ofCode (fld w 12 3)).getD .dyn)
  | .fmsubS => .fmsubS (r5 (fld w 7 5)) (r5 (fld w 15 5)) (r5 (fld w 20 5)) (r5 (fld w 27 5)) ((Rm.ofCode (fld w 12 3)).getD .dyn)
  | .fnmsubS => .fnmsubS (r5 (fld w 7 5)) (r5 (fld w 15 5)) (r5 (fld w 20 5)) (r5 (fld w 27 5)) ((Rm.ofCode (fld w 12 3)).getD .dyn)
  | .fnmaddS => .fnmaddS (r5 (fld w 7 5)) (r5 (fld w 15 5)) (r5 (fld w 20 5)) (r5 (fld w 27 5)) ((Rm.ofCode (fld w 12 3)).getD .dyn)
  | .faddS => .faddS (r5 (fld w 7 5)) (r5 (fld w 15 5)) (r5 (fld w 20 5)) ((Rm.ofCode (fld w 12 3)).getD .dyn)
  | .fsubS => .fsubS (r5 (fld w 7 5)) (r5 (fld w 15 5)) (r5 (fld w 20 5)) ((Rm.ofCode (fld w 12 3)).getD .dyn)
  | .fmulS => .fmulS (r5 (fld w 7 5)) (r5 (fld w 15 5)) (r5 (fld w 20 5)) ((Rm.ofCode (fld w 12 3)).getD .dyn)
  | .fdivS => .fdivS (r5 (fld w 7 5)) (r5 (fld w 15 5)) (r5 (fld w 20 5)) ((Rm.ofCode (fld w 12 3)).getD .dyn)
  | .fsqrtS => .fsqrtS (r5 (fld w 7 5)) (r5 (fld w 15 5)) ((Rm.ofCode (fld w 12 3)).getD .dyn)
  | .fsgnjS => .fsgnjS (r5 (fld w 7 5)) (r5 (fld w 15 5)) (r5 (fld w 20 5))
  | .fsgnjnS => .fsgnjnS (r5 (fld w 7 5)) (r5 (fld w 15 5)) (r5 (fld w 20 5))
  | .fsgnjxS => .fsgnjxS (r5 (fld w 7 5)) (r5 (fld w 15 5)) (r5 (fld w 20 5))
  | .fminS => .fminS (r5 (fld w 7 5)) (r5 (fld w 15 5)) (r5 (fld w 20 5))
  | .fmaxS => .fmaxS (r5 (fld w 7 5)) (r5 (fld w 15 5)) (r5 (fld w 20 5))
  | .fcvtWS => .fcvtWS (r5 (fld w 7 5)) (r5 (fld w 15 5)) ((Rm.ofCode (fld w 12 3)).getD .dyn)
  | .fcvtWuS => .fcvtWuS (r5 (fld w 7 5)) (r5 (fld w 15 5)) ((Rm.ofCode (fld w 12 3)).getD .dyn)
  | .fcvtLS => .fcvtLS (r5 (fld w 7 5)) (r5 (fld w 15 5)) ((Rm.ofCode (fld w 12 3)).getD .dyn)
  | .fcvtLuS => .fcvtLuS (r5 (fld w 7 5)) (r5 (fld w 15 5)) ((Rm.ofCode (fld w 12 3)).getD .dyn)
  | .fcvtSW => .fcvtSW (r5 (fld w 7 5)) (r5 (fld w 15 5)) ((Rm.ofCode (fld w 12 3)).getD .dyn)
  | .fcvtSWu => .fcvtSWu (r5 (fld w 7 5)) (r5 (fld w 15 5)) ((Rm.ofCode (fld w 12 3)).getD .dyn)
  | .fcvtSL => .fcvtSL (r5 (fld w 7 5)) (r5 (fld w 15 5)) ((Rm.ofCode (fld w 12 3)).getD .dyn)
  | .fcvtSLu => .fcvtSLu (r5 (fld w 7 5)) (r5 (fld w 15 5)) ((Rm.ofCode (fld w 12 3)).getD .dyn)
  | .fmvXW => .fmvXW (r5 (fld w 7 5)) (r5 (fld w 15 5))
  | .fmvWX => .fmvWX (r5 (fld w 7 5)) (r5 (fld w 15 5))
  | .feqS => .feqS (r5 (fld w 7 5)) (r5 (fld w 15 5)) (r5 (fld w 20 5))
  | .fltS => .fltS (r5 (fld w 7 5)) (r5 (fld w 15 5)) (r5 (fld w 20 5))
  | .fleS => .fleS (r5 (fld w 7 5)) (r5 (fld w 15 5)) (r5 (fld w 20 5))
  | .fclassS => .fclassS (r5 (fld w 7 5)) (r5 (fld w 15 5))
  | .csrrw => .csrrw (r5 (fld w 7 5)) (r5 (fld w 15 5)) (BitVec.ofNat 12 (fld w 20 12))
  | .csrrs => .csrrs (r5 (fld w 7 5)) (r5 (fld w 15 5)) (BitVec.ofNat 12 (fld w 20 12))
  | .csrrc => .csrrc (r5 (fld w 7 5)) (r5 (fld w 15 5)) (BitVec.ofNat 12 (fld w 20 12))
  | .csrrwi => .csrrwi (r5 (fld w 7 5)) (r5 (fld w 15 5)) (BitVec.ofNat 12 (fld w 20 12))
  | .csrrsi => .csrrsi (r5 (fld w 7 5)) (r5 (fld w 15 5)) (BitVec.ofNat 12 (fld w 20 12))
  | .csrrci => .csrrci (r5 (fld w 7 5)) (r5 (fld w 15 5)) (BitVec.ofNat 12 (fld w 20 12))
  | .mret => .mret
  | .sret => .sret
  | .wfi => .wfi
  | .vadd => .vadd (r5 (fld w 7 5)) (r5 (fld w 15 5)) (r5 (fld w 20 5)) ((VType.ofCode (fld w 12 3)).getD .pre) (BitVec.ofNat 3 (fld w 25 3))
  | .vsub => .vsub (r5 (fld w 7 5)) (r5 (fld w 15 5)) (r5 (fld w 20 5)) ((VType.ofCode (fld w 12 3)).getD .pre) (BitVec.ofNat 3 (fld w 25 3))
  | .vmul => .vmul (r5 (fld w 7 5)) (r5 (fld w 15 5)) (r5 (fld w 20 5)) ((VType.ofCode (fld w 12 3)).getD .pre) (BitVec.ofNat 3 (fld w 25 3))
  | .vfma => .vfma (r5 (fld w 7 5)) (r5 (fld w 15 5)) (r5 (fld w 20 5)) ((VType.ofCode (fld w 12 3)).getD .pre) (BitVec.ofNat 3 (fld w 25 3))
  | .vfms => .vfms (r5 (fld w 7 5)) (r5 (fld w 15 5)) (r5 (fld w 20 5)) ((VType.ofCode (fld w 12 3)).getD .pre) (BitVec.ofNat 3 (fld w 25 3))
  | .vmin => .vmin (r5 (fld w 7 5)) (r5 (fld w 15 5)) (r5 (fld w 20 5)) ((VType.ofCode (fld w 12 3)).getD .pre) (BitVec.ofNat 3 (fld w 25 3))
  | .vmax => .vmax (r5 (fld w 7 5)) (r5 (fld w 15 5)) (r5 (fld w 20 5)) ((VType.ofCode (fld w 12 3)).getD .pre) (BitVec.ofNat 3 (fld w 25 3))
  | .vdot4 => .vdot4 (r5 (fld w 7 5)) (r5 (fld w 15 5)) (r5 (fld w 20 5)) ((VType.ofCode (fld w 12 3)).getD .pre) (BitVec.ofNat 3 (fld w 25 3))
  | .vcmp => .vcmp (BitVec.ofNat 3 (fld w 7 3)) ((Cc.ofCode (fld w 10 2)).getD .eq) (r5 (fld w 15 5)) (r5 (fld w 20 5)) ((VType.ofCode (fld w 12 3)).getD .pre) (BitVec.ofNat 3 (fld w 25 3))
  | .vshl => .vshl (r5 (fld w 7 5)) (r5 (fld w 15 5)) (r5 (fld w 20 5)) ((VType.ofCode (fld w 12 3)).getD .pre) (BitVec.ofNat 3 (fld w 25 3))
  | .vshr => .vshr (r5 (fld w 7 5)) (r5 (fld w 15 5)) (r5 (fld w 20 5)) ((VType.ofCode (fld w 12 3)).getD .pre) (BitVec.ofNat 3 (fld w 25 3))
  | .vsra => .vsra (r5 (fld w 7 5)) (r5 (fld w 15 5)) (r5 (fld w 20 5)) ((VType.ofCode (fld w 12 3)).getD .pre) (BitVec.ofNat 3 (fld w 25 3))
  | .vand => .vand (r5 (fld w 7 5)) (r5 (fld w 15 5)) (r5 (fld w 20 5)) (BitVec.ofNat 3 (fld w 25 3))
  | .vor => .vor (r5 (fld w 7 5)) (r5 (fld w 15 5)) (r5 (fld w 20 5)) (BitVec.ofNat 3 (fld w 25 3))
  | .vxor => .vxor (r5 (fld w 7 5)) (r5 (fld w 15 5)) (r5 (fld w 20 5)) (BitVec.ofNat 3 (fld w 25 3))
  | .vperm => .vperm (r5 (fld w 7 5)) (r5 (fld w 15 5)) (r5 (fld w 20 5)) ((VWidth.ofCode (fld w 12 2)).getD .w32) (BitVec.ofNat 3 (fld w 25 3))
  | .vabs => .vabs (r5 (fld w 7 5)) (r5 (fld w 15 5)) ((VType.ofCode (fld w 12 3)).getD .pre) (BitVec.ofNat 3 (fld w 25 3))
  | .vneg => .vneg (r5 (fld w 7 5)) (r5 (fld w 15 5)) ((VType.ofCode (fld w 12 3)).getD .pre) (BitVec.ofNat 3 (fld w 25 3))
  | .vmov => .vmov (r5 (fld w 7 5)) (r5 (fld w 15 5)) ((VType.ofCode (fld w 12 3)).getD .pre) (BitVec.ofNat 3 (fld w 25 3))
  | .vexp2 => .vexp2 (r5 (fld w 7 5)) (r5 (fld w 15 5)) ((VType.ofCode (fld w 12 3)).getD .pre) (BitVec.ofNat 3 (fld w 25 3))
  | .vlog2 => .vlog2 (r5 (fld w 7 5)) (r5 (fld w 15 5)) ((VType.ofCode (fld w 12 3)).getD .pre) (BitVec.ofNat 3 (fld w 25 3))
  | .vrcp => .vrcp (r5 (fld w 7 5)) (r5 (fld w 15 5)) ((VType.ofCode (fld w 12 3)).getD .pre) (BitVec.ofNat 3 (fld w 25 3))
  | .vrsq => .vrsq (r5 (fld w 7 5)) (r5 (fld w 15 5)) ((VType.ofCode (fld w 12 3)).getD .pre) (BitVec.ofNat 3 (fld w 25 3))
  | .vrsum => .vrsum (r5 (fld w 7 5)) (r5 (fld w 15 5)) ((VType.ofCode (fld w 12 3)).getD .pre) (BitVec.ofNat 3 (fld w 25 3))
  | .vrmax => .vrmax (r5 (fld w 7 5)) (r5 (fld w 15 5)) ((VType.ofCode (fld w 12 3)).getD .pre) (BitVec.ofNat 3 (fld w 25 3))
  | .vrmin => .vrmin (r5 (fld w 7 5)) (r5 (fld w 15 5)) ((VType.ofCode (fld w 12 3)).getD .pre) (BitVec.ofNat 3 (fld w 25 3))
  | .vidx => .vidx (r5 (fld w 7 5)) ((VType.ofCode (fld w 12 3)).getD .pre) (BitVec.ofNat 3 (fld w 25 3))
  | .vsplat => .vsplat (r5 (fld w 7 5)) (r5 (fld w 15 5)) ((VType.ofCode (fld w 12 3)).getD .pre) (BitVec.ofNat 3 (fld w 25 3))
  | .vbcast => .vbcast (r5 (fld w 7 5)) (r5 (fld w 15 5)) ((VType.ofCode (fld w 12 3)).getD .pre) (BitVec.ofNat 3 (fld w 25 3))
  | .vslideDn => .vslideDn (r5 (fld w 7 5)) (r5 (fld w 15 5)) (r5 (fld w 20 5)) ((VWidth.ofCode (fld w 13 2)).getD .w32) (BitVec.ofNat 3 (fld w 25 3))
  | .vslideUp => .vslideUp (r5 (fld w 7 5)) (r5 (fld w 15 5)) (r5 (fld w 20 5)) ((VWidth.ofCode (fld w 13 2)).getD .w32) (BitVec.ofNat 3 (fld w 25 3))
  | .vcvt => .vcvt (r5 (fld w 7 5)) (r5 (fld w 15 5)) ((CvRm.ofCode (fld w 23 2)).getD .rne) (fld w 22 1 == 1) (fld w 21 1 == 1) (BitVec.ofNat 3 (fld w 25 3))
  | .vquant => .vquant (r5 (fld w 7 5)) (r5 (fld w 15 5)) ((CvRm.ofCode (fld w 23 2)).getD .rne) (fld w 22 1 == 1) (fld w 21 1 == 1) (BitVec.ofNat 3 (fld w 25 3))
  | .vdeq => .vdeq (r5 (fld w 7 5)) (r5 (fld w 15 5)) ((CvRm.ofCode (fld w 23 2)).getD .rne) (fld w 22 1 == 1) (fld w 21 1 == 1) (BitVec.ofNat 3 (fld w 25 3))
  | .tbld => .tbld (r5 (fld w 15 5)) (BitVec.ofNat 3 (fld w 25 3))
  | .cbld => .cbld (r5 (fld w 15 5))
  | .srseed => .srseed (r5 (fld w 15 5))
  | .vld => .vld (r5 (fld w 7 5)) (r5 (fld w 15 5)) (r5 (fld w 20 5)) (BitVec.ofNat 3 (fld w 25 3)) ((VWidth.ofCode (fld w 12 2)).getD .w32)
  | .vst => .vst (r5 (fld w 7 5)) (r5 (fld w 15 5)) (r5 (fld w 20 5)) (BitVec.ofNat 3 (fld w 25 3)) ((VWidth.ofCode (fld w 12 2)).getD .w32)
  | .vlds => .vlds (r5 (fld w 7 5)) (r5 (fld w 15 5)) (r5 (fld w 20 5)) (BitVec.ofNat 3 (fld w 25 3)) ((VWidth.ofCode (fld w 12 2)).getD .w32)
  | .vsts => .vsts (r5 (fld w 7 5)) (r5 (fld w 15 5)) (r5 (fld w 20 5)) (BitVec.ofNat 3 (fld w 25 3)) ((VWidth.ofCode (fld w 12 2)).getD .w32)
  | .sbindSrc => .sbindSrc (BitVec.ofNat 3 (fld w 7 3)) (r5 (fld w 15 5))
  | .sbindDst => .sbindDst (BitVec.ofNat 3 (fld w 7 3)) (r5 (fld w 15 5))
  | .sunbind => .sunbind (BitVec.ofNat 3 (fld w 7 3))
  | .vsel => .vsel (r5 (fld w 7 5)) (r5 (fld w 15 5)) (r5 (fld w 20 5)) (BitVec.ofNat 3 (fld w 25 3)) ((VWidth.ofCode (fld w 12 2)).getD .w32)
  | .mand => .mand (BitVec.ofNat 3 (fld w 7 3)) (BitVec.ofNat 3 (fld w 15 3)) (BitVec.ofNat 3 (fld w 20 3))
  | .mor => .mor (BitVec.ofNat 3 (fld w 7 3)) (BitVec.ofNat 3 (fld w 15 3)) (BitVec.ofNat 3 (fld w 20 3))
  | .mxor => .mxor (BitVec.ofNat 3 (fld w 7 3)) (BitVec.ofNat 3 (fld w 15 3)) (BitVec.ofNat 3 (fld w 20 3))
  | .mnot => .mnot (BitVec.ofNat 3 (fld w 7 3)) (BitVec.ofNat 3 (fld w 15 3))
  | .mpop => .mpop (r5 (fld w 7 5)) (BitVec.ofNat 3 (fld w 15 3))
  | .vloop => .vloop (r5 (fld w 15 5)) (BitVec.ofNat 4 (fld w 20 4))
  | .bqput => .bqput (r5 (fld w 15 5))
  | .bqget => .bqget (r5 (fld w 7 5))
  | .ldFeKeep => .ldFeKeep (r5 (fld w 7 5)) (r5 (fld w 15 5))
  | .ldFeClr => .ldFeClr (r5 (fld w 7 5)) (r5 (fld w 15 5))
  | .stFe => .stFe (r5 (fld w 15 5)) (r5 (fld w 20 5))
  | .fesetEmpty => .fesetEmpty (r5 (fld w 15 5))
  | .fesetFull => .fesetFull (r5 (fld w 15 5))
  | .feqry => .feqry (r5 (fld w 7 5)) (r5 (fld w 15 5))
  | .gathA => .gathA (r5 (fld w 7 5)) (BitVec.ofNat 4 (fld w 16 4))
  | .gathX => .gathX (r5 (fld w 7 5)) (r5 (fld w 15 5)) (r5 (fld w 20 5))
  | .scatA => .scatA (r5 (fld w 7 5)) (BitVec.ofNat 4 (fld w 16 4))
  | .scatX => .scatX (r5 (fld w 7 5)) (r5 (fld w 15 5)) (r5 (fld w 20 5))
  | .cpy => .cpy (r5 (fld w 7 5)) (r5 (fld w 15 5)) (r5 (fld w 20 5))
  | .cpyw => .cpyw (r5 (fld w 7 5)) (r5 (fld w 15 5))
  | .fenceScoped => .fenceScoped ((Scope.ofCode (fld w 27 3)).getD .sys) ((FKind.ofCode (fld w 25 2)).getD .full)
  | .lda => .lda (r5 (fld w 7 5)) (r5 (fld w 15 5)) ((Scope.ofCode (fld w 27 3)).getD .sys) ((MemW.ofCode (fld w 25 2)).getD .d)
  | .strl => .strl (r5 (fld w 15 5)) (r5 (fld w 20 5)) ((Scope.ofCode (fld w 27 3)).getD .sys) ((MemW.ofCode (fld w 25 2)).getD .d)
  | .fxadd => .fxadd (r5 (fld w 15 5)) (r5 (fld w 20 5))
  | .fxrd => .fxrd (r5 (fld w 7 5)) (r5 (fld w 15 5))
  | .fxrdLo => .fxrdLo (r5 (fld w 7 5)) (r5 (fld w 15 5))
  | .fxrdHi => .fxrdHi (r5 (fld w 7 5)) (r5 (fld w 15 5))
  | .fxclr => .fxclr (r5 (fld w 15 5))
  | .rlqry => .rlqry (r5 (fld w 7 5)) (r5 (fld w 15 5))
  | .amoAddScoped => .amoAddScoped (r5 (fld w 7 5)) (r5 (fld w 15 5)) (r5 (fld w 20 5)) ((Scope.ofCode (fld w 25 3)).getD .sys)
  | .amoSwapScoped => .amoSwapScoped (r5 (fld w 7 5)) (r5 (fld w 15 5)) (r5 (fld w 20 5)) ((Scope.ofCode (fld w 25 3)).getD .sys)
  | .amoAndScoped => .amoAndScoped (r5 (fld w 7 5)) (r5 (fld w 15 5)) (r5 (fld w 20 5)) ((Scope.ofCode (fld w 25 3)).getD .sys)
  | .amoOrScoped => .amoOrScoped (r5 (fld w 7 5)) (r5 (fld w 15 5)) (r5 (fld w 20 5)) ((Scope.ofCode (fld w 25 3)).getD .sys)
  | .amoXorScoped => .amoXorScoped (r5 (fld w 7 5)) (r5 (fld w 15 5)) (r5 (fld w 20 5)) ((Scope.ofCode (fld w 25 3)).getD .sys)
  | .amoMinScoped => .amoMinScoped (r5 (fld w 7 5)) (r5 (fld w 15 5)) (r5 (fld w 20 5)) ((Scope.ofCode (fld w 25 3)).getD .sys)
  | .amoMaxScoped => .amoMaxScoped (r5 (fld w 7 5)) (r5 (fld w 15 5)) (r5 (fld w 20 5)) ((Scope.ofCode (fld w 25 3)).getD .sys)
  | .amoMinuScoped => .amoMinuScoped (r5 (fld w 7 5)) (r5 (fld w 15 5)) (r5 (fld w 20 5)) ((Scope.ofCode (fld w 25 3)).getD .sys)
  | .amoMaxuScoped => .amoMaxuScoped (r5 (fld w 7 5)) (r5 (fld w 15 5)) (r5 (fld w 20 5)) ((Scope.ofCode (fld w 25 3)).getD .sys)
  | .amoCasScoped => .amoCasScoped (r5 (fld w 7 5)) (r5 (fld w 15 5)) (r5 (fld w 20 5)) ((Scope.ofCode (fld w 25 3)).getD .sys)
  | .spawn => .spawn (r5 (fld w 15 5))
  | .spawnNb => .spawnNb (r5 (fld w 7 5)) (r5 (fld w 15 5))
  | .spawnr => .spawnr (r5 (fld w 15 5)) (r5 (fld w 20 5))
  | .spawnat => .spawnat (r5 (fld w 15 5)) (r5 (fld w 20 5))
  | .tend => .tend (r5 (fld w 15 5))
  | .joininit => .joininit (r5 (fld w 15 5)) (r5 (fld w 20 5))
  | .joinadd => .joinadd (r5 (fld w 15 5)) (r5 (fld w 20 5))
  | .joinarm => .joinarm (r5 (fld w 15 5)) (r5 (fld w 20 5))
  | .press => .press (r5 (fld w 7 5))
  | .dqpush => .dqpush (r5 (fld w 15 5)) (r5 (fld w 20 5))
  | .dqpop => .dqpop (r5 (fld w 7 5))
  | .dqsplit => .dqsplit
  | .dqspill => .dqspill (r5 (fld w 7 5)) (r5 (fld w 15 5))
  | .rpush => .rpush (r5 (fld w 15 5)) (r5 (fld w 20 5))
  | .rpop => .rpop (r5 (fld w 7 5)) (r5 (fld w 15 5)) (r5 (fld w 20 5))
  | .rpeek => .rpeek (r5 (fld w 7 5)) (r5 (fld w 15 5)) (r5 (fld w 20 5))
  | .grpbar => .grpbar (r5 (fld w 15 5))
  | .arm => .arm (r5 (fld w 7 5))
  | .sendw => .sendw (r5 (fld w 15 5)) (r5 (fld w 20 5))
  | .sendh => .sendh (r5 (fld w 15 5)) (r5 (fld w 20 5))
  | .msgret => .msgret
  | .chbind => .chbind (BitVec.ofNat 3 (fld w 7 3)) (r5 (fld w 15 5))
  | .migrate => .migrate (r5 (fld w 15 5)) (r5 (fld w 20 5))
  | .grpw => .grpw (r5 (fld w 15 5)) (r5 (fld w 20 5))
  | .mcw => .mcw (r5 (fld w 15 5)) (r5 (fld w 20 5))
  | .jkset => .jkset (r5 (fld w 15 5)) (r5 (fld w 20 5))
  | .keyrot => .keyrot (r5 (fld w 15 5))
  | .mstg => .mstg (BitVec.ofNat 6 (fld w 26 6)) (r5 (fld w 21 5)) (BitVec.ofNat 3 (fld w 18 3)) (BitVec.ofNat 3 (fld w 15 3)) (BitVec.ofNat 3 (fld w 9 3))
  | .mstgAcc => .mstgAcc (BitVec.ofNat 6 (fld w 26 6)) (r5 (fld w 21 5)) (BitVec.ofNat 3 (fld w 18 3)) (BitVec.ofNat 3 (fld w 15 3)) (BitVec.ofNat 3 (fld w 9 3))
  | .mxst => .mxst (BitVec.ofNat 6 (fld w 26 6)) (r5 (fld w 21 5)) (BitVec.ofNat 2 (fld w 19 2)) (BitVec.ofNat 3 (fld w 15 3)) (BitVec.ofNat 3 (fld w 9 3))
  | .mxstAcc => .mxstAcc (BitVec.ofNat 6 (fld w 26 6)) (r5 (fld w 21 5)) (BitVec.ofNat 2 (fld w 19 2)) (BitVec.ofNat 3 (fld w 15 3)) (BitVec.ofNat 3 (fld w 9 3))
  | .mchain => .mchain (BitVec.ofNat 6 (fld w 26 6)) (r5 (fld w 21 5)) (BitVec.ofNat 3 (fld w 18 3)) (BitVec.ofNat 3 (fld w 15 3)) (BitVec.ofNat 3 (fld w 9 3)) ((ChainFmt.ofCode (fld w 7 2)).getD .f32)
  | .mchainAcc => .mchainAcc (BitVec.ofNat 6 (fld w 26 6)) (r5 (fld w 21 5)) (BitVec.ofNat 3 (fld w 18 3)) (BitVec.ofNat 3 (fld w 15 3)) (BitVec.ofNat 3 (fld w 9 3)) ((ChainFmt.ofCode (fld w 7 2)).getD .f32)
  | .mlease => .mlease (r5 (fld w 15 5))
  | .mrel => .mrel
  | .oclaim => .oclaim (r5 (fld w 7 5)) (r5 (fld w 15 5))
  | .orel => .orel (r5 (fld w 15 5)) (r5 (fld w 20 5))
  | .ofill => .ofill (r5 (fld w 15 5)) (r5 (fld w 20 5))
  | .odrain => .odrain (r5 (fld w 15 5)) (r5 (fld w 20 5))
  | .odrainAmax => .odrainAmax (r5 (fld w 15 5)) (r5 (fld w 20 5))
  | .mstride => .mstride (r5 (fld w 15 5)) (r5 (fld w 20 5))
  | .maccz => .maccz (r5 (fld w 15 5))
  | .mwait => .mwait
  | .mrgu => .mrgu (r5 (fld w 15 5)) (r5 (fld w 20 5))
  | .mrguDz => .mrguDz (r5 (fld w 15 5)) (r5 (fld w 20 5))
  | .mrgi => .mrgi (r5 (fld w 15 5)) (r5 (fld w 20 5))
  | .scnv => .scnv (r5 (fld w 15 5)) (r5 (fld w 20 5))
  | .scnvw => .scnvw (r5 (fld w 7 5)) (r5 (fld w 15 5))
  | .lclr0 => .lclr0
  | .lclr1 => .lclr1
  | .safept => .safept (BitVec.ofNat 10 (fld w 15 10))
  | .codecmt => .codecmt (r5 (fld w 7 5)) (r5 (fld w 15 5))
  | .wfm => .wfm
  | .cseal => .cseal (r5 (fld w 15 5))
  | .crestart => .crestart (r5 (fld w 15 5))
  | .sig => .sig (BitVec.ofNat 12 (fld w 20 12)) (fld w 19 1 == 1) ((EndKind.ofCode (fld w 17 2 * 2 + fld w 11 1)).getD .plain)
  | .hloop => .hloop (fld w 7 1 == 1) (r5 (fld w 15 5)) (BitVec.ofNat 2 (fld w 20 2)) (BitVec.ofNat 10 (fld w 22 10))
  | .fmt => .fmt ((Fmt.ofCode (fld w 28 4)).getD .none) ((Fmt.ofCode (fld w 24 4)).getD .none) ((Fmt.ofCode (fld w 20 4)).getD .none) ((ScaleMode.ofCode (fld w 18 2)).getD .plain)

/-- The decoder (R38 to R66; PRESUMED, log 11). -/
def decode (w : W32) : Except Reject Instr :=
  match opOf w with
  | .ok op => .ok (build w.toNat op)
  | .error r => .error r

/-- The instruction of a stored word, from its four bytes. -/
def decodeBytes (l : List Byte) : Except Reject Instr := decode (wordOf l)

/-- The decoder on the bits of an opcode-table row: one 32-bit word, no bits above it. -/
def decodeTableWord (nbits w : Nat) : Option Instr :=
  if nbits ≤ 32 && w < 2 ^ 32 then
    match decodeBytes (wordBytes (w32 w)) with
    | .ok i => some i
    | .error _ => none
  else none

end

/-! The encoder. -/

/-- The word of fields above the major opcode: funct7, rs2, rs1, funct3, rd. -/
def encR (major f7 b a f3 d : Nat) : W32 :=
  w32 (major + d * 2 ^ 7 + f3 * 2 ^ 12 + a * 2 ^ 15 + b * 2 ^ 20 + f7 * 2 ^ 25)

/-- The word with a 12-bit immediate in [31:20]. -/
def encI (major imm a f3 d : Nat) : W32 :=
  w32 (major + d * 2 ^ 7 + f3 * 2 ^ 12 + a * 2 ^ 15 + imm * 2 ^ 20)

/-- The word with a 12-bit immediate in [31:25] and [11:7]. -/
def encS (major imm b a f3 : Nat) : W32 := encR major (imm / 32) b a f3 (imm % 32)

/-- A BRANCH word; `off` is imm[12:1]. -/
def encB (off b a f3 : Nat) : W32 :=
  encR 0x63 (off / 2048 * 64 + off / 16 % 64) b a f3 (off % 16 * 2 + off / 1024 % 2)

/-- LUI and AUIPC. -/
def encU (major imm d : Nat) : W32 := w32 (major + d * 2 ^ 7 + imm * 2 ^ 12)

/-- V and VM words: funct4 and the 3-bit field above vs2. -/
def encV (major f4 c b a f3 d : Nat) : W32 := encR major (f4 * 8 + c) b a f3 d

/-- M words (R43). -/
def encM (f3 sx sw ac ms c cf : Nat) : W32 :=
  w32 (0x7B + cf * 2 ^ 7 + c * 2 ^ 9 + f3 * 2 ^ 12 + ms * 2 ^ 15 + ac * 2 ^ 18 + sw * 2 ^ 21 + sx * 2 ^ 26)

/-- The words of an instruction; a step of the device's other agents has none. -/
def encode : Instr → List W32
  | .lui rd imm => [encU 0x37 imm.toNat rd.toNat]
  | .auipc rd imm => [encU 0x17 imm.toNat rd.toNat]
  | .jal rd off => [w32 (0x6F + rd.toNat * 2 ^ 7 + off.toNat / 2048 % 256 * 2 ^ 12 + off.toNat / 1024 % 2 * 2 ^ 20 + off.toNat % 1024 * 2 ^ 21 + off.toNat / 524288 * 2 ^ 31)]
  | .jalr rd rs1 imm => [encI 0x67 imm.toNat rs1.toNat 0 rd.toNat]
  | .beq rs1 rs2 off => [encB off.toNat rs2.toNat rs1.toNat 0]
  | .bne rs1 rs2 off => [encB off.toNat rs2.toNat rs1.toNat 1]
  | .blt rs1 rs2 off => [encB off.toNat rs2.toNat rs1.toNat 4]
  | .bge rs1 rs2 off => [encB off.toNat rs2.toNat rs1.toNat 5]
  | .bltu rs1 rs2 off => [encB off.toNat rs2.toNat rs1.toNat 6]
  | .bgeu rs1 rs2 off => [encB off.toNat rs2.toNat rs1.toNat 7]
  | .lb rd rs1 imm => [encI 0x03 imm.toNat rs1.toNat 0 rd.toNat]
  | .lh rd rs1 imm => [encI 0x03 imm.toNat rs1.toNat 1 rd.toNat]
  | .lw rd rs1 imm => [encI 0x03 imm.toNat rs1.toNat 2 rd.toNat]
  | .ld rd rs1 imm => [encI 0x03 imm.toNat rs1.toNat 3 rd.toNat]
  | .lbu rd rs1 imm => [encI 0x03 imm.toNat rs1.toNat 4 rd.toNat]
  | .lhu rd rs1 imm => [encI 0x03 imm.toNat rs1.toNat 5 rd.toNat]
  | .lwu rd rs1 imm => [encI 0x03 imm.toNat rs1.toNat 6 rd.toNat]
  | .sb rs1 rs2 imm => [encS 0x23 imm.toNat rs2.toNat rs1.toNat 0]
  | .sh rs1 rs2 imm => [encS 0x23 imm.toNat rs2.toNat rs1.toNat 1]
  | .sw rs1 rs2 imm => [encS 0x23 imm.toNat rs2.toNat rs1.toNat 2]
  | .sd rs1 rs2 imm => [encS 0x23 imm.toNat rs2.toNat rs1.toNat 3]
  | .addi rd rs1 imm => [encI 0x13 imm.toNat rs1.toNat 0 rd.toNat]
  | .slti rd rs1 imm => [encI 0x13 imm.toNat rs1.toNat 2 rd.toNat]
  | .sltiu rd rs1 imm => [encI 0x13 imm.toNat rs1.toNat 3 rd.toNat]
  | .xori rd rs1 imm => [encI 0x13 imm.toNat rs1.toNat 4 rd.toNat]
  | .ori rd rs1 imm => [encI 0x13 imm.toNat rs1.toNat 6 rd.toNat]
  | .andi rd rs1 imm => [encI 0x13 imm.toNat rs1.toNat 7 rd.toNat]
  | .slli rd rs1 sh => [encI 0x13 sh.toNat rs1.toNat 1 rd.toNat]
  | .srli rd rs1 sh => [encI 0x13 sh.toNat rs1.toNat 5 rd.toNat]
  | .srai rd rs1 sh => [encI 0x13 (0x400 + sh.toNat) rs1.toNat 5 rd.toNat]
  | .add rd rs1 rs2 => [encR 0x33 0 rs2.toNat rs1.toNat 0 rd.toNat]
  | .sub rd rs1 rs2 => [encR 0x33 0x20 rs2.toNat rs1.toNat 0 rd.toNat]
  | .sll rd rs1 rs2 => [encR 0x33 0 rs2.toNat rs1.toNat 1 rd.toNat]
  | .slt rd rs1 rs2 => [encR 0x33 0 rs2.toNat rs1.toNat 2 rd.toNat]
  | .sltu rd rs1 rs2 => [encR 0x33 0 rs2.toNat rs1.toNat 3 rd.toNat]
  | .xor rd rs1 rs2 => [encR 0x33 0 rs2.toNat rs1.toNat 4 rd.toNat]
  | .srl rd rs1 rs2 => [encR 0x33 0 rs2.toNat rs1.toNat 5 rd.toNat]
  | .sra rd rs1 rs2 => [encR 0x33 0x20 rs2.toNat rs1.toNat 5 rd.toNat]
  | .or rd rs1 rs2 => [encR 0x33 0 rs2.toNat rs1.toNat 6 rd.toNat]
  | .and rd rs1 rs2 => [encR 0x33 0 rs2.toNat rs1.toNat 7 rd.toNat]
  | .addiw rd rs1 imm => [encI 0x1B imm.toNat rs1.toNat 0 rd.toNat]
  | .slliw rd rs1 sh => [encI 0x1B sh.toNat rs1.toNat 1 rd.toNat]
  | .srliw rd rs1 sh => [encI 0x1B sh.toNat rs1.toNat 5 rd.toNat]
  | .sraiw rd rs1 sh => [encI 0x1B (0x400 + sh.toNat) rs1.toNat 5 rd.toNat]
  | .addw rd rs1 rs2 => [encR 0x3B 0 rs2.toNat rs1.toNat 0 rd.toNat]
  | .subw rd rs1 rs2 => [encR 0x3B 0x20 rs2.toNat rs1.toNat 0 rd.toNat]
  | .sllw rd rs1 rs2 => [encR 0x3B 0 rs2.toNat rs1.toNat 1 rd.toNat]
  | .srlw rd rs1 rs2 => [encR 0x3B 0 rs2.toNat rs1.toNat 5 rd.toNat]
  | .sraw rd rs1 rs2 => [encR 0x3B 0x20 rs2.toNat rs1.toNat 5 rd.toNat]
  | .fence fm pred succ rd rs1 => [encI 0x0F (fm.toNat * 256 + pred.toNat * 16 + succ.toNat) rs1.toNat 0 rd.toNat]
  | .fenceTso rd rs1 => [encI 0x0F 0x833 rs1.toNat 0 rd.toNat]
  | .pause => [encI 0x0F 0x010 0 0 0]
  | .ecall => [encI 0x73 0 0 0 0]
  | .ebreak => [encI 0x73 1 0 0 0]
  | .mul rd rs1 rs2 => [encR 0x33 1 rs2.toNat rs1.toNat 0 rd.toNat]
  | .mulh rd rs1 rs2 => [encR 0x33 1 rs2.toNat rs1.toNat 1 rd.toNat]
  | .mulhsu rd rs1 rs2 => [encR 0x33 1 rs2.toNat rs1.toNat 2 rd.toNat]
  | .mulhu rd rs1 rs2 => [encR 0x33 1 rs2.toNat rs1.toNat 3 rd.toNat]
  | .div rd rs1 rs2 => [encR 0x33 1 rs2.toNat rs1.toNat 4 rd.toNat]
  | .divu rd rs1 rs2 => [encR 0x33 1 rs2.toNat rs1.toNat 5 rd.toNat]
  | .rem rd rs1 rs2 => [encR 0x33 1 rs2.toNat rs1.toNat 6 rd.toNat]
  | .remu rd rs1 rs2 => [encR 0x33 1 rs2.toNat rs1.toNat 7 rd.toNat]
  | .mulw rd rs1 rs2 => [encR 0x3B 1 rs2.toNat rs1.toNat 0 rd.toNat]
  | .divw rd rs1 rs2 => [encR 0x3B 1 rs2.toNat rs1.toNat 4 rd.toNat]
  | .divuw rd rs1 rs2 => [encR 0x3B 1 rs2.toNat rs1.toNat 5 rd.toNat]
  | .remw rd rs1 rs2 => [encR 0x3B 1 rs2.toNat rs1.toNat 6 rd.toNat]
  | .remuw rd rs1 rs2 => [encR 0x3B 1 rs2.toNat rs1.toNat 7 rd.toNat]
  | .lrW rd rs1 aq rl => [encR 0x2F (2 * 4 + aq.toNat * 2 + rl.toNat) 0 rs1.toNat 2 rd.toNat]
  | .lrD rd rs1 aq rl => [encR 0x2F (2 * 4 + aq.toNat * 2 + rl.toNat) 0 rs1.toNat 3 rd.toNat]
  | .scW rd rs1 rs2 aq rl => [encR 0x2F (3 * 4 + aq.toNat * 2 + rl.toNat) rs2.toNat rs1.toNat 2 rd.toNat]
  | .scD rd rs1 rs2 aq rl => [encR 0x2F (3 * 4 + aq.toNat * 2 + rl.toNat) rs2.toNat rs1.toNat 3 rd.toNat]
  | .amoSwapW rd rs1 rs2 aq rl => [encR 0x2F (1 * 4 + aq.toNat * 2 + rl.toNat) rs2.toNat rs1.toNat 2 rd.toNat]
  | .amoSwapD rd rs1 rs2 aq rl => [encR 0x2F (1 * 4 + aq.toNat * 2 + rl.toNat) rs2.toNat rs1.toNat 3 rd.toNat]
  | .amoAddW rd rs1 rs2 aq rl => [encR 0x2F (0 * 4 + aq.toNat * 2 + rl.toNat) rs2.toNat rs1.toNat 2 rd.toNat]
  | .amoAddD rd rs1 rs2 aq rl => [encR 0x2F (0 * 4 + aq.toNat * 2 + rl.toNat) rs2.toNat rs1.toNat 3 rd.toNat]
  | .amoXorW rd rs1 rs2 aq rl => [encR 0x2F (4 * 4 + aq.toNat * 2 + rl.toNat) rs2.toNat rs1.toNat 2 rd.toNat]
  | .amoXorD rd rs1 rs2 aq rl => [encR 0x2F (4 * 4 + aq.toNat * 2 + rl.toNat) rs2.toNat rs1.toNat 3 rd.toNat]
  | .amoAndW rd rs1 rs2 aq rl => [encR 0x2F (12 * 4 + aq.toNat * 2 + rl.toNat) rs2.toNat rs1.toNat 2 rd.toNat]
  | .amoAndD rd rs1 rs2 aq rl => [encR 0x2F (12 * 4 + aq.toNat * 2 + rl.toNat) rs2.toNat rs1.toNat 3 rd.toNat]
  | .amoOrW rd rs1 rs2 aq rl => [encR 0x2F (8 * 4 + aq.toNat * 2 + rl.toNat) rs2.toNat rs1.toNat 2 rd.toNat]
  | .amoOrD rd rs1 rs2 aq rl => [encR 0x2F (8 * 4 + aq.toNat * 2 + rl.toNat) rs2.toNat rs1.toNat 3 rd.toNat]
  | .amoMinW rd rs1 rs2 aq rl => [encR 0x2F (16 * 4 + aq.toNat * 2 + rl.toNat) rs2.toNat rs1.toNat 2 rd.toNat]
  | .amoMinD rd rs1 rs2 aq rl => [encR 0x2F (16 * 4 + aq.toNat * 2 + rl.toNat) rs2.toNat rs1.toNat 3 rd.toNat]
  | .amoMaxW rd rs1 rs2 aq rl => [encR 0x2F (20 * 4 + aq.toNat * 2 + rl.toNat) rs2.toNat rs1.toNat 2 rd.toNat]
  | .amoMaxD rd rs1 rs2 aq rl => [encR 0x2F (20 * 4 + aq.toNat * 2 + rl.toNat) rs2.toNat rs1.toNat 3 rd.toNat]
  | .amoMinuW rd rs1 rs2 aq rl => [encR 0x2F (24 * 4 + aq.toNat * 2 + rl.toNat) rs2.toNat rs1.toNat 2 rd.toNat]
  | .amoMinuD rd rs1 rs2 aq rl => [encR 0x2F (24 * 4 + aq.toNat * 2 + rl.toNat) rs2.toNat rs1.toNat 3 rd.toNat]
  | .amoMaxuW rd rs1 rs2 aq rl => [encR 0x2F (28 * 4 + aq.toNat * 2 + rl.toNat) rs2.toNat rs1.toNat 2 rd.toNat]
  | .amoMaxuD rd rs1 rs2 aq rl => [encR 0x2F (28 * 4 + aq.toNat * 2 + rl.toNat) rs2.toNat rs1.toNat 3 rd.toNat]
  | .flw rd rs1 imm => [encI 0x07 imm.toNat rs1.toNat 2 rd.toNat]
  | .fsw rs1 rs2 imm => [encS 0x27 imm.toNat rs2.toNat rs1.toNat 2]
  | .fmaddS rd rs1 rs2 rs3 rm => [encR 0x43 (rs3.toNat * 4) rs2.toNat rs1.toNat rm.code rd.toNat]
  | .fmsubS rd rs1 rs2 rs3 rm => [encR 0x47 (rs3.toNat * 4) rs2.toNat rs1.toNat rm.code rd.toNat]
  | .fnmsubS rd rs1 rs2 rs3 rm => [encR 0x4b (rs3.toNat * 4) rs2.toNat rs1.toNat rm.code rd.toNat]
  | .fnmaddS rd rs1 rs2 rs3 rm => [encR 0x4f (rs3.toNat * 4) rs2.toNat rs1.toNat rm.code rd.toNat]
  | .faddS rd rs1 rs2 rm => [encR 0x53 0 rs2.toNat rs1.toNat rm.code rd.toNat]
  | .fsubS rd rs1 rs2 rm => [encR 0x53 4 rs2.toNat rs1.toNat rm.code rd.toNat]
  | .fmulS rd rs1 rs2 rm => [encR 0x53 8 rs2.toNat rs1.toNat rm.code rd.toNat]
  | .fdivS rd rs1 rs2 rm => [encR 0x53 12 rs2.toNat rs1.toNat rm.code rd.toNat]
  | .fsqrtS rd rs1 rm => [encR 0x53 0x2C 0 rs1.toNat rm.code rd.toNat]
  | .fsgnjS rd rs1 rs2 => [encR 0x53 0x10 rs2.toNat rs1.toNat 0 rd.toNat]
  | .fsgnjnS rd rs1 rs2 => [encR 0x53 0x10 rs2.toNat rs1.toNat 1 rd.toNat]
  | .fsgnjxS rd rs1 rs2 => [encR 0x53 0x10 rs2.toNat rs1.toNat 2 rd.toNat]
  | .fminS rd rs1 rs2 => [encR 0x53 0x14 rs2.toNat rs1.toNat 0 rd.toNat]
  | .fmaxS rd rs1 rs2 => [encR 0x53 0x14 rs2.toNat rs1.toNat 1 rd.toNat]
  | .fcvtWS rd rs1 rm => [encR 0x53 0x60 0 rs1.toNat rm.code rd.toNat]
  | .fcvtWuS rd rs1 rm => [encR 0x53 0x60 1 rs1.toNat rm.code rd.toNat]
  | .fcvtLS rd rs1 rm => [encR 0x53 0x60 2 rs1.toNat rm.code rd.toNat]
  | .fcvtLuS rd rs1 rm => [encR 0x53 0x60 3 rs1.toNat rm.code rd.toNat]
  | .fcvtSW rd rs1 rm => [encR 0x53 0x68 0 rs1.toNat rm.code rd.toNat]
  | .fcvtSWu rd rs1 rm => [encR 0x53 0x68 1 rs1.toNat rm.code rd.toNat]
  | .fcvtSL rd rs1 rm => [encR 0x53 0x68 2 rs1.toNat rm.code rd.toNat]
  | .fcvtSLu rd rs1 rm => [encR 0x53 0x68 3 rs1.toNat rm.code rd.toNat]
  | .fmvXW rd rs1 => [encR 0x53 0x70 0 rs1.toNat 0 rd.toNat]
  | .fmvWX rd rs1 => [encR 0x53 0x78 0 rs1.toNat 0 rd.toNat]
  | .feqS rd rs1 rs2 => [encR 0x53 0x50 rs2.toNat rs1.toNat 2 rd.toNat]
  | .fltS rd rs1 rs2 => [encR 0x53 0x50 rs2.toNat rs1.toNat 1 rd.toNat]
  | .fleS rd rs1 rs2 => [encR 0x53 0x50 rs2.toNat rs1.toNat 0 rd.toNat]
  | .fclassS rd rs1 => [encR 0x53 0x70 0 rs1.toNat 1 rd.toNat]
  | .csrrw rd rs1 csr => [encI 0x73 csr.toNat rs1.toNat 1 rd.toNat]
  | .csrrs rd rs1 csr => [encI 0x73 csr.toNat rs1.toNat 2 rd.toNat]
  | .csrrc rd rs1 csr => [encI 0x73 csr.toNat rs1.toNat 3 rd.toNat]
  | .csrrwi rd uimm csr => [encI 0x73 csr.toNat uimm.toNat 5 rd.toNat]
  | .csrrsi rd uimm csr => [encI 0x73 csr.toNat uimm.toNat 6 rd.toNat]
  | .csrrci rd uimm csr => [encI 0x73 csr.toNat uimm.toNat 7 rd.toNat]
  | .mret => [encI 0x73 0x302 0 0 0]
  | .sret => [encI 0x73 0x102 0 0 0]
  | .wfi => [encI 0x73 0x105 0 0 0]
  | .vadd vd vs1 vs2 t sc => [encV 0x0B 0 sc.toNat vs2.toNat vs1.toNat t.code vd.toNat]
  | .vsub vd vs1 vs2 t sc => [encV 0x0B 1 sc.toNat vs2.toNat vs1.toNat t.code vd.toNat]
  | .vmul vd vs1 vs2 t sc => [encV 0x0B 2 sc.toNat vs2.toNat vs1.toNat t.code vd.toNat]
  | .vfma vd vs1 vs2 t sc => [encV 0x0B 3 sc.toNat vs2.toNat vs1.toNat t.code vd.toNat]
  | .vfms vd vs1 vs2 t sc => [encV 0x0B 4 sc.toNat vs2.toNat vs1.toNat t.code vd.toNat]
  | .vmin vd vs1 vs2 t sc => [encV 0x0B 5 sc.toNat vs2.toNat vs1.toNat t.code vd.toNat]
  | .vmax vd vs1 vs2 t sc => [encV 0x0B 6 sc.toNat vs2.toNat vs1.toNat t.code vd.toNat]
  | .vdot4 vd vs1 vs2 t sc => [encV 0x0B 7 sc.toNat vs2.toNat vs1.toNat t.code vd.toNat]
  | .vcmp md cc vs1 vs2 t sc => [encV 0x0B 8 sc.toNat vs2.toNat vs1.toNat t.code (cc.code * 8 + md.toNat)]
  | .vshl vd vs1 vs2 t sc => [encV 0x0B 9 sc.toNat vs2.toNat vs1.toNat t.code vd.toNat]
  | .vshr vd vs1 vs2 t sc => [encV 0x0B 10 sc.toNat vs2.toNat vs1.toNat t.code vd.toNat]
  | .vsra vd vs1 vs2 t sc => [encV 0x0B 11 sc.toNat vs2.toNat vs1.toNat t.code vd.toNat]
  | .vand vd vs1 vs2 sc => [encV 0x0B 12 sc.toNat vs2.toNat vs1.toNat 0 vd.toNat]
  | .vor vd vs1 vs2 sc => [encV 0x0B 12 sc.toNat vs2.toNat vs1.toNat 1 vd.toNat]
  | .vxor vd vs1 vs2 sc => [encV 0x0B 12 sc.toNat vs2.toNat vs1.toNat 2 vd.toNat]
  | .vperm vd vs1 vs2 w sc => [encV 0x0B 12 sc.toNat vs2.toNat vs1.toNat (4 + w.code) vd.toNat]
  | .vabs vd vs1 t sc => [encV 0x0B 13 sc.toNat 0 vs1.toNat t.code vd.toNat]
  | .vneg vd vs1 t sc => [encV 0x0B 13 sc.toNat 1 vs1.toNat t.code vd.toNat]
  | .vmov vd vs1 t sc => [encV 0x0B 13 sc.toNat 2 vs1.toNat t.code vd.toNat]
  | .vexp2 vd vs1 t sc => [encV 0x0B 13 sc.toNat 3 vs1.toNat t.code vd.toNat]
  | .vlog2 vd vs1 t sc => [encV 0x0B 13 sc.toNat 4 vs1.toNat t.code vd.toNat]
  | .vrcp vd vs1 t sc => [encV 0x0B 13 sc.toNat 5 vs1.toNat t.code vd.toNat]
  | .vrsq vd vs1 t sc => [encV 0x0B 13 sc.toNat 6 vs1.toNat t.code vd.toNat]
  | .vrsum vd vs1 t sc => [encV 0x0B 13 sc.toNat 7 vs1.toNat t.code vd.toNat]
  | .vrmax vd vs1 t sc => [encV 0x0B 13 sc.toNat 8 vs1.toNat t.code vd.toNat]
  | .vrmin vd vs1 t sc => [encV 0x0B 13 sc.toNat 9 vs1.toNat t.code vd.toNat]
  | .vidx vd t sc => [encV 0x0B 13 sc.toNat 10 0 t.code vd.toNat]
  | .vsplat vd rs1 t sc => [encV 0x0B 13 sc.toNat 11 rs1.toNat t.code vd.toNat]
  | .vbcast vd vs1 t sc => [encV 0x0B 13 sc.toNat 12 vs1.toNat t.code vd.toNat]
  | .vslideDn vd vs1 k w sc => [encV 0x0B 14 sc.toNat k.toNat vs1.toNat (w.code * 2) vd.toNat]
  | .vslideUp vd vs1 k w sc => [encV 0x0B 14 sc.toNat k.toNat vs1.toNat (w.code * 2 + 1) vd.toNat]
  | .vcvt vd vs1 rm sat amax sc => [encV 0x0B 15 sc.toNat (rm.code * 8 + sat.toNat * 4 + amax.toNat * 2) vs1.toNat 0 vd.toNat]
  | .vquant vd vs1 rm sat amax sc => [encV 0x0B 15 sc.toNat (rm.code * 8 + sat.toNat * 4 + amax.toNat * 2) vs1.toNat 1 vd.toNat]
  | .vdeq vd vs1 rm sat amax sc => [encV 0x0B 15 sc.toNat (rm.code * 8 + sat.toNat * 4 + amax.toNat * 2) vs1.toNat 2 vd.toNat]
  | .tbld vs1 sc => [encV 0x0B 15 sc.toNat 0 vs1.toNat 3 0]
  | .cbld rs1 => [encV 0x0B 15 0 0 rs1.toNat 4 0]
  | .srseed rs1 => [encV 0x0B 15 0 0 rs1.toNat 5 0]
  | .vld vd rs1 rs2 mk w => [encV 0x2B 0 mk.toNat rs2.toNat rs1.toNat w.code vd.toNat]
  | .vst vs3 rs1 rs2 mk w => [encV 0x2B 1 mk.toNat rs2.toNat rs1.toNat w.code vs3.toNat]
  | .vlds vd rs1 rs2 mk w => [encV 0x2B 2 mk.toNat rs2.toNat rs1.toNat w.code vd.toNat]
  | .vsts vs3 rs1 rs2 mk w => [encV 0x2B 3 mk.toNat rs2.toNat rs1.toNat w.code vs3.toNat]
  | .sbindSrc v rs1 => [encV 0x2B 4 0 0 rs1.toNat 0 (24 + v.toNat)]
  | .sbindDst v rs1 => [encV 0x2B 4 0 0 rs1.toNat 1 (24 + v.toNat)]
  | .sunbind v => [encV 0x2B 5 0 0 0 0 (24 + v.toNat)]
  | .vsel vd vs1 vs2 mk w => [encV 0x2B 6 mk.toNat vs2.toNat vs1.toNat w.code vd.toNat]
  | .mand md ms1 ms2 => [encV 0x2B 7 0 ms2.toNat ms1.toNat 0 md.toNat]
  | .mor md ms1 ms2 => [encV 0x2B 7 0 ms2.toNat ms1.toNat 1 md.toNat]
  | .mxor md ms1 ms2 => [encV 0x2B 7 0 ms2.toNat ms1.toNat 2 md.toNat]
  | .mnot md ms1 => [encV 0x2B 7 0 0 ms1.toNat 3 md.toNat]
  | .mpop rd ms1 => [encV 0x2B 7 0 0 ms1.toNat 4 rd.toNat]
  | .vloop rs1 len => [encV 0x2B 8 0 len.toNat rs1.toNat 0 0]
  | .bqput rs1 => [encV 0x2B 9 0 0 rs1.toNat 0 0]
  | .bqget rd => [encV 0x2B 10 0 0 0 0 rd.toNat]
  | .ldFeKeep rd rs1 => [encR 0x5B 0 0 rs1.toNat 0 rd.toNat]
  | .ldFeClr rd rs1 => [encR 0x5B 1 0 rs1.toNat 0 rd.toNat]
  | .stFe rs1 rs2 => [encR 0x5B 2 rs2.toNat rs1.toNat 0 0]
  | .fesetEmpty rs1 => [encR 0x5B 3 0 rs1.toNat 0 0]
  | .fesetFull rs1 => [encR 0x5B 4 0 rs1.toNat 0 0]
  | .feqry rd rs1 => [encR 0x5B 5 0 rs1.toNat 0 rd.toNat]
  | .gathA vd va => [encR 0x5B 8 0 (va.toNat * 2) 0 vd.toNat]
  | .gathX vd rs1 vs2 => [encR 0x5B 9 vs2.toNat rs1.toNat 0 vd.toNat]
  | .scatA vs3 va => [encR 0x5B 0xA 0 (va.toNat * 2) 0 vs3.toNat]
  | .scatX vs3 rs1 vs2 => [encR 0x5B 0xB vs2.toNat rs1.toNat 0 vs3.toNat]
  | .cpy rd rs1 rs2 => [encR 0x5B 0x10 rs2.toNat rs1.toNat 0 rd.toNat]
  | .cpyw rd rs1 => [encR 0x5B 0x11 0 rs1.toNat 0 rd.toNat]
  | .fenceScoped s k => [encR 0x5B (s.code * 4 + k.code) 0 0 1 0]
  | .lda rd rs1 s wd => [encR 0x5B (32 + s.code * 4 + wd.code) 0 rs1.toNat 1 rd.toNat]
  | .strl rs1 rs2 s wd => [encR 0x5B (64 + s.code * 4 + wd.code) rs2.toNat rs1.toNat 1 0]
  | .fxadd rs1 rs2 => [encR 0x5B 0x60 rs2.toNat rs1.toNat 1 0]
  | .fxrd rd rs1 => [encR 0x5B 0x61 0 rs1.toNat 1 rd.toNat]
  | .fxrdLo rd rs1 => [encR 0x5B 0x62 0 rs1.toNat 1 rd.toNat]
  | .fxrdHi rd rs1 => [encR 0x5B 0x63 0 rs1.toNat 1 rd.toNat]
  | .fxclr rs1 => [encR 0x5B 0x64 0 rs1.toNat 1 0]
  | .rlqry rd rs1 => [encR 0x5B 0x65 0 rs1.toNat 1 rd.toNat]
  | .amoAddScoped rd rs1 rs2 s => [encR 0x5B (0 * 8 + s.code) rs2.toNat rs1.toNat 5 rd.toNat]
  | .amoSwapScoped rd rs1 rs2 s => [encR 0x5B (1 * 8 + s.code) rs2.toNat rs1.toNat 5 rd.toNat]
  | .amoAndScoped rd rs1 rs2 s => [encR 0x5B (2 * 8 + s.code) rs2.toNat rs1.toNat 5 rd.toNat]
  | .amoOrScoped rd rs1 rs2 s => [encR 0x5B (3 * 8 + s.code) rs2.toNat rs1.toNat 5 rd.toNat]
  | .amoXorScoped rd rs1 rs2 s => [encR 0x5B (4 * 8 + s.code) rs2.toNat rs1.toNat 5 rd.toNat]
  | .amoMinScoped rd rs1 rs2 s => [encR 0x5B (5 * 8 + s.code) rs2.toNat rs1.toNat 5 rd.toNat]
  | .amoMaxScoped rd rs1 rs2 s => [encR 0x5B (6 * 8 + s.code) rs2.toNat rs1.toNat 5 rd.toNat]
  | .amoMinuScoped rd rs1 rs2 s => [encR 0x5B (7 * 8 + s.code) rs2.toNat rs1.toNat 5 rd.toNat]
  | .amoMaxuScoped rd rs1 rs2 s => [encR 0x5B (8 * 8 + s.code) rs2.toNat rs1.toNat 5 rd.toNat]
  | .amoCasScoped rd rs1 rs2 s => [encR 0x5B (9 * 8 + s.code) rs2.toNat rs1.toNat 5 rd.toNat]
  | .spawn rs1 => [encR 0x5B 0x00 0 rs1.toNat 2 0]
  | .spawnNb rd rs1 => [encR 0x5B 0x01 0 rs1.toNat 2 rd.toNat]
  | .spawnr rs1 rs2 => [encR 0x5B 0x02 rs2.toNat rs1.toNat 2 0]
  | .spawnat rs1 rs2 => [encR 0x5B 0x03 rs2.toNat rs1.toNat 2 0]
  | .tend rs1 => [encR 0x5B 0x04 0 rs1.toNat 2 0]
  | .joininit rs1 rs2 => [encR 0x5B 0x08 rs2.toNat rs1.toNat 2 0]
  | .joinadd rs1 rs2 => [encR 0x5B 0x09 rs2.toNat rs1.toNat 2 0]
  | .joinarm rs1 rs2 => [encR 0x5B 0x0A rs2.toNat rs1.toNat 2 0]
  | .press rd => [encR 0x5B 0x10 0 0 2 rd.toNat]
  | .dqpush rs1 rs2 => [encR 0x5B 0x18 rs2.toNat rs1.toNat 2 0]
  | .dqpop rd => [encR 0x5B 0x19 0 0 2 rd.toNat]
  | .dqsplit => [encR 0x5B 0x1A 0 0 2 0]
  | .dqspill rd rs1 => [encR 0x5B 0x1B 0 rs1.toNat 2 rd.toNat]
  | .rpush rs1 rs2 => [encR 0x5B 0x20 rs2.toNat rs1.toNat 2 0]
  | .rpop rd rs1 rs2 => [encR 0x5B 0x21 rs2.toNat rs1.toNat 2 rd.toNat]
  | .rpeek rd rs1 rs2 => [encR 0x5B 0x22 rs2.toNat rs1.toNat 2 rd.toNat]
  | .grpbar rs1 => [encR 0x5B 0x28 0 rs1.toNat 2 0]
  | .arm rd => [encR 0x5B 0x00 0 0 3 rd.toNat]
  | .sendw rs1 rs2 => [encR 0x5B 0x01 rs2.toNat rs1.toNat 3 0]
  | .sendh rs1 rs2 => [encR 0x5B 0x02 rs2.toNat rs1.toNat 3 0]
  | .msgret => [encR 0x5B 0x03 0 0 3 0]
  | .chbind v rs1 => [encR 0x5B 4 0 rs1.toNat 3 (24 + v.toNat)]
  | .migrate rs1 rs2 => [encR 0x5B 0x05 rs2.toNat rs1.toNat 3 0]
  | .grpw rs1 rs2 => [encR 0x5B 0 rs2.toNat rs1.toNat 4 0]
  | .mcw rs1 rs2 => [encR 0x5B 1 rs2.toNat rs1.toNat 4 0]
  | .jkset rs1 rs2 => [encR 0x5B 2 rs2.toNat rs1.toNat 4 0]
  | .keyrot rs1 => [encR 0x5B 3 0 rs1.toNat 4 0]
  | .mstg sx sw ac ms sc => [encM 0 sx.toNat sw.toNat ac.toNat ms.toNat sc.toNat 0]
  | .mstgAcc sx sw ac ms sc => [encM 0 sx.toNat sw.toNat ac.toNat ms.toNat sc.toNat 1]
  | .mxst sx sw ac ms sc => [encM 1 sx.toNat sw.toNat (ac.toNat * 2) ms.toNat sc.toNat 0]
  | .mxstAcc sx sw ac ms sc => [encM 1 sx.toNat sw.toNat (ac.toNat * 2) ms.toNat sc.toNat 1]
  | .mchain sx sw ac ms sc cf => [encM 2 sx.toNat sw.toNat ac.toNat ms.toNat sc.toNat cf.code]
  | .mchainAcc sx sw ac ms sc cf => [encM 3 sx.toNat sw.toNat ac.toNat ms.toNat sc.toNat cf.code]
  | .mlease rs1 => [encR 0x7B 0x00 0 rs1.toNat 4 0]
  | .mrel => [encR 0x7B 0x01 0 0 4 0]
  | .oclaim rd rs1 => [encR 0x7B 0x02 0 rs1.toNat 4 rd.toNat]
  | .orel rs1 rs2 => [encR 0x7B 0x03 rs2.toNat rs1.toNat 4 0]
  | .ofill rs1 rs2 => [encR 0x7B 0x04 rs2.toNat rs1.toNat 4 0]
  | .odrain rs1 rs2 => [encR 0x7B 0x05 rs2.toNat rs1.toNat 4 0]
  | .odrainAmax rs1 rs2 => [encR 0x7B 0x06 rs2.toNat rs1.toNat 4 0]
  | .mstride rs1 rs2 => [encR 0x7B 0x07 rs2.toNat rs1.toNat 4 0]
  | .maccz rs1 => [encR 0x7B 0x08 0 rs1.toNat 4 0]
  | .mwait => [encR 0x7B 0x09 0 0 4 0]
  | .mrgu rs1 rs2 => [encR 0x7B 0x10 rs2.toNat rs1.toNat 4 0]
  | .mrguDz rs1 rs2 => [encR 0x7B 0x11 rs2.toNat rs1.toNat 4 0]
  | .mrgi rs1 rs2 => [encR 0x7B 0x12 rs2.toNat rs1.toNat 4 0]
  | .scnv rs1 rs2 => [encR 0x7B 0x13 rs2.toNat rs1.toNat 4 0]
  | .scnvw rd rs1 => [encR 0x7B 0x14 0 rs1.toNat 4 rd.toNat]
  | .lclr0 => [encR 0x7B 0x20 0 0 4 0]
  | .lclr1 => [encR 0x7B 0x21 0 0 4 0]
  | .safept k => [w32 (0x6000407B + k.toNat * 2 ^ 15)]
  | .codecmt rd rs1 => [encR 0x7B 0x31 0 rs1.toNat 4 rd.toNat]
  | .wfm => [encR 0x7B 0x32 0 0 4 0]
  | .cseal rs1 => [encR 0x7B 0x38 0 rs1.toNat 4 0]
  | .crestart rs1 => [encR 0x7B 0x39 0 rs1.toNat 4 0]
  | .sig crc e k => [w32 (0x507B + k.code % 2 * 2 ^ 11 + k.code / 2 * 2 ^ 17 + e.toNat * 2 ^ 19 + crc.toNat * 2 ^ 20)]
  | .hloop level rs1 soff eoff => [w32 (0x607B + level.toNat * 2 ^ 7 + rs1.toNat * 2 ^ 15 + soff.toNat * 2 ^ 20 + eoff.toNat * 2 ^ 22)]
  | .fmt fa fb fd sm => [w32 (0x707B + sm.code * 2 ^ 18 + fd.code * 2 ^ 20 + fb.code * 2 ^ 24 + fa.code * 2 ^ 28)]
  | .trapEntry _ => []
  | .localTimer _ => []
  | .stimecmpWrite _ _ => []
  | .srseedWrite _ _ => []
  | .cvamaxAccess _ _ _ => []
  | .registerWrite _ _ _ => []
  | .windowCsrAccess _ _ _ => []
  | .windowImemWrite _ _ _ => []
  | .codeScanStart _ => []
  | .codecmtCompletion _ => []
  | .streamImageFetch _ _ => []
  | .streamImageStore _ _ => []
  | .remoteRequest _ => []
  | .replyLanding _ => []
  | .storeAck _ => []
  | .errorReply _ => []
  | .gatherLaneReply _ => []
  | .virtualAccess _ => []
  | .priResponse _ _ _ _ _ => []
  | .atsCompletion _ _ _ _ _ _ => []
  | .atsInvalidation _ _ => []
  | .feRequest _ => []
  | .feTimeout _ => []
  | .feWithdraw _ => []
  | .engineQueueGrant _ _ => []
  | .copyCompletion _ => []
  | .typeEntryRead _ _ _ => []
  | .taskRecordArrival _ => []
  | .taskBufferAccept _ => []
  | .acceptanceNotice _ => []
  | .beaconInterval _ => []
  | .beacon _ => []
  | .neighbourSilence _ _ => []
  | .dispatch _ => []
  | .preemptionRequest _ => []
  | .dec _ => []
  | .joinOpArrival _ => []
  | .release _ => []
  | .unpin _ => []
  | .lost _ => []
  | .dieFailureNotice _ => []
  | .acceptanceTimeout _ _ => []
  | .ringNotify _ => []
  | .hostRingPoll _ => []
  | .launchStart _ => []
  | .launchEndNotice _ => []
  | .collect _ => []
  | .done _ => []
  | .completionRingRetry _ => []
  | .depositArrival _ => []
  | .depositHoldTimeout _ => []
  | .armedReadTimeout _ => []
  | .handlerMessageArrival _ => []
  | .handlerResend _ => []
  | .handlerResendTimeout _ => []
  | .handlerScan _ _ => []
  | .handlerEntry _ => []
  | .channelPacketArrival _ => []
  | .channelResend _ _ => []
  | .channelImageTimeout _ => []
  | .contextArrival _ => []
  | .contextResend _ => []
  | .spillRefill _ => []
  | .leaseGrant _ => []
  | .leaseIdleTimeout _ => []
  | .engineCommandStart _ => []
  | .engineCommandCompletion _ => []
  | .drainCompletion _ => []
  | .engineCommandFailure _ => []
  | .slotClearDone _ => []
  | .sparseCommandStart _ _ => []
  | .sparseCommandCompletion _ _ => []
  | .scnvwTimeout _ => []
  | .spawnWaitTimeout _ => []
  | .ringWaitTimeout _ => []
  | .flitReceive _ _ => []
  | .nak _ _ => []
  | .linkControlFlit _ => []
  | .linkDrop _ => []
  | .linkRetrained _ => []
  | .retrainTimeout _ => []
  | .gatewayPacketArrival _ _ _ => []
  | .sack _ _ _ => []
  | .sackTimer _ _ => []
  | .e2eResend _ _ => []
  | .peerUnreachable _ _ => []
  | .mcwCopyArrival _ => []
  | .groupInstall _ => []
  | .grpwCompletion _ => []
  | .keyrotCompletion _ => []
  | .keyrotTimeout _ => []
  | .droopStretch _ _ => []
  | .droopRecover _ => []
  | .saffronWatchdog _ => []
  | .bankRetire _ _ => []
  | .powerOn _ _ _ => []
  | .cxlMemAccess _ _ _ _ => []
  | .cmdringWrite _ => []
  | .cmdRingPoll => []
  | .attach _ _ _ _ => []
  | .detach _ _ => []
  | .ringbind _ _ _ _ => []
  | .endlaunch _ _ _ _ => []
  | .retire _ _ _ => []
  | .reload _ _ _ _ _ => []
  | .chkpt _ _ _ _ => []
  | .restore _ _ _ _ => []
  | .counters _ _ _ _ => []
  | .getVersion => []
  | .getCapabilities => []
  | .negotiateAlgorithms _ => []
  | .getDigests => []
  | .getCertificate _ _ _ => []
  | .challenge _ => []
  | .getMeasurements _ _ => []
  | .cxlPortDown _ _ => []
  | .keyStaging _ _ => []
  | .fabricPeerReset _ _ => []
  | .clusterFailure _ => []
  | .spaustLaneFailure _ => []
  | .chkptCompletion => []
  | .hdmDecoderSet _ => []

end Sys2Proof
end

