-- ==== Sys2Proof/Config.lean ====
section
/-! DEFINITION. What the spec leaves open, as constants with no body: no proof can see a value of
them, so a claim holds whatever they are. -/

namespace Sys2Proof.Config

/-- Free values, numbered by the counter `State.free` (DESIGN CHOICE, log 5). -/
opaque freeBits : Nat → BitVec 512

/-- How many cycles beyond the least pass before an instruction issues (DESIGN CHOICE, log 6). -/
opaque freeCycles : Nat → Nat

/-- Whether a trap of a standard cause whose mtval the privileged specification lets an implementation
leave 0 (1, 2, 3) reports its value (R105; PRESUMED, log 13). -/
opaque reportsTval : Nat → Bool

/-- SHA-384 over a byte string (R424; PRESUMED, log 7): 48 bytes. -/
opaque sha384 : List Byte → List Byte

/-- The ECDSA P-384 signature of the saffron controller over a byte string (R424; PRESUMED, log 7). -/
opaque sign : List Byte → List Byte

/-- The certificate chain of an SPDM slot (R424; PRESUMED, log 7). -/
opaque certChain : Nat → List Byte

/-- The message bytes of an SPDM response whose fields this manual leaves to SPDM 1.2, by request
code, request bytes and the response's own data (R424; PRESUMED, log 7). -/
opaque spdmBody : Nat → List Byte → List Byte → List Byte

/-- AES-GCM-256 (R399; PRESUMED, log 7): the 64 bytes of key stream under a key and an IV, and the tag, truncated to 32
bits, of additional data and a ciphertext. -/
opaque aesStream : Nat → Nat → BitVec 512
opaque aesTag : Nat → Nat → List Byte → List Byte → BitVec 32

/-- The saffron controller's second-stage firmware and its configuration tables (R424; DESIGN CHOICE, log 1). -/
opaque stage2 : List Byte
opaque tables : List Byte

/-- What the saffron controller's tables say (R385, R398, R400; DESIGN CHOICE, log 1): die d's route table, the
peer package of a port that is marked for placement, and the first key it stages for a port. -/
opaque routes : Nat → SMap Nat
opaque placement : Nat → Option Nat
opaque linkKey : Nat → Nat

/-- The process of a PASID may use a job key in a launch record of its host work ring (R419; DESIGN CHOICE, log 57). -/
opaque keyAllowed : Nat → Nat → Bool

end Sys2Proof.Config
end

