-- ==== Sys2Proof/Machine/State.lean ====
section
/-! DEFINITION. The state of one LN8-A package, as plain data, and its reset.

Everything numbered is a sparse map (`SMap`) whose unlisted entries have the reset value. Harts are
numbered as R16 numbers them: worker hart n is 0 .. 32,767, the Mordant hart of cluster g (die*64 +
cluster) is 32,768 + g. Cores: worker core n is die*1024 + cluster*16 + core, the Mordant core of
cluster g is 8,192 + g. Every field's comment names its rule and its reset value. -/

namespace Sys2Proof.Machine
open Sys2Proof

/-- The privilege modes (R17). -/
inductive Mode | U | S | M
  deriving DecidableEq, Repr

/-- The register files in the numbering of STALL_CHECK's mtval (R60). -/
inductive RFile | x | f | v | m
  deriving DecidableEq, Repr

/-- The signature checker (R69). -/
structure Checker where
  act  : Bool       := false
  exp  : BitVec 12  := 0
  endk : BitVec 3   := 0
  run  : BitVec 12  := 0
  last : BitVec 3   := 0
  deriving DecidableEq, Repr

/-- One hardware-loop level (R94). -/
structure LoopLevel where
  start : Word := 0
  stop  : Word := 0
  count : Word := 0
  deriving DecidableEq, Repr

/-- A fixed-latency result that has not landed (R59, R60): what the register held, what it will hold,
and the cycle in which it lands. -/
structure Pending where
  file : RFile
  reg  : Nat
  old  : VReg
  new  : VReg
  due  : Nat
  deriving DecidableEq, Repr

/-- What a conversion that has not retired will do: S as it leaves it, if it drew, the largest magnitude it met, if it
collects one, and the flags it sets (R160 to R164). -/
structure CvPend where
  lfsr  : Option W32
  amax  : Option W32
  flags : BitVec 3
  due   : Nat
  deriving DecidableEq, Repr

/-- A shape record (R119). -/
structure Shape where
  base : Nat
  e0   : Nat
  e1   : Nat
  e2   : Nat
  e3   : Nat
  s0   : Int
  s1   : Int
  s2   : Int
  ty   : Nat
  ra   : Bool
  rsv  : Bool
  deriving DecidableEq, Repr

/-- A fetched stream image, or the fault that stands in its place (R125). -/
inductive Image
  | ok (v : VReg)
  | bad (cause : Nat) (addr : Word)
  deriving DecidableEq, Repr

/-- What a stream register is bound to (R121, R308). -/
inductive StreamKind
  | src (trec : Shape)
  | dst (trec : Shape)
  | chIn (tag : Nat)
  | chOut (tag ep hart : Nat)
  deriving DecidableEq, Repr

/-- A stream binding (R121-R126, R307-R310). `pos`: next image the program reads or writes; `ahead`:
next image the engine fetches; `buf`: images fetched or received; `out`: images appended and not
stored, with their number; `seq`: channel sequence; `peer`: adopted sender; `unacked`: images sent
and not acknowledged; `born`: the number of the first packet the binding can have sent. -/
structure Stream where
  kind    : StreamKind
  pos     : Nat := 0
  ahead   : Nat := 0
  buf     : List Image := []
  out     : List (Nat × VReg) := []
  seq     : Nat := 0
  peer    : Option Nat := none
  unacked : Nat := 0
  born    : Nat := 0
  deriving DecidableEq, Repr

/-- A task record (R248); `x5`: the STAT a continuation enters with (R250, R258). -/
structure TaskRec where
  ty    : Nat := 0
  prio  : Nat := 0
  carry : Bool := false
  range : Bool := false
  hop   : Nat := 0
  hdie  : Nat := 0
  hclu  : Nat := 0
  b     : Nat := 0
  c0    : Nat := 0
  c1    : Nat := 0
  c2    : Nat := 0
  c3    : Nat := 0
  join  : Nat := 0
  hpkg  : Nat := 0
  ext   : Nat := 0
  slot  : Nat := 0
  ser   : Nat := 0
  x5    : Nat := 0
  deriving DecidableEq, Repr

/-- The key of a record: home package, die, cluster and serial (R254). -/
structure Key where
  pkg : Nat
  die : Nat
  clu : Nat
  ser : Nat
  deriving DecidableEq, Repr

/-- A task-type entry (R246), with FRAME, STREAMS and TROWS as the device takes them. -/
structure TypeEnt where
  entry   : Nat
  obj     : Nat
  frame   : Nat
  streams : Nat
  pull    : Nat
  prio    : Nat
  restart : Bool
  cbase   : Nat
  crow    : Nat
  trows   : Nat
  deriving DecidableEq, Repr

/-- The task, continuation or tile a hart runs (R250, R263): its record, launch, frame, stream
reservation, the cost to subtract at its end, its rows and the tile group it stands in (cluster,
group number). -/
structure Task where
  trec     : TaskRec
  launch  : Nat
  slot    : Nat
  key     : Nat
  frame   : Nat
  streams : Nat
  cost    : Nat
  rows    : Nat := 1
  prio    : Nat := 0
  group   : Option (Nat × Nat) := none
  /-- R270: which of its cluster's starts it was. -/
  began   : Nat := 0
  deriving DecidableEq, Repr

/-- What a handler interrupted (R303), and the handler's own slot, process slot and key. -/
structure HandlerRun where
  inslot  : Nat
  wasFree : Bool
  pc      : Word
  x28     : Word
  x29     : Word
  x30     : Word
  x31     : Word
  le      : Bool
  chk     : Checker
  slot    : Option Nat
  key     : Nat
  deriving DecidableEq, Repr

/-- What a fault settles besides the trap: the record it reports is cleared or marked. -/
inductive Fix
  | none
  | store
  | gather (vd : Nat)
  | copy (tag : Nat)
  | tracked (c : Word)
  | engine
  | prefix_
  deriving DecidableEq, Repr

/-- What the landing of a held instruction's reply writes (R89, R130, R198, R238). -/
inductive HeldKind
  | load (rd : Nat) (fp : Bool) (bytes : Nat) (signed : Bool)
  | amo (rd bytes : Nat)
  | vload (vd : Nat)
  | plain (rd : Nat)
  | fxrd (rd form : Nat)
  /-- the acknowledgement of DQSPILL's JOINADD: the record to spawn then -/
  | spill (rd : Nat) (trec : TaskRec)
  /-- n bytes that an instruction of several accesses reads before it goes on (R280, R281) -/
  | fetch (n : Nat)
  /-- the read of an instruction that meets a later cause of R105 than its replies': good replies raise that -/
  | late (cause : Nat) (tval : Word) (fix : Fix)
  deriving DecidableEq, Repr

/-- An issued instruction that retires when its replies land (R89): replies outstanding, the bits a
vector load takes, what has landed so far, and the fault of the lowest failing part. -/
structure Held where
  kind  : HeldKind
  addr  : Word
  parts : Nat
  mask  : VReg := 0
  acc   : VReg := 0
  bad   : Option (Nat × Nat × Word) := none
  deriving DecidableEq, Repr

/-- Why a hart last did not issue. -/
inductive Wait
  | issue
  | armed (file : RFile) (reg : Nat)
  | queue (eng : Engine)
  | scnvw (c : Word)
  | spawn
  | ring
  | keyrot (port : Nat)
  | copy
  | wfi
  | wfm
  | lease (n : Nat)
  | barrier (launch group : Nat)
  | grpw (launch group version : Nat)
  | keyrotAck (port : Nat)
  deriving DecidableEq, Repr

/-- The record of failed posted stores (R90): the oldest one's number, cause and address, how many failed, whether the
address resolved to host memory, and the narrowest scope that holds the target (R215). -/
structure FailRec where
  id    : Nat
  cause : Nat
  addr  : Word
  count : Nat
  host  : Bool
  scope : Nat
  deriving DecidableEq, Repr

/-- A gather whose lanes are landing, or whose failure is not yet raised (R203). -/
structure Gather where
  vd   : Nat
  left : Nat
  bad  : Option (Nat × Nat × Word) := none
  host : Bool := false
  deriving DecidableEq, Repr

/-- A copy of the hart (R206-R209): its status once it has ended, and whether a CPYW reported it. -/
structure Copy where
  tag      : Nat
  status   : Option Word := none
  reported : Bool := false
  deriving DecidableEq, Repr

/-- A tracked sparse command (R360). -/
structure Tracked where
  c      : Word
  failed : Bool := false
  deriving DecidableEq, Repr

/-- The repetition of a VLOOP body (R145): address of the VLOOP word, body length, body words done in
this pass, the register that counts passes, and the body words the sequencer queue has taken, in order (R17). -/
structure VLoop where
  pc  : Word
  len : Nat
  at_ : Nat
  reg : Nat
  queue : List W32 := []
  deriving DecidableEq, Repr

/-- How control reached the word at pc (R69). -/
inductive Arrival | seq | direct | indirect | back
  deriving DecidableEq, Repr

/-- The control and status registers of one hart (R83, R85). Reset values are those of the register
maps; where a map gives none (mepc, mtvec, mstatus.MPP …) the value is 0 (DESIGN CHOICE, log 2). -/
structure Csrs where
  /-- R86: the writable bits SIE, MIE, SPIE, MPIE, SPP, MPP, TW; reset 0 (DESIGN CHOICE, log 2). -/
  mstatus    : Word := 0
  /-- R104; reset 0. -/
  medeleg    : Word := 0
  /-- R104; reset 0. -/
  mideleg    : Word := 0
  /-- R103: bits 16-19; reset 0. -/
  mie        : Word := 0
  /-- R103: PRIP and SRIP; reset 0. (LTIP and MAIP are computed, R110 and R305.) -/
  prip       : Bool := false
  srip       : Bool := false
  /-- R85; reset 0 (DESIGN CHOICE, log 2). -/
  mtvec      : Word := 0
  mcounteren : Word := 0
  mscratch   : Word := 0
  mepc       : Word := 0
  mcause     : Word := 0
  mtval      : Word := 0
  stvec      : Word := 0
  scounteren : Word := 0
  sscratch   : Word := 0
  sepc       : Word := 0
  scause     : Word := 0
  stval      : Word := 0
  /-- R85, R110; reset 0xFFFF_FFFF_FFFF_FFFF. -/
  stimecmp   : Word := 0xFFFFFFFFFFFFFFFF
  /-- R71; reset 0. -/
  mxsave     : Word := 0
  sxsave     : Word := 0
  /-- R87: RCE, SPLE, MPLE, LE, SIGL, SIG, SCK; reset 0x74 (PFX is `Hart.pfx`). -/
  mnstatus   : Word := 0x74
  /-- R41, R85; reset 0 (DESIGN CHOICE, log 2). -/
  fflags     : BitVec 5 := 0
  frm        : BitVec 3 := 0
  /-- R161, R162; reset 0. -/
  cvamax     : W32 := 0
  cvflags    : BitVec 3 := 0
  /-- R94; reset 0. -/
  loop0      : LoopLevel := {}
  loop1      : LoopLevel := {}
  /-- R327: mstr0-mstr7; unlisted 0x0000_0700_FFFF_FFFF. -/
  mstr       : SMap Word := []
  deriving DecidableEq, Repr

/-- One hart (R17). -/
structure Hart where
  /-- R17: x1-x31, 64 bits; reset 0 (DESIGN CHOICE, log 2). -/
  x       : SMap Word := []
  /-- R17: f0-f31, 32 bits; reset 0 (DESIGN CHOICE, log 2). -/
  f       : SMap W32 := []
  /-- R111: v0-v31, 512 bits; reset 0 (DESIGN CHOICE, log 2). -/
  v       : SMap VReg := []
  /-- R111: m0-m7, 64 bits; reset 0 (DESIGN CHOICE, log 2). -/
  m       : SMap Word := []
  /-- R29, R410: starts at word 0. -/
  pc      : Word := 0
  /-- R17, R410: starts in M. -/
  mode    : Mode := .M
  csr     : Csrs := {}
  /-- R64: mnstatus.PFX and the pending payload; reset 0. -/
  pfx     : Bool := false
  payload : BitVec 25 := 0
  /-- R69; reset 0. -/
  chk     : Checker := {}
  /-- The word being executed, its signed attribute, and how it was reached (R67, R69). -/
  ir      : W32 := 0
  irSigned : Bool := false
  arrival : Arrival := .indirect
  /-- R69: the last retired word was signed. -/
  fromSigned : Bool := false
  /-- R72: the prefetch buffer, address and word; reset empty. -/
  prefetch : List (Nat × W32) := []
  /-- R60: unlanded fixed-latency results; reset none. -/
  pend    : List Pending := []
  /-- R59: the cycle before which the next word does not issue; reset 0. -/
  hold    : Nat := 0
  /-- R159: reset 0x0000_0001. -/
  lfsr    : W32 := 1
  /-- R164: what conversions in flight leave in S, cvamax and cvflags, with the cycle in which each lands; reset none. -/
  cvPend  : List CvPend := []
  /-- R154: sixteen signed 8-bit entries, unlisted 0. -/
  t4      : SMap Byte := []
  /-- R155: 256 entries of 32 bits, unlisted 0. -/
  cb2     : SMap W32 := []
  /-- R121: bindings of v24-v31 (keys 24-31); reset none. -/
  streams : SMap Stream := []
  /-- R148: the branch-outcome queue, oldest first; reset empty. -/
  bq      : List Word := []
  /-- R276: the range deque, bottom first; reset empty. -/
  deque   : List (Nat × Nat) := []
  /-- R292: armed registers; reset none. -/
  armed   : List Nat := []
  /-- R91: the reserved granule; reset none. -/
  resv    : Option Nat := none
  held    : Option Held := none
  /-- R280, R281: what a ring instruction has read so far, by address; reset empty. -/
  fetched : List (Nat × List Byte) := []
  stalled : Option Wait := none
  /-- R90; reset none. -/
  failed  : Option FailRec := none
  /-- R203; reset none. -/
  gathers : List Gather := []
  /-- R202: lanes of the gather or scatter in execution that wait for a request place (lane, address, value); reset none. -/
  lanes   : List (Nat × Word × W32) := []
  /-- R206: the copy counter (reset 0) and the hart's copies. -/
  copyCtr : Nat := 0
  copies  : List Copy := []
  /-- R360; reset none. -/
  tracked : List Tracked := []
  /-- R348: the failure record; reset none. -/
  engFail : Option (Nat × Word) := none
  /-- R322: logical slots and accumulators to physical numbers; reset unmapped. -/
  slots   : SMap Nat := []
  accs    : SMap Nat := []
  /-- R73: rd of a commit that has not completed. -/
  commit  : Option Nat := none
  /-- R145. -/
  vloop   : Option VLoop := none
  /-- R147: the VLOOP word (its address and body length) whose body a trap has broken off and that runs to its end
  once more; reset none. -/
  broken  : Option (Word × Nat) := none
  /-- R250: the task that runs here; reset none. -/
  task    : Option Task := none
  /-- R250, R254: the hart is free for the dispatcher (DEDUCED, log 8); reset false, it runs firmware. -/
  free    : Bool := false
  /-- R303: the handler that runs here and what it saved; reset none. -/
  handler : Option HandlerRun := none
  /-- R302: an instruction of the task has retired since the last MSGRET. -/
  ranSince : Bool := true
  /-- R295: registers that a SAFEPT which has not retired has disarmed; reset none. -/
  dropped : List Nat := []
  /-- R252: spawns and migrations outstanding; reset 0. -/
  outst   : Nat := 0
  /-- R254: the end steps of R255 that a second issue does not repeat have been done. -/
  ending  : Bool := false
  /-- R102: stored SEC-DED errors of 32-bit words, true when uncorrectable: word k of register n of x, f, v, m
  (file 0 to 3) is (file * 32 + n) * 16 + k; the loop CSRs and mnstatus follow from 2048. Reset none. -/
  flaws   : SMap Bool := []
  /-- R403, R404: a trap has entered M mode and the hart firmware's code there has executed nothing yet; reset false. -/
  fw      : Bool := false
  deriving DecidableEq, Repr

/-- A code-object record (R101). -/
structure CodeObj where
  first   : Nat
  count   : Nat
  id      : Nat
  table   : Word
  entries : Nat
  deriving DecidableEq, Repr

/-- A queued commit (R74) or, once begun, its descriptor and the words found so far. -/
structure Commit where
  hart    : Nat
  rd      : Nat
  desc    : Word
  started : Bool := false
  bad     : Option (Nat × Nat) := none
  first   : Nat := 0
  count   : Nat := 0
  id      : Nat := 0
  signed  : Bool := false
  table   : Word := 0
  entries : Nat := 0
  dirty   : Option Nat := none
  deriving DecidableEq, Repr

/-- A range-lock entry (R240): an interval lo .. hi of addresses in the compared form. -/
structure Lock where
  lo   : Nat
  hi   : Nat
  dst  : Bool
  eng  : Engine
  hart : Nat
  slot : Option Nat
  deriving DecidableEq, Repr

/-- An occupied inbox slot (R301): a handler, or an error record (`count` = 0). -/
structure InSlot where
  order   : Nat
  scanned : Bool
  count   : Nat
  dlen    : Nat
  src     : Nat
  slot    : Option Nat
  key     : Nat
  target  : Nat
  image   : Nat
  deriving DecidableEq, Repr

/-- A migrated context (R311): the record, its registers, launch and tile-group identity. -/
structure Ctx where
  trec    : TaskRec
  regs   : List Word
  launch : Nat
  slot   : Nat
  key    : Nat
  group  : Option (Nat × Nat)
  /-- R313: its entry of the spill area, while it is spilled. -/
  entry  : Nat := 0
  /-- R312: what it added to Q when it landed. -/
  cost   : Nat := 0
  deriving DecidableEq, Repr

/-- A membership entry (R390): key, valid, live launches counted on it. -/
structure Member where
  key   : Nat
  valid : Bool
  count : Nat
  deriving DecidableEq, Repr

/-- The memory operations a request can ask of its home (R198, R214, R233, R238, R257). -/
inductive MemOp
  | load (n : Nat)
  | store (bytes : List Byte) (poison : Bool)
  /-- lanes of one line: byte offset, bytes, bit position in the register -/
  | loads (segs : List (Nat × Nat × Nat))
  /-- lanes of one line: byte offset and bytes, in lane order -/
  | stores (segs : List (Nat × List Byte))
  | amo (op : Nat) (n : Nat) (v : Word) (cmp : Option Word)
  | feLoad (clr : Bool)
  | feStore (v : Word)
  | feSet (full : Bool)
  | feQuery
  | fxAdd (v : W32)
  | fxRead
  | fxClear
  | joinInit (v : Nat)
  | joinAdd (v : Nat)
  /-- a store that leaves its core once every earlier access of the hart is performed (R280) -/
  | relStore (bytes : List Byte)
  | joinArm (k : Nat) (launch : Option Nat)
  | mcw (bytes : List Byte)
  deriving DecidableEq, Repr

/-- Who takes a reply (R89, R90, R203). `part` is the bit position of the data in the result. -/
inductive Sink
  | held (part : Nat)
  | posted (msg : Bool)
  | lane (vd lane : Nat)
  /-- the acknowledgement of a channel image of the outbound binding on register v (R310) -/
  | chan (v : Nat)
  /-- the acknowledgement of image `img` of the destination stream on register v (R124, R126) -/
  | stream (v img : Nat)
  /-- a unit of the sender's cluster with this tag (R125, R207) -/
  | unit (tag : Nat)
  deriving DecidableEq, Repr

/-- What a reply carries (R194, R306, R391): the data with the position and byte offset of the first
poisoned lane, an acknowledgement, or a cause with the position and offset of the first lane. -/
inductive Reply
  | data (bits : VReg) (bad : Option (Nat × Nat))
  | ack
  | err (cause pos off : Nat)
  deriving DecidableEq, Repr

/-- The state of a request on its way (R178): not translated, translated to a location, parked. -/
inductive Where
  | new
  | at_ (loc : Nat)
  deriving DecidableEq, Repr

/-- A launch as the device carries it (R283). -/
structure LaunchRec where
  root   : TaskRec
  types  : Nat
  ntypes : Nat
  key    : Nat
  tree   : Nat
  fabric : Bool
  dies   : Nat
  clus   : Nat
  groups : Nat
  lseq   : Nat
  slot   : Nat
  ring   : Nat
  /-- the host work ring it was taken from -/
  hostRing : Option Nat
  deriving DecidableEq, Repr

/-- What a packet carries. -/
inductive Body
  | mem (addr : Nat) (op : MemOp) (sink : Sink) (wh : Where)
  | reply (addr : Nat) (host : Bool) (sink : Sink) (r : Reply)
  | task (trec : TaskRec) (regs : List Word) (launch : Nat) (clu : Nat) (direct : Bool)
  | accepted (ser home by_ : Nat)
  | dec (ctr : Nat) (s : Nat) (key : Key) (launch : Nat)
  | release (key : Key) (launch : Nat)
  | unpin (key : Key) (clu : Nat)
  /-- `final`: to be taken as a copy of a type with RESTART = 0 (R247) -/
  | lost (key : Key) (launch : Nat) (final : Bool)
  | ringNote (desc : Nat) (clu : Nat) (slot : Option Nat) (key : Nat)
  | launch (l : LaunchRec)
  | launchEnd (handle : Nat)
  | collect (handle clu : Nat)
  | done (handle clu : Nat) (status : Nat)
  | deposit (target : Nat) (v : Word)
  | handler (target : Nat) (image : Nat) (words : List W32) (data : List Byte) (refused : Bool)
  | errorRecord (hart : Nat) (kind reason word target image : Nat)
  | channel (ep hart tag seq : Nat) (v : VReg) (reg : Nat) (refused : Bool)
  | context (core : Nat) (c : Ctx) (refused : Bool)
  | beacon (clu nbr p d : Nat)
  | group (handle clu g version : Nat) (members : List Nat)
  /-- one copy of a multicast packet `tag` that snapshotted entry `grp` = handle * 256 + group -/
  | mcw (core off : Nat) (bytes : List Byte) (grp tag : Nat)
  deriving DecidableEq, Repr

/-- A packet in flight (R376): its number, the sending hart, process slot, job key, and the fe_limit it carries (R199). -/
structure Packet where
  id   : Nat
  hart : Nat
  slot : Option Nat
  key  : Nat
  body : Body
  limit : W32 := 0
  /-- R126, R230: the images its hart had appended to destination streams and not stored: register, end of their numbers. -/
  imgs : List (Nat × Nat) := []
  deriving DecidableEq, Repr

/-- One core (R19, R30). -/
structure Core where
  /-- R183, R409: worker cores leave reset sealed; Mordant cores are held until POWER_ON (DESIGN CHOICE, log 1). -/
  isSealed : Bool := true
  /-- R407: why firmware steps of a seal are still owed. -/
  notified : Bool := false
  /-- R21; reset 0. -/
  cycle   : Nat := 0
  /-- R17: the hart that has the core's issue cycles; reset 0 (DESIGN CHOICE, log 4). -/
  turn    : Nat := 0
  /-- R200; reset 0x0100_0000. -/
  feLimit : W32 := 0x01000000
  /-- R72: executable and signed attributes of word n; reset 0. -/
  exec    : SMap Bool := []
  signed  : SMap Bool := []
  /-- R101: code objects, oldest completion first; reset none. -/
  objs    : List CodeObj := []
  /-- R74: commits in issue order; reset none. -/
  commits : List Commit := []
  /-- R188, R189, R191: retired banks (0-255 data, 256-287 parity), CE, the lost group. -/
  banks   : List Nat := []
  ce      : Nat := 0
  lostG   : Option Nat := none
  /-- R30, R183, R188, R190: stored errors, true when uncorrectable: data rows by granule, parity rows (8192 + group*32 +
  row), and copy k of the six copies of a granule's full-empty and poison bits (16384 + 6*granule + k). Reset none. -/
  flaws   : SMap Bool := []
  /-- R240, R243: entries 0-31; reset free. -/
  locks   : SMap Lock := []
  /-- R301: inbox slots 0-31; reset free. -/
  inbox   : SMap InSlot := []
  inOrder : Nat := 0
  /-- R199: waiting full-empty requests in arrival order; reset none. -/
  feWait  : List Packet := []
  /-- R294: held deposits, oldest first; reset none. -/
  deposits : List Packet := []
  /-- R312: the arrival queue and the spill list, oldest first; reset empty. -/
  arrQ    : List Ctx := []
  spill   : List Ctx := []
  /-- R316: LANDED and SPILLS; reset 0. -/
  landed  : Nat := 0
  spills  : Nat := 0
  /-- R314: consecutive arrival dispatches. -/
  streak  : Nat := 0
  /-- R390: membership entries 0-7; reset empty. -/
  members : SMap Member := []
  /-- R391: key drops; reset 0. -/
  drops   : Nat := 0
  /-- R262: allocated frames (first unit, units); reset none. -/
  frames  : List (Nat × Nat) := []
  /-- R412: retired cores stay sealed; reset false. -/
  isRetired : Bool := false
  /-- R412: containments so far; reset 0. -/
  seals   : Nat := 0
  deriving DecidableEq, Repr

/-- An entry of the cluster queue (R267): a record, a RANGE record with its next tile, or a resume
record (core and image slot). -/
structure QEnt where
  trec    : TaskRec
  regs   : List Word
  launch : Nat
  slot   : Nat
  key    : Nat
  ent    : TypeEnt
  level  : Nat
  age    : Nat := 0
  promo  : Option Nat := none
  order  : Nat := 0
  tile   : Nat := 0
  group  : Option (Nat × Nat) := none
  resume : Option (Nat × Task) := none
  /-- R295: the registers that were armed at the pre-emption. -/
  armed  : List Nat := []
  /-- R270: the hart on which PRIP was set for it. -/
  asked  : Option Nat := none
  deriving DecidableEq, Repr

/-- A retention entry (R271). -/
structure Ret where
  trec      : TaskRec
  regs     : List Word
  launch   : Nat
  slot     : Nat
  key      : Nat
  accepted : Option Nat := none
  issued   : Nat := 1
  finished : Nat := 0
  released : Bool := false
  hart     : Option Nat := none
  deriving DecidableEq, Repr

/-- A tile group (R263). -/
structure TileGroup where
  left   : Nat
  status : Nat := 0
  trec    : TaskRec
  launch : Nat
  alive  : Bool := true
  deriving DecidableEq, Repr

/-- A launch as a cluster of its region holds it (R284, R285, R405). -/
structure CluLaunch where
  handle : Nat
  acc    : Nat := 0
  collecting : Bool := false
  sent   : Bool := false
  kids   : List Nat := []
  fault  : Option (Nat × Word × Word) := none
  deriving DecidableEq, Repr

/-- A copy-engine command: CPY, or the OFILL that shares its queue (R206, R343). -/
structure CopyCmd where
  hart  : Nat
  slot  : Option Nat
  key   : Nat
  tag   : Nat
  src   : Shape
  dst   : Shape
  locks : List Nat
  fill  : Bool := false
  /-- R229: the command's place in its hart's program order: the next packet's number at issue, and the destination
  streams whose images below a number are appended before it. -/
  born  : Nat := 0
  imgs  : List (Nat × Nat) := []
  deriving DecidableEq, Repr

/-- The matrix commands (R318), with physical units and copied stride registers. -/
inductive MatOp
  | fill (slot off : Nat) (src : Shape)
  | drain (acc : Nat) (dst : Shape) (skip : W32) (rtz sat amax : Bool) (fa fd : Fmt)
  | stage (sx sw : Nat) (ac : Nat) (acc : Bool) (str : Word) (fa fb fd : Fmt) (blk : Bool)
  | cross (sx q sw : Nat) (ac : Nat) (acc : Bool) (str : Word) (fa fb fd : Fmt)
  | chain (sx sw : Nat) (ac : Nat) (acc : Bool) (strs : List Word) (fa fb : Fmt) (cf : ChainFmt) (lfsr : W32)
  | zero (acc : Nat)
  deriving DecidableEq, Repr

/-- A queued matrix command (R333): `uses` are the logical slots and (128 +) accumulators it names,
`slots` and `accs` the hart's map at acceptance. -/
structure MatCmd where
  hart  : Nat
  slot  : Option Nat
  key   : Nat
  op    : MatOp
  uses  : List Nat
  slots : SMap Nat
  accs  : SMap Nat
  locks : List Nat
  born  : Nat := 0
  imgs  : List (Nat × Nat) := []
  deriving DecidableEq, Repr

/-- A queued sparse command (R358): 0 MRGU, 1 MRGU.dz, 2 MRGI, 3 SCNV, with its descriptor bytes. -/
structure SpCmd where
  hart  : Nat
  slot  : Option Nat
  key   : Nat
  kind  : Nat
  desc  : List Byte
  c     : Word
  locks : List Nat
  born  : Nat := 0
  imgs  : List (Nat × Nat) := []
  deriving DecidableEq, Repr

/-- A full-empty bit and a poison bit (R183). -/
structure GBits where
  fe  : Bool := false
  poi : Bool := false
  deriving DecidableEq, Repr

/-- One cluster: Mordant's registers aside, its shared engines, dispatcher and gradient unit. -/
structure Cluster where
  /-- R412. -/
  isRetired : Bool := false
  /-- R259; reset 0. -/
  q       : Nat := 0
  /-- R260: d; (P, d) of neighbour n, unlisted (0xFFFF, 63). d is 63 at reset, as R260 says, where R264's map gives 0
  (DESIGN CHOICE, log 75). -/
  dist    : Nat := 63
  nbrs    : SMap (Nat × Nat) := []
  /-- R265; reset 0x0040, 0x0100, 0x18, the four pull weights, 0x40. -/
  lLow    : Nat := 0x40
  lSpawn  : Nat := 0x100
  hopmax  : Nat := 0x18
  pullw   : Word := 0x0040001000080002
  agelim  : Nat := 0x40
  /-- R247: cached type entries (slot, table, type); reset empty. -/
  types   : List ((Nat × Nat × Nat) × TypeEnt) := []
  /-- R267: the queue, oldest arrival first; reset empty. -/
  queue   : List QEnt := []
  order   : Nat := 0
  dispatches : Nat := 0
  /-- R270: tasks, tiles and contexts started; reset 0. -/
  starts  : Nat := 0
  /-- R262: records waiting in the router's buffer for a queue place or tile group. -/
  waiting : List Packet := []
  /-- R271: retention and the next serial; reset empty and 0. -/
  keep    : List Ret := []
  nextSer : Nat := 0
  /-- R272: the serial window, oldest first, true when pinned; reset empty. -/
  window  : List (Key × Bool) := []
  /-- R263: tile groups 0-15; reset free. -/
  groups  : SMap TileGroup := []
  /-- R283: live launches. -/
  launches : List CluLaunch := []
  /-- R392: (handle*256 + group) to version and members; reset none. -/
  grpTab  : SMap (Nat × List Nat) := []
  /-- R319: holder, REM, last holder (reset 15), waiting requests (core, count). -/
  lease   : Option Nat := none
  rem     : Nat := 0
  lastLease : Nat := 15
  leaseReq : List (Nat × Nat) := []
  /-- R318: the command queue, oldest first; whether the head runs; whether it has failed. -/
  matQ    : List MatCmd := []
  matRun  : Bool := false
  /-- R325: physical slots (0-127) and accumulators (128-135) still being cleared. -/
  clearing : List Nat := []
  /-- R318: accumulator words (unit*4096 + element) and row poison (unit*32 + row); unlisted 0. -/
  acc     : SMap W32 := []
  accPoi  : SMap Bool := []
  /-- R37: input queues, running flags, places granted, last receiver (reset 15). -/
  copyQ   : List CopyCmd := []
  mergeQ  : List SpCmd := []
  convQ   : List SpCmd := []
  mergeRun : Bool := false
  convRun  : Bool := false
  /-- R207, R347, R371: memory as it stood when the running copy, fill, merge or conversion began; reset none. -/
  copyFrom  : Option (Memory × SMap GBits) := none
  fillFrom  : Option (Memory × SMap GBits) := none
  mergeFrom : Option (Memory × SMap GBits) := none
  convFrom  : Option (Memory × SMap GBits) := none
  /-- R318: stored errors, true when uncorrectable: granules of operand memory (slot * 512 + granule) and accumulator words
  (65536 + unit * 4096 + word). Reset none. -/
  flaws    : SMap Bool := []
  engGrant : List (Engine × Nat) := []
  engLast : SMap Nat := []
  /-- R125, R207: what units of the cluster have asked other cores, pages and packages for: (tag, line), packet, answer;
  reset none. -/
  got     : List ((Nat × Nat) × Nat × Option Reply) := []
  /-- R181: pages the host refused to an engine or unit of the cluster (its tag, the page); reset none. -/
  refused : List (Nat × Nat) := []
  /-- R20, R423: 0 full clock, 1 three quarters, 2 half; stretch events. -/
  stretch : Nat := 0
  stretches : Nat := 0
  /-- R405, R416: fault ends. -/
  faultEnds : Nat := 0
  /-- R188: errors reported to the Mordant core (core, bank, row), newest first. -/
  reports : List (Nat × Nat × Nat) := []
  deriving DecidableEq, Repr

/-- A cached translation (R178). -/
structure Tlb where
  station : Nat
  slot    : Nat
  page    : Nat
  frame   : Nat
  writable : Bool
  deriving DecidableEq, Repr

/-- One die. -/
structure Die where
  /-- R412. -/
  isFailed : Bool := false
  /-- R385: package number to port; reset none (DESIGN CHOICE, log 2). -/
  routes  : SMap Nat := []
  /-- R178, R181: translations and parked accesses (station, packet), in arrival order. -/
  tlb     : List Tlb := []
  parked  : List (Nat × Packet) := []
  /-- R181, R182: PRI page requests and ATS requests sent (station, slot, page). -/
  pri     : List (Nat × Nat × Nat) := []
  ats     : List (Nat × Nat × Nat) := []
  /-- R181: the engines and units that wait for a page: (slot, page), (cluster, tag). -/
  asks    : List ((Nat × Nat) × (Nat × Nat)) := []
  deriving DecidableEq, Repr

/-- A live process slot (R417). -/
structure Proc where
  pasid : Nat
  mode  : Nat
  root  : Nat
  deriving DecidableEq, Repr

/-- A live launch (R283). -/
structure Launch where
  trec     : LaunchRec
  start   : Nat
  ended   : Bool := false
  /-- R420: the launch is being ended by the host. -/
  killed  : Bool := false
  pushing : Option Nat := none
  /-- R411: the cores that were contained while it lives. -/
  contained : List Nat := []
  deriving DecidableEq, Repr

/-- A GRPBAR episode under way (R286): members at its first arrival, cores arrived, harts waiting. -/
structure Barrier where
  launch  : Nat
  group   : Nat
  members : List Nat
  arrived : List Nat
  harts   : List Nat
  deriving DecidableEq, Repr

/-- A packet at an output port (R378): its number, class and virtual channel, how many flits of it have gone, and the
payloads of those that have not. -/
structure OutPkt where
  id    : Nat
  cls   : Nat
  vc    : Nat
  gone  : Nat := 0
  flits : List (List Byte)
  deriving DecidableEq, Repr

/-- A flit of the replay buffer (R381, R399): its LSEQ, its packet, its number in its direction, its plaintext, and
whether it last went out under the current generation of the key. -/
structure SentFlit where
  lseq : Nat
  id   : Nat
  num  : Nat
  flit : List Byte
  fresh : Bool := false
  deriving DecidableEq, Repr

/-- One end of a link (R375, R378 to R384): its output port, its sender and its receiver. Flits are their 72 bytes. -/
structure Link where
  up      : Bool := true
  isRetired : Bool := false
  /-- R378: packets that wait, oldest first; the packet in progress of each class; the virtual channel whose packet of a
  class started last. -/
  queue   : List OutPkt := []
  prog    : SMap OutPkt := []
  lastVc  : SMap Nat := []
  /-- R379: the count of each class, and the flits a due class may still send. -/
  counts  : SMap Nat := []
  due     : SMap Nat := []
  /-- R381: the next LSEQ, the replay buffer, and the flits on the wire with their packets, oldest first. -/
  txNext  : Nat := 0
  unacked : List SentFlit := []
  wire    : List (Nat × List Byte) := []
  /-- R380, R381: the next LSEQ expected, and the reassembly contexts (class * 4 + virtual channel). -/
  rxNext  : Nat := 0
  ctxs    : SMap (List (List Byte)) := []
  deriving DecidableEq, Repr

/-- A gateway's end-to-end state toward one peer package (R387, R388). -/
structure Peer where
  txNext  : Nat := 0
  store   : List (Nat × Packet × Nat) := []
  /-- Requests sent to the peer that it has not answered. -/
  opens   : List Packet := []
  base    : Nat := 0
  bitmap  : BitVec 64 := 0
  since   : Nat := 0
  unreachable : Bool := false
  deriving DecidableEq, Repr

/-- A Spaust port: keys (R398, R399), lanes (R412), the gateway's key table (R390) and peers. -/
structure Port where
  key     : Nat := 0
  staged  : Option Nat := none
  gen     : Bool := false
  rxGen   : Nat := 0
  /-- R398: a rotation is in progress; true once a flit sent under the new generation is acknowledged. -/
  rotating : Option Bool := none
  lanesBad : Nat := 0
  down    : Bool := false
  placement : Option Nat := none
  counter : Nat := 0
  rxCounter : Nat := 0
  keys    : SMap Member := []
  drops   : Nat := 0
  peers   : SMap Peer := []
  deriving DecidableEq, Repr

/-- The package: the saffron controller, host attachment and everything that exists once. -/
structure Pkg where
  /-- R26; reset 0. -/
  number  : Nat := 0
  /-- R414: STATE, CMDRING, RSPRING, HDMBASE; reset 0. -/
  state   : Nat := 0
  cmdRing : Word := 0
  rspRing : Word := 0
  hdmBase : Word := 0
  hdmSet  : Bool := false
  /-- R414: commands are polled once CMDRING is non-zero; responses that wait for a place. -/
  responses : List (List Byte) := []
  /-- R417: process slots; reset none. -/
  procs   : SMap Proc := []
  /-- R419: ring n to descriptor and process slot; reset none. -/
  rings   : SMap (Nat × Nat) := []
  /-- R283: live launches by handle; reset none. -/
  launches : SMap Launch := []
  /-- R286. -/
  barriers : List Barrier := []
  /-- R421: a checkpoint (false) or restore (true) under way: tag, base, length, offset. -/
  chk     : Option (Bool × Nat × Nat × Nat × Nat) := none
  /-- R180: port k is down. -/
  cxlDown : SMap Bool := []
  /-- R385, R398: Spaust ports 0-15. -/
  ports   : SMap Port := []
  /-- R424: measurements 1-4 and the RELOAD count; reset 0 (PRESUMED, log 7). -/
  measured : SMap (List Byte) := []
  reloads : Nat := 0
  /-- R424: SPDM responses, newest first. -/
  spdm    : List (List Byte) := []
  /-- R412: retirements in the non-volatile store: (kind, unit). -/
  nv      : List (Nat × Nat) := []
  /-- R28: what the saffron controller's last window access read, or the cause it met. -/
  latch   : Option (Nat ⊕ Word) := none
  /-- R413: what the host's last CXL.mem read returned, and whether the line was poisoned. -/
  cxlData : List Byte := []
  cxlPoison : Bool := false
  /-- R386-R389: events reported to the saffron controller, newest first. -/
  notices : List (Nat × Nat) := []
  deriving DecidableEq, Repr

/-- Whose turn it is: a hart's instruction, or a step of the opcode table (DESIGN CHOICE, log 4). -/
inductive Turn
  | hart (h : Nat)
  | step (i : Instr)
  /-- the firmware of a hart's M mode handles the trap it was entered for (R403, R404) -/
  | firmware (h : Nat)
  /-- a flit boundary of an output port (R378) -/
  | port (l : Nat)
  deriving DecidableEq, Repr

/-- The machine. -/
structure State where
  harts    : SMap Hart := []
  cores    : SMap Core := []
  clusters : SMap Cluster := []
  dies     : SMap Die := []
  pkg      : Pkg := {}
  /-- Every addressed byte, by location (R23, R31); unlisted 0 (R183, DESIGN CHOICE, log 3). -/
  mem      : Memory := []
  /-- Full-empty and poison bits by location / 16 (R183, R192); unlisted empty and clear. -/
  gran     : SMap GBits := []
  /-- Packets in flight, oldest first; reset none. -/
  net      : List Packet := []
  nextId   : Nat := 0
  /-- R15, R378: the end of the link through which packet n leaves the router it stands at; unlisted: at hand where it is
  bound for. Reset none. -/
  paths    : SMap Nat := []
  /-- R375, R378 to R384: the ends of links, numbered as `Machine/Mesh.lean` says; unlisted: up and idle. -/
  links    : SMap Link := []
  /-- The model's own: the turns to come (DESIGN CHOICE, log 4), the hart that issues when there is none, and the
  counter of free values (DESIGN CHOICE, log 5). -/
  agenda   : List Turn := []
  cur      : Nat := 0
  free     : Nat := 0
  deriving DecidableEq, Repr

/-- Reasons the machine stops. -/
inductive Fault
  /-- Raised by `step` when a hart's executable word is no instruction: R10 says such a word never
  reaches the decoder, so no run meets it. Safe: the model stops. -/
  | badWord (w : W32)
  deriving DecidableEq, Repr

/-- Reasons the model gives no meaning. -/
inductive Refusal
  /-- An instruction that has no meaning yet, by its mnemonic. Safe: the model stops. -/
  | notModelled (mnemonic : String)
  deriving DecidableEq, Repr

/-- The machine right after reset (R183, R260, R414): every worker core sealed, no Mordant core
released, nothing in flight. Bring-up is the step POWER_ON (R425, DESIGN CHOICE, log 1). -/
def State.reset : State := {}

end Sys2Proof.Machine
end

