-- ==== Sys2Proof/Machine/Float.lean ====
section
/-! DEFINITION. Numbers: the element formats (R151 to R153), exact values, one rounding (R158, R160),
and the RISC-V single-precision operations with their flags (R92). Every exact value is a sign, a
magnitude and a power of two; where a result is no dyadic number, a sticky bit says that the true
value lies strictly above the magnitude and below the next. -/

namespace Sys2Proof.Machine
open Sys2Proof

/-- A floating format: fraction width, exponent width, bias, whether it has infinities (R151). -/
structure FFmt where
  m    : Nat
  e    : Nat
  bias : Nat
  inf  : Bool
  deriving DecidableEq, Repr

def f32F : FFmt := ⟨23, 8, 127, true⟩
def f16F : FFmt := ⟨10, 5, 15, true⟩
def bf16F : FFmt := ⟨7, 8, 127, true⟩
def e4m3F : FFmt := ⟨3, 4, 7, false⟩
def e5m2F : FFmt := ⟨2, 5, 15, true⟩

/-- The layout of a floating element format. -/
def ffmt : Fmt → Option FFmt
  | .f32 => some f32F
  | .f16 => some f16F
  | .bf16 => some bf16F
  | .e4m3 => some e4m3F
  | .e5m2 => some e5m2F
  | _ => none

/-- A value: NaN, an infinity, or (-1)^neg * mag * 2^exp. -/
inductive FVal
  | nan
  | inf (neg : Bool)
  | fin (neg : Bool) (mag : Nat) (exp : Int)
  deriving DecidableEq, Repr

namespace FFmt

def width (f : FFmt) : Nat := 1 + f.e + f.m
/-- The pattern of the largest finite magnitude. -/
def maxFin (f : FFmt) : Nat := if f.inf then (2 ^ f.e - 1) * 2 ^ f.m - 1 else 2 ^ (f.e + f.m) - 2
def signBit (f : FFmt) : Nat := 2 ^ (f.e + f.m)
/-- CanonNaN (R7, R152). -/
def canonNaN (f : FFmt) : Nat := if f.inf then (2 ^ f.e - 1) * 2 ^ f.m + 2 ^ (f.m - 1) else 2 ^ (f.e + f.m) - 1
def infPat (f : FFmt) : Nat := (2 ^ f.e - 1) * 2 ^ f.m
def withSign (f : FFmt) (neg : Bool) (n : Nat) : Nat := if neg then n + f.signBit else n
/-- The exponent of the last fraction bit of a subnormal. -/
def emin (f : FFmt) : Int := 1 - (f.bias : Int) - (f.m : Int)

/-- The value of a pattern (R151, R152). -/
def dec (f : FFmt) (n : Nat) : FVal :=
  let neg := n / f.signBit % 2 == 1
  let a := n % f.signBit
  let ex := a / 2 ^ f.m
  let fr := a % 2 ^ f.m
  if f.inf && ex == 2 ^ f.e - 1 then (if fr == 0 then .inf neg else .nan)
  else if !f.inf && a == 2 ^ (f.e + f.m) - 1 then .nan
  else if ex == 0 then .fin neg fr f.emin
  else .fin neg (2 ^ f.m + fr) (f.emin + (ex : Int) - 1)

end FFmt

/-- Rounding directions: to nearest even, toward zero, down, up, to nearest away, stochastic with the
24-bit draw of R160. -/
inductive RMode
  | rne
  | rtz
  | rdn
  | rup
  | rmm
  | sr (u : Nat)
  deriving DecidableEq, Repr

/-- floor (log2 v) of a non-zero magnitude. -/
def topExp (mag : Nat) (exp : Int) : Int := (Nat.log2 mag : Int) + exp

/-- A magnitude rounded to a multiple of 2^q: the multiple, and whether it is inexact. -/
def roundAt (mode : RMode) (neg : Bool) (mag : Nat) (exp : Int) (sticky : Bool) (q : Int) : Nat × Bool :=
  if q ≤ exp then
    let n := mag * 2 ^ (exp - q).toNat
    if sticky then
      match mode with
      | .rup => (if neg then n else n + 1, true)
      | .rdn => (if neg then n + 1 else n, true)
      | _ => (n, true)
    else (n, false)
  else
    let k := (q - exp).toNat
    let n := mag / 2 ^ k
    let r := mag % 2 ^ k
    let half := 2 ^ (k - 1)
    let inexact := r != 0 || sticky
    let up : Bool :=
      match mode with
      | .rne => decide (half < r) || (r == half && (sticky || n % 2 == 1))
      | .rtz => false
      | .rdn => neg && inexact
      | .rup => !neg && inexact
      | .rmm => decide (half ≤ r)
      | .sr u => inexact && decide (2 ^ 24 ≤ r * 2 ^ 24 / 2 ^ k + u)
    (if up then n + 1 else n, inexact)

/-- The quantum exponent of a format for a magnitude: normal spacing, or the subnormal spacing (R158). -/
def quantum (f : FFmt) (mag : Nat) (exp : Int) : Int :=
  if topExp mag exp - (f.m : Int) < f.emin then f.emin else topExp mag exp - (f.m : Int)

/-- The pattern a magnitude rounds to with an unbounded exponent range above (a pattern past `maxFin`
has overflowed), and whether it is inexact. -/
def roundMag (f : FFmt) (mode : RMode) (neg : Bool) (mag : Nat) (exp : Int) (sticky : Bool) : Nat × Bool :=
  if mag == 0 && !sticky then (0, false)
  else
    let q := if mag == 0 then f.emin else quantum f mag exp
    let (n, x) := roundAt mode neg mag exp sticky q
    ((q - f.emin).toNat * 2 ^ f.m + n, x)

/-- RoundRNE (R7): overflow gives an infinity, or CanonNaN for e4m3. -/
def rne (f : FFmt) : FVal → Nat
  | .nan => f.canonNaN
  | .inf neg => if f.inf then f.withSign neg f.infPat else f.canonNaN
  | .fin neg m e =>
    let (p, _) := roundMag f .rne neg m e false
    if f.maxFin < p then (if f.inf then f.withSign neg f.infPat else f.canonNaN) else f.withSign neg p

/-- RoundRNE of a value that lies strictly above m * 2^e. -/
def rneSticky (f : FFmt) (neg : Bool) (m : Nat) (e : Int) (sticky : Bool) : Nat :=
  let (p, _) := roundMag f .rne neg m e sticky
  if f.maxFin < p then f.withSign neg f.infPat else f.withSign neg p

/-! Exact arithmetic. -/

def FVal.neg : FVal → FVal
  | .nan => .nan
  | .inf s => .inf (!s)
  | .fin s m e => .fin (!s) m e

def FVal.abs : FVal → FVal
  | .nan => .nan
  | .inf _ => .inf false
  | .fin _ m e => .fin false m e

def sgn (neg : Bool) (m : Nat) : Int := if neg then -(m : Int) else (m : Int)

/-- The sum; an exact zero of operands of opposite sign is +0, or -0 where `down` (R92, R115). -/
def FVal.add (down : Bool) : FVal → FVal → FVal
  | .nan, _ | _, .nan => .nan
  | .inf a, .inf b => if a == b then .inf a else .nan
  | .inf a, .fin _ _ _ => .inf a
  | .fin _ _ _, .inf b => .inf b
  | .fin s1 m1 e1, .fin s2 m2 e2 =>
    let e := min e1 e2
    let v := sgn s1 (m1 * 2 ^ (e1 - e).toNat) + sgn s2 (m2 * 2 ^ (e2 - e).toNat)
    if v == 0 then .fin (if s1 == s2 then s1 else down) 0 e
    else .fin (decide (v < 0)) v.natAbs e

/-- The product. -/
def FVal.mul : FVal → FVal → FVal
  | .nan, _ | _, .nan => .nan
  | .inf a, .inf b => .inf (a != b)
  | .inf a, .fin b m _ | .fin b m _, .inf a => if m == 0 then .nan else .inf (a != b)
  | .fin s1 m1 e1, .fin s2 m2 e2 => .fin (s1 != s2) (m1 * m2) (e1 + e2)

/-- Strictly less; no NaN is less or greater. -/
def FVal.lt : FVal → FVal → Bool
  | .nan, _ | _, .nan => false
  | .inf a, .inf b => a && !b
  | .inf a, .fin _ _ _ => a
  | .fin _ _ _, .inf b => !b
  | .fin s1 m1 e1, .fin s2 m2 e2 =>
    let e := min e1 e2
    decide (sgn s1 (m1 * 2 ^ (e1 - e).toNat) < sgn s2 (m2 * 2 ^ (e2 - e).toNat))

/-- Equal as numbers, so -0 equals +0. -/
def FVal.eq : FVal → FVal → Bool
  | .nan, _ | _, .nan => false
  | .inf a, .inf b => a == b
  | .fin s1 m1 e1, .fin s2 m2 e2 => !(FVal.fin s1 m1 e1).lt (.fin s2 m2 e2) && !(FVal.fin s2 m2 e2).lt (.fin s1 m1 e1)
  | _, _ => false

def FVal.isNeg : FVal → Bool
  | .nan => false
  | .inf s => s
  | .fin s _ _ => s

def FVal.isZero : FVal → Bool
  | .fin _ m _ => m == 0
  | _ => false

/-- Integer square root by bits from 2^(k-1) down. -/
def isqrtAux (n : Nat) : Nat → Nat → Nat
  | 0, r => r
  | k + 1, r => if (r + 2 ^ k) * (r + 2 ^ k) ≤ n then isqrtAux n k (r + 2 ^ k) else isqrtAux n k r

/-- floor (sqrt n). -/
def isqrt (n : Nat) : Nat := isqrtAux n (Nat.log2 n / 2 + 1) 0

/-- A quotient as magnitude, exponent and sticky bit. -/
def divMag (m1 : Nat) (e1 : Int) (m2 : Nat) (e2 : Int) : Nat × Int × Bool :=
  (m1 * 2 ^ 64 / m2, e1 - e2 - 64, m1 * 2 ^ 64 % m2 != 0)

/-- A square root as magnitude, exponent and sticky bit. -/
def sqrtMag (m : Nat) (e : Int) : Nat × Int × Bool :=
  let o := (e % 2).toNat
  let n := m * 2 ^ (o + 64)
  let r := isqrt n
  (r, (e - o - 64) / 2, r * r != n)

/-! The special functions of R144: the exact value rounded once. -/

/-- 2^128 * 2^(2^-1), then its square roots: bit j of a fraction weighs 2^-j. -/
def exp2Bits (fr : Nat) : Nat → Nat → Nat → Nat
  | 0, _, acc => acc
  | k + 1, root, acc =>
    let root := isqrt (root * 2 ^ 160)
    exp2Bits fr k root (if fr / 2 ^ k % 2 == 1 then acc * root / 2 ^ 160 else acc)

/-- 2^a. A fraction too small to matter is a value just above or below 1 (DEDUCED, log 9). -/
def exp2 (f : FFmt) : FVal → Nat
  | .nan => f.canonNaN
  | .inf false => f.infPat
  | .inf true => 0
  | .fin neg m e =>
    if m == 0 then rne f (.fin false 1 0)
    else if 20 ≤ topExp m e then (if neg then 0 else f.infPat)
    else if topExp m e < -40 then
      (if neg then rneSticky f false (2 ^ 60 - 1) (-60) true else rneSticky f false (2 ^ 60) (-60) true)
    else
      let k := (-e).toNat
      let v := sgn neg (m * 2 ^ e.toNat)
      let n := v / (2 ^ k : Int)
      let fr := (v % (2 ^ k : Int)).toNat
      if fr == 0 then rne f (.fin false 1 n)
      else rneSticky f false (exp2Bits fr k (2 * 2 ^ 160) (2 ^ 160)) (n - 160) true

/-- k bits of log2 y for y in [1, 2), y scaled by 2^256, by squaring. -/
def log2Bits : Nat → Nat → Nat → Nat
  | 0, _, acc => acc
  | k + 1, y, acc =>
    let y2 := y * y / 2 ^ 256
    if 2 * 2 ^ 256 ≤ y2 then log2Bits k (y2 / 2) (2 * acc + 1) else log2Bits k y2 (2 * acc)

/-- log2 a (DEDUCED, log 9). -/
def log2 (f : FFmt) : FVal → Nat
  | .nan => f.canonNaN
  | .inf false => f.infPat
  | .inf true => f.canonNaN
  | .fin neg m e =>
    if m == 0 then f.withSign true f.infPat
    else if neg then f.canonNaN
    else
      let k := topExp m e
      let t := Nat.log2 m
      if m == 2 ^ t then rne f (.fin (decide (k < 0)) k.natAbs 0)
      else
        let v := k * (2 ^ 96 : Int) + (log2Bits 96 (m * 2 ^ 256 / 2 ^ t) 0 : Int)
        if v < 0 then rneSticky f true (v.natAbs - 1) (-96) true else rneSticky f false v.toNat (-96) true

/-- 1/a. -/
def rcp (f : FFmt) : FVal → Nat
  | .nan => f.canonNaN
  | .inf neg => f.withSign neg 0
  | .fin neg m e =>
    if m == 0 then f.withSign neg f.infPat
    else let (q, x, s) := divMag 1 0 m e; rneSticky f neg q x s

/-- 1/sqrt a. -/
def rsq (f : FFmt) : FVal → Nat
  | .nan => f.canonNaN
  | .inf neg => if neg then f.canonNaN else 0
  | .fin neg m e =>
    if m == 0 then f.withSign neg f.infPat
    else if neg then f.canonNaN
    else
      let o := (e % 2).toNat
      let d := m * 2 ^ o
      let r := isqrt (2 ^ 160 / d)
      rneSticky f false r (-80 - (e - o) / 2) (r * r * d != 2 ^ 160)

/-! RISC-V single precision (R92). The flags are NV 16, DZ 8, OF 4, UF 2, NX 1. -/

def canonF : Nat := 0x7FC00000
def isSNaN (n : Nat) : Bool := n / 2 ^ 23 % 256 == 255 && n % 2 ^ 23 != 0 && n / 2 ^ 22 % 2 == 0

/-- A finite exact value (with sticky bit) to f32 under a mode: the pattern and the flags. Tininess is
detected after rounding. -/
def toF32 (mode : RMode) (neg : Bool) (m : Nat) (e : Int) (sticky : Bool) : Nat × Nat :=
  if m == 0 && !sticky then (f32F.withSign neg 0, 0)
  else
    let (p, x) := roundMag f32F mode neg m e sticky
    if f32F.maxFin < p then
      let toInf : Bool := match mode with
        | .rtz => false
        | .rdn => neg
        | .rup => !neg
        | _ => true
      (f32F.withSign neg (if toInf then f32F.infPat else f32F.maxFin), 5)
    else
      let q := topExp m e - 23
      let (n, _) := roundAt mode neg m e sticky q
      let tiny := decide (q < f32F.emin) && !(n == 2 ^ 24 && q + 1 == f32F.emin)
      (f32F.withSign neg p, (if x then 1 else 0) + (if x && tiny then 2 else 0))

/-- A value to f32: a NaN is the canonical one. -/
def valF32 (mode : RMode) : FVal → Nat × Nat
  | .nan => (canonF, 0)
  | .inf s => (f32F.withSign s f32F.infPat, 0)
  | .fin s m e => toF32 mode s m e false

def nv (b : Bool) : Nat := if b then 16 else 0
def anySNaN (l : List Nat) : Bool := l.any isSNaN

/-- FADD.S and, with the second operand negated, FSUB.S. -/
def fAdd (mode : RMode) (a b : Nat) (sub : Bool) : Nat × Nat :=
  let x := f32F.dec a
  let y := if sub then (f32F.dec b).neg else f32F.dec b
  let r := x.add (mode == .rdn) y
  match r with
  | .nan => (canonF, nv (anySNaN [a, b] || (x != .nan && y != .nan)))
  | v => valF32 mode v

def fMul (mode : RMode) (a b : Nat) : Nat × Nat :=
  let x := f32F.dec a
  let y := f32F.dec b
  match x.mul y with
  | .nan => (canonF, nv (anySNaN [a, b] || (x != .nan && y != .nan)))
  | v => valF32 mode v

/-- (neg? a * b) + (sub? c), one rounding. -/
def fFma (mode : RMode) (negP sub : Bool) (a b c : Nat) : Nat × Nat :=
  let x := f32F.dec a
  let y := f32F.dec b
  let z := f32F.dec c
  let p := if negP then (x.mul y).neg else x.mul y
  let z' := if sub then z.neg else z
  let badMul := x != .nan && y != .nan && x.mul y == .nan
  match p.add (mode == .rdn) z' with
  | .nan => (canonF, nv (anySNaN [a, b, c] || badMul || (p != .nan && z != .nan)))
  | v => valF32 mode v

def fDiv (mode : RMode) (a b : Nat) : Nat × Nat :=
  match f32F.dec a, f32F.dec b with
  | .nan, _ | _, .nan => (canonF, nv (anySNaN [a, b]))
  | .inf _, .inf _ => (canonF, 16)
  | .inf s, .fin t _ _ => (f32F.withSign (s != t) f32F.infPat, 0)
  | .fin s _ _, .inf t => (f32F.withSign (s != t) 0, 0)
  | .fin s m1 e1, .fin t m2 e2 =>
    if m2 == 0 then (if m1 == 0 then (canonF, 16) else (f32F.withSign (s != t) f32F.infPat, 8))
    else let (q, e, x) := divMag m1 e1 m2 e2; toF32 mode (s != t) q e x

def fSqrt (mode : RMode) (a : Nat) : Nat × Nat :=
  match f32F.dec a with
  | .nan => (canonF, nv (isSNaN a))
  | .inf s => if s then (canonF, 16) else (f32F.infPat, 0)
  | .fin s m e =>
    if m == 0 then (a, 0)
    else if s then (canonF, 16)
    else let (r, x, st) := sqrtMag m e; toF32 mode false r x st

/-- FMIN.S and FMAX.S: a NaN loses to a number, -0 is below +0. -/
def fMinMax (isMax : Bool) (a b : Nat) : Nat × Nat :=
  let x := f32F.dec a
  let y := f32F.dec b
  let fl := nv (anySNaN [a, b])
  match x, y with
  | .nan, .nan => (canonF, fl)
  | .nan, _ => (b, fl)
  | _, .nan => (a, fl)
  | _, _ =>
    let aLess := x.lt y || (x.eq y && x.isNeg && !y.isNeg)
    (if aLess == isMax then b else a, fl)

def fEq (a b : Nat) : Bool × Nat := ((f32F.dec a).eq (f32F.dec b), nv (anySNaN [a, b]))
def fLt (a b : Nat) : Bool × Nat :=
  ((f32F.dec a).lt (f32F.dec b), nv (f32F.dec a == .nan || f32F.dec b == .nan))
def fLe (a b : Nat) : Bool × Nat :=
  ((f32F.dec a).lt (f32F.dec b) || (f32F.dec a).eq (f32F.dec b), nv (f32F.dec a == .nan || f32F.dec b == .nan))

def fSgnj (mode : Nat) (a b : Nat) : Nat :=
  let s := match mode with
    | 0 => b / 2 ^ 31 % 2
    | 1 => 1 - b / 2 ^ 31 % 2
    | _ => (a / 2 ^ 31 + b / 2 ^ 31) % 2
  a % 2 ^ 31 + s * 2 ^ 31

/-- FCLASS.S. -/
def fClass (a : Nat) : Nat :=
  let s := a / 2 ^ 31 % 2 == 1
  match f32F.dec a with
  | .nan => if isSNaN a then 2 ^ 8 else 2 ^ 9
  | .inf _ => if s then 1 else 2 ^ 7
  | .fin _ m _ =>
    if m == 0 then (if s then 2 ^ 3 else 2 ^ 4)
    else if m < 2 ^ 23 then (if s then 2 ^ 2 else 2 ^ 5)
    else (if s then 2 else 2 ^ 6)

/-- FCVT to an integer format lo .. hi: the value and the flags. -/
def fToInt (mode : RMode) (lo hi : Int) (a : Nat) : Int × Nat :=
  match f32F.dec a with
  | .nan => (hi, 16)
  | .inf s => (if s then lo else hi, 16)
  | .fin s m e =>
    let (n, x) := roundAt mode s m e false 0
    let v := sgn s n
    if v < lo then (lo, 16) else if hi < v then (hi, 16) else (v, if x then 1 else 0)

def fOfInt (mode : RMode) (v : Int) : Nat × Nat := toF32 mode (decide (v < 0)) v.natAbs 0 false

end Sys2Proof.Machine
end

