-- ==== Sys2Proof/Machine/Operands.lean ====
section
/-! DEFINITION. Where operands live: the numbering of harts, cores and clusters (R16), reads and writes
of the register files, the registers a word names (R44, R67), lanes (R112), the types of a typed word
(R47, R114), and the spaces of data addresses (R23 to R30). -/

namespace Sys2Proof.Machine
open Sys2Proof

/-! Numbering. -/

def isMordant (h : Nat) : Bool := 32768 ≤ h
def coreOf (h : Nat) : Nat := if h < 32768 then h / 4 else 8192 + (h - 32768)
/-- The hart's place in its core. -/
def hartIn (h : Nat) : Nat := if h < 32768 then h % 4 else 0
def isWorker (c : Nat) : Bool := c < 8192
/-- The cluster of a core: die * 64 + cluster. -/
def cluOf (c : Nat) : Nat := if c < 8192 then c / 16 else c - 8192
def dieOf (g : Nat) : Nat := g / 64
def cluOfHart (h : Nat) : Nat := cluOf (coreOf h)
def dieOfHart (h : Nat) : Nat := dieOf (cluOfHart h)
/-- Hart i of a core. -/
def hartAt (c i : Nat) : Nat := if c < 8192 then c * 4 + i else 32768 + (c - 8192)
def hartsOf (c : Nat) : List Nat := if c < 8192 then [c * 4, c * 4 + 1, c * 4 + 2, c * 4 + 3] else [32768 + (c - 8192)]
/-- The Mordant core of a cluster. -/
def mordantCore (g : Nat) : Nat := 8192 + g
/-- Worker core i of cluster g. -/
def coreAt (g i : Nat) : Nat := g * 16 + i
/-- The location of offset 0 of a core's scratchpad or private memory (R23): its 0x8 address with
package 0 (DESIGN CHOICE, log 14). -/
def padBase (c : Nat) : Nat :=
  if c < 8192 then 2 ^ 63 + c / 1024 * 2 ^ 45 + c / 16 % 64 * 2 ^ 39 + c % 16 * 2 ^ 34
  else 2 ^ 63 + (c - 8192) / 64 * 2 ^ 45 + (c - 8192) % 64 * 2 ^ 39 + 16 * 2 ^ 34
/-- The location of a core's window offset 0 (bit 33 set): instruction memory, inbox at 0x1_0000 (DESIGN CHOICE, log 14). -/
def winBase (c : Nat) : Nat := padBase c + 2 ^ 33
/-- Size of a core's scratchpad or private memory (R19, R30). -/
def padSize (c : Nat) : Nat := if c < 8192 then 2 ^ 17 else 2 ^ 16
/-- The location of code word n of a core: instruction memory, or private memory on a Mordant core. -/
def codeLoc (c n : Nat) : Nat := if c < 8192 then winBase c + 4 * n else padBase c + 4 * n
/-- The code words of a core (R73). -/
def codeWords (c : Nat) : Nat := if c < 8192 then 8192 else 16384
/-- The location of device physical address p, of host physical address p, of operand-memory byte p. -/
def hbmLoc (p : Nat) : Nat := 2 ^ 64 + p
def hostLoc (p : Nat) : Nat := 2 ^ 65 + p
def opLoc (g p : Nat) : Nat := 2 ^ 66 + g * 2 ^ 20 + p

/-! Parts of the state. -/

namespace State
def hart (s : State) (h : Nat) : Hart := SMap.get {} s.harts h
def setHart (s : State) (h : Nat) (H : Hart) : State := { s with harts := SMap.put s.harts h H }
def modHart (s : State) (h : Nat) (f : Hart → Hart) : State := s.setHart h (f (s.hart h))
def core (s : State) (c : Nat) : Core := SMap.get {} s.cores c
def setCore (s : State) (c : Nat) (C : Core) : State := { s with cores := SMap.put s.cores c C }
def modCore (s : State) (c : Nat) (f : Core → Core) : State := s.setCore c (f (s.core c))
def cluster (s : State) (g : Nat) : Cluster := SMap.get {} s.clusters g
def setCluster (s : State) (g : Nat) (G : Cluster) : State := { s with clusters := SMap.put s.clusters g G }
def modCluster (s : State) (g : Nat) (f : Cluster → Cluster) : State := s.setCluster g (f (s.cluster g))
def die (s : State) (d : Nat) : Die := SMap.get {} s.dies d
def setDie (s : State) (d : Nat) (D : Die) : State := { s with dies := SMap.put s.dies d D }
def modDie (s : State) (d : Nat) (f : Die → Die) : State := s.setDie d (f (s.die d))
def modPkg (s : State) (f : Pkg → Pkg) : State := { s with pkg := f s.pkg }
/-- The hart whose instruction is executed (DESIGN CHOICE, log 49). -/
def me (s : State) : Hart := s.hart s.cur
/-- A free value (DESIGN CHOICE, log 5) and the state after its use. -/
def draw (s : State) : BitVec 512 × State := (Config.freeBits s.free, { s with free := s.free + 1 })
end State

/-! Registers of a hart. -/

namespace Hart
/-- X(n): x0 reads 0 (R7). -/
def getX (H : Hart) (n : Nat) : Word := if n = 0 then 0 else SMap.get 0 H.x n
/-- X(n) ← v: a write of x0 is discarded (R7). -/
def setX (H : Hart) (n : Nat) (v : Word) : Hart := if n = 0 then H else { H with x := SMap.put H.x n v }
def getF (H : Hart) (n : Nat) : W32 := SMap.get 0 H.f n
def setF (H : Hart) (n : Nat) (v : W32) : Hart := { H with f := SMap.put H.f n v }
def getV (H : Hart) (n : Nat) : VReg := SMap.get 0 H.v n
def setV (H : Hart) (n : Nat) (v : VReg) : Hart := { H with v := SMap.put H.v n v }
def getM (H : Hart) (n : Nat) : Word := SMap.get 0 H.m n
def setM (H : Hart) (n : Nat) (v : Word) : Hart := { H with m := SMap.put H.m n v }
/-- A register of any file, as 512 bits. -/
def getReg (H : Hart) : RFile → Nat → VReg
  | .x, n => (H.getX n).setWidth 512
  | .f, n => (H.getF n).setWidth 512
  | .v, n => H.getV n
  | .m, n => (H.getM n).setWidth 512
def setReg (H : Hart) : RFile → Nat → VReg → Hart
  | .x, n, v => H.setX n (v.setWidth 64)
  | .f, n, v => H.setF n (v.setWidth 32)
  | .v, n, v => H.setV n v
  | .m, n, v => H.setM n (v.setWidth 64)
end Hart

namespace State
def x (s : State) (r : BitVec 5) : Word := s.me.getX r.toNat
def f (s : State) (r : BitVec 5) : W32 := s.me.getF r.toNat
end State

/-- Modes as numbers (R39). -/
def Mode.code : Mode → Nat
  | .U => 0
  | .S => 1
  | .M => 3
def Mode.ofCode (n : Nat) : Mode := if n = 3 then .M else if n = 1 then .S else .U

/-- Bit n of a word, and a word with bit n set to b. -/
def bit (w : Word) (n : Nat) : Bool := w.getLsbD n
def setBit (w : Word) (n : Nat) (b : Bool) : Word :=
  if b then w ||| (1#64 <<< n) else w &&& ~~~(1#64 <<< n)
/-- Bits lo .. lo+n-1 of a word as a number. -/
def bits (w : Word) (lo n : Nat) : Nat := w.toNat / 2 ^ lo % 2 ^ n
def word (n : Nat) : Word := BitVec.ofNat 64 n
def wordZ (n : Int) : Word := BitVec.ofInt 64 n

/-! Lanes (R112, R113). -/

/-- Lanes 0 .. n-1 of width w of a number. -/
def chop (w : Nat) : Nat → Nat → List Nat
  | 0, _ => []
  | n + 1, v => v % 2 ^ w :: chop w n (v / 2 ^ w)

/-- The number whose lanes of width w are given, lowest first. -/
def pack (w : Nat) : List Nat → Nat
  | [] => 0
  | a :: r => a % 2 ^ w + 2 ^ w * pack w r

def lanes (w : Nat) (v : VReg) : List Nat := chop w (512 / w) v.toNat
def ofLanes (w : Nat) (l : List Nat) : VReg := BitVec.ofNat 512 (pack w (l.take (512 / w)))
def laneCount (w : Nat) : Nat := 512 / w

/-- A w-bit pattern read as two's complement. -/
def toSigned (w n : Nat) : Int := if n < 2 ^ (w - 1) then (n : Int) else (n : Int) - 2 ^ w
/-- The w-bit pattern of an integer. -/
def ofSigned (w : Nat) (v : Int) : Nat := (v % (2 ^ w : Int)).toNat

/-- n bytes of a number, lowest first (R3). -/
def toBytes : Nat → Nat → List Byte
  | 0, _ => []
  | n + 1, v => BitVec.ofNat 8 v :: toBytes n (v / 256)
/-- The number of little-endian bytes (R3). -/
def ofBytes : List Byte → Nat
  | [] => 0
  | b :: r => b.toNat + 256 * ofBytes r

/-- Mask bits 0 .. n-1 as Booleans. -/
def maskBits (n : Nat) (m : Word) : List Bool := (List.range n).map fun i => bit m i
/-- The mask of a list of Booleans. -/
def ofMask (l : List Bool) : Word := word (pack 1 (l.map fun b => if b then 1 else 0))

/-! Types of a typed word. -/

/-- The four fields of a prefix payload (R62). -/
structure Payload where
  fa : Fmt
  fb : Fmt
  fd : Fmt
  sm : ScaleMode
  deriving DecidableEq, Repr

/-- The payload of an FMT word, if its fields are legal (R62). -/
def payloadOf (p : BitVec 25) : Option Payload :=
  let n := p.toNat
  match Fmt.ofCode (fld n 21 4), Fmt.ofCode (fld n 17 4), Fmt.ofCode (fld n 13 4), ScaleMode.ofCode (fld n 11 2) with
  | some a, some b, some d, some m => some ⟨a, b, d, m⟩
  | _, _, _, _ => none

/-- Whether a word requires a prefix, accepts one, or takes none (R63). -/
inductive PrefixUse | needs | takes | plain
  deriving DecidableEq, Repr

def prefixUse (op : Op) (w : Nat) : PrefixUse :=
  match op with
  | .vcvt | .vquant | .vdeq => .needs
  | .vadd | .vsub | .vmul | .vfma | .vfms | .vmin | .vmax | .vdot4 | .vcmp | .vshl | .vshr | .vsra
  | .vabs | .vneg | .vmov | .vexp2 | .vlog2 | .vrcp | .vrsq | .vrsum | .vrmax | .vrmin | .vidx | .vsplat | .vbcast =>
    if fld w 12 3 == 7 then .needs else .plain
  | .mstg | .mstgAcc | .mxst | .mxstAcc | .mchain | .mchainAcc | .odrain | .odrainAmax => .takes
  | _ => .plain

/-- Payloads of the in-tile and cross-tile stages (R331). -/
def stagePayload (p : Payload) (cross : Bool) : Bool :=
  (p.sm == .plain &&
    ((p.fa == .bf16 && p.fb == .bf16 && p.fd == .f32) || (p.fa == .f16 && p.fb == .f16 && p.fd == .f32)
      || (p.fa == .f32 && p.fb == .bf16 && p.fd == .f32)
      || ((p.fa == .i8 || p.fa == .n8) && (p.fb == .i8 || p.fb == .n8) && p.fd == .i32)))
  || (!cross &&
      ((p.fa.isF8 && (p.fb.isF8 || p.fb == .t4 || p.fb == .cb2) && p.fd == .f32 && p.sm != .dst)
        || (p.fa == .bf16 && (p.fb == .t4 || p.fb == .cb2) && p.fd == .f32 && p.sm != .dst)
        || (p.fa == .i8 && p.fb == .t4 && p.fd == .i32 && p.sm == .plain)))

/-- The payloads a word takes (R114, R137, R167, R331, R344). VMOV and VBCAST take no t4 (DESIGN CHOICE, log 69). -/
def prefixFits (op : Op) (w : Nat) (p : Payload) : Bool :=
  let arith (f : Fmt) := f.isInt || f.isFlt
  let plain := p.sm == .plain
  match op with
  | .vadd | .vsub | .vmul | .vmin | .vmax => plain && arith p.fa && p.fb == p.fa && p.fd == p.fa
  | .vfma | .vfms => plain && p.fa.isFlt && p.fb == p.fa && p.fd == p.fa
  | .vshl | .vshr | .vsra => plain && p.fa.isInt && p.fb == p.fa && p.fd == p.fa
  | .vcmp => plain && arith p.fa && p.fb == p.fa && p.fd == .none
  | .vdot4 => plain && (p.fa == .i8 || p.fa == .n8) && (p.fb == .i8 || p.fb == .n8) && p.fd == .i32
  | .vmov | .vbcast =>
    plain && p.fb == .none && p.fd == p.fa && (arith p.fa || p.fa.isF8 || p.fa == .cb2)
  | .vidx | .vsplat | .vrsum | .vrmax | .vrmin => plain && arith p.fa && p.fb == .none && p.fd == p.fa
  | .vabs | .vneg => plain && (p.fa.isSig || p.fa.isFlt) && p.fb == .none && p.fd == p.fa
  | .vexp2 | .vlog2 | .vrcp | .vrsq => plain && p.fa.isFlt && p.fb == .none && p.fd == p.fa
  | .vcvt =>
    let c (f : Fmt) := f.isInt || f.isFlt || f.isF8
    plain && c p.fa && c p.fd && p.fa != p.fd && p.fb == .none
      && (fld w 23 2 == 0 || !(p.fa.isInt && p.fd.isInt))
  | .vquant =>
    p.sm == .dst && p.fa.isFlt && p.fb == .none && (p.fd.isF8 || (p.fd == .t4 && fld w 23 2 == 0))
  | .vdeq =>
    p.fb == .none && p.fd.isFlt &&
      ((p.fa.isF8 && p.sm == .src) || ((p.fa == .t4 || p.fa == .cb2) && p.sm != .dst))
  | .mstg | .mstgAcc => stagePayload p false
  | .mxst | .mxstAcc => stagePayload p true
  | .mchain | .mchainAcc => plain && (p.fa == .bf16 || p.fa == .f32) && p.fb == .bf16 && p.fd == .f32
  | .odrain | .odrainAmax =>
    plain && p.fb == .none &&
      ((p.fa == .f32 && (p.fd.isFlt || p.fd.isF8))
        || (p.fa == .i32 && (p.fd == .i32 || p.fd == .i8 || p.fd == .n8 || p.fd == .f32)))
  | _ => false

/-- The formats in force for a typed word: by its short code, or by the pending payload. -/
def typesOf (t : VType) (H : Hart) : Option Payload :=
  match t with
  | .pre => if H.pfx then payloadOf H.payload else none
  | t => some ⟨t.fmt, t.fmt, t.fmt, .plain⟩

/-! The registers a word names (R44, R67). -/

/-- Registers in the rd, rs1 and rs2 positions, whether the rd one is read and written, and the
registers read in other positions. -/
structure Uses where
  d  : Option (RFile × Nat) := none
  dr : Bool := false
  dw : Bool := true
  a  : Option (RFile × Nat) := none
  b  : Option (RFile × Nat) := none
  more : List (RFile × Nat) := []
  alsoW : List (RFile × Nat) := []
  deriving DecidableEq, Repr

/-- The mask of a VM word: none when mk = 000 (R49). -/
def maskUse (w : Nat) : List (RFile × Nat) := if fld w 25 3 == 0 then [] else [(.m, fld w 25 3)]

/-- The registers of a word of row `op`; `p` is the pending payload. -/
def usesOf (op : Op) (w : Nat) (p : Option Payload) : Uses :=
  let D := fld w 7 5
  let A := fld w 15 5
  let B := fld w 20 5
  let xd := some (RFile.x, D)
  let fd := some (RFile.f, D)
  let vd := some (RFile.v, D)
  let xa := some (RFile.x, A)
  let fa := some (RFile.f, A)
  let va := some (RFile.v, A)
  let xb := some (RFile.x, B)
  let fb := some (RFile.f, B)
  let vb := some (RFile.v, B)
  match op with
  | .lui | .auipc | .jal | .csrrwi | .csrrsi | .csrrci | .bqget | .press | .dqpop | .arm => { d := xd }
  | .jalr | .lb | .lh | .lw | .ld | .lbu | .lhu | .lwu | .addi | .slti | .sltiu | .xori | .ori | .andi
  | .slli | .srli | .srai | .addiw | .slliw | .srliw | .sraiw | .lrW | .lrD | .csrrw | .csrrs | .csrrc
  | .ldFeKeep | .ldFeClr | .feqry | .cpyw | .lda | .fxrdLo | .fxrdHi | .rlqry | .spawnNb | .dqspill
  | .oclaim | .scnvw | .codecmt => { d := xd, a := xa }
  | .beq | .bne | .blt | .bge | .bltu | .bgeu | .sb | .sh | .sw | .sd | .stFe | .strl | .spawnr | .spawnat
  | .joininit | .joinadd | .joinarm | .dqpush | .rpush | .sendw | .sendh | .migrate | .grpw | .mcw | .jkset
  | .orel | .ofill | .odrain | .odrainAmax | .mstride | .mrgu | .mrguDz | .mrgi | .scnv => { a := xa, b := xb }
  | .add | .sub | .sll | .slt | .sltu | .xor | .srl | .sra | .or | .and | .addw | .subw | .sllw | .srlw | .sraw
  | .mul | .mulh | .mulhsu | .mulhu | .div | .divu | .rem | .remu | .mulw | .divw | .divuw | .remw | .remuw
  | .scW | .scD | .amoSwapW | .amoSwapD | .amoAddW | .amoAddD | .amoXorW | .amoXorD | .amoAndW | .amoAndD
  | .amoOrW | .amoOrD | .amoMinW | .amoMinD | .amoMaxW | .amoMaxD | .amoMinuW | .amoMinuD | .amoMaxuW | .amoMaxuD
  | .amoAddScoped | .amoSwapScoped | .amoAndScoped | .amoOrScoped | .amoXorScoped | .amoMinScoped | .amoMaxScoped
  | .amoMinuScoped | .amoMaxuScoped | .rpop | .rpeek | .cpy => { d := xd, a := xa, b := xb }
  | .amoCasScoped => { d := xd, dr := true, a := xa, b := xb }
  | .flw | .fcvtSW | .fcvtSWu | .fcvtSL | .fcvtSLu | .fmvWX | .fxrd => { d := fd, a := xa }
  | .fsw | .fxadd => { a := xa, b := fb }
  | .fmaddS | .fmsubS | .fnmsubS | .fnmaddS => { d := fd, a := fa, b := fb, more := [(.f, fld w 27 5)] }
  | .faddS | .fsubS | .fmulS | .fdivS | .fsgnjS | .fsgnjnS | .fsgnjxS | .fminS | .fmaxS => { d := fd, a := fa, b := fb }
  | .fsqrtS => { d := fd, a := fa }
  | .fcvtWS | .fcvtWuS | .fcvtLS | .fcvtLuS | .fmvXW | .fclassS => { d := xd, a := fa }
  | .feqS | .fltS | .fleS => { d := xd, a := fa, b := fb }
  | .vadd | .vsub | .vmul | .vmin | .vmax | .vshl | .vshr | .vsra | .vand | .vor | .vxor | .vperm =>
    { d := vd, a := va, b := vb }
  | .vfma | .vfms | .vdot4 => { d := vd, dr := true, a := va, b := vb }
  | .vcmp => { d := some (.m, fld w 7 3), a := va, b := vb }
  | .vabs | .vneg | .vmov | .vexp2 | .vlog2 | .vrcp | .vrsq | .vrsum | .vrmax | .vrmin | .vbcast
  | .vslideDn | .vslideUp | .vcvt => { d := vd, a := va }
  | .vquant =>
    { d := vd, a := va, more := match p with | some q => if q.fa == .f32 then [(.v, A + 1)] else [] | none => [] }
  | .vdeq =>
    { d := vd, a := va,
      alsoW := match p with | some q => if q.fd == .f32 && q.sm == .src then [(.v, D + 1)] else [] | none => [] }
  | .vidx => { d := vd }
  | .vsplat =>
    let flt := match VType.ofCode (fld w 12 3) with
      | some .pre => (match p with | some q => q.fa.isFlt | none => false)
      | some t => t.fmt.isFlt
      | none => false
    { d := vd, a := if flt then fa else xa }
  | .tbld => { a := va }
  | .cbld | .srseed | .bqput | .fesetEmpty | .fesetFull | .fxclr | .spawn | .tend | .grpbar | .keyrot | .mlease
  | .maccz | .cseal | .crestart | .hloop => { a := xa }
  | .vld | .vlds => { d := vd, a := xa, b := xb, more := maskUse w }
  | .vst | .vsts => { d := vd, dr := true, dw := false, a := xa, b := xb, more := maskUse w }
  | .sbindSrc | .sbindDst | .chbind => { d := vd, a := xa }
  | .sunbind => { d := vd }
  | .vsel => { d := vd, a := va, b := vb, more := [(.m, fld w 25 3)] }
  | .mand | .mor | .mxor => { d := some (.m, fld w 7 3), a := some (.m, fld w 15 3), b := some (.m, fld w 20 3) }
  | .mnot => { d := some (.m, fld w 7 3), a := some (.m, fld w 15 3) }
  | .mpop => { d := xd, a := some (.m, fld w 15 3) }
  | .vloop => { a := xa, alsoW := [(.x, A)] }
  | .gathA => { d := vd, a := va, more := [(.v, A + 1)] }
  | .gathX => { d := vd, a := xa, b := vb }
  | .scatA => { d := vd, dr := true, dw := false, a := va, more := [(.v, A + 1)] }
  | .scatX => { d := vd, dr := true, dw := false, a := xa, b := vb }
  | .fence | .fenceTso | .pause | .ecall | .ebreak | .mret | .sret | .wfi | .fenceScoped | .dqsplit | .msgret
  | .mstg | .mstgAcc | .mxst | .mxstAcc | .mchain | .mchainAcc | .mrel | .mwait | .lclr0 | .lclr1 | .safept
  | .wfm | .sig | .fmt => {}

/-- The registers read. -/
def Uses.reads (u : Uses) : List (RFile × Nat) :=
  (if u.dr then u.d.toList else []) ++ u.a.toList ++ u.b.toList ++ u.more
/-- The registers written. -/
def Uses.writes (u : Uses) : List (RFile × Nat) :=
  (if u.dw then u.d.toList else []) ++ u.alsoW

/-- The 15-bit tuple of R67: rd, rs1, rs2, most significant first. -/
def crcTuple (op : Op) (w : Nat) : Nat :=
  let u := usesOf op w none
  let n (o : Option (RFile × Nat)) := match o with | some (_, k) => k | none => 0
  n u.d * 1024 + n u.a * 32 + n u.b

/-- The end kind of a word (R66) but for the last word of a loop. -/
def endKindOf : Op → Nat
  | .beq | .bne | .blt | .bge | .bltu | .bgeu => 1
  | .jal => 2
  | .jalr => 3
  | .ecall | .ebreak | .mret | .sret => 4
  | .tend | .migrate | .safept => 6
  | _ => 0

/-! Data addresses (R23 to R30). -/

/-- What a data address names for a hart. Offsets are within the named memory. -/
inductive Place
  | own (off : Nat)
  | pad (core off : Nat)
  | other (addr : Nat)
  | window (core off : Nat)
  | virt (addr : Nat)
  | bad
  deriving DecidableEq, Repr

/-- The place an address names when hart `h` uses it (R23 to R26, R30, R32): a 0x8 address of the own
core is the own memory; a Mordant private memory and a window through 0x8 are refused to worker harts;
a virtual address needs a process slot. -/
def placeOf (s : State) (h : Nat) (slot : Option Nat) (a : Word) : Place :=
  let n := a.toNat
  let c := coreOf h
  match n / 2 ^ 60 with
  | 8 =>
    let pkg := n / 2 ^ 48 % 4096
    let die := n / 2 ^ 45 % 8
    let clu := n / 2 ^ 39 % 64
    let k := n / 2 ^ 34 % 32
    let win := n / 2 ^ 33 % 2
    let t := if k = 16 then 8192 + die * 64 + clu else die * 1024 + clu * 16 + k
    if 16 < k ∨ n / 2 ^ 20 % 2 ^ 13 ≠ 0 then .bad
    else if win = 1 then
      if isMordant h then (if pkg = s.pkg.number then .window t (n % 2 ^ 20) else .other n) else .bad
    else if n / 2 ^ 17 % 8 ≠ 0 then .bad
    else if k = 16 ∧ 2 ^ 16 ≤ n % 2 ^ 17 then .bad
    else if pkg ≠ s.pkg.number then (if k = 16 ∧ !isMordant h then .bad else .other n)
    else if t = c then .own (n % 2 ^ 17)
    else if k = 16 ∧ !isMordant h then .bad
    else .pad t (n % 2 ^ 17)
  | 9 => if n / 2 ^ 17 % 2 ^ 43 ≠ 0 ∨ padSize c ≤ n % 2 ^ 17 then .bad else .own (n % 2 ^ 17)
  | 12 => if n / 2 ^ 20 % 2 ^ 40 ≠ 0 then .bad else .window c (n % 2 ^ 20)
  | _ => if n < 2 ^ 63 then (if slot.isSome then .virt n else .bad) else .bad

/-- The address in the one form in which range locks and orders compare (R241): own memory as 0x9,
others of the package by location, virtual as they are. -/
def canonAddr (s : State) (h : Nat) (a : Word) : Nat :=
  match placeOf s h (some 0) a with
  | .own off => 9 * 2 ^ 60 + off
  | _ => a.toNat

/-- A word's own-memory offset, if the address lies there. -/
def ownOff (s : State) (h : Nat) (a : Word) : Option Nat :=
  match placeOf s h none a with
  | .own off => some off
  | _ => none

/-- The process slot a hart runs under (R35): its handler's, else its task's. -/
def slotOf (H : Hart) : Option Nat :=
  match H.handler, H.task with
  | some r, _ => r.slot
  | none, some t => some t.slot
  | none, none => none

/-- The job key a hart sends under (R35, R390): key 0 is the device's own (DEDUCED, log 10). -/
def keyOf (H : Hart) : Nat :=
  match H.handler, H.task with
  | some r, _ => r.key
  | none, some t => t.key
  | none, none => 0

end Sys2Proof.Machine
end

