-- ==== Sys2Proof/Machine/Mesh.lean ====
section
/-! DEFINITION. The network inside the package: what a location is (R31), where packets come from and go
(R33, R34), their classes, planes, lengths and headers (R375 to R377), the routers, links and routes of
the meshes and bridges (R12, R14, R15), and the output ports at which packets wait (R378). -/

namespace Sys2Proof.Machine
open Sys2Proof

/-! Locations (R31): what a location is. -/

def isPadLoc (loc : Nat) : Bool := 2 ^ 63 ≤ loc && loc < 2 ^ 64
def isHbmLoc (loc : Nat) : Bool := 2 ^ 64 ≤ loc && loc < 2 ^ 65
def isHostLoc (loc : Nat) : Bool := 2 ^ 65 ≤ loc && loc < 2 ^ 66
/-- The core a scratchpad, private-memory or window location belongs to. -/
def coreOfLoc (loc : Nat) : Nat :=
  let die := loc / 2 ^ 45 % 8
  let clu := loc / 2 ^ 39 % 64
  let k := loc / 2 ^ 34 % 32
  if k = 16 then 8192 + die * 64 + clu else die * 1024 + clu * 16 + k
def isWindowLoc (loc : Nat) : Bool := loc / 2 ^ 33 % 2 == 1
/-- The index of the code word that holds a location, if it is code (R29, R30). -/
def codeIndex (loc : Nat) : Option Nat :=
  if !isPadLoc loc then none
  else if isWorker (coreOfLoc loc) then (if isWindowLoc loc && loc % 2 ^ 20 < 2 ^ 15 then some (loc % 2 ^ 20 / 4) else none)
  else if isWindowLoc loc then none else some (loc % 2 ^ 17 / 4)

/-! Agents that are no hart of the package, as the sending hart of a packet. -/

/-- The units of cluster g (DESIGN CHOICE, log 20). -/
def devHart (g : Nat) : Nat := 65536 + g
/-- Hart h of another package k. -/
def foreignHart (k h : Nat) : Nat := (k + 2) * 65536 + h
def isForeign (h : Nat) : Bool := 131072 ≤ h
def foreignPkg (h : Nat) : Nat := h / 65536 - 2
/-- The die a packet's sender stands on. -/
def senderDie (h : Nat) : Nat := if h < 65536 then dieOfHart h else if h < 131072 then dieOf (h - 65536) else 0

/-! Target words (R288) and endpoints (R33). -/

def tgtEp (t : Nat) : Nat := t / 2 ^ 7 % 2 ^ 25
def tgtHart (t : Nat) : Nat := t / 32 % 4
def tgtReg (t : Nat) : Nat := t % 32
/-- The package and the worker core of an endpoint identifier. -/
def epPkg (ep : Nat) : Nat := ep / 2 ^ 13
def epCore (ep : Nat) : Nat := ep % 2 ^ 13
/-- The hart a target word names. -/
def tgtHartNo (t : Nat) : Nat := epCore (tgtEp t) * 4 + tgtHart t
/-- The endpoint identifier of a worker core of the package. -/
def epOf (s : State) (c : Nat) : Nat := s.pkg.number % 4096 * 2 ^ 13 + c % 2 ^ 13

/-- The package a packet is bound for. -/
def destPkg (s : State) (b : Body) : Nat :=
  match b with
  | .mem a _ _ .new => if a / 2 ^ 60 = 8 then a / 2 ^ 48 % 4096 else s.pkg.number
  | .deposit t _ => if t / 2 ^ 60 = 8 then t / 2 ^ 48 % 4096 else if t / 2 ^ 60 = 9 then s.pkg.number else epPkg (tgtEp t)
  | .handler t _ _ _ _ => epPkg (tgtEp t)
  | .channel ep _ _ _ _ _ _ => epPkg ep
  | .dec a _ _ _ => a / 2 ^ 48 % 4096
  | .release k _ | .lost k _ _ => k.pkg
  | .accepted _ home _ => home / 512
  | .unpin _ g => g / 512
  | .task _ _ _ g _ =>
    if g < 512 then s.pkg.number else ((SMap.get {} s.pkg.ports (g - 512)).placement.getD s.pkg.number)
  | _ => s.pkg.number
def leavesPkg (s : State) (b : Body) : Bool := destPkg s b != s.pkg.number

/-! Classes, planes, headers and lengths (R290, R375 to R377). The KIND codes, the planes of kinds this manual
names none for, and the bytes after the header are the device's own (DESIGN CHOICE, log 22). -/

opaque wireKind : Packet → Nat
/-- Payload i of a packet's flits, but for the header. -/
opaque wirePiece : Packet → Nat → VReg
/-- The packet that arriving bytes are, where they are one. -/
opaque wirePacket : List Byte → Option Packet

/-- The traffic class of a packet: 0 Vermilion, 1 Ochre, 2 Umber (R290, R377). -/
def trafficClass : Body → Nat
  | .mem _ (.store _ _) _ _ | .mem _ (.stores _) _ _ | .mem _ (.relStore _) _ _ | .channel _ _ _ _ _ _ _ | .mcw _ _ _ _ _
  | .group _ _ _ _ _ => 2
  | .reply _ _ _ (.data _ _) | .handler _ _ _ _ _ | .context _ _ _ => 1
  | _ => 0
/-- The plane of a packet, which is its virtual channel on a bridge or port: 0 request, 1 reply, 2 task and message,
3 bulk (R15, R375). -/
def planeOf : Body → Nat
  | .reply _ _ _ _ => 1
  | .mem _ (.store _ _) _ _ | .mem _ (.stores _) _ _ | .mem _ (.relStore _) _ _ | .mcw _ _ _ _ _ | .channel _ _ _ _ _ _ _ => 3
  | .mem _ _ _ _ => 0
  | _ => 2
/-- The most flits of a class (R377). -/
def maxFlits (cls : Nat) : Nat := if cls = 0 then 2 else if cls = 1 then 5 else 64
/-- Bytes of a packet after its header. -/
def bodyBytes : Body → Nat
  | .mem _ (.store b _) _ _ | .mem _ (.relStore b) _ _ => 8 + b.length
  | .mem _ (.stores l) _ _ => 16 + (l.map fun e => e.2.length).sum
  | .mem _ (.loads l) _ _ => 8 + 4 * l.length
  | .reply _ _ _ (.data _ _) => 72
  | .task _ regs _ _ _ => 32 + 8 * regs.length
  | .handler _ _ words data _ => 16 + 4 * words.length + data.length
  | .channel _ _ _ _ _ _ _ => 72
  | .context _ c _ => 48 + 8 * c.regs.length
  | .mcw _ _ b _ _ => 8 + b.length
  | .group _ _ _ _ l => 8 + 4 * l.length
  | .launch _ => 80
  | _ => 32
/-- The flits of a packet: header and body, within the bounds of its class (R377); an error reply has one (R306). -/
def flitCount (b : Body) : Nat :=
  match b with
  | .reply _ _ _ (.err _ _ _) | .errorRecord _ _ _ _ _ _ => 1
  | _ => min (maxFlits (trafficClass b)) ((16 + bodyBytes b + 63) / 64)

/-- The packet header of R376. -/
def headerBytes (eseq kind len : Nat) (slot key shart src : Nat) (mc alias_ : Bool) (dst : Nat) : List Byte :=
  toBytes 16 (dst % 2 ^ 25 * 2 ^ 17 + (if alias_ then 2 ^ 42 else 0) + (if mc then 2 ^ 43 else 0) + src % 2 ^ 25 * 2 ^ 44
    + shart % 4 * 2 ^ 69 + key % 2 ^ 16 * 2 ^ 71 + slot % 2 ^ 10 * 2 ^ 87 + len % 2 ^ 7 * 2 ^ 97 + kind % 2 ^ 8 * 2 ^ 104
    + eseq % 2 ^ 16 * 2 ^ 112)
/-- The endpoint of a core: its identifier and the alias flag (R33). -/
def coreEp (s : State) (c : Nat) : Nat × Bool := if isWorker c then (epOf s c, false) else (epOf s ((c - 8192) * 16), true)
/-- The endpoint a 0x8 address names, and the alias flag (R34). -/
def addrEp (a : Nat) : Nat × Bool :=
  (a / 2 ^ 48 % 4096 * 2 ^ 13 + a / 2 ^ 45 % 8 * 2 ^ 10 + a / 2 ^ 39 % 64 * 2 ^ 4 + (if a / 2 ^ 34 % 32 = 16 then 0 else a / 2 ^ 34 % 16),
    a / 2 ^ 34 % 32 == 16)
/-- The sending endpoint of a packet. -/
def srcEp (s : State) (h : Nat) : Nat × Bool := coreEp s (if h < 65536 then coreOf h else 8192 + (h - 65536) % 512)
/-- The destination endpoint of a packet, and the alias flag; what is bound for no core goes to its cluster's. -/
def destEp (s : State) (p : Packet) : Nat × Bool :=
  let k := destPkg s p.body % 4096 * 2 ^ 13
  match p.body with
  | .mem a _ _ wh =>
    (match wh with
     | .at_ loc => if isPadLoc loc then coreEp s (coreOfLoc loc) else (k, true)
     | .new => if 2 ^ 63 ≤ a then addrEp a else (k, true))
  | .dec a _ _ _ => addrEp a
  | .reply _ _ _ _ => srcEp s p.hart
  | .deposit t _ => if t / 2 ^ 60 = 9 then coreEp s (coreOf p.hart) else if 2 ^ 63 ≤ t then addrEp t else (tgtEp t, false)
  | .handler t _ _ _ _ => (tgtEp t, false)
  | .channel ep _ _ _ _ _ _ => (ep, false)
  | .release q _ | .lost q _ _ => (k + q.die * 2 ^ 10 + q.clu * 2 ^ 4, true)
  | .accepted _ g _ | .unpin _ g | .task _ _ _ g _ | .ringNote _ g _ _ | .collect _ g | .done _ g _ | .beacon g _ _ _ | .group _ g _ _ _ =>
    (k + g % 512 * 16, true)
  | .errorRecord h _ _ _ _ _ => srcEp s h
  | .context c _ _ => coreEp s c
  | _ => (k, true)
/-- A packet's header: a multicast one names its group and version in place of an endpoint (R376, R393). -/
def headerOf (s : State) (eseq : Nat) (p : Packet) : List Byte :=
  let len := flitCount p.body
  let src := (srcEp s p.hart).1
  match p.body with
  | .mcw _ _ _ grp tag =>
    headerBytes eseq (wireKind p) len (p.slot.getD 0) p.key (hartIn p.hart) src true false (grp % 256 + tag % 256 * 256)
  | _ =>
    headerBytes eseq (wireKind p) len (p.slot.getD 0) p.key (hartIn p.hart) src false (destEp s p).2 (destEp s p).1
/-- The 64-byte payloads of a packet's flits: the header opens the first (R376). -/
def packetPayloads (s : State) (eseq : Nat) (p : Packet) : List (List Byte) :=
  (List.range (flitCount p.body)).map fun i =>
    if i = 0 then headerOf s eseq p ++ toBytes 48 (wirePiece p 0).toNat else toBytes 64 (wirePiece p i).toNat

/-! Neighbours (R12, R260, R400). -/

def rowOf (g : Nat) : Nat := g % 64 / 8
def colOf (g : Nat) : Nat := g % 8
def cluAt (die row col : Nat) : Nat := die * 64 + row * 8 + col
/-- The link of channel j of the horizontal bridge east of die d, and of the vertical bridge south of die d. -/
def horiz (d j : Nat) : Nat := (if d < 3 then d else d - 1) * 8 + j
def vert (d j : Nat) : Nat := (6 + d) * 8 + j
/-- A bridge peer of a cluster: the peer and the link. -/
def bridgePeers (g : Nat) : List (Nat × Nat) :=
  let d := dieOf g
  let r := rowOf g
  let c := colOf g
  (if c = 7 ∧ d % 4 < 3 then [(cluAt (d + 1) r 0, horiz d r)] else [])
    ++ (if c = 0 ∧ 0 < d % 4 then [(cluAt (d - 1) r 7, horiz (d - 1) r)] else [])
    ++ (if r = 7 ∧ d < 4 then [(cluAt (d + 4) 0 c, vert d c)] else [])
    ++ (if r = 0 ∧ 4 ≤ d then [(cluAt (d - 4) 7 c, vert (d - 4) c)] else [])
/-- Mesh neighbours in the order east, north, west, south. -/
def meshPeers (g : Nat) : List Nat :=
  (if colOf g < 7 then [g + 1] else []) ++ (if 0 < rowOf g then [g - 8] else [])
    ++ (if 0 < colOf g then [g - 1] else []) ++ (if rowOf g < 7 then [g + 8] else [])
/-- The fabric port at a cluster's router (R385). -/
def gatePort (g : Nat) : Option Nat := if g % 64 = 0 then some (2 * dieOf g) else if g % 64 = 63 then some (2 * dieOf g + 1) else none

def gap (a b : Nat) : Nat := (a - b) + (b - a)
/-- The live channel of a bridge nearest to position k; the lower of two (DEDUCED, log 25). -/
def nearest (live : Nat → Bool) (k : Nat) : Nat :=
  (((List.range 8).map fun i => ([k - i, k + i].filter fun j => decide (j < 8) && gap j k == i && live j)).flatten.head?).getD k

/-! Links. The two ends of a link are numbered apart: bridge channel c (bridge * 8 + channel, horizontal bridges 0 to 5
from the west, vertical ones 6 to 9) has the ends 2c on its western or northern die and 2c + 1; Spaust port k is 256 + k;
the link from router r in direction d (0 east, 1 north, 2 west, 3 south) on plane v has at r the end
1024 + (4 r + d) * 4 + v; and 16384 + r holds what finds no way on from router r (DESIGN CHOICE, log 65). -/

def linkOf (s : State) (l : Nat) : Link := SMap.get {} s.links l
def setLink (s : State) (l : Nat) (L : Link) : State := { s with links := SMap.put s.links l L }
/-- The end of Spaust port k. -/
def portLink (k : Nat) : Nat := 256 + k
def isSpaust (l : Nat) : Bool := decide (256 ≤ l ∧ l < 272)
def isBridge (l : Nat) : Bool := decide (l < 160)
def meshEnd (r d v : Nat) : Nat := 1024 + (4 * r + d) * 4 + v
def deadEnd (r : Nat) : Nat := 16384 + r
/-- The router of a fabric port (R385). -/
def portRouter (k : Nat) : Nat := k / 2 * 64 + (if k % 2 = 0 then 0 else 63)
/-- The router in a direction from a router of the same mesh. -/
def toward (r d : Nat) : Nat := match d with | 0 => r + 1 | 1 => r - 8 | 2 => r - 1 | _ => r + 8
/-- The router at which an end of a link stands (R12, R14, R385). -/
def routerOf (l : Nat) : Nat :=
  if l < 160 then
    let b := l / 16
    let j := l / 2 % 8
    if b < 6 then
      let d := if b < 3 then b else b + 1
      if l % 2 = 0 then cluAt d j 7 else cluAt (d + 1) j 0
    else if l % 2 = 0 then cluAt (b - 6) 7 j else cluAt (b - 2) 0 j
  else if l < 1024 then portRouter (l - 256)
  else if l < 16384 then (l - 1024) / 16 else l - 16384
/-- The other end of a link inside the package. -/
def otherEnd (l : Nat) : Nat :=
  if l < 160 then (if l % 2 = 0 then l + 1 else l - 1)
  else
    let d := (l - 1024) / 4 % 4
    meshEnd (toward (routerOf l) d) ((d + 2) % 4) ((l - 1024) % 4)
/-- A bridge channel carries traffic. -/
def bridgeUp (s : State) (c : Nat) : Bool := let L := linkOf s (2 * c); L.up && !L.isRetired
/-- Hops of the route of R15 from a router to another. -/
def hopsTo (s : State) : Nat → Nat → Nat → Nat → Nat → Nat
  | 0, _, _, _, _ => 0
  | n + 1, d, r, c, t =>
    let td := dieOf t
    if d = td then gap r (rowOf t) + gap c (colOf t)
    else if d % 4 ≠ td % 4 then
      let east := decide (d % 4 < td % 4)
      let edge := if east then 7 else 0
      let j := nearest (fun j => bridgeUp s (horiz (if east then d else d - 1) j)) r
      gap c edge + gap r j + 1 + hopsTo s n (if east then d + 1 else d - 1) j (7 - edge) t
    else
      let edge := if d < 4 then 7 else 0
      let j := nearest (fun j => bridgeUp s (vert (d % 4) j)) c
      gap r edge + gap c j + 1 + hopsTo s n (if d < 4 then d + 4 else d - 4) (7 - edge) j t

/-! Routes (R15). -/

/-- The direction in which a packet leaves a router for a row and column of its die: along its row first. -/
def stepTo (r row col : Nat) : Nat :=
  if colOf r < col then 0 else if col < colOf r then 2 else if row < rowOf r then 1 else 3
/-- The bridge from die d toward die t: the next die, whether it is horizontal, the edge row or column it leaves from,
its channels, and the side of its ends on die d. -/
def bridgeFrom (d t : Nat) : Nat × Bool × Nat × (Nat → Nat) × Nat :=
  if d % 4 < t % 4 then (d + 1, true, 7, horiz d, 0)
  else if t % 4 < d % 4 then (d - 1, true, 0, horiz (d - 1), 1)
  else if d < 4 then (d + 4, false, 7, vert d, 0)
  else (d - 4, false, 0, vert (d - 4), 1)
/-- The end of a link through which a packet of a plane leaves router r for router t: none where the next die has failed
or no channel of the bridge to it is left (R15, R384). -/
def nextPort (s : State) (r t plane : Nat) : Option Nat :=
  let d := dieOf r
  if d = dieOf t then some (meshEnd r (stepTo r (rowOf t) (colOf t)) plane)
  else
    let (n, across, edge, chan, side) := bridgeFrom d (dieOf t)
    let live (j : Nat) : Bool := !(linkOf s (2 * chan j)).isRetired
    if (s.die n).isFailed || !(List.range 8).any live then none
    else
      let j := nearest live (if across then rowOf r else colOf r)
      let (row, col) := if across then (j, edge) else (edge, j)
      if r = cluAt d row col then some (2 * chan j + side) else some (meshEnd r (stepTo r row col) plane)
/-- Some route of R15 leads from die d to die t. -/
def dieReached (s : State) : Nat → Nat → Nat → Bool
  | 0, _, _ => true
  | n + 1, d, t =>
    if d = t then true
    else match nextPort s (d * 64) (t * 64) 0 with
      | some _ => dieReached s n (bridgeFrom d t).1 t
      | none => false

/-- The station of a virtual address (R32). -/
def stationOf (a : Nat) : Nat := a / 4096 % 16
/-- The router beside a station (R14). -/
def stationRouter (d a : Nat) : Nat := let k := stationOf a; d * 64 + (if k < 8 then k else 56 + (k - 8))
/-- The router beside which a location's memory stands: its core's, its stack's edge, or the die of the CXL port in use
(R11; DESIGN CHOICE, log 65). -/
def locRouter (s : State) (loc : Nat) : Nat :=
  if isPadLoc loc then cluOf (coreOfLoc loc)
  else if isHbmLoc loc then
    let k := loc % 2 ^ 40 / 2 ^ 36
    k / 2 * 64 + (if k % 2 = 0 then 0 else 56)
  else if isHostLoc loc then (if SMap.get false s.pkg.cxlDown 0 then 256 else 0)
  else loc % 2 ^ 66 / 2 ^ 20
/-- The router from which an agent of the package sends. -/
def senderRouter (h : Nat) : Nat := if h < 65536 then cluOfHart h else (h - 65536) % 512
/-- The router of the port that die d's table names for a package (R385). -/
def gateRouter (s : State) (d k : Nat) : Option Nat := (SMap.find? (s.die d).routes k).map portRouter
/-- The die of a target word's core, and the die whose home answers the request of another package. -/
def targetDie (t : Nat) : Nat := dieOf (cluOf (epCore (tgtEp t)))
def answerDie (a : Nat) : Nat := if 2 ^ 63 ≤ a then a / 2 ^ 45 % 8 else targetDie a
/-- The router a packet is bound for; one that stands there already is at hand. -/
def destRouter (s : State) (p : Packet) (here : Nat) : Nat :=
  if leavesPkg s p.body then
    match p.body with
    | .task _ _ _ g _ => portRouter (g - 512)
    | b => (gateRouter s (senderDie p.hart) (destPkg s b)).getD here
  else
    match p.body with
    | .mem a _ _ wh => (match wh with | .at_ loc => locRouter s loc | .new => if a < 2 ^ 63 then stationRouter (senderDie p.hart) a else here)
    | .reply a _ _ _ => if isForeign p.hart then (gateRouter s (answerDie a) (foreignPkg p.hart)).getD here else senderRouter p.hart
    | .task _ _ _ g _ | .ringNote _ g _ _ | .collect _ g | .done _ g _ | .group _ g _ _ _ => g % 512
    | .beacon g _ _ _ => if g < 512 then g else here
    | .accepted _ g _ | .unpin _ g => g % 512
    | .dec a _ _ _ => cluOf (coreOfLoc (2 ^ 63 + a % 2 ^ 48))
    | .release k _ | .lost k _ _ => (k.die * 64 + k.clu) % 512
    | .launch l => l.tree % 512
    | .launchEnd n => n / 16 % 512
    | .deposit t _ =>
      if t / 2 ^ 60 = 9 then senderRouter p.hart else if 2 ^ 63 ≤ t then cluOf (coreOfLoc (2 ^ 63 + t % 2 ^ 48)) else cluOf (epCore (tgtEp t))
    | .handler t _ _ _ _ => cluOf (epCore (tgtEp t))
    | .channel ep _ _ _ _ _ _ => cluOf (epCore ep)
    | .errorRecord h _ _ _ t _ => if isForeign h then (gateRouter s (targetDie t) (foreignPkg h)).getD here else cluOfHart h
    | .context c _ _ => cluOf c
    | .mcw c _ _ _ _ => cluOf c

/-! Packets at routers. -/

/-- A packet waits at an output port, under an end-to-end number (R378, R388). -/
def queueOut (s : State) (l eseq : Nat) (p : Packet) : State :=
  let L := linkOf s l
  setLink s l
    { L with queue := L.queue ++ [{ id := p.id, cls := trafficClass p.body, vc := planeOf p.body, flits := packetPayloads s eseq p }] }
/-- A packet at router r: at hand where it is bound for, else it waits at the output port of its route (R15, R378). -/
def stand (s : State) (p : Packet) (r : Nat) : State :=
  let t := destRouter s p r
  if t = r then { s with paths := SMap.del s.paths p.id }
  else
    let l := (nextPort s r t (planeOf p.body)).getD (deadEnd r)
    queueOut { s with paths := SMap.put s.paths p.id l } l 0 p
/-- The router at which a packet is. -/
def standsAt (s : State) (p : Packet) : Nat :=
  match SMap.find? s.paths p.id with
  | some l => routerOf l
  | none => destRouter s p (senderRouter p.hart)

end Sys2Proof.Machine
end

