-- ==== Sys2Proof/Machine/Ops.lean ====
section
/-! DEFINITION. The named operations every meaning is built from: the outcome of a check, loads, stores
and poison at a location (R192 to R194), full-empty service (R198, R199), range locks (R241), packets
and their places (R211), retirement with the loop evaluation and the signature checker (R67, R69, R96),
taking a trap (R106) and returning from one (R107). -/

namespace Sys2Proof.Machine
open Sys2Proof

/-! Checks and outcomes. -/

/-- What an instruction's checks answer: go on, trap, or wait at issue. -/
inductive Pre
  | ok
  | trap (cause : Nat) (tval : Word) (fix : Fix := .none)
  | wait (w : Wait)
  deriving DecidableEq, Repr

namespace Pre
/-- The first check that does not pass decides (R88, R105). -/
def seq : Pre → Pre → Pre
  | .ok, q => q
  | p, _ => p
def all : List Pre → Pre
  | [] => .ok
  | p :: r => seq p (all r)
end Pre

/-- Pass under a condition, else trap. -/
def need (b : Bool) (cause : Nat) (tval : Word) : Pre := if b then .ok else .trap cause tval
/-- Pass under a condition, else wait at issue. -/
def ready (b : Bool) (w : Wait := .issue) : Pre := if b then .ok else .wait w

/-! Poison and full-empty bits. -/

namespace State
def gbits (s : State) (loc : Nat) : GBits := SMap.get {} s.gran (loc / 16)
def setGbits (s : State) (loc : Nat) (b : GBits) : State := { s with gran := SMap.set {} s.gran (loc / 16) b }
def setFe (s : State) (loc : Nat) (b : Bool) : State := s.setGbits loc { s.gbits loc with fe := b }
def setPoi (s : State) (loc : Nat) (b : Bool) : State := s.setGbits loc { s.gbits loc with poi := b }
def loadN (s : State) (loc n : Nat) : Nat := ofBytes (s.mem.readBytes loc n)
end State

/-- The locations of the granules that n bytes at loc touch, ascending. -/
def granules (loc n : Nat) : List Nat :=
  if n = 0 then [] else (List.range ((loc + n - 1) / 16 - loc / 16 + 1)).map fun i => (loc / 16 + i) * 16

/-- The first byte of the access in its lowest poisoned granule (R194). -/
def poisonedAt (s : State) (loc n : Nat) : Option Nat :=
  ((granules loc n).find? fun g => (s.gbits g).poi).map fun g => max g loc

/-- The poison of a scratchpad granule after a write of the bytes lo .. hi-1 (R193). -/
def poisonPad (s : State) (lo hi : Nat) (p : Bool) (g : Nat) : State :=
  if lo ≤ g ∧ g + 16 ≤ hi then s.setPoi g p else s.setPoi g ((s.gbits g).poi || p)

/-- The poison of an HBM or host line after a write of the bytes lo .. hi-1 (R192, R193). -/
def poisonLine (s : State) (lo hi : Nat) (p : Bool) (l : Nat) : State :=
  let old := [l, l + 16, l + 32, l + 48].any fun g => (s.gbits g).poi
  let new := if lo ≤ l ∧ l + 64 ≤ hi then p else old || p
  [l, l + 16, l + 32, l + 48].foldl (fun s g => s.setPoi g new) s

/-- Poison after a write of n bytes at loc (R193). -/
def poisonWrite (s : State) (loc n : Nat) (p : Bool) : State :=
  if n = 0 then s
  else if isHbmLoc loc || isHostLoc loc then
    ((List.range ((loc + n - 1) / 64 - loc / 64 + 1)).map fun i => (loc / 64 + i) * 64).foldl
      (fun s l => poisonLine s loc (loc + n) p l) s
  else (granules loc n).foldl (fun s g => poisonPad s loc (loc + n) p g) s

/-- A write ends the reservations that other agents' writes end: every hart's but the writer's (R91). -/
def loseResv (s : State) (wr : Option Nat) (loc n : Nat) : State :=
  if isPadLoc loc then
    (hartsOf (coreOfLoc loc)).foldl (fun s h =>
      if wr = some h then s
      else match (s.hart h).resv with
        | some g => if (granules loc n).contains (g * 16) then s.modHart h fun H => { H with resv := none } else s
        | none => s) s
  else s

/-- A write to a code word clears its executable attribute and shows to a scan of its range (R27, R30,
R72, R74). -/
def dirtyCode (s : State) (loc n : Nat) : State :=
  match codeIndex loc with
  | none => s
  | some i =>
    let words := (List.range ((loc % 4 + n + 3) / 4)).map fun k => i + k
    s.modCore (coreOfLoc loc) fun C =>
      { C with
        exec := words.foldl (fun m k => SMap.del m k) C.exec
        commits := C.commits.map fun q =>
          if q.started then
            match words.find? fun k => decide (q.first ≤ k ∧ k < q.first + q.count) with
            | some k => { q with dirty := some (match q.dirty with | some d => min d k | none => k) }
            | none => q
          else q }

/-! Stored errors of scratchpads and private memories (R30, R183, R188 to R191). `Core.flaws` numbers data rows by
their granule, parity rows from 8192 and the copies of full-empty and poison bits from 16384. -/

def groupOf (g : Nat) : Nat := g % 256 / 8
/-- The parity row of a granule. -/
def parityRow (g : Nat) : Nat := 8192 + groupOf g * 32 + g / 256
/-- A group is degraded when a bank of it is retired (R189). -/
def degraded (C : Core) (G : Nat) : Bool := C.banks.any fun b => b == 256 + G || (b < 256 && b / 8 == G)
def bankRetired (C : Core) (g : Nat) : Bool := C.banks.contains (g % 256)
/-- The parity bank of a granule's group is retired. -/
def parityGone (C : Core) (g : Nat) : Bool := C.banks.contains (256 + groupOf g)
/-- A row that holds an uncorrectable error, or a correctable one. -/
def badRow (C : Core) (r : Nat) : Bool := SMap.find? C.flaws r == some true
def softRow (C : Core) (r : Nat) : Bool := SMap.find? C.flaws r == some false
/-- The other seven granules of a granule's parity row. -/
def siblings (g : Nat) : List Nat :=
  ((List.range 8).map fun k => g / 256 * 256 + groupOf g * 8 + k).filter fun j => j != g
/-- The copies of a granule's full-empty and poison bits, three each (R183). -/
def tripleKeys (g : Nat) : List Nat := (List.range 6).map fun k => 16384 + 6 * g + k
/-- The bank and row a stored error is reported with (R188): parity bank P_G is bank 256 + G. -/
def flawPlace (k : Nat) : Nat × Nat :=
  if k < 8192 then (k % 256, k / 256)
  else if k < 16384 then (256 + (k - 8192) / 32, (k - 8192) % 32)
  else ((k - 16384) / 6 % 256, (k - 16384) / 6 / 256)

/-- What an access does to one stored error: corrected and counted, reported, overwritten; or a granule is poisoned. -/
inductive RowFix
  | corrected (k : Nat)
  | reported (k : Nat)
  | gone (k : Nat)
  | poisoned (g : Nat)
  deriving DecidableEq, Repr

/-- One corrected error, counted and reported (R188). -/
def countCE (s : State) (c k : Nat) : State :=
  (s.modCore c fun C => { C with ce := min 255 (C.ce + 1), flaws := SMap.del C.flaws k }).modCluster (cluOf c)
    fun G => { G with reports := (c, flawPlace k) :: G.reports }
/-- An error is reported to the cluster's Mordant core (R188). -/
def report (s : State) (c k : Nat) : State := s.modCluster (cluOf c) fun G => { G with reports := (c, flawPlace k) :: G.reports }
def rowFix (s : State) (c : Nat) : RowFix → State
  | .corrected k => countCE s c k
  | .reported k => report s c k
  | .gone k => s.modCore c fun C => { C with flaws := SMap.del C.flaws k }
  | .poisoned g => s.setPoi (padBase c + g * 16) true

/-- The correctable errors among rows that are read. -/
def softFixes (C : Core) (l : List Nat) : List RowFix := (l.filter (softRow C)).map .corrected
/-- The uncorrectable errors among rows that are read are reported. -/
def badFixes (C : Core) (l : List Nat) : List RowFix := (l.filter (badRow C)).map .reported
/-- The rows a reconstruction of granule g reads. -/
def sources (g : Nat) : List Nat := siblings g ++ [parityRow g]
/-- A reconstruction of granule g cannot be had. -/
def noRebuild (C : Core) (g : Nat) : Bool :=
  (sources g).any (badRow C) || parityGone C g || (siblings g).any (bankRetired C)
/-- The retired data bank's granule in the row of g, if the group has one. -/
def retiredSibling (C : Core) (g : Nat) : Option Nat := (siblings g).find? (bankRetired C)

/-- The W2 read, or another read, of the parity row of g (R190): `live` are the data rows an XOR is taken over. -/
def parityFixes (C : Core) (g : Nat) : List RowFix :=
  let r := parityRow g
  softFixes C [r] ++
    if badRow C r then
      match retiredSibling C g with
      | some b => [.reported r, .gone r, .poisoned b]
      | none => [.reported r, .gone r] ++ softFixes C (siblings g)
          ++ ((siblings g).filter (badRow C)).flatMap fun j => [.reported j, .gone j, .poisoned j]
    else []
/-- Reading granule g of a worker core (R188, R190). -/
def readFixes (C : Core) (g : Nat) : List RowFix :=
  softFixes C (tripleKeys g) ++
    if bankRetired C g then
      softFixes C (sources g) ++ badFixes C (sources g) ++ (if badRow C (parityRow g) then [.gone (parityRow g)] else [])
        ++ (if (sources g).any (badRow C) then [.poisoned g] else [])
    else softFixes C [g] ++
      if badRow C g then
        [.reported g, .gone g] ++ softFixes C (sources g) ++ badFixes C (sources g) ++ (if noRebuild C g then [.poisoned g] else [])
      else []
/-- Writing granule g of a worker core, wholly or partly (R188 to R190). -/
def writeFixes (C : Core) (g : Nat) (whole : Bool) : List RowFix :=
  softFixes C (tripleKeys g) ++
    if bankRetired C g then
      softFixes C (siblings g) ++ badFixes C (siblings g)
        ++ (if whole then [] else softFixes C [parityRow g] ++ badFixes C [parityRow g]
              ++ (if (sources g).any (badRow C) then [.poisoned g] else []))
        ++ [.gone (parityRow g)]
    else
      softFixes C [g] ++ (if badRow C g then [.reported g, .gone g] ++ (if whole then [] else [.poisoned g]) else [])
        ++ (if parityGone C g then [] else parityFixes C g)
/-- Reading or writing granule g of a Mordant core's private memory (R30; DEDUCED, log 64). -/
def mordantFixes (C : Core) (g : Nat) (spoils : Bool) : List RowFix :=
  softFixes C [g] ++ (if badRow C g then [.reported g, .gone g] ++ (if spoils then [.poisoned g] else []) else [])

/-- What an access to granule g of core c does to its stored errors. -/
def scrubGranule (s : State) (c g : Nat) (write whole : Bool) : State :=
  let C := s.core c
  (if C.flaws.isEmpty then []
   else if isWorker c then (if write then writeFixes C g whole else readFixes C g)
   else mordantFixes C g (!(write && whole))).foldl (fun s f => rowFix s c f) s

/-- What an access of n bytes at loc does to the stored errors of the granules it touches. -/
def scrub (s : State) (loc n : Nat) (write : Bool) : State :=
  if isPadLoc loc && !isWindowLoc loc then
    (granules loc n).foldl (fun s g =>
      scrubGranule s (coreOfLoc loc) (g % 2 ^ 17 / 16) write (decide (loc ≤ g ∧ g + 16 ≤ loc + n))) s
  else s

/-- A write of bytes at a location by a hart, or by another agent (none). -/
def store (s : State) (wr : Option Nat) (loc : Nat) (bytes : List Byte) (poison : Bool) : State :=
  let n := bytes.length
  let s := scrub s loc n true
  let s := { s with mem := s.mem.writeBytes loc bytes }
  dirtyCode (loseResv (poisonWrite s loc n poison) wr loc n) loc n

/-- A read of n bytes at a location: the state after its error handling, the number, and the first
poisoned byte. -/
def load (s : State) (loc n : Nat) : State × Nat × Option Nat :=
  let s := scrub s loc n false
  (s, s.loadN loc n, poisonedAt s loc n)

/-! AMO arithmetic (R39, R52, R233). -/

/-- ADD 0, SWAP 1, AND 2, OR 3, XOR 4, MIN 5, MAX 6, MINU 7, MAXU 8, CAS 9 on n bytes. -/
def amoNew (op n : Nat) (old v : Nat) : Nat :=
  let w := 8 * n
  let v := v % 2 ^ w
  match op with
  | 0 => (old + v) % 2 ^ w
  | 2 => Nat.land old v
  | 3 => Nat.lor old v
  | 4 => Nat.xor old v
  | 5 => if toSigned w v < toSigned w old then v else old
  | 6 => if toSigned w old < toSigned w v then v else old
  | 7 => min old v
  | 8 => max old v
  | _ => v

/-- One indivisible AMO (R221): the old value, or the poison that keeps it from writing. -/
def amoAt (s : State) (wr : Option Nat) (loc op n : Nat) (v : Word) (cmp : Option Word) : State × Reply :=
  let (s, old, p) := load s loc n
  match p with
  | some a => (s, .data 0 (some (0, a - loc)))
  | none =>
    let go := match cmp with | some c => decide (c.toNat % 2 ^ (8 * n) = old) | none => true
    (if go then store s wr loc (toBytes n (amoNew op n old v.toNat)) false else s, .data (BitVec.ofNat 512 old) none)

/-! Fixed-point cells (R235 to R238). -/

/-- An addend in units of 2^-60, floored: its value and whether bits were lost. -/
def cellUnits (neg : Bool) (m : Nat) (e : Int) : Int × Bool :=
  let k := e + 60
  if 0 ≤ k then (sgn neg (m * 2 ^ k.toNat), false)
  else (sgn neg m / (2 ^ (-k).toNat : Int), m % 2 ^ (-k).toNat != 0)

/-- The cell after one addend (R238). -/
def cellAdd (c : Nat) (v : W32) : Nat :=
  match f32F.dec v.toNat with
  | .nan => Nat.lor c (2 ^ 127)
  | .inf _ => Nat.lor c (2 ^ 126)
  | .fin s m e =>
    if m != 0 && 59 ≤ topExp m e then Nat.lor c (2 ^ 126)
    else
      let (n, t) := cellUnits s m e
      let c := if t then Nat.lor c (2 ^ 125) else c
      let sum := ofSigned 124 (((c % 2 ^ 124 : Nat) : Int) + n)
      c / 2 ^ 124 * 2 ^ 124 + sum

/-- A cell is in range (R235). -/
def cellInRange (c : Nat) : Bool :=
  c / 2 ^ 126 % 2 == 0 && c / 2 ^ 120 % 16 == (if c / 2 ^ 119 % 2 == 1 then 15 else 0)

/-- The f32 value of a cell without NaN and in range (R238). -/
def cellF32 (c : Nat) : Nat :=
  let v := toSigned 120 (c % 2 ^ 120)
  rne f32F (.fin (decide (v < 0)) v.natAbs (-60))

/-- The poison of the cell, and of an HBM line that holds it, goes (R192, R238). -/
def clearPoison (s : State) (loc : Nat) : State :=
  if isPadLoc loc then s.setPoi loc false
  else ([0, 16, 32, 48] : List Nat).foldl (fun s k => s.setPoi (loc / 64 * 64 + k) false) s
/-- A cell operation at its home (R238). -/
def cellAt (s : State) (wr : Option Nat) (loc : Nat) (op : MemOp) : State × Reply :=
  match op with
  | .fxAdd v =>
    let (s, c, p) := load s loc 16
    if p.isSome then (s, .ack) else (store s wr loc (toBytes 16 (cellAdd c v)) false, .ack)
  | .fxClear => (clearPoison (store s wr loc (toBytes 16 0) false) loc, .ack)
  | _ =>
    let (s, c, p) := load s loc 16
    (s, .data (BitVec.ofNat 512 c) (p.map fun a => (0, a - loc)))

/-! Full-empty requests (R198, R199). -/

/-- The waiters on a granule at its core. -/
def feWaiters (C : Core) (loc : Nat) : Nat :=
  (C.feWait.filter fun p =>
    match p.body with
    | .mem _ _ _ (.at_ l) => l / 16 == loc / 16
    | .mem a _ _ .new => a / 16 == loc / 16
    | _ => false).length

/-- One indivisible full-empty operation at its home, or none while its condition does not hold. -/
def feAt (s : State) (wr : Option Nat) (loc : Nat) (op : MemOp) : Option (State × Reply) :=
  match op with
  | .feLoad clr =>
    if !(s.gbits loc).fe then none
    else
      let (s, v, p) := load s loc 8
      match p with
      | some a => some (s, .data 0 (some (0, a - loc)))
      | none => some (if clr then loseResv (s.setFe loc false) wr loc 8 else s, .data (BitVec.ofNat 512 v) none)
  | .feStore v =>
    if (s.gbits loc).fe then none
    else some ((store s wr loc (toBytes 8 v.toNat) false).setFe loc true, .ack)
  | .feSet b => some (loseResv (s.setFe loc b) wr (loc / 16 * 16) 16, .ack)
  | .feQuery =>
    let b := s.gbits loc
    let s' := scrub s (loc / 16 * 16) 16 false
    some (s', .data (BitVec.ofNat 512 ((if b.fe then 1 else 0) + 2 * (if b.poi then 1 else 0)
      + 256 * feWaiters (s.core (coreOfLoc loc)) loc)) none)
  | _ => none

/-! Packets. -/

/-- The images a hart has appended to destination streams and not stored (R124). -/
def imagesNow (H : Hart) : List (Nat × Nat) :=
  H.streams.filterMap fun (r, t) => match t.kind with | .dst _ => if t.out.isEmpty then none else some (r, t.pos) | _ => none
/-- A new packet enters the network at router r. -/
def sendFrom (s : State) (r : Nat) (p : Packet) : State :=
  stand { s with net := s.net ++ [{ p with id := s.nextId }], nextId := s.nextId + 1 } { p with id := s.nextId } r
/-- Send a packet of a hart under its process slot and job key (R35), with its core's fe_limit (R199). -/
def send (s : State) (h : Nat) (b : Body) : State :=
  sendFrom s (senderRouter h)
    { id := 0, hart := h, slot := slotOf (s.hart h), key := keyOf (s.hart h), body := b, limit := (s.core (coreOf h)).feLimit
      imgs := imagesNow (s.hart h) }
/-- Send a packet of the device itself, under key 0, or of a launch under its slot and key. -/
def sendAs (s : State) (h : Nat) (slot : Option Nat) (key : Nat) (b : Body) : State :=
  sendFrom s (senderRouter h) { id := 0, hart := h, slot := slot, key := key, body := b, imgs := imagesNow (s.hart h) }
def findPkt (s : State) (p : Nat) : Option Packet := s.net.find? fun q => q.id == p
/-- A packet that is at hand where it is bound for (R15). -/
def atHand (s : State) (p : Nat) : Option Packet := if (SMap.find? s.paths p).isSome then none else findPkt s p
def dropPkt (s : State) (p : Nat) : State :=
  { s with net := s.net.filter fun q => q.id != p, paths := SMap.del s.paths p }
/-- Replace a packet in flight: it goes on from the router at which it is. -/
def putPkt (s : State) (q : Packet) : State :=
  match findPkt s q.id with
  | some p => stand { s with net := s.net.map fun r => if r.id == q.id then q else r } q (standsAt s p)
  | none => s
def setBody (s : State) (p : Nat) (b : Body) : State :=
  match findPkt s p with
  | some q => putPkt s { q with body := b }
  | none => s
/-- Put a packet that had left the network back into it at router r. -/
def putBackAt (s : State) (p : Packet) (r : Nat) : State := stand { s with net := s.net ++ [p] } p r

/-- Packets that hold one of their core's 48 places (R211, R290). -/
def holdsPlace : Body → Bool
  | .mem _ _ _ _ | .reply _ _ _ _ | .deposit _ _ | .handler _ _ _ _ _ | .channel _ _ _ _ _ _ _ | .context _ _ _ => true
  | _ => false
def ofCore (c : Nat) (p : Packet) : Bool := coreOf p.hart == c && holdsPlace p.body
/-- Requests to other packages that wait for their answers. -/
def awayOpen (s : State) : List Packet :=
  (s.pkg.ports.map fun (_, P) => (P.peers.map fun (_, q) => q.opens).flatten).flatten
/-- The multicast packets of a core that some member has not acknowledged: one place each (R396). -/
def mcwTags (s : State) (c : Nat) : List Nat :=
  (s.net.filterMap fun p => if coreOf p.hart = c then (match p.body with | .mcw _ _ _ _ tag => some tag | _ => none) else none).eraseDups
/-- Places of a core that are taken: in flight, parked, waiting at another core's full-empty list, held
deposits. -/
def placesUsed (s : State) (c : Nat) : Nat :=
  (s.net.filter (ofCore c)).length + (mcwTags s c).length + ((awayOpen s).filter (ofCore c)).length
  + (s.dies.map fun (_, D) => (D.parked.filter fun (_, p) => ofCore c p).length).sum
  + (s.cores.map fun (d, C) => (if d = c then 0 else (C.feWait.filter (ofCore c)).length) + (C.deposits.filter (ofCore c)).length).sum
/-- A place is free for k more requests (R211). -/
def placesFor (s : State) (h k : Nat) : Bool := placesUsed s (coreOf h) + min k 48 ≤ 48

/-! Scopes of accesses (R215) and what is not yet performed (R214). -/

/-- The narrowest scope of a hart that holds a location. -/
def scopeOfCore (h c : Nat) : Nat :=
  if c = coreOf h then 0 else if cluOf c = cluOfHart h then 1 else if dieOf (cluOf c) = dieOfHart h then 2 else 3
def scopeOfLoc (h loc : Nat) : Nat :=
  if isPadLoc loc then scopeOfCore h (coreOfLoc loc) else if isHostLoc loc then 4 else 3
/-- The scope of a message's target word (R288, R289). -/
def scopeOfTarget (s : State) (h t : Nat) : Nat :=
  if t / 2 ^ 60 = 9 then 0
  else if t / 2 ^ 60 = 8 then (if t / 2 ^ 48 % 4096 = s.pkg.number then scopeOfLoc h t else 4)
  else if epPkg (tgtEp t) = s.pkg.number then scopeOfCore h (epCore (tgtEp t)) else 4
/-- The scope of a packet's target. -/
def scopeOfBody (s : State) (h : Nat) : Body → Nat
  | .mem a _ _ wh =>
    match wh with
    | .at_ loc => scopeOfLoc h loc
    | .new => if a < 2 ^ 63 then 3 else if a / 2 ^ 48 % 4096 = s.pkg.number then scopeOfLoc h a else 4
  | .reply a host sink _ =>
    (match sink with
     | .posted true | .chan _ => scopeOfTarget s h a
     | _ => if a < 2 ^ 63 then (if host then 4 else 3) else scopeOfTarget s h a)
  | .deposit t _ | .handler t _ _ _ _ => scopeOfTarget s h t
  | .channel ep _ _ _ _ _ _ => scopeOfTarget s h (ep * 128)
  | .mcw c _ _ _ _ => scopeOfCore h c
  | _ => 3
/-- A memory operation that only reads. -/
def readsOnly : MemOp → Bool
  | .load _ | .loads _ | .feQuery | .fxRead => true
  | .feLoad clr => !clr
  | _ => false
/-- A memory operation that reads its location (R214). -/
def readsLoc : MemOp → Bool
  | .load _ | .loads _ | .amo _ _ _ _ | .feLoad _ | .feStore _ | .feQuery | .fxAdd _ | .fxRead | .joinAdd _ | .joinArm _ _ => true
  | _ => false
/-- An access of a hart that is not yet performed within scope k; `reads` counts reads only (R214,
R224). A write is performed once acknowledged, a read once its home has fixed it. -/
def pendingAccess (s : State) (h k : Nat) (reads : Bool) (p : Packet) : Bool :=
  p.hart == h && decide (scopeOfBody s h p.body ≤ k) &&
    match p.body with
    | .mem _ _ (.unit _) _ | .reply _ _ (.unit _) _ => false
    | .mem _ op _ _ => !reads || readsLoc op
    | .reply _ _ (.posted _) _ | .reply _ _ (.chan _) _ | .reply _ _ (.stream _ _) _ => !reads
    | .reply _ _ _ (.err _ _ _) => true
    | .deposit _ _ | .handler _ _ _ _ _ | .channel _ _ _ _ _ _ _ | .mcw _ _ _ _ _ => !reads
    | _ => false
/-- Some access of the hart within scope k is not yet performed. -/
def outstanding (s : State) (h k : Nat) (reads : Bool) : Bool :=
  s.net.any (pendingAccess s h k reads)
  || s.dies.any (fun (_, D) => D.parked.any fun (_, p) => pendingAccess s h k reads p)
  || (awayOpen s).any (pendingAccess s h k reads)
  || s.cores.any (fun (_, C) => C.feWait.any (pendingAccess s h k reads) || C.deposits.any (pendingAccess s h k reads))
  || (!reads && (s.hart h).streams.any fun (_, t) =>
        match t.kind with
        | .dst _ => !t.out.isEmpty
        | _ => false)

/-! Range locks (R240 to R242). -/

/-- Intervals are compared in one form (`canonAddr`), virtual ones under one process slot. -/
def lockHit (C : Core) (slot : Option Nat) (a n : Nat) (write : Bool) : Bool :=
  C.locks.any fun (_, l) =>
    (l.dst || write) && decide (l.lo < a + n ∧ a ≤ l.hi) && (decide (2 ^ 63 ≤ a) || l.slot == slot)
def freeLocks (C : Core) : List Nat := (List.range 32).filter fun n => (SMap.find? C.locks n).isNone
/-- Register intervals in order, each in the lowest free entry: the core and the entries (R240). -/
def addLocks (C : Core) (ls : List Lock) : Core × List Nat :=
  let ns := (freeLocks C).take ls.length
  ({ C with locks := (ns.zip ls).foldl (fun m (n, l) => SMap.put m n l) C.locks }, ns)
def dropLocks (C : Core) (ns : List Nat) : Core := { C with locks := ns.foldl (fun m n => SMap.del m n) C.locks }

/-! The signature checker (R67 to R69). -/

/-- One bit of the CRC-12 (R67). -/
def crcBit (crc : Nat) (b : Nat) : Nat :=
  let c := crc * 2 % 4096
  if (crc / 2048 + b) % 2 = 1 then Nat.xor c 0x80F else c
/-- The 15 bits of a tuple, most significant first. -/
def crcBits : Nat → Nat → Nat → Nat
  | 0, _, crc => crc
  | k + 1, t, crc => crcBits k t (crcBit crc (t / 2 ^ k % 2))
def crcStep (crc : BitVec 12) (t : Nat) : BitVec 12 := BitVec.ofNat 12 (crcBits 15 t crc.toNat)

/-- The checker after a word of a signed object retires (R69). -/
def crcOfWord (run : BitVec 12) (w : W32) : BitVec 12 :=
  match opOf w with
  | .ok op => if op == .sig then run else crcStep run (crcTuple op w.toNat)
  | .error _ => run
def lastOfWord (w : W32) : Nat :=
  match opOf w with
  | .ok op => endKindOf op
  | .error _ => 0

/-- mtval of SIG_MISMATCH (R70). -/
def sigTval (k : Checker) (run : BitVec 12) (last : BitVec 3) : Word :=
  word (run.toNat + k.exp.toNat * 2 ^ 12 + last.toNat * 2 ^ 24 + k.endk.toNat * 2 ^ 27)

/-! mnstatus bits. -/
def leBit (C : Csrs) : Bool := bit C.mnstatus 4
def sckBit (C : Csrs) : Bool := bit C.mnstatus 1
def sigBit (C : Csrs) : Bool := bit C.mnstatus 2

/-- The checker state packed for mxsave and sxsave (R71; DEDUCED, log 52). -/
def packSave (H : Hart) : Word :=
  word ((if H.pfx then 2 ^ 63 else 0) + H.payload.toNat * 2 ^ 33 + (if H.chk.act then 2 ^ 32 else 0)
    + H.chk.endk.toNat * 2 ^ 29 + H.chk.last.toNat * 2 ^ 24 + H.chk.exp.toNat * 2 ^ 12 + H.chk.run.toNat)
def unpackChk (w : Word) : Checker :=
  { act := bit w 32, endk := BitVec.ofNat 3 (bits w 29 3), last := BitVec.ofNat 3 (bits w 24 3),
    exp := BitVec.ofNat 12 (bits w 12 12), run := BitVec.ofNat 12 (bits w 0 12) }

/-! Retirement. -/

/-- One level of R96: the count after the evaluation, and the redirection. -/
def loopLevel (l : LoopLevel) (a : Word) : LoopLevel × Option Word × Bool :=
  if l.count ≠ 0 ∧ a = l.stop then
    if l.count = 1 then ({ l with count := 0 }, none, true) else ({ l with count := l.count - 1 }, some l.start, true)
  else (l, none, false)

/-- The loop evaluation for the word at a (R96): registers, redirection, whether a level met its end. -/
def loopEval (C : Csrs) (a : Word) : Csrs × Option Word × Bool :=
  if !leBit C then (C, none, false)
  else
    match loopLevel C.loop0 a with
    | (l0, some t, e) => ({ C with loop0 := l0 }, some t, e)
    | (l0, none, e0) =>
      match loopLevel C.loop1 a with
      | (l1, t, e1) => ({ C with loop0 := l0, loop1 := l1 }, t, e0 || e1)

/-- The number of a register among all registers of a hart. -/
def regNo (q : RFile) (n : Nat) : Nat := (match q with | .x => 0 | .f => 32 | .v => 64 | .m => 96) + n
/-- The 32-bit words of the registers a word writes: a masked load writes those of its active lanes (R102, R111, R128). -/
def wordsWritten (H : Hart) (op : Op) (w : Nat) (k : Nat) : Bool :=
  let u := usesOf op w (if H.pfx then payloadOf H.payload else none)
  u.writes.any (fun (q, n) => regNo q n == k / 16) &&
    (match op with
     | .vld | .vlds =>
       let n := 4 / 2 ^ fld w 12 3
       fld w 25 3 == 0 || (List.range n).all fun i => bit (H.getM (fld w 25 3)) (k % 16 * n + i)
     | _ => true)
/-- The stored errors that are left when the word in execution retires: what it writes is written anew (R102). -/
def flawsLeft (H : Hart) : SMap Bool :=
  match H.flaws, opOf H.ir with
  | [], _ => []
  | l, .ok op => l.filter fun e => !wordsWritten H op H.ir.toNat e.1
  | l, .error _ => l

/-- What every retirement does to a hart besides its pc (R64, R69, R102, R302). -/
def retireCommon (H : Hart) (loopEnd counts : Bool) : Hart :=
  { H with
    pfx := false
    held := none
    fetched := []
    lanes := []
    stalled := none
    ending := false
    fw := false
    dropped := if H.mode == .U && H.handler.isNone then [] else H.dropped
    fromSigned := H.irSigned
    ranSince := H.ranSince || (H.handler.isNone && H.mode == .U && H.task.isSome)
    flaws := flawsLeft H
    chk := { H.chk with
      run := if H.irSigned && H.chk.act && counts then crcOfWord H.chk.run H.ir else H.chk.run
      last := if loopEnd then 5 else BitVec.ofNat 3 (lastOfWord H.ir) } }

/-- The words of a VLOOP and its body are counted once each when execution passes beyond the body (R147): a body word as
the sequencer queue holds it, if it does. -/
def vloopCrc (s : State) (c : Nat) (H : Hart) (pc : Word) (n : Nat) (queue : List W32) : BitVec 12 :=
  if H.irSigned && H.chk.act then
    ((List.range (n + 1)).map fun i =>
      if 0 < i ∧ i ≤ queue.length then queue.getD (i - 1) 0 else w32 (s.loadN (codeLoc c (pc.toNat / 4 + i)) 4)).foldl crcOfWord H.chk.run
  else H.chk.run
/-- The hart stands in a body that a trap has broken off (R147). -/
def inBroken (H : Hart) (b : Word × Nat) : Bool :=
  decide (b.1.toNat < H.pc.toNat ∧ H.pc.toNat ≤ b.1.toNat + 4 * b.2)

/-- S, cvamax and cvflags after conversions land, oldest first (R164). -/
def landCv (l : List CvPend) (H : Hart) : Hart :=
  l.foldl (fun H p =>
    { H with
      lfsr := p.lfsr.getD H.lfsr
      csr := { H.csr with
        cvamax := (match p.amax with | some a => if H.csr.cvamax.ult a then a else H.csr.cvamax | none => H.csr.cvamax)
        cvflags := H.csr.cvflags ||| p.flags } }) H

/-- Conversions of a hart that retire by cycle t have retired (R164). -/
def landDue (t : Nat) (H : Hart) : Hart :=
  landCv (H.cvPend.filter fun p => decide (p.due ≤ t)) { H with cvPend := H.cvPend.filter fun p => decide (t < p.due) }
/-- The clock of core c stands at cycle t at least, and its harts' conversions due by then have retired (R20, R164). -/
def advance (s : State) (c t : Nat) : State :=
  let t := max (s.core c).cycle t
  let s := s.modCore c fun C => { C with cycle := t }
  (hartsOf c).foldl (fun s h => if (s.hart h).cvPend.isEmpty then s else s.modHart h (landDue t)) s
/-- A cycle of core c passes while an access from outside waits for its conversions in flight (R164; DESIGN CHOICE, log 6). -/
def passTime (s : State) (c : Nat) : State :=
  if (hartsOf c).all fun h => (s.hart h).cvPend.isEmpty then s else advance s c ((s.core c).cycle + 1)

/-- A stored error of a register word is repaired and counted (R102). -/
def repairReg (H : Hart) (k : Nat) : Hart :=
  { H with
    flaws := SMap.del H.flaws k
    csr := { H.csr with
      mnstatus := (H.csr.mnstatus &&& ~~~0xFF00#64) ||| word (min 255 (bits H.csr.mnstatus 8 8 + 1) * 256) } }
/-- Several errors, repaired at once. -/
def repairRegs (H : Hart) (l : List Nat) : Hart := l.foldl repairReg H
/-- The stored errors of the loop CSRs and of mnstatus, which every instruction and trap entry read (R102; DEDUCED, log 55). -/
def ownFlaws (H : Hart) : SMap Bool := H.flaws.filter fun e => decide (2048 ≤ e.1)

/-- A value from outside lands in x register r: what was stored there, its errors with it, is gone (R102, R295). -/
def landX (H : Hart) (r : Nat) (v : Word) : Hart := { H.setX r v with flaws := H.flaws.filter fun e => e.1 / 16 != regNo .x r }

/-- The hart after the loop evaluation `r` of its word (R96): the counts, the next word, how it is reached. -/
def follow (H : Hart) (r : Csrs × Option Word × Bool) (counts : Bool) : Hart :=
  { retireCommon H r.2.2 counts with
    csr := r.1
    pc := r.2.1.getD (H.pc + 4)
    arrival := if r.2.1.isSome then .back else .seq }

/-- A word of a VLOOP body that is not its last (R145): the loop levels are evaluated in the last pass only (DEDUCED, log 17). -/
def bodyWord (H : Hart) (v : VLoop) : Hart :=
  let r := if H.getX v.reg = 1 then loopEval H.csr H.pc else (H.csr, none, false)
  { follow H r false with vloop := if r.2.1.isSome then none else some { v with at_ := v.at_ + 1 } }

/-- The last word of a VLOOP body, with passes to come: the count falls and the body starts again (R145; DEDUCED, log 17). -/
def bodyAgain (H : Hart) (v : VLoop) : Hart :=
  { (retireCommon H false false).setX v.reg (H.getX v.reg - 1) with
    pc := v.pc + 4, arrival := .seq, vloop := some { v with at_ := 0 } }

/-- The last word of a VLOOP body in its last pass; `run` is the CRC beyond the body (R145, R147). -/
def bodyEnd (H : Hart) (v : VLoop) (run : BitVec 12) : Hart :=
  let T := (follow H (loopEval H.csr H.pc) false).setX v.reg (H.getX v.reg - 1)
  { T with vloop := none, chk := { T.chk with run := run } }

/-- A word of a broken body: it is not counted at its retirement; with the last one all are (R147). -/
def brokenWord (H : Hart) (b : Word × Nat) (run : BitVec 12) : Hart :=
  let T := follow H (loopEval H.csr H.pc) false
  if H.pc.toNat = b.1.toNat + 4 * b.2 then { T with broken := none, chk := { T.chk with run := run } } else T

/-- The hart after the word at pc retires in sequence (R96, R145). -/
def retiredHart (s : State) (h : Nat) : Hart :=
  let H := s.hart h
  match H.vloop, H.broken with
  | none, none => follow H (loopEval H.csr H.pc) true
  | none, some b =>
    if inBroken H b then brokenWord H b (vloopCrc s (coreOf h) H b.1 b.2 []) else follow H (loopEval H.csr H.pc) true
  | some v, _ =>
    if v.at_ + 1 < v.len then bodyWord H v
    else if H.getX v.reg = 1 then bodyEnd H v (vloopCrc s (coreOf h) H v.pc v.len v.queue)
    else bodyAgain H v

/-- Retire the word at pc and go on at the next word, or where a loop level sends it (R96, R145). -/
def retire (s : State) (h : Nat) : State := s.setHart h (retiredHart s h)

/-- Retire a word that transfers control (R96: no loop evaluation). -/
def retireTo (s : State) (h : Nat) (dest : Word) (a : Arrival) : State :=
  s.modHart h fun H => { retireCommon H false true with pc := dest, arrival := a }

/-! Taking a trap and returning from one. -/

/-- mstatus after entry into M (R106). -/
def mstatusEnterM (w : Word) (m : Mode) : Word :=
  let w := setBit w 7 (bit w 3)
  let w := setBit w 3 false
  setBit (setBit w 11 (m.code % 2 == 1)) 12 (m.code / 2 == 1)
/-- mstatus after entry into S. -/
def mstatusEnterS (w : Word) (m : Mode) : Word :=
  setBit (setBit (setBit w 5 (bit w 1)) 1 false) 8 (m == .S)

/-- The address a trap vector sends a cause to (R85, R104). -/
def vectorTarget (tvec : Word) (intr : Bool) (cause : Nat) : Word :=
  let base := tvec &&& ~~~3#64
  if intr && bit tvec 0 then base + word (4 * cause) else base

/-- A trap from this hart with this cause goes to S mode (R104): never SIG_MISMATCH (R70). -/
def goesToS (H : Hart) (intr : Bool) (cause : Nat) : Bool :=
  H.mode != .M && cause != 26 && (if intr then bit H.csr.mideleg cause else bit H.csr.medeleg cause)

/-- The checker as a trap saves it (R69): a trapping ECALL or EBREAK is the last instruction of its block, and counts as
executed (DEDUCED, log 52). -/
def savedChk (H : Hart) (intr : Bool) (cause : Nat) : Checker :=
  if !intr && [3, 8, 9, 11].contains cause then
    { H.chk with last := 4, run := if H.irSigned && H.chk.act then crcOfWord H.chk.run H.ir else H.chk.run }
  else H.chk
/-- Trap entry (R106), the one way a trap is taken: unlanded results have landed, any VLOOP, hold or
wait of the hart is over. -/
def enterTrap (H : Hart) (intr : Bool) (cause : Nat) (tval : Word) : Hart :=
  let H := landCv H.cvPend H
  let save := packSave { H with chk := savedChk H intr cause }
  let code := word ((if intr then 2 ^ 63 else 0) + cause)
  let C := H.csr
  let toS := goesToS H intr cause
  let C' : Csrs :=
    if toS then
      { C with sepc := H.pc &&& ~~~3#64, scause := code, stval := tval, sxsave := save
               mstatus := mstatusEnterS C.mstatus H.mode
               mnstatus := setBit (setBit C.mnstatus 6 (bit C.mnstatus 4)) 4 false }
    else
      { C with mepc := H.pc &&& ~~~3#64, mcause := code, mtval := tval, mxsave := save
               mstatus := mstatusEnterM C.mstatus H.mode
               mnstatus := setBit (setBit C.mnstatus 5 (bit C.mnstatus 4)) 4 false }
  { H with
    csr := C'
    pfx := false
    chk := { H.chk with act := false }
    mode := if toS then .S else .M
    pc := vectorTarget (if toS then C.stvec else C.mtvec) intr cause
    arrival := .indirect
    pend := []
    cvPend := []
    resv := none
    prefetch := []
    vloop := none
    broken := (match H.vloop with | some v => if intr then H.broken else some (v.pc, v.len) | none => H.broken)
    held := none
    fetched := []
    stalled := none
    ending := false
    fw := !toS }

def takeTrap (s : State) (h : Nat) (intr : Bool) (cause : Nat) (tval : Word) : State :=
  s.modHart h fun H => enterTrap H intr cause tval

/-- What the fault of a check settles besides the trap (DEDUCED, log 16). A failed sparse command is tracked until SCNVW
reports it (R360). -/
def fixUp (H : Hart) : Fix → Hart
  | .none => H
  | .store => { H with failed := none }
  | .gather vd => { H with gathers := H.gathers.filter fun g => g.vd != vd }
  | .copy t => { H with copies := H.copies.map fun c => if c.tag == t then { c with reported := true } else c }
  | .tracked _ => H
  | .engine => { H with engFail := none }
  | .prefix_ => { H with pfx := false }

/-- The end of every meaning: the state its effect gives, the trap its checks raise, or the wait. -/
def finish (s : State) (p : Pre) (t : State) : Host.Outcome State Fault Refusal :=
  match p with
  | .ok => .next t
  | .trap cause tval fix => .next (takeTrap (s.modHart s.cur fun H => fixUp H fix) s.cur false cause tval)
  | .wait w => .next (s.modHart s.cur fun H => { H with stalled := some w })

/-- mstatus after MRET and the mode it returns to (R107, R39; PRESUMED, log 11). -/
def mretStatus (w : Word) : Word × Mode :=
  let m := Mode.ofCode (bits w 11 2)
  (setBit (setBit (setBit (setBit w 3 (bit w 7)) 7 true) 11 false) 12 false, m)
def sretStatus (w : Word) : Word × Mode :=
  (setBit (setBit (setBit w 1 (bit w 5)) 5 true) 8 false, if bit w 8 then .S else .U)

/-- Trap return (R107): `fromM` for MRET, else SRET. The word returned to is reached in sequence: a transfer whose landing the
interrupt broke off is not checked again (R69; DESIGN CHOICE, log 72). -/
def leaveTrap (H : Hart) (fromM : Bool) : Hart :=
  let C := H.csr
  let save := if fromM then C.mxsave else C.sxsave
  let (st, m) := if fromM then mretStatus C.mstatus else sretStatus C.mstatus
  let k := if fromM then 5 else 6
  { H with
    csr := { C with mstatus := st, mnstatus := setBit (setBit C.mnstatus 4 (bit C.mnstatus k)) k true }
    pfx := bit save 63
    payload := BitVec.ofNat 25 (bits save 33 25)
    chk := unpackChk save
    mode := m
    pc := if fromM then C.mepc else C.sepc
    arrival := .seq
    resv := none
    prefetch := []
    held := none
    fetched := []
    stalled := none
    fw := false
    fromSigned := true }

/-! Interrupts (R103 to R105, R110, R305). -/

/-- LTIP: the count had reached stimecmp in an earlier cycle (R110). -/
def ltip (s : State) (h : Nat) : Bool := decide ((s.hart h).csr.stimecmp.toNat < (s.core (coreOf h)).cycle)

/-- The inbox slots of hart i's handlers that are placed and not running, by arrival (R301). -/
def placedHandlers (C : Core) (i : Nat) (running : Option Nat) : SMap InSlot :=
  C.inbox.filter fun (n, _) => n / 7 == i && decide (n < 28) && running != some n
/-- The oldest of them. -/
def oldestPlaced (l : SMap InSlot) : Option (Nat × InSlot) :=
  l.foldl (fun best e =>
    match best with
    | some b => if e.2.order < b.2.order then some e else best
    | none => some e) none
/-- The slot of the handler the hart enters next: the oldest placed, once it has been scanned (R301). -/
def oldestHandler (C : Core) (i : Nat) (running : Option Nat) : Option Nat :=
  match oldestPlaced (placedHandlers C i running) with
  | some (n, q) => if q.scanned then some n else none
  | none => none
/-- The slot of the handler a hart runs. -/
def Hart.running (H : Hart) : Option Nat := H.handler.map fun r => r.inslot

/-- MAIP (R305). -/
def maip (s : State) (h : Nat) : Bool :=
  let C := s.core (coreOf h)
  !isMordant h && ((SMap.find? C.inbox (28 + hartIn h)).isSome
    || ((s.hart h).mode != .U && (placedHandlers C (hartIn h) (s.hart h).running).any fun (_, q) => q.scanned))

/-- mip (R103). -/
def mipOf (s : State) (h : Nat) : Word :=
  let C := (s.hart h).csr
  setBit (setBit (setBit (setBit 0 16 (maip s h)) 17 (ltip s h)) 18 C.srip) 19 C.prip

/-- Interrupt bit n is pending, enabled, and its mode and global enable allow it (R104). -/
def intrDue (s : State) (h : Nat) (n : Nat) : Bool :=
  let H := s.hart h
  bit H.csr.mie n && bit (mipOf s h) n &&
    (if bit H.csr.mideleg n then H.mode == .U || (H.mode == .S && bit H.csr.mstatus 1)
     else H.mode != .M || bit H.csr.mstatus 3)

/-- The interrupt taken at a boundary: SRI, then MAI, then LTI (R104). -/
def dueInterrupt (s : State) (h : Nat) : Option Nat := [18, 16, 17].find? fun n => intrDue s h n

/-! Retirement of common shapes. -/

/-- Retire after a change of the executing hart. -/
def retireWith (s : State) (f : Hart → Hart) : State := retire (s.modHart s.cur f) s.cur
/-- Retire after writing X(rd). -/
def retireX (s : State) (rd : BitVec 5) (v : Word) : State := retireWith s fun H => H.setX rd.toNat v
/-- Retire after writing F(rd). -/
def retireF (s : State) (rd : BitVec 5) (v : W32) : State := retireWith s fun H => H.setF rd.toNat v

/-- A write of an armed register raises ARMED_WRITE (R295). -/
def armedW (s : State) (rd : BitVec 5) : Pre :=
  need (!s.me.armed.contains rd.toNat) 30 (word rd.toNat)

/-- mtval of a standard cause that an implementation may leave 0 (PRESUMED, log 13). -/
def tvalOf (cause : Nat) (v : Word) : Word := if Config.reportsTval cause then v else 0

/-- Illegal instruction (R42): mtval is the word, as the privileged specification lets it be. -/
def legal (s : State) (b : Bool) : Pre := need b 2 (tvalOf 2 (s.me.ir.setWidth 64))

end Sys2Proof.Machine
end

