-- ==== Sys2Proof/Machine/Flags.lean ====
section
/-! DEFINITION. Flag computations: fflags and the rounding mode of the F forms (R41, R92), the conversion
state cvamax and cvamax_flags (R161, R162, R165), the LFSR (R159), and the integer results whose corner
cases the base specification fixes (R39, R92). -/

namespace Sys2Proof.Machine
open Sys2Proof

/-- The mode of a frm value (R41). -/
def frmMode (n : Nat) : RMode :=
  match n with
  | 1 => .rtz
  | 2 => .rdn
  | 3 => .rup
  | 4 => .rmm
  | _ => .rne
/-- The mode of an F word: its own field, or frm when dynamic. -/
def rmOf (H : Hart) : Rm → RMode
  | .rne => .rne
  | .rtz => .rtz
  | .rdn => .rdn
  | .rup => .rup
  | .rmm => .rmm
  | .dyn => frmMode H.csr.frm.toNat
/-- fflags accumulates (R92). -/
def accrue (H : Hart) (fl : Nat) : Hart := { H with csr := { H.csr with fflags := H.csr.fflags ||| BitVec.ofNat 5 fl } }
/-- F(rd) and the flags of an F result. -/
def setFlt (H : Hart) (rd : Nat) (r : Nat × Nat) : Hart := accrue (H.setF rd (BitVec.ofNat 32 r.1)) r.2
/-- X(rd) and the flags of an F comparison or conversion. -/
def setFx (H : Hart) (rd : Nat) (v : Word) (fl : Nat) : Hart := accrue (H.setX rd v) fl

/-- One LFSR step (R159). -/
def lfsrStep (w : W32) : W32 := if w.getLsbD 0 then (w >>> 1) ^^^ 0x80200003 else w >>> 1
/-- A write of the LFSR state: 0 is kept as 1 (R163, R172). -/
def lfsrKeep (w : W32) : W32 := if w = 0 then 1 else w

/-- cvamax after one input (R165). -/
def amaxStep (cur : W32) (v : FVal) : W32 :=
  match v with
  | .nan => cur
  | v => if cur.toNat < rne f32F v.abs then BitVec.ofNat 32 (rne f32F v.abs) else cur
/-- cvamax and NAN after the inputs of an .amax conversion (R165). -/
def amaxUpdate (H : Hart) (l : List FVal) : Hart :=
  { H with csr := { H.csr with
      cvamax := l.foldl amaxStep H.csr.cvamax
      cvflags := if l.contains .nan then H.csr.cvflags ||| 1 else H.csr.cvflags } }
/-- SAT (2) and OVF (4) of a conversion are sticky (R162). -/
def cvAccrue (H : Hart) (sat ovf : Bool) : Hart :=
  { H with csr := { H.csr with cvflags := H.csr.cvflags ||| (if sat then 2 else 0) ||| (if ovf then 4 else 0) } }
/-- The WARL value cvamax keeps (R161). -/
def cvamaxKeep (v : Word) : W32 :=
  let n := v.toNat % 2 ^ 31
  BitVec.ofNat 32 (if 0x7F800000 < n then 0x7F800000 else n)

/-! Integer results. -/

def sext32 (v : W32) : Word := v.signExtend 64
def lo32 (v : Word) : W32 := v.setWidth 32
def boolW (b : Bool) : Word := if b then 1 else 0
/-- A 12-bit immediate, sign-extended. -/
def imm12 (i : BitVec 12) : Word := i.signExtend 64
/-- A branch offset: imm[12:1]. -/
def offB (i : BitVec 12) : Word := i.signExtend 64 <<< 1
/-- A jump offset: imm[20:1]. -/
def offJ (i : BitVec 20) : Word := i.signExtend 64 <<< 1
/-- An upper immediate. -/
def immU (i : BitVec 20) : Word := i.signExtend 64 <<< 12

/-- Signed division truncated toward zero, with the base specification's corners: a zero divisor gives
all ones, the overflow gives the dividend. -/
def divS {w : Nat} (a b : BitVec w) : BitVec w := if b = 0 then BitVec.allOnes w else a.sdiv b
def remS {w : Nat} (a b : BitVec w) : BitVec w := if b = 0 then a else a.srem b
def divU {w : Nat} (a b : BitVec w) : BitVec w := if b = 0 then BitVec.allOnes w else a.udiv b
def remU {w : Nat} (a b : BitVec w) : BitVec w := if b = 0 then a else a.umod b
/-- The upper 64 bits of a product of integers. -/
def mulHi (a b : Int) : Word := wordZ (a * b / (2 ^ 64 : Int))

end Sys2Proof.Machine
end

