-- ==== Sys2Proof/Machine/Base.lean ====
section
/-! DEFINITION. The base integer and multiply instructions (R29, R39, R93): each checks that its
destination is not armed (R295), writes it and retires; control transfers retire to their target. -/

namespace Sys2Proof.Machine
open Sys2Proof

/-- Write X(rd) and retire (R39), unless rd is armed (R295). -/
def alu (rd : BitVec 5) (v : Word) (s : State) : Host.Outcome State Fault Refusal :=
  finish s (armedW s rd) (retireX s rd v)

/-- Link and transfer control (R39, R69). -/
def jumpTo (rd : BitVec 5) (dest : Word) (a : Arrival) (s : State) : State :=
  retireTo (s.modHart s.cur fun H => H.setX rd.toNat (H.pc + 4)) s.cur dest a

/-- A conditional branch: taken, it transfers control; not taken, it retires in sequence (R39, R96). -/
def branch (taken : Bool) (off : BitVec 12) (s : State) : Host.Outcome State Fault Refusal :=
  finish s .ok (if taken then retireTo s s.cur (s.me.pc + offB off) .direct else retire s s.cur)

/-- R39. -/
def execLui (rd : BitVec 5) (imm : BitVec 20) (s : State) : Host.Outcome State Fault Refusal :=
  alu rd (immU imm) s
/-- R39. -/
def execAuipc (rd : BitVec 5) (imm : BitVec 20) (s : State) : Host.Outcome State Fault Refusal :=
  alu rd (s.me.pc + immU imm) s
/-- R39. -/
def execJal (rd : BitVec 5) (off : BitVec 20) (s : State) : Host.Outcome State Fault Refusal :=
  finish s (armedW s rd) (jumpTo rd (s.me.pc + offJ off) .direct s)
/-- R29: a target that is not a multiple of 4 faults with cause 0 before any effect. -/
def execJalr (rd rs1 : BitVec 5) (imm : BitVec 12) (s : State) : Host.Outcome State Fault Refusal :=
  let t := (s.x rs1 + imm12 imm) &&& ~~~1#64
  finish s (.all [need (!bit t 1) 0 t, armedW s rd]) (jumpTo rd t .indirect s)

/-- R39. -/
def execBeq (rs1 rs2 : BitVec 5) (off : BitVec 12) (s : State) : Host.Outcome State Fault Refusal :=
  branch (s.x rs1 == s.x rs2) off s

/-- R39. -/
def execBne (rs1 rs2 : BitVec 5) (off : BitVec 12) (s : State) : Host.Outcome State Fault Refusal :=
  branch (s.x rs1 != s.x rs2) off s

/-- R39. -/
def execBlt (rs1 rs2 : BitVec 5) (off : BitVec 12) (s : State) : Host.Outcome State Fault Refusal :=
  branch ((s.x rs1).slt (s.x rs2)) off s

/-- R39. -/
def execBge (rs1 rs2 : BitVec 5) (off : BitVec 12) (s : State) : Host.Outcome State Fault Refusal :=
  branch (!(s.x rs1).slt (s.x rs2)) off s

/-- R39. -/
def execBltu (rs1 rs2 : BitVec 5) (off : BitVec 12) (s : State) : Host.Outcome State Fault Refusal :=
  branch ((s.x rs1).ult (s.x rs2)) off s

/-- R39. -/
def execBgeu (rs1 rs2 : BitVec 5) (off : BitVec 12) (s : State) : Host.Outcome State Fault Refusal :=
  branch (!(s.x rs1).ult (s.x rs2)) off s

/-- R39. -/
def execAddi (rd rs1 : BitVec 5) (imm : BitVec 12) (s : State) : Host.Outcome State Fault Refusal :=
  alu rd (s.x rs1 + imm12 imm) s

/-- R39. -/
def execSlti (rd rs1 : BitVec 5) (imm : BitVec 12) (s : State) : Host.Outcome State Fault Refusal :=
  alu rd (boolW ((s.x rs1).slt (imm12 imm))) s

/-- R39. -/
def execSltiu (rd rs1 : BitVec 5) (imm : BitVec 12) (s : State) : Host.Outcome State Fault Refusal :=
  alu rd (boolW ((s.x rs1).ult (imm12 imm))) s

/-- R39. -/
def execXori (rd rs1 : BitVec 5) (imm : BitVec 12) (s : State) : Host.Outcome State Fault Refusal :=
  alu rd (s.x rs1 ^^^ imm12 imm) s

/-- R39. -/
def execOri (rd rs1 : BitVec 5) (imm : BitVec 12) (s : State) : Host.Outcome State Fault Refusal :=
  alu rd (s.x rs1 ||| imm12 imm) s

/-- R39. -/
def execAndi (rd rs1 : BitVec 5) (imm : BitVec 12) (s : State) : Host.Outcome State Fault Refusal :=
  alu rd (s.x rs1 &&& imm12 imm) s

/-- R39. -/
def execSlli (rd rs1 : BitVec 5) (sh : BitVec 6) (s : State) : Host.Outcome State Fault Refusal :=
  alu rd (s.x rs1 <<< sh.toNat) s

/-- R39. -/
def execSrli (rd rs1 : BitVec 5) (sh : BitVec 6) (s : State) : Host.Outcome State Fault Refusal :=
  alu rd (s.x rs1 >>> sh.toNat) s

/-- R39. -/
def execSrai (rd rs1 : BitVec 5) (sh : BitVec 6) (s : State) : Host.Outcome State Fault Refusal :=
  alu rd ((s.x rs1).sshiftRight sh.toNat) s

/-- R39. -/
def execAdd (rd rs1 rs2 : BitVec 5) (s : State) : Host.Outcome State Fault Refusal :=
  alu rd (s.x rs1 + s.x rs2) s

/-- R39. -/
def execSub (rd rs1 rs2 : BitVec 5) (s : State) : Host.Outcome State Fault Refusal :=
  alu rd (s.x rs1 - s.x rs2) s

/-- R39. -/
def execSll (rd rs1 rs2 : BitVec 5) (s : State) : Host.Outcome State Fault Refusal :=
  alu rd (s.x rs1 <<< ((s.x rs2).toNat % 64)) s

/-- R39. -/
def execSlt (rd rs1 rs2 : BitVec 5) (s : State) : Host.Outcome State Fault Refusal :=
  alu rd (boolW ((s.x rs1).slt (s.x rs2))) s

/-- R39. -/
def execSltu (rd rs1 rs2 : BitVec 5) (s : State) : Host.Outcome State Fault Refusal :=
  alu rd (boolW ((s.x rs1).ult (s.x rs2))) s

/-- R39. -/
def execXor (rd rs1 rs2 : BitVec 5) (s : State) : Host.Outcome State Fault Refusal :=
  alu rd (s.x rs1 ^^^ s.x rs2) s

/-- R39. -/
def execSrl (rd rs1 rs2 : BitVec 5) (s : State) : Host.Outcome State Fault Refusal :=
  alu rd (s.x rs1 >>> ((s.x rs2).toNat % 64)) s

/-- R39. -/
def execSra (rd rs1 rs2 : BitVec 5) (s : State) : Host.Outcome State Fault Refusal :=
  alu rd ((s.x rs1).sshiftRight ((s.x rs2).toNat % 64)) s

/-- R39. -/
def execOr (rd rs1 rs2 : BitVec 5) (s : State) : Host.Outcome State Fault Refusal :=
  alu rd (s.x rs1 ||| s.x rs2) s

/-- R39. -/
def execAnd (rd rs1 rs2 : BitVec 5) (s : State) : Host.Outcome State Fault Refusal :=
  alu rd (s.x rs1 &&& s.x rs2) s

/-- R39. -/
def execAddiw (rd rs1 : BitVec 5) (imm : BitVec 12) (s : State) : Host.Outcome State Fault Refusal :=
  alu rd (sext32 (lo32 (s.x rs1 + imm12 imm))) s

/-- R39. -/
def execSlliw (rd rs1 sh : BitVec 5) (s : State) : Host.Outcome State Fault Refusal :=
  alu rd (sext32 (lo32 (s.x rs1) <<< sh.toNat)) s

/-- R39. -/
def execSrliw (rd rs1 sh : BitVec 5) (s : State) : Host.Outcome State Fault Refusal :=
  alu rd (sext32 (lo32 (s.x rs1) >>> sh.toNat)) s

/-- R39. -/
def execSraiw (rd rs1 sh : BitVec 5) (s : State) : Host.Outcome State Fault Refusal :=
  alu rd (sext32 ((lo32 (s.x rs1)).sshiftRight sh.toNat)) s

/-- R39. -/
def execAddw (rd rs1 rs2 : BitVec 5) (s : State) : Host.Outcome State Fault Refusal :=
  alu rd (sext32 (lo32 (s.x rs1) + lo32 (s.x rs2))) s

/-- R39. -/
def execSubw (rd rs1 rs2 : BitVec 5) (s : State) : Host.Outcome State Fault Refusal :=
  alu rd (sext32 (lo32 (s.x rs1) - lo32 (s.x rs2))) s

/-- R39. -/
def execSllw (rd rs1 rs2 : BitVec 5) (s : State) : Host.Outcome State Fault Refusal :=
  alu rd (sext32 (lo32 (s.x rs1) <<< ((s.x rs2).toNat % 32))) s

/-- R39. -/
def execSrlw (rd rs1 rs2 : BitVec 5) (s : State) : Host.Outcome State Fault Refusal :=
  alu rd (sext32 (lo32 (s.x rs1) >>> ((s.x rs2).toNat % 32))) s

/-- R39. -/
def execSraw (rd rs1 rs2 : BitVec 5) (s : State) : Host.Outcome State Fault Refusal :=
  alu rd (sext32 ((lo32 (s.x rs1)).sshiftRight ((s.x rs2).toNat % 32))) s

/-- R39, R93. -/
def execMul (rd rs1 rs2 : BitVec 5) (s : State) : Host.Outcome State Fault Refusal :=
  alu rd (s.x rs1 * s.x rs2) s

/-- R39, R93. -/
def execMulh (rd rs1 rs2 : BitVec 5) (s : State) : Host.Outcome State Fault Refusal :=
  alu rd (mulHi (s.x rs1).toInt (s.x rs2).toInt) s

/-- R39, R93. -/
def execMulhsu (rd rs1 rs2 : BitVec 5) (s : State) : Host.Outcome State Fault Refusal :=
  alu rd (mulHi (s.x rs1).toInt (s.x rs2).toNat) s

/-- R39, R93. -/
def execMulhu (rd rs1 rs2 : BitVec 5) (s : State) : Host.Outcome State Fault Refusal :=
  alu rd (mulHi (s.x rs1).toNat (s.x rs2).toNat) s

/-- R39, R93. -/
def execDiv (rd rs1 rs2 : BitVec 5) (s : State) : Host.Outcome State Fault Refusal :=
  alu rd (divS (s.x rs1) (s.x rs2)) s

/-- R39, R93. -/
def execDivu (rd rs1 rs2 : BitVec 5) (s : State) : Host.Outcome State Fault Refusal :=
  alu rd (divU (s.x rs1) (s.x rs2)) s

/-- R39, R93. -/
def execRem (rd rs1 rs2 : BitVec 5) (s : State) : Host.Outcome State Fault Refusal :=
  alu rd (remS (s.x rs1) (s.x rs2)) s

/-- R39, R93. -/
def execRemu (rd rs1 rs2 : BitVec 5) (s : State) : Host.Outcome State Fault Refusal :=
  alu rd (remU (s.x rs1) (s.x rs2)) s

/-- R39, R93. -/
def execMulw (rd rs1 rs2 : BitVec 5) (s : State) : Host.Outcome State Fault Refusal :=
  alu rd (sext32 (lo32 (s.x rs1) * lo32 (s.x rs2))) s

/-- R39, R93. -/
def execDivw (rd rs1 rs2 : BitVec 5) (s : State) : Host.Outcome State Fault Refusal :=
  alu rd (sext32 (divS (lo32 (s.x rs1)) (lo32 (s.x rs2)))) s

/-- R39, R93. -/
def execDivuw (rd rs1 rs2 : BitVec 5) (s : State) : Host.Outcome State Fault Refusal :=
  alu rd (sext32 (divU (lo32 (s.x rs1)) (lo32 (s.x rs2)))) s

/-- R39, R93. -/
def execRemw (rd rs1 rs2 : BitVec 5) (s : State) : Host.Outcome State Fault Refusal :=
  alu rd (sext32 (remS (lo32 (s.x rs1)) (lo32 (s.x rs2)))) s

/-- R39, R93. -/
def execRemuw (rd rs1 rs2 : BitVec 5) (s : State) : Host.Outcome State Fault Refusal :=
  alu rd (sext32 (remU (lo32 (s.x rs1)) (lo32 (s.x rs2)))) s

end Sys2Proof.Machine
end

