-- ==== Sys2Proof/Machine/Csr.lean ====
section
/-! DEFINITION. The control and status registers: what each reads, what a write keeps, and who may
(R27, R28, R42, R83, R85 to R87). -/

namespace Sys2Proof.Machine
open Sys2Proof

/-- mhartid (R16). -/
def mhartid (s : State) (h : Nat) : Word :=
  if isMordant h then word (s.pkg.number % 4096 * 2 ^ 16 + 2 ^ 15 + (h - 32768)) else word (s.pkg.number % 4096 * 2 ^ 16 + h)

/-- mstatus as read (R86): FS 11, SD 1, UXL and SXL 2. -/
def mstatusRead (w : Word) : Word := (w &&& 0x2019AA) ||| 0x8000000A00006000
/-- The writable bits of mstatus; MPP keeps a legal mode. -/
def mstatusWrite (old v : Word) : Word :=
  let mpp := if bits v 11 2 = 2 then bits old 11 2 else bits v 11 2
  (v &&& 0x2001AA) ||| word (mpp * 2 ^ 11)
/-- sstatus: SIE, SPIE, SPP of mstatus, with FS, SD and UXL. -/
def sstatusRead (w : Word) : Word := (w &&& 0x122) ||| 0x8000000200006000
def sstatusWrite (old v : Word) : Word := (old &&& ~~~0x122#64) ||| (v &&& 0x122)

/-- What a write of mtvec or stvec keeps (R85). -/
def tvecWrite (old v : Word) : Word := if bit v 1 then (v &&& ~~~3#64) ||| (old &&& 3) else v
/-- The writable bits of medeleg (R104; PRESUMED, log 50). -/
def medelegMask : Word := 0x01FF0000FB00B3FF
/-- mnstatus after a write (R87). -/
def mnstatusWrite (old v : Word) : Word :=
  let sigl := bit old 3 || bit v 3
  let w := v &&& 0xFF72
  setBit (setBit w 3 sigl) 2 (sigl || bit v 2)
/-- A stride register after a write: LOGB 7 is kept as 6 (R327). -/
def mstrKeep (v : Word) : Word :=
  let w := v &&& 0x1FFFFFFFFFFFF
  if bits w 39 3 = 7 then setBit w 39 false else w

/-- Published pressure (R259). -/
def pressure (G : Cluster) : Nat := if G.isRetired then 0xFFFF else min G.q 0xFFFE

/-- bankstat (R191). -/
def bankstat (C : Core) : Word :=
  word (((List.range 32).map fun g => if degraded C g then 2 ^ (32 + g) else 0).sum
    + (match C.lostG with | some g => 2 ^ 31 + g * 2 ^ 16 | none => 0) + min C.banks.length 64 * 2 ^ 8 + C.ce)

/-- One range-lock entry as rltab shows it (R243). -/
def rltab (C : Core) (n : Nat) : Word :=
  match SMap.find? C.locks n with
  | none => 0
  | some l =>
    let eng := match l.eng with | .copy => 0 | .matrix => 1 | .merge => 2 | .conv => 3
    word (2 ^ 63 + (if l.dst then 2 ^ 62 else 0) + eng * 2 ^ 60 + hartIn l.hart * 2 ^ 58 + min (l.hi - l.lo) 0xFFFFFFFF)

/-- armset (R296). -/
def armset (s : State) (h : Nat) : Word :=
  let H := s.hart h
  let pend := ((s.core (coreOf h)).deposits.filter fun p =>
    match p.body with | .deposit t _ => t / 32 % 4 == hartIn h | _ => false).length
  word ((H.armed.map fun n => 2 ^ n).sum + pend * 2 ^ 32)

/-- arrq_stat (R316). -/
def arrqStat (C : Core) : Word :=
  word (C.landed % 2 ^ 24 * 2 ^ 40 + min C.spills 0xFFFF * 2 ^ 24 + C.spill.length * 2 ^ 6 + C.arrQ.length)

/-- mlease_stat (R351). -/
def mleaseStat (s : State) (h : Nat) : Word :=
  let H := s.hart h
  let G := s.cluster (cluOfHart h)
  let k := coreOf h % 16
  let held := G.lease == some k && !isMordant h
  word ((if held then 2 ^ 63 else 0) + (if !isMordant h && G.leaseReq.any (fun (c, _) => c == k) then 2 ^ 62 else 0)
    + (if H.engFail.isSome then 2 ^ 61 else 0) + H.slots.length * 2 ^ 45 + (H.accs.map fun (a, _) => 2 ^ a).sum * 2 ^ 37
    + (G.matQ.filter fun c => c.hart == h).length * 2 ^ 32
    + (match G.lease with | some c => 2 ^ 28 + c * 2 ^ 24 | none => 0) + (if held then G.rem else 0))

/-- The value CSR n of hart h reads as; 0 for a number no table holds (nothing reads those). -/
def csrRead (s : State) (h n : Nat) : Word :=
  let H := s.hart h
  let C := H.csr
  let K := s.core (coreOf h)
  let G := s.cluster (cluOfHart h)
  match n with
  | 0x001 => C.fflags.setWidth 64
  | 0x002 => C.frm.setWidth 64
  | 0x003 => word (C.frm.toNat * 32 + C.fflags.toNat)
  | 0xC00 | 0xC01 | 0xB00 => word K.cycle
  | 0x100 => sstatusRead C.mstatus
  | 0x104 => C.mie &&& C.mideleg
  | 0x144 => mipOf s h &&& C.mideleg
  | 0x105 => C.stvec
  | 0x106 => C.scounteren
  | 0x140 => C.sscratch
  | 0x141 => C.sepc
  | 0x142 => C.scause
  | 0x143 => C.stval
  | 0x14D => C.stimecmp
  | 0xF11 | 0xF12 | 0xF15 => 0
  | 0xF13 => 1
  | 0xF14 => mhartid s h
  | 0x300 => mstatusRead C.mstatus
  | 0x301 => 0x8000000000941121
  | 0x302 => C.medeleg
  | 0x303 => C.mideleg
  | 0x304 => C.mie
  | 0x344 => mipOf s h
  | 0x305 => C.mtvec
  | 0x306 => C.mcounteren
  | 0x30A => 0x8000000000000000
  | 0x340 => C.mscratch
  | 0x341 => C.mepc
  | 0x342 => C.mcause
  | 0x343 => C.mtval
  | 0x800 => C.cvamax.setWidth 64
  | 0x801 => C.cvflags.setWidth 64
  | 0x802 => H.lfsr.setWidth 64
  | 0x810 => C.loop0.start
  | 0x811 => C.loop0.stop
  | 0x812 => C.loop0.count
  | 0x813 => C.loop1.start
  | 0x814 => C.loop1.stop
  | 0x815 => C.loop1.count
  | 0x5C0 => C.sxsave
  | 0x7C0 => setBit (C.mnstatus &&& 0xFF7E) 0 H.pfx
  | 0x7C1 => C.mxsave
  | 0x7C2 => K.feLimit.setWidth 64
  | 0x7C3 => word G.lLow
  | 0x7C4 => word G.lSpawn
  | 0x7C5 => word G.hopmax
  | 0x7C6 => G.pullw
  | 0x7C7 => word G.agelim
  | 0xCC0 => mleaseStat s h
  | 0xCC1 => word (pressure G)
  | 0xCC2 => word G.dist
  | 0xCC3 => 0x0000304840404040
  | 0xCC5 => arrqStat K
  | 0xCC6 => armset s h
  | 0xCC7 => bankstat K
  | 0xFC0 => if isMordant h then word K.cycle else 0
  | _ =>
    if 0xCE0 ≤ n ∧ n ≤ 0xCFF then rltab K (n - 0xCE0)
    else if 0x820 ≤ n ∧ n ≤ 0x827 then SMap.get 0x00000700FFFFFFFF C.mstr (n - 0x820)
    else 0

/-- A change of a hart's CSR block. -/
def modCsr (s : State) (h : Nat) (f : Csrs → Csrs) : State := s.modHart h fun H => { H with csr := f H.csr }

/-- A write of v to CSR n of hart h: RO fields and read-only registers keep their value (R8, R9). -/
def csrWrite (s : State) (h n : Nat) (v : Word) : State :=
  let c := coreOf h
  let g := cluOfHart h
  match n with
  | 0x001 => modCsr s h fun C => { C with fflags := v.setWidth 5 }
  | 0x002 => modCsr s h fun C => if v.toNat % 8 ≤ 4 then { C with frm := v.setWidth 3 } else C
  | 0x003 => modCsr s h fun C =>
      let C := { C with fflags := v.setWidth 5 }
      if bits v 5 3 ≤ 4 then { C with frm := BitVec.ofNat 3 (bits v 5 3) } else C
  | 0x100 => modCsr s h fun C => { C with mstatus := sstatusWrite C.mstatus v }
  | 0x104 => modCsr s h fun C => { C with mie := (C.mie &&& ~~~C.mideleg) ||| (v &&& C.mideleg &&& 0xF0000) }
  | 0x144 => modCsr s h fun C => if bit C.mideleg 18 then { C with srip := bit v 18 } else C
  | 0x105 => modCsr s h fun C => { C with stvec := tvecWrite C.stvec v }
  | 0x106 => modCsr s h fun C => { C with scounteren := v &&& 3 }
  | 0x140 => modCsr s h fun C => { C with sscratch := v }
  | 0x141 => modCsr s h fun C => { C with sepc := v &&& ~~~3#64 }
  | 0x142 => modCsr s h fun C => { C with scause := v }
  | 0x143 => modCsr s h fun C => { C with stval := v }
  | 0x14D => modCsr s h fun C => { C with stimecmp := v }
  | 0x300 => modCsr s h fun C => { C with mstatus := mstatusWrite C.mstatus v }
  | 0x302 => modCsr s h fun C => { C with medeleg := v &&& medelegMask }
  | 0x303 => modCsr s h fun C => { C with mideleg := v &&& 0x70000 }
  | 0x304 => modCsr s h fun C => { C with mie := v &&& 0xF0000 }
  | 0x344 => modCsr s h fun C => { C with srip := bit v 18 }
  | 0x305 => modCsr s h fun C => { C with mtvec := tvecWrite C.mtvec v }
  | 0x306 => modCsr s h fun C => { C with mcounteren := v &&& 3 }
  | 0x340 => modCsr s h fun C => { C with mscratch := v }
  | 0x341 => modCsr s h fun C => { C with mepc := v &&& ~~~3#64 }
  | 0x342 => modCsr s h fun C => { C with mcause := v }
  | 0x343 => modCsr s h fun C => { C with mtval := v }
  | 0x800 => modCsr s h fun C => { C with cvamax := cvamaxKeep v }
  | 0x801 => modCsr s h fun C => { C with cvflags := v.setWidth 3 }
  | 0x802 => s.modHart h fun H => { H with lfsr := lfsrKeep (v.setWidth 32) }
  | 0x810 => modCsr s h fun C => { C with loop0 := { C.loop0 with start := v &&& 0x7FFC } }
  | 0x811 => modCsr s h fun C => { C with loop0 := { C.loop0 with stop := v &&& 0x7FFC } }
  | 0x812 => modCsr s h fun C => { C with loop0 := { C.loop0 with count := v } }
  | 0x813 => modCsr s h fun C => { C with loop1 := { C.loop1 with start := v &&& 0x7FFC } }
  | 0x814 => modCsr s h fun C => { C with loop1 := { C.loop1 with stop := v &&& 0x7FFC } }
  | 0x815 => modCsr s h fun C => { C with loop1 := { C.loop1 with count := v } }
  | 0x5C0 => modCsr s h fun C => { C with sxsave := v &&& 0x83FFFFFFE7FFFFFF }
  | 0x7C0 => modCsr s h fun C => { C with mnstatus := mnstatusWrite C.mnstatus v }
  | 0x7C1 => modCsr s h fun C => { C with mxsave := v &&& 0x83FFFFFFE7FFFFFF }
  | 0x7C2 => s.modCore c fun K => { K with feLimit := v.setWidth 32 }
  | 0x7C3 => s.modCluster g fun G => { G with lLow := v.toNat % 2 ^ 16 }
  | 0x7C4 => s.modCluster g fun G => { G with lSpawn := v.toNat % 2 ^ 16 }
  | 0x7C5 => s.modCluster g fun G => { G with hopmax := max 1 (v.toNat % 64) }
  | 0x7C6 => s.modCluster g fun G => { G with pullw := v }
  | 0x7C7 => s.modCluster g fun G => { G with agelim := max 1 (v.toNat % 256) }
  | _ =>
    if 0x820 ≤ n ∧ n ≤ 0x827 then modCsr s h fun C => { C with mstr := SMap.put C.mstr (n - 0x820) (mstrKeep v) }
    else s

/-- The mode and the counter enables allow an access of CSR n of hart h (R42, R83, R85): stimecmp too stands under
mcounteren.TM, as its standard meaning has it. -/
def csrMode (s : State) (h n : Nat) (m : Mode) : Bool :=
  let C := (s.hart h).csr
  decide (n / 256 % 4 ≤ m.code) &&
    (if n = 0xC00 ∨ n = 0xC01 then
      let k := n - 0xC00
      match m with
      | .M => true
      | .S => bit C.mcounteren k
      | .U => bit C.mcounteren k && bit C.scounteren k
     else if n = 0x14D then m == .M || bit C.mcounteren 1
     else true)

/-- Drains with .amax of a hart that are not complete (R164, R345). -/
def drainsOf (s : State) (h : Nat) : Bool :=
  (s.cluster (cluOfHart h)).matQ.any fun q =>
    q.hart == h && match q.op with | .drain _ _ _ _ _ _ _ _ => true | _ => false

/-- An access of cvamax, cvamax_flags or srseed waits for the hart's conversions in flight, and one of the first two
for its drains (R164, R345). -/
def csrWaits (s : State) (h n : Nat) : Bool :=
  ((n = 0x800 || n = 0x801) && drainsOf s h) || ((n = 0x800 || n = 0x801 || n = 0x802) && !(s.hart h).cvPend.isEmpty)

end Sys2Proof.Machine
end

