-- ==== Sys2Proof/Machine/Mem.lean ====
section
/-! DEFINITION. A hart's accesses to memory: the checks of R88, the core window (R27, R28), own,
held and posted accesses (R89, R90), full-empty waiters (R199), and the base loads, stores, AMOs, LR
and SC (R91, R231). -/

namespace Sys2Proof.Machine
open Sys2Proof

/-! The core window (R27, R28, R30). -/

/-- A core of a retired cluster or failed die answers nothing (R306, R412). -/
def coreGone (s : State) (c : Nat) : Bool := (s.cluster (cluOf c)).isRetired || (s.die (dieOf (cluOf c))).isFailed

/-- CSR n of block i of core t may be accessed by hart h (R27, R28). -/
def blockOk (s : State) (h t i n : Nat) (write : Bool) : Bool :=
  csrPresent n && !(write && csrReadOnly n) &&
    (if coreOf h = t then (if hartAt t i = h then csrMode s h n (s.hart h).mode else (s.hart h).mode == .M) else true)

/-- Offset `off` of core t's window is assigned for an n-byte access of hart h. -/
def windowOk (s : State) (h t off n : Nat) (write : Bool) : Bool :=
  let m := (s.hart h).mode
  if isWorker t then
    if off < 0x8000 then !write || m != .U
    else if 0x10000 ≤ off ∧ off < 0x12000 then !write
    else if 0x20000 ≤ off ∧ off < 0x40000 then n == 8 && blockOk s h t ((off - 0x20000) / 0x8000) (off % 0x8000 / 8) write
    else false
  else
    if off < 0x10000 then m == .M
    else if 0x20000 ≤ off ∧ off < 0x28000 then n == 8 && blockOk s h t 0 (off % 0x8000 / 8) write
    else false

/-- The location of a window offset that is memory. -/
def windowLoc (t off : Nat) : Nat := if isWorker t then winBase t + off else padBase t + off
/-- The hart and CSR number of a window offset. -/
def windowCsr (t off : Nat) : Nat × Nat := (hartAt t ((off - 0x20000) / 0x8000), off % 0x8000 / 8)
def isCsrOff (off : Nat) : Bool := 0x20000 ≤ off
/-- The window access waits for the drains of its CSR's hart (R164). -/
def windowWaits (s : State) (t off : Nat) : Bool :=
  isCsrOff off && csrWaits s (windowCsr t off).1 (windowCsr t off).2
/-- A window read: the state after its error handling, the value, and the poisoned byte it meets in a private memory. -/
def windowRead (s : State) (t off n : Nat) : State × Nat × Option Nat :=
  if isCsrOff off then (s, (csrRead s (windowCsr t off).1 (windowCsr t off).2).toNat, none)
  else load s (windowLoc t off) n
/-- A window write by hart h. -/
def windowWrite (s : State) (h t off : Nat) (bytes : List Byte) : State :=
  if isCsrOff off then csrWrite s (windowCsr t off).1 (windowCsr t off).2 (word (ofBytes bytes))
  else store s (some h) (windowLoc t off) bytes false

/-! The checks of R88 for the hart that executes. -/

/-- Where the executing hart's address lies. -/
def placeNow (s : State) (a : Word) : Place := placeOf s s.cur (slotOf s.me) a
def alignPre (a : Word) (n : Nat) (write : Bool) : Pre := need (a.toNat % n == 0) (if write then 6 else 4) a
/-- Check 2 of R88; `win` admits the core window. -/
def spacePre (s : State) (a : Word) (n : Nat) (write win : Bool) : Pre :=
  need (match placeNow s a with
    | .bad => false
    | .window t off => win && windowOk s s.cur t off n write
    | _ => true) (if write then 7 else 5) a
/-- Two own locations lie in one data bank (R183, R216). -/
def sameBank (a b : Nat) : Bool := a / 16 % 256 == b / 16 % 256
/-- Lanes of an earlier gather or scatter, a deposit or a multicast copy of the hart are on their way to the own bank of
a location: later own accesses to that bank follow them (R216, R217). -/
def ownBusy (s : State) (h loc : Nat) : Bool :=
  s.net.any fun p => p.hart == h &&
    match p.body with
    | .mem _ _ _ (.at_ l) => coreOfLoc l == coreOf h && isPadLoc l && sameBank l loc
    | .deposit t _ =>
      (t / 2 ^ 60 == 9 || (t / 2 ^ 60 == 8 && !leavesPkg s p.body && coreOfLoc t == coreOf h)) && sameBank t loc
    | .mcw c off b _ _ => c == coreOf h && (granules off b.length).any fun g => sameBank g loc
    | _ => false
/-- Check 3 of R88 (R241), and the order of the own bank (R217). -/
def lockPre (s : State) (a : Word) (n : Nat) (write : Bool) : Pre :=
  .seq (need (!lockHit (s.core (coreOf s.cur)) (slotOf s.me) (canonAddr s s.cur a) n write) 24 a)
    (ready (match placeNow s a with | .own off => !ownBusy s s.cur (padBase (coreOf s.cur) + off) | _ => true))
/-- Checks 1 to 3 of R88. -/
def accessPre (s : State) (a : Word) (n : Nat) (write win : Bool) : Pre :=
  .all [alignPre a n write, spacePre s a n write win, lockPre s a n write]

/-! Held and posted accesses (R89). -/

/-- How far a packet to a place is: at its home, or to be translated or sent on. -/
def whereOf : Place → Where
  | .pad t off => .at_ (padBase t + off)
  | .window t off => .at_ (winBase t + off)
  | _ => .new

/-- The location of own memory. -/
def ownLoc (s : State) (off : Nat) : Nat := padBase (coreOf s.cur) + off

/-- Issue a held access: one packet, and the hart waits for its reply. -/
def sendHeld (s : State) (kind : HeldKind) (a : Word) (op : MemOp) : State :=
  send (s.modHart s.cur fun H => { H with held := some { kind := kind, addr := a, parts := 1 }, stalled := none })
    s.cur (.mem a.toNat op (.held 0) (whereOf (placeNow s a)))
/-- Issue a posted access and retire. -/
def sendPosted (s : State) (a : Word) (op : MemOp) : State :=
  retire (send s s.cur (.mem a.toNat op (.posted false) (whereOf (placeNow s a)))) s.cur

/-- The value a load form gives from n bytes. -/
def loadValue (n : Nat) (signed : Bool) (v : Nat) : Word :=
  if signed then wordZ (toSigned (8 * n) (v % 2 ^ (8 * n))) else word (v % 2 ^ (8 * n))

/-- FXRD's result from a cell, or the cause it raises (R238). -/
def cellResult (c : Nat) : Except Nat W32 :=
  if c / 2 ^ 127 % 2 = 1 then .ok (w32 f32F.canonNaN)
  else if cellInRange c then .ok (w32 (cellF32 c)) else .error 55

/-- What the landing of a reply does to the hart: its result written, or a cause at the access address.
`old` bits outside `mask` stay in a vector destination. -/
def land (kind : HeldKind) (mask bits : VReg) (H : Hart) : Except Nat Hart :=
  match kind with
  | .load rd fp n signed =>
    .ok (if fp then H.setF rd (bits.setWidth 32) else H.setX rd (loadValue n signed bits.toNat))
  | .amo rd n => .ok (H.setX rd (loadValue n true bits.toNat))
  | .vload vd => .ok (H.setV vd ((H.getV vd &&& ~~~mask) ||| (bits &&& mask)))
  | .plain rd => .ok (H.setX rd (bits.setWidth 64))
  | .spill rd _ => .ok (H.setX rd 0)
  | .fetch n => .ok { H with fetched := H.fetched ++ [((H.held.map fun q => q.addr.toNat).getD 0, toBytes n bits.toNat)] }
  | .late c _ _ => .error c
  | .fxrd rd form =>
    match form with
    | 0 => (cellResult (bits.toNat % 2 ^ 128)).map fun v => H.setF rd v
    | 1 => .ok (H.setX rd (bits.setWidth 64))
    | _ => .ok (H.setX rd ((bits >>> 64).setWidth 64))

/-- Land a result at once and retire. -/
def landNow (s : State) (kind : HeldKind) (a : Word) (v : Nat) : Host.Outcome State Fault Refusal :=
  match land kind 0 (BitVec.ofNat 512 v) s.me with
  | .ok H => finish s .ok (retireWith s fun _ => H)
  | .error c => finish s (.trap c a) s

/-- ARMED_WRITE on a destination, if the form has one (R295): place 8 of R105, after the causes of R88. -/
def armedD (s : State) : Option (BitVec 5) → Pre
  | some rd => armedW s rd
  | none => .ok
/-- Issue a held access of a location elsewhere. Where the instruction meets a later cause of R105 too, only a read of the
location goes out, and its good reply raises that cause. -/
def sendChecked (s : State) (p : Pre) (kind : HeldKind) (a : Word) (op read : MemOp) : Host.Outcome State Fault Refusal :=
  match p with
  | .ok => finish s (ready (placesFor s s.cur 1)) (sendHeld s kind a op)
  | .trap c t f => finish s (ready (placesFor s s.cur 1)) (sendHeld s (.late c t f) a read)
  | .wait w => finish s (.wait w) s
/-- An access of the window is served at once: the core's own (R27). Others travel (R34). -/
def ownWindow (s : State) (t : Nat) : Bool := t == coreOf s.cur

/-- A load of n bytes into rd by an operation of kind `op` after checks `p`. -/
def loadInstr (p : Pre) (rd : Option (BitVec 5)) (kind : HeldKind) (a : Word) (n : Nat) (op : MemOp) (s : State) :
    Host.Outcome State Fault Refusal :=
  match p with
  | .ok =>
    let near (r : State × Nat × Option Nat) : Host.Outcome State Fault Refusal :=
      match r, armedD s rd with
      | (s1, _, some _), _ => finish s1 (.trap 27 a) s1
      | (s1, v, none), .ok => landNow s1 kind a v
      | (s1, _, none), q => finish s1 q s1
    match placeNow s a with
    | .own off => near (load s (ownLoc s off) n)
    | .window t off =>
      if ownWindow s t then (if windowWaits s t off then finish s (.wait .issue) s else near (windowRead s t off n))
      else sendChecked s (armedD s rd) kind a op op
    | _ => sendChecked s (armedD s rd) kind a op op
  | p => finish s p s

/-- The record of posted writes that failed (R90): the oldest is reported, the others are counted. -/
def noteFailed (H : Hart) (f : FailRec) : Hart :=
  { H with failed := some (match H.failed with
      | some g => if f.id < g.id then { f with count := g.count + 1 } else { g with count := g.count + 1 }
      | none => f) }

/-- A store of bytes after checks `p`. -/
def storeInstr (p : Pre) (a : Word) (bytes : List Byte) (s : State) : Host.Outcome State Fault Refusal :=
  match p with
  | .ok =>
    match placeNow s a with
    | .own off => finish s .ok (retire (store s (some s.cur) (ownLoc s off) bytes false) s.cur)
    | .window t off =>
      if ownWindow s t then
        (if windowWaits s t off then finish s (.wait .issue) s
         else finish s .ok (retire (windowWrite s s.cur t off bytes) s.cur))
      else finish s (ready (placesFor s s.cur 1)) (sendPosted s a (.store bytes false))
    | _ => finish s (ready (placesFor s s.cur 1)) (sendPosted s a (.store bytes false))
  | p => finish s p s

/-- An AMO after checks `p`: on own memory at once, elsewhere held (R89, R221). `q`: the deferred faults (R105). -/
def amoInstr (p q : Pre) (rd : BitVec 5) (kind : HeldKind) (a : Word) (op n : Nat) (v : Word) (cmp : Option Word) (s : State) :
    Host.Outcome State Fault Refusal :=
  match p with
  | .ok =>
    let q := Pre.seq q (armedW s rd)
    match placeNow s a with
    | .own off =>
      match amoAt s (some s.cur) (ownLoc s off) op n v cmp, q with
      | (s1, .data bits none), .ok => landNow s1 kind a bits.toNat
      | (_, .data _ none), e => finish (load s (ownLoc s off) n).1 e s
      | (s1, _), _ => finish s1 (.trap 27 a) s1
    | _ => sendChecked s q kind a (.amo op n v cmp) (.load n)
  | p => finish s p s

/-! Base loads and stores (R88, R89). -/

/-- The address of a base access. -/
def baseAddr (s : State) (rs1 : BitVec 5) (imm : BitVec 12) : Word := s.x rs1 + imm12 imm

/-- A base integer load. -/
def loadX (rd rs1 : BitVec 5) (imm : BitVec 12) (n : Nat) (signed : Bool) (s : State) : Host.Outcome State Fault Refusal :=
  let a := baseAddr s rs1 imm
  loadInstr (accessPre s a n false true) (some rd) (.load rd.toNat false n signed) a n (.load n) s
/-- A base integer store. -/
def storeX (rs1 rs2 : BitVec 5) (imm : BitVec 12) (n : Nat) (s : State) : Host.Outcome State Fault Refusal :=
  let a := baseAddr s rs1 imm
  storeInstr (accessPre s a n true true) a (toBytes n (s.x rs2).toNat) s

/-- R89. -/
def execLb (rd rs1 : BitVec 5) (imm : BitVec 12) (s : State) : Host.Outcome State Fault Refusal :=
  loadX rd rs1 imm 1 true s

/-- R89. -/
def execLh (rd rs1 : BitVec 5) (imm : BitVec 12) (s : State) : Host.Outcome State Fault Refusal :=
  loadX rd rs1 imm 2 true s

/-- R89. -/
def execLw (rd rs1 : BitVec 5) (imm : BitVec 12) (s : State) : Host.Outcome State Fault Refusal :=
  loadX rd rs1 imm 4 true s

/-- R89. -/
def execLd (rd rs1 : BitVec 5) (imm : BitVec 12) (s : State) : Host.Outcome State Fault Refusal :=
  loadX rd rs1 imm 8 true s

/-- R89. -/
def execLbu (rd rs1 : BitVec 5) (imm : BitVec 12) (s : State) : Host.Outcome State Fault Refusal :=
  loadX rd rs1 imm 1 false s

/-- R89. -/
def execLhu (rd rs1 : BitVec 5) (imm : BitVec 12) (s : State) : Host.Outcome State Fault Refusal :=
  loadX rd rs1 imm 2 false s

/-- R89. -/
def execLwu (rd rs1 : BitVec 5) (imm : BitVec 12) (s : State) : Host.Outcome State Fault Refusal :=
  loadX rd rs1 imm 4 false s

/-- R89. -/
def execSb (rs1 rs2 : BitVec 5) (imm : BitVec 12) (s : State) : Host.Outcome State Fault Refusal :=
  storeX rs1 rs2 imm 1 s

/-- R89. -/
def execSh (rs1 rs2 : BitVec 5) (imm : BitVec 12) (s : State) : Host.Outcome State Fault Refusal :=
  storeX rs1 rs2 imm 2 s

/-- R89. -/
def execSw (rs1 rs2 : BitVec 5) (imm : BitVec 12) (s : State) : Host.Outcome State Fault Refusal :=
  storeX rs1 rs2 imm 4 s

/-- R89. -/
def execSd (rs1 rs2 : BitVec 5) (imm : BitVec 12) (s : State) : Host.Outcome State Fault Refusal :=
  storeX rs1 rs2 imm 8 s

/-- R89. -/
def execFlw (rd rs1 : BitVec 5) (imm : BitVec 12) (s : State) : Host.Outcome State Fault Refusal :=
  let a := baseAddr s rs1 imm
  loadInstr (accessPre s a 4 false true) none (.load rd.toNat true 4 false) a 4 (.load 4) s
/-- R89. -/
def execFsw (rs1 rs2 : BitVec 5) (imm : BitVec 12) (s : State) : Host.Outcome State Fault Refusal :=
  let a := baseAddr s rs1 imm
  storeInstr (accessPre s a 4 true true) a (toBytes 4 (s.f rs2).toNat) s

/-! LR and SC, on own memory only (R91). -/

/-- Check 2 for LR and SC: own memory. -/
def ownPre (s : State) (a : Word) (cause : Nat) : Pre :=
  need (match placeNow s a with | .own _ => true | _ => false) cause a
/-- A base release part waits until every earlier access within pkg is performed (R231). -/
def rlPre (s : State) (rl : Bool) : Pre := ready (!rl || !outstanding s s.cur 3 false)

/-- LR: read and reserve the granule (R91). -/
def loadReserved (rd rs1 : BitVec 5) (n : Nat) (rl : Bool) (s : State) : Host.Outcome State Fault Refusal :=
  let a := s.x rs1
  match Pre.all [alignPre a n false, ownPre s a 5, lockPre s a n false, rlPre s rl], placeNow s a with
  | .ok, .own off =>
    let (s1, v, bad) := load s (ownLoc s off) n
    finish s1 (.all [need bad.isNone 27 a, armedW s rd])
      (retireWith s1 fun H => { H.setX rd.toNat (loadValue n true v) with resv := some (ownLoc s off / 16) })
  | p, _ => finish s p s

/-- SC: store if the granule is still reserved (R91). -/
def storeCond (rd rs1 rs2 : BitVec 5) (n : Nat) (rl : Bool) (s : State) : Host.Outcome State Fault Refusal :=
  let a := s.x rs1
  match Pre.all [alignPre a n true, ownPre s a 7, lockPre s a n true, armedW s rd, rlPre s rl], placeNow s a with
  | .ok, .own off =>
    let loc := ownLoc s off
    let ok := s.me.resv == some (loc / 16)
    let s1 := if ok then store s (some s.cur) loc (toBytes n (s.x rs2).toNat) false else s
    finish s .ok (retireWith s1 fun H => { H.setX rd.toNat (boolW (!ok)) with resv := none })
  | p, _ => finish s p s

/-- R91. -/
def execLrW (rd rs1 : BitVec 5) (_aq rl : Bool) (s : State) : Host.Outcome State Fault Refusal :=
  loadReserved rd rs1 4 rl s
/-- R91. -/
def execLrD (rd rs1 : BitVec 5) (_aq rl : Bool) (s : State) : Host.Outcome State Fault Refusal :=
  loadReserved rd rs1 8 rl s
/-- R91. -/
def execScW (rd rs1 rs2 : BitVec 5) (_aq rl : Bool) (s : State) : Host.Outcome State Fault Refusal :=
  storeCond rd rs1 rs2 4 rl s
/-- R91. -/
def execScD (rd rs1 rs2 : BitVec 5) (_aq rl : Bool) (s : State) : Host.Outcome State Fault Refusal :=
  storeCond rd rs1 rs2 8 rl s

/-! Base AMOs (R89, R231). Operation numbers are those of R232. -/

/-- A base AMO. -/
def baseAmo (op : Nat) (rd rs1 rs2 : BitVec 5) (n : Nat) (rl : Bool) (s : State) : Host.Outcome State Fault Refusal :=
  let a := s.x rs1
  amoInstr (.seq (accessPre s a n true false) (rlPre s rl)) .ok rd (.amo rd.toNat n) a op n (s.x rs2) none s

/-- R231. -/
def execAmoAddW (rd rs1 rs2 : BitVec 5) (_aq rl : Bool) (s : State) : Host.Outcome State Fault Refusal :=
  baseAmo 0 rd rs1 rs2 4 rl s

/-- R231. -/
def execAmoAddD (rd rs1 rs2 : BitVec 5) (_aq rl : Bool) (s : State) : Host.Outcome State Fault Refusal :=
  baseAmo 0 rd rs1 rs2 8 rl s

/-- R231. -/
def execAmoSwapW (rd rs1 rs2 : BitVec 5) (_aq rl : Bool) (s : State) : Host.Outcome State Fault Refusal :=
  baseAmo 1 rd rs1 rs2 4 rl s

/-- R231. -/
def execAmoSwapD (rd rs1 rs2 : BitVec 5) (_aq rl : Bool) (s : State) : Host.Outcome State Fault Refusal :=
  baseAmo 1 rd rs1 rs2 8 rl s

/-- R231. -/
def execAmoAndW (rd rs1 rs2 : BitVec 5) (_aq rl : Bool) (s : State) : Host.Outcome State Fault Refusal :=
  baseAmo 2 rd rs1 rs2 4 rl s

/-- R231. -/
def execAmoAndD (rd rs1 rs2 : BitVec 5) (_aq rl : Bool) (s : State) : Host.Outcome State Fault Refusal :=
  baseAmo 2 rd rs1 rs2 8 rl s

/-- R231. -/
def execAmoOrW (rd rs1 rs2 : BitVec 5) (_aq rl : Bool) (s : State) : Host.Outcome State Fault Refusal :=
  baseAmo 3 rd rs1 rs2 4 rl s

/-- R231. -/
def execAmoOrD (rd rs1 rs2 : BitVec 5) (_aq rl : Bool) (s : State) : Host.Outcome State Fault Refusal :=
  baseAmo 3 rd rs1 rs2 8 rl s

/-- R231. -/
def execAmoXorW (rd rs1 rs2 : BitVec 5) (_aq rl : Bool) (s : State) : Host.Outcome State Fault Refusal :=
  baseAmo 4 rd rs1 rs2 4 rl s

/-- R231. -/
def execAmoXorD (rd rs1 rs2 : BitVec 5) (_aq rl : Bool) (s : State) : Host.Outcome State Fault Refusal :=
  baseAmo 4 rd rs1 rs2 8 rl s

/-- R231. -/
def execAmoMinW (rd rs1 rs2 : BitVec 5) (_aq rl : Bool) (s : State) : Host.Outcome State Fault Refusal :=
  baseAmo 5 rd rs1 rs2 4 rl s

/-- R231. -/
def execAmoMinD (rd rs1 rs2 : BitVec 5) (_aq rl : Bool) (s : State) : Host.Outcome State Fault Refusal :=
  baseAmo 5 rd rs1 rs2 8 rl s

/-- R231. -/
def execAmoMaxW (rd rs1 rs2 : BitVec 5) (_aq rl : Bool) (s : State) : Host.Outcome State Fault Refusal :=
  baseAmo 6 rd rs1 rs2 4 rl s

/-- R231. -/
def execAmoMaxD (rd rs1 rs2 : BitVec 5) (_aq rl : Bool) (s : State) : Host.Outcome State Fault Refusal :=
  baseAmo 6 rd rs1 rs2 8 rl s

/-- R231. -/
def execAmoMinuW (rd rs1 rs2 : BitVec 5) (_aq rl : Bool) (s : State) : Host.Outcome State Fault Refusal :=
  baseAmo 7 rd rs1 rs2 4 rl s

/-- R231. -/
def execAmoMinuD (rd rs1 rs2 : BitVec 5) (_aq rl : Bool) (s : State) : Host.Outcome State Fault Refusal :=
  baseAmo 7 rd rs1 rs2 8 rl s

/-- R231. -/
def execAmoMaxuW (rd rs1 rs2 : BitVec 5) (_aq rl : Bool) (s : State) : Host.Outcome State Fault Refusal :=
  baseAmo 8 rd rs1 rs2 4 rl s

/-- R231. -/
def execAmoMaxuD (rd rs1 rs2 : BitVec 5) (_aq rl : Bool) (s : State) : Host.Outcome State Fault Refusal :=
  baseAmo 8 rd rs1 rs2 8 rl s

end Sys2Proof.Machine
end

