-- ==== Sys2Proof/Machine/Order.lean ====
section
/-! DEFINITION. Fences (R224, R225), acquire loads and release stores (R226), scoped AMOs (R232,
R233), fixed-point cells (R235 to R238) and RLQRY (R244). -/

namespace Sys2Proof.Machine
open Sys2Proof

/-- The narrowest scope of a hart that holds a data address; `host`: it resolved to host memory (R215). -/
def addrScope (s : State) (h : Nat) (a : Word) (host : Bool) : Nat :=
  match placeOf s h (some 0) a with
  | .own _ => 0
  | .pad t off => scopeOfLoc h (padBase t + off)
  | .window t off => scopeOfLoc h (winBase t + off)
  | .virt _ => if host then 4 else 3
  | _ => 4

/-- A gather of the hart has recorded a failing lane within scope k (R203). -/
def failedGather (s : State) (h k : Nat) : Option Gather :=
  (s.hart h).gathers.find? fun g =>
    match g.bad with
    | some (_, _, a) => decide (addrScope s h a g.host ≤ k)
    | none => false

/-- The deferred faults of R203 and R90 whose records hold an access within scope k; the gather's is
taken first, once all its lanes have landed. -/
def deferredPre (s : State) (h k : Nat) : Pre :=
  match failedGather s h k with
  | some g =>
    (match g.bad with
     | some (_, c, a) => if g.left = 0 then .trap c a (.gather g.vd) else .wait .issue
     | none => .ok)
  | none =>
    match (s.hart h).failed with
    | some f => if f.scope ≤ k then .trap f.cause f.addr .store else .ok
    | none => .ok

/-- The release wait of scope k with its deferred faults (R224). -/
def releasePre (s : State) (k : Nat) : Pre :=
  .seq (ready (!outstanding s s.cur k false)) (deferredPre s s.cur k)
/-- The acquire wait of scope k (R224). -/
def acquirePre (s : State) (k : Nat) : Pre := ready (!outstanding s s.cur k true)

/-- A fence of a kind at scope k. -/
def fencePre (s : State) (k : Nat) : FKind → Pre
  | .acq => acquirePre s k
  | .rel => releasePre s k
  | .full => .seq (releasePre s k) (acquirePre s k)

/-- R224. -/
def execFenceScoped (sc : Scope) (k : FKind) (s : State) : Host.Outcome State Fault Refusal :=
  finish s (fencePre s sc.code k) (retire s s.cur)

/-- The kind of a base FENCE, I counted as R and O as W; none where a set is empty (R225). -/
def baseKind (pred succ : BitVec 4) : Option FKind :=
  let r (v : BitVec 4) := v.getLsbD 1 || v.getLsbD 3
  let w (v : BitVec 4) := v.getLsbD 0 || v.getLsbD 2
  if pred = 0 ∨ succ = 0 then none
  else if !w pred then some .acq
  else if !r succ then some .rel
  else some .full

/-- R225. -/
def execFence (_fm pred succ : BitVec 4) (_rd _rs1 : BitVec 5) (s : State) : Host.Outcome State Fault Refusal :=
  finish s (match baseKind pred succ with | some k => fencePre s 3 k | none => .ok) (retire s s.cur)
/-- R225: a full fence at package scope. -/
def execFenceTso (_rd _rs1 : BitVec 5) (s : State) : Host.Outcome State Fault Refusal :=
  finish s (fencePre s 3 .full) (retire s s.cur)
/-- R225: PAUSE orders nothing. -/
def execPause (s : State) : Host.Outcome State Fault Refusal :=
  finish s .ok (retire s s.cur)

/-- Bytes of an LDA or STRL width. -/
def memWBytes : MemW → Nat
  | .d => 8
  | .w => 4

/-- R226. Later accesses wait for the held load; an own load has landed. -/
def execLda (rd rs1 : BitVec 5) (_sc : Scope) (wd : MemW) (s : State) : Host.Outcome State Fault Refusal :=
  let a := s.x rs1
  let n := memWBytes wd
  loadInstr (accessPre s a n false true) (some rd) (.load rd.toNat false n true) a n (.load n) s
/-- R226. -/
def execStrl (rs1 rs2 : BitVec 5) (sc : Scope) (wd : MemW) (s : State) : Host.Outcome State Fault Refusal :=
  let a := s.x rs1
  let n := memWBytes wd
  storeInstr (.seq (accessPre s a n true true) (releasePre s sc.code)) a (toBytes n (s.x rs2).toNat) s

/-! Scoped AMOs (R233). -/

/-- A scoped AMO: checks, release wait, the operation at its home. A deferred fault comes after an own cell's poison and
before ARMED_WRITE (R105). -/
def scopedAmo (op : Nat) (sc : Scope) (rd rs1 rs2 : BitVec 5) (cmp : Option Word) (s : State) : Host.Outcome State Fault Refusal :=
  let a := s.x rs1
  amoInstr (.seq (accessPre s a 8 true false) (ready (!outstanding s s.cur sc.code false))) (deferredPre s s.cur sc.code) rd
    (.amo rd.toNat 8) a op 8 (s.x rs2) cmp s

/-- R233. -/
def execAmoAddScoped (rd rs1 rs2 : BitVec 5) (sc : Scope) (s : State) : Host.Outcome State Fault Refusal :=
  scopedAmo 0 sc rd rs1 rs2 none s

/-- R233. -/
def execAmoSwapScoped (rd rs1 rs2 : BitVec 5) (sc : Scope) (s : State) : Host.Outcome State Fault Refusal :=
  scopedAmo 1 sc rd rs1 rs2 none s

/-- R233. -/
def execAmoAndScoped (rd rs1 rs2 : BitVec 5) (sc : Scope) (s : State) : Host.Outcome State Fault Refusal :=
  scopedAmo 2 sc rd rs1 rs2 none s

/-- R233. -/
def execAmoOrScoped (rd rs1 rs2 : BitVec 5) (sc : Scope) (s : State) : Host.Outcome State Fault Refusal :=
  scopedAmo 3 sc rd rs1 rs2 none s

/-- R233. -/
def execAmoXorScoped (rd rs1 rs2 : BitVec 5) (sc : Scope) (s : State) : Host.Outcome State Fault Refusal :=
  scopedAmo 4 sc rd rs1 rs2 none s

/-- R233. -/
def execAmoMinScoped (rd rs1 rs2 : BitVec 5) (sc : Scope) (s : State) : Host.Outcome State Fault Refusal :=
  scopedAmo 5 sc rd rs1 rs2 none s

/-- R233. -/
def execAmoMaxScoped (rd rs1 rs2 : BitVec 5) (sc : Scope) (s : State) : Host.Outcome State Fault Refusal :=
  scopedAmo 6 sc rd rs1 rs2 none s

/-- R233. -/
def execAmoMinuScoped (rd rs1 rs2 : BitVec 5) (sc : Scope) (s : State) : Host.Outcome State Fault Refusal :=
  scopedAmo 7 sc rd rs1 rs2 none s

/-- R233. -/
def execAmoMaxuScoped (rd rs1 rs2 : BitVec 5) (sc : Scope) (s : State) : Host.Outcome State Fault Refusal :=
  scopedAmo 8 sc rd rs1 rs2 none s

/-- R233. -/
def execAmoCasScoped (rd rs1 rs2 : BitVec 5) (sc : Scope) (s : State) : Host.Outcome State Fault Refusal :=
  scopedAmo 9 sc rd rs1 rs2 (some (s.x rd)) s

/-! Fixed-point cells. -/

/-- The checks of R237. -/
def cellPre (s : State) (a : Word) (write : Bool) : Pre :=
  .all [alignPre a 16 write,
    need (match placeNow s a with
      | .own _ => !isMordant s.cur
      | .pad t _ => isWorker t
      | .other n => n / 2 ^ 34 % 32 != 16
      | .virt _ => true
      | _ => false) (if write then 7 else 5) a,
    lockPre s a 16 write]

/-- FXADD and FXCLR: at retirement on the own scratchpad, else posted (R237). -/
def cellWrite (a : Word) (op : MemOp) (s : State) : Host.Outcome State Fault Refusal :=
  match cellPre s a true with
  | .ok =>
    match placeNow s a with
    | .own off => finish s .ok (retire (cellAt s (some s.cur) (ownLoc s off) op).1 s.cur)
    | _ => finish s (ready (placesFor s s.cur 1)) (sendPosted s a op)
  | p => finish s p s

/-- The FXRD forms (R238): own cells at once, else held. -/
def cellRead (armed : Option (BitVec 5)) (rd : BitVec 5) (form : Nat) (a : Word) (s : State) : Host.Outcome State Fault Refusal :=
  match cellPre s a false with
  | .ok =>
    match placeNow s a with
    | .own off =>
      match cellAt s (some s.cur) (ownLoc s off) .fxRead, armedD s armed with
      | (s1, .data bits none), .ok => landNow s1 (.fxrd rd.toNat form) a bits.toNat
      | (s1, .data _ none), q => finish s1 q s1
      | (s1, _), _ => finish s1 (.trap 27 a) s1
    | _ => sendChecked s (armedD s armed) (.fxrd rd.toNat form) a .fxRead .fxRead
  | p => finish s p s

/-- R238. -/
def execFxadd (rs1 rs2 : BitVec 5) (s : State) : Host.Outcome State Fault Refusal :=
  cellWrite (s.x rs1) (.fxAdd (s.f rs2)) s
/-- R238. -/
def execFxclr (rs1 : BitVec 5) (s : State) : Host.Outcome State Fault Refusal :=
  cellWrite (s.x rs1) .fxClear s
/-- R238. -/
def execFxrd (rd rs1 : BitVec 5) (s : State) : Host.Outcome State Fault Refusal :=
  cellRead none rd 0 (s.x rs1) s
/-- R238. -/
def execFxrdLo (rd rs1 : BitVec 5) (s : State) : Host.Outcome State Fault Refusal :=
  cellRead (some rd) rd 1 (s.x rs1) s
/-- R238. -/
def execFxrdHi (rd rs1 : BitVec 5) (s : State) : Host.Outcome State Fault Refusal :=
  cellRead (some rd) rd 2 (s.x rs1) s

/-- RLQRY's answer for a compared address (R244). -/
def lockQuery (C : Core) (slot : Option Nat) (a : Nat) : Word :=
  let e := C.locks.filter fun (_, l) => decide (l.lo ≤ a ∧ a ≤ l.hi) && (decide (2 ^ 63 ≤ a) || l.slot == slot)
  word ((if e.isEmpty then 0 else 2 ^ 63) + (if e.any fun (_, l) => l.dst then 2 ^ 62 else 0)
    + (if e.any fun (_, l) => !l.dst then 2 ^ 61 else 0) + (e.map fun (n, _) => 2 ^ n).sum)
/-- R244. -/
def execRlqry (rd rs1 : BitVec 5) (s : State) : Host.Outcome State Fault Refusal :=
  finish s (armedW s rd)
    (retireX s rd (lockQuery (s.core (coreOf s.cur)) (slotOf s.me) (canonAddr s s.cur (s.x rs1))))

end Sys2Proof.Machine
end

