-- ==== Sys2Proof/Machine/Shape.lean ====
section
/-! DEFINITION. Shape records and their walks (R119, R120), and stream bindings as operands: what an
instruction reads from and writes to v24-v31 (R121 to R127, R307 to R310). -/

namespace Sys2Proof.Machine
open Sys2Proof

/-! Shape records. -/

/-- A number of `n` bytes at offset `o` of a byte list. -/
def leAt (l : List Byte) (o n : Nat) : Nat := ofBytes ((l.drop o).take n)

/-- The fields of a 32-byte shape record (R119). -/
def parseShape (l : List Byte) : Shape :=
  { base := leAt l 0 8, e0 := leAt l 8 2, e1 := leAt l 10 2, e2 := leAt l 12 2, e3 := leAt l 14 2
    s0 := toSigned 32 (leAt l 16 4), s1 := toSigned 32 (leAt l 20 4), s2 := toSigned 32 (leAt l 24 4)
    ty := leAt l 28 1 % 16, ra := leAt l 28 1 / 16 % 2 == 1
    rsv := leAt l 28 1 / 32 != 0 || leAt l 29 3 != 0 }

/-- Bits of an element of TYPE: 4 for t4. -/
def elemBits (ty : Nat) : Nat := match Fmt.ofCode ty with | some f => f.width | none => 8

namespace Shape
/-- Bytes between elements' starts: max(z, 1). -/
def step (r : Shape) : Nat := max 1 (elemBits r.ty / 8)
/-- R119. -/
def valid (r : Shape) : Bool :=
  !r.rsv && decide (r.ty < 13) && r.base % r.step == 0 && r.s0 % r.step == 0 && r.s1 % r.step == 0 && r.s2 % r.step == 0
    && (r.ty != 11 || r.e0 % 2 == 0)
def count (r : Shape) : Nat := r.e0 * r.e1 * r.e2 * r.e3
/-- The address of element k in the order of R120, and whether it is the upper half of its byte. -/
def elem (r : Shape) (k : Nat) : Word × Bool :=
  let i0 := k % r.e0
  let k := k / r.e0
  let off := (k % r.e1 : Int) * r.s0 + (k / r.e1 % r.e2 : Int) * r.s1 + (k / r.e1 / r.e2 : Int) * r.s2
  if r.ty = 11 then (wordZ (r.base + (i0 / 2 : Nat) + off), i0 % 2 == 1) else (wordZ (r.base + (i0 * r.step : Nat) + off), false)
/-- Lanes of an image. -/
def lanesOf (r : Shape) : Nat := 512 / elemBits r.ty
/-- Number of images (R120). -/
def images (r : Shape) : Nat :=
  let n := r.lanesOf
  if r.count = 0 then 0 else if r.ra then r.e1 * r.e2 * r.e3 * ((r.e0 + n - 1) / n) else (r.count + n - 1) / n
/-- The elements of image k: lanes 0, 1, … in order (R120). -/
def imageElems (r : Shape) (k : Nat) : List Nat :=
  let n := r.lanesOf
  if r.ra then
    let per := (r.e0 + n - 1) / n
    (List.range (min n (r.e0 - k % per * n))).map fun i => k / per * r.e0 + k % per * n + i
  else (List.range (min n (r.count - k * n))).map fun i => k * n + i
/-- Bytes of one element's access. -/
def elemBytes (r : Shape) : Nat := r.step
end Shape

/-! Lanes of one 64-byte line (R222). -/

/-- Put x into its group, groups in order of their first member. -/
def addTo {α : Type} (k : Nat) (x : α) : List (Nat × List α) → List (Nat × List α)
  | [] => [(k, [x])]
  | (j, l) :: r => if j = k then (j, l ++ [x]) :: r else (j, l) :: addTo k x r
/-- Group a list by a key. -/
def groupOn {α : Type} (key : α → Nat) (l : List α) : List (Nat × List α) :=
  l.foldl (fun acc x => addTo (key x) x acc) []

/-- Write lanes of one line in order: byte offsets and bytes. A granule (in HBM and host memory, a line)
of which every byte is written is written whole (R131, R193). -/
def storeSegs (s : State) (wr : Option Nat) (line : Nat) (segs : List (Nat × List Byte)) : State :=
  let s := segs.foldl (fun s (off, bytes) => store s wr (line + off) bytes false) s
  let whole (lo n : Nat) : Bool := (List.range n).all fun i => segs.any fun (off, b) => decide (off ≤ lo + i ∧ lo + i < off + b.length)
  if isHbmLoc line || isHostLoc line then
    (if whole 0 64 then [0, 16, 32, 48].foldl (fun s o => s.setPoi (line + o) false) s else s)
  else [0, 16, 32, 48].foldl (fun s o => if whole o 16 then s.setPoi (line + o) false else s) s

/-- Read lanes of one line: byte offset, bytes, bit position in the result; with the bit position and
offset of the first poisoned lane. -/
def loadSegs (s : State) (line : Nat) : List (Nat × Nat × Nat) → State × VReg × Option (Nat × Nat)
  | [] => (s, 0, none)
  | (off, n, pos) :: r =>
    let (s1, v, bad) := load s (line + off) n
    let (s2, acc, bad2) := loadSegs s1 line r
    (s2, acc ||| (BitVec.ofNat 512 v <<< pos), if bad.isSome then some (pos, off) else bad2)

/-- Segments of a line by ascending offset. -/
def addSeg (x : Nat × Nat × Nat) : List (Nat × Nat × Nat) → List (Nat × Nat × Nat)
  | [] => [x]
  | y :: r => if x.1 ≤ y.1 then x :: y :: r else y :: addSeg x r
def bySegs (l : List (Nat × Nat × Nat)) : List (Nat × Nat × Nat) := l.foldr addSeg []

/-! Streams as operands. -/

def streamOf (H : Hart) (r : Nat) : Option Stream := SMap.find? H.streams r
def setStream (H : Hart) (r : Nat) (t : Stream) : Hart := { H with streams := SMap.put H.streams r t }

/-- STREAM with a code (R149). -/
def streamBad (code r : Nat) : Pre := .trap 54 (word (code + r * 2 ^ 8))

/-- Reading v register r as a source with lane width w, none when untyped (R123, R125, R126, R309). -/
def srcPre (s : State) (w : Option Nat) (r : Nat) : Pre :=
  match streamOf s.me r with
  | none => .ok
  | some t =>
    match t.kind with
    | .src shp =>
      if shp.images ≤ t.pos then streamBad 1 r
      else match t.buf with
        | [] => .wait .issue
        | .bad c a :: _ => .trap c a
        | .ok _ :: _ =>
          match w with
          | some w => if elemBits shp.ty = w then .ok else streamBad 3 r
          | none => .ok
    | .chIn _ => if t.buf.isEmpty then .wait (.armed .v r) else .ok
    | _ => streamBad 4 r

/-- The value an instruction reads from v register r. -/
def srcVal (H : Hart) (r : Nat) : VReg :=
  match streamOf H r with
  | some t => (match t.buf with | .ok v :: _ => v | _ => H.getV r)
  | none => H.getV r

/-- The image is consumed when its reader retires (R123, R309). -/
def consume (H : Hart) (r : Nat) : Hart :=
  match streamOf H r with
  | some t => setStream H r { t with pos := t.pos + 1, buf := t.buf.tail }
  | none => H

/-- Checks 1 to 3 of R88 for elements of a walk, in turn, the lowest failing element deciding. -/
def elemPre (s : State) (r : Shape) (l : List Nat) (write : Bool) : Pre :=
  let as := l.map fun k => (r.elem k).1
  let firstBad (p : Word → Pre) := match as.find? fun a => p a != .ok with | some a => p a | none => .ok
  .all [firstBad fun a => alignPre a r.elemBytes write, firstBad fun a => spacePre s a r.elemBytes write false,
        firstBad fun a => lockPre s a r.elemBytes write]

/-- Writing v register r as a destination with lane width w (R124, R126, R310). -/
def dstPre (s : State) (w : Option Nat) (r : Nat) : Pre :=
  match streamOf s.me r with
  | none => .ok
  | some t =>
    match t.kind with
    | .dst shp =>
      .all [elemPre s shp (if t.pos < shp.images then shp.imageElems t.pos else []) true,
        (if t.pos < shp.images then .ok else streamBad 2 r),
        (match w with | some w => if elemBits shp.ty = w then .ok else streamBad 3 r | none => .ok),
        ready (decide (t.out.length < 4))]
    | .chOut _ _ _ => .seq (ready (decide (t.unacked < 4))) (ready (placesFor s s.cur 1))
    | _ => streamBad 4 r

/-- Reading and writing v register r in one instruction: never a stream (R134). -/
def bothPre (s : State) (r : Nat) : Pre := if (streamOf s.me r).isNone then .ok else streamBad 4 r

/-- Write v register r of hart h: the register, the next image of a destination stream, or a channel
packet (R124, R310). -/
def vwriteAt (s : State) (h r : Nat) (v : VReg) : State :=
  match streamOf (s.hart h) r with
  | none => s.modHart h fun H => H.setV r v
  | some t =>
    match t.kind with
    | .chOut tag ep hart =>
      send (s.modHart h fun H => setStream H r { t with pos := t.pos + 1, seq := (t.seq + 1) % 16, unacked := t.unacked + 1 })
        h (.channel ep hart tag t.seq v r false)
    | _ => s.modHart h fun H => setStream H r { t with pos := t.pos + 1, out := t.out ++ [(t.pos, v)] }
def vwrite (s : State) (r : Nat) (v : VReg) : State := vwriteAt s s.cur r v

/-- The latency of fixed-latency results and the sc hold (R59): H0 as the word issued, H after it. -/
def withLatency (H0 H : Hart) (L sc : Nat) (regs : List (RFile × Nat)) : Hart :=
  { H with
    pend := H.pend ++ regs.map fun (q, n) =>
      { file := q, reg := n, old := H0.getReg q n, new := H.getReg q n, due := H0.hold - 1 + L }
    hold := H0.hold + sc }

/-- The end of a custom-0 word: sources consumed, retired, latency and sc applied. -/
def vretire (s0 s : State) (srcs : List Nat) (L : Nat) (sc : BitVec 3) (regs : List (RFile × Nat)) : State :=
  let regs := regs.filter fun (q, n) => q != .v || (streamOf s0.me n).isNone
  let s := s.modHart s.cur fun H => withLatency s0.me (srcs.foldl consume H) L sc.toNat regs
  retire s s.cur

end Sys2Proof.Machine
end

