-- ==== Sys2Proof/Machine/Vec.lean ====
section
/-! DEFINITION. The custom-0 instructions of the vector chapter (R111 to R117, R132 to R144): lane
operations on the type in force, their sources and destination as registers or streams, latency and
stall count. -/

namespace Sys2Proof.Machine
open Sys2Proof

/-! Lane operations. -/

/-- A float lane operation, rounded once to the type. -/
def fltLane (t : Fmt) (g : FVal → FVal → FVal) (a b : Nat) : Nat :=
  match ffmt t with
  | some F => rne F (g (F.dec a) (F.dec b))
  | none => 0

/-- An integer lane read as the type reads it: signed for i types, unsigned for n types. -/
def intLane (t : Fmt) (a : Nat) : Int := if t.isSig then toSigned t.width a else (a : Int)

/-- VADD, VSUB, VMUL on one lane (R133). -/
def laneAdd (t : Fmt) (a b : Nat) : Nat :=
  if t.isInt then (a + b) % 2 ^ t.width else fltLane t (FVal.add false) a b
def laneSub (t : Fmt) (a b : Nat) : Nat :=
  if t.isInt then (a + 2 ^ t.width - b) % 2 ^ t.width else fltLane t (fun x y => FVal.add false x y.neg) a b
def laneMul (t : Fmt) (a b : Nat) : Nat :=
  if t.isInt then a * b % 2 ^ t.width else fltLane t FVal.mul a b

/-- VMIN and VMAX on one lane (R133). -/
def laneMinMax (isMax : Bool) (t : Fmt) (a b : Nat) : Nat :=
  match ffmt t with
  | some F =>
    (match F.dec a, F.dec b with
     | .nan, .nan => F.canonNaN
     | .nan, _ => b
     | _, .nan => a
     | x, y => if (x.lt y || (x.eq y && x.isNeg && !y.isNeg)) == isMax then b else a)
  | none => if decide (intLane t a < intLane t b) == isMax then b else a

/-- VFMA (sub = false) and VFMS on one lane: one rounding (R134). -/
def laneFma (sub : Bool) (t : Fmt) (d a b : Nat) : Nat :=
  match ffmt t with
  | some F =>
    let p := (F.dec a).mul (F.dec b)
    rne F (FVal.add false (F.dec d) (if sub then p.neg else p))
  | none => 0

/-- VCMP on one lane (R139). -/
def laneCmp (cc : Cc) (t : Fmt) (a b : Nat) : Bool :=
  match ffmt t with
  | some F =>
    let x := F.dec a
    let y := F.dec b
    (match cc with
     | .eq => x.eq y
     | .ne => !x.eq y
     | .lt => x.lt y
     | .le => x.lt y || x.eq y)
  | none =>
    let x := intLane t a
    let y := intLane t b
    (match cc with
     | .eq => decide (x = y)
     | .ne => decide (x ≠ y)
     | .lt => decide (x < y)
     | .le => decide (x ≤ y))

/-- Shifts on one lane of width w: 0 left, 1 right, 2 arithmetic right (R136). -/
def laneShift (k w a b : Nat) : Nat :=
  let n := b % w
  match k with
  | 0 => a * 2 ^ n % 2 ^ w
  | 1 => a / 2 ^ n
  | _ => ofSigned w (toSigned w a / (2 ^ n : Int))

/-- VABS and VNEG on one lane (R137). -/
def laneAbs (t : Fmt) (a : Nat) : Nat :=
  match ffmt t with
  | some F => if F.dec a = .nan then F.canonNaN else a % F.signBit
  | none => if 2 ^ (t.width - 1) ≤ a then (2 ^ t.width - a) % 2 ^ t.width else a
def laneNeg (t : Fmt) (a : Nat) : Nat :=
  match ffmt t with
  | some F => if F.dec a = .nan then F.canonNaN else (a + F.signBit) % (2 * F.signBit)
  | none => (2 ^ t.width - a) % 2 ^ t.width

/-- A special function on one lane (R144). -/
def laneSpecial (g : FFmt → FVal → Nat) (t : Fmt) (a : Nat) : Nat :=
  match ffmt t with
  | some F => g F (F.dec a)
  | none => 0

/-- The value i in a type (R137). -/
def laneIdx (t : Fmt) (i : Nat) : Nat :=
  match ffmt t with
  | some F => rne F (.fin false i 0)
  | none => i % 2 ^ t.width

/-- One level of the reduction tree: neighbours combined (R138). -/
def pairUp (g : Nat → Nat → Nat) : List Nat → List Nat
  | a :: b :: r => g a b :: pairUp g r
  | l => l
/-- The tree of R138 over 2^k lanes. -/
def treeOf (g : Nat → Nat → Nat) : Nat → List Nat → Nat
  | 0, l => l.headD 0
  | k + 1, l => treeOf g k (pairUp g l)

/-! Whole registers. -/

def map1 (w : Nat) (g : Nat → Nat) (a : VReg) : VReg := ofLanes w ((lanes w a).map g)
def map2 (w : Nat) (g : Nat → Nat → Nat) (a b : VReg) : VReg := ofLanes w (List.zipWith g (lanes w a) (lanes w b))
def map3 (w : Nat) (g : Nat → Nat → Nat → Nat) (d a b : VReg) : VReg :=
  ofLanes w (List.zipWith (fun g b => g b) (List.zipWith g (lanes w d) (lanes w a)) (lanes w b))
def fill (w v : Nat) : VReg := ofLanes w (List.replicate (512 / w) v)
/-- A reduction broadcast to every lane. -/
def reduce (w : Nat) (g : Nat → Nat → Nat) (a : VReg) : VReg := fill w (treeOf g (Nat.log2 (512 / w)) (lanes w a))

/-- Products of four 8-bit lanes added to each 32-bit lane (R135). -/
def dot4 (ta tb : Fmt) (d a b : VReg) : VReg :=
  let p := List.zipWith (fun x y => intLane ta x * intLane tb y) (lanes 8 a) (lanes 8 b)
  ofLanes 32 ((List.range 16).map fun i =>
    ofSigned 32 (((lanes 32 d).getD i 0 : Int) + (List.map (fun j => p.getD (4 * i + j) 0) [0, 1, 2, 3]).sum))

/-- R142. -/
def permute (w : Nat) (a b : VReg) : VReg :=
  let l := lanes w a
  ofLanes w ((lanes w b).map fun k => l.getD k 0)
/-- R143: dn takes lane i + k, up lane i - k, zeros where there is none. -/
def slide (w k : Nat) (up : Bool) (a : VReg) : VReg :=
  let l := lanes w a
  if up then ofLanes w (List.replicate k 0 ++ l) else ofLanes w (l.drop k)

/-! Shapes of custom-0 words. -/

/-- The formats in force, or the illegal instruction of R65. -/
def typed0 (t : VType) (s : State) (k : Payload → Host.Outcome State Fault Refusal) : Host.Outcome State Fault Refusal :=
  match typesOf t s.me with
  | some p => k p
  | none => finish s (.trap 2 (tvalOf 2 (s.me.ir.setWidth 64)) .prefix_) s

/-- Two sources and a destination of lane width w. -/
def vbin (wS wD : Option Nat) (vd vs1 vs2 : BitVec 5) (L : Nat) (sc : BitVec 3) (g : VReg → VReg → VReg) (s : State) :
    Host.Outcome State Fault Refusal :=
  let H := s.me
  finish s (.all [srcPre s wS vs1.toNat, srcPre s wS vs2.toNat, dstPre s wD vd.toNat])
    (vretire s (vwrite s vd.toNat (g (srcVal H vs1.toNat) (srcVal H vs2.toNat))) [vs1.toNat, vs2.toNat] L sc [(.v, vd.toNat)])

/-- Two sources and a register that is read and written. -/
def vacc (wS : Nat) (vd vs1 vs2 : BitVec 5) (L : Nat) (sc : BitVec 3) (g : VReg → VReg → VReg → VReg) (s : State) :
    Host.Outcome State Fault Refusal :=
  let H := s.me
  finish s (.all [srcPre s (some wS) vs1.toNat, srcPre s (some wS) vs2.toNat, bothPre s vd.toNat])
    (vretire s (vwrite s vd.toNat (g (H.getV vd.toNat) (srcVal H vs1.toNat) (srcVal H vs2.toNat))) [vs1.toNat, vs2.toNat] L sc
      [(.v, vd.toNat)])

/-- One source and a destination. -/
def vun (wS wD : Option Nat) (vd vs1 : BitVec 5) (L : Nat) (sc : BitVec 3) (g : VReg → VReg) (s : State) :
    Host.Outcome State Fault Refusal :=
  let H := s.me
  finish s (.all [srcPre s wS vs1.toNat, dstPre s wD vd.toNat])
    (vretire s (vwrite s vd.toNat (g (srcVal H vs1.toNat))) [vs1.toNat] L sc [(.v, vd.toNat)])

/-- No vector source. -/
def vgen (w : Nat) (vd : BitVec 5) (L : Nat) (sc : BitVec 3) (v : VReg) (s : State) : Host.Outcome State Fault Refusal :=
  finish s (dstPre s (some w) vd.toNat) (vretire s (vwrite s vd.toNat v) [] L sc [(.v, vd.toNat)])

/-- Lane width of a typed word. -/
def wOf (t : Fmt) : Option Nat := some t.width
/-- L of R117: integer and float cases. -/
def latOf (t : Fmt) (int flt : Nat) : Nat := if t.isInt then int else flt

/-- R133. -/
def execVadd (vd vs1 vs2 : BitVec 5) (t : VType) (sc : BitVec 3) (s : State) : Host.Outcome State Fault Refusal :=
  typed0 t s fun p => vbin (wOf p.fd) (wOf p.fd) vd vs1 vs2 (latOf p.fd 2 4) sc (map2 p.fd.width (laneAdd p.fd)) s

/-- R133. -/
def execVsub (vd vs1 vs2 : BitVec 5) (t : VType) (sc : BitVec 3) (s : State) : Host.Outcome State Fault Refusal :=
  typed0 t s fun p => vbin (wOf p.fd) (wOf p.fd) vd vs1 vs2 (latOf p.fd 2 4) sc (map2 p.fd.width (laneSub p.fd)) s

/-- R133. -/
def execVmul (vd vs1 vs2 : BitVec 5) (t : VType) (sc : BitVec 3) (s : State) : Host.Outcome State Fault Refusal :=
  typed0 t s fun p => vbin (wOf p.fd) (wOf p.fd) vd vs1 vs2 (latOf p.fd 3 4) sc (map2 p.fd.width (laneMul p.fd)) s

/-- R133. -/
def execVmin (vd vs1 vs2 : BitVec 5) (t : VType) (sc : BitVec 3) (s : State) : Host.Outcome State Fault Refusal :=
  typed0 t s fun p => vbin (wOf p.fd) (wOf p.fd) vd vs1 vs2 (latOf p.fd 2 4) sc (map2 p.fd.width (laneMinMax false p.fd)) s

/-- R133. -/
def execVmax (vd vs1 vs2 : BitVec 5) (t : VType) (sc : BitVec 3) (s : State) : Host.Outcome State Fault Refusal :=
  typed0 t s fun p => vbin (wOf p.fd) (wOf p.fd) vd vs1 vs2 (latOf p.fd 2 4) sc (map2 p.fd.width (laneMinMax true p.fd)) s

/-- R134. -/
def execVfma (vd vs1 vs2 : BitVec 5) (t : VType) (sc : BitVec 3) (s : State) : Host.Outcome State Fault Refusal :=
  typed0 t s fun p => vacc p.fd.width vd vs1 vs2 4 sc (map3 p.fd.width (laneFma false p.fd)) s

/-- R134. -/
def execVfms (vd vs1 vs2 : BitVec 5) (t : VType) (sc : BitVec 3) (s : State) : Host.Outcome State Fault Refusal :=
  typed0 t s fun p => vacc p.fd.width vd vs1 vs2 4 sc (map3 p.fd.width (laneFma true p.fd)) s

/-- R135. -/
def execVdot4 (vd vs1 vs2 : BitVec 5) (t : VType) (sc : BitVec 3) (s : State) : Host.Outcome State Fault Refusal :=
  typed0 t s fun p => vacc 8 vd vs1 vs2 4 sc (dot4 p.fa p.fb) s

/-- R136. -/
def execVshl (vd vs1 vs2 : BitVec 5) (t : VType) (sc : BitVec 3) (s : State) : Host.Outcome State Fault Refusal :=
  typed0 t s fun p => vbin (wOf p.fd) (wOf p.fd) vd vs1 vs2 2 sc (map2 p.fd.width (laneShift 0 p.fd.width)) s

/-- R136. -/
def execVshr (vd vs1 vs2 : BitVec 5) (t : VType) (sc : BitVec 3) (s : State) : Host.Outcome State Fault Refusal :=
  typed0 t s fun p => vbin (wOf p.fd) (wOf p.fd) vd vs1 vs2 2 sc (map2 p.fd.width (laneShift 1 p.fd.width)) s

/-- R136. -/
def execVsra (vd vs1 vs2 : BitVec 5) (t : VType) (sc : BitVec 3) (s : State) : Host.Outcome State Fault Refusal :=
  typed0 t s fun p => vbin (wOf p.fd) (wOf p.fd) vd vs1 vs2 2 sc (map2 p.fd.width (laneShift 2 p.fd.width)) s

/-- R136. -/
def execVand (vd vs1 vs2 : BitVec 5) (sc : BitVec 3) (s : State) : Host.Outcome State Fault Refusal :=
  vbin none none vd vs1 vs2 2 sc (fun a b => a &&& b) s

/-- R136. -/
def execVor (vd vs1 vs2 : BitVec 5) (sc : BitVec 3) (s : State) : Host.Outcome State Fault Refusal :=
  vbin none none vd vs1 vs2 2 sc (fun a b => a ||| b) s

/-- R136. -/
def execVxor (vd vs1 vs2 : BitVec 5) (sc : BitVec 3) (s : State) : Host.Outcome State Fault Refusal :=
  vbin none none vd vs1 vs2 2 sc (fun a b => a ^^^ b) s

/-- R139. -/
def execVcmp (md : BitVec 3) (cc : Cc) (vs1 vs2 : BitVec 5) (t : VType) (sc : BitVec 3) (s : State) : Host.Outcome State Fault Refusal :=
  typed0 t s fun p =>
    let H := s.me
    let w := p.fa.width
    let r := List.zipWith (laneCmp cc p.fa) (lanes w (srcVal H vs1.toNat)) (lanes w (srcVal H vs2.toNat))
    finish s (.all [srcPre s (some w) vs1.toNat, srcPre s (some w) vs2.toNat])
      (vretire s (s.modHart s.cur fun H => H.setM md.toNat (ofMask r)) [vs1.toNat, vs2.toNat] 2 sc [(.m, md.toNat)])

/-- Bits of a lane width. -/
def VWidth.bits : VWidth → Nat
  | .w8 => 8
  | .w16 => 16
  | .w32 => 32

/-- R142. -/
def execVperm (vd vs1 vs2 : BitVec 5) (w : VWidth) (sc : BitVec 3) (s : State) : Host.Outcome State Fault Refusal :=
  vbin (some (VWidth.bits w)) (some (VWidth.bits w)) vd vs1 vs2 3 sc (permute (VWidth.bits w)) s

/-- R137. -/
def execVabs (vd vs1 : BitVec 5) (t : VType) (sc : BitVec 3) (s : State) : Host.Outcome State Fault Refusal :=
  typed0 t s fun p => vun (wOf p.fd) (wOf p.fd) vd vs1 2 sc (map1 p.fd.width (laneAbs p.fd)) s

/-- R137. -/
def execVneg (vd vs1 : BitVec 5) (t : VType) (sc : BitVec 3) (s : State) : Host.Outcome State Fault Refusal :=
  typed0 t s fun p => vun (wOf p.fd) (wOf p.fd) vd vs1 2 sc (map1 p.fd.width (laneNeg p.fd)) s

/-- R137: 512 bits unchanged, whatever the type. -/
def execVmov (vd vs1 : BitVec 5) (t : VType) (sc : BitVec 3) (s : State) : Host.Outcome State Fault Refusal :=
  typed0 t s fun _ => vun none none vd vs1 2 sc (fun a => a) s

/-- R144. -/
def execVexp2 (vd vs1 : BitVec 5) (t : VType) (sc : BitVec 3) (s : State) : Host.Outcome State Fault Refusal :=
  typed0 t s fun p => vun (wOf p.fd) (wOf p.fd) vd vs1 (if p.fd = .f32 then 14 else 10) sc (map1 p.fd.width (laneSpecial exp2 p.fd)) s

/-- R144. -/
def execVlog2 (vd vs1 : BitVec 5) (t : VType) (sc : BitVec 3) (s : State) : Host.Outcome State Fault Refusal :=
  typed0 t s fun p => vun (wOf p.fd) (wOf p.fd) vd vs1 (if p.fd = .f32 then 14 else 10) sc (map1 p.fd.width (laneSpecial log2 p.fd)) s

/-- R144. -/
def execVrcp (vd vs1 : BitVec 5) (t : VType) (sc : BitVec 3) (s : State) : Host.Outcome State Fault Refusal :=
  typed0 t s fun p => vun (wOf p.fd) (wOf p.fd) vd vs1 (if p.fd = .f32 then 14 else 10) sc (map1 p.fd.width (laneSpecial rcp p.fd)) s

/-- R144. -/
def execVrsq (vd vs1 : BitVec 5) (t : VType) (sc : BitVec 3) (s : State) : Host.Outcome State Fault Refusal :=
  typed0 t s fun p => vun (wOf p.fd) (wOf p.fd) vd vs1 (if p.fd = .f32 then 14 else 10) sc (map1 p.fd.width (laneSpecial rsq p.fd)) s

/-- R138. -/
def execVrsum (vd vs1 : BitVec 5) (t : VType) (sc : BitVec 3) (s : State) : Host.Outcome State Fault Refusal :=
  typed0 t s fun p => vun (wOf p.fd) (wOf p.fd) vd vs1 (if p.fd = .f32 then 10 else latOf p.fd 6 12) sc (reduce p.fd.width (laneAdd p.fd)) s

/-- R138. -/
def execVrmax (vd vs1 : BitVec 5) (t : VType) (sc : BitVec 3) (s : State) : Host.Outcome State Fault Refusal :=
  typed0 t s fun p => vun (wOf p.fd) (wOf p.fd) vd vs1 6 sc (reduce p.fd.width (laneMinMax true p.fd)) s

/-- R138. -/
def execVrmin (vd vs1 : BitVec 5) (t : VType) (sc : BitVec 3) (s : State) : Host.Outcome State Fault Refusal :=
  typed0 t s fun p => vun (wOf p.fd) (wOf p.fd) vd vs1 6 sc (reduce p.fd.width (laneMinMax false p.fd)) s

/-- R137. -/
def execVidx (vd : BitVec 5) (t : VType) (sc : BitVec 3) (s : State) : Host.Outcome State Fault Refusal :=
  typed0 t s fun p => vgen p.fd.width vd 2 sc (ofLanes p.fd.width ((List.range (laneCount p.fd.width)).map (laneIdx p.fd))) s

/-- R137. -/
def execVsplat (vd rs1 : BitVec 5) (t : VType) (sc : BitVec 3) (s : State) : Host.Outcome State Fault Refusal :=
  typed0 t s fun p =>
    let w := p.fd.width
    let v := match ffmt p.fd with
      | some F => rne F (f32F.dec (s.f rs1).toNat)
      | none => (s.x rs1).toNat % 2 ^ w
    vgen w vd 2 sc (fill w v) s

/-- R137. -/
def execVbcast (vd vs1 : BitVec 5) (t : VType) (sc : BitVec 3) (s : State) : Host.Outcome State Fault Refusal :=
  typed0 t s fun p => vun (wOf p.fd) (wOf p.fd) vd vs1 2 sc (fun a => fill p.fd.width ((lanes p.fd.width a).headD 0)) s

/-- R143. -/
def execVslideDn (vd vs1 k : BitVec 5) (w : VWidth) (sc : BitVec 3) (s : State) : Host.Outcome State Fault Refusal :=
  vun (some (VWidth.bits w)) (some (VWidth.bits w)) vd vs1 3 sc (slide (VWidth.bits w) k.toNat false) s

/-- R143. -/
def execVslideUp (vd vs1 k : BitVec 5) (w : VWidth) (sc : BitVec 3) (s : State) : Host.Outcome State Fault Refusal :=
  vun (some (VWidth.bits w)) (some (VWidth.bits w)) vd vs1 3 sc (slide (VWidth.bits w) k.toNat true) s

end Sys2Proof.Machine
end

