-- ==== Sys2Proof/Machine/VMem.lean ====
section
/-! DEFINITION. The custom-1 instructions: vector loads and stores (R128 to R131), stream bindings
(R121, R122), select and masks (R140, R141), sequencer loops (R145, R147), and the channel binding
CHBIND (R307, R308). -/

namespace Sys2Proof.Machine
open Sys2Proof

/-! Lanes of a vector access. -/

/-- One active lane: its number and address. -/
structure Lane where
  i : Nat
  a : Word
  deriving DecidableEq, Repr

/-- The active lanes and their addresses (R129). -/
def activeLanes (H : Hart) (w : Nat) (mk : BitVec 3) (addr : Nat → Word) : List Lane :=
  ((List.range (512 / w)).filter fun i => mk == 0 || bit (H.getM mk.toNat) i).map fun i => ⟨i, addr i⟩

/-- Addresses of the unit-stride and strided forms (R129). -/
def laneAddr (s : State) (rs1 rs2 : BitVec 5) (w : Nat) (strided : Bool) (i : Nat) : Word :=
  if strided then s.x rs1 + word i * s.x rs2 else s.x rs1 + s.x rs2 + word (i * (w / 8))

/-- Checks 1 to 3 of R88 on lanes of n bytes: for each check in turn the lowest failing lane decides. -/
def lanesPre (s : State) (l : List Lane) (n : Nat) (write : Bool) : Pre :=
  let firstBad (p : Word → Pre) := match l.find? fun k => p k.a != .ok with | some k => p k.a | none => .ok
  .all [firstBad fun a => alignPre a n write, firstBad fun a => spacePre s a n write false,
        firstBad fun a => lockPre s a n write]

/-- The deferred fault of a completed gather whose register the instruction names (R203). -/
def gatherPre (H : Hart) (rs : List Nat) : Pre :=
  match H.gathers.find? fun g => rs.contains g.vd && g.left == 0 && g.bad.isSome with
  | some g => (match g.bad with | some (_, c, a) => .trap c a (.gather g.vd) | none => .ok)
  | none => .ok

/-- Own lanes, with the location of each, and the other lanes. -/
def ownLanes (s : State) (l : List Lane) : List (Lane × Nat) :=
  l.filterMap fun k => match placeNow s k.a with | .own off => some (k, ownLoc s off) | _ => none
def awayLanes (s : State) (l : List Lane) : List Lane :=
  l.filter fun k => match placeNow s k.a with | .own _ => false | _ => true

/-- The first address of a line and where its packet goes. -/
def lineWhere (s : State) (l : List Lane) : Nat × Where :=
  match l with
  | [] => (0, .new)
  | k :: _ =>
    let o := k.a.toNat % 64
    (k.a.toNat - o, match whereOf (placeNow s k.a) with | .at_ loc => .at_ (loc - o) | .new => .new)

/-- Read the own lanes: bits in place, and the lane that touches the lowest byte of the lowest poisoned granule
(position, cause, address; R194). -/
def readOwn (s : State) (w : Nat) : List (Lane × Nat) → State × VReg × Option (Nat × Nat × Word)
  | [] => (s, 0, none)
  | (k, loc) :: r =>
    let (s1, v, bad) := load s loc (w / 8)
    let (s2, acc, bad2) := readOwn s1 w r
    (s2, acc ||| (BitVec.ofNat 512 v <<< (k.i * w)),
      if bad.isSome then
        (match bad2 with
         | some (i, c, a) => if a.ult k.a then some (i, c, a) else some (k.i * w, 27, k.a)
         | none => some (k.i * w, 27, k.a))
      else bad2)

/-- The bits of the active lanes. -/
def laneMask (w : Nat) (l : List Lane) : VReg :=
  BitVec.ofNat 512 (pack w ((List.range (512 / w)).map fun i => if l.any fun k => k.i == i then 2 ^ w - 1 else 0))

/-- VLD and VLDS (R129, R130). The poison of own lanes and the replies of the others (R105, item 6) come before a gather's
deferred fault and a destination stream's causes. Where the register is a bound destination stream, an inactive lane of the
image has the bits that the register holds (DESIGN CHOICE, log 67). -/
def vectorLoad (vd rs1 rs2 : BitVec 5) (mk : BitVec 3) (w : Nat) (strided : Bool) (s : State) : Host.Outcome State Fault Refusal :=
  let H := s.me
  let l := activeLanes H w mk (laneAddr s rs1 rs2 w strided)
  if l.isEmpty then finish s (gatherPre H [vd.toNat]) (retire s s.cur)
  else
    let away := groupOn (fun k => k.a.toNat / 64) (awayLanes s l)
    match lanesPre s l (w / 8) false with
    | .ok =>
      let (s1, acc, bad) := readOwn s w (ownLanes s l)
      let later := Pre.seq (gatherPre H [vd.toNat]) (dstPre s (some w) vd.toNat)
      if away.isEmpty then
        finish s1 (.seq (match bad with | some (_, c, a) => .trap c a | none => .ok) later)
          (retire (vwrite s1 vd.toNat ((H.getV vd.toNat &&& ~~~laneMask w l) ||| acc)) s.cur)
      else
        let kind : HeldKind := match later with | .trap c t f => .late c t f | _ => .vload vd.toNat
        let s2 := s1.modHart s.cur fun H =>
          { H with stalled := none,
                   held := some { kind := kind, addr := s.x rs1, parts := away.length, mask := laneMask w l, acc := acc, bad := bad } }
        finish s (.seq (match later with | .wait q => .wait q | _ => .ok) (ready (placesFor s s.cur away.length)))
          (away.foldl (fun t (_, ks) =>
            let (a, wh) := lineWhere s ks
            send t s.cur (.mem a (.loads (bySegs (ks.map fun k => (k.a.toNat % 64, w / 8, k.i * w)))) (.held 0) wh)) s2)
    | p => finish s p s

/-- VST and VSTS (R129, R130). -/
def vectorStore (vs3 rs1 rs2 : BitVec 5) (mk : BitVec 3) (w : Nat) (strided : Bool) (s : State) : Host.Outcome State Fault Refusal :=
  let H := s.me
  let l := activeLanes H w mk (laneAddr s rs1 rs2 w strided)
  if l.isEmpty then finish s (gatherPre H [vs3.toNat]) (retire s s.cur)
  else
    let away := groupOn (fun k => k.a.toNat / 64) (awayLanes s l)
    let v := lanes w (srcVal H vs3.toNat)
    let dat (k : Lane) : List Byte := toBytes (w / 8) (v.getD k.i 0)
    let own := groupOn (fun k => k.2 / 64) (ownLanes s l)
    let s1 := own.foldl (fun t (line, ks) =>
      storeSegs t (some s.cur) (line * 64) (ks.map fun k => (k.2 % 64, dat k.1))) s
    let s2 := away.foldl (fun t (_, ks) =>
      let (a, wh) := lineWhere s ks
      send t s.cur (.mem a (.stores (ks.map fun k => (k.a.toNat % 64, dat k))) (.posted false) wh)) s1
    finish s (.all [srcPre s (some w) vs3.toNat, lanesPre s l (w / 8) true, gatherPre H [vs3.toNat],
        ready (placesFor s s.cur away.length)])
      (retireWith s2 fun H => consume H vs3.toNat)

/-- R129. -/
def execVld (vd rs1 rs2 : BitVec 5) (mk : BitVec 3) (w : VWidth) (s : State) : Host.Outcome State Fault Refusal :=
  vectorLoad vd rs1 rs2 mk (VWidth.bits w) false s
/-- R129. -/
def execVlds (vd rs1 rs2 : BitVec 5) (mk : BitVec 3) (w : VWidth) (s : State) : Host.Outcome State Fault Refusal :=
  vectorLoad vd rs1 rs2 mk (VWidth.bits w) true s
/-- R129. -/
def execVst (vs3 rs1 rs2 : BitVec 5) (mk : BitVec 3) (w : VWidth) (s : State) : Host.Outcome State Fault Refusal :=
  vectorStore vs3 rs1 rs2 mk (VWidth.bits w) false s
/-- R129. -/
def execVsts (vs3 rs1 rs2 : BitVec 5) (mk : BitVec 3) (w : VWidth) (s : State) : Host.Outcome State Fault Refusal :=
  vectorStore vs3 rs1 rs2 mk (VWidth.bits w) true s

/-! Stream bindings. -/

/-- The v register of a binding word. -/
def streamReg (v : BitVec 3) : Nat := 24 + v.toNat

/-- Dissolve a binding as SUNBIND does after its wait (R122). -/
def unbind (H : Hart) (r : Nat) : Hart := { H.setV r 0 with streams := SMap.del H.streams r }
/-- SUNBIND's wait: every appended image of a destination stream is handed over. -/
def unbindPre (H : Hart) (r : Nat) : Pre :=
  ready (match streamOf H r with
    | some t => (match t.kind with | .dst _ => t.out.isEmpty | _ => true)
    | none => true)

/-- Stream contexts of a core that are taken: for each hart its reservation, or its bindings when more (R267). -/
def contextsUsed (s : State) (c : Nat) : Nat :=
  ((hartsOf c).map fun h =>
    let H := s.hart h
    max (match H.task with | some t => t.streams | none => 0) H.streams.length).sum
/-- A binding of register r finds a context. -/
def contextPre (s : State) (r : Nat) : Pre :=
  let H := s.me
  ready ((streamOf H r).isSome || decide (H.streams.length < (match H.task with | some t => t.streams | none => 0))
    || decide (contextsUsed s (coreOf s.cur) < 16))

/-- An own-memory record address: 0x9, or 0x8 of the own core (R26). -/
def recordPre (s : State) (a : Word) (align : Nat) : Pre :=
  need (match placeNow s a with | .own _ => a.toNat % align == 0 | _ => false) 5 a
/-- The read of n bytes of a record follows the hart's earlier accesses to their banks (R217), and meets the first
poisoned byte (R194). -/
def poisonPre (s : State) (a : Word) (n : Nat) : Pre :=
  match placeNow s a with
  | .own off =>
    let loc := ownLoc s off
    .seq (ready !((granules loc n).any fun g => ownBusy s s.cur g))
      (match poisonedAt s loc n with
       | some p => .trap 27 (a + word (p - loc))
       | none => .ok)
  | _ => .ok
/-- What the read of n bytes of a record at a checked address does to the stored errors of its granules (R188, R190). -/
def readRecord (s : State) (a : Word) (align n : Nat) : State :=
  match recordPre s a align, placeNow s a with
  | .ok, .own off => if (granules (ownLoc s off) n).any fun g => ownBusy s s.cur g then s else scrub s (ownLoc s off) n false
  | _, _ => s
/-- The bytes of an own-memory record. Only its first address is checked; where the rest runs past the end of the
scratchpad, the locations that follow answer, which hold nothing (DESIGN CHOICE, log 66). -/
def recordBytes (s : State) (a : Word) (n : Nat) : List Byte :=
  match placeNow s a with
  | .own off => s.mem.readBytes (ownLoc s off) n
  | _ => []

/-- SBIND (R121). -/
def sbind (v : BitVec 3) (rs1 : BitVec 5) (mk : Shape → StreamKind) (s : State) : Host.Outcome State Fault Refusal :=
  let a := s.x rs1
  let r := streamReg v
  let s := readRecord s a 8 32
  let shp := parseShape (recordBytes s a 32)
  finish s (.all [recordPre s a 8, poisonPre s a 32, (if shp.valid then .ok else streamBad 5 r), unbindPre s.me r, contextPre s r])
    (retireWith s fun H => setStream (unbind H r) r { kind := mk shp, born := s.nextId })
/-- R121. -/
def execSbindSrc (v : BitVec 3) (rs1 : BitVec 5) (s : State) : Host.Outcome State Fault Refusal := sbind v rs1 .src s
/-- R121. -/
def execSbindDst (v : BitVec 3) (rs1 : BitVec 5) (s : State) : Host.Outcome State Fault Refusal := sbind v rs1 .dst s
/-- R122. -/
def execSunbind (v : BitVec 3) (s : State) : Host.Outcome State Fault Refusal :=
  finish s (unbindPre s.me (streamReg v)) (retireWith s fun H => unbind H (streamReg v))

/-- Another register of the hart is bound inbound to a tag. -/
def tagBound (H : Hart) (r tag : Nat) : Bool :=
  H.streams.any fun (k, t) => k != r && (match t.kind with | .chIn g => g == tag | _ => false)
/-- R307, R308. -/
def execChbind (v : BitVec 3) (rs1 : BitVec 5) (s : State) : Host.Outcome State Fault Refusal :=
  let c := s.x rs1
  let r := streamReg v
  let out := bit c 63
  let ok := if out then bits c 43 20 == 0 else bits c 16 47 == 0
  let kind : StreamKind := if out then .chOut (bits c 0 16) (bits c 16 25) (bits c 41 2) else .chIn (bits c 0 16)
  finish s (.all [(if ok then .ok else streamBad 9 r), (if !out && tagBound s.me r (bits c 0 16) then streamBad 8 r else .ok),
      contextPre s r, unbindPre s.me r])
    (retireWith s fun H => setStream (unbind H r) r { kind := kind, born := s.nextId })

/-! Select and masks. -/

/-- R140. -/
def execVsel (vd vs1 vs2 : BitVec 5) (mk : BitVec 3) (w : VWidth) (s : State) : Host.Outcome State Fault Refusal :=
  let H := s.me
  let n := VWidth.bits w
  let m := maskBits (512 / n) (H.getM mk.toNat)
  let a := lanes n (srcVal H vs1.toNat)
  let b := lanes n (srcVal H vs2.toNat)
  let r := ofLanes n (List.zipWith (fun (x : Nat × Nat) (k : Bool) => if k then x.1 else x.2) (a.zip b) m)
  finish s (.all [srcPre s (some n) vs1.toNat, srcPre s (some n) vs2.toNat, dstPre s (some n) vd.toNat])
    (retireWith (vwrite s vd.toNat r) fun H => consume (consume H vs1.toNat) vs2.toNat)

/-- Write Mask(md) and retire. -/
def maskOp (md : BitVec 3) (v : Word) (s : State) : Host.Outcome State Fault Refusal :=
  finish s .ok (retireWith s fun H => H.setM md.toNat v)
/-- R141. -/
def execMand (md ms1 ms2 : BitVec 3) (s : State) : Host.Outcome State Fault Refusal :=
  maskOp md (s.me.getM ms1.toNat &&& s.me.getM ms2.toNat) s
/-- R141. -/
def execMor (md ms1 ms2 : BitVec 3) (s : State) : Host.Outcome State Fault Refusal :=
  maskOp md (s.me.getM ms1.toNat ||| s.me.getM ms2.toNat) s
/-- R141. -/
def execMxor (md ms1 ms2 : BitVec 3) (s : State) : Host.Outcome State Fault Refusal :=
  maskOp md (s.me.getM ms1.toNat ^^^ s.me.getM ms2.toNat) s
/-- R141: all 64 bits are inverted. -/
def execMnot (md ms1 : BitVec 3) (s : State) : Host.Outcome State Fault Refusal :=
  maskOp md (~~~s.me.getM ms1.toNat) s
/-- R141: all 64 bits count. -/
def execMpop (rd : BitVec 5) (ms1 : BitVec 3) (s : State) : Host.Outcome State Fault Refusal :=
  finish s (armedW s rd) (retireX s rd (word ((maskBits 64 (s.me.getM ms1.toNat)).filter id).length))

/-! Sequencer loops. -/

/-- R145, R147: a count of 0 skips the body; the CRC counts the words when execution passes beyond it. -/
def execVloop (rs1 : BitVec 5) (len : BitVec 4) (s : State) : Host.Outcome State Fault Refusal :=
  let n := len.toNat + 1
  finish s .ok (s.modHart s.cur fun H =>
    let H' := retireCommon H false false
    if s.x rs1 = 0 then
      { H' with pc := H.pc + word (4 + 4 * n), arrival := .seq, broken := none, chk := { H'.chk with run := vloopCrc s (coreOf s.cur) H H.pc n [] } }
    else { H' with pc := H.pc + 4, arrival := .seq, broken := none, vloop := some { pc := H.pc, len := n, at_ := 0, reg := rs1.toNat } })

end Sys2Proof.Machine
end

