-- ==== Sys2Proof/Machine/Cvt.lean ====
section
/-! DEFINITION. The conversion group (R151 to R176): VCVT, VQUANT, VDEQ, and the loads of the two
tables and of the stochastic-rounding state. -/

namespace Sys2Proof.Machine
open Sys2Proof

/-! Element values. -/

/-- The value of a code of a format other than cb2 (R151 to R154). -/
def elemVal (H : Hart) (f : Fmt) (c : Nat) : FVal :=
  match ffmt f with
  | some F => F.dec c
  | none =>
    let v : Int := if f = .t4 then (SMap.get 0 H.t4 c).toInt else if f.isSig then toSigned f.width c else (c : Int)
    .fin (decide (v < 0)) v.natAbs 0

/-- The eight weights of a cb2 index: multiples of 1/4 (R155). -/
def cb2Weights (H : Hart) (idx : Nat) : List FVal :=
  let e := (SMap.get 0 H.cb2 (idx / 256)).toNat
  let s := (List.range 7).map fun k => idx / 2 ^ (k + 1) % 2
  let s7 := s.sum % 2
  (List.range 8).map fun k =>
    let mag := 2 * (e / 16 ^ k % 16) + idx % 2
    .fin (mag != 0 && (if k = 7 then s7 else s.getD k 0) == 1) mag (-2)

/-! Rounding with overflow and saturation (R158, R169). -/

/-- A converted element, and whether it sets SAT or OVF. -/
structure Conv where
  code : Nat
  sat  : Bool := false
  ovf  : Bool := false
  deriving DecidableEq, Repr

/-- ROUND(fd, v); an infinity stays without .sat, and is saturated with it (R158, R169, R171; DEDUCED, log 58). -/
def roundTo (F : FFmt) (mode : RMode) (sat : Bool) : FVal → Conv
  | .nan => { code := F.canonNaN }
  | .inf s => if sat then { code := F.withSign s F.maxFin, sat := true } else { code := F.withSign s F.infPat }
  | .fin s m e =>
    let (p, _) := roundMag F mode s m e false
    if F.maxFin < p then
      if sat then { code := F.withSign s F.maxFin, sat := true }
      else if mode = .rtz then { code := F.withSign s F.maxFin, ovf := true }
      else { code := if F.inf then F.withSign s F.infPat else F.canonNaN, ovf := true }
    else { code := F.withSign s p }

/-- The range of an integer format (R153). -/
def intLo (f : Fmt) : Int := if f.isSig then -(2 ^ (f.width - 1)) else 0
def intHi (f : Fmt) : Int := if f.isSig then 2 ^ (f.width - 1) - 1 else 2 ^ f.width - 1
def satInt (f : Fmt) (v : Int) : Nat := ofSigned f.width (max (intLo f) (min (intHi f) v))

/-- CONV of R169. -/
def convElem (fa fd : Fmt) (mode : RMode) (sat : Bool) (v : FVal) : Conv :=
  match ffmt fd with
  | some F =>
    (match v with
     | .inf s =>
       if sat then { code := F.withSign s F.maxFin, sat := true }
       else if F.inf then { code := F.withSign s F.infPat } else { code := F.canonNaN, ovf := true }
     | v => roundTo F mode sat v)
  | none =>
    match v with
    | .nan => { code := 0, sat := true }
    | .inf s => { code := satInt fd (if s then intLo fd else intHi fd), sat := true }
    | .fin s m e =>
      let i := sgn s (roundAt mode s m e false 0).1
      if intLo fd ≤ i ∧ i ≤ intHi fd then { code := ofSigned fd.width i }
      else if fa.isInt && !sat then { code := ofSigned fd.width i, ovf := true }
      else { code := satInt fd i, sat := true }

/-- Convert elements in ascending order; SR steps the LFSR once for each (R160). -/
def convList (rm : CvRm) (g : RMode → FVal → Conv) : W32 → List FVal → List Conv × W32
  | S, [] => ([], S)
  | S, v :: r =>
    match rm with
    | .sr =>
      let S' := lfsrStep S
      let (l, S'') := convList rm g S' r
      (g (.sr (S'.toNat / 256)) v :: l, S'')
    | .rtz => let (l, S') := convList rm g S r; (g .rtz v :: l, S')
    | .rne => let (l, S') := convList rm g S r; (g .rne v :: l, S')

/-- What a conversion leaves in S, cvamax and cvamax_flags when its result lands, L cycles after issue (R160, R162, R164,
R165); those that land earlier stand first. -/
def cvPush (H : Hart) (L : Nat) (rm : CvRm) (S : W32) (cs : List Conv) (amax : Bool) (vals : List FVal) : Hart :=
  let p : CvPend :=
    { lfsr := if rm == .sr then some S else none
      amax := if amax then some (vals.foldl amaxStep 0) else none
      flags := (if cs.any fun c => c.sat then 2 else 0) ||| (if cs.any fun c => c.ovf then 4 else 0)
        ||| (if amax && vals.contains .nan then 1 else 0)
      due := H.hold - 1 + L }
  { H with cvPend := H.cvPend.filter (fun q => decide (q.due ≤ p.due)) ++ p :: H.cvPend.filter fun q => decide (p.due < q.due) }

/-- The conversion state after a drain: SAT, OVF, and the .amax update (R164, R165). -/
def cvUpdate (H : Hart) (S : W32) (cs : List Conv) (amax : Bool) (vals : List FVal) : Hart :=
  let H := cvAccrue { H with lfsr := S } (cs.any fun c => c.sat) (cs.any fun c => c.ovf)
  if amax then amaxUpdate H vals else H

/-- Elements of a conversion (R168). -/
def convCount (fa fd : Fmt) : Nat :=
  let wa := if fa = .cb2 then 2 else fa.width
  512 / max wa fd.width

/-- A pair operand may hold no bound stream register (R176); where both registers are bound, the even one is named
(DESIGN CHOICE, log 68). -/
def pairPre (s : State) (r : Nat) : Pre :=
  if (streamOf s.me r).isSome then streamBad 3 r
  else if (streamOf s.me (r + 1)).isSome then streamBad 3 (r + 1) else .ok

/-- R169. -/
def execVcvt (vd vs1 : BitVec 5) (rm : CvRm) (sat amax : Bool) (sc : BitVec 3) (s : State) : Host.Outcome State Fault Refusal :=
  typed0 .pre s fun p =>
    let H := s.me
    let n := convCount p.fa p.fd
    let vals := ((lanes p.fa.width (srcVal H vs1.toNat)).take n).map (elemVal H p.fa)
    let (cs, S) := convList rm (fun m v => convElem p.fa p.fd m sat v) H.lfsr vals
    let t := vwrite s vd.toNat (ofLanes p.fd.width (cs.map fun c => c.code))
    finish s (.all [srcPre s (wOf p.fa) vs1.toNat, dstPre s (wOf p.fd) vd.toNat])
      (vretire s (t.modHart s.cur fun H => cvPush H 4 rm S cs amax vals) [vs1.toNat] 4 sc [(.v, vd.toNat)])

/-! VQUANT (R170). -/

/-- The largest magnitude of finite values, as magnitude and exponent; 0 when there is none. -/
def maxAbs (l : List FVal) : FVal := l.foldl (fun a v => if a.lt v.abs then v.abs else a) (.fin false 0 0)
/-- The scale byte of a block. -/
def blockScale (vals : List FVal) (E : Int) : Nat :=
  match vals.contains .nan, maxAbs vals with
  | false, .fin _ m e => if m = 0 then 0x7F else (min (max (topExp m e - E + 127) 0) 254).toNat
  | _, _ => 0xFF
/-- A value divided by a scale. -/
def unscale (x8 : Nat) : FVal → FVal
  | .fin s m e => .fin s m (e - ((x8 : Int) - 127))
  | v => v
/-- A value multiplied by a scale; 0xFF gives NaN (R156). -/
def scaleBy (x8 : Nat) (v : FVal) : FVal :=
  if x8 = 0xFF then .nan else match v with | .fin s m e => .fin s m (e + ((x8 : Int) - 127)) | v => v
/-- The T4 table as integers. -/
def t4Table (H : Hart) : List Int := (List.range 16).map fun c => (SMap.get 0 H.t4 c).toInt
/-- The lowest code whose table entry is nearest to q. -/
def t4Nearest (H : Hart) : FVal → Nat
  | .fin s m e =>
    let k := (-e).toNat
    let q := sgn s m * 2 ^ e.toNat
    let d := (t4Table H).map fun v => (v * 2 ^ k - q).natAbs
    let best := d.foldl min (d.headD 0)
    d.findIdx (fun x => x == best)
  | _ => 0
/-- E(fd) of R170. -/
def scaleBase (H : Hart) (fd : Fmt) : Int :=
  match fd with
  | .e4m3 => 8
  | .e5m2 => 15
  | _ => (Nat.log2 (((t4Table H).map Int.natAbs).foldl max 0) : Int)
/-- A scaled image: codes from byte 0, zeros, the scale in byte 63 (R157). -/
def scaledImage (w : Nat) (codes : List Nat) (x8 : Nat) : VReg := BitVec.ofNat 512 (pack w codes + x8 * 2 ^ 504)

/-- R170. -/
def execVquant (vd vs1 : BitVec 5) (rm : CvRm) (sat amax : Bool) (sc : BitVec 3) (s : State) : Host.Outcome State Fault Refusal :=
  typed0 .pre s fun p =>
    let H := s.me
    let pair := p.fa == .f32
    let src := if pair then lanes 32 (H.getV vs1.toNat) ++ lanes 32 (H.getV (vs1.toNat + 1)) else lanes 16 (srcVal H vs1.toNat)
    let vals := src.map (elemVal H p.fa)
    let x8 := blockScale vals (scaleBase H p.fd)
    let enc (m : RMode) (v : FVal) : Conv :=
      match ffmt p.fd with
      | some F => if x8 = 0xFF then { code := F.canonNaN } else roundTo F m sat (unscale x8 v)
      | none => { code := if x8 = 0xFF then 0 else t4Nearest H (unscale x8 v) }
    let (cs, S) := convList rm enc H.lfsr vals
    let t := vwrite s vd.toNat (scaledImage p.fd.width (cs.map fun c => c.code) x8)
    finish s (.all [(if pair then pairPre s vs1.toNat else srcPre s (wOf p.fa) vs1.toNat), dstPre s (wOf p.fd) vd.toNat])
      (vretire s (t.modHart s.cur fun H => cvPush H 6 rm S cs amax vals) (if pair then [] else [vs1.toNat]) 6 sc [(.v, vd.toNat)])

/-! VDEQ (R171). -/

/-- The decoded elements of a source image, before scaling. -/
def decodeImage (H : Hart) (fa : Fmt) (n : Nat) (v : VReg) : List FVal :=
  if fa = .cb2 then (((lanes 16 v).take (n / 8)).map (cb2Weights H)).flatten
  else ((lanes fa.width v).take n).map (elemVal H fa)

/-- R171. -/
def execVdeq (vd vs1 : BitVec 5) (rm : CvRm) (sat amax : Bool) (sc : BitVec 3) (s : State) : Host.Outcome State Fault Refusal :=
  typed0 .pre s fun p =>
    let H := s.me
    let scaled := p.sm == .src
    let pair := scaled && p.fd == .f32
    let n := if scaled then 32 else convCount p.fa p.fd
    let img := srcVal H vs1.toNat
    let x8 := img.toNat / 2 ^ 504
    let vals := (decodeImage H p.fa n img).map fun v => if scaled then scaleBy x8 v else v
    let enc (m : RMode) (v : FVal) : Conv :=
      match ffmt p.fd with
      | some F => roundTo F m sat v
      | none => { code := 0 }
    let (cs, S) := convList rm enc H.lfsr vals
    let codes := cs.map fun c => c.code
    let t := if pair then s.modHart s.cur fun H => (H.setV vd.toNat (ofLanes 32 codes)).setV (vd.toNat + 1) (ofLanes 32 (codes.drop 16))
      else vwrite s vd.toNat (ofLanes p.fd.width codes)
    let regs := if pair then [(RFile.v, vd.toNat), (.v, vd.toNat + 1)] else [(.v, vd.toNat)]
    let L := if p.fa = .cb2 then 5 else 4
    finish s (.all [srcPre s (wOf p.fa) vs1.toNat, (if pair then pairPre s vd.toNat else dstPre s (wOf p.fd) vd.toNat)])
      (vretire s (t.modHart s.cur fun H => cvPush H L rm S cs amax vals) [vs1.toNat] L sc regs)

/-! Tables and the seed. -/

/-- R172. -/
def execTbld (vs1 : BitVec 5) (sc : BitVec 3) (s : State) : Host.Outcome State Fault Refusal :=
  let l := (lanes 8 (srcVal s.me vs1.toNat)).take 16
  let t := s.modHart s.cur fun H =>
    { H with t4 := (List.range 16).foldl (fun m c => SMap.set 0 m c (BitVec.ofNat 8 (l.getD c 0))) H.t4 }
  finish s (srcPre s (some 8) vs1.toNat) (vretire s t [vs1.toNat] 2 sc [])

/-- The lowest byte of an interval that a destination lock covers (R173). -/
def lockedByte (C : Core) (slot : Option Nat) (a n : Nat) : Option Nat :=
  C.locks.foldl (fun (best : Option Nat) (_, l) =>
    if l.dst && decide (l.lo < a + n ∧ a ≤ l.hi) && (decide (2 ^ 63 ≤ a) || l.slot == slot) then
      some (match best with | some b => min b (max a l.lo) | none => max a l.lo)
    else best) none

/-- R173. The 64 granules are read at one moment: of a store by another agent that lands in those cycles, none is seen
(DESIGN CHOICE, log 66). -/
def execCbld (rs1 : BitVec 5) (s : State) : Host.Outcome State Fault Refusal :=
  let a := s.x rs1
  let base := canonAddr s s.cur a
  let lock := match lockedByte (s.core (coreOf s.cur)) (slotOf s.me) base 1024 with
    | some b => .trap 24 (a + word (b - base))
    | none => .ok
  let s := if lock == .ok then readRecord s a 64 1024 else s
  let bytes := recordBytes s a 1024
  finish s (.all [recordPre s a 64, lock, poisonPre s a 1024])
    (retireWith s fun H => { H with cb2 := (List.range 256).foldl (fun m e => SMap.set 0 m e (w32 (leAt bytes (4 * e) 4))) [] })

/-- R172. -/
def execSrseed (rs1 : BitVec 5) (s : State) : Host.Outcome State Fault Refusal :=
  finish s .ok (retireWith s fun H => { H with lfsr := lfsrKeep (lo32 (s.x rs1)) })

end Sys2Proof.Machine
end

