-- ==== Sys2Proof/Machine/Fe.lean ====
section
/-! DEFINITION. Full-empty operations and their waiters (R195 to R199), gathers and scatters (R201 to
R204), and the copy commands (R205, R206, R209) with the engines' shared queues (R37). -/

namespace Sys2Proof.Machine
open Sys2Proof

/-! Full-empty operations. -/

/-- A reply takes the place of its request. -/
def replyTo (p : Packet) (r : Reply) : Packet :=
  match p.body with
  | .mem a _ sink wh =>
    { p with body := .reply a (match wh with | .at_ loc => isHostLoc loc | .new => false) sink r }
  | _ => p

/-- The first waiter of a granule whose condition holds, served. -/
def firstServed (s : State) (loc : Nat) : List Packet → Option (Packet × State × Reply)
  | [] => none
  | p :: r =>
    match p.body with
    | .mem _ op _ (.at_ l) =>
      if l / 16 = loc / 16 then
        (match feAt s (some p.hart) l op with
         | some (t, rep) => some (p, t, rep)
         | none => firstServed s loc r)
      else firstServed s loc r
    | _ => firstServed s loc r

/-- Scan the waiters of a granule until none is served (R199). -/
def serveFe : Nat → State → Nat → State
  | 0, s, _ => s
  | n + 1, s, loc =>
    let c := coreOfLoc loc
    match firstServed s loc (s.core c).feWait with
    | none => s
    | some (p, t, r) =>
      let t := t.modCore c fun C => { C with feWait := C.feWait.filter fun q => q.id != p.id }
      serveFe n (putBackAt t (replyTo p r) (cluOf c)) loc
/-- The bit of a granule has changed. -/
def wakeFe (s : State) (loc : Nat) : State := serveFe 65 s loc

/-- The places of R195. -/
def fePlace (s : State) (a : Word) : Bool :=
  match placeNow s a with
  | .own _ => !isMordant s.cur
  | .pad t _ => isWorker t
  | .other n => n / 2 ^ 34 % 32 != 16
  | _ => false

/-- Release part of a full-empty operation (R228). -/
def feRelease (s : State) (a : Word) : Pre := ready (!outstanding s s.cur (addrScope s s.cur a false) false)

/-- A request that waits on the own core joins the list, or is answered as timed out when it is full (R199). -/
def feJoin (s : State) (kind : HeldKind) (a : Word) (loc : Nat) (op : MemOp) : Host.Outcome State Fault Refusal :=
  let c := coreOf s.cur
  if 64 ≤ (s.core c).feWait.length then finish s (.trap 28 a) s
  else
    let p : Packet := { id := s.nextId, hart := s.cur, slot := slotOf s.me, key := keyOf s.me, body := .mem a.toNat op (.held 0) (.at_ loc), limit := (s.core c).feLimit }
    let s := { s with nextId := s.nextId + 1 }.modCore c fun C => { C with feWait := C.feWait ++ [p] }
    finish s .ok (s.modHart s.cur fun H => { H with held := some { kind := kind, addr := a, parts := 1 }, stalled := none })

/-- A full-empty operation after its checks. -/
def feInstr (p : Pre) (kind : HeldKind) (a : Word) (op : MemOp) (s : State) : Host.Outcome State Fault Refusal :=
  match p with
  | .ok =>
    match placeNow s a with
    | .own off =>
      let loc := ownLoc s off
      match feAt s (some s.cur) loc op with
      | none => feJoin s kind a loc op
      | some (t, .data bits none) => landNow (wakeFe t loc) kind a bits.toNat
      | some (t, .data _ (some _)) => finish t (.trap 27 a) t
      | some (t, _) => finish t .ok (retire (wakeFe t loc) s.cur)
    | _ =>
      finish s (ready (placesFor s s.cur 1))
        (match op with
         | .feSet _ => sendPosted s a op
         | _ => sendHeld s kind a op)
  | p => finish s p s

/-- LD.FE (R197, R198). -/
def feLoad (rd rs1 : BitVec 5) (clr : Bool) (s : State) : Host.Outcome State Fault Refusal :=
  let a := s.x rs1
  feInstr (.all [alignPre a 8 false, need (fePlace s a) 5 a, lockPre s a 8 clr, armedW s rd]) (.plain rd.toNat) a (.feLoad clr) s
/-- R198. -/
def execLdFeKeep (rd rs1 : BitVec 5) (s : State) : Host.Outcome State Fault Refusal := feLoad rd rs1 false s
/-- R198. -/
def execLdFeClr (rd rs1 : BitVec 5) (s : State) : Host.Outcome State Fault Refusal := feLoad rd rs1 true s
/-- R198. -/
def execStFe (rs1 rs2 : BitVec 5) (s : State) : Host.Outcome State Fault Refusal :=
  let a := s.x rs1
  feInstr (.all [alignPre a 8 true, need (fePlace s a) 7 a, lockPre s a 8 true, feRelease s a]) (.plain 0) a (.feStore (s.x rs2)) s

/-- The range-lock check of FESET: all 16 B of the granule, with mtval the address (R197). -/
def granuleLockPre (s : State) (a : Word) : Pre :=
  match lockPre s (a &&& ~~~15#64) 16 true with
  | .trap c _ f => .trap c a f
  | p => p
/-- FESET. -/
def feSetInstr (rs1 : BitVec 5) (full : Bool) (s : State) : Host.Outcome State Fault Refusal :=
  let a := s.x rs1
  feInstr (.all [need (fePlace s a) 7 a, granuleLockPre s a, feRelease s a]) (.plain 0) a (.feSet full) s
/-- R198. -/
def execFesetEmpty (rs1 : BitVec 5) (s : State) : Host.Outcome State Fault Refusal := feSetInstr rs1 false s
/-- R198. -/
def execFesetFull (rs1 : BitVec 5) (s : State) : Host.Outcome State Fault Refusal := feSetInstr rs1 true s
/-- R198. -/
def execFeqry (rd rs1 : BitVec 5) (s : State) : Host.Outcome State Fault Refusal :=
  let a := s.x rs1
  feInstr (.all [need (fePlace s a) 5 a, armedW s rd]) (.plain rd.toNat) a .feQuery s

/-! Gathers and scatters. -/

/-- Where a lane's packet goes; own lanes also pass through the network interface (R202). -/
def laneWhere (s : State) (a : Word) : Where :=
  match placeNow s a with
  | .own off => .at_ (ownLoc s off)
  | p => whereOf p

/-- The sixteen lanes of a gather or scatter. -/
def sixteen (addr : Nat → Word) : List Lane := (List.range 16).map fun i => ⟨i, addr i⟩
/-- Addresses of the .a forms from a pair, and of the .x forms (R202). -/
def addrA (H : Hart) (r : Nat) (i : Nat) : Word := word ((lanes 64 (srcVal H (r + i / 8))).getD (i % 8) 0)
def addrX (H : Hart) (base : Word) (r : Nat) (i : Nat) : Word :=
  base + 4 * sext32 (w32 ((lanes 32 (srcVal H r)).getD i 0))

/-- Send lanes in order while a request place is free; the instruction retires with the last of them, and until then
holds those that are left (R202). -/
def sendLanes (body : Nat × Word × W32 → Body) : List (Nat × Word × W32) → State → State
  | [], s => retire s s.cur
  | e :: r, s =>
    if placesFor s s.cur 1 then sendLanes body r (send s s.cur (body e))
    else s.modHart s.cur fun H => { H with lanes := e :: r, stalled := some .issue }
/-- A gather or scatter: its checks and its start, unless lanes of it have gone already; then the lanes. -/
def laneInstr (p : Pre) (start : Hart → Hart) (body : Nat × Word × W32 → Body) (l : List (Nat × Word × W32)) (s : State) :
    Host.Outcome State Fault Refusal :=
  if s.me.lanes.isEmpty then finish s (.seq p (ready (placesFor s s.cur 1))) (sendLanes body l (s.modHart s.cur start))
  else .next (sendLanes body s.me.lanes s)

/-- GATH (R202, R203): srcs are the vector registers that hold the addresses (DEDUCED, log 40). -/
def gather (vd : BitVec 5) (srcs : List (Nat × Nat)) (addr : Nat → Word) (s : State) : Host.Outcome State Fault Refusal :=
  laneInstr
    (.all [.all (srcs.map fun (r, w) => srcPre s (some w) r), lanesPre s (sixteen addr) 4 false,
      gatherPre s.me (vd.toNat :: srcs.map fun (r, _) => r), dstPre s (some 32) vd.toNat])
    (fun H => { srcs.foldl (fun H (r, _) => consume H r) H with
      gathers := H.gathers.filter (fun g => g.vd != vd.toNat) ++ [{ vd := vd.toNat, left := 16 }] })
    (fun e => .mem e.2.1.toNat (.load 4) (.lane vd.toNat e.1) (laneWhere s e.2.1))
    ((sixteen addr).map fun k => (k.i, k.a, 0)) s
/-- SCAT (R202, R204; DEDUCED, log 40). -/
def scatter (vs3 : BitVec 5) (srcs : List (Nat × Nat)) (addr : Nat → Word) (s : State) : Host.Outcome State Fault Refusal :=
  laneInstr
    (.all [.all ((srcs ++ [(vs3.toNat, 32)]).map fun (r, w) => srcPre s (some w) r), lanesPre s (sixteen addr) 4 true,
      gatherPre s.me (vs3.toNat :: srcs.map fun (r, _) => r)])
    (fun H => ((vs3.toNat, 32) :: srcs).foldl (fun H (r, _) => consume H r) H)
    (fun e => .mem e.2.1.toNat (.store (toBytes 4 e.2.2.toNat) false) (.posted false) (laneWhere s e.2.1))
    ((sixteen addr).map fun k => (k.i, k.a, w32 ((lanes 32 (srcVal s.me vs3.toNat)).getD k.i 0))) s

/-- The even register of an address pair. -/
def pairReg (va : BitVec 4) : Nat := 2 * va.toNat
/-- R202, R203. -/
def execGathA (vd : BitVec 5) (va : BitVec 4) (s : State) : Host.Outcome State Fault Refusal :=
  gather vd [(pairReg va, 64), (pairReg va + 1, 64)] (addrA s.me (pairReg va)) s
/-- R202, R203. -/
def execGathX (vd rs1 vs2 : BitVec 5) (s : State) : Host.Outcome State Fault Refusal :=
  gather vd [(vs2.toNat, 32)] (addrX s.me (s.x rs1) vs2.toNat) s
/-- R202, R204. -/
def execScatA (vs3 : BitVec 5) (va : BitVec 4) (s : State) : Host.Outcome State Fault Refusal :=
  scatter vs3 [(pairReg va, 64), (pairReg va + 1, 64)] (addrA s.me (pairReg va)) s
/-- R202, R204. -/
def execScatX (vs3 rs1 vs2 : BitVec 5) (s : State) : Host.Outcome State Fault Refusal :=
  scatter vs3 [(vs2.toNat, 32)] (addrX s.me (s.x rs1) vs2.toNat) s

/-! The shared engines' queues (R37). -/

def engIndex : Engine → Nat
  | .copy => 0
  | .matrix => 1
  | .merge => 2
  | .conv => 3
/-- The cores (0-15) of the commands in a queue. -/
def engCores (G : Cluster) (e : Engine) : List Nat :=
  match e with
  | .copy => G.copyQ.map fun c => coreOf c.hart % 16
  | .merge => G.mergeQ.map fun c => coreOf c.hart % 16
  | .conv => G.convQ.map fun c => coreOf c.hart % 16
  | .matrix => G.matQ.map fun c => coreOf c.hart % 16
def grantsOf (G : Cluster) (e : Engine) : Nat := (G.engGrant.filter fun (f, _) => f == e).length
/-- Worker core k of cluster g has a hart that stalls for a place. -/
def stallsFor (s : State) (g : Nat) (e : Engine) (k : Nat) : Bool :=
  (hartsOf (coreAt g k)).any fun h => (s.hart h).stalled == some (.queue e)
/-- A command of the executing hart finds a place: one granted to its core, or a free one for which no
core stalls; no core holds more than 4. -/
def queuePre (s : State) (e : Engine) : Pre :=
  let g := cluOfHart s.cur
  let G := s.cluster g
  let k := coreOf s.cur % 16
  let mine := (engCores G e).filter fun c => c == k
  ready (decide (mine.length < 4) &&
    (G.engGrant.contains (e, k)
      || (decide ((engCores G e).length + grantsOf G e < 16) && !((List.range 16).any fun c => c != k && stallsFor s g e c)))) (.queue e)
/-- The place is taken. -/
def takePlace (G : Cluster) (e : Engine) (k : Nat) : Cluster :=
  if G.engGrant.contains (e, k) then { G with engGrant := G.engGrant.erase (e, k) }
  else { G with engLast := SMap.put G.engLast (engIndex e) k }

/-! Copies. -/

/-- The hull of a valid shape with elements, in the compared form (R206, R241). -/
def hull (s : State) (h : Nat) (r : Shape) : Option (Nat × Nat) :=
  if !r.valid || r.count = 0 then none
  else
    let base : Int := canonAddr s h (wordZ r.base)
    let span (e : Nat) (st : Int) : Int := ((e - 1 : Nat) : Int) * st
    let d := [span r.e1 r.s0, span r.e2 r.s1, span r.e3 r.s2]
    let lo := (d.map fun v => min v 0).sum
    let row : Nat := if r.ty = 11 then r.e0 / 2 else r.e0 * r.step
    let hi := (d.map fun v => max v 0).sum + (row : Int) - 1
    some ((base + lo).toNat, (base + hi).toNat)

/-- The lock entries of a list of ranges, with their kinds. -/
def locksOf (s : State) (e : Engine) (l : List (Option (Nat × Nat) × Bool)) : List Lock :=
  l.filterMap fun (r, dst) => r.map fun (lo, hi) => { lo := lo, hi := hi, dst := dst, eng := e, hart := s.cur, slot := slotOf s.me }
/-- The table has k free entries (R240). -/
def entriesPre (s : State) (k : Nat) : Pre := ready (decide (k ≤ (freeLocks (s.core (coreOf s.cur))).length))
/-- Register locks on the own core. -/
def regLocks (s : State) (ls : List Lock) : State × List Nat :=
  let (C, ns) := addLocks (s.core (coreOf s.cur)) ls
  (s.setCore (coreOf s.cur) C, ns)

/-- R206. -/
def execCpy (rd rs1 rs2 : BitVec 5) (s : State) : Host.Outcome State Fault Refusal :=
  let a := s.x rs1
  let b := s.x rs2
  let s := if recordPre s b 8 = .ok then readRecord (readRecord s a 8 32) b 8 32 else s
  let src := parseShape (recordBytes s a 32)
  let dst := parseShape (recordBytes s b 32)
  let t := s.me.copyCtr + 1
  let (s1, ns) := regLocks s (locksOf s .copy [(hull s s.cur src, false), (hull s s.cur dst, true)])
  let s2 := s1.modCluster (cluOfHart s.cur) fun G =>
    { takePlace G .copy (coreOf s.cur % 16) with
      copyQ := G.copyQ ++ [{ hart := s.cur, slot := slotOf s.me, key := keyOf s.me, tag := t, src := src, dst := dst, locks := ns,
                               born := s.nextId, imgs := imagesNow s.me }] }
  finish s (.all [recordPre s a 8, recordPre s b 8, poisonPre s a 32, poisonPre s b 32, armedW s rd, queuePre s .copy, entriesPre s 2])
    (retireWith s2 fun H => { H.setX rd.toNat (word t) with copyCtr := t, copies := H.copies ++ [{ tag := t }] })

/-- R209. -/
def execCpyw (rd rs1 : BitVec 5) (s : State) : Host.Outcome State Fault Refusal :=
  let lim := (s.x rs1).toNat
  let due := s.me.copies.filter fun c => decide (c.tag ≤ lim)
  let bad := due.find? fun c => !c.reported && (match c.status with | some v => v != 0 | none => false)
  let v := match bad with | some c => c.status.getD 0 | none => 0
  let tag := match bad with | some c => c.tag | none => 0
  finish s (.all [armedW s rd, ready (due.all fun c => c.status.isSome) .copy])
    (retireWith s fun H => { H.setX rd.toNat v with
      copies := H.copies.map fun c => if c.tag = tag then { c with reported := true } else c })

end Sys2Proof.Machine
end

