-- ==== Sys2Proof/Machine/Station.lean ====
section
/-! DEFINITION. Translation stations (R32, R178 to R182) and the accesses the shared engines of a
cluster make for a hart: their checks, their targets and their elements (R207, R208, R343, R344). -/

namespace Sys2Proof.Machine
open Sys2Proof

/-! The order of one destination bank (R216, R217). -/

/-- What two accesses share when they have one destination bank. -/
inductive Bank
  | pad (core bank : Nat)
  | virt (slot : Option Nat) (line : Nat)
  | away (line : Nat)
  deriving DecidableEq, Repr

/-- Bytes a request spans from its address. -/
def spanOf : MemOp → Nat
  | .load n | .amo _ n _ _ => n
  | .store b _ | .mcw b | .relStore b => b.length
  | .loads _ | .stores _ => 64
  | .feLoad _ | .feStore _ => 8
  | _ => 16
/-- The banks of a location range of one core. -/
def padBanks (loc n : Nat) : List Bank := (granules loc (max n 1)).map fun g => .pad (coreOfLoc loc) (g / 16 % 256)
/-- The banks a packet goes to. -/
def banksOf (s : State) (p : Packet) : List Bank :=
  match p.body with
  | .mem a op _ wh =>
    if a < 2 ^ 63 then [.virt p.slot (a / 64)]
    else match wh with
      | .at_ loc => padBanks loc (spanOf op)
      | .new => [.away (a / 64)]
  | .deposit t _ =>
    if t / 2 ^ 60 = 8 then (if t / 2 ^ 48 % 4096 = s.pkg.number then padBanks (t - t / 2 ^ 48 % 4096 * 2 ^ 48) 8 else [.away (t / 64)])
    else if t / 2 ^ 60 = 9 then padBanks (padBase (coreOf p.hart) + t % 2 ^ 17) 8
    else []
  | .mcw c off b _ _ => padBanks (padBase c + off) b.length
  | _ => []
/-- Accesses of a hart that are under way, but for those whose replies come back. -/
def underWay (s : State) (h : Nat) : List Packet :=
  (s.net ++ (s.dies.map fun (e : Nat × Die) => e.2.parked.map fun p => p.2).flatten ++ awayOpen s).filter fun p => p.hart == h
/-- The banks of n bytes at an address of hart h under a process slot. -/
def banksAt (s : State) (h : Nat) (slot : Option Nat) (a : Word) (n : Nat) : List Bank :=
  match placeOf s h slot a with
  | .own off => padBanks (padBase (coreOf h) + off) n
  | .pad t off => padBanks (padBase t + off) n
  | .virt v => [.virt slot (v / 64)]
  | .other v => [.away (v / 64)]
  | _ => []
/-- Accesses of hart h issued before packet `born` have not reached their bank (R217, R218). -/
def busyBefore (s : State) (h born : Nat) (b : List Bank) : Bool :=
  (underWay s h).any fun p => decide (p.id < born) && (banksOf s p).any fun k => b.contains k

/-! Physical addresses. -/

/-- The location of a host physical address: device memory inside the HDM window, else host memory (R180). -/
def physLoc (s : State) (p : Nat) : Nat :=
  let b := s.pkg.hdmBase.toNat
  if s.pkg.hdmSet ∧ b ≤ p ∧ p < b + 2 ^ 40 then hbmLoc (p - b) else hostLoc p
/-- Some CXL port is up (R180; DEDUCED, log 45). -/
def hostUp (s : State) : Bool := !(SMap.get false s.pkg.cxlDown 0 && SMap.get false s.pkg.cxlDown 1)
/-- A location can be reached through its controller or port (DEDUCED, log 45). -/
def locUp (s : State) (loc : Nat) : Bool := !isHostLoc loc || hostUp s

/-! Page walks (R179). -/

/-- Levels of a table format: Sv39, Sv48, Sv57. -/
def svLevels (mode : Nat) : Nat := mode + 3
/-- A virtual address is canonical in the selected format (R32): its upper bits are 0. ATS selects none. -/
def canonical (mode a : Nat) : Bool := mode == 3 || decide (a < 2 ^ (9 * svLevels mode + 11))

/-- What a translation answers: the location, a fault that needs the host, or an error reply. -/
inductive Trans
  | ok (loc : Nat)
  | host
  | err (cause : Nat)
  deriving DecidableEq, Repr

/-- A page-table entry's checks: reserved, PBMT and N are zero, V is set, and W implies R. -/
def pteOk (e : Nat) : Bool := e / 2 ^ 54 == 0 && e % 2 == 1 && !(e / 2 % 2 == 0 && e / 4 % 2 == 1)
/-- An entry is a leaf. -/
def pteLeaf (e : Nat) : Bool := e / 2 % 2 == 1 || e / 8 % 2 == 1
/-- An entry that is no leaf has its D, A and U bits, which are reserved there, zero (R179). -/
def pteNext (e : Nat) : Bool := e / 16 % 2 == 0 && e / 64 % 4 == 0
/-- A leaf admits a U-mode access. -/
def leafOk (e : Nat) (write : Bool) : Bool := e / 16 % 2 == 1 && e / 2 % 2 == 1 && (!write || e / 4 % 2 == 1)
/-- The leaf with A, and D for a write, set. -/
def leafMark (e : Nat) (write : Bool) : Nat := Nat.lor e (if write then 0xC0 else 0x40)

/-- What a walk answers: the location of the leaf and its entry with the frame of the 4 KiB page, a fault
that needs the host, or a poisoned entry. -/
inductive Walk
  | leaf (loc entry frame : Nat)
  | fault
  | poison
  deriving DecidableEq, Repr

/-- Walk from the table at physical address `tab`, `k` levels left. -/
def walk (s : State) (va : Nat) (write : Bool) : Nat → Nat → Walk
  | 0, _ => .fault
  | k + 1, tab =>
    let loc := physLoc s (tab + va / 2 ^ (12 + 9 * k) % 512 * 8)
    let e := s.loadN loc 8
    if (poisonedAt s loc 8).isSome then .poison
    else if !pteOk e then .fault
    else
      let ppn := e / 2 ^ 10 % 2 ^ 44
      if pteLeaf e then
        (if leafOk e write && ppn % 2 ^ (9 * k) == 0 then .leaf loc (leafMark e write) (ppn + va / 2 ^ 12 % 2 ^ (9 * k)) else .fault)
      else if pteNext e then walk s va write k (ppn * 2 ^ 12)
      else .fault

def pageOf (a : Nat) : Nat := a / 4096

/-- A cached translation that admits the access (DEDUCED, log 42). -/
def tlbHit (D : Die) (slot a : Nat) (write : Bool) : Option Tlb :=
  D.tlb.find? fun t => t.station == stationOf a && t.slot == slot && t.page == pageOf a && (!write || t.writable)

/-- Translate a virtual address of a process slot at die d (DEDUCED, log 42). -/
def translate (s : State) (d slot a : Nat) (write : Bool) : State × Trans :=
  match SMap.find? s.pkg.procs slot with
  | none => (s, .err 31)
  | some P =>
    if !canonical P.mode a then (s, .err 31)
    else
      match tlbHit (s.die d) slot a write with
      | some t => (s, .ok (physLoc s (t.frame * 4096 + a % 4096)))
      | none =>
        if P.mode = 3 then (s, .host)
        else if !hostUp s then (s, .err 56)
        else
          match walk s a write (svLevels P.mode) P.root with
          | .poison => (s, .err 56)
          | .fault => (s, .host)
          | .leaf loc e frame =>
            let s := { s with mem := s.mem.writeBytes loc (toBytes 8 e) }
            let t : Tlb := { station := stationOf a, slot := slot, page := pageOf a, frame := frame, writable := write }
            (s.modDie d fun D => { D with tlb := D.tlb.filter (fun u => !(u.slot == slot && u.page == pageOf a)) ++ [t] },
              .ok (physLoc s (frame * 4096 + a % 4096)))

/-- Tags of the units of a cluster that make accesses of their own: engines 0 to 3 (`engIndex`), the type
reader 4, the ring reader 5, stream r of hart i (0 to 63) 8 + 8 i + (r - 24). -/
def tagTypes : Nat := 4
def tagRings : Nat := 5
def tagStream (h r : Nat) : Nat := 8 + 8 * (h % 64) + (r - 24)

/-- Ask the host about a page: an ATS translation request first in ATS mode, else, and where the completion of one denies
the access, a PRI page request; one for all accesses of a page (R181, R182). -/
def askPage (s : State) (d slot a : Nat) : State :=
  let k := (stationOf a, slot, pageOf a)
  let known := (s.die d).tlb.any fun t => t.station == stationOf a && t.slot == slot && t.page == pageOf a
  let ats := !known && match SMap.find? s.pkg.procs slot with | some P => P.mode == 3 | none => false
  s.modDie d fun D =>
    if D.pri.contains k || D.ats.contains k then D
    else if ats then { D with ats := D.ats ++ [k] } else { D with pri := D.pri ++ [k] }

/-- Accesses that wait at a station, a unit's among them (R181). -/
def parkedAt (D : Die) (st : Nat) : Nat :=
  (D.parked.filter fun (k, _) => k == st).length + (D.asks.filter fun (k, _) => k.2 % 16 == st).length
/-- A unit of cluster g asks about a page, once, while its station has a place. -/
def askHost (s : State) (g slot a tag : Nat) : State :=
  let d := dieOf g
  let e := ((slot, pageOf a), (g, tag))
  if (s.die d).asks.contains e || decide (256 ≤ parkedAt (s.die d) (stationOf a)) then s
  else (askPage s d slot a).modDie d fun D => { D with asks := D.asks ++ [e] }

/-! Homes. -/

/-- A key is in a core's membership table (R390, R391). -/
def keyHeld (C : Core) (key : Nat) : Bool := key == 0 || C.members.any fun (_, m) => m.valid && m.key == key
/-- The error reply a core gives a request under a key: none answers when it is gone or sealed (R306,
R409), the key error when the key is not held (R391). -/
def homeErr (s : State) (c key : Nat) : Option Nat :=
  if coreGone s c || (s.core c).isSealed then some 56
  else if isWorker c && !keyHeld (s.core c) key then some 29 else none
/-- A dropped packet is counted (R391). -/
def countDrop (s : State) (c : Nat) : State := s.modCore c fun C => { C with drops := min 0xFFFFFFFF (C.drops + 1) }

/-! Accesses of an engine for a command. -/

/-- Who an engine works for: the issuing hart, its process slot and key, the unit's tag, and the command's place in the
hart's program order (R229): the number of the next packet, and the images of its destination streams, at issue. -/
structure Agent where
  hart : Nat
  slot : Option Nat
  key  : Nat
  tag  : Nat
  born : Nat := 0
  imgs : List (Nat × Nat) := []
  deriving DecidableEq, Repr

/-- What a unit's access waits for: the host about a page, an access of another package (the number its answer is kept
under, address and operation), or something that is under way. -/
inductive Need
  | page (a : Nat)
  | far (key a : Nat) (op : MemOp)
  | later
  deriving DecidableEq, Repr

/-- Where an engine's access goes: a location, an address of another package, a cause, or a wait. -/
inductive Reach
  | at_ (loc : Nat)
  | away (a : Nat)
  | fail (cause : Nat)
  | need (n : Need)
  deriving DecidableEq, Repr

/-- The host refused a page to a unit of a cluster. -/
def pageRefused (s : State) (g tag a : Nat) : Bool := (s.cluster g).refused.contains (tag, pageOf a)
/-- Images that a hart had appended to its destination streams when packet `born` was the next are not stored (R229, R347). -/
def imagesBefore (H : Hart) (born : Nat) (l : List (Nat × Nat)) : Bool :=
  l.any fun (r, n) => match streamOf H r with
    | some t => (match t.kind with | .dst _ => decide (t.born ≤ born) && t.out.any fun (k, _) => decide (k < n) | _ => false)
    | none => false
/-- A cause as a unit's access meets it: a key that is not held is an engine's REMOTE_ERROR. -/
def unitCause (c : Nat) : Nat := if c = 29 then 56 else c

/-- Resolve an engine access of n bytes: its place in the hart's program order, checks 1 and 2 of R88, then the target
(DEDUCED, log 36). A die on the way that has failed answers nothing (R306). -/
def reach (s : State) (A : Agent) (a : Word) (n : Nat) (write : Bool) : State × Reach :=
  let space := if write then 7 else 5
  if a.toNat % n ≠ 0 then (s, .fail (if write then 6 else 4))
  else if busyBefore s A.hart A.born (banksAt s A.hart A.slot a n) || imagesBefore (s.hart A.hart) A.born A.imgs then (s, .need .later)
  else
    match placeOf s A.hart A.slot a with
    | .bad | .window _ _ => (s, .fail space)
    | .own off => (s, .at_ (padBase (coreOf A.hart) + off))
    | .pad t off =>
      (match homeErr s t A.key with
       | some 29 => (countDrop s t, .fail (unitCause 29))
       | some c => (s, .fail c)
       | none => if dieReached s 6 (dieOfHart A.hart) (dieOf (cluOf t)) then (s, .at_ (padBase t + off)) else (s, .fail 56))
    | .other v => (s, .away v)
    | .virt v =>
      if pageRefused s (cluOfHart A.hart) A.tag v then (s, .fail 31)
      else
        match translate s (dieOfHart A.hart) (A.slot.getD 0) v write with
        | (s, .ok loc) =>
          (s, if locUp s loc && dieReached s 6 (dieOfHart A.hart) (dieOf (locRouter s loc)) then .at_ loc else .fail 56)
        | (s, .host) => (s, .need (.page v))
        | (s, .err c) => (s, .fail c)

/-- A granule an engine wrote is full, and its waiters are served (R195, R199). -/
def fillGranules (s : State) (loc n : Nat) : State :=
  if isPadLoc loc && isWorker (coreOfLoc loc) then
    (granules loc n).foldl (fun s g => if (s.gbits g).fe then s else wakeFe (s.setFe g true) g) s
  else s

/-- What a unit of the hart's cluster has asked another package for under a number: the answer, once it has come. -/
def farAnswer (s : State) (A : Agent) (key : Nat) : Option (Option Reply) :=
  ((s.cluster (cluOfHart A.hart)).got.find? fun e => e.1 == (A.tag, key)).map fun e => e.2.2
/-- The access of another package that gives a result under a number. -/
def farAccess (s : State) (A : Agent) (key a : Nat) (op : MemOp) : Except (Nat ⊕ Need) (Nat × Bool) :=
  match farAnswer s A key with
  | none => .error (.inr (.far key a op))
  | some none => .error (.inr .later)
  | some (some (.data v bad)) => .ok (v.toNat, bad.isSome)
  | some (some .ack) => .ok (0, false)
  | some (some (.err c _ _)) => .error (.inl (unitCause c))
/-- Bits of n bytes that a unit reads, and their poison; or the cause or the wait it meets. -/
def engRead (s : State) (A : Agent) (r : Reach) (n : Nat) : State × Except (Nat ⊕ Need) (Nat × Bool) :=
  match r with
  | .at_ loc => let (s, v, p) := load s loc n; (s, .ok (v, p.isSome))
  | .away a => (s, farAccess s A (a + 2 ^ 64 * n) (a / 64 * 64) (.loads [(a % 64, n, 0)]))
  | .fail c => (s, .error (.inl c))
  | .need w => (s, .error (.inr w))
/-- Bytes that a unit writes as its write number k, and where they stand in the package. -/
def engWrite (s : State) (A : Agent) (r : Reach) (bytes : List Byte) (poison : Bool) (k : Nat) :
    State × Except (Nat ⊕ Need) (Option Nat) :=
  match r with
  | .at_ loc => (store s none loc bytes poison, .ok (some loc))
  | .away a => (s, (farAccess s A (a + 2 ^ 80 * (k + 1)) a (.store bytes poison)).map fun _ => none)
  | .fail c => (s, .error (.inl c))
  | .need w => (s, .error (.inr w))

/-- Memory as the read of a granule by a command meets it: as it stood when the command began, or as it stands now, by a
free value for each granule (R207, R347, R371). -/
def oldOrNew (s : State) (before : Memory × SMap GBits) (n0 : Nat) (r : Reach) : State :=
  match r with
  | .at_ loc => if (Config.freeBits (n0 + loc / 16)).getLsbD 0 then { s with mem := before.1, gran := before.2 } else s
  | _ => s
/-- The free values of a command's reads are used up. -/
def pastReads (s : State) : State := { s with free := s.free + 2 ^ 64 }
/-- Bank k is one that n bytes from an address of the agent's hart lie in. -/
def bankIn (s : State) (A : Agent) (a : Word) (n : Nat) (k : Bank) : Bool :=
  match k with
  | .pad _ _ => (banksAt s A.hart A.slot a (min n 4112)).contains k
  | .virt slot line => slot == A.slot && decide (a.toNat < 2 ^ 63 ∧ a.toNat / 64 ≤ line ∧ line ≤ (a.toNat + n - 1) / 64)
  | .away line => decide (2 ^ 63 ≤ a.toNat ∧ a.toNat / 64 ≤ line ∧ line ≤ (a.toNat + n - 1) / 64)
/-- A command begins once its hart's earlier accesses to the banks of its arrays, and the images its hart appended before it,
have been performed (R218, R229). -/
def canBegin (s : State) (A : Agent) (l : List (Word × Nat)) : Bool :=
  !imagesBefore (s.hart A.hart) A.born A.imgs
    && !(underWay s A.hart).any fun p => decide (p.id < A.born) && (banksOf s p).any fun k => l.any fun (a, n) => bankIn s A a n k

/-- The element's share of its bytes: the whole, or one half of a byte of t4. -/
def elemOf (ty : Nat) (upper : Bool) (v : Nat) : Nat :=
  if ty = 11 then (if upper then v / 16 % 16 else v % 16) else v
/-- The bytes of an element's place after the element is written. -/
def elemPut (ty : Nat) (upper : Bool) (old v : Nat) : Nat :=
  if ty = 11 then (if upper then old % 16 + v % 16 * 16 else old / 16 * 16 + v % 16) else v

/-- How an engine's element walk stands: the state, where it failed (cause, side, element, address), what it
waits for, and of each granule (in HBM and host memory, each line) it wrote, the half-bytes written
and whether an element in it was poisoned. -/
structure EngRun where
  st   : State
  fail : Option (Nat × Nat × Nat × Word) := none
  need : Option Need := none
  wrote : SMap (Nat × Bool) := []

/-- The granule, or line, that a walk writes at once, and its bytes. -/
def unitOf (loc : Nat) : Nat × Nat := if isPadLoc loc then (loc / 16 * 16, 16) else (loc / 64 * 64, 64)
/-- Note the element written at loc. -/
def noteElem (m : SMap (Nat × Bool)) (loc : Option Nat) (ty n : Nat) (upper p : Bool) : SMap (Nat × Bool) :=
  match loc with
  | none => m
  | some loc =>
    let (u, _) := unitOf loc
    let at_ := 2 * (loc - u) + (if ty = 11 ∧ upper then 1 else 0)
    let (old, q) := SMap.get (0, false) m u
    SMap.put m u (Nat.lor old ((2 ^ (if ty = 11 then 1 else 2 * n) - 1) * 2 ^ at_), q || p)
/-- The end of a walk: each granule it wrote wholly takes the poison of its elements (R193; DEDUCED, log 61), and
each one it wrote at all becomes full, with its data in place (R195, R222). -/
def settleUnits (s : State) (m : SMap (Nat × Bool)) : State :=
  m.foldl (fun s (e : Nat × Nat × Bool) =>
    let n := (unitOf e.1).2
    fillGranules (if e.2.1 = 2 ^ (2 * n) - 1 then poisonWrite s e.1 n e.2.2 else s) e.1 1) s
/-- A walk at its end. -/
def EngRun.settled (R : EngRun) : EngRun := { R with st := settleUnits R.st R.wrote, wrote := [] }

/-- Read element k of a source walk in the memory that `view` shows of where it lies. -/
def readElem (s : State) (A : Agent) (r : Shape) (k : Nat) (view : State → Reach → State) :
    State × Except (Nat ⊕ Need) (Nat × Bool) :=
  let (a, up) := r.elem k
  let (s, t) := reach s A a r.elemBytes false
  ((engRead s A t r.elemBytes).1, (engRead (view s t) A t r.elemBytes).2.map fun (v, p) => (elemOf r.ty up v, p))

/-- Write element k of a destination walk. -/
def writeElem (s : State) (A : Agent) (r : Shape) (k v : Nat) (p : Bool) : State × Except (Nat ⊕ Need) (Option Nat) :=
  let (a, up) := r.elem k
  let (s, t) := reach s A a r.elemBytes true
  match if r.ty = 11 then engRead s A t 1 else (s, .ok (0, false)) with
  | (s, .error e) => (s, .error e)
  | (s, .ok (old, _)) => engWrite s A t (toBytes r.elemBytes (elemPut r.ty up old v)) p k

/-- A unit's access waits: the host is asked about its page, or the access goes to its package through a gateway, from
the units of the cluster (R26). -/
def engAsk (s : State) (A : Agent) : Need → State
  | .page v => askHost s (cluOfHart A.hart) (A.slot.getD 0) v A.tag
  | .far key a op =>
    let g := cluOfHart A.hart
    let id := s.nextId
    (sendAs s (devHart g) A.slot A.key (.mem a op (.unit A.tag) .new)).modCluster g fun G =>
      { G with got := ((A.tag, key), id, none) :: G.got }
  | .later => s

/-- A command has left its engine: the pages refused to it, and what it has read elsewhere, are forgotten. -/
def clearRefused (G : Cluster) (tag : Nat) : Cluster :=
  { G with refused := G.refused.filter fun (f, _) => f != tag, got := G.got.filter fun e => e.1.1 != tag }

/-! The copy engine (R207, R208). -/

/-- The engine's agent of a copy. -/
def CopyCmd.agent (c : CopyCmd) : Agent := { hart := c.hart, slot := c.slot, key := c.key, tag := engIndex .copy, born := c.born, imgs := c.imgs }

/-- One element of a copy. Before the failing element every element is written; each later one is written
or not, as a free value decides (R208). Another decides whether the source is read as it was when the copy began: what the
copy writes where the hulls overlap, and what other agents write meanwhile, is seen or not (R207). -/
def copyElem (A : Agent) (src dst : Shape) (before : Memory × SMap GBits) (R : EngRun) (k : Nat) : EngRun :=
  if R.need.isSome then R
  else
    let (b, s0) := R.st.draw
    if R.fail.isSome && !b.getLsbD 0 then { R with st := s0 }
    else
      match readElem s0 A src k (fun s _ => if b.getLsbD 1 then { s with mem := before.1, gran := before.2 } else s) with
      | (s1, .error (.inl c)) => { R with st := s1, fail := R.fail <|> some (c, 0, k, (src.elem k).1) }
      | (s1, .error (.inr v)) => { R with st := s1, need := some v }
      | (s1, .ok (v, p)) =>
        match writeElem s1 A dst k v p with
        | (s2, .error (.inl c)) => { R with st := s2, fail := R.fail <|> some (c, 1, k, (dst.elem k).1) }
        | (s2, .error (.inr v)) => { R with st := s2, need := some v }
        | (s2, .ok loc) => { R with st := s2, wrote := noteElem R.wrote loc dst.ty dst.elemBytes (dst.elem k).2 p }

/-- The status word of a failed copy (R208). -/
def copyStatus (code side index : Nat) : Word := word (2 ^ 63 + code * 2 ^ 56 + side * 2 ^ 55 + index)

/-- The code of a record fault, if the records have one, and its side where one record alone is at fault (R207, R208). -/
def copyRecordCode (c : CopyCmd) : Option (Nat × Option Nat) :=
  match c.src.valid, c.dst.valid with
  | false, true => some (0x70, some 0)
  | true, false => some (0x70, some 1)
  | false, false => some (0x70, none)
  | true, true =>
    if c.src.ty ≠ c.dst.ty ∨ c.src.count ≠ c.dst.count ∨ 2 ^ 48 ≤ c.src.count then some (0x71, none) else none

/-- The copy is performed: the status it ends with, or what it waits for (DEDUCED, log 41). The side of a record fault that
both records share is a free value (DESIGN CHOICE, log 62). -/
def runCopy (s : State) (c : CopyCmd) (before : Memory × SMap GBits) : State × Word × Option Need :=
  match copyRecordCode c with
  | some (code, some side) => (s, copyStatus code side 0, none)
  | some (code, none) => let (b, s) := s.draw; (s, copyStatus code (b.toNat % 2) 0, none)
  | none =>
    let R := ((List.range c.src.count).foldl (copyElem c.agent c.src c.dst before) { st := s }).settled
    (R.st, (match R.fail with | some (code, side, k, _) => copyStatus code side k | none => 0), R.need)

/-- A copy ends: its status is noted, its locks are released (R242) and its place is free. -/
def endCopy (s : State) (g : Nat) (c : CopyCmd) (status : Word) : State :=
  let s := s.modCluster g fun G => clearRefused { G with copyQ := G.copyQ.tail, copyFrom := none } (engIndex .copy)
  let s := s.modCore (coreOf c.hart) fun C => dropLocks C c.locks
  s.modHart c.hart fun H =>
    { H with copies := H.copies.map fun q => if q.tag = c.tag then { q with status := some status } else q }

/-- The hulls of a command's shapes, as bases and lengths. -/
def hullsOf (s : State) (h : Nat) (l : List Shape) : List (Word × Nat) :=
  l.filterMap fun r => (hull s h r).map fun (lo, hi) => (word lo, hi + 1 - lo)
/-- R207: the command at the head of the copy engine's queue begins, and then ends. A fill at the head is the matrix
engine's. -/
def execCopyCompletion (clu : Nat) (s : State) : Host.Outcome State Fault Refusal :=
  match (s.cluster clu).copyQ, (s.cluster clu).copyFrom with
  | [], _ => .next s
  | c :: _, none =>
    if c.fill || !canBegin s c.agent (hullsOf s c.hart [c.src, c.dst]) then .next s
    else .next (s.modCluster clu fun G => { G with copyFrom := some (s.mem, s.gran) })
  | c :: _, some before =>
    if c.fill then .next s
    else
      match runCopy s c before with
      | (t, status, none) => .next (endCopy t clu c status)
      | (_, _, some n) => .next (engAsk s c.agent n)

/-! Places of the shared queues (R37). -/

/-- The first stalled core after the last receiver that holds fewer than 4 places. -/
def nextStalled (s : State) (g : Nat) (e : Engine) : Option Nat :=
  let G := s.cluster g
  let last := SMap.get 15 G.engLast (engIndex e)
  ((List.range 16).map fun i => (last + 1 + i) % 16).find? fun k =>
    stallsFor s g e k && !G.engGrant.contains (e, k) && decide (((engCores G e).filter fun c => c == k).length < 4)

/-- R37: grants of cores that no longer stall lapse; a free place goes to the next stalled core. -/
def execEngineQueueGrant (clu : Nat) (eng : Engine) (s : State) : Host.Outcome State Fault Refusal :=
  let s := s.modCluster clu fun G =>
    { G with engGrant := G.engGrant.filter fun (f, k) => f != eng || stallsFor s clu eng k }
  let G := s.cluster clu
  if (engCores G eng).length + grantsOf G eng < 16 then
    match nextStalled s clu eng with
    | some k => .next (s.modCluster clu fun G =>
        { G with engGrant := G.engGrant ++ [(eng, k)], engLast := SMap.put G.engLast (engIndex eng) k })
    | none => .next s
  else .next s

end Sys2Proof.Machine
end

