-- ==== Sys2Proof/Machine/Matrix.lean ====
section
/-! DEFINITION. The butterfly matrix engine (R318 to R353): leases, logical slots and accumulators, the
stage, fill and drain commands at issue, and the engine's own steps. -/

namespace Sys2Proof.Machine
open Sys2Proof

/-! The lease (R319 to R321). -/

/-- LEASE (48) with a code. -/
def leaseBad (code : Nat) : Pre := .trap 48 (word code)
/-- SLOT (49) with a code and the number concerned (R333). -/
def slotBad (code n : Nat) : Pre := .trap 49 (word (code + n % 256 * 256))

/-- The lease ends: its core is the last holder. -/
def endLease (G : Cluster) : Cluster :=
  match G.lease with
  | some k => { G with lease := none, rem := 0, lastLease := k }
  | none => G
/-- The executing hart's core holds the lease. -/
def holdsLease (s : State) : Bool := (s.cluster (cluOfHart s.cur)).lease == some (coreOf s.cur % 16)

/-- The counts of the harts of core k of cluster g that wait in an MLEASE. -/
def leaseWaits (s : State) (g k : Nat) : List (Nat × Nat) :=
  (hartsOf (coreAt g k)).filterMap fun h => match (s.hart h).stalled with | some (.lease n) => some (h, n) | _ => none
/-- The lease goes to core k: every MLEASE that waits there retires, and REM is the largest count (R321). -/
def grantLease (s : State) (g k : Nat) : State :=
  let w := leaseWaits s g k
  let s := s.modCluster g fun G =>
    { G with lease := some k, rem := (w.map fun (_, n) => n).foldl max 0, leaseReq := G.leaseReq.filter fun (c, _) => c != k }
  w.foldl (fun s (h, _) => retire s h) s
/-- The core that is granted next: the first requesting one after the last holder (R319). -/
def nextLease (G : Cluster) : Option Nat :=
  ((List.range 16).map fun i => (G.lastLease + 1 + i) % 16).find? fun k => G.leaseReq.any fun (c, _) => c == k

/-- R321: a holder gives up its lease first; a free lease that nobody else waits for is granted at once. -/
def execMlease (rs1 : BitVec 5) (s : State) : Host.Outcome State Fault Refusal :=
  let n := (s.x rs1).toNat
  let g := cluOfHart s.cur
  let k := coreOf s.cur % 16
  let again := match s.me.stalled with | some (.lease _) => true | _ => false
  if n = 0 ∨ 64 < n then finish s (leaseBad 2) s
  else if again then .next s
  else
    let G := s.cluster g
    let idle := G.lease.isNone && G.leaseReq.all fun (c, _) => c == k
    let s1 := s.modCluster g fun G =>
      let G := if G.lease = some k then endLease G else G
      { G with leaseReq := G.leaseReq.filter (fun (c, _) => c != k) ++ [(k, n)] }
    let s2 := s1.modHart s.cur fun H => { H with stalled := some (.lease n) }
    .next (if idle then grantLease s2 g k else s2)

/-- R321. -/
def execMrel (s : State) : Host.Outcome State Fault Refusal :=
  finish s .ok (retire (if holdsLease s then s.modCluster (cluOfHart s.cur) endLease else s) s.cur)

/-- An interrupt withdraws the request of a hart that waits in MLEASE, unless another hart of the core
waits too (R321). -/
def withdrawLease (s : State) (h : Nat) : State :=
  match (s.hart h).stalled with
  | some (.lease _) =>
    let g := cluOfHart h
    let k := coreOf h % 16
    if (leaseWaits s g k).length ≤ 1 then
      s.modCluster g fun G => { G with leaseReq := G.leaseReq.filter fun (c, _) => c != k }
    else s
  | _ => s

/-- R319: the lease goes to the next requesting core. -/
def execLeaseGrant (clu : Nat) (s : State) : Host.Outcome State Fault Refusal :=
  match (s.cluster clu).lease, nextLease (s.cluster clu) with
  | none, some k => .next (grantLease s clu k)
  | _, _ => .next s
/-- R319: 4,096 idle cycles while another core's request waits end the lease. -/
def execLeaseIdleTimeout (clu : Nat) (s : State) : Host.Outcome State Fault Refusal :=
  let G := s.cluster clu
  if G.lease.isSome && G.leaseReq.any (fun (c, _) => G.lease != some c) then .next (s.modCluster clu endLease) else .next s

/-! Logical numbers (R322 to R326). -/

def mappedSlot (H : Hart) (n : Nat) : Bool := (SMap.find? H.slots n).isSome
def mappedAcc (H : Hart) (n : Nat) : Bool := (SMap.find? H.accs n).isSome
/-- The map of the kind, and how many numbers it has. -/
def mapOf (H : Hart) (acc : Bool) : SMap Nat := if acc then H.accs else H.slots
def mapSize (acc : Bool) : Nat := if acc then 8 else 128
def withMap (H : Hart) (acc : Bool) (m : SMap Nat) : Hart := if acc then { H with accs := m } else { H with slots := m }

/-- The physical units of a kind that no hart of cluster g has mapped and that are clear. -/
def freeUnits (s : State) (g : Nat) (acc : Bool) : List Nat :=
  (List.range (mapSize acc)).filter fun u =>
    !(s.cluster g).clearing.contains (if acc then 128 + u else u)
      && (List.range 64).all fun i => !(mapOf (s.hart (g * 64 + i)) acc).any fun (_, p) => p == u

/-- The lowest aligned run of n unmapped logical numbers. -/
def freeRun (m : SMap Nat) (size n : Nat) : Option Nat :=
  let al := if 4 ≤ n then 4 else if 2 ≤ n then 2 else 1
  (List.range size).find? fun l =>
    l % al == 0 && decide (l + n ≤ size) && (List.range n).all fun i => (SMap.find? m (l + i)).isNone

/-- R324. -/
def execOclaim (rd rs1 : BitVec 5) (s : State) : Host.Outcome State Fault Refusal :=
  let v := s.x rs1
  let acc := bit v 63
  let n := v.toNat % 256
  let m := mapOf s.me acc
  let units := freeUnits s (cluOfHart s.cur) acc
  let t : State :=
    match freeRun m (mapSize acc) n with
    | some l =>
      if n ≤ units.length then
        retireWith s fun H =>
          (withMap H acc (((List.range n).zip units).foldl (fun m (i, u) => SMap.put m (l + i) u) m)).setX rd.toNat (word l)
      else retireX s rd (-1)
    | none => retireX s rd (-1)
  finish s (.all [(if bits v 8 55 = 0 then .ok else slotBad 6 0), (if n = 0 ∨ mapSize acc < n then slotBad 5 0 else .ok),
      armedW s rd]) t

/-- A command of hart h in the engine's queue names a logical number (accumulators from 128). -/
def namedBy (s : State) (h n : Nat) : Bool :=
  (s.cluster (cluOfHart h)).matQ.any fun c => c.hart == h && c.uses.contains n

/-- Stored errors of a physical slot, or of an accumulator's words from a word on, go with what is written there (R318). -/
def cleanSlot (G : Cluster) (u : Nat) : Cluster := { G with flaws := G.flaws.filter fun (k, _) => !decide (k < 65536 ∧ k / 512 = u) }
def cleanAcc (G : Cluster) (u r n : Nat) : Cluster :=
  let lo := 65536 + u * 4096 + r * 128
  { G with flaws := G.flaws.filter fun (k, _) => !decide (lo ≤ k ∧ k < lo + 128 * n) }
/-- A physical slot or accumulator is written to zero and is being cleared (R325). -/
def wipeSlot (s : State) (g u : Nat) : State :=
  let lo := opLoc g (u * 8192)
  let s := s.modCluster g fun G => cleanSlot G u
  { s with mem := s.mem.filter fun (a, _) => !decide (lo ≤ a ∧ a < lo + 8192)
           gran := s.gran.filter fun (a, _) => !decide (lo / 16 ≤ a ∧ a < lo / 16 + 512) }
def wipeAcc (G : Cluster) (u : Nat) : Cluster :=
  let G := cleanAcc G u 0 32
  { G with acc := G.acc.filter fun (k, _) => k / 4096 != u, accPoi := G.accPoi.filter fun (k, _) => k / 32 != u }
def wipe (s : State) (g : Nat) (acc : Bool) (u : Nat) : State :=
  let s := if acc then s.modCluster g fun G => wipeAcc G u else wipeSlot s g u
  s.modCluster g fun G => { G with clearing := G.clearing ++ [if acc then 128 + u else u] }

/-- Unmap logical numbers of hart h. -/
def unmap (s : State) (h : Nat) (acc : Bool) (ns : List Nat) : State :=
  let m := mapOf (s.hart h) acc
  let s := (ns.filterMap fun n => SMap.find? m n).foldl (fun s u => wipe s (cluOfHart h) acc u) s
  s.modHart h fun H => withMap H acc (ns.foldl (fun m n => SMap.del m n) m)

/-- R325. -/
def execOrel (rs1 rs2 : BitVec 5) (s : State) : Host.Outcome State Fault Refusal :=
  let v := s.x rs1
  let acc := bit v 63
  let n := (s.x rs2).toNat
  let l := v.toNat % mapSize acc
  let ns := if n ≤ 128 then (List.range n).map fun i => l + i else []
  let m := mapOf s.me acc
  let off := if acc then 128 else 0
  finish s (.all [(if v.toNat % 2 ^ 63 / mapSize acc = 0 then .ok else slotBad 6 0),
      (if n = 0 ∨ mapSize acc < l + n then slotBad 5 0 else .ok),
      (match ns.find? fun k => (SMap.find? m k).isNone with | some k => slotBad 1 k | none => .ok),
      ready (ns.all fun k => !namedBy s s.cur (off + k))])
    (retire (unmap s s.cur acc ns) s.cur)

/-- Every logical number of a hart is unmapped. -/
def unmapAll (s : State) (h : Nat) : State :=
  let s := unmap s h false ((s.hart h).slots.map fun (n, _) => n)
  unmap s h true ((s.hart h).accs.map fun (n, _) => n)
/-- The engine state of a hart is released (R326). -/
def releaseEngine (s : State) (h : Nat) : State :=
  (unmapAll s h).modHart h fun H => { H with csr := { H.csr with mstr := [] } }

/-- R325: the oldest unit being cleared becomes free. -/
def execSlotClearDone (clu : Nat) (s : State) : Host.Outcome State Fault Refusal :=
  .next (s.modCluster clu fun G => { G with clearing := G.clearing.tail })

/-! Stride registers (R327, R328). -/

def mstrOf (H : Hart) (n : Nat) : Word := SMap.get 0x00000700FFFFFFFF H.csr.mstr n
def strStride (w : Word) : Nat := bits w 42 7
def strBlock (w : Word) : Nat := 2 ^ bits w 39 3
def strPartner (w : Word) : Nat := bits w 32 7
def strRow (w : Word) (r : Nat) : Bool := bit w r

/-- R328. -/
def execMstride (rs1 rs2 : BitVec 5) (s : State) : Host.Outcome State Fault Refusal :=
  let i := s.x rs1
  finish s (if i.toNat < 8 then .ok else slotBad 6 i.toNat) (retire (csrWrite s s.cur (0x820 + i.toNat) (s.x rs2)) s.cur)

/-! Weight areas (R330). -/

/-- Round up to 64. -/
def up64 (n : Nat) : Nat := (n + 63) / 64 * 64

/-- A weight area in logical operand bytes: its header, weights, scales and end. -/
structure Area where
  head   : Nat
  weight : Nat
  scale  : Nat
  stop   : Nat
  deriving DecidableEq, Repr

/-- Bytes of n weight elements. -/
def weightBytes (fb : Fmt) (n : Nat) : Nat := if fb = .cb2 then n / 4 else n * fb.width / 8
/-- A format that carries scales. -/
def blocked (f : Fmt) : Bool := f.isF8 || f == .t4 || f == .cb2

/-- The area of an in-tile stage from a start. -/
def areaAt (start : Nat) (fb : Fmt) (b : Nat) (blk : Bool) : Area :=
  let head := match fb with | .t4 => 64 | .cb2 => 1024 | _ => 0
  let w := up64 (start + head)
  let wEnd := w + weightBytes fb (256 * b)
  let sc := up64 wEnd
  { head := start, weight := w, scale := sc, stop := if blk && blocked fb then sc + 8 * b else wEnd }
/-- The area of a cross-tile stage. -/
def crossArea (start : Nat) (fb : Fmt) : Area :=
  { head := start, weight := start, scale := start, stop := start + weightBytes fb 512 }
/-- The areas of a chain's stages (R330). -/
def chainAreas (start : Nat) (fb : Fmt) : List Word → List Area
  | [] => []
  | w :: r => let a := areaAt start fb (strBlock w) false; a :: chainAreas (up64 a.stop) fb r

/-- The logical slots a byte range touches. -/
def slotsOf (lo hi : Nat) : List Nat :=
  if hi ≤ lo then [] else (List.range ((hi - 1) / 8192 - lo / 8192 + 1)).map fun i => lo / 8192 + i

/-! The checks of a command (R333). -/

def leasePre (s : State) : Pre := if holdsLease s then .ok else leaseBad 1
/-- The first unmapped number of a list of slots, then of accumulators. -/
def mapPre (H : Hart) (slots accs : List Nat) : Pre :=
  match slots.find? fun n => !mappedSlot H n, accs.find? fun n => !mappedAcc H n with
  | some n, _ => slotBad 1 n
  | none, some n => slotBad 1 n
  | none, none => .ok
/-- The stride reaches outside the tile. -/
def stridePre (l : List (Nat × Word)) : Pre :=
  match l.find? fun (_, w) => strStride w == 0 || decide (128 / strBlock w ≤ strStride w) with
  | some (m, _) => slotBad 3 m
  | none => .ok
/-- Scales need blocks of 32. -/
def scalePre (blk : Bool) (l : List (Nat × Word)) : Pre :=
  match l.find? fun (_, w) => blk && decide (strBlock w < 32) with
  | some (m, _) => slotBad 4 m
  | none => .ok
/-- The areas lie in mapped slots 4·sw .. 4·sw + 3. -/
def areaPre (H : Hart) (sw : Nat) (areas : List Area) : Pre :=
  if areas.all fun a => decide (a.stop ≤ (4 * sw + 4) * 8192) && (slotsOf a.head a.stop).all fun n => mappedSlot H n
  then .ok else slotBad 2 (4 * sw)
/-- The engine queue has a place. -/
def matPre (s : State) : Pre := ready (decide ((s.cluster (cluOfHart s.cur)).matQ.length < 16)) (.queue .matrix)

/-- Accept a command at Retire(): REM counts down and may end the lease; a hart with an unreported failure
has it discarded (R333, R348). -/
def accept (s : State) (op : MatOp) (uses : List Nat) (locks : List Nat) (fill : Bool) : State :=
  let H := s.me
  s.modCluster (cluOfHart s.cur) fun G =>
    let G := if G.rem ≤ 1 then endLease G else { G with rem := G.rem - 1 }
    if H.engFail.isSome then G
    else
      let c : MatCmd := { hart := s.cur, slot := slotOf H, key := keyOf H, op := op, uses := uses, slots := H.slots, accs := H.accs, locks := locks,
                          born := s.nextId, imgs := imagesNow H }
      let G := { G with matQ := G.matQ ++ [c] }
      if fill then
        { takePlace G .copy (coreOf s.cur % 16) with
          copyQ := G.copyQ ++ [{ hart := s.cur, slot := slotOf H, key := keyOf H, tag := 0, src := (parseShape []), dst := (parseShape []), locks := [], fill := true }] }
      else G

/-- The slots an area list touches. -/
def areaSlots (areas : List Area) : List Nat := (areas.map fun a => slotsOf a.head a.stop).flatten
/-- The formats of a stage command: the pending payload, or the default (R331). -/
def stageTypes (H : Hart) : Payload :=
  if H.pfx then (payloadOf H.payload).getD ⟨.bf16, .bf16, .f32, .plain⟩ else ⟨.bf16, .bf16, .f32, .plain⟩
/-- The X slots of a tile. -/
def tileSlots (n : Nat) (fa : Fmt) : List Nat := if fa = .f32 then [n, n + 1] else [n]

/-- A stage command after its checks: accepted, retired, paced by sc. -/
def stageRetire (s : State) (op : MatOp) (uses : List Nat) (sc : BitVec 3) : State :=
  vretire s (accept s op uses [] false) [] 1 sc []

/-- MSTG and MSTG.acc (R338). -/
def stageCmd (sx : BitVec 6) (sw : BitVec 5) (ac ms sc : BitVec 3) (acc : Bool) (s : State) : Host.Outcome State Fault Refusal :=
  let H := s.me
  let p := stageTypes H
  let w := mstrOf H ms.toNat
  let x := tileSlots (2 * sx.toNat) p.fa
  let blk := p.sm == .src
  let area := areaAt (4 * sw.toNat * 8192) p.fb (strBlock w) blk
  finish s (.all [leasePre s, mapPre H x [ac.toNat], stridePre [(ms.toNat, w)], scalePre blk [(ms.toNat, w)], areaPre H sw.toNat [area], matPre s])
    (stageRetire s (.stage (2 * sx.toNat) sw.toNat ac.toNat acc w p.fa p.fb p.fd blk) (x ++ areaSlots [area] ++ [128 + ac.toNat]) sc)
/-- R338. -/
def execMstg (sx : BitVec 6) (sw : BitVec 5) (ac ms sc : BitVec 3) (s : State) : Host.Outcome State Fault Refusal :=
  stageCmd sx sw ac ms sc false s
/-- R338. -/
def execMstgAcc (sx : BitVec 6) (sw : BitVec 5) (ac ms sc : BitVec 3) (s : State) : Host.Outcome State Fault Refusal :=
  stageCmd sx sw ac ms sc true s

/-- MXST and MXST.acc (R338). -/
def crossCmd (sx : BitVec 6) (sw : BitVec 5) (ac : BitVec 2) (ms sc : BitVec 3) (acc : Bool) (s : State) : Host.Outcome State Fault Refusal :=
  let H := s.me
  let p := stageTypes H
  let w := mstrOf H ms.toNat
  let q := strPartner w
  let a := 2 * ac.toNat
  let x := tileSlots (2 * sx.toNat) p.fa ++ tileSlots q p.fa
  let area := crossArea (4 * sw.toNat * 8192) p.fb
  finish s (.all [leasePre s, mapPre H x [a, a + 1], (if p.fa = .f32 ∧ q % 2 = 1 then slotBad 7 q else .ok), areaPre H sw.toNat [area], matPre s])
    (stageRetire s (.cross (2 * sx.toNat) q sw.toNat a acc w p.fa p.fb p.fd) (x ++ areaSlots [area] ++ [128 + a, 129 + a]) sc)
/-- R338. -/
def execMxst (sx : BitVec 6) (sw : BitVec 5) (ac : BitVec 2) (ms sc : BitVec 3) (s : State) : Host.Outcome State Fault Refusal :=
  crossCmd sx sw ac ms sc false s
/-- R338. -/
def execMxstAcc (sx : BitVec 6) (sw : BitVec 5) (ac : BitVec 2) (ms sc : BitVec 3) (s : State) : Host.Outcome State Fault Refusal :=
  crossCmd sx sw ac ms sc true s

/-- The stride registers a chain copies: mstr[ms] to mstr7. -/
def chainStrs (H : Hart) (ms : Nat) : List (Nat × Word) := ((List.range 8).filter fun m => decide (ms ≤ m)).map fun m => (m, mstrOf H m)
/-- MCHAIN and MCHAIN.acc (R338); the bf16sr form steps the hart's LFSR once (R339). -/
def chainCmd (sx : BitVec 6) (sw : BitVec 5) (ac ms sc : BitVec 3) (cf : ChainFmt) (acc : Bool) (s : State) : Host.Outcome State Fault Refusal :=
  let H := s.me
  let p := stageTypes H
  let l := chainStrs H ms.toNat
  let x := tileSlots (2 * sx.toNat) p.fa
  let areas := chainAreas (4 * sw.toNat * 8192) p.fb (l.map fun (_, w) => w)
  let t := stageRetire s (.chain (2 * sx.toNat) sw.toNat ac.toNat acc (l.map fun (_, w) => w) p.fa p.fb cf H.lfsr)
    (x ++ areaSlots areas ++ [128 + ac.toNat]) sc
  finish s (.all [leasePre s, mapPre H x [ac.toNat], stridePre l, areaPre H sw.toNat areas, matPre s])
    (if cf = .bf16sr then t.modHart s.cur fun H => { H with lfsr := lfsrStep H.lfsr } else t)
/-- R338. -/
def execMchain (sx : BitVec 6) (sw : BitVec 5) (ac ms sc : BitVec 3) (cf : ChainFmt) (s : State) : Host.Outcome State Fault Refusal :=
  chainCmd sx sw ac ms sc cf false s
/-- R338. -/
def execMchainAcc (sx : BitVec 6) (sw : BitVec 5) (ac ms sc : BitVec 3) (cf : ChainFmt) (s : State) : Host.Outcome State Fault Refusal :=
  chainCmd sx sw ac ms sc cf true s

/-- R341. -/
def execMaccz (rs1 : BitVec 5) (s : State) : Host.Outcome State Fault Refusal :=
  let a := (s.x rs1).toNat
  finish s (.all [leasePre s, (if a < 8 then .ok else slotBad 6 a), mapPre s.me [] [a], matPre s])
    (retire (accept s (.zero a) [128 + a] [] false) s.cur)

/-- The logical byte span of a fill. -/
def fillSpan (slot off : Nat) (r : Shape) : Nat × Nat :=
  let lo := 8192 * slot + off
  (lo, lo + (if r.ty = 11 then (r.count + 1) / 2 else r.count * r.step))

/-- R343. -/
def execOfill (rs1 rs2 : BitVec 5) (s : State) : Host.Outcome State Fault Refusal :=
  let v := s.x rs1
  let a := s.x rs2
  let s := if leasePre s == .ok then readRecord s a 8 32 else s
  let r := parseShape (recordBytes s a 32)
  let slot := v.toNat % 128
  let off := bits v 7 13
  let (lo, hi) := fillSpan slot off r
  let sl := slotsOf lo (min hi (128 * 8192))
  let lk := if s.me.engFail.isSome then [] else locksOf s .matrix [(hull s s.cur r, false)]
  let (s1, ns) := regLocks s lk
  finish s (.all [leasePre s, recordPre s a 8, poisonPre s a 32, (if r.valid then .ok else slotBad 9 0),
      (if v.toNat / 2 ^ 20 = 0 then .ok else slotBad 6 0), mapPre s.me sl [],
      (if hi ≤ 128 * 8192 then .ok else slotBad 2 slot), matPre s, queuePre s .copy, entriesPre s 1])
    (retire (accept s1 (.fill slot off r) sl ns true) s.cur)

/-- The formats of a drain: the pending payload, or f32 to bf16 (R331). -/
def drainTypes (H : Hart) : Payload :=
  if H.pfx then (payloadOf H.payload).getD ⟨.f32, .none, .bf16, .plain⟩ else ⟨.f32, .none, .bf16, .plain⟩

/-- ODRAIN and ODRAIN.amax (R344). -/
def drainCmd (rs1 rs2 : BitVec 5) (amax : Bool) (s : State) : Host.Outcome State Fault Refusal :=
  let v := s.x rs1
  let a := s.x rs2
  let s := if leasePre s == .ok then readRecord s a 8 32 else s
  let p := drainTypes s.me
  let r := parseShape (recordBytes s a 32)
  let ac := v.toNat % 8
  let lk := if s.me.engFail.isSome then [] else locksOf s .matrix [(hull s s.cur r, true)]
  let (s1, ns) := regLocks s lk
  finish s (.all [leasePre s, recordPre s a 8, poisonPre s a 32, (if r.valid then .ok else slotBad 9 0),
      (if bits v 3 5 = 0 ∧ bits v 10 22 = 0 then .ok else slotBad 6 0), mapPre s.me [] [ac],
      (if r.ty = p.fd.code ∧ r.count = 4096 then .ok else slotBad 10 0), matPre s, entriesPre s 1])
    (retire (accept s1 (.drain ac r (w32 (bits v 32 32)) (bit v 9) (bit v 8) amax p.fa p.fd) [128 + ac] ns false) s.cur)
/-- R344. -/
def execOdrain (rs1 rs2 : BitVec 5) (s : State) : Host.Outcome State Fault Refusal := drainCmd rs1 rs2 false s
/-- R344. -/
def execOdrainAmax (rs1 rs2 : BitVec 5) (s : State) : Host.Outcome State Fault Refusal := drainCmd rs1 rs2 true s

/-- The deferred fault of a failed command (R348). -/
def engFailPre (H : Hart) : Pre :=
  match H.engFail with
  | some (c, a) => .trap c a .engine
  | none => .ok
/-- Commands of hart h that have not completed or been discarded. -/
def hasCommands (s : State) (h : Nat) : Bool := (s.cluster (cluOfHart h)).matQ.any fun c => c.hart == h
/-- R348. -/
def execMwait (s : State) : Host.Outcome State Fault Refusal :=
  finish s (.seq (ready (!hasCommands s s.cur)) (engFailPre s.me)) (retire s s.cur)

/-! Stored errors (R318): what a read of operand memory or of accumulator words does to them. -/

/-- Errors among the keys of a read are repaired; the keys of those that are not correctable are answered. -/
def readFlaws (G : Cluster) (mine : Nat → Bool) : Cluster × List Nat :=
  ({ G with flaws := G.flaws.filter fun (k, _) => !mine k }, (G.flaws.filter fun (k, b) => b && mine k).map fun (k, _) => k)
/-- n bytes of a command's logical operand memory are read. -/
def readOperand (s : State) (g : Nat) (c : MatCmd) (lo n : Nat) : State :=
  let keys := if n = 0 ∨ (s.cluster g).flaws.isEmpty then [] else
    (List.range ((lo + n - 1) / 16 - lo / 16 + 1)).map fun i => SMap.get 0 c.slots ((lo / 16 + i) / 512) * 512 + (lo / 16 + i) % 512
  let (G, bad) := readFlaws (s.cluster g) fun k => keys.contains k
  bad.foldl (fun s k => s.setPoi (opLoc g (k * 16)) true) (s.setCluster g G)
/-- Row r of accumulator unit u is read. -/
def readAccRow (s : State) (g u r : Nat) : State :=
  let lo := 65536 + u * 4096 + r * 128
  let (G, bad) := readFlaws (s.cluster g) fun k => decide (lo ≤ k ∧ k < lo + 128)
  s.setCluster g (if bad.isEmpty then G else { G with accPoi := SMap.set false G.accPoi (u * 32 + r) true })
def readAccRows (s : State) (g u : Nat) (rows : List Nat) : State := rows.foldl (fun s r => readAccRow s g u r) s

/-! The engine's arithmetic (R329 to R340). -/

/-- The location of a logical operand byte under a command's map. -/
def opByte (g : Nat) (c : MatCmd) (a : Nat) : Nat := opLoc g (SMap.get 0 c.slots (a / 8192) * 8192 + a % 8192)
def opNum (s : State) (g : Nat) (c : MatCmd) (a n : Nat) : Nat := s.loadN (opByte g c a) n
/-- Some granule of a logical byte range is poisoned. -/
def opPoisoned (s : State) (g : Nat) (c : MatCmd) (lo n : Nat) : Bool :=
  if n = 0 then false
  else (List.range ((lo + n - 1) / 16 - lo / 16 + 1)).any fun i => (s.gbits (opByte g c ((lo / 16 + i) * 16))).poi

/-- A tile of 32 rows: values, the scale byte of 32-element block q of row r, and the poison of each row. -/
structure Tile where
  row   : List (List FVal)
  scale : Nat → Nat → Nat
  poi   : List Bool

/-- The X tile at a logical slot (R329). -/
def xTile (s : State) (g : Nat) (c : MatCmd) (slot : Nat) (fa : Fmt) (blk : Bool) : Tile :=
  let z := fa.width / 8
  let at_ (r e : Nat) : Nat := slot * 8192 + (128 * r + e) * z
  let scaled := blk && fa.isF8
  let scAt (r q : Nat) : Nat := slot * 8192 + 4096 + 4 * r + q
  { row := (List.range 32).map fun r => (List.range 128).map fun e => elemVal {} fa (opNum s g c (at_ r e) z)
    scale := fun r q => if scaled then opNum s g c (scAt r q) 1 else 127
    poi := (List.range 32).map fun r => opPoisoned s g c (at_ r 0) (128 * z) || (scaled && opPoisoned s g c (scAt r 0) 4) }

/-- The tables in an area's header, as a hart would hold them (R330). -/
def areaTables (s : State) (g : Nat) (c : MatCmd) (a : Area) (fb : Fmt) : Hart :=
  match fb with
  | .t4 => { t4 := (List.range 16).map fun k => (k, BitVec.ofNat 8 (opNum s g c (a.head + k) 1)) }
  | .cb2 => { cb2 := (List.range 256).map fun k => (k, w32 (opNum s g c (a.head + 4 * k) 4)) }
  | _ => {}

/-- Weight element k of an area. -/
def weightAt (s : State) (g : Nat) (c : MatCmd) (a : Area) (fb : Fmt) (tab : Hart) (k : Nat) : FVal :=
  match fb with
  | .t4 => elemVal tab .t4 (opNum s g c (a.weight + k / 2) 1 / 16 ^ (k % 2) % 16)
  | .cb2 => (cb2Weights tab (opNum s g c (a.weight + k / 8 * 2) 2)).getD (k % 8) .nan
  | f => elemVal tab f (opNum s g c (a.weight + k * (f.width / 8)) (f.width / 8))

/-- The exact sum of products of one group, +0 when it is zero (R334, R336). -/
def groupSum (l : List (FVal × FVal)) : FVal :=
  match l.foldl (fun t (a, b) => FVal.add false t (a.mul b)) (.fin false 0 0) with
  | .fin s m e => if m = 0 then .fin false 0 e else .fin s m e
  | v => v

/-- Accumulate a rounded group into a running f32 total. -/
def accumulate (t : Option Nat) (G : FVal) : Option Nat :=
  let u := rne f32F G
  some (match t with
    | none => u
    | some t => rne f32F (FVal.add false (f32F.dec t) (f32F.dec u)))

/-- An integer product sum modulo 2^32 (R337). -/
def intOf : FVal → Int
  | .fin s m e => sgn s (m * 2 ^ e.toNat)
  | _ => 0
def intSum (t : Nat) (l : List (FVal × FVal)) : Nat :=
  ofSigned 32 ((t : Int) + (l.map fun (a, b) => intOf a * intOf b).sum)

/-- Element e of a row of an in-tile stage (R330, R334 to R337): `old` is the accumulator word of .acc. -/
def stageElem (row : List FVal) (xs : Nat → Nat) (wt : Nat → FVal) (ws : Nat → Nat) (b st : Nat) (int : Bool)
    (old : Option Nat) (e : Nat) : Nat :=
  let k := e / b
  let partner := Nat.xor k st
  let i := min k partner
  let j := max k partner
  let p := ((List.range i).filter fun m => decide (m < Nat.xor m st)).length
  let o := if k = i then e - i * b else e - j * b + b
  let pos (c : Nat) : Nat := if c < b then i * b + c else j * b + (c - b)
  let terms (cs : List Nat) : List (FVal × FVal) :=
    cs.map fun c => (wt (4 * b * b * p + 2 * b * o + c), row.getD (pos c) .nan)
  if int then intSum (old.getD 0) (terms (List.range (2 * b)))
  else
    ((List.range ((2 * b + 31) / 32)).foldl (fun t q =>
      let G := groupSum (terms ((List.range (min 32 (2 * b - 32 * q))).map fun c => 32 * q + c))
      accumulate t (scaleBy (xs (pos (32 * q) / 32)) (scaleBy (ws ((4 * b * b * p + 2 * b * o + 32 * q) / 32)) G))) old).getD 0

/-- The accumulator words and poison of physical unit u. -/
def accWord (G : Cluster) (u r e : Nat) : Nat := (SMap.get 0 G.acc (u * 4096 + r * 128 + e)).toNat
def accPoisoned (G : Cluster) (u r : Nat) : Bool := SMap.get false G.accPoi (u * 32 + r)

/-- The rows a command computes. -/
def rowsOf (w : Word) : List Nat := (List.range 32).filter fun r => strRow w r

/-- One in-tile stage over a tile: for each row of the mask, its words and its poison (R338, R340). -/
def stageRows (s : State) (g : Nat) (c : MatCmd) (Y : Tile) (a : Area) (fa fb fd : Fmt) (blk : Bool) (mask w : Word)
    (old : Option Nat) : List (Nat × List Nat × Bool) :=
  let G := s.cluster g
  let tab := areaTables s g c a fb
  let wt := weightAt s g c a fb tab
  let ws (q : Nat) : Nat := if blk && blocked fb then opNum s g c (a.scale + q) 1 else 127
  let bad := opPoisoned s g c a.head (a.stop - a.head)
  (rowsOf mask).map fun r =>
    (r, (List.range 128).map (fun e => stageElem (Y.row.getD r []) (fun q => if blk && fa.isF8 then Y.scale r q else 127) wt ws
        (strBlock w) (strStride w) (fd == .i32) (old.map fun u => accWord G u r e) e),
      Y.poi.getD r false || bad || (match old with | some u => accPoisoned G u r | none => false))

/-- Write computed rows into accumulator unit u. -/
def putRows (G : Cluster) (u : Nat) (rows : List (Nat × List Nat × Bool)) : Cluster :=
  rows.foldl (fun G (r, ws, p) =>
    { cleanAcc G u r 1 with
             acc := ((List.range 128).zip ws).foldl (fun m (e, v) => SMap.set 0 m (u * 4096 + r * 128 + e) (w32 v)) G.acc
             accPoi := SMap.set false G.accPoi (u * 32 + r) p }) G

/-- A chain's conversion of one stage's output, element by element, the SR form stepping the copy of the
LFSR (R338, R339). -/
def chainConv (cf : ChainFmt) : W32 → List Nat → List FVal × W32
  | S, [] => ([], S)
  | S, v :: r =>
    match cf with
    | .f32 => let (l, S') := chainConv cf S r; (f32F.dec v :: l, S')
    | .bf16 => let (l, S') := chainConv cf S r; (bf16F.dec (rne bf16F (f32F.dec v)) :: l, S')
    | .bf16sr =>
      let S1 := lfsrStep S
      let (l, S') := chainConv cf S1 r
      (bf16F.dec (roundTo bf16F (.sr (S1.toNat / 256)) false (f32F.dec v)).code :: l, S')

/-- All rows converted in order. -/
def chainConvRows (cf : ChainFmt) : W32 → List (Nat × List Nat × Bool) → List (Nat × List FVal × Bool) × W32
  | S, [] => ([], S)
  | S, (r, v, p) :: t =>
    let (l, S1) := chainConv cf S v
    let (rest, S2) := chainConvRows cf S1 t
    ((r, l, p) :: rest, S2)
/-- The tile of the next stage: computed rows only. -/
def tileOf (rows : List (Nat × List FVal × Bool)) : Tile :=
  let find (r : Nat) := rows.find? fun (k, _, _) => k == r
  { row := (List.range 32).map fun r => (find r).elim [] fun (_, l, _) => l
    scale := fun _ _ => 127
    poi := (List.range 32).map fun r => (find r).elim false fun (_, _, p) => p }

/-- The stages of a chain: the rows the last one writes (R338). -/
def chainRows (s : State) (g : Nat) (c : MatCmd) (fb : Fmt) (cf : ChainFmt) (mask : Word) (old : Option Nat) :
    Tile → Fmt → W32 → List (Word × Area) → List (Nat × List Nat × Bool)
  | _, _, _, [] => []
  | Y, fa, _, [(w, a)] => stageRows s g c Y a fa fb .f32 false mask w old
  | Y, fa, S, (w, a) :: r =>
    let (rows, S') := chainConvRows cf S (stageRows s g c Y a fa fb .f32 false mask w none)
    chainRows s g c fb cf mask old (tileOf rows) (if cf = .f32 then .f32 else .bf16) S' r

/-- One row of a cross-tile stage: the words of A[ac] and A[ac+1] (R338). -/
def crossElem (wt : Nat → FVal) (int : Bool) (half k : Nat) (p q : FVal) (old : Option Nat) : Nat :=
  let terms := [(wt (256 * half + k), p), (wt (256 * half + 128 + k), q)]
  if int then intSum (old.getD 0) terms else (accumulate old (groupSum terms)).getD 0

/-- The rows of an X tile are read. -/
def readTile (s : State) (g : Nat) (c : MatCmd) (slot : Nat) (fa : Fmt) (blk : Bool) (rows : List Nat) : State :=
  rows.foldl (fun s r =>
    let s := readOperand s g c (slot * 8192 + 128 * r * (fa.width / 8)) (128 * (fa.width / 8))
    if blk && fa.isF8 then readOperand s g c (slot * 8192 + 4096 + 4 * r) 4 else s) s
def readAreas (s : State) (g : Nat) (c : MatCmd) (l : List Area) : State :=
  l.foldl (fun s a => readOperand s g c a.head (a.stop - a.head)) s
/-- What a stage or chain command reads, with the stored errors it meets. -/
def readStage (s : State) (g : Nat) (c : MatCmd) : State :=
  let unit (a : Nat) : Nat := SMap.get 0 c.accs a
  if (s.cluster g).flaws.isEmpty then s
  else match c.op with
  | .stage sx sw ac acc w fa fb _ blk =>
    let s := readAreas (readTile s g c sx fa blk (rowsOf w)) g c [areaAt (4 * sw * 8192) fb (strBlock w) blk]
    if acc then readAccRows s g (unit ac) (rowsOf w) else s
  | .cross sx q sw ac acc w fa fb _ =>
    let s := readAreas (readTile (readTile s g c sx fa false (rowsOf w)) g c q fa false (rowsOf w)) g c [crossArea (4 * sw * 8192) fb]
    if acc then readAccRows (readAccRows s g (unit ac) (rowsOf w)) g (unit (ac + 1)) (rowsOf w) else s
  | .chain sx sw ac acc strs fa fb _ _ =>
    let rows := rowsOf (strs.headD 0)
    let s := readAreas (readTile s g c sx fa false rows) g c (chainAreas (4 * sw * 8192) fb strs)
    if acc then readAccRows s g (unit ac) rows else s
  | _ => s

/-- The engine's effect of a stage, chain or zero command on the accumulators. -/
def runStage (s : State) (g : Nat) (c : MatCmd) : State :=
  let unit (a : Nat) : Nat := SMap.get 0 c.accs a
  let s := readStage s g c
  match c.op with
  | .stage sx sw ac acc w fa fb fd blk =>
    let rows := stageRows s g c (xTile s g c sx fa blk) (areaAt (4 * sw * 8192) fb (strBlock w) blk) fa fb fd blk w w
      (if acc then some (unit ac) else none)
    s.modCluster g fun G => putRows G (unit ac) rows
  | .cross sx q sw ac acc w fa fb fd =>
    let G := s.cluster g
    let P := xTile s g c sx fa false
    let Q := xTile s g c q fa false
    let a := crossArea (4 * sw * 8192) fb
    let wt := weightAt s g c a fb {}
    let bad := opPoisoned s g c a.head (a.stop - a.head)
    let half (i : Nat) : List (Nat × List Nat × Bool) := (rowsOf w).map fun r =>
      let u := unit (ac + i)
      (r, (List.range 128).map (fun k => crossElem wt (fd == .i32) i k ((P.row.getD r []).getD k .nan) ((Q.row.getD r []).getD k .nan)
          (if acc then some (accWord G u r k) else none)),
        P.poi.getD r false || Q.poi.getD r false || bad || (acc && accPoisoned G u r))
    s.modCluster g fun G => putRows (putRows G (unit ac) (half 0)) (unit (ac + 1)) (half 1)
  | .chain sx sw ac acc strs fa fb cf lfsr =>
    let rows := chainRows s g c fb cf (strs.headD 0) (if acc then some (unit ac) else none) (xTile s g c sx fa false) fa lfsr
      (strs.zip (chainAreas (4 * sw * 8192) fb strs))
    s.modCluster g fun G => putRows G (unit ac) rows
  | .zero a => s.modCluster g fun G => wipeAcc G (unit a)
  | _ => s

/-! Fills and drains (R343, R344, R348). -/

def MatCmd.agent (c : MatCmd) : Agent := { hart := c.hart, slot := c.slot, key := c.key, tag := engIndex .matrix, born := c.born, imgs := c.imgs }

/-- Write one element of a fill into operand memory: packed densely from logical byte `lo`. A granule is read for a write
of a part of it, and a stored error goes with a write of the whole (R318). -/
def fillPut (s : State) (g : Nat) (c : MatCmd) (r : Shape) (lo k v : Nat) : State :=
  if r.ty = 11 then
    let loc := opByte g c (lo + k / 2)
    let old := s.loadN loc 1
    { s with mem := s.mem.writeBytes loc (toBytes 1 (elemPut 11 (k % 2 == 1) old v)) }
  else
    let z := r.elemBytes
    { s with mem := (toBytes z v).zipIdx.foldl (fun m (b, i) => m.write (opByte g c (lo + k * z + i)) b) s.mem }

/-- One element of a fill; each element after the failing one is written or not (R348). `bad` collects the
granules that take a poisoned element. -/
def fillElem (g : Nat) (c : MatCmd) (r : Shape) (lo : Nat) (before : Memory × SMap GBits) (n0 : Nat)
    (acc : EngRun × List Nat) (k : Nat) : EngRun × List Nat :=
  let (R, bad) := acc
  if R.need.isSome then acc
  else
    let (b, s0) := R.st.draw
    if R.fail.isSome && !b.getLsbD 0 then ({ R with st := s0 }, bad)
    else
      match readElem s0 c.agent r k (fun s t => oldOrNew s before n0 t) with
      | (s1, .error (.inl code)) => ({ R with st := s1, fail := R.fail <|> some (code, 0, k, (r.elem k).1) }, bad)
      | (s1, .error (.inr v)) => ({ R with st := s1, need := some v }, bad)
      | (s1, .ok (v, p)) =>
        let first := if r.ty = 11 then lo + k / 2 else lo + k * r.elemBytes
        ({ R with st := fillPut s1 g c r lo k v }, if p then first / 16 :: (first + r.elemBytes - 1) / 16 :: bad else bad)

/-- The poison of the granules of a span whose elements below `done` are all written (R343, as R193). -/
def fillPoison (s : State) (g : Nat) (c : MatCmd) (lo done hi : Nat) (bad : List Nat) : State :=
  if hi ≤ lo then s
  else
    ((List.range ((hi - 1) / 16 - lo / 16 + 1)).map fun i => lo / 16 + i).foldl (fun s k =>
      let loc := opByte g c (k * 16)
      let whole := decide (lo ≤ k * 16 ∧ k * 16 + 16 ≤ done)
      let s := if whole then s.setCluster g (readFlaws (s.cluster g) fun f => f == SMap.get 0 c.slots (k / 512) * 512 + k % 512).1
        else readOperand s g c (k * 16) 16
      s.setPoi loc (bad.contains k || (!whole && (s.gbits loc).poi))) s

/-- The run of a fill (DEDUCED, log 41). -/
def runFill (s : State) (g : Nat) (c : MatCmd) (slot off : Nat) (r : Shape) : EngRun :=
  let (lo, hi) := fillSpan slot off r
  let before := ((s.cluster g).fillFrom).getD (s.mem, s.gran)
  let (R, bad) := (List.range r.count).foldl (fillElem g c r lo before s.free) ({ st := pastReads s }, [])
  let done := match R.fail with
    | some (_, _, k, _) => if r.ty = 11 then lo + k / 2 else lo + k * r.elemBytes
    | none => hi
  { R with st := fillPoison R.st g c lo done hi bad }

/-- The value of an accumulator element, and its converted code. -/
def drainVal (G : Cluster) (u : Nat) (fa : Fmt) (r e : Nat) : FVal := elemVal {} fa (accWord G u r e)

/-- One element of a drain. -/
def drainElem (c : MatCmd) (u : Nat) (dst : Shape) (skip : W32) (mode : RMode) (sat : Bool) (fa fd : Fmt) (G : Cluster)
    (R : EngRun) (k : Nat) : EngRun :=
  if R.need.isSome || skip.getLsbD (k / 128) then R
  else
    let (b, s0) := R.st.draw
    if R.fail.isSome && !b.getLsbD 0 then { R with st := s0 }
    else
      match writeElem s0 c.agent dst k (convElem fa fd mode sat (drainVal G u fa (k / 128) (k % 128))).code (accPoisoned G u (k / 128)) with
      | (s1, .error (.inl code)) => { R with st := s1, fail := R.fail <|> some (code, 1, k, (dst.elem k).1) }
      | (s1, .error (.inr v)) => { R with st := s1, need := some v }
      | (s1, .ok loc) =>
        { R with st := s1, wrote := noteElem R.wrote loc dst.ty dst.elemBytes (dst.elem k).2 (accPoisoned G u (k / 128)) }

/-- The run of a drain. -/
def runDrain (s : State) (g : Nat) (c : MatCmd) (a : Nat) (dst : Shape) (skip : W32) (rtz sat : Bool) (fa fd : Fmt) : EngRun :=
  let s := readAccRows s g (SMap.get 0 c.accs a) ((List.range 32).filter fun r => !skip.getLsbD r)
  ((List.range 4096).foldl (drainElem c (SMap.get 0 c.accs a) dst skip (if rtz then .rtz else .rne) sat fa fd (s.cluster g)) { st := s }).settled

/-- The hart's conversion state after a drain (R345): over the drained rows that are not poisoned. -/
def drainNote (s : State) (g : Nat) (c : MatCmd) (a : Nat) (skip : W32) (rtz sat amax : Bool) (fa fd : Fmt) : State :=
  let G := s.cluster g
  let u := SMap.get 0 c.accs a
  let vals := (((List.range 32).filter fun r => !skip.getLsbD r && !accPoisoned G u r).map fun r =>
    (List.range 128).map fun e => drainVal G u fa r e).flatten
  let cs := vals.map (convElem fa fd (if rtz then .rtz else .rne) sat)
  s.modHart c.hart fun H => cvUpdate H H.lfsr cs amax vals

/-- The head of the queue leaves: locks released, a fill's copy place free (R242). -/
def endCommand (s : State) (g : Nat) (c : MatCmd) : State :=
  let fill := match c.op with | .fill _ _ _ => true | _ => false
  let s := s.modCluster g fun G =>
    clearRefused { G with matQ := G.matQ.tail, matRun := false, fillFrom := none, copyQ := if fill then G.copyQ.tail else G.copyQ } (engIndex .matrix)
  s.modCore (coreOf c.hart) fun C => dropLocks C c.locks

/-- The shapes of memory a command walks. -/
def MatCmd.shapes (c : MatCmd) : List Shape :=
  match c.op with
  | .fill _ _ r => [r]
  | .drain _ r _ _ _ _ _ _ => [r]
  | _ => []
/-- R350: the head begins when the engine is free; a fill when it stands at the head of the copy engine's
queue too. -/
def execEngineCommandStart (clu : Nat) (s : State) : Host.Outcome State Fault Refusal :=
  let G := s.cluster clu
  let ok := match G.matQ with
    | [] => false
    | c :: _ =>
      canBegin s c.agent (hullsOf s c.hart c.shapes)
        && (match c.op with | .fill _ _ _ => (match G.copyQ with | q :: _ => q.fill | [] => false) | _ => true)
  .next (if !G.matRun && ok then s.modCluster clu fun G => { G with matRun := true, fillFrom := some (s.mem, s.gran) } else s)

/-- The running head of a cluster's matrix queue. -/
def running (s : State) (g : Nat) : Option MatCmd := if (s.cluster g).matRun then (s.cluster g).matQ.head? else none

/-- R350: a stage, chain, zero or fill completes. -/
def execEngineCommandCompletion (clu : Nat) (s : State) : Host.Outcome State Fault Refusal :=
  match running s clu with
  | none => .next s
  | some c =>
    match c.op with
    | .drain _ _ _ _ _ _ _ _ => .next s
    | .fill slot off r =>
      let R := runFill s clu c slot off r
      match R.need, R.fail with
      | some v, _ => .next (engAsk s c.agent v)
      | none, some _ => .next s
      | none, none => .next (endCommand R.st clu c)
    | _ => .next (endCommand (runStage s clu c) clu c)

/-- R344, R345: a drain completes. -/
def execDrainCompletion (clu : Nat) (s : State) : Host.Outcome State Fault Refusal :=
  match running s clu with
  | none => .next s
  | some c =>
    match c.op with
    | .drain a dst skip rtz sat amax fa fd =>
      let R := runDrain s clu c a dst skip rtz sat fa fd
      (match R.need, R.fail with
       | some v, _ => .next (engAsk s c.agent v)
       | none, some _ => .next s
       | none, none => .next (endCommand (drainNote R.st clu c a skip rtz sat amax fa fd) clu c))
    | _ => .next s

/-- Commands of a hart leave the queue without effect, their locks and copy places with them (R348). -/
def discardOf (s : State) (g : Nat) (p : Nat → Bool) : State :=
  let G := s.cluster g
  let gone := G.matQ.filter fun c => p c.hart
  let s := s.modCluster g fun G =>
    { G with matQ := G.matQ.filter (fun c => !p c.hart), copyQ := G.copyQ.filter (fun c => !(c.fill && p c.hart))
             matRun := G.matRun && !(match G.matQ with | c :: _ => p c.hart | [] => false)
             fillFrom := if (match G.matQ with | c :: _ => p c.hart | [] => false) then none else G.fillFrom }
  gone.foldl (fun s c => s.modCore (coreOf c.hart) fun C => dropLocks C c.locks) s

/-- R348: a fill or drain fails: the oldest unreported failure is recorded and the hart's queued commands
are discarded. -/
def execEngineCommandFailure (clu : Nat) (s : State) : Host.Outcome State Fault Refusal :=
  match running s clu with
  | none => .next s
  | some c =>
    let R := match c.op with
      | .fill slot off r => runFill s clu c slot off r
      | .drain a dst skip rtz sat _ fa fd => runDrain s clu c a dst skip rtz sat fa fd
      | _ => { st := s }
    match R.need, R.fail with
    | some v, _ => .next (engAsk s c.agent v)
    | none, none => .next s
    | none, some (code, _, _, a) =>
      let t := (endCommand R.st clu c).modHart c.hart fun H => { H with engFail := H.engFail <|> some (code, a) }
      .next (discardOf t clu fun h => h == c.hart)

/-- A core's commands, maps and lease at its containment (R349). -/
def dropMatrix (s : State) (core : Nat) : State :=
  let g := cluOf core
  let s := discardOf s g fun h => coreOf h == core
  let s := (hartsOf core).foldl (fun s h => unmapAll s h) s
  s.modCluster g fun G =>
    let G := { G with leaseReq := G.leaseReq.filter fun (c, _) => c != core % 16 }
    if G.lease = some (core % 16) then endLease G else G

end Sys2Proof.Machine
end

