-- ==== Sys2Proof/Machine/Sparse.lean ====
section
/-! DEFINITION. The sparse engines (R354 to R374): the merge and conversion commands at issue, SCNVW, and
the engines' own steps. -/

namespace Sys2Proof.Machine
open Sys2Proof

/-! Descriptors (R354 to R356). -/

/-- A merge descriptor. -/
structure MergeDesc where
  aidx : Word
  aval : Word
  bidx : Word
  bval : Word
  oidx : Word
  oval : Word
  alen : Nat
  blen : Nat
  ocap : Nat
  fmt  : Nat
  rsv  : Bool
  deriving DecidableEq, Repr

def parseMerge (l : List Byte) : MergeDesc :=
  { aidx := word (leAt l 0 8), aval := word (leAt l 8 8), bidx := word (leAt l 16 8), bval := word (leAt l 24 8)
    oidx := word (leAt l 32 8), oval := word (leAt l 40 8), alen := leAt l 48 4, blen := leAt l 52 4, ocap := leAt l 56 4
    fmt := leAt l 60 1 % 16, rsv := leAt l 60 1 / 16 != 0 || leAt l 61 3 != 0 }

/-- A conversion descriptor. -/
structure ConvDesc where
  mode   : Nat
  fmt    : Nat
  nrows  : Nat
  ncols  : Nat
  nin    : Nat
  srcv   : Word
  srcr   : Word
  srcc   : Word
  stride : Nat
  optr   : Word
  oidx   : Word
  oval   : Word
  ocap   : Nat
  rbase  : Nat
  rsv    : Bool
  deriving DecidableEq, Repr

def parseConv (l : List Byte) : ConvDesc :=
  { mode := leAt l 0 1, fmt := leAt l 1 1 % 16, nrows := leAt l 4 4, ncols := leAt l 8 4, nin := leAt l 12 4
    srcv := word (leAt l 16 8), srcr := word (leAt l 24 8), srcc := word (leAt l 32 8), stride := leAt l 40 8
    optr := word (leAt l 48 8), oidx := word (leAt l 56 8), oval := word (leAt l 64 8), ocap := leAt l 72 4
    rbase := leAt l 76 4, rsv := leAt l 1 1 / 16 != 0 || leAt l 2 2 != 0 || leAt l 80 16 != 0 }

/-- An array a command accesses: its base, bytes, element size, and whether it is a destination. -/
structure Arr where
  base  : Word
  bytes : Nat
  z     : Nat
  dst   : Bool
  deriving DecidableEq, Repr

/-- The non-empty arrays of a merge (R358). -/
def mergeArrs (d : MergeDesc) (inter : Bool) : List Arr :=
  let z := elemBits d.fmt / 8
  let src : List Arr :=
    [⟨d.aidx, d.alen * 4, 4, false⟩, ⟨d.aval, d.alen * z, z, false⟩, ⟨d.bidx, d.blen * 4, 4, false⟩, ⟨d.bval, d.blen * z, z, false⟩]
  let dst : List Arr := if inter then [] else [⟨d.oidx, d.ocap * 4, 4, true⟩, ⟨d.oval, d.ocap * z, z, true⟩]
  (src ++ dst).filter fun a => a.bytes != 0
/-- The non-empty arrays of a conversion. The table's entries are taken in this order, the destinations in the descriptor's
(DESIGN CHOICE, log 70). -/
def convArrs (d : ConvDesc) : List Arr :=
  let z := elemBits d.fmt / 8
  let src : List Arr :=
    if d.mode = 0 then [⟨d.srcv, (d.nrows - 1) * d.stride + d.ncols * z, z, false⟩]
    else [⟨d.srcv, d.nin * z, z, false⟩, ⟨d.srcr, d.nin * 4, 4, false⟩, ⟨d.srcc, d.nin * 4, 4, false⟩]
  let dst : List Arr := [⟨d.optr, (d.nrows + 1) * 4, 4, true⟩, ⟨d.oidx, d.ocap * 4, 4, true⟩, ⟨d.oval, d.ocap * z, z, true⟩]
  (src ++ dst).filter fun a => a.bytes != 0

/-- The interval of an array in the compared form. -/
def arrSpan (s : State) (h : Nat) (a : Arr) : Nat × Nat := (canonAddr s h a.base, canonAddr s h a.base + a.bytes - 1)
/-- Arrays are aligned, and no destination overlaps a source (R354, R356). -/
def arrsOk (s : State) (h : Nat) (l : List Arr) : Bool :=
  l.all (fun a => a.base.toNat % a.z == 0)
    && l.all fun a => l.all fun b =>
      !(a.dst && !b.dst && decide ((arrSpan s h a).1 ≤ (arrSpan s h b).2 ∧ (arrSpan s h b).1 ≤ (arrSpan s h a).2))

/-- A merge descriptor is valid. -/
def mergeOk (s : State) (h : Nat) (d : MergeDesc) (inter : Bool) : Bool :=
  !d.rsv && decide (d.alen < 2 ^ 24 ∧ d.blen < 2 ^ 24 ∧ d.ocap < 2 ^ 24 ∧ 4 ≤ d.fmt ∧ d.fmt ≤ 8)
    && (!inter || (d.oidx == 0 && d.oval == 0 && d.ocap == 0)) && arrsOk s h (mergeArrs d inter)
/-- A conversion descriptor is valid. -/
def convOk (s : State) (h : Nat) (d : ConvDesc) : Bool :=
  !d.rsv && decide (d.mode ≤ 1 ∧ d.fmt ≤ 10 ∧ 1 ≤ d.nrows ∧ d.nrows ≤ 65536 ∧ 1 ≤ d.ncols ∧ d.ncols ≤ 2 ^ 31
      ∧ d.nin < 2 ^ 24 ∧ d.ocap < 2 ^ 24)
    && (if d.mode = 0 then d.nin == 0 && d.srcr == 0 && d.srcc == 0 && d.stride % (elemBits d.fmt / 8) == 0 else d.stride == 0)
    && arrsOk s h (convArrs d)

/-! Issue (R358). -/

/-- Own memory at a 16-byte boundary, else a cause. -/
def ownPre16 (s : State) (a : Word) (cause : Nat) : Pre :=
  need (match placeNow s a with | .own _ => a.toNat % 16 == 0 | _ => false) cause a
/-- The place in the table of tracked commands (R358, R360). -/
def trackPre (H : Hart) : Pre :=
  if 8 ≤ H.tracked.length then
    (if H.tracked.all fun t => t.failed then .trap 50 ((H.tracked.map fun t => t.c).headD 0) else .wait .issue)
  else .ok

/-- The merge unit serves kinds 0 to 2, the conversion engine kind 3. -/
def spEngine (kind : Nat) : Engine := if kind = 3 then .conv else .merge

/-- A command of the sparse engines with its arrays and the check of its descriptor. -/
def sparseCmd (kind : Nat) (rs1 rs2 : BitVec 5) (n : Nat) (arrs : List Byte → List Arr) (ok : List Byte → Bool) (s : State) :
    Host.Outcome State Fault Refusal :=
  let d := s.x rs1
  let c := s.x rs2
  let e := spEngine kind
  let s := if ownPre16 s c 7 == .ok then readRecord s d 16 n else s
  let bytes := recordBytes s d n
  let l := arrs bytes
  let (s1, ns) := regLocks s (locksOf s e (l.map fun a => (some (arrSpan s s.cur a), a.dst)))
  let s2 := s1.modCluster (cluOfHart s.cur) fun G =>
    let G := takePlace G e (coreOf s.cur % 16)
    let cmd : SpCmd := { hart := s.cur, slot := slotOf s.me, key := keyOf s.me, kind := kind, desc := bytes, c := c, locks := ns,
                         born := s.nextId, imgs := imagesNow s.me }
    if kind = 3 then { G with convQ := G.convQ ++ [cmd] } else { G with mergeQ := G.mergeQ ++ [cmd] }
  let off := (ownOff s s.cur c).getD 0
  let s3 := wakeFe ((store s2 (some s.cur) (ownLoc s off) (toBytes 16 0) false).setFe (ownLoc s off) false) (ownLoc s off)
  finish s (.all [ownPre16 s d 5, ownPre16 s c 7, poisonPre s d n, need (ok bytes) 50 d, lockPre s c 16 true, trackPre s.me,
      queuePre s e, entriesPre s l.length])
    (retireWith s3 fun H => { H with tracked := H.tracked ++ [{ c := c }] })

/-- R361. -/
def execMrgu (rs1 rs2 : BitVec 5) (s : State) : Host.Outcome State Fault Refusal :=
  sparseCmd 0 rs1 rs2 64 (fun l => mergeArrs (parseMerge l) false) (fun l => mergeOk s s.cur (parseMerge l) false) s
/-- R361. -/
def execMrguDz (rs1 rs2 : BitVec 5) (s : State) : Host.Outcome State Fault Refusal :=
  sparseCmd 1 rs1 rs2 64 (fun l => mergeArrs (parseMerge l) false) (fun l => mergeOk s s.cur (parseMerge l) false) s
/-- R363. -/
def execMrgi (rs1 rs2 : BitVec 5) (s : State) : Host.Outcome State Fault Refusal :=
  sparseCmd 2 rs1 rs2 64 (fun l => mergeArrs (parseMerge l) true) (fun l => mergeOk s s.cur (parseMerge l) true) s
/-- R366. -/
def execScnv (rs1 rs2 : BitVec 5) (s : State) : Host.Outcome State Fault Refusal :=
  sparseCmd 3 rs1 rs2 96 (fun l => convArrs (parseConv l)) (fun l => convOk s s.cur (parseConv l)) s

/-- The failed command at a granule is reported (R369). -/
def reportTracked (s : State) (h : Nat) (c : Word) : List Tracked → List Tracked
  | [] => []
  | t :: r => if t.failed && canonAddr s h t.c == canonAddr s h c then r else t :: reportTracked s h c r

/-- R369. -/
def execScnvw (rd rs1 : BitVec 5) (s : State) : Host.Outcome State Fault Refusal :=
  let c := s.x rs1
  let loc := ownLoc s ((ownOff s s.cur c).getD 0)
  let b := s.gbits loc
  let v := word (s.loadN loc 8)
  let s1 := scrub s loc 8 false
  let st := setBit v 54 (s1.gbits loc).poi
  let fresh := bit v 63 && !bit v 55
  let s2 := if fresh then store s1 (some s.cur) loc (toBytes 8 (setBit v 55 true).toNat) false else s1
  finish s (.all [ownPre16 s c 5, armedW s rd, ready b.fe (.scnvw c)])
    (retireWith s2 fun H =>
      { H.setX rd.toNat (if fresh then setBit st 55 true else st) with
        tracked := if fresh then reportTracked s s.cur c H.tracked else H.tracked })

/-- R369: a wait past fe_limit. -/
def execScnvwTimeout (h : Nat) (s : State) : Host.Outcome State Fault Refusal :=
  match (s.hart h).stalled with
  | some (.scnvw c) => .next (if (s.core (coreOf h)).feLimit = 0 then s else takeTrap s h false 28 c)
  | _ => .next s

/-! The engines' walks. -/

/-- Why a walk stops: a failure (code, array, element) or a wait. -/
inductive SpStop
  | fail (code arr index : Nat)
  | need (n : Need)
  deriving DecidableEq, Repr
/-- What an access that gives no result stops the walk with. -/
def spStop (arr i : Nat) : Nat ⊕ Need → SpStop
  | .inl c => .fail c arr i
  | .inr n => .need n

/-- An output element: where it goes, its bytes and its poison, its array and number. -/
structure OutElem where
  to_    : Reach
  bytes  : List Byte
  poison : Bool
  arr    : Nat
  i      : Nat

/-! Output writes (R364). -/

/-- The output elements with a location. -/
def placed (l : List OutElem) : List (Nat × List Byte × Bool) :=
  l.filterMap fun e => match e.to_ with | .at_ loc => some (loc, e.bytes, e.poison) | _ => none
/-- Write output elements: each granule in one write, so that a scratchpad granule all of whose bytes are
written takes the poison of its elements (R193, R364), and is full. -/
def writeOut (s : State) (l : List OutElem) : State :=
  let w := placed l
  let s := w.foldl (fun s (loc, b, p) => store s none loc b p) s
  let s := w.foldl (fun s (loc, _, _) =>
    let g := loc / 16 * 16
    let mine := w.filter fun (a, _, _) => a / 16 == loc / 16
    if isPadLoc loc && (List.range 16).all fun i => mine.any fun (a, b, _) => decide (a ≤ g + i ∧ g + i < a + b.length)
    then s.setPoi g (mine.any fun (_, _, p) => p) else s) s
  w.foldl (fun s (loc, b, _) => fillGranules s loc b.length) s

/-- The output elements for another package, by granule and array: address, bytes, poison, array, number. -/
def farGroups (l : List OutElem) : List (Nat × List Byte × Bool × Nat × Nat) :=
  let far : List (Nat × OutElem) := l.filterMap fun e => match e.to_ with | .away a => some (a, e) | _ => none
  ((groupOn (fun e => e.1 / 16 * 8 + e.2.arr) far).map fun (_, g) =>
    match g with
    | [] => []
    | x :: _ => [(x.1, (g.map fun e => e.2.bytes).flatten, g.any fun e => e.2.poison, x.2.arr, x.2.i)]).flatten
/-- The first output granule for another package that is not acknowledged. -/
def farOut (s : State) (A : Agent) (l : List OutElem) : Option SpStop :=
  (farGroups l).findSome? fun (a, b, p, arr, i) =>
    match farAccess s A (a + 2 ^ 80 * (arr + 1)) a (.store b p) with
    | .error e => some (spStop arr i e)
    | .ok _ => none

/-- A walk so far: `before` is the memory as the command began, `n0` the free values of its reads. -/
structure SpRun where
  st   : State
  before : Memory × SMap GBits
  n0   : Nat
  out  : List OutElem := []
  k    : Nat := 0
  tot  : Option Nat := none
  hits : Nat := 0
  bad  : Bool := false
  cnt  : List Nat := []

def SpCmd.agent (c : SpCmd) : Agent :=
  { hart := c.hart, slot := c.slot, key := c.key, tag := engIndex (spEngine c.kind), born := c.born, imgs := c.imgs }

/-- Memory as a walk reads a granule of it: as it stood when the command began, as it stands, or, where a virtual alias of a
destination is a source, with what the command has written (R371). -/
def SpRun.view (R : SpRun) (r : Reach) : State :=
  match r with
  | .at_ loc =>
    if (Config.freeBits (R.n0 + loc / 16)).getLsbD 1 then
      let w := writeOut R.st R.out
      { R.st with mem := w.mem, gran := w.gran }
    else oldOrNew R.st R.before R.n0 r
  | _ => R.st
/-- Element i of an array of n-byte elements: its bits and poison. -/
def spRead (R : SpRun) (A : Agent) (base : Word) (n i arr : Nat) : SpRun × Except SpStop (Nat × Bool) :=
  let (s, t) := reach R.st A (base + word (i * n)) n false
  let R := { R with st := s }
  ({ R with st := (engRead s A t n).1 }, (engRead (R.view t) A t n).2.mapError (spStop arr i))
/-- An index element: poisoned metadata ends the command (R365). -/
def spIndex (R : SpRun) (A : Agent) (base : Word) (i arr : Nat) : SpRun × Except SpStop Int :=
  match spRead R A base 4 i arr with
  | (R, .error e) => (R, .error e)
  | (R, .ok (v, p)) => (R, if p then .error (.fail 50 arr i) else .ok (toSigned 32 v))
/-- An index of a fibre, strictly above the one before it (R354, R361). -/
def spAscend (R : SpRun) (A : Agent) (base : Word) (i arr : Nat) (prev : Option Int) : SpRun × Except SpStop Int :=
  match spIndex R A base i arr with
  | (R, .error e) => (R, .error e)
  | (R, .ok v) => (R, match prev with | some p => if v ≤ p then .error (.fail 0x60 arr i) else .ok v | none => .ok v)
/-- Where output element i of an array goes. -/
def spTarget (s : State) (A : Agent) (base : Word) (n i arr : Nat) : State × Except SpStop Reach :=
  match reach s A (base + word (i * n)) n true with
  | (s, .fail c) => (s, .error (.fail c arr i))
  | (s, .need v) => (s, .error (.need v))
  | (s, t) => (s, .ok t)

/-- Append one output entry (R361, R366). -/
def emit (R : SpRun) (A : Agent) (oidx oval : Word) (z cap : Nat) (index : Int) (v : Nat) (p : Bool) : Except SpStop SpRun :=
  if R.k = cap then .error (.fail 0x61 4 R.k)
  else
    match spTarget R.st A oidx 4 R.k 4 with
    | (_, .error e) => .error e
    | (s1, .ok ti) =>
      match spTarget s1 A oval z R.k 5 with
      | (_, .error e) => .error e
      | (s2, .ok tv) =>
        .ok { R with st := s2, k := R.k + 1
                     out := R.out ++ [⟨ti, toBytes 4 (ofSigned 32 index), false, 4, R.k⟩, ⟨tv, toBytes z v, p, 5, R.k⟩] }

/-- A value of a format is zero (R362, R366). -/
def zeroCode (f : Fmt) (v : Nat) : Bool :=
  match ffmt f with
  | some F => v % F.signBit == 0
  | none => v == 0

/-- One pass of the merge (R361, R363): `ai`, `bi` are the heads already read and checked. -/
def mergeWalk (A : Agent) (d : MergeDesc) (kind : Nat) (f : Fmt) :
    Nat → Nat → Nat → Option Int → Option Int → SpRun → SpRun × Option SpStop
  | 0, _, _, _, _, R => (R, none)
  | fuel + 1, i, j, pa, pb, R =>
    let z := f.width / 8
    let (R, a) := if i < d.alen then (let (R, e) := spAscend R A d.aidx i 0 pa; (R, e.map some)) else (R, .ok none)
    match a with
    | .error e => (R, some e)
    | .ok a =>
      let (R, b) := if j < d.blen then (let (R, e) := spAscend R A d.bidx j 2 pb; (R, e.map some)) else (R, .ok none)
      match b with
      | .error e => (R, some e)
      | .ok b =>
        let takeA := match a, b with | some x, some y => decide (x ≤ y) | some _, none => true | none, _ => false
        let takeB := match a, b with | some x, some y => decide (y ≤ x) | none, some _ => true | _, none => false
        if !takeA && !takeB then (R, none)
        else
          let i' := if takeA then i + 1 else i
          let j' := if takeB then j + 1 else j
          let pa' := if takeA then a else pa
          let pb' := if takeB then b else pb
          let idx := (if takeA then a else b).getD 0
          if kind = 2 ∧ !(takeA && takeB) then mergeWalk A d kind f fuel i' j' pa' pb' R
          else
            let (R, va) := if takeA then spRead R A d.aval z i 1 else (R, .ok (0, false))
            match va with
            | .error e => (R, some e)
            | .ok (x, px) =>
              let (R, vb) := if takeB then spRead R A d.bval z j 3 else (R, .ok (0, false))
              match vb with
              | .error e => (R, some e)
              | .ok (y, py) =>
                if kind = 2 then
                  let t := if f.isInt then some ((R.tot.getD 0 + ofSigned 32 (intLane f x * intLane f y)) % 2 ^ 32)
                    else
                      let p := match ffmt f with | some F => (F.dec x).mul (F.dec y) | none => .nan
                      some (match R.tot with
                        | none => rne f32F p
                        | some t => rne f32F (FVal.add false (f32F.dec t) p))
                  mergeWalk A d kind f fuel i' j' pa' pb' { R with tot := t, hits := R.hits + 1, bad := R.bad || px || py }
                else
                  let both := takeA && takeB
                  let v := if both then laneAdd f x y else if takeA then x else y
                  let p := (takeA && px) || (takeB && py)
                  if kind = 1 ∧ both ∧ zeroCode f v ∧ !p then mergeWalk A d kind f fuel i' j' pa' pb' R
                  else
                    match emit R A d.oidx d.oval z d.ocap idx v p with
                    | .error e => (R, some e)
                    | .ok R => mergeWalk A d kind f fuel i' j' pa' pb' R

/-- Count an entry of row r. -/
def bump (l : List Nat) (r : Nat) : List Nat := l.modify r (· + 1)

/-- The dense scan of SCNV: element n is row n / NCOLS, column n mod NCOLS (R366). -/
def denseWalk (A : Agent) (d : ConvDesc) (f : Fmt) : Nat → Nat → SpRun → SpRun × Option SpStop
  | 0, _, R => (R, none)
  | fuel + 1, n, R =>
    let z := f.width / 8
    let r := n / d.ncols
    let c := n % d.ncols
    match spRead R A (d.srcv + word (r * d.stride + c * z) - word (n * z)) z n 1 with
    | (R, .error e) => (R, some e)
    | (R, .ok (v, p)) =>
      if p || !zeroCode f v then
        match emit R A d.oidx d.oval z d.ocap c v p with
        | .error e => (R, some e)
        | .ok R => denseWalk A d f fuel (n + 1) { R with cnt := bump R.cnt r }
      else denseWalk A d f fuel (n + 1) R

/-- The coordinate scan of SCNV (R366). -/
def coordWalk (A : Agent) (d : ConvDesc) (f : Fmt) : Nat → Nat → Option (Int × Int) → SpRun → SpRun × Option SpStop
  | 0, _, _, R => (R, none)
  | fuel + 1, n, prev, R =>
    let z := f.width / 8
    match spIndex R A d.srcr n 0 with
    | (R, .error e) => (R, some e)
    | (R, .ok r) =>
      match spIndex R A d.srcc n 2 with
      | (R, .error e) => (R, some e)
      | (R, .ok c) =>
        let back := match prev with | some (pr, pc) => decide (r < pr ∨ (r = pr ∧ c ≤ pc)) | none => false
        if r < 0 ∨ (d.nrows : Int) ≤ r then (R, some (.fail 0x62 0 n))
        else if c < 0 ∨ (d.ncols : Int) ≤ c then (R, some (.fail 0x62 2 n))
        else if back then (R, some (.fail 0x60 0 n))
        else
          match spRead R A d.srcv z n 1 with
          | (R, .error e) => (R, some e)
          | (R, .ok (v, p)) =>
            match emit R A d.oidx d.oval z d.ocap c v p with
            | .error e => (R, some e)
            | .ok R => coordWalk A d f fuel (n + 1) (some (r, c)) { R with cnt := bump R.cnt r.toNat }

/-! Output writes (R364). -/

/-- The row pointers: NROWS + 1 numbers from RBASE (R366). -/
def rowPtrs : List Nat → Nat → List Nat
  | [], p => [p % 2 ^ 32]
  | c :: r, p => p % 2 ^ 32 :: rowPtrs r (p + c)
/-- The elements of the row-pointer array by granule. -/
def ptrGroups (d : ConvDesc) (l : List Nat) : List (List (Nat × Nat)) :=
  (groupOn (fun (i, _) => (d.optr.toNat + 4 * i) / 16) (l.zipIdx.map fun (v, i) => (i, v))).map fun (_, g) => g

/-- The elements of a row-pointer granule whose first element goes to a place. -/
def ptrElems (t : Reach) (i : Nat) (marked : Bool) (g : List (Nat × Nat)) : List OutElem :=
  g.map fun (j, v) =>
    ⟨(match t with | .at_ loc => .at_ (loc + 4 * (j - i)) | .away a => .away (a + 4 * (j - i)) | x => x),
      toBytes 4 (if marked then 2 ^ 31 else v), marked, 6, j⟩
/-- Write row-pointer granules in order; from the first that faults on, later ones take the marker (R367, R368). One whose
write waits stops the walk; where `posted`, it goes on its way as a packet of the cluster's units, and the walk goes on. -/
def writePtrs (A : Agent) (d : ConvDesc) (posted : Bool) : List (List (Nat × Nat)) → State → Option SpStop → State × Option SpStop
  | [], s, e => (s, e)
  | g :: r, s, e =>
    let i := (g.map fun (i, _) => i).headD 0
    let go (s : State) (stop : SpStop) : State × Option SpStop :=
      match stop with
      | .fail c a n => writePtrs A d posted r s (e <|> some (.fail c a n))
      | .need w =>
        if posted then
          let l := ptrElems (.at_ 0) i e.isSome g
          writePtrs A d posted r (sendAs s (devHart (cluOfHart A.hart)) A.slot A.key
            (.mem (d.optr + word (4 * i)).toNat (.store (l.map fun x => x.bytes).flatten e.isSome) (.unit A.tag) .new)) e
        else (s, some (.need w))
    match spTarget s A d.optr 4 i 6 with
    | (s1, .error stop) => go s1 stop
    | (s1, .ok t) =>
      match farOut s1 A (ptrElems t i e.isSome g) with
      | some stop => go s1 stop
      | none => writePtrs A d posted r (writeOut s1 (ptrElems t i e.isSome g)) e

/-! Completion (R359). -/

/-- The status doubleword. -/
def spStatus : Option SpStop → Nat
  | some (.fail c a i) => 2 ^ 63 + c * 2 ^ 56 + a * 2 ^ 48 * 8 + i
  | _ => 0

/-- The walk of a command from its start, with its outputs not yet written. -/
def walkSparse (s : State) (c : SpCmd) : SpRun × Option SpStop :=
  let A := c.agent
  let G := s.cluster (cluOfHart c.hart)
  let R0 (cnt : List Nat) : SpRun :=
    { st := pastReads s, before := (if c.kind = 3 then G.convFrom else G.mergeFrom).getD (s.mem, s.gran), n0 := s.free, cnt := cnt }
  if c.kind = 3 then
    let d := parseConv c.desc
    let f := (Fmt.ofCode d.fmt).getD .i32
    if d.mode = 0 then denseWalk A d f (d.nrows * d.ncols) 0 (R0 (List.replicate d.nrows 0))
    else coordWalk A d f d.nin 0 none (R0 (List.replicate d.nrows 0))
  else
    let d := parseMerge c.desc
    mergeWalk A d c.kind ((Fmt.ofCode d.fmt).getD .i32) (d.alen + d.blen + 1) 0 0 none none (R0 [])
/-- What a command's run leaves: the state with its outputs, its failure, RESULT, and whether the
completion granule carries poison. A failed MRGI's RESULT is a free value. -/
def runSparse (s : State) (c : SpCmd) : State × Option SpStop × Nat × Bool :=
  let A := c.agent
  let (R, e) := walkSparse s c
  match e, farOut s A R.out with
  | some (.need w), _ | _, some (.need w) => (R.st, some (.need w), 0, false)
  | e, far =>
    let e := e <|> far
    if c.kind = 3 then
      let d := parseConv c.desc
      let (t, e') := writePtrs A d false (ptrGroups d (rowPtrs R.cnt d.rbase)) (writeOut R.st R.out) e
      (t, e', R.k, false)
    else if c.kind = 2 then
      let (b, t) := R.st.draw
      match e with
      | some _ => (t, e, b.toNat % 2 ^ 64, R.bad)
      | none => (R.st, none, R.tot.getD 0 + R.hits * 2 ^ 32, R.bad)
    else (writeOut R.st R.out, e, R.k, false)

/-- The queue of an engine. -/
def spQueue (G : Cluster) (e : Engine) : List SpCmd := if e = .conv then G.convQ else G.mergeQ
def spRunning (G : Cluster) (e : Engine) : Bool := if e = .conv then G.convRun else G.mergeRun
def spPop (G : Cluster) (e : Engine) : Cluster :=
  clearRefused (if e = .conv then { G with convQ := G.convQ.tail, convRun := false, convFrom := none }
    else { G with mergeQ := G.mergeQ.tail, mergeRun := false, mergeFrom := none }) (engIndex e)

/-- A tracked command has completed, or failed (R360). -/
def settleTracked (c : Word) (failed : Bool) : List Tracked → List Tracked
  | [] => []
  | t :: r =>
    if t.c == c && !t.failed then (if failed then { t with failed := true } :: r else r) else t :: settleTracked c failed r

/-- A command ends: its locks are released, then its completion granule is written and set full (R359). -/
def endSparse (s : State) (g : Nat) (c : SpCmd) (status result : Nat) (poison : Bool) : State :=
  let s := s.modCluster g fun G => spPop G (spEngine c.kind)
  let s := s.modCore (coreOf c.hart) fun C => dropLocks C c.locks
  let s := s.modHart c.hart fun H => { H with tracked := settleTracked c.c (decide (2 ^ 63 ≤ status)) H.tracked }
  let loc := padBase (coreOf c.hart) + (ownOff s c.hart c.c).getD 0
  let s := store s none loc (toBytes 8 status ++ toBytes 8 result) poison
  wakeFe (s.setFe loc true) loc

/-- The arrays of a command. -/
def SpCmd.arrs (c : SpCmd) : List Arr := if c.kind = 3 then convArrs (parseConv c.desc) else mergeArrs (parseMerge c.desc) (c.kind == 2)
/-- R37, R373: an engine takes the command at the head of its queue, in its place in its hart's program order (R370). -/
def execSparseCommandStart (clu : Nat) (eng : Engine) (s : State) : Host.Outcome State Fault Refusal :=
  let G := s.cluster clu
  match spRunning G eng, spQueue G eng with
  | false, c :: _ =>
    if !canBegin s c.agent (c.arrs.map fun a => (a.base, a.bytes)) then .next s
    else (match eng with
      | .merge => .next (s.modCluster clu fun G => { G with mergeRun := true, mergeFrom := some (s.mem, s.gran) })
      | .conv => .next (s.modCluster clu fun G => { G with convRun := true, convFrom := some (s.mem, s.gran) })
      | _ => .next s)
  | _, _ => .next s

/-- R359: the running command is performed and completes. -/
def execSparseCommandCompletion (clu : Nat) (eng : Engine) (s : State) : Host.Outcome State Fault Refusal :=
  let G := s.cluster clu
  match spRunning G eng && (eng == .merge || eng == .conv), spQueue G eng with
  | true, c :: _ =>
    match runSparse s c with
    | (_, some (.need w), _, _) => .next (engAsk s c.agent w)
    | (t, e, result, poison) => .next (endSparse t clu c (spStatus e) result poison)
  | _, _ => .next s

/-- The output granules that a running command of a contained core has written: by a free value for each (R372). -/
def writeSome (s : State) (c : SpCmd) : State :=
  let (R, _) := walkSparse s c
  writeOut (pastReads s) (R.out.filter fun e =>
    match e.to_ with | .at_ loc => (Config.freeBits (s.free + 2 ^ 63 + loc / 16)).getLsbD 0 | _ => false)
/-- The sparse commands of some harts, as a containment discards them (R372): queued ones go without effect, a running SCNV
writes its markers and fails with code 56. -/
def dropSparseOf (s : State) (g : Nat) (p : Nat → Bool) : State :=
  let G := s.cluster g
  let mine (c : SpCmd) : Bool := p c.hart
  let s := match G.mergeRun, G.mergeQ with
    | true, c :: _ => if mine c && c.kind != 2 then writeSome s c else s
    | _, _ => s
  let s := match G.convRun, G.convQ with
    | true, c :: _ =>
      if mine c then
        let d := parseConv c.desc
        let (b, s) := (writeSome s c).draw
        let st : SpStop := .fail 56 (b.toNat % 8) (b.toNat / 8 % 2 ^ 48)
        let (t, _) := writePtrs c.agent d true (ptrGroups d (List.replicate (d.nrows + 1) 0)) s (some st)
        endSparse t g c (spStatus (some st)) 0 false
      else s
    | _, _ => s
  let s := s.modCluster g fun G =>
    let first := match G.mergeQ with | c :: _ => mine c | [] => false
    { G with mergeRun := G.mergeRun && !first
             mergeFrom := if first then none else G.mergeFrom
             mergeQ := G.mergeQ.filter fun c => !mine c, convQ := G.convQ.filter fun c => !mine c }
  ((G.mergeQ ++ G.convQ).filter mine).foldl (fun s c => s.modCore (coreOf c.hart) fun C => dropLocks C c.locks) s
/-- A core's sparse commands at its containment (R372). -/
def dropSparse (s : State) (core : Nat) : State := dropSparseOf s (cluOf core) fun h => coreOf h == core

end Sys2Proof.Machine
end

