-- ==== Sys2Proof/Machine/Gate.lean ====
section
/-! DEFINITION. What becomes of a packet that cannot be served (R306, R310, R389, R411), the output ports with
their choice by class (R378, R379), the senders of links (R375, R381, R399), and a gateway's sender (R385 to R391). -/

namespace Sys2Proof.Machine
open Sys2Proof

/-- With STV = 1 a task with the named stamp must run on the hart, under the message's slot (R288; DEDUCED, log 37). -/
def stampOk (s : State) (h t : Nat) (slot : Option Nat) : Bool :=
  t / 2 ^ 57 % 2 == 0 ||
    match (s.hart h).task with
    | some T => T.trec.hdie == t / 2 ^ 54 % 8 && T.trec.hclu == t / 2 ^ 48 % 64 && T.trec.ser == t / 2 ^ 32 % 65536 && some T.slot == slot
    | none => false

/-! Records and launches, as far as their packets need them. -/

/-- The key of a record (R254) and the cluster of its home. -/
def keyOfRec (r : TaskRec) : Key := { pkg := r.hpkg, die := r.hdie, clu := r.hclu, ser := r.ser }
def homeOf (k : Key) : Nat := k.die * 64 + k.clu
/-- The root cluster of a handle (R283). -/
def rootOf (n : Nat) : Nat := n / 16
def modLaunch (G : Cluster) (n : Nat) (f : CluLaunch → CluLaunch) : Cluster :=
  { G with launches := G.launches.map fun L => if L.handle == n then f L else L }
/-- Bits of a launch's status, kept at cluster g, or at the root where g no longer collects (DEDUCED, log 23). -/
def orStatus (s : State) (g n v : Nat) : State :=
  let open_ := (s.cluster g).launches.any fun L => L.handle == n && !L.sent
  s.modCluster (if open_ then g else rootOf n) fun G => modLaunch G n fun L => { L with acc := Nat.lor L.acc v }
/-- Bit 31 and bit 30 of a status (R285). -/
def statLost : Nat := 2 ^ 31
def statDie : Nat := 2 ^ 30
/-- Send a packet of cluster g's units under a launch's slot and key. -/
def sendDev (s : State) (g : Nat) (slot key : Nat) (b : Body) : State := sendAs s (devHart g) (some slot) key b

/-! Answers in place of data (R306, R391). -/

/-- Where in a request the lowest lane stands: bit position and byte offset. -/
def firstLane : MemOp → Nat × Nat
  | .loads ((o, _, pos) :: r) => r.foldl (fun (b : Nat × Nat) (e : Nat × Nat × Nat) => if e.2.2 < b.1 then (e.2.2, e.1) else b) (pos, o)
  | .stores ((o, _) :: _) => (0, o)
  | _ => (0, 0)
/-- A request, deposit or channel image answered with a cause; a reply that is lost, with an error in its place. -/
def errReply (p : Packet) (cause : Nat) : Packet :=
  match p.body with
  | .mem _ op _ _ => replyTo p (.err cause (firstLane op).1 (firstLane op).2)
  | .deposit t _ => { p with body := .reply t false (.posted true) (.err cause 0 0) }
  | .channel ep hart _ _ _ reg _ => { p with body := .reply (ep * 128 + hart * 32) false (.chan reg) (.err cause 0 0) }
  | .reply a host sink _ => { p with body := .reply a host sink (.err cause 0 0) }
  | _ => p
/-- The record of a copy of a multicast packet that core c refuses: all copies stand at the packet's place (R396). -/
def mcwFailed (s : State) (p : Packet) (c off tag cause : Nat) : State :=
  if 65536 ≤ p.hart then s
  else s.modHart p.hart fun H => noteFailed H
    { id := tag / 256, cause := cause, addr := word (padBase c + s.pkg.number % 4096 * 2 ^ 48 + off), count := 1, host := false
      scope := scopeOfCore p.hart c }
/-- What a failed packet does: a request, deposit or channel image takes an error reply (R306, R310); a handler message
that meets no live core an error record of kind 3 (R304); a copy of a multicast packet is refused (R396); a DEC
marks its launch (R411); a record or context is lost (R274, R315; DEDUCED, log 38); every other packet is dropped. -/
def failPkt (s : State) (p : Packet) (cause : Nat) : State :=
  match p.body with
  | .mem _ _ _ _ | .deposit _ _ | .channel _ _ _ _ _ _ _ | .reply _ _ _ _ => putPkt s (errReply p cause)
  | .handler t image _ _ _ =>
    if cause = 29 then putPkt s { p with body := .reply t false (.posted true) (.err 29 0 0) }
    else putPkt s { p with body := .errorRecord p.hart 3 0 0 t image }
  | .mcw c off _ _ tag => mcwFailed (dropPkt s p.id) p c off tag cause
  | .dec _ _ _ n => if isForeign p.hart then dropPkt s p.id else orStatus (dropPkt s p.id) (senderRouter p.hart) n statLost
  | .task r _ n _ _ => sendDev (dropPkt s p.id) (standsAt s p % 512) (p.slot.getD 0) p.key (.lost (keyOfRec r) n false)
  | .context _ c _ => sendDev (dropPkt s p.id) (standsAt s p % 512) c.slot c.key (.lost (keyOfRec c.trec) c.launch false)
  | _ => dropPkt s p.id

/-! Ports of the fabric. -/

def portOf (s : State) (k : Nat) : Port := SMap.get {} s.pkg.ports k
def setPort (s : State) (k : Nat) (P : Port) : State := s.modPkg fun G => { G with ports := SMap.put G.ports k P }
/-- The fabric port of a link's end. -/
def spaustPort (l : Nat) : Nat := l - 256
/-- The port takes part in the gradient: marked, up, its peer reachable (R400). -/
def gateOpen (s : State) (k : Nat) : Bool :=
  let P := portOf s k
  match P.placement with
  | some n => !P.down && !(SMap.get {} P.peers n).unreachable && (linkOf s (portLink k)).up
  | none => false

/-! Flits (R375, R399). -/

/-- A flit's control word without its tag or CRC. -/
def controlWord (ack lseq : Nat) (nak gen tail head : Bool) (vc cls : Nat) : Nat :=
  cls % 4 + vc % 4 * 4 + (if head then 16 else 0) + (if tail then 32 else 0) + (if gen then 64 else 0)
    + (if nak then 128 else 0) + lseq % 4096 * 256 + ack % 4096 * 2 ^ 20
/-- CRC-16 with polynomial 0x8BB7 over a byte list. -/
def crc16Bit (c b : Nat) : Nat :=
  let n := c * 2 % 65536
  if (c / 32768 + b) % 2 = 1 then Nat.xor n 0x8BB7 else n
def crc16 (l : List Byte) : Nat :=
  l.foldl (fun c x => ([7, 6, 5, 4, 3, 2, 1, 0] : List Nat).foldl (fun c k => crc16Bit c (x.toNat / 2 ^ k % 2)) c) 0xFFFF
/-- The IV of flit n of a port in a direction, 0 out and 1 in: port and direction in the top 32 bits (DESIGN CHOICE, log 22). -/
def ivOf (k dir n : Nat) : Nat := (k * 2 + dir) * 2 ^ 64 + n % 2 ^ 64
/-- The number of a link-control flit, which takes none of the flits' own (DESIGN CHOICE, log 22). -/
def controlNum (n : Nat) : Nat := 2 ^ 63 + n
/-- A payload under the key stream of a key and an IV. -/
def streamed (key iv : Nat) (l : List Byte) : List Byte := toBytes 64 (BitVec.ofNat 512 (ofBytes l) ^^^ Config.aesStream key iv).toNat
/-- A flit sealed: the payload encrypted, the tag over the control word and the ciphertext in [63:32] of the control word. -/
def sealFlit (key iv : Nat) (flit : List Byte) : List Byte :=
  let aad := toBytes 8 (leAt flit 0 4)
  let text := streamed key iv (flit.drop 8)
  flit.take 4 ++ toBytes 4 (Config.aesTag key iv aad text).toNat ++ text
/-- A sealed flit opened, if its tag is right. -/
def openSealed (key iv : Nat) (flit : List Byte) : Option (List Byte) :=
  let text := flit.drop 8
  if leAt flit 4 4 = (Config.aesTag key iv (toBytes 8 (leAt flit 0 4)) text).toNat then some (toBytes 8 (leAt flit 0 4) ++ streamed key iv text)
  else none
/-- A flit as the wire carries it: on Spaust sealed under the port's current key, elsewhere with its CRC.
`n` is the flit's number in its direction. -/
def wireFlit (s : State) (l n : Nat) (flit : List Byte) : List Byte :=
  if isSpaust l then
    let P := portOf s (spaustPort l)
    let w := leAt flit 0 8
    let w := if P.gen then Nat.lor w 64 else w - w / 64 % 2 * 64
    sealFlit P.key (ivOf (spaustPort l) 0 n) (toBytes 8 w ++ flit.drop 8)
  else flit.take 6 ++ toBytes 2 (crc16 (flit.take 6 ++ flit.drop 8)) ++ flit.drop 8

/-! The choice of an output port (R378, R379). -/

/-- A packet of a class is in progress or waits. -/
def hasClass (L : Link) (c : Nat) : Bool := (SMap.find? L.prog c).isSome || L.queue.any fun o => o.cls == c
/-- The class of the next flit. -/
def chooseClass (L : Link) : Option Nat :=
  if (SMap.find? L.prog 0).isSome then some 0
  else (([1, 2] : List Nat).find? fun c => (SMap.find? L.due c).isSome && hasClass L c) <|> ([0, 1, 2] : List Nat).find? (hasClass L)
/-- The packet of a class that sends: the one in progress, else the oldest of the next virtual channel in turn. -/
def choosePkt (L : Link) (c : Nat) : Option OutPkt :=
  SMap.find? L.prog c <|>
    ((List.range 4).map fun i => (SMap.get 3 L.lastVc c + 1 + i) % 4).findSome? fun v => L.queue.find? fun o => o.cls == c && o.vc == v
/-- The counts after a flit of class k. -/
def countsAfter (L : Link) (k : Nat) : SMap Nat :=
  ([1, 2] : List Nat).foldl (fun m c =>
    if c = k then SMap.del m c else if k < c ∧ hasClass L c = true then SMap.put m c (SMap.get 0 m c + 1) else m) L.counts
/-- The due classes after a flit of class k that ends its packet or not. -/
def dueAfter (L : Link) (k : Nat) (ends : Bool) : SMap Nat :=
  ([1, 2] : List Nat).foldl (fun m c =>
    if c = k then
      (match SMap.find? m c with
       | some n => if ends || n ≤ 1 then SMap.del m c else SMap.put m c (n - 1)
       | none => m)
    else if (SMap.find? m c).isNone && 48 ≤ SMap.get 0 (countsAfter L k) c then SMap.put m c 4 else m) L.due
/-- The port after the next flit of a packet of class c. -/
def portAfter (L : Link) (o : OutPkt) : Link :=
  let rest := o.flits.tail
  { L with
    queue := L.queue.erase o
    prog := if rest.isEmpty then SMap.del L.prog o.cls else SMap.put L.prog o.cls { o with gone := o.gone + 1, flits := rest }
    lastVc := SMap.put L.lastVc o.cls o.vc
    counts := countsAfter L o.cls
    due := dueAfter L o.cls rest.isEmpty }
/-- The link takes flits: it is up and fewer than 256 are unacknowledged (R381). -/
def canSend (s : State) (l : Nat) : Bool :=
  let L := linkOf s l
  L.up && !L.isRetired && decide (L.unacked.length < 256) && !(isSpaust l && (portOf s (spaustPort l)).down)
/-- The next flit of a packet goes out with the next LSEQ and stays in the replay buffer (R381). -/
def sendFlit (s : State) (l : Nat) (o : OutPkt) : State :=
  let L := linkOf s l
  let flit := toBytes 8 (controlWord (L.rxNext + 4095) L.txNext false false (o.flits.length == 1) (o.gone == 0) o.vc o.cls) ++ o.flits.headD []
  let n := (portOf s (spaustPort l)).counter
  let L := portAfter L o
  let s' := setLink s l
    { L with
      txNext := (L.txNext + 1) % 4096
      unacked := L.unacked ++ [{ lseq := L.txNext, id := o.id, num := n, flit := flit, fresh := true }]
      wire := L.wire ++ [(o.id, wireFlit s l n flit)] }
  if isSpaust l then setPort s' (spaustPort l) { portOf s' (spaustPort l) with counter := n + 1 } else s'
/-- A flit boundary of an output port (R378). What found no way on from a router is answered there (R306, R384). -/
def portTurn (l : Nat) (s : State) : State :=
  if 16384 ≤ l then
    match (linkOf s l).queue with
    | [] => s
    | o :: r =>
      let s := setLink s l { linkOf s l with queue := r }
      (match findPkt s o.id with
       | some p => (match p.body with | .reply _ _ _ (.err _ _ _) => dropPkt s p.id | _ => failPkt s p 56)
       | none => s)
  else if canSend s l then
    match (chooseClass (linkOf s l)).bind (choosePkt (linkOf s l)) with
    | some o => sendFlit s l o
    | none => s
  else s

/-! A gateway's sender (R385, R387, R389, R391). -/

/-- A packet the other package answers. -/
def wantsAnswer : Body → Bool
  | .mem _ _ _ _ | .deposit _ _ | .handler _ _ _ _ _ | .channel _ _ _ _ _ _ _ => true
  | _ => false

/-- A gateway holds a job key (R390, R391). -/
def gateKey (P : Port) (key : Nat) : Bool := key == 0 || P.keys.any fun (_, m) => m.valid && m.key == key
/-- Send a packet to package k over port n: refused over a port that is down or to a peer that is unreachable, and under a
key the gateway does not hold; held while 64 packets are unacknowledged. -/
def gatewayOver (s : State) (n k : Nat) (p : Packet) : State :=
  let P := portOf s n
  let q := SMap.get {} P.peers k
  if P.down || q.unreachable then failPkt s p 56
  else if !gateKey P p.key then failPkt (setPort s n { P with drops := min 0xFFFFFFFF (P.drops + 1) }) p 29
  else if 64 ≤ q.store.length then s
  else
    let q' := { q with txNext := (q.txNext + 1) % 65536, store := q.store ++ [(q.txNext, p, 0)]
                       opens := if wantsAnswer p.body && !isForeign p.hart then q.opens ++ [p] else q.opens }
    queueOut (setPort (dropPkt s p.id) n { P with peers := SMap.put P.peers k q' }) (portLink n) q.txNext p
/-- Send a packet to package k from die d; refused with no route. -/
def gatewayTo (s : State) (d k : Nat) (p : Packet) : State :=
  match SMap.find? (s.die d).routes k with
  | none => failPkt s p 56
  | some n => gatewayOver s n k p
/-- Send a packet on to the package it is bound for (DESIGN CHOICE, log 38). -/
def gatewaySend (s : State) (p : Packet) : State := gatewayTo s (senderDie p.hart) (destPkg s p.body) p

end Sys2Proof.Machine
end

