-- ==== Sys2Proof/Machine/Record.lean ====
section
/-! DEFINITION. Task records and what the device does with them: their layout and keys (R248, R254,
R427), launches and their status (R283, R284), retention and spawning (R252, R271), tile groups (R263)
and join counters (R256 to R258). -/

namespace Sys2Proof.Machine
open Sys2Proof

/-! Records (R248). -/

/-- The fields of a 32-byte record. -/
def parseRec (l : List Byte) : TaskRec :=
  let a := leAt l 0 2
  let b := leAt l 2 2
  { ty := a % 4096, prio := a / 4096 % 4, carry := a / 2 ^ 14 % 2 == 1, range := a / 2 ^ 15 % 2 == 1
    hop := b % 64, hdie := b / 64 % 8, hclu := b / 512 % 64, b := leAt l 4 4
    c0 := leAt l 8 2, c1 := leAt l 10 2, c2 := leAt l 12 2, c3 := leAt l 14 2, join := leAt l 16 8
    hpkg := leAt l 24 2, ext := leAt l 26 2, slot := leAt l 28 2 % 1024, ser := leAt l 30 2 }
/-- A record as bytes. -/
def recBytes (r : TaskRec) : List Byte :=
  toBytes 2 (r.ty % 4096 + r.prio % 4 * 4096 + (if r.carry then 2 ^ 14 else 0) + (if r.range then 2 ^ 15 else 0))
    ++ toBytes 2 (r.hop % 64 + r.hdie % 8 * 64 + r.hclu % 64 * 512) ++ toBytes 4 r.b
    ++ toBytes 2 r.c0 ++ toBytes 2 r.c1 ++ toBytes 2 r.c2 ++ toBytes 2 r.c3 ++ toBytes 8 r.join
    ++ toBytes 2 r.hpkg ++ toBytes 2 r.ext ++ toBytes 2 (r.slot % 1024) ++ toBytes 2 r.ser
/-- The carried registers x10 to x17 that follow a CARRY record. -/
def carried (l : List Byte) : List Word := (List.range 8).map fun i => word (leAt l (32 + 8 * i) 8)
def wordsBytes (l : List Word) : List Byte := (l.map fun v => toBytes 8 v.toNat).flatten

/-- A cluster with its package, as one number. -/
def farClu (pkg g : Nat) : Nat := pkg * 512 + g

/-! JOIN (R427). -/

/-- A 0x9 or local 0x8 JOIN becomes the 0x8 form of core c. -/
def rewriteJoin (s : State) (c j : Nat) : Nat :=
  match placeOf s (hartAt c 0) none (word j) with
  | .own off => padBase c + s.pkg.number % 4096 * 2 ^ 48 + off
  | _ => j
/-- A JOIN is valid: 0, or a 16-byte aligned 0x8 address of a worker scratchpad. -/
def joinValid (s : State) (j : Nat) : Bool :=
  j == 0 || (j / 2 ^ 60 == 8 && j % 16 == 0 &&
    match placeOf s 0 none (word j) with
    | .own _ => true
    | .pad t _ => isWorker t
    | .other _ => true
    | _ => false)
/-- The location of a counter of this package. -/
def joinLoc (j : Nat) : Nat := j - j / 2 ^ 48 % 4096 * 2 ^ 48

/-! Launches. -/

def launchOf (s : State) (n : Nat) : Option Launch := SMap.find? s.pkg.launches n
def inRegion (L : LaunchRec) (g : Nat) : Bool := L.dies / 2 ^ (g / 64) % 2 == 1 && L.clus / 2 ^ (g % 64) % 2 == 1
def regionOf (L : LaunchRec) : List Nat := (List.range 512).filter (inRegion L)
/-- The job key of a live launch. -/
def launchKey (s : State) (n : Nat) : Nat := match launchOf s n with | some L => L.trec.key | none => 0
/-- Bit 23 of an arrival's status (R258). -/
def arrLost : Nat := 2 ^ 23

/-- The one signal that a finished record sends from cluster g: DEC, or RELEASE (R254). -/
def signalEnd (s : State) (g : Nat) (r : TaskRec) (n status : Nat) : State :=
  let key := launchKey s n
  if r.join ≠ 0 ∧ joinValid s r.join = true then sendDev s g r.slot key (.dec r.join status (keyOfRec r) n)
  else
    let s := sendDev s g r.slot key (.release (keyOfRec r) n)
    if r.join ≠ 0 then orStatus s g n statLost else s

/-! Retention and spawning. -/

/-- The next serial no live entry holds (R271). -/
def freeSer (G : Cluster) : Nat :=
  (((List.range 1025).map fun i => (G.nextSer + i) % 65536).find? fun n => !G.keep.any fun e => e.trec.ser == n).getD 0
def keepFull (G : Cluster) : Bool := 1024 ≤ G.keep.length
def outFull (H : Hart) : Bool := 64 ≤ H.outst
/-- A cluster no longer takes part: it is retired, or its die has failed. -/
def cluGone (s : State) (g : Nat) : Bool := (s.cluster g).isRetired || (s.die (dieOf g)).isFailed

/-- A record is spawned from cluster g, by hart h or by the device (R252): retained, counted, and handed
to the network for the cluster itself or for the cluster of a SPAWNAT (R253). -/
def spawnRec (s : State) (g : Nat) (h : Option Nat) (r : TaskRec) (regs : List Word) (n slot key : Nat) (target : Option Nat) : State :=
  let ser := freeSer (s.cluster g)
  let r := { r with hop := 0, hdie := dieOf g, hclu := g % 64, hpkg := s.pkg.number % 4096, slot := slot, ser := ser }
  let s := s.modCluster g fun G =>
    { G with keep := G.keep ++ [{ trec := r, regs := regs, launch := n, slot := slot, key := key, hart := h }], nextSer := (ser + 1) % 65536 }
  let s := match h with
    | some h => s.modHart h fun H => { H with outst := H.outst + 1 }
    | none => s
  let (to_, direct) := match target with
    | some t => if cluGone s t then (g, false) else (t, true)
    | none => (g, false)
  sendAs s (h.getD (devHart g)) (some slot) key (.task r regs n to_ direct)

/-- The checks of R252 on a record: the code that fails, if one does. -/
def recCode (s : State) (ntypes : Nat) (r : TaskRec) : Option Nat :=
  if ntypes ≤ r.ty then some 1 else if r.carry && r.range then some 2 else if !joinValid s r.join then some 7 else none

/-! Tile groups (R263). -/

/-- One tile, or the continuation that stands for it, has ended: the last one sends the group's signal.
An abandoned group sends nothing (R274). -/
def groupCount (s : State) (at_ : Nat × Nat) (status : Nat) : State :=
  match SMap.find? (s.cluster at_.1).groups at_.2 with
  | none => s
  | some T =>
    let T := { T with left := T.left - 1, status := Nat.lor T.status status }
    if T.left = 0 then
      let s := s.modCluster at_.1 fun G => { G with groups := SMap.del G.groups at_.2 }
      if T.alive then signalEnd s at_.1 T.trec T.launch T.status else s
    else s.modCluster at_.1 fun G => { G with groups := SMap.put G.groups at_.2 T }
/-- The end of a task, tile or continuation (R254). -/
def endRecord (s : State) (g : Nat) (r : TaskRec) (group : Option (Nat × Nat)) (n status : Nat) : State :=
  match group with
  | some at_ => groupCount s at_ status
  | none => signalEnd s g r n status

/-! Join counters (R256). -/

/-- A counter's fields; `rest` is its reserved bits, which no operation but JOININIT writes (DEDUCED, log 59). -/
structure Counter where
  count : Nat
  stat  : Nat
  arm   : Bool
  fired : Bool
  under : Bool
  overf : Bool
  rest  : Nat := 0
  cont  : Nat
  deriving DecidableEq, Repr

def readCounter (s : State) (loc : Nat) : Counter :=
  let v := s.loadN loc 16
  let f := v / 2 ^ 56
  { count := v % 2 ^ 32, stat := v / 2 ^ 32 % 2 ^ 24, arm := f % 2 == 1, fired := f / 2 % 2 == 1, under := f / 4 % 2 == 1
    overf := f / 8 % 2 == 1, rest := f / 16 % 16, cont := v / 2 ^ 64 }
def counterBytes (c : Counter) : List Byte :=
  toBytes 4 c.count ++ toBytes 3 c.stat
    ++ toBytes 1 ((if c.arm then 1 else 0) + (if c.fired then 2 else 0) + (if c.under then 4 else 0) + (if c.overf then 8 else 0) + 16 * c.rest)
    ++ toBytes 8 c.cont
def writeCounter (s : State) (wr : Option Nat) (loc : Nat) (c : Counter) : State := store s wr loc (counterBytes c) false
def counterPoisoned (s : State) (loc : Nat) : Bool := (poisonedAt s loc 16).isSome

/-- The continuation record a counter of core c names, if it passes R258: with its registers. -/
def contRec (s : State) (c n cont : Nat) : Option (TaskRec × List Word) :=
  match placeOf s (hartAt c 0) none (word cont), launchOf s n with
  | .own off, some L =>
    let loc := padBase c + off
    let r := parseRec (s.mem.readBytes loc 32)
    let len := if r.carry then 96 else 32
    let r := { r with join := rewriteJoin s c r.join }
    if off % 16 = 0 ∧ off + len ≤ 2 ^ 17 ∧ poisonedAt s loc len = none ∧ recCode s L.trec.ntypes r = none then
      some (r, if r.carry then carried (s.mem.readBytes loc 96) else [])
    else none
  | _, _ => none

/-- What the reads of a firing counter's continuation record do to stored errors (R188, R190). -/
def contScrub (s : State) (c cont : Nat) : State :=
  match placeOf s (hartAt c 0) none (word cont) with
  | .own off =>
    let loc := padBase c + off
    let n := if (parseRec (s.mem.readBytes loc 32)).carry then 96 else 32
    if off % 16 = 0 ∧ off + n ≤ 2 ^ 17 then scrub s loc n false else s
  | _ => s
/-- FIRE acts for launch n (R257, R258): the launch-end notice, or the continuation with x5 = STAT. -/
def fire (s : State) (wr : Option Nat) (loc n : Nat) (q : Counter) : State :=
  let c := coreOfLoc loc
  let g := cluOf c
  let s := writeCounter s wr loc { q with fired := true }
  match launchOf s n with
  | none => s
  | some L =>
    if L.killed then s
    else if q.cont = 0 then sendDev s g L.trec.slot L.trec.key (.launchEnd n)
    else
      let s := contScrub s c q.cont
      match contRec s c n q.cont with
      | some (r, regs) => spawnRec s g none { r with x5 := q.stat } regs n L.trec.slot L.trec.key none
      | none => orStatus s g n statLost
/-- A firing would spawn while the retention buffer is full: it waits (R252). -/
def fireWaits (s : State) (loc : Nat) (cont : Nat) : Bool := cont != 0 && keepFull (s.cluster (cluOf (coreOfLoc loc)))

/-- A counter operation of a hart at its home (R257). -/
def joinAt (s : State) (wr : Option Nat) (loc : Nat) (op : MemOp) : State × Reply :=
  let s := match op with | .joinInit _ => s | _ => scrub s loc 16 false
  match op with
  | .joinInit v => (writeCounter s wr loc { count := v % 2 ^ 32, stat := 0, arm := false, fired := false, under := false, overf := false, cont := 0 }, .ack)
  | .joinAdd v =>
    if counterPoisoned s loc then (s, .err 27 0 0)
    else
      let q := readCounter s loc
      let n := q.count + v % 2 ^ 32
      (writeCounter s wr loc (if n < 2 ^ 32 then { q with count := n } else { q with count := 2 ^ 32 - 1, overf := true }), .ack)
  | .joinArm k launch =>
    if counterPoisoned s loc then (s, .err 27 0 0)
    else
      let q := readCounter s loc
      if q.fired then (s, .ack)
      else
        let q := { q with cont := k, arm := true }
        match launch with
        | some n => if q.count = 0 then (fire s wr loc n q, .ack) else (writeCounter s wr loc q, .ack)
        | none => (writeCounter s wr loc q, .ack)
  | _ => (s, .ack)
/-- A counter operation that fires finds the retention buffer full. -/
def joinWaits (s : State) (loc : Nat) : MemOp → Bool
  | .joinArm k (some _) =>
    !counterPoisoned s loc && !(readCounter s loc).fired && (readCounter s loc).count == 0 && fireWaits s loc k
  | _ => false

end Sys2Proof.Machine
end

