-- ==== Sys2Proof/Machine/Net.lean ====
section
/-! DEFINITION. Requests on their way: the order in which packets are taken (R15, R217), their homes (R34, R214, R222,
R306, R391), the landing of replies (R89, R90, R203), translation stations (R178 to R182), full-empty requests
(R199) and stream images (R122 to R126). -/

namespace Sys2Proof.Machine
open Sys2Proof

/-! Full-empty and counter operations. -/

def isFeOp : MemOp → Bool
  | .feLoad _ | .feStore _ | .feSet _ | .feQuery => true
  | _ => false
def isJoinOp : MemOp → Bool
  | .joinInit _ | .joinAdd _ | .joinArm _ _ => true
  | _ => false
def isCellOp : MemOp → Bool
  | .fxAdd _ | .fxRead | .fxClear => true
  | _ => false

/-! The order of packets (R15, R126, R217, R280). -/

/-- An earlier access of the same hart to one of the same banks has not reached it (R217; DEDUCED, log 48). -/
def sameBankFirst (s : State) (p : Packet) : Bool :=
  let b := banksOf s p
  (underWay s p.hart).any fun q => decide (q.id < p.id) && (banksOf s q).any fun k => b.contains k
/-- An earlier image of the same destination stream is not yet performed (R126). -/
def imageFirst (s : State) (p : Packet) : Bool :=
  match p.body with
  | .mem _ _ (.stream v k) _ =>
    (underWay s p.hart).any fun q => match q.body with | .mem _ _ (.stream w j) _ => w == v && decide (j < k) | _ => false
  | _ => false
/-- An access within scope k that its hart issued before a packet is not yet performed. -/
def earlierOpen (s : State) (p : Packet) (k : Nat) : Bool :=
  let mine (q : Packet) : Bool := decide (q.id < p.id) && pendingAccess s p.hart k false q
  imagesBefore (s.hart p.hart) p.id p.imgs || (underWay s p.hart).any mine || s.cores.any fun (_, C) => (C.feWait ++ C.deposits).any mine
/-- A release store leaves once every earlier access of its hart is performed (R280). -/
def relWaits (s : State) (p : Packet) : Bool :=
  match p.body with
  | .mem _ (.relStore _) _ _ => earlierOpen s p 4
  | _ => false
/-- An access of a core that its network interface has sent (R217). -/
def sentAccess (s : State) (p : Packet) : Bool :=
  match p.body with
  | .mem _ op _ _ => !isJoinOp op && !sameBankFirst s p && !imageFirst s p && !relWaits s p
  | .mcw _ _ _ _ _ => !sameBankFirst s p
  | _ => false
/-- The station a virtual access goes through first. -/
def viaStation : Body → Option Nat
  | .mem a _ _ _ => if a < 2 ^ 63 then some (stationOf a) else none
  | _ => none
/-- An earlier access of the same core, plane and class to the same destination stands before it at hand: one pair of
endpoints keeps its order (R15; DEDUCED, log 48). A station whose places are taken holds back only what it cannot serve. -/
def pairFirst (s : State) (p : Packet) : Bool :=
  decide (p.hart < 65536) && s.net.any fun q =>
    decide (q.id < p.id) && decide (q.hart < 65536) && coreOf q.hart == coreOf p.hart && planeOf q.body == planeOf p.body
      && trafficClass q.body == trafficClass p.body && (SMap.find? s.paths q.id).isNone && destEp s q == destEp s p
      && standsAt s q == standsAt s p && viaStation q.body == viaStation p.body && sentAccess s q
      && (match q.body with | .mem a _ _ .new => decide (2 ^ 63 ≤ a ∨ parkedAt (s.die (dieOfHart q.hart)) (stationOf a) < 256) | _ => true)
/-- A packet is not yet to be taken. -/
def bankBlocked (s : State) (p : Packet) : Bool := sameBankFirst s p || imageFirst s p || pairFirst s p

/-! Requests at their homes. -/

/-- What the home of a location answers a request of hart h under a key before any effect, if it refuses it. A sealed
core's window serves the cluster's Mordant core alone (R183). -/
def refusal (s : State) (h loc key : Nat) : Option Nat :=
  if isPadLoc loc then
    (if isWindowLoc loc && h == 32768 + cluOf (coreOfLoc loc) then (if coreGone s (coreOfLoc loc) then some 56 else none)
     else homeErr s (coreOfLoc loc) key)
  else if !locUp s loc then some 56
  else if isHbmLoc loc && (s.die (loc % 2 ^ 40 / 2 ^ 36 / 2)).isFailed then some 56
  else none
/-- A refused request; a key error is counted (R391; DEDUCED, log 36). -/
def refuse (s : State) (p : Packet) (loc cause : Nat) : State :=
  failPkt (if cause = 29 && isPadLoc loc then countDrop s (coreOfLoc loc) else s) p cause

/-- The offset of a window location in its window. -/
def windowOff (loc : Nat) : Nat := loc % 2 ^ 18
/-- A request for a register in a window waits for the drains of its hart (R164). -/
def drainWaits (s : State) (loc : Nat) : Bool := isPadLoc loc && isWindowLoc loc && windowWaits s (coreOfLoc loc) (windowOff loc)
/-- Perform a request at its location: the state and its reply. -/
def performMem (s : State) (h : Nat) (loc : Nat) (op : MemOp) : State × Reply :=
  let wr := some h
  let win := isPadLoc loc && isWindowLoc loc
  match op with
  | .load n =>
    let (s, v, p) := if win then windowRead s (coreOfLoc loc) (windowOff loc) n
      else let (s, v, p) := load s loc n; (s, v, p)
    (s, .data (BitVec.ofNat 512 v) (p.map fun a => (0, a - loc)))
  | .loads segs =>
    let (s, v, p) := loadSegs s loc segs
    (s, .data v p)
  | .store b poison => (if win then windowWrite s h (coreOfLoc loc) (windowOff loc) b else store s wr loc b poison, .ack)
  | .relStore b => (store s wr loc b false, .ack)
  | .stores segs => (storeSegs s wr loc segs, .ack)
  | .amo k n v cmp => amoAt s wr loc k n v cmp
  | .fxAdd _ | .fxRead | .fxClear => cellAt s wr loc op
  | .joinInit _ | .joinAdd _ | .joinArm _ _ => joinAt s wr loc op
  | _ => (s, .ack)

/-- A request is answered: its reply takes its place in the network. -/
def answer (s : State) (p : Packet) (r : Reply) : State := putPkt s (replyTo p r)
/-- Perform or refuse a request that has reached its home. -/
def serveMem (s : State) (p : Packet) (loc : Nat) (op : MemOp) : State :=
  match refusal s p.hart loc p.key with
  | some c => refuse s p loc c
  | none => let (t, r) := performMem s p.hart loc op; answer t p r

/-- R214: a load, store, AMO or cell request reaches its home, or leaves the package (DEDUCED, log 48). -/
def execRemoteRequest (p : Nat) (s : State) : Host.Outcome State Fault Refusal :=
  match atHand s p with
  | some q =>
    match q.body with
    | .mem _ op _ wh =>
      if isFeOp op || isJoinOp op || bankBlocked s q || relWaits s q then .next s
      else (match wh with
        | .at_ loc => .next (if drainWaits s loc then passTime s (coreOfLoc loc) else serveMem s q loc op)
        | .new => .next (if leavesPkg s q.body then gatewaySend s q else s))
    | _ => .next s
  | none => .next s

/-- R257: a posted counter operation is applied at the counter's core. -/
def execJoinOpArrival (p : Nat) (s : State) : Host.Outcome State Fault Refusal :=
  match atHand s p with
  | some q =>
    match q.body with
    | .mem _ op _ wh =>
      if !isJoinOp op || bankBlocked s q then .next s
      else (match wh with
        | .at_ loc => .next (if joinWaits s loc op then s else serveMem s q loc op)
        | .new => .next (if leavesPkg s q.body then gatewaySend s q else s))
    | _ => .next s
  | none => .next s

/-! The landing of replies. -/

/-- The lower of two recorded failures, by position. -/
def firstBad (a b : Option (Nat × Nat × Word)) : Option (Nat × Nat × Word) :=
  match a, b with
  | some x, some y => if y.1 < x.1 then some y else some x
  | some x, none => some x
  | none, y => y
/-- Of the failures of a held instruction's parts: the lowest poisoned address (R194), else the lowest lane (R129). -/
def heldBad (a b : Option (Nat × Nat × Word)) : Option (Nat × Nat × Word) :=
  match a, b with
  | some (i, 27, x), some (j, 27, y) => if y.ult x then some (j, 27, y) else some (i, 27, x)
  | a, b => firstBad a b
/-- A held instruction has all its replies: its result is written and it retires, or it traps; a ring
instruction issues again with what it read; a DQSPILL spawns; a later cause of R105 is raised. -/
def landHeld (s : State) (h : Nat) (k : Held) : State :=
  match k.bad with
  | some (_, c, a) => takeTrap s h false c (match k.kind with | .fxrd _ _ => k.addr | _ => a)
  | none =>
    match k.kind with
    | .late c t fix => takeTrap (s.modHart h fun H => fixUp H fix) h false c t
    | .vload vd =>
      let H := s.hart h
      retire (vwriteAt (s.setHart h { H with held := none }) h vd ((H.getV vd &&& ~~~k.mask) ||| (k.acc &&& k.mask))) h
    | .fetch _ =>
      (match land k.kind k.mask k.acc (s.hart h) with
       | .ok H => s.setHart h { H with held := none }
       | .error c => takeTrap s h false c k.addr)
    | .spill rd r =>
      let H := s.hart h
      (match H.deque, H.task with
       | (lo, hi) :: rest, some T =>
         let m := lo + (hi - lo) / 2
         let s := s.setHart h { H.setX rd 0 with deque := (lo, m) :: rest }
         retire (spawnRec s (cluOfHart h) (some h) { r with c0 := m, range := true, ext := hi - m } [] T.launch T.slot T.key none) h
       | _, _ => s)
    | _ =>
      (match land k.kind k.mask k.acc (s.hart h) with
       | .ok H => retire (s.setHart h H) h
       | .error c => takeTrap s h false c k.addr)

/-- A reply for a held instruction of hart h: address of the request, part of the result. -/
def replyHeld (s : State) (h a part : Nat) (host : Bool) (r : Reply) : State :=
  match (s.hart h).held with
  | none => s
  | some k =>
    let ring := match k.kind with | .fetch _ => host | _ => false
    let k := match r with
      | .data v bad =>
        { k with
          acc := k.acc ||| (v <<< part)
          bad := heldBad k.bad (if ring then some (0, 5, k.addr) else bad.map fun (pos, off) => (pos, 27, word (a + off))) }
      | .ack => k
      | .err c pos off => { k with bad := heldBad k.bad (some (pos, c, word (a + off))) }
    let k := { k with parts := k.parts - 1 }
    if k.parts = 0 then landHeld s h k else s.modHart h fun H => { H with held := some k }
/-- A result of variable latency lands: a wait of WFM is over (R109). -/
def endWfm (H : Hart) : Hart := if H.stalled = some .wfm then { H with stalled := none } else H
/-- A reply for one lane of a gather (R203). -/
def replyLane (s : State) (h a vd lane : Nat) (host : Bool) (r : Reply) : State :=
  let bad : Option Nat := match r with
    | .data _ (some _) => some 27
    | .err c _ _ => some c
    | _ => none
  let v : VReg := match r with
    | .data v none => v &&& 0xFFFFFFFF
    | _ => 0
  let H := endWfm (s.hart h)
  let old := H.getV vd
  let new := (old &&& ~~~((0xFFFFFFFF : VReg) <<< (lane * 32))) ||| (v <<< (lane * 32))
  let gs := H.gathers.map fun g =>
    if g.vd == vd then
      let f := match bad with
        | some c => firstBad g.bad (some (lane, c, word a))
        | none => g.bad
      { g with left := g.left - 1, bad := f, host := if f == g.bad then g.host else host }
    else g
  let done := gs.any fun g => g.vd == vd && g.left == 0
  let s := s.setHart h { H.setV vd new with gathers := gs.filter fun g => !(g.left == 0 && g.bad.isNone) }
  if done && (streamOf H vd).isSome then vwriteAt s h vd new else s
/-- An image of hart h's outbound binding on register r is answered. -/
def chAnswered (s : State) (p : Packet) (r : Nat) : State :=
  if 65536 ≤ p.hart then s
  else s.modHart p.hart fun H =>
    match streamOf H r with
    | some t =>
      (match t.kind with
       | .chOut _ _ _ => if t.born ≤ p.id then setStream H r { t with unacked := t.unacked - 1 } else H
       | _ => H)
    | none => H
/-- An answer to a unit of cluster g, kept where the unit asked for it (R125, R207). -/
def replyUnit (s : State) (g tag id : Nat) (r : Reply) : State :=
  s.modCluster g fun G => { G with got := G.got.map fun e => if e.1.1 == tag && e.2.1 == id then (e.1, id, some r) else e }
/-- The acknowledgement of a posted write; an error is recorded for the hart (R90). -/
def replyPosted (s : State) (p : Packet) (addr : Word) (host : Bool) : Reply → State
  | .err c _ _ => s.modHart p.hart fun H => noteFailed H
      { id := p.id, cause := c, addr := addr, count := 1, host := host, scope := scopeOfBody s p.hart p.body }
  | _ => s
/-- The offset of the failing lane in a reply. -/
def Reply.offset : Reply → Nat
  | .err _ _ off => off
  | _ => 0
/-- A reply for an agent of the package. The address of a failed channel image is stated nowhere: a free value (DESIGN
CHOICE, log 21). -/
def landAt (s : State) (p : Packet) (a : Nat) (host : Bool) (sink : Sink) (r : Reply) : State :=
  match sink with
  | .unit tag => replyUnit s (if p.hart < 65536 then cluOfHart p.hart else (p.hart - 65536) % 512) tag p.id r
  | .held part => if 65536 ≤ p.hart then s else replyHeld s p.hart a part host r
  | .lane vd lane => if 65536 ≤ p.hart then s else replyLane s p.hart a vd lane host r
  | .posted _ | .stream _ _ => if 65536 ≤ p.hart then s else replyPosted s p (word (a + r.offset)) host r
  | .chan v =>
    if 65536 ≤ p.hart then s
    else
      let (b, s) := s.draw
      replyPosted (chAnswered s p v) p (b.setWidth 64) host r

/-- A reply packet lands at its hart, unless the core no longer holds its key (R391), or goes back to the package its
request came from. -/
def landReply (s : State) (p : Packet) : State :=
  match p.body with
  | .reply a host sink r =>
    if isForeign p.hart then gatewayTo s (answerDie a) (foreignPkg p.hart) p
    else
      let s := dropPkt s p.id
      if p.hart < 65536 && isWorker (coreOf p.hart) && !keyHeld (s.core (coreOf p.hart)) p.key then countDrop s (coreOf p.hart)
      else landAt s p a host sink r
  | _ => s

/-- A reply packet of a kind lands. -/
def landIf (s : State) (p : Nat) (f : Sink → Reply → Bool) : Host.Outcome State Fault Refusal :=
  match atHand s p with
  | some q =>
    match q.body with
    | .reply _ _ sink r => .next (if f sink r then landReply s q else s)
    | _ => .next s
  | none => .next s
/-- Replies that a held instruction or a unit waits for, and acknowledgements of what is posted. -/
def Sink.isHeld : Sink → Bool
  | .held _ | .unit _ => true
  | _ => false
def Sink.isPosted : Sink → Bool
  | .posted _ | .chan _ | .stream _ _ => true
  | _ => false
def Reply.isErr : Reply → Bool
  | .err _ _ _ => true
  | _ => false
/-- R89. -/
def execReplyLanding (p : Nat) (s : State) : Host.Outcome State Fault Refusal := landIf s p fun k r => k.isHeld && !r.isErr
/-- R90. -/
def execStoreAck (p : Nat) (s : State) : Host.Outcome State Fault Refusal := landIf s p fun k r => k.isPosted && !r.isErr
/-- An error record for hart h in its error slot; while one stands there, later ones are only counted (R304). -/
def writeErrRec (s : State) (h kind reason idx target image : Nat) : State :=
  let c := coreOf h
  let n := 28 + hartIn h
  let loc := winBase c + 0x10000 + 256 * n
  if isMordant h || (s.core c).isSealed then s
  else if (SMap.find? (s.core c).inbox n).isSome then
    { s with mem := s.mem.writeBytes (loc + 4) (toBytes 4 (min 0xFFFFFFFF (s.loadN (loc + 4) 4 + 1))) }
  else
    let rec_ := toBytes 1 kind ++ toBytes 1 reason ++ toBytes 2 idx ++ toBytes 4 0 ++ toBytes 8 target ++ toBytes 8 image
    let e : InSlot := { order := 0, scanned := false, count := 0, dlen := 0, src := h, slot := none, key := 0, target := target, image := image }
    { s with mem := s.mem.writeBytes loc (rec_ ++ List.replicate 232 0) }.modCore c fun C => { C with inbox := SMap.put C.inbox n e }
/-- R306: an error reply takes the place of a reply of any kind; an error record is written (R304). -/
def execErrorReply (p : Nat) (s : State) : Host.Outcome State Fault Refusal :=
  match atHand s p with
  | some q =>
    match q.body with
    | .errorRecord h k r w t image =>
      .next (if isForeign h then gatewayTo s (targetDie t) (foreignPkg h) q else writeErrRec (dropPkt s p) h k r w t image)
    | _ => landIf s p fun _ r => r.isErr
  | none => .next s
/-- R203. -/
def execGatherLaneReply (p : Nat) (s : State) : Host.Outcome State Fault Refusal :=
  landIf s p fun k r => !k.isHeld && !k.isPosted && !r.isErr

/-! Translation stations. -/

/-- A parked access of the same process slot to the same line stands before it (R217). -/
def lineParked (s : State) (d a : Nat) (slot : Option Nat) : Bool :=
  (s.die d).parked.any fun (_, q) => q.slot == slot && (match q.body with | .mem b _ _ _ => b / 64 == a / 64 | _ => false)
/-- Take a packet off the network and park it. -/
def parkPkt (s : State) (d a : Nat) (p : Packet) : State :=
  askPage ((dropPkt s p.id).modDie d fun D => { D with parked := D.parked ++ [(stationOf a, p)] }) d (p.slot.getD 0) a

/-- An access goes on to the location it resolves to: its port is up, and no cell lies in host memory (R180, R237). -/
def resolves (s : State) (op : MemOp) (loc : Nat) : Bool := locUp s loc && !(isCellOp op && isHostLoc loc)
/-- R178: a station translates an access and sends it on, parks it, or answers it. Behind a parked access
to its line an access is parked too (R217). -/
def execVirtualAccess (p : Nat) (s : State) : Host.Outcome State Fault Refusal :=
  match atHand s p with
  | some q =>
    match q.body with
    | .mem a op sink .new =>
      if 2 ^ 63 ≤ a || bankBlocked s q || relWaits s q then .next s
      else
        let d := senderDie q.hart
        let room := decide (parkedAt (s.die d) (stationOf a) < 256)
        if lineParked s d a q.slot then .next (if room then parkPkt s d a q else s)
        else if !room && (tlbHit (s.die d) (q.slot.getD 0) a (!readsOnly op)).isNone then .next s
        else (match translate s d (q.slot.getD 0) a (!readsOnly op) with
          | (t, .ok loc) => .next (if resolves t op loc then setBody t p (.mem a op sink (.at_ loc)) else failPkt t q 56)
          | (_, .host) => .next (if room then parkPkt s d a q else s)
          | (t, .err c) => .next (failPkt t q c))
    | _ => .next s
  | none => .next s

/-- Retry the parked accesses of a page in their arrival order. -/
def retryParked (d : Nat) : List (Nat × Packet) → State → State
  | [], s => s
  | (k, p) :: r, s =>
    match p.body with
    | .mem a op sink _ =>
      (match translate s d (p.slot.getD 0) a (!readsOnly op) with
       | (_, .host) => retryParked d r (askPage (s.modDie d fun D => { D with parked := D.parked ++ [(k, p)] }) d (p.slot.getD 0) a)
       | (t, .ok loc) =>
         let q := { p with body := .mem a op sink (.at_ loc) }
         let t := { t with net := t.net ++ [q] }
         retryParked d r (if resolves t op loc then serveMem t q loc op else failPkt t q 56)
       | (t, .err c) => retryParked d r (failPkt { t with net := t.net ++ [p] } p c))
    | _ => retryParked d r s
/-- The parked accesses of a page of a slot, and the others. -/
def ofPage (slot page : Nat) (e : Nat × Packet) : Bool :=
  e.2.slot == some slot && (match e.2.body with | .mem a _ _ _ => pageOf a == page | _ => false)
/-- Retry what waits for a page at die d. -/
def retryPage (s : State) (d slot page : Nat) : State :=
  let l := (s.die d).parked.filter (ofPage slot page)
  retryParked d l (s.modDie d fun D => { D with parked := D.parked.filter fun e => !ofPage slot page e })
/-- The units that wait for a page ask again on their next attempt. -/
def dropAsks (D : Die) (slot page : Nat) : Die := { D with asks := D.asks.filter fun (k, _) => k != (slot, page) }
/-- The host refuses a page: every parked access is answered with TRANSLATION, and units that wait for it
meet the refusal on their next attempt (R181). -/
def refusePage (s : State) (d slot page : Nat) : State :=
  let l := (s.die d).parked.filter (ofPage slot page)
  let who := ((s.die d).asks.filter fun (k, _) => k == (slot, page)).map fun (_, w) => w
  let s := s.modDie d fun D => dropAsks { D with parked := D.parked.filter fun e => !ofPage slot page e } slot page
  let s := who.foldl (fun s (g, tag) => s.modCluster g fun G => { G with refused := (tag, page) :: G.refused }) s
  l.foldl (fun s (_, p) => failPkt { s with net := s.net ++ [p] } p 31) s

/-- R181. In ATS mode the station asks for the translation again. -/
def execPriResponse (die station slot page : Nat) (success : Bool) (s : State) : Host.Outcome State Fault Refusal :=
  let k := (station, slot, page)
  if !(s.die die).pri.contains k then .next s
  else
    let s := s.modDie die fun D => { D with pri := D.pri.erase k }
    let ats := match SMap.find? s.pkg.procs slot with | some P => P.mode == 3 | none => false
    if !success then .next (refusePage s die slot page)
    else if ats then .next (s.modDie die fun D => { D with ats := D.ats ++ [k] })
    else .next ((retryPage s die slot page).modDie die fun D => dropAsks D slot page)

/-- R182: a completion is cached and the accesses are retried; a denial needs the host. -/
def execAtsCompletion (die station slot page : Nat) (frame : Option Nat) (writable : Bool) (s : State) :
    Host.Outcome State Fault Refusal :=
  let k := (station, slot, page)
  if !(s.die die).ats.contains k then .next s
  else
    let s := s.modDie die fun D => { D with ats := D.ats.erase k }
    match frame with
    | none => .next (s.modDie die fun D => { D with pri := D.pri ++ [k] })
    | some f =>
      let t : Tlb := { station := station, slot := slot, page := page, frame := f, writable := writable }
      let s := s.modDie die fun D => { D with tlb := D.tlb.filter (fun u => !(u.slot == slot && u.page == page)) ++ [t] }
      let l := (s.die die).parked.filter (ofPage slot page)
      let denied := !writable && l.any fun (_, p) => match p.body with | .mem _ op _ _ => !readsOnly op | _ => false
      let s := (retryParked die (l.filter fun (_, p) => writable || (match p.body with | .mem _ op _ _ => readsOnly op | _ => true))
        (s.modDie die fun D =>
          { D with parked := D.parked.filter fun e =>
              !(ofPage slot page e && (writable || (match e.2.body with | .mem _ op _ _ => readsOnly op | _ => true))) }))
      .next (if denied then s.modDie die fun D => { D with pri := D.pri ++ [k] } else s.modDie die fun D => dropAsks D slot page)

/-- R182: translations are dropped once every access under them has been performed. -/
def execAtsInvalidation (slot page : Nat) (s : State) : Host.Outcome State Fault Refusal :=
  let busy := s.net.any fun p => p.slot == some slot &&
    match p.body with
    | .mem a _ _ (.at_ _) => decide (a < 2 ^ 63) && pageOf a == page
    | _ => false
  .next (if busy then s
    else { s with dies := s.dies.map fun (d, D) => (d, { D with tlb := D.tlb.filter fun t => !(t.slot == slot && t.page == page) }) })

/-! Full-empty requests of other cores (R199). -/

/-- R199: served at once, or it joins the list; a full list answers as a limit that has passed. -/
def execFeRequest (p : Nat) (s : State) : Host.Outcome State Fault Refusal :=
  match atHand s p with
  | some q =>
    match q.body with
    | .mem _ op _ wh =>
      if !isFeOp op || bankBlocked s q then .next s
      else (match wh with
        | .new => .next (if leavesPkg s q.body then gatewaySend s q else s)
        | .at_ loc =>
          let c := coreOfLoc loc
          (match refusal s q.hart loc q.key with
           | some e => .next (refuse s q loc e)
           | none =>
             match feAt s (some q.hart) loc op with
             | some (t, r) => .next (wakeFe (answer t q r) loc)
             | none =>
               if 64 ≤ (s.core c).feWait.length then .next (failPkt s q 28)
               else .next ((dropPkt s p).modCore c fun C => { C with feWait := C.feWait ++ [q] })))
    | _ => .next s
  | none => .next s

/-- The limit a packet's issuing core sets (R200). -/
def limitOf (s : State) (h : Nat) : W32 := (s.core (coreOf h)).feLimit
/-- The core whose list holds a waiting request, with it. -/
def waiting (s : State) (f : Packet → Bool) : Option (Nat × Packet) :=
  (s.cores.filterMap fun (c, C) => (C.feWait.find? f).map fun q => (c, q)).head?
/-- Take a request off a core's list. -/
def unwait (s : State) (c : Nat) (q : Packet) : State := s.modCore c fun C => { C with feWait := C.feWait.filter fun r => r.id != q.id }

/-- R199: the limit that a request carries, other than 0, passes. -/
def execFeTimeout (p : Nat) (s : State) : Host.Outcome State Fault Refusal :=
  match waiting s fun q => q.id == p with
  | some (c, q) =>
    if q.limit = 0 then .next s
    else .next (failPkt { (unwait s c q) with net := (unwait s c q).net ++ [q] } q 28)
  | none => .next s

/-- R199: an interrupt that is due withdraws the hart's waiting request; the instruction issues again. -/
def execFeWithdraw (h : Nat) (s : State) : Host.Outcome State Fault Refusal :=
  match dueInterrupt s h, waiting s fun q => q.hart == h with
  | some _, some (c, q) => .next ((unwait s c q).modHart h fun H => { H with held := none })
  | _, _ => .next s

/-! Stream images. -/

/-- Checks 1 to 3 of R88 on an element of a source stream of hart h: the cause it fails with (R125). -/
def elemFault (s : State) (h : Nat) (a : Word) (n : Nat) : Option Nat :=
  let slot := slotOf (s.hart h)
  if a.toNat % n ≠ 0 then some 4
  else match placeOf s h slot a with
    | .bad | .window _ _ => some 5
    | _ => if lockHit (s.core (coreOf h)) slot (canonAddr s h a) n false then some 24 else none
/-- The own location of an address of hart h. -/
def ownAt (s : State) (h : Nat) (a : Word) : Option Nat :=
  match placeOf s h (slotOf (s.hart h)) a with
  | .own off => some (padBase (coreOf h) + off)
  | _ => none
/-- What the fetch of the image in hand has asked for, since binding number `born`: a line of another core, of virtual
memory or of another package, and its answer. -/
def lineAsked (s : State) (h tag born line : Nat) : Option (Option Reply) :=
  ((s.cluster (cluOfHart h)).got.find? fun e => e.1 == (tag, line) && decide (born ≤ e.2.1)).map fun e => e.2.2
/-- Ask for the elements of a line: one request of the hart's core, with a place (R125, R211). -/
def askLine (s : State) (h tag n line : Nat) (l : List Word) : State :=
  let wh : Where := match l with
    | a :: _ => (match placeOf s h (slotOf (s.hart h)) a with | .pad c off => .at_ (padBase c + off / 64 * 64) | _ => .new)
    | [] => .new
  let segs := (l.map fun a => (a.toNat % 64, n, a.toNat % 64 * 8)).eraseDups
  let id := s.nextId
  (send s h (.mem (line * 64) (.loads segs) (.unit tag) wh)).modCluster (cluOfHart h) fun G =>
    { G with got := ((tag, line), id, none) :: G.got }

/-- What the fetch of one image found so far. -/
structure ImgRun where
  st   : State
  bits : Nat := 0
  bad  : Option (Nat × Word) := none

/-- Element ik.2 of the shape as lane ik.1 of an image: its bits, or the fault of the first failing one (R125). -/
def imageLane (h tag born : Nat) (r : Shape) (R : ImgRun) (ik : Nat × Nat) : ImgRun :=
  let (a, up) := r.elem ik.2
  let good (s : State) (v : Nat) : ImgRun := { R with st := s, bits := R.bits + elemOf r.ty up v * 2 ^ (ik.1 * elemBits r.ty) }
  if R.bad.isSome then R
  else match elemFault R.st h a r.elemBytes, ownAt R.st h a with
    | some c, _ => { R with bad := some (c, a) }
    | none, some loc =>
      (match load R.st loc r.elemBytes with
       | (s, _, some _) => { R with st := s, bad := some (27, a) }
       | (s, v, none) => good s v)
    | none, none =>
      match lineAsked R.st h tag born (a.toNat / 64) with
      | some (some (.data v bad)) =>
        if (bad.map fun b => b.2) = some (a.toNat % 64) then { R with bad := some (27, a) }
        else good R.st (v.toNat / 2 ^ (a.toNat % 64 * 8) % 2 ^ (8 * r.elemBytes))
      | some (some (.err c _ _)) => { R with bad := some (c, a) }
      | _ => good R.st 0

/-- R125: the next image of a source stream is fetched: lines elsewhere are asked for one by one, and with their answers
the image, or the fault in its place, joins the buffer (DEDUCED, log 39). -/
def execStreamImageFetch (h v : Nat) (s : State) : Host.Outcome State Fault Refusal :=
  match streamOf (s.hart h) v with
  | some t =>
    match t.kind with
    | .src r =>
      if r.images ≤ t.ahead ∨ 4 ≤ t.buf.length then .next s
      else
        let l := r.imageElems t.ahead
        let n := r.elemBytes
        let tag := tagStream h v
        let addrs := (l.takeWhile fun k => (elemFault s h (r.elem k).1 n).isNone).map fun k => (r.elem k).1
        let away := groupOn (fun (a : Word) => a.toNat / 64) (addrs.filter fun a => (ownAt s h a).isNone)
        (match away.find? fun e => (lineAsked s h tag t.born e.1).isNone with
         | some (line, as) => .next (if placesFor s h 1 then askLine s h tag n line as else s)
         | none =>
           if (away.any fun e => lineAsked s h tag t.born e.1 == some none)
               || (addrs.filterMap (ownAt s h)).any fun loc => (underWay s h).any fun p => (padBanks loc n).any fun k => (banksOf s p).contains k then
             .next s
           else
             let R := ((List.range l.length).zip l).foldl (imageLane h tag t.born r) { st := s }
             let img : Image := match R.bad with | some (c, a) => .bad c a | none => .ok (BitVec.ofNat 512 R.bits)
             let s := R.st.modCluster (cluOfHart h) fun G => { G with got := G.got.filter fun e => e.1.1 != tag }
             .next (s.modHart h fun H => setStream H v { t with ahead := t.ahead + 1, buf := t.buf ++ [img] }))
    | _ => .next s
  | none => .next s

/-- The bytes of an image's elements with their addresses, nibbles joined. -/
def imageBytes (r : Shape) (k : Nat) (v : VReg) : List (Word × List Byte) :=
  let l := r.imageElems k
  let w := elemBits r.ty
  let val (i : Nat) : Nat := v.toNat / 2 ^ (i * w) % 2 ^ w
  if r.ty = 11 then
    (List.range (l.length / 2)).map fun i => ((r.elem (l.getD (2 * i) 0)).1, toBytes 1 (val (2 * i) + 16 * val (2 * i + 1)))
  else ((List.range l.length).zip l).map fun (i, e) => ((r.elem e).1, toBytes (w / 8) (val i))

/-- R124: the oldest unstored image of a destination stream is handed to its banks and the interface (DEDUCED, log 39). -/
def execStreamImageStore (h v : Nat) (s : State) : Host.Outcome State Fault Refusal :=
  let H := s.hart h
  match streamOf H v with
  | some t =>
    match t.kind, t.out with
    | .dst r, (k, img) :: rest =>
      let slot := slotOf H
      let l := imageBytes r k img
      let place (a : Word) : Place := placeOf s h slot a
      let own := l.filterMap fun (a, b) => match place a with | .own off => some (padBase (coreOf h) + off, b) | _ => none
      let away := groupOn (fun (x : Word × List Byte) => x.1.toNat / 64) (l.filter fun (a, _) => match place a with | .own _ => false | _ => true)
      let earlier := (underWay s h).any fun q => match q.body with | .mem _ _ (.stream w _) _ => w == v | _ => false
      if own.any (fun (loc, _) => earlier || ownBusy s h loc) || !placesFor s h away.length then .next s
      else
        let s := s.modHart h fun H => setStream H v { t with out := rest }
        let s := own.foldl (fun s (loc, b) => store s (some h) loc b false) s
        .next (away.foldl (fun s (line, ks) =>
          let wh : Where := match ks with
            | (a, _) :: _ => (match place a with | .pad c off => .at_ (padBase c + off / 64 * 64) | _ => .new)
            | [] => .new
          send s h (.mem (line * 64) (.stores (ks.map fun (a, b) => (a.toNat % 64, b))) (.stream v k) wh)) s)
    | _, _ => .next s
  | none => .next s

end Sys2Proof.Machine
end

