-- ==== Sys2Proof/Machine/Tasks.lean ====
section
/-! DEFINITION. The task instructions of a hart: spawns (R252, R253), the end of a task (R254, R426),
join counters (R257), the range deque (R276, R277), rings (R279 to R281), group barriers (R286), safe
points (R99 to R101, R278) and ECALL with the fault end of a task (R404, R405). -/

namespace Sys2Proof.Machine
open Sys2Proof

/-! Shared checks. -/

/-- Legal in U mode while a task runs (R251). -/
def taskLegal (s : State) : Pre := legal s (s.me.mode == .U && s.me.task.isSome)
/-- NTYPES of the hart's launch. -/
def ntypesOf (s : State) : Nat :=
  match s.me.task with
  | some T => (match launchOf s T.launch with | some L => L.trec.ntypes | none => 0)
  | none => 0
/-- SPAWN_LIMIT (52), DEQUE (53) and RING (51) with a code (R287). -/
def spawnBad (code : Nat) : Pre := .trap 52 (word code)
def dequeBad (code : Nat) : Pre := .trap 53 (word code)
def ringBad (code : Nat) : Pre := .trap 51 (word code)

/-- The record at an own address, its JOIN rewritten, with its carried registers. -/
def recordAt (s : State) (a : Word) : TaskRec × List Word :=
  let r := parseRec (recordBytes s a 32)
  ({ r with join := rewriteJoin s (coreOf s.cur) r.join }, if r.carry then carried (recordBytes s a 96) else [])
/-- What reading the record at an address does to stored errors (R188, R190): the 32 B, and with CARRY the 64 after them. -/
def bufferRead (s : State) (a : Word) : State :=
  let s := readRecord s a 16 32
  if (parseRec (recordBytes s a 32)).carry then readRecord s a 16 96 else s
/-- The same, by an instruction that is legal here. -/
def taskRead (s : State) (a : Word) : State := if taskLegal s == .ok then bufferRead s a else s
/-- The address and poison checks of R252 on a record buffer. -/
def bufferPre (s : State) (a : Word) : Pre :=
  .seq (recordPre s a 16) (poisonPre s a (if (parseRec (recordBytes s a 32)).carry then 96 else 32))
/-- The record checks of R252 (DEDUCED, log 53). -/
def codesPre (s : State) (r : TaskRec) : Pre := match recCode s (ntypesOf s) r with | some c => spawnBad c | none => .ok
/-- The task's cluster takes a record spawned by the executing hart. -/
def spawnHere (s : State) (r : TaskRec) (regs : List Word) (target : Option Nat) : State :=
  match s.me.task with
  | some T => spawnRec s (cluOfHart s.cur) (some s.cur) r regs T.launch T.slot T.key target
  | none => s
/-- The wait of R252 for a place. -/
def spawnReady (s : State) : Pre := ready (!outFull s.me && !keepFull (s.cluster (cluOfHart s.cur))) .spawn

/-! Spawning (R252, R253). -/

/-- R252. -/
def execSpawn (rs1 : BitVec 5) (s : State) : Host.Outcome State Fault Refusal :=
  let a := s.x rs1
  let s := taskRead s a
  let (r, regs) := recordAt s a
  finish s (.all [taskLegal s, bufferPre s a, codesPre s r, spawnReady s]) (retire (spawnHere s r regs none) s.cur)
/-- R253: never waits. -/
def execSpawnNb (rd rs1 : BitVec 5) (s : State) : Host.Outcome State Fault Refusal :=
  let a := s.x rs1
  let s := taskRead s a
  let (r, regs) := recordAt s a
  let t := if outFull s.me then retireX s rd 1
    else if keepFull (s.cluster (cluOfHart s.cur)) then retireX s rd 2
    else retireX (spawnHere s r regs none) rd 0
  finish s (.all [taskLegal s, bufferPre s a, codesPre s r, armedW s rd]) t
/-- R253. -/
def execSpawnr (rs1 rs2 : BitVec 5) (s : State) : Host.Outcome State Fault Refusal :=
  let a := s.x rs1
  let s := taskRead s a
  let e := (s.x rs2).toNat
  let (r, regs) := recordAt s a
  let r := { r with range := true, ext := e }
  finish s (.all [taskLegal s, bufferPre s a, (if e < 65536 then .ok else spawnBad 4), codesPre s r, spawnReady s])
    (retire (spawnHere s r regs none) s.cur)
/-- R253 (DEDUCED, log 53). -/
def execSpawnat (rs1 rs2 : BitVec 5) (s : State) : Host.Outcome State Fault Refusal :=
  let a := s.x rs1
  let s := taskRead s a
  let t := (s.x rs2).toNat
  let (r, regs) := recordAt s a
  let ok := match s.me.task with
    | some T => (match launchOf s T.launch with | some L => inRegion L.trec t | none => false)
    | none => false
  finish s (.all [taskLegal s, bufferPre s a, codesPre s r, (if t < 512 then .ok else spawnBad 5), (if ok then .ok else spawnBad 6), spawnReady s])
    (retire (spawnHere s r regs (some t)) s.cur)
/-- R252: a wait past fe_limit. -/
def execSpawnWaitTimeout (h : Nat) (s : State) : Host.Outcome State Fault Refusal :=
  match (s.hart h).stalled with
  | some .spawn => .next (if limitOf s h = 0 then s else takeTrap s h false 52 3)
  | _ => .next s

/-! The end of a hart's work (R426). -/

/-- Every stream of the hart has handed over its images. -/
def unbindAllPre (H : Hart) : Pre := .all (H.streams.map fun (r, _) => unbindPre H r)
/-- Every binding is dissolved and the branch-outcome queue emptied (R127, R148). -/
def unbindAll (H : Hart) : Hart := { H.streams.foldl (fun H (r, _) => unbind H r) H with bq := [] }
/-- Armed registers are disarmed and hold 0 (R295). -/
def disarm (H : Hart) : Hart := { H.armed.foldl (fun H n => landX H n 0) H with armed := [] }
/-- The held deposits of hart h. -/
def depositFor (h : Nat) (p : Packet) : Bool :=
  match p.body with
  | .deposit t _ => t < 2 ^ 60 && tgtHartNo t == h
  | _ => false
/-- Held deposits for harts are refused (R294, R295, R409). -/
def refuseDeposits (s : State) (c : Nat) (p : Packet → Bool) : State :=
  let l := (s.core c).deposits.filter p
  let s := s.modCore c fun C => { C with deposits := C.deposits.filter fun q => !p q }
  l.foldl (fun s q => putBackAt s (errReply q 56) (cluOf c)) s
/-- Disarm hart h and refuse its held deposits. -/
def disarmHart (s : State) (h : Nat) : State := (refuseDeposits s (coreOf h) (depositFor h)).modHart h disarm

/-- The end waits of R426. -/
def endWaits (s : State) (h : Nat) : Bool :=
  let H := s.hart h
  !outstanding s h 4 false && H.gathers.all (fun g => g.left == 0) && H.copies.all (fun c => c.status.isSome)
    && !hasCommands s h && H.tracked.all fun t => t.failed
/-- An unreported failed copy (R210). -/
def copyPre (H : Hart) : Pre :=
  match H.copies.find? fun c => !c.reported && (match c.status with | some v => v != 0 | none => false) with
  | some c => .trap 56 (c.status.getD 0) (.copy c.tag)
  | none => .ok
/-- An unreported failed sparse command (R360). -/
def trackedPre (H : Hart) : Pre :=
  match H.tracked.find? fun t => t.failed with
  | some t => .trap 50 t.c (.tracked t.c)
  | none => .ok
/-- The end waits and the end faults in their order (R426). -/
def endPre (s : State) : Pre :=
  .all [ready (endWaits s s.cur), deferredPre s s.cur 4, copyPre s.me, engFailPre s.me, trackedPre s.me]

/-- The signature comparison at the retirement that ends a hart's work (R69). -/
def sigEnd (s : State) : Pre :=
  let k := s.me.chk
  if sigBit s.me.csr && k.act then
    let run := if s.me.irSigned then crcOfWord k.run s.me.ir else k.run
    need (run == k.exp && k.endk == 6) 26 (sigTval k run 6)
  else .ok

/-- The end of a hart's work past the steps before its waits (R426): the waits and end faults, the
instruction's further checks, the release of the engine state, and the comparison of R69 at retirement. -/
def endWork (s : State) (more : Pre) (t : State → State) : Host.Outcome State Fault Refusal :=
  match Pre.seq (endPre s) more with
  | .ok => let s1 := releaseEngine s s.cur; finish s1 (sigEnd s1) (t s1)
  | p => finish s p s

/-- A hart is free: its work has ended, or it runs no task and its firmware waits in WFI or WFM (DEDUCED, log 8). -/
def isFree (H : Hart) : Bool :=
  H.task.isNone && (H.free || (H.mode == .M && (H.stalled == some .wfi || H.stalled == some .wfm)))
/-- The hart becomes free: nothing of its task is left in it. -/
def freeHart (H : Hart) : Hart :=
  { H with
    task := none, free := true, csr := { H.csr with prip := false }
    pfx := false, held := none, fetched := [], lanes := [], stalled := none, ending := false, fw := false, vloop := none, broken := none, resv := none
    gathers := [], copies := [], tracked := [], failed := none, engFail := none, pend := [], cvPend := [], dropped := [] }
/-- The cost of hart h's task leaves Q (R259). -/
def dropCost (s : State) (h : Nat) : State :=
  match (s.hart h).task with
  | some T => s.modCluster (cluOfHart h) fun G => { G with q := G.q - T.cost }
  | none => s
/-- The frame of hart h's task is free. -/
def dropFrame (s : State) (h : Nat) : State :=
  match (s.hart h).task with
  | some T => s.modCore (coreOf h) fun C => { C with frames := C.frames.filter fun (u, _) => u != T.frame }
  | none => s
/-- A hart whose task leaves waits at no barrier; its core's arrival stands (R286). -/
def leaveBarriers (s : State) (h : Nat) : State :=
  s.modPkg fun P =>
    let l := P.barriers.map fun b => { b with harts := b.harts.filter (· != h) }
    { P with barriers := l.filter fun b => !(b.members.isEmpty && b.harts.isEmpty) }
/-- Frame, stream reservation, cost and hart are given back (R254). -/
def leaveTask (s : State) (h : Nat) : State := (leaveBarriers (dropFrame (dropCost s h) h) h).modHart h freeHart

/-- The status word of a TEND (R254). -/
def tendStatus (v : Word) : Nat := Nat.land v.toNat 0x3F7FFFFF

/-- TEND past its waits. -/
def endTask (s : State) (status : Nat) : State :=
  match s.me.task with
  | none => s
  | some T =>
    let g := cluOfHart s.cur
    let s := leaveTask (disarmHart (retire s s.cur) s.cur) s.cur
    endRecord (orStatus s g T.launch status) g T.trec T.group T.launch status

/-- R254, R426. -/
def execTend (rs1 : BitVec 5) (s : State) : Host.Outcome State Fault Refusal :=
  let st := tendStatus (s.x rs1)
  match Pre.all [taskLegal s, (if s.me.deque.isEmpty then .ok else dequeBad 4), unbindAllPre s.me] with
  | .ok => endWork (s.modHart s.cur unbindAll) .ok fun t => endTask t st
  | p => finish s p s

/-! Join counters (R257). -/

/-- The checks of a counter address. -/
def counterPre (s : State) (a : Word) : Pre :=
  .all [alignPre a 16 true,
    need (match placeNow s a with
      | .own _ => !isMordant s.cur
      | .pad t _ => isWorker t
      | .other n => n / 2 ^ 34 % 32 != 16 && n / 2 ^ 33 % 2 == 0
      | _ => false) 7 a,
    lockPre s a 16 true, feRelease s a]
/-- A counter operation of the executing hart. -/
def joinInstr (a : Word) (op : MemOp) (s : State) : Host.Outcome State Fault Refusal :=
  match counterPre s a with
  | .ok =>
    match placeNow s a with
    | .own off =>
      let loc := ownLoc s off
      if joinWaits s loc op then finish s (.wait .issue) s
      else match joinAt s (some s.cur) loc op with
        | (t, .err c _ _) => finish t (.trap c a) t
        | (t, _) => finish s .ok (retire t s.cur)
    | _ => finish s (ready (placesFor s s.cur 1)) (sendPosted s a op)
  | p => finish s p s
/-- R257. -/
def execJoininit (rs1 rs2 : BitVec 5) (s : State) : Host.Outcome State Fault Refusal :=
  joinInstr (s.x rs1) (.joinInit ((s.x rs2).toNat % 2 ^ 32)) s
/-- R257. -/
def execJoinadd (rs1 rs2 : BitVec 5) (s : State) : Host.Outcome State Fault Refusal :=
  joinInstr (s.x rs1) (.joinAdd ((s.x rs2).toNat % 2 ^ 32)) s
/-- R257. -/
def execJoinarm (rs1 rs2 : BitVec 5) (s : State) : Host.Outcome State Fault Refusal :=
  joinInstr (s.x rs1) (.joinArm (s.x rs2).toNat (s.me.task.map fun T => T.launch)) s

/-- R266. -/
def execPress (rd : BitVec 5) (s : State) : Host.Outcome State Fault Refusal :=
  let G := s.cluster (cluOfHart s.cur)
  finish s (armedW s rd) (retireX s rd (word (pressure G + G.dist * 2 ^ 16 + G.queue.length * 2 ^ 32)))

/-! The range deque (R276, R277). -/

/-- R276. -/
def execDqpush (rs1 rs2 : BitVec 5) (s : State) : Host.Outcome State Fault Refusal :=
  let lo := (s.x rs1).toNat
  let hi := (s.x rs2).toNat
  finish s (.all [taskLegal s, (if hi ≤ lo ∨ 65536 < hi then dequeBad 3 else .ok),
      (if 16 ≤ s.me.deque.length then dequeBad 1 else .ok)])
    (retireWith s fun H => { H with deque := H.deque ++ [(lo, hi)] })
/-- R276: the tail is the last entry. -/
def execDqpop (rd : BitVec 5) (s : State) : Host.Outcome State Fault Refusal :=
  let t := match s.me.deque.getLast? with
    | none => retireX s rd (word (2 ^ 63))
    | some (lo, hi) => retireWith s fun H => { H.setX rd.toNat (word (lo + hi * 2 ^ 32)) with deque := H.deque.dropLast }
  finish s (.seq (taskLegal s) (armedW s rd)) t
/-- The middle of a range. -/
def midOf (r : Nat × Nat) : Nat := r.1 + (r.2 - r.1) / 2
/-- R276: entry 0 is the bottom. -/
def execDqsplit (s : State) : Host.Outcome State Fault Refusal :=
  match s.me.deque with
  | [] => finish s (taskLegal s) (retire s s.cur)
  | b :: r =>
    if b.2 - b.1 < 2 then finish s (taskLegal s) (retire s s.cur)
    else finish s (.seq (taskLegal s) (if 16 ≤ s.me.deque.length then dequeBad 2 else .ok))
      (retireWith s fun H => { H with deque := (b.1, midOf b) :: (midOf b, b.2) :: r })

/-- The larger half is spilled: the bottom shrinks and the record is spawned (R277). -/
def spillNow (s : State) (rd : BitVec 5) (b : Nat × Nat) (r : List (Nat × Nat)) (t : TaskRec) : State :=
  let s := spawnHere s { t with c0 := midOf b, range := true, ext := b.2 - midOf b } [] none
  retireWith s fun H => { H.setX rd.toNat 0 with deque := (b.1, midOf b) :: r }
/-- JOINADD of 1 at the template's counter, and what follows its acknowledgement. -/
def spillJoin (s : State) (rd : BitVec 5) (b : Nat × Nat) (r : List (Nat × Nat)) (t : TaskRec) : Host.Outcome State Fault Refusal :=
  let j := word t.join
  match placeNow s j with
  | .own off =>
    (match joinAt s (some s.cur) (ownLoc s off) (.joinAdd 1) with
     | (u, .err c _ _) => finish u (.trap c j) u
     | (u, _) => finish s .ok (spillNow u rd b r t))
  | _ => finish s (ready (placesFor s s.cur 1)) (sendHeld s (.spill rd.toNat t) j (.joinAdd 1))
/-- R277. -/
def execDqspill (rd rs1 : BitVec 5) (s : State) : Host.Outcome State Fault Refusal :=
  let a := s.x rs1
  match Pre.seq (taskLegal s) (armedW s rd), s.me.deque with
  | .ok, [] => finish s .ok (retireX s rd 1)
  | .ok, b :: r =>
    if b.2 - b.1 < 2 then finish s .ok (retireX s rd 2)
    else
      let s := readRecord s a 16 32
      let (t, _) := recordAt s a
      (match Pre.all [recordPre s a 16, poisonPre s a 32, codesPre s t, (if t.carry then spawnBad 2 else .ok)] with
       | .ok =>
         if outFull s.me then finish s .ok (retireX s rd 3)
         else if keepFull (s.cluster (cluOfHart s.cur)) then finish s .ok (retireX s rd 4)
         else if t.join = 0 then finish s .ok (spillNow s rd b r t)
         else (match Pre.seq (lockPre s (word t.join) 16 true) (feRelease s (word t.join)) with
           | .ok => spillJoin s rd b r t
           | p => finish s p s)
       | p => finish s p s)
  | p, _ => finish s p s

/-! Rings (R279 to R281). -/

/-- The fields of a ring descriptor. -/
structure Ring where
  base  : Nat
  logn  : Nat
  size  : Nat
  kind  : Nat
  cons  : Nat
  cclu  : Nat
  pidx  : Nat
  cidx  : Nat
  compl : Nat
  rsv   : Bool
  deriving DecidableEq, Repr

def parseRing (l : List Byte) : Ring :=
  { base := leAt l 0 8, logn := leAt l 8 1 % 32, size := leAt l 9 1, kind := leAt l 10 1, cons := leAt l 11 1
    cclu := leAt l 12 2, pidx := leAt l 16 4, cidx := leAt l 20 4, compl := leAt l 24 8
    rsv := leAt l 8 1 / 32 != 0 || leAt l 14 2 != 0 }
/-- Bytes of a slot. -/
def Ring.slotBytes (d : Ring) : Nat := if d.size = 1 then 128 else 64
/-- The fields are valid (R279). -/
def Ring.valid (d : Ring) : Bool :=
  !d.rsv && decide (1 ≤ d.logn ∧ d.logn ≤ 15 ∧ d.size ≤ 1 ∧ d.kind ≤ 2 ∧ d.cons ≤ 1 ∧ d.cclu < 512) && d.base % d.slotBytes == 0
/-- The address of index i's slot and of its header. -/
def Ring.slot (d : Ring) (i : Nat) : Nat := d.base + i % 2 ^ d.logn * d.slotBytes
def Ring.head (d : Ring) (i : Nat) : Nat := d.slot i + d.slotBytes - 8
/-- PHASE of index i: NOT i[LOGN]. -/
def Ring.phase (d : Ring) (i : Nat) : Nat := 1 - i / 2 ^ d.logn % 2
/-- Entries in the ring. -/
def Ring.fill (d : Ring) : Nat := (d.pidx + 2 ^ 32 - d.cidx) % 2 ^ 32
def Ring.full (d : Ring) : Bool := 2 ^ d.logn ≤ d.fill

/-- A ring address: in a worker scratchpad or virtual memory. -/
def ringPlace (s : State) (a : Word) : Bool :=
  match placeNow s a with
  | .own _ => !isMordant s.cur
  | .pad t _ => isWorker t
  | .other n => n / 2 ^ 34 % 32 != 16 && n / 2 ^ 33 % 2 == 0
  | .virt _ => true
  | _ => false

/-- What a ring instruction reads: bytes, a fault, a wait for the hart's earlier accesses to the bank, or a read that must
be sent first. -/
inductive RingRead
  | bytes (l : List Byte)
  | bad (cause : Nat) (a : Word)
  | wait
  | ask (a : Word) (n : Nat)
/-- Read n bytes within one line: own memory at once, elsewhere what a held read has brought (DEDUCED, log 54). -/
def ringRead (s : State) (a : Word) (n : Nat) : RingRead :=
  match placeNow s a with
  | .own off =>
    (match poisonPre s a n with
     | .trap c p _ => .bad c p
     | .wait _ => .wait
     | .ok => .bytes (s.mem.readBytes (ownLoc s off) n))
  | _ => match s.me.fetched.find? fun (b, _) => b == a.toNat with
    | some (_, l) => .bytes l
    | none => .ask a n
/-- The reads of a ring instruction in order, joined. -/
def ringReads (s : State) : List (Word × Nat) → RingRead
  | [] => .bytes []
  | (a, n) :: r =>
    match ringRead s a n, ringReads s r with
    | .bytes l, .bytes m => .bytes (l ++ m)
    | .bytes _, q => q
    | q, _ => q
/-- Go on with what was read, trap, or issue a held read (DEDUCED, log 54). -/
def withRead (s : State) (q : RingRead) (k : List Byte → Host.Outcome State Fault Refusal) : Host.Outcome State Fault Refusal :=
  match q with
  | .bytes l => k l
  | .bad c a => finish s (.trap c a) s
  | .wait => finish s (.wait .issue) s
  | .ask a n => finish s (ready (placesFor s s.cur 1)) (sendHeld s (.fetch n) a (.load n))

/-- An address in the form that names it from anywhere in the package. -/
def globalAddr (s : State) (a : Word) : Nat :=
  match placeNow s a with
  | .own off => ownLoc s off + s.pkg.number % 4096 * 2 ^ 48
  | _ => a.toNat
/-- A store of a ring instruction that goes through the network. -/
def ringSend (s : State) (a : Word) (op : MemOp) : State := send s s.cur (.mem (globalAddr s a) op (.posted false) (laneWhere s a))
/-- A store of a ring instruction at retirement on the own scratchpad. -/
def ringStore (s : State) (a : Word) (l : List Byte) : State :=
  match placeNow s a with
  | .own off => store s (some s.cur) (ownLoc s off) l false
  | _ => s
def isOwnPlace (s : State) (a : Word) : Bool := match placeNow s a with | .own _ => true | _ => false

/-- The header RPUSH writes (R279). -/
def ringHeader (s : State) (d : Ring) : List Byte :=
  let stamp := match s.me.task with
    | some T => if d.cons = 1 then T.slot * 2 ^ 16 + (if d.kind = 0 then (2 ^ 15 + T.launch) * 2 ^ 32 else 0) else 0
    | none => 0
  toBytes 8 (d.phase d.pidx + stamp)
/-- The bytes of the record RPUSH writes: 32 or 96 of a task, 120 of a launch. -/
def pushBytes (s : State) (d : Ring) (a : Word) : List Byte :=
  if d.kind = 0 then
    let r := parseRec (recordBytes s a 32)
    let l := recordBytes s a (if r.carry then 96 else 32)
    l.take 16 ++ toBytes 8 (rewriteJoin s (coreOf s.cur) r.join) ++ l.drop 24
  else recordBytes s a 120
/-- 64-byte pieces of a byte list. -/
def pieces : Nat → List Byte → List (List Byte)
  | 0, _ => []
  | n + 1, l => if l.isEmpty then [] else l.take 64 :: pieces n (l.drop 64)
/-- A write of RPUSH that follows earlier ones: at once where nothing is before it, else from the network interface. -/
def ringWrite (s : State) (now : Bool) (a : Word) (l : List Byte) : State :=
  if now && isOwnPlace s a then ringStore s a l else ringSend s a (.relStore l)
/-- The three writes of RPUSH and the notice (R280): on the own scratchpad at retirement, elsewhere posted; the header
follows the record, as a release, and PIDX the header (DEDUCED, log 54). -/
def pushWrites (s : State) (g : Word) (d : Ring) (l : List Byte) : State :=
  let slot := word (d.slot d.pidx)
  let own := isOwnPlace s slot
  let free := own && !outstanding s s.cur 0 false
  let s1 := if own then ringStore s slot l
    else ((pieces 3 l).zip [0, 64]).foldl (fun s (b, o) => ringSend s (slot + word o) (.stores [(0, b)])) s
  let s1 := ringWrite s1 free (word (d.head d.pidx)) (ringHeader s d)
  let s1 := ringWrite s1 free (g + 16) (toBytes 4 (d.pidx + 1))
  if d.cons = 1 then send s1 s.cur (.ringNote (globalAddr s g) d.cclu (slotOf s.me) (keyOf s.me)) else s1

/-- The checks on a descriptor that RPUSH makes (R280). -/
def pushPre (s : State) (d : Ring) (r : Word) : Pre :=
  let region := match s.me.task with
    | some T => (match launchOf s T.launch with | some L => inRegion L.trec d.cclu | none => false)
    | none => false
  let n := if d.kind = 0 then (if (parseRec (recordBytes s r 32)).carry then 96 else 32) else 120
  let key := leAt (recordBytes s r 120) 42 2
  .all [(if d.valid && ringPlace s (word (d.slot 0)) then .ok else ringBad 1), (if d.kind = 2 then ringBad 2 else .ok),
    (if d.cons = 1 ∧ region = false then ringBad 5 else .ok), recordPre s r 16, poisonPre s r n,
    (if n ≤ d.slotBytes - 8 then .ok else ringBad 3),
    (if d.kind = 1 ∧ keyHeld (s.core (coreOf s.cur)) key = false then .trap 29 r else .ok)]
/-- Legal in U and S modes (R251), with the checks on the descriptor's address. -/
def ringPre (s : State) (g : Word) : Pre :=
  .all [legal s (s.me.mode != .M), need (g.toNat % 32 == 0 && ringPlace s g) 5 g]
/-- R280. -/
def execRpush (rs1 rs2 : BitVec 5) (s : State) : Host.Outcome State Fault Refusal :=
  let g := s.x rs1
  let r := s.x rs2
  match ringPre s g with
  | .ok =>
    let s := readRecord s g 1 32
    withRead s (ringRead s g 32) fun l =>
      let d := parseRing l
      let s := readRecord s r 16 (if d.kind = 0 then (if (parseRec (recordBytes s r 32)).carry then 96 else 32) else 120)
      match pushPre s d r with
      | .ok =>
        if d.full then finish s .ok (s.modHart s.cur fun H => { H with stalled := some .ring, fetched := [] })
        else finish s (ready (placesFor s s.cur 4)) (retire (pushWrites s g d (pushBytes s d r)) s.cur)
      | p => finish s p s
  | p => finish s p s
/-- R280: a wait past fe_limit. -/
def execRingWaitTimeout (h : Nat) (s : State) : Host.Outcome State Fault Refusal :=
  match (s.hart h).stalled with
  | some .ring => .next (if limitOf s h = 0 then s else takeTrap s h false 51 4)
  | _ => .next s

/-- RPOP and RPEEK (R281). -/
def ringTake (rd rs1 rs2 : BitVec 5) (pop : Bool) (s : State) : Host.Outcome State Fault Refusal :=
  let g := s.x rs1
  let r := s.x rs2
  match Pre.seq (ringPre s g) (armedW s rd) with
  | .ok =>
    let s := readRecord s g 1 32
    withRead s (ringRead s g 32) fun l =>
      let d := parseRing l
      match Pre.all [(if d.valid && ringPlace s (word (d.slot 0)) then .ok else ringBad 1),
          (if d.cons = 1 ∨ (d.kind = 2 ∧ s.me.mode = .U) then ringBad 2 else .ok), recordPre s r 16] with
      | .ok =>
        let s := readRecord s (word (d.head d.cidx)) 1 8
        withRead s (ringRead s (word (d.head d.cidx)) 8) fun h =>
          if leAt h 0 1 % 2 ≠ d.phase d.cidx then finish s .ok (retireX s rd 1)
          else
            let a := word (d.slot d.cidx)
            let s := readRecord s a 1 (d.slotBytes - 8)
            withRead s (ringReads s (if d.size = 1 then [(a, 64), (a + 64, 56)] else [(a, 56)])) fun b =>
              let s1 := ringStore s r b
              let c := g + 20
              let s2 := if !pop then s1
                else if isOwnPlace s c then ringStore s1 c (toBytes 4 (d.cidx + 1)) else ringSend s1 c (.store (toBytes 4 (d.cidx + 1)) false)
              finish s (ready (placesFor s s.cur 1)) (retireX s2 rd 0)
      | p => finish s p s
  | p => finish s p s
/-- R281. -/
def execRpop (rd rs1 rs2 : BitVec 5) (s : State) : Host.Outcome State Fault Refusal := ringTake rd rs1 rs2 true s
/-- R281. -/
def execRpeek (rd rs1 rs2 : BitVec 5) (s : State) : Host.Outcome State Fault Refusal := ringTake rd rs1 rs2 false s

/-! Group barriers (R286, R393). -/

/-- The entry of group q of launch n as cluster g holds it: version and members. -/
def groupOf' (s : State) (g n q : Nat) : Nat × List Nat := SMap.get (0, []) (s.cluster g).grpTab (n * 256 + q)
/-- A member counts as arrived: it has arrived, it is gone, or it has been contained while the launch lives (R411). -/
def counted (s : State) (b : Barrier) (c : Nat) : Bool :=
  b.arrived.contains c || (s.core c).isSealed || coreGone s c
    || (match launchOf s b.launch with | some L => L.contained.contains c | none => false)
/-- The episode is over. -/
def barrierOver (s : State) (b : Barrier) : Bool := !b.members.isEmpty && b.members.all (counted s b)
/-- Episodes that are over end: waiting harts go on, and a hart that an interrupt took from its wait is
noted in an entry without members (DEDUCED, log 46). -/
def barriersEnd : List Barrier → State → State
  | [], s => s
  | b :: r, s =>
    if barrierOver s b then
      let waits (h : Nat) : Bool := match (s.hart h).stalled with | some (.barrier _ _) => true | _ => false
      let away := b.harts.filter fun h => !waits h
      let s := (b.harts.filter waits).foldl (fun s h => retire s h) s
      barriersEnd r (s.modPkg fun P =>
        { P with barriers := P.barriers.filter (fun q => q != b) ++ (if away.isEmpty then [] else [{ b with members := [], arrived := [], harts := away }]) })
    else barriersEnd r s
def barrierCheck (s : State) : State := barriersEnd s.pkg.barriers s

/-- The hart's core arrives, or waits for its episode. -/
def barrierJoin (s : State) (n q : Nat) : State :=
  let c := coreOf s.cur
  let mine (b : Barrier) : Bool := b.launch == n && b.group == q && !b.members.isEmpty
  let add (b : Barrier) : Barrier :=
    { b with arrived := if b.arrived.contains c then b.arrived else b.arrived ++ [c]
             harts := if b.harts.contains s.cur then b.harts else b.harts ++ [s.cur] }
  let P := s.pkg
  let l := if P.barriers.any mine then P.barriers.map fun b => if mine b then add b else b
    else P.barriers ++ [add { launch := n, group := q, members := (groupOf' s (cluOf c) n q).2, arrived := [], harts := [] }]
  barrierCheck ({ s with pkg := { P with barriers := l } }.modHart s.cur fun H => { H with stalled := some (.barrier n q) })

/-- The core is a member of group q of launch n for a GRPBAR issued now: of the episode under way, which keeps its set, or of
the group as it stands; a new member waits for the episode under way to end (R286, R393). -/
def memberPre (s : State) (n q : Nat) (a : Word) : Pre :=
  let c := coreOf s.cur
  let now := decide (q ≤ 255) && (groupOf' s (cluOf c) n q).2.contains c
  match s.pkg.barriers.find? fun b => b.launch == n && b.group == q && !b.members.isEmpty with
  | some b => if b.members.contains c then .ok else .seq (need now 5 a) (.wait .issue)
  | none => need now 5 a
/-- R286 (DEDUCED, log 46). -/
def execGrpbar (rs1 : BitVec 5) (s : State) : Host.Outcome State Fault Refusal :=
  let v := (s.x rs1).toNat
  match taskLegal s, s.me.task with
  | .ok, some T =>
    let n := T.launch
    let passed (b : Barrier) : Bool := b.launch == n && b.group == v && b.members.isEmpty && b.harts.contains s.cur
    if s.pkg.barriers.any passed then
      finish s .ok (retire (s.modPkg fun P =>
        { P with barriers := (P.barriers.map fun b => if passed b then { b with harts := b.harts.erase s.cur } else b).filter fun b => !(b.members.isEmpty && b.harts.isEmpty) }) s.cur)
    else
      finish s (.all [memberPre s n v (s.x rs1), ready (!outstanding s s.cur 3 false)])
        (barrierJoin s n v)
  | p, _ => finish s p s

/-! Safe points (R99 to R101, R278). -/

/-- A live-mask entry (R100). -/
structure LiveMask where
  xm  : Nat
  fm  : Nat
  vm  : Nat
  mm  : Nat
  fl  : Nat
  rsv : Nat
  deriving DecidableEq, Repr
def parseMask (l : List Byte) : LiveMask :=
  { xm := leAt l 0 4, fm := leAt l 4 4, vm := leAt l 8 4, mm := leAt l 12 1, fl := leAt l 13 1, rsv := leAt l 14 2 }
def LiveMask.valid (e : LiveMask) : Bool := e.xm % 2 == 0 && decide (e.fl < 8) && e.rsv == 0
/-- The registers a mask names, ascending. -/
def named (m n : Nat) : List Nat := (List.range n).filter fun i => m / 2 ^ i % 2 == 1
/-- Zeros up to a multiple of n bytes. -/
def padTo (n : Nat) (l : List Byte) : List Byte := l ++ List.replicate ((n - l.length % n) % n) 0

/-- The parts of a pre-emption image after its header (R101). -/
def imageBody (H : Hart) (e : LiveMask) : List Byte :=
  ((named e.xm 32).map fun n => toBytes 8 (H.getX n).toNat).flatten
    ++ padTo 8 ((named e.fm 32).map fun n => toBytes 4 (H.getF n).toNat).flatten
    ++ ((named e.vm 32).map fun n => toBytes 64 (H.getV n).toNat).flatten
    ++ ((named e.mm 8).map fun n => toBytes 8 (H.getM n).toNat).flatten
    ++ (if e.fl % 2 = 1 then toBytes 8 (H.csr.frm.toNat * 32 + H.csr.fflags.toNat) else [])
    ++ (if e.fl / 2 % 2 = 1 then toBytes 4 H.csr.cvamax.toNat ++ toBytes 4 H.csr.cvflags.toNat else [])
    ++ (if e.fl / 4 % 2 = 1 then toBytes 8 H.lfsr.toNat else [])
/-- A pre-emption image (R101). -/
def imageOf (H : Hart) (id k : Nat) (e : LiveMask) : List Byte :=
  let body := imageBody H e
  let n := (16 + body.length + 15) / 16
  padTo 16 (toBytes 2 (H.pc.toNat / 4 + 1) ++ toBytes 2 id ++ toBytes 2 k ++ toBytes 2 n ++ toBytes 8 0 ++ body)

/-- The code object that holds a word. -/
def objectOf (C : Core) (n : Nat) : Option CodeObj := C.objs.find? fun o => decide (o.first ≤ n ∧ n < o.first + o.count)
/-- The address of live-mask entry k of the object at the hart's pc. -/
def maskAddr (s : State) (k : Nat) : Word :=
  match objectOf (s.core (coreOf s.cur)) (s.me.pc.toNat / 4) with
  | some o => o.table + word (16 * k)
  | none => 0
/-- The deque as a resume record carries it (R278): two entries a word. -/
def dequeWords (l : List (Nat × Nat)) : List Word :=
  let e (i : Nat) : Nat := match l[i]? with | some (lo, hi) => lo + (hi - 1) * 2 ^ 16 | none => 0xFFFFFFFF
  (List.range 8).map fun i => word (e (2 * i) + e (2 * i + 1) * 2 ^ 32)
/-- The deque a resume record restores. -/
def wordsDeque (l : List Word) : List (Nat × Nat) :=
  ((l.map fun w => [w.toNat % 2 ^ 32, w.toNat / 2 ^ 32]).flatten.filter fun e => e != 0xFFFFFFFF).map fun e =>
    (e % 2 ^ 16, e / 2 ^ 16 + 1)

/-- The location of an offset in a core's spill area: device memory of its die beyond what any address reaches (R313;
DESIGN CHOICE, log 51). -/
def spillLoc (c off : Nat) : Nat := 2 ^ 64 + 2 ^ 41 + dieOf (cluOf c) * 2 ^ 37 + c % 1024 * 2 ^ 20 + off
/-- Image slot u and spill entry k of a core (R313). -/
def imageSlot (c u : Nat) : Nat := spillLoc c (2560 * u)
def spillEntry (c k : Nat) : Nat := spillLoc c (0x50000 + 128 * k)
/-- The image in slot u, as long as its header says (R101). -/
def imageAt (s : State) (c u : Nat) : List Byte :=
  s.mem.readBytes (imageSlot c u) (16 * leAt (s.mem.readBytes (imageSlot c u) 16) 6 2)
/-- The task becomes a resume record at its cluster (R278): the image in slot u, the frame kept (DEDUCED, log 51). -/
def preempt (s : State) (k : Nat) (e : LiveMask) : State :=
  match s.me.task with
  | none => s
  | some T =>
    let H := landCv s.me.cvPend s.me
    let c := coreOf s.cur
    let id := match objectOf (s.core c) (H.pc.toNat / 4) with | some o => o.id | none => 0
    let img := imageOf H id k e
    let ent : TypeEnt := { entry := H.pc.toNat / 4 + 1, obj := 0, frame := 0, streams := T.streams, pull := 0, prio := 0, restart := false, cbase := 0, crow := 0, trows := 0 }
    let regs := dequeWords H.deque
    let s := store s none (imageSlot c T.frame) img false
    let s := s.modCluster (cluOf c) fun G =>
      { G with
        queue := G.queue ++ [{ trec := { T.trec with carry := true, range := true }, regs := regs, launch := T.launch, slot := T.slot
                               key := T.key, ent := ent, level := T.prio, order := G.order, resume := some (c, T), armed := H.dropped }]
        order := G.order + 1 }
    (leaveBarriers s s.cur).modHart s.cur fun H => { freeHart H with deque := [] }

/-- A SAFEPT of this hart pre-empts: its streams, registers and image go (R99). -/
def preempts (H : Hart) : Bool :=
  H.mode == .U && H.task.isSome && H.csr.prip && bit H.csr.mie 19 && H.csr.loop0.count == 0 && H.csr.loop1.count == 0
/-- R99. The checks before Retire() leave the hart's streams unbound and its registers disarmed (DEDUCED, log 51). -/
def execSafept (k : BitVec 10) (s : State) : Host.Outcome State Fault Refusal :=
  let H := s.me
  if preempts H then
    match unbindAllPre H with
    | .ok =>
      let s1 := disarmHart (s.modHart s.cur fun H => { unbindAll H with dropped := H.dropped ++ H.armed }) s.cur
      let a := maskAddr s1 k.toNat
      let s1 := readRecord s1 a 16 16
      let e := parseMask (recordBytes s1 a 16)
      match ready (H.commit.isNone && H.held.isNone) with
      | .ok => endWork s1 (.seq (poisonPre s1 a 16) (need e.valid 5 a)) fun t => preempt t k.toNat e
      | p => finish s1 p s1
    | p => finish s p s
  else finish s (sigEnd s) (retire s s.cur)

/-! ECALL (R39, R404, R405). -/

/-- The engine and sparse commands of hart h are discarded and its maps unmapped (step 3 of R405). -/
def discardEngine (s : State) (h : Nat) : State :=
  let g := cluOfHart h
  releaseEngine (dropSparseOf (discardOf s g fun k => k == h) g fun k => k == h) h
/-- Steps 1 to 3 of a fault end (R405). -/
def faultEndStart (s : State) (h : Nat) : State :=
  discardEngine (disarmHart (s.modHart h fun H => { unbindAll H with deque := [], ending := true }) h) h
/-- Step 4: every access, message and copy has been answered. -/
def faultEndReady (s : State) (h : Nat) : Bool :=
  let H := s.hart h
  !outstanding s h 4 false && H.gathers.all (fun g => g.left == 0) && H.copies.all (fun c => c.status.isSome) && H.held.isNone
/-- Steps 5 and 6: what the cluster keeps of the first fault end of a launch is its cause, mepc and mtval. -/
def faultEndFinish (s : State) (h : Nat) (why : Nat × Word × Word) : State :=
  match (s.hart h).task with
  | none => s
  | some T =>
    let g := cluOfHart h
    let s := leaveTask s h
    let s := s.modCluster g fun G =>
      { modLaunch G T.launch (fun L => { L with fault := L.fault <|> some why }) with faultEnds := min 0xFFFFFFFF (G.faultEnds + 1) }
    let s := endRecord s g T.trec T.group T.launch arrLost
    orStatus s g T.launch statLost

/-- R39: an environment call traps; what the firmware answers is its own (R404). -/
def execEcall (s : State) : Host.Outcome State Fault Refusal :=
  finish s (.trap (match s.me.mode with | .U => 8 | .S => 9 | .M => 11) 0) s

end Sys2Proof.Machine
end

