-- ==== Sys2Proof/Machine/Place.lean ====
section
/-! DEFINITION. Pressure, distance and the forwarding of records (R246, R247, R259 to R263, R400), the
dispatcher (R250, R267 to R270, R314), and retention, serial windows and losses (R258, R271 to R275). -/

namespace Sys2Proof.Machine
open Sys2Proof

/-! Type entries (R246, R247). -/

def parseType (l : List Byte) : TypeEnt :=
  let f := leAt l 4 2
  let b := leAt l 7 1
  let t := leAt l 12 2
  { entry := leAt l 0 2, obj := leAt l 2 2, frame := if f = 0 then 1 else min f 128, streams := min 8 (leAt l 6 1)
    pull := b % 4, prio := b / 4 % 4, restart := b / 16 % 2 == 1, cbase := leAt l 8 2, crow := leAt l 10 2
    trows := if t = 0 then 32 else t }
/-- What a look-up answers. -/
inductive TypeRead
  | ok (e : TypeEnt)
  | host (a : Nat)
  | bad
/-- The entry of a type as cluster g finds it: cached, or read from the launch's table (R247). -/
def typeLookup (s : State) (g n ty : Nat) : State × TypeRead :=
  match launchOf s n with
  | none => (s, .bad)
  | some L =>
    let k := (L.trec.slot, L.trec.types, ty)
    match (s.cluster g).types.find? fun (j, _) => j == k with
    | some (_, e) => (s, .ok e)
    | none =>
      let A : Agent := { hart := 32768 + g, slot := some L.trec.slot, key := 0, tag := tagTypes }
      let a := word (L.trec.types + 32 * ty)
      if L.trec.ntypes ≤ ty ∨ 2 ^ 63 ≤ L.trec.types + 32 * ty then (s, .bad)
      else match reach s A a 32 false with
        | (s, .at_ loc) =>
          if isHostLoc loc || (poisonedAt s loc 32).isSome then (s, .bad)
          else
            let e := parseType (s.mem.readBytes loc 32)
            (s.modCluster g fun G => { G with types := (if 64 ≤ G.types.length then G.types.tail else G.types) ++ [(k, e)] }, .ok e)
        | (s, .need (.page v)) => (s, .host v)
        | (s, _) => (s.modCluster g fun G => clearRefused G tagTypes, .bad)
/-- A unit of the cluster waits for a page of the table. -/
def typeAsk (s : State) (g n v : Nat) : State :=
  match launchOf s n with
  | some L => askHost s g L.trec.slot v tagTypes
  | none => s
/-- R247: a cluster's read of an entry returns. -/
def execTypeEntryRead (clu handle ty : Nat) (s : State) : Host.Outcome State Fault Refusal :=
  match typeLookup s clu handle ty with
  | (_, .host v) => .next (typeAsk s clu handle v)
  | (t, _) => .next t

/-! Cost and priority (R249). -/

def tilesOf (r : TaskRec) (e : TypeEnt) : Nat := (r.ext + e.trows - 1) / e.trows
def costOf (r : TaskRec) (e : TypeEnt) : Nat :=
  if r.range && !r.carry then tilesOf r e * e.cbase + e.crow * r.ext else e.cbase + e.crow
def prioOf (r : TaskRec) (e : TypeEnt) : Nat := max r.prio e.prio

/-- All neighbours of a cluster in the order of R262; gateway peers are 512 + port. -/
def peersOf (g : Nat) : List Nat :=
  meshPeers g ++ (bridgePeers g).map (fun (p, _) => p) ++ (match gatePort g with | some k => [512 + k] | none => [])
/-- A neighbour that is heard as infinite: its link is down or its die has failed (R260, R412). -/
def peerDown (s : State) (g p : Nat) : Bool :=
  if 512 ≤ p then !gateOpen s (p - 512)
  else (s.die (dieOf p)).isFailed || (bridgePeers g).any fun (q, l) => q == p && !bridgeUp s l

/-- The P and d last heard from a neighbour. -/
def heard (G : Cluster) (p : Nat) : Nat × Nat := SMap.get (0xFFFF, 63) G.nbrs p
/-- The distance of a cluster (R260). -/
def distOf (G : Cluster) (g : Nat) : Nat :=
  if pressure G = 0xFFFF then 63
  else if pressure G < G.lLow then 0
  else min 63 (1 + ((peersOf g).map fun p => (heard G p).2).foldl min 63)
def recompute (s : State) (g : Nat) : State := s.modCluster g fun G => { G with dist := distOf G g }

/-- R260: a beacon interval: neighbours that cannot be heard count as infinite, d is recomputed and (P, d)
goes to every neighbour. -/
def execBeaconInterval (clu : Nat) (s : State) : Host.Outcome State Fault Refusal :=
  if (s.die (dieOf clu)).isFailed then .next s
  else
    let s := s.modCluster clu fun G =>
      { G with nbrs := ((peersOf clu).filter (peerDown s clu)).foldl (fun m p => SMap.put m p (0xFFFF, 63)) G.nbrs }
    let s := recompute s clu
    let G := s.cluster clu
    .next (((peersOf clu).filter fun p => !peerDown s clu p).foldl
      (fun s p => sendAs s (devHart clu) none 0 (.beacon p clu (pressure G) G.dist)) s)
/-- R260: a beacon arrives; one for a gateway leaves through its port. -/
def execBeacon (p : Nat) (s : State) : Host.Outcome State Fault Refusal :=
  match atHand s p with
  | some q =>
    match q.body with
    | .beacon clu nbr P d =>
      if 512 ≤ clu then .next (queueOut (dropPkt s p) (portLink (clu - 512)) 0 q)
      else
        .next (recompute ((dropPkt s p).modCluster clu fun G => { G with nbrs := SMap.put G.nbrs nbr (P, d) }) clu)
    | _ => .next s
  | none => .next s
/-- R260: a silent neighbour counts as (0xFFFF, 63). -/
def execNeighbourSilence (clu nbr : Nat) (s : State) : Host.Outcome State Fault Refusal :=
  .next (recompute (s.modCluster clu fun G => { G with nbrs := SMap.put G.nbrs nbr (0xFFFF, 63) }) clu)

/-! Home distance (R261). -/

/-- Where R15 leads a packet toward a record's home: the home, or the gateway to its package. -/
def homeTarget (s : State) (g : Nat) (r : TaskRec) : Option Nat :=
  if r.hpkg = s.pkg.number % 4096 then some (r.hdie * 64 + r.hclu)
  else gateRouter s (dieOf g) r.hpkg
def homeDist (s : State) (g : Nat) (r : TaskRec) : Nat :=
  match homeTarget s g r with
  | some t => hopsTo s 6 (dieOf g) (rowOf g) (colOf g) t
  | none => 0
/-- δ of a move (R261). -/
def moveSign (s : State) (g y : Nat) (r : TaskRec) : Int :=
  if 512 ≤ y then
    if r.hpkg = s.pkg.number % 4096 then 1
    else if some r.hpkg = (portOf s (y - 512)).placement then -1 else 0
  else
    let a := homeDist s g r
    let b := homeDist s y r
    if a < b then 1 else if b < a then -1 else 0

/-! The decision (R262). -/

/-- The candidates for a record of a launch at cluster g. -/
def candidates (s : State) (g : Nat) (L : LaunchRec) : List Nat :=
  let G := s.cluster g
  (peersOf g).filter fun p =>
    decide ((heard G p).2 < 63) && decide ((heard G p).1 < 0xFFFF) && (if 512 ≤ p then L.fabric && gateOpen s (p - 512) else inRegion L p)
/-- The candidate of the smallest d, of these the lowest P, of these the first in the order of R262. -/
def choose (G : Cluster) (l : List Nat) : Option Nat :=
  l.foldl (fun (best : Option Nat) p =>
    match best with
    | none => some p
    | some b =>
      let (P, d) := heard G p
      let (Q, e) := heard G b
      if d < e ∨ (d = e ∧ P < Q) then some p else best) none
/-- Pull weight of a class (R265). -/
def weightOf (G : Cluster) (k : Nat) : Nat := bits G.pullw (16 * k) 16
/-- Where a record goes: nowhere (accept), or to a neighbour. -/
def decideMove (s : State) (g : Nat) (r : TaskRec) (e : TypeEnt) (L : LaunchRec) (direct : Bool) : Option Nat :=
  let G := s.cluster g
  if direct || decide (pressure G < G.lSpawn) || decide (G.hopmax ≤ r.hop) then none
  else match choose G (candidates s g L) with
    | none => none
    | some y =>
      let pull : Int := (r.b * weightOf G e.pull / 1024 : Nat)
      if pull * moveSign s g y r < (pressure G : Int) - (heard G y).1 then some y else none

/-! Acceptance (R249, R262, R263, R271). -/

/-- The lowest free tile group. -/
def freeGroup (G : Cluster) : Option Nat := (List.range 16).find? fun i => (SMap.find? G.groups i).isNone
def isRange (r : TaskRec) : Bool := r.range && !r.carry
/-- The cluster can accept a record now. -/
def hasRoom (G : Cluster) (r : TaskRec) : Bool := decide (G.queue.length < 256) && (!isRange r || (freeGroup G).isSome)
/-- Accept a record: queued, its cost in Q, its home notified. -/
def acceptRec (s : State) (g : Nat) (r : TaskRec) (regs : List Word) (n slot key : Nat) (e : TypeEnt) : State :=
  let G := s.cluster g
  let grp := if isRange r then freeGroup G else none
  let s := s.modCluster g fun G =>
    { G with
      queue := G.queue ++ [{ trec := r, regs := regs, launch := n, slot := slot, key := key, ent := e, level := prioOf r e
                             order := G.order, group := grp.map fun i => (g, i) }]
      order := G.order + 1
      q := G.q + costOf r e
      groups := match grp with | some i => SMap.put G.groups i { left := tilesOf r e, trec := r, launch := n } | none => G.groups }
  sendDev s g slot key (.accepted r.ser (farClu r.hpkg (homeOf (keyOfRec r))) g)
/-- A record whose type cannot be read is a lost copy of a type with RESTART = 0 (R247). -/
def loseRec (s : State) (g : Nat) (r : TaskRec) (n slot key : Nat) (final : Bool) : State :=
  sendDev s g slot key (.lost (keyOfRec r) n final)
/-- The home finishes a RANGE record without extent as a TEND with status 0 would (R252). -/
def finishEmpty (s : State) (r : TaskRec) (n : Nat) : State :=
  let g := homeOf (keyOfRec r)
  let s := match (s.cluster g).keep.find? fun k => k.trec.ser == r.ser with
    | some k => (match k.hart with | some h => s.modHart h fun H => { H with outst := H.outst - 1 } | none => s)
    | none => s
  let s := s.modCluster g fun G => { G with keep := G.keep.map fun k => if k.trec.ser == r.ser then { k with hart := none } else k }
  signalEnd s g r n 0

/-- An earlier access of the record's spawning hart within pkg is not yet performed (R230, R252). -/
def heldBack (s : State) (p : Packet) : Bool := decide (p.hart < 65536) && earlierOpen s p 3

/-- R262: a record enters a cluster and is accepted, held in the router's buffer, or forwarded. -/
def execTaskRecordArrival (p : Nat) (s : State) : Host.Outcome State Fault Refusal :=
  match atHand s p with
  | some q =>
    match q.body with
    | .task r regs n clu direct =>
      if heldBack s q then .next s
      else if 512 ≤ clu then .next (gatewayOver s (clu - 512) (destPkg s q.body) q)
      else if (s.die (dieOf clu)).isFailed then .next (dropPkt s p)
      else if (s.cluster clu).isRetired then .next (loseRec (dropPkt s p) clu r n (q.slot.getD 0) q.key false)
      else match launchOf s n with
        | none => .next (dropPkt s p)
        | some L =>
          if isRange r && r.ext == 0 && r.hpkg == s.pkg.number % 4096 then .next (finishEmpty (dropPkt s p) r n)
          else match typeLookup s clu n r.ty with
            | (_, .host v) => .next (typeAsk s clu n v)
            | (t, .bad) => .next (loseRec (dropPkt t p) clu r n (q.slot.getD 0) q.key true)
            | (t, .ok e) =>
              match decideMove t clu r e L.trec direct with
              | some y => .next (setBody t p (.task { r with hop := r.hop + 1 } regs n y false))
              | none =>
                if hasRoom (t.cluster clu) r then .next (acceptRec (dropPkt t p) clu r regs n (q.slot.getD 0) q.key e)
                else .next ((dropPkt t p).modCluster clu fun G => { G with waiting := G.waiting ++ [q] })
    | _ => .next s
  | none => .next s

/-- R262: the first waiting record for which a place is free is accepted. -/
def execTaskBufferAccept (clu : Nat) (s : State) : Host.Outcome State Fault Refusal :=
  let G := s.cluster clu
  match G.waiting.find? fun q => match q.body with | .task r _ _ _ _ => hasRoom G r | _ => false with
  | none => .next s
  | some q =>
    match q.body with
    | .task r regs n _ _ =>
      (match typeLookup s clu n r.ty with
       | (_, .host v) => .next (typeAsk s clu n v)
       | (t, o) =>
         let t := t.modCluster clu fun G => { G with waiting := G.waiting.filter fun k => k.id != q.id }
         match o with
         | .ok e => .next (acceptRec t clu r regs n (q.slot.getD 0) q.key e)
         | _ => .next (loseRec t clu r n (q.slot.getD 0) q.key true))
    | _ => .next s

/-- What a queued record counts for in Q. -/
def queuedCost (q : QEnt) : Nat :=
  match q.resume with
  | some (_, T) => T.cost
  | none => costOf q.trec q.ent - q.tile * q.ent.cbase - min q.trec.ext (q.tile * q.ent.trows) * q.ent.crow
/-! Losses (R274, R315). -/

/-- A tile group is abandoned: its queued tiles are discarded and one running tile is gone (DEDUCED, log 43). -/
def abandonGroup (s : State) (at_ : Nat × Nat) (T : TileGroup) : State :=
  let g := at_.1
  let mine (q : QEnt) : Bool := q.group == some at_ && q.resume.isNone
  let qs := (s.cluster g).queue.filter mine
  let tiles := (qs.map fun q => tilesOf q.trec q.ent - q.tile).sum
  let left := T.left - 1 - tiles
  s.modCluster g fun G =>
    { G with
      q := G.q - (qs.map queuedCost).sum
      queue := G.queue.filter (fun q => !mine q)
      groups := if left = 0 then SMap.del G.groups at_.2 else SMap.put G.groups at_.2 { T with left := left, alive := false } }
/-- A running task, context or resume record is lost at cluster g (R274): LOST goes to its home, once for
a tile group (DEDUCED, log 43). -/
def loseWork (s : State) (g : Nat) (r : TaskRec) (n slot jk : Nat) (group : Option (Nat × Nat)) (final : Bool) : State :=
  match group with
  | none => sendDev s g slot jk (.lost (keyOfRec r) n final)
  | some at_ =>
    match SMap.find? (s.cluster at_.1).groups at_.2 with
    | none => s
    | some T =>
      if T.alive then sendDev (abandonGroup s at_ T) g slot jk (.lost (keyOfRec T.trec) n final)
      else groupCount s at_ 0
/-- A context that had landed in cluster g is lost. -/
def loseCtx (s : State) (g : Nat) (x : Ctx) : State :=
  loseWork (s.modCluster g fun G => { G with q := G.q - x.cost }) g x.trec x.launch x.slot x.key x.group false
/-- A resume record of core c, off its queue, is lost. -/
def loseResume (s : State) (c : Nat) (T : Task) : State :=
  let s := s.modCluster (cluOf c) fun G => { G with q := G.q - T.cost }
  loseWork (s.modCore c fun C => { C with frames := C.frames.filter fun (u, _) => u != T.frame }) (cluOf c) T.trec T.launch T.slot T.key T.group false

/-- A packet for a home cluster, or for another package. -/
def atHome (s : State) (p : Nat) (f : Packet → State → State) : Host.Outcome State Fault Refusal :=
  match atHand s p with
  | some q => .next (if leavesPkg s q.body then gatewaySend s q else f q s)
  | none => .next s

/-! The dispatcher (R250, R267 to R270, R314). -/

/-- A worker hart is free for the dispatcher. -/
def hartFree (s : State) (h : Nat) : Bool := let H := s.hart h; isFree H && H.handler.isNone
def freeHarts (s : State) (c : Nat) : List Nat :=
  if (s.core c).isSealed || (s.core c).isRetired then [] else (hartsOf c).filter (hartFree s)
def busyHarts (s : State) (c : Nat) : Nat := 4 - (freeHarts s c).length
/-- The lowest n contiguous free units of a core's frame pool. -/
def fitFrame (C : Core) (n : Nat) : Option Nat :=
  (List.range (129 - n)).find? fun u => C.frames.all fun (v, k) => decide (u + n ≤ v ∨ v + k ≤ u)
/-- The core can take a type: a free hart, a frame and stream contexts. -/
def coreFits (s : State) (c : Nat) (e : TypeEnt) : Bool :=
  !(freeHarts s c).isEmpty && (fitFrame (s.core c) e.frame).isSome && decide (contextsUsed s c + e.streams ≤ 16)
/-- The level a record stands in at cluster-queue dispatch number m (R267, R268). -/
def levelAt (q : QEnt) (m : Nat) : Nat := match q.promo with | some k => if k ≤ m then 3 else q.level | none => q.level
/-- The first record of the highest non-empty level. -/
def firstOf (G : Cluster) : Option QEnt :=
  let m := G.dispatches + 1
  G.queue.foldl (fun (best : Option QEnt) q =>
    match best with
    | none => some q
    | some b => if levelAt b m < levelAt q m ∨ (levelAt b m = levelAt q m ∧ q.order < b.order) then some q else best) none
/-- The cores that can take a queue entry. -/
def takers (s : State) (g : Nat) (q : QEnt) : List Nat :=
  match q.resume with
  | some (c, T) => if !(freeHarts s c).isEmpty && decide (contextsUsed s c + T.streams ≤ 16) then [c] else []
  | none => ((List.range 16).map fun i => coreAt g i).filter fun c => coreFits s c q.ent
/-- The core with the fewest busy harts, then the lowest number. -/
def bestCore (s : State) (l : List Nat) : Option Nat :=
  l.foldl (fun (best : Option Nat) c =>
    match best with
    | none => some c
    | some b => if busyHarts s c < busyHarts s b then some c else best) none
/-- The entry must be in the object its type names, if it names one (R246, R250). -/
def objOk (C : Core) (e : TypeEnt) : Bool := e.obj == 0 || (match objectOf C e.entry with | some o => o.id == e.obj | none => false)

/-- The registers of a hart at entry (R250): nothing of what it held before is left. -/
def entryHart (H : Hart) (T : Task) (entry : Nat) (x : SMap Word) : Hart :=
  { csr := { H.csr with
      mnstatus := setBit H.csr.mnstatus 4 true, fflags := 0, frm := 0, cvamax := 0, cvflags := 0, mstr := [], prip := false
      loop0 := { H.csr.loop0 with count := 0 }, loop1 := { H.csr.loop1 with count := 0 } }
    x := x, pc := word (4 * entry), mode := .U, task := some T, arrival := .indirect
    hold := H.hold, copyCtr := H.copyCtr, outst := H.outst, armed := H.armed, ranSince := H.ranSince }
/-- A register file from a list of numbers and values. -/
def regFile (l : List (Nat × Nat)) : SMap Word := l.foldl (fun m (n, v) => SMap.put m n (word v)) []
/-- x2, x5, x6 and x7 at entry. -/
def baseRegs (s : State) (c first units x5 : Nat) : List (Nat × Nat) :=
  let lo := 9 * 2 ^ 60 + 0x10000 + 512 * first
  [(2, lo + 512 * units), (5, x5), (6, lo), (7, padBase c + s.pkg.number % 4096 * 2 ^ 48)]
/-- x10 to x17 of a record without CARRY. -/
def argRegs (r : TaskRec) (n : Nat) : List (Nat × Nat) :=
  [(10, r.c0), (11, r.c1), (12, r.c2), (13, r.c3), (14, r.b), (15, n), (16, if n < 64 then 2 ^ n - 1 else 2 ^ 64 - 1), (17, 0)]
def carryRegs (l : List Word) : List (Nat × Nat) := (List.range 8).map fun i => (10 + i, (l.getD i 0).toNat)

/-- A record, tile or context enters hart h of core c with a new frame (R250). -/
def enterTask (s : State) (h : Nat) (whole : TaskRec) (regs : List Word) (T : Task) (e : TypeEnt) (first : Nat) : State :=
  let c := coreOf h
  let r := T.trec
  let loc := padBase c + 0x10000 + 512 * first
  let s := s.modCore c fun C => { C with frames := C.frames ++ [(first, e.frame)] }
  let s := store s none loc (recBytes whole) false
  let s := if r.carry then store s none (loc + 32) (wordsBytes regs) false else s
  let x := regFile (baseRegs s c first e.frame r.x5 ++ (if r.carry then carryRegs regs else argRegs r T.rows))
  let s := s.modHart h fun H => entryHart H T e.entry x
  if objOk (s.core c) e then s else takeTrap s h false 1 (word (4 * e.entry))

/-- Restore what a pre-emption image holds (R101, R278). -/
def takeBytes (n : Nat) : Nat → List Byte → List Nat × List Byte
  | 0, l => ([], l)
  | k + 1, l => let (r, m) := takeBytes n k (l.drop n); (leAt l 0 n :: r, m)
/-- A register that was armed keeps its entry value (R295), and an unassigned rounding mode is dropped as at any write of
frm (R41). -/
def restoreImage (H : Hart) (img : List Byte) (e : LiveMask) (armed : List Nat) : Hart :=
  let l := img.drop 16
  let xs := named e.xm 32
  let fs := named e.fm 32
  let vs := named e.vm 32
  let ms := named e.mm 8
  let (xv, l) := takeBytes 8 xs.length l
  let (fv, _) := takeBytes 4 fs.length l
  let l := l.drop ((fs.length * 4 + 7) / 8 * 8)
  let (vv, l) := takeBytes 64 vs.length l
  let (mv, l) := takeBytes 8 ms.length l
  let H := (xs.zip xv).foldl (fun H (n, v) => if armed.contains n then H else H.setX n (word v)) H
  let H := (fs.zip fv).foldl (fun H (n, v) => H.setF n (BitVec.ofNat 32 v)) H
  let H := (vs.zip vv).foldl (fun H (n, v) => H.setV n (BitVec.ofNat 512 v)) H
  let H := (ms.zip mv).foldl (fun H (n, v) => H.setM n (word v)) H
  let (H, l) := if e.fl % 2 = 1 then
      ({ H with csr := { H.csr with
          fflags := BitVec.ofNat 5 (leAt l 0 8), frm := (let m := leAt l 0 8 / 32 % 8; if m ≤ 4 then BitVec.ofNat 3 m else H.csr.frm) } }, l.drop 8)
    else (H, l)
  let (H, l) := if e.fl / 2 % 2 = 1 then
      ({ H with csr := { H.csr with cvamax := BitVec.ofNat 32 (leAt l 0 4), cvflags := BitVec.ofNat 3 (leAt l 4 4) } }, l.drop 8) else (H, l)
  if e.fl / 4 % 2 = 1 then { H with lfsr := BitVec.ofNat 32 (leAt l 0 4) } else H
/-- The location of the live-mask entry that an image of core c names. -/
def maskLoc (s : State) (c : Nat) (img : List Byte) : Option Nat :=
  match objectOf (s.core c) (leAt img 0 2 - 1) with
  | some o =>
    (match placeOf s (hartAt c 0) none (o.table + word (16 * leAt img 4 2)) with
     | .own off => some (padBase c + off)
     | _ => none)
  | none => none
/-- A resume record enters hart h of its own core: its frame, image and deque (R278). A task whose image or live-mask entry
has become poisoned is lost (DEDUCED, log 51). -/
def resumeTask (s : State) (h : Nat) (T : Task) (regs : List Word) (armed : List Nat) : State :=
  let c := coreOf h
  let img := imageAt s c T.frame
  let mask := maskLoc s c img
  let s := match mask with | some loc => scrub s loc 16 false | none => s
  let e := parseMask (match mask with | some loc => s.mem.readBytes loc 16 | none => [])
  let bad := (poisonedAt s (imageSlot c T.frame) (max 16 img.length)).isSome
    || (match mask with | some loc => (poisonedAt s loc 16).isSome | none => false)
  let units := match (s.core c).frames.find? fun (u, _) => u == T.frame with | some (_, k) => k | none => 0
  let x := regFile (baseRegs s c T.frame units 0)
  if bad then loseResume s c T
  else s.modHart h fun H => { restoreImage (entryHart H T (leAt img 0 2) x) img e armed with deque := wordsDeque regs }
/-- A start at the cluster of hart h, and its number (R270). -/
def countStart (s : State) (h : Nat) (T : Task) : State × Task :=
  (s.modCluster (cluOfHart h) fun G => { G with starts := G.starts + 1 }, { T with began := (s.cluster (cluOfHart h)).starts })

/-- Every record in a level below L ages by 1; one that reaches the limit is promoted from the third
later dispatch onward (R267, R268). -/
def ageQueue (G : Cluster) (L : Nat) : Cluster :=
  let m := G.dispatches + 1
  { G with
    dispatches := m
    queue := G.queue.map fun q =>
      let a := if levelAt q m < L then q.age + 1 else q.age
      { q with age := a, promo := if q.promo.isNone && decide (G.agelim ≤ a) then some (m + 3) else q.promo } }
/-- Start a queue entry, or its next tile, on core c (R263, R267). -/
def startEntry (s : State) (g : Nat) (q : QEnt) (c : Nat) : State :=
  match (freeHarts s c).head? with
  | none => s
  | some h =>
    let L := levelAt q ((s.cluster g).dispatches + 1)
    let tiles := if isRange q.trec then tilesOf q.trec q.ent else 1
    let last := decide (tiles ≤ q.tile + 1)
    let s := s.modCluster g fun G =>
      { G with queue := if last then G.queue.filter (fun k => k.order != q.order)
                        else G.queue.map fun k => if k.order = q.order then { k with tile := k.tile + 1 } else k }
    let s := s.modCluster g fun G => ageQueue G L
    let s := s.modCore c fun C => { C with streak := 0 }
    match q.resume with
    | some (_, T) => let (s, T) := countStart s h T; resumeTask s h T q.regs q.armed
    | none =>
      let i := q.tile
      let rows := if isRange q.trec then min q.ent.trows (q.trec.ext - i * q.ent.trows) else 1
      let r := if isRange q.trec then { q.trec with c0 := (q.trec.c0 + i * q.ent.trows) % 65536 } else q.trec
      match fitFrame (s.core c) q.ent.frame with
      | none => s
      | some u =>
        let T : Task := { trec := r, launch := q.launch, slot := q.slot, key := q.key, frame := u, streams := q.ent.streams
                          cost := q.ent.cbase + q.ent.crow * rows, rows := rows, prio := q.level, group := q.group }
        let (s, T) := countStart s h T
        enterTask s h q.trec q.regs T q.ent u
/-- The head of core c's arrival queue with its type, if the core can take it (R314). -/
def arrivalHead (s : State) (c : Nat) : Option (Ctx × TypeEnt) :=
  match (s.core c).arrQ with
  | [] => none
  | x :: _ =>
    match typeLookup s (cluOf c) x.launch x.trec.ty with
    | (_, .ok e) => if coreFits s c e then some (x, e) else none
    | _ => none
/-- The context at the head of core c's arrival queue cannot be decided: it is lost where its type cannot be read, and its
cluster asks for a page of the table that is not translated (R247). -/
def settleHead (s : State) (c : Nat) : State :=
  match (s.core c).arrQ with
  | [] => s
  | x :: r =>
    match typeLookup s (cluOf c) x.launch x.trec.ty with
    | (_, .ok _) => s
    | (_, .host v) => typeAsk s (cluOf c) x.launch v
    | (t, .bad) =>
      let t := (t.modCore c fun C => { C with arrQ := r }).modCluster (cluOf c) fun G => { G with q := G.q - x.cost }
      loseWork t (cluOf c) x.trec x.launch x.slot x.key x.group true
/-- Start the head context of core c. -/
def startArrival (s : State) (c : Nat) (x : Ctx) (e : TypeEnt) : State :=
  match (freeHarts s c).head?, fitFrame (s.core c) e.frame with
  | some h, some u =>
    let s := s.modCore c fun C => { C with arrQ := C.arrQ.tail, streak := C.streak + 1 }
    let T : Task := { trec := { x.trec with x5 := 0 }, launch := x.launch, slot := x.slot, key := x.key, frame := u
                      streams := e.streams, cost := x.cost, prio := prioOf x.trec e, group := x.group }
    let (s, T) := countStart s h T
    enterTask s h x.trec x.regs T e u
  | _, _ => s

/-- R267, R314: one dispatch. Among the arrival heads that can start and the queue's first record, a free
value chooses; a core that could take both and has taken four arrivals in a row takes the queue's. -/
def execDispatch (clu : Nat) (s : State) : Host.Outcome State Fault Refusal :=
  let G := s.cluster clu
  if cluGone s clu then .next s
  else
    let s := ((List.range 16).map fun i => coreAt clu i).foldl settleHead s
    let first := firstOf G
    let fits := match first with | some q => takers s clu q | none => []
    let heads := ((List.range 16).map fun i => coreAt clu i).filter fun c =>
      (arrivalHead s c).isSome && !(decide (4 ≤ (s.core c).streak) && fits.contains c)
    let queueCore := bestCore s (fits.filter fun c => !heads.contains c)
    let (b, s) := s.draw
    let n := heads.length + (if queueCore.isSome then 1 else 0)
    let k := b.toNat % (max n 1)
    match heads[k]?, first, queueCore with
    | some c, _, _ => (match arrivalHead s c with | some (x, e) => .next (startArrival s c x e) | none => .next s)
    | none, some q, some c => .next (startEntry s clu q c)
    | _, _, _ => .next s

/-- PRIP is set on hart h for the record of arrival number `order`: earlier requests on the hart are no longer pending if
it was clear. -/
def requestOn (s : State) (g h order : Nat) : State :=
  let old := (s.hart h).csr.prip
  let s := s.modCluster g fun G =>
    { G with queue := G.queue.map fun q =>
        if q.order == order then { q with asked := some h } else if !old && q.asked == some h then { q with asked := none } else q }
  s.modHart h fun H => { H with csr := { H.csr with prip := true } }
/-- R270: PRIP is set on the hart of the lowest effective priority below the waiting record's whose core
could take it once freed; ties by the task that has run longest since it last entered its hart (DEDUCED, log 44), then the
lowest hart. -/
def execPreemptionRequest (clu : Nat) (s : State) : Host.Outcome State Fault Refusal :=
  let G := s.cluster clu
  match firstOf G with
  | none => .next s
  | some q =>
    let L := levelAt q (G.dispatches + 1)
    let harts := (List.range 64).map fun i => clu * 64 + i
    let busy := harts.filter fun h =>
      match (s.hart h).task with | some T => decide (T.prio < q.level) && !(s.core (coreOf h)).isSealed | none => false
    let could (h : Nat) : Bool :=
      let t := (dropFrame s h).modHart h freeHart
      match q.resume with
      | some (c, _) => coreOf h == c && (takers t clu q).contains c
      | none => (takers t clu q).contains (coreOf h)
    let cand := busy.filter could
    let rank (h : Nat) : Nat × Nat := match (s.hart h).task with | some T => (T.prio, T.began) | none => (9, 0)
    let better (h k : Nat) : Bool := decide ((rank h).1 < (rank k).1 ∨ ((rank h).1 = (rank k).1 ∧ (rank h).2 < (rank k).2))
    let pending := match q.asked with | some h => (s.hart h).csr.prip && (s.hart h).task.isSome | none => false
    if L ≠ 3 ∨ (takers s clu q).isEmpty = false ∨ pending = true then .next s
    else match cand.find? fun h => !cand.any fun k => better k h with
      | some h => .next (requestOn s clu h q.order)
      | none => .next s

/-! Joins, retention and losses (R258, R271 to R275). -/

/-- The window takes a key, pinned, an unpinned one leaving for it (R272); none when all 64 are pinned. -/
def windowPut (G : Cluster) (k : Key) : Option Cluster :=
  if G.window.length < 64 then some { G with window := G.window ++ [(k, true)] }
  else match G.window.find? fun (_, pin) => !pin with
    | some e => some { G with window := G.window.erase e ++ [(k, true)] }
    | none => none

/-- An arrival at its counter (R258); none while it waits for a window place or to fire. -/
def applyDec (s : State) (ctr st : Nat) (key : Key) (n slot jk : Nat) : Option State :=
  let loc := joinLoc ctr
  let g := cluOf (coreOfLoc loc)
  let done (s : State) : State := sendDev s g slot jk (.release key n)
  if (s.cluster g).window.any fun (k, _) => k == key then some (done s)
  else match windowPut (s.cluster g) key with
    | none => none
    | some G' =>
      let t := scrub (s.setCluster g G') loc 16 false
      if counterPoisoned t loc then some (done (orStatus t g n statLost))
      else
        let q := readCounter t loc
        if q.count = 0 then some (done (writeCounter t none loc { q with under := true }))
        else
          let q' := { q with count := q.count - 1, stat := Nat.lor q.stat (st % 2 ^ 24) }
          if q'.count = 0 ∧ q.arm = true ∧ q.fired = false then
            (if fireWaits s loc q.cont then none else some (done (fire t none loc n q')))
          else some (done (writeCounter t none loc q'))

/-- R258: an arrival at a counter; one that its core refuses only marks the sender's launch (R411). -/
def execDec (p : Nat) (s : State) : Host.Outcome State Fault Refusal :=
  atHome s p fun q s =>
    match q.body with
    | .dec ctr st key n =>
      let c := coreOfLoc (joinLoc ctr)
      (match homeErr s c q.key with
       | some e => failPkt (if e = 29 then countDrop s c else s) q e
       | none => match applyDec s ctr st key n (q.slot.getD 0) q.key with
         | some t => dropPkt t p
         | none => s)
    | _ => s

/-- Drop an entry whose copies are all finished and that has a RELEASE; its counter's cluster unpins the key. -/
def settleKeep (s : State) (g ser : Nat) : State :=
  match (s.cluster g).keep.find? fun k => k.trec.ser == ser with
  | some k =>
    if k.issued ≤ k.finished ∧ k.released = true then
      let s := s.modCluster g fun G => { G with keep := G.keep.filter fun e => e.trec.ser != ser }
      if k.trec.join ≠ 0 ∧ joinValid s k.trec.join = true then
        sendDev s g k.slot k.key (.unpin (keyOfRec k.trec) (farClu (k.trec.join / 2 ^ 48 % 4096) (cluOf (coreOfLoc (joinLoc k.trec.join)))))
      else s
    else s
  | none => s
/-- R271. -/
def execRelease (p : Nat) (s : State) : Host.Outcome State Fault Refusal :=
  atHome s p fun q s =>
    match q.body with
    | .release key _ =>
      let g := homeOf key
      let s := dropPkt s p
      let s := s.modCluster g fun G =>
        { G with keep := G.keep.map fun k => if k.trec.ser == key.ser then { k with finished := k.finished + 1, released := true } else k }
      settleKeep s g key.ser
    | _ => s
/-- R272. -/
def execUnpin (p : Nat) (s : State) : Host.Outcome State Fault Refusal :=
  atHome s p fun q s =>
    match q.body with
    | .unpin key clu =>
      (dropPkt s p).modCluster (clu % 512) fun G => { G with window := G.window.map fun (k, pin) => (k, pin && k != key) }
    | _ => s

/-- The retention entry of a serial at cluster g changes. -/
def updKeep (s : State) (g ser : Nat) (f : Ret → Ret) : State :=
  s.modCluster g fun G => { G with keep := G.keep.map fun e => if e.trec.ser == ser then f e else e }
/-- A retained record is lost at its home (R275). A home that must first have a page of the type table keeps the notice
before it (R247). -/
def loseKept (s : State) (g ser : Nat) (final : Bool) : State :=
  match (s.cluster g).keep.find? fun k => k.trec.ser == ser with
  | none => s
  | some k =>
    if k.released then settleKeep (updKeep s g ser fun e => { e with finished := e.finished + 1 }) g ser
    else
      let again (s : State) : State :=
        sendAs (updKeep s g ser fun e => { e with finished := e.finished + 1, issued := e.issued + 1, accepted := none }) (devHart g)
          (some k.slot) k.key (.task { k.trec with hop := 0 } k.regs k.launch g false)
      let never (s : State) : State :=
        orStatus (signalEnd (updKeep s g ser fun e => { e with accepted := some g }) g k.trec k.launch arrLost) g k.launch statLost
      if final then never s
      else match typeLookup s g k.launch k.trec.ty with
        | (t, .ok e) => if e.restart then again t else never t
        | (t, .host v) =>
          sendDev (typeAsk (updKeep t g ser fun e => { e with accepted := some g }) g k.launch v) g k.slot k.key
            (.lost (keyOfRec k.trec) k.launch false)
        | (t, .bad) => never t
/-- R275: a LOST notice at the home. -/
def execLost (p : Nat) (s : State) : Host.Outcome State Fault Refusal :=
  atHome s p fun q s =>
    match q.body with
    | .lost key _ final => loseKept (dropPkt s p) (homeOf key) key.ser final
    | _ => s

/-- The home notes who accepted a record; the spawn is no longer outstanding (R252, R271). -/
def noteAccepted (s : State) (g ser by_ : Nat) : State :=
  let s := match (s.cluster g).keep.find? fun k => k.trec.ser == ser with
    | some k => (match k.hart with | some h => s.modHart h fun H => { H with outst := H.outst - 1 } | none => s)
    | none => s
  s.modCluster g fun G =>
    { G with keep := G.keep.map fun k => if k.trec.ser == ser then { k with accepted := some by_, hart := none } else k }
/-- R271: the acceptance notice at the home. A copy accepted on a die that has failed is lost, whenever its
notice arrives (R274; DEDUCED, log 63). -/
def execAcceptanceNotice (p : Nat) (s : State) : Host.Outcome State Fault Refusal :=
  atHome s p fun q s =>
    match q.body with
    | .accepted ser home by_ =>
      let g := home % 512
      let s := dropPkt s p
      if cluGone s g then s
      else
        let t := noteAccepted s g ser by_
        if (s.die (by_ / 64)).isFailed then loseKept t g ser false else t
    | _ => s

/-- R274: every home takes as lost the copies accepted on a failed die, and roots mark their launches. -/
def execDieFailureNotice (die : Nat) (s : State) : Host.Outcome State Fault Refusal :=
  if !(s.die die).isFailed then .next s
  else
    let homes := s.clusters.filter fun (g, _) => !cluGone s g
    let lost := (homes.map fun (g, G) => (G.keep.filter fun k => match k.accepted with | some b => b / 64 == die | none => false).map fun k => (g, k.trec.ser)).flatten
    let s := lost.foldl (fun s (g, ser) => loseKept s g ser false) s
    .next (s.pkg.launches.foldl (fun s (n, L) =>
      if L.trec.dies / 2 ^ die % 2 = 1 then orStatus s (rootOf n) n statDie else s) s)
/-- R274: no acceptance notice within 4,096 cycles of a failure notice. -/
def execAcceptanceTimeout (clu ser : Nat) (s : State) : Host.Outcome State Fault Refusal :=
  let failed := s.dies.any fun (_, D) => D.isFailed
  .next (match (s.cluster clu).keep.find? fun k => k.trec.ser == ser with
    | some k => if failed && k.accepted.isNone && !k.released then loseKept s clu ser false else s
    | none => s)

end Sys2Proof.Machine
end

