-- ==== Sys2Proof/Machine/Launch.lean ====
section
/-! DEFINITION. Launches: the dispatcher's rings (R282), the start of a launch (R283, R390, R392), the
completion tree (R284, R285) and the end the host forces (R420). -/

namespace Sys2Proof.Machine
open Sys2Proof

/-! What the device reads and writes for itself. -/

/-- The unit of a cluster that reads and writes rings. -/
def ringAgent (g slot : Nat) : Agent := { hart := 32768 + g, slot := some slot, key := 0, tag := tagRings }
/-- Where a unit of cluster g finds n bytes at an address: a host physical address (DEDUCED, log 26), or an address
of a process slot. -/
def devReach (s : State) (g slot : Nat) (host : Bool) (a n : Nat) (write : Bool) : State × Reach :=
  if host then (s, if locUp s (physLoc s a) then .at_ (physLoc s a) else .fail 56)
  else if a / 2 ^ 60 = 9 ∨ a / 2 ^ 60 = 12 then (s, .fail 5)
  else reach s (ringAgent g slot) (word a) n write
/-- What a read of the device answers. -/
inductive DevRead
  | ok (l : List Byte) (poison : Bool)
  | need (n : Need)
  | fail
/-- Read n bytes in pieces of 64. -/
def devRead (s : State) (g slot : Nat) (host : Bool) : Nat → Nat → Nat → State × DevRead
  | 0, _, _ => (s, .ok [] false)
  | k + 1, a, n =>
    if n = 0 then (s, .ok [] false)
    else
      let m := min 64 n
      let (s, r) := devReach s g slot host a (if a % m = 0 then m else 1) false
      match engRead s (ringAgent g slot) r m with
      | (s, .ok (v, p)) =>
        (match devRead s g slot host k (a + m) (n - m) with
         | (s, .ok l q) => (s, .ok (toBytes m v ++ l) (p || q))
         | q => q)
      | (s, .error (.inr w)) => (s, .need w)
      | (s, .error (.inl _)) => (s, .fail)
/-- What a list of writes of the device comes to: done, waiting, or not to be done. -/
inductive DevWrite
  | done
  | need (n : Need)
  | fail
/-- Write bytes at addresses, each within one line, in order; the first is write number k. -/
def devWrites (s : State) (g slot : Nat) (host : Bool) : Nat → List (Nat × List Byte) → State × DevWrite
  | _, [] => (s, .done)
  | k, (a, l) :: r =>
    let (s, t) := devReach s g slot host a 1 true
    match engWrite s (ringAgent g slot) t l false k with
    | (s, .ok _) => devWrites s g slot host (k + 1) r
    | (s, .error (.inr w)) => (s, .need w)
    | (s, .error (.inl _)) => (s, .fail)
/-- A unit of the cluster waits for a page, or for an answer of another package. -/
def devAsk (s : State) (g slot : Nat) (n : Need) : State := engAsk s (ringAgent g slot) n
/-- What the ring unit of a cluster was answered is forgotten once it is used. -/
def devDone (s : State) (g : Nat) : State := s.modCluster g fun G => clearRefused G tagRings

/-! Launch records (R283). -/

def parseLaunch (l : List Byte) (slot ring : Nat) (hostRing : Option Nat) : LaunchRec :=
  let t := leAt l 44 2
  { root := parseRec (l.take 32), types := leAt l 32 8, ntypes := leAt l 40 2, key := leAt l 42 2, tree := t % 512
    fabric := t / 2 ^ 15 % 2 == 1, dies := leAt l 46 1, clus := leAt l 48 8, groups := leAt l 56 8, lseq := leAt l 64 8
    slot := slot, ring := ring, hostRing := hostRing }

/-! The dispatcher takes a slot (R282). -/

/-- A task record taken from a device ring: spawned, lost at once, or discarded. -/
def takeTask (s : State) (g : Nat) (l : List Byte) (bad : Bool) (handle : Nat) : State :=
  match launchOf s handle with
  | none => s
  | some L =>
    let r := parseRec l
    let regs := if r.carry then carried l else []
    if bad || decide (L.trec.ntypes ≤ r.ty) || (r.carry && r.range) then
      let ser := freeSer (s.cluster g)
      let s := spawnRec s g none r regs handle L.trec.slot L.trec.key none
      loseKept { s with net := s.net.dropLast } g ser true
    else spawnRec s g none r regs handle L.trec.slot L.trec.key none

/-- The process of a slot may use the job key of a launch record taken from a host work ring (R419; DESIGN CHOICE, log 57). -/
def mayUse (s : State) (slot key : Nat) : Bool :=
  match SMap.find? s.pkg.procs slot with | some P => Config.keyAllowed P.pasid key | none => false
/-- Take the slot at CIDX of a device ring, or of host work ring `host`, if it is new: the state, whether a slot
was taken, and what it waits for. -/
def takeSlot (s : State) (g slot desc : Nat) (host : Option Nat) : State × Bool × Option Need :=
  match devRead s g slot host.isSome 1 desc 32 with
  | (s, .ok dl false) =>
    let d := parseRing dl
    if !d.valid || d.cons != 1 then (s, false, none)
    else match devRead s g slot host.isSome 2 (d.slot d.cidx) d.slotBytes with
      | (s, .ok l bad) =>
        let h := l.drop (d.slotBytes - 8)
        if leAt h 0 1 % 2 ≠ d.phase d.cidx then (s, false, none)
        else if d.kind = 0 && keepFull (s.cluster g) then (s, false, none)
        else if d.kind = 1 && host.isSome && !mayUse s slot (leAt l 42 2) then (s, false, none)
        else (match devWrites s g slot host.isSome 0 [(desc + 20, toBytes 4 (d.cidx + 1))] with
          | (s, .need w) => (s, false, some w)
          | (s, .fail) => (s, false, none)
          | (s, .done) =>
            if d.kind = 1 then
              let L := parseLaunch l slot desc host
              (sendAs s (devHart g) (some slot) 0 (.launch L), true, none)
            else if d.kind = 0 && host.isNone then (takeTask s g l bad (leAt h 4 2 % 2 ^ 15), true, none)
            else (s, true, none))
      | (s, .need w) => (s, false, some w)
      | (s, .fail) => (s, false, none)
  | (s, .need w) => (s, false, some w)
  | (s, _) => (s, false, none)
/-- A turn of a dispatcher at a ring: a slot is taken, or what it lacks is asked for; else the ring has nothing for it. -/
def serveRing (s : State) (g slot desc : Nat) (host : Option Nat) (idle : State → State) : State :=
  match takeSlot s g slot desc host with
  | (t, true, _) => devDone t g
  | (_, false, some w) => devAsk s g slot w
  | (t, false, none) => idle (devDone t g)

/-- R282: a notified dispatcher takes a slot; the notice lasts while a slot is new. -/
def execRingNotify (p : Nat) (s : State) : Host.Outcome State Fault Refusal :=
  match atHand s p with
  | some q =>
    match q.body with
    | .ringNote desc clu slot _ =>
      if q.hart < 65536 ∧ earlierOpen s q 4 = true then .next s
      else if cluGone s clu then .next (dropPkt s p)
      else .next (serveRing s clu (slot.getD 0) desc none fun t => if keepFull (t.cluster clu) then t else dropPkt t p)
    | _ => .next s
  | none => .next s

/-- R282: the poll of host work ring n by the dispatcher of hart n's cluster. -/
def execHostRingPoll (n : Nat) (s : State) : Host.Outcome State Fault Refusal :=
  match SMap.find? s.pkg.rings n with
  | some (desc, slot) =>
    let g := n / 64
    .next (if cluGone s g then s else serveRing s g slot desc (some n) id)
  | none => .next s

/-! Group tables (R392). -/

/-- The headers and member words of a group table image. -/
def groupHead (l : List Byte) (q : Nat) : Nat × Nat := (leAt l (16 * q) 4, leAt l (16 * q + 4) 4)
/-- A member word of a launch's region: the core. -/
def memberCore (s : State) (L : LaunchRec) (w : Nat) : Option Nat :=
  if w < 2 ^ 25 ∧ epPkg w = s.pkg.number % 4096 ∧ inRegion L (cluOf (epCore w)) = true then some (epCore w) else none
/-- A list without repeats. -/
def distinct : List Nat → Bool
  | [] => true
  | a :: r => !r.contains a && distinct r
/-- The tables of R392 keep a launch's groups: no member twice in a group, no core in more than four. -/
def groupsOk (l : List (List Nat)) : Bool :=
  l.all distinct && decide ((l.map List.length).sum ≤ 32768)
    && l.flatten.all fun c => decide ((l.filter fun g => g.contains c).length ≤ 4)
/-- The groups of an image, or none when it breaks a condition. -/
def parseGroups (s : State) (L : LaunchRec) (l : List Byte) : Option (List (List Nat)) :=
  let heads := (List.range 256).map (groupHead l)
  let clean := (List.range 256).all fun q => leAt l (16 * q + 8) 8 == 0
  let words (h : Nat × Nat) : List (Option Nat) := (List.range h.1).map fun i => memberCore s L (leAt l (4096 + 4 * (h.2 + i)) 4)
  if !clean || heads.any (fun h => decide (8192 < h.1 ∨ 32767 < h.2)) || decide (32768 < (heads.map fun h => h.1).sum) then none
  else
    let gs := heads.map words
    if gs.flatten.any Option.isNone then none
    else
      let gs := gs.map fun g => g.filterMap id
      if groupsOk gs then some gs else none
/-- Bytes of a group table image that its headers reach. -/
def groupBytes (l : List Byte) : Nat :=
  4096 + 4 * (((List.range 256).map (groupHead l)).map fun h => if h.1 = 0 then 0 else min 65536 (h.1 + h.2)).foldl max 0

/-! Installation (R283, R284, R390). -/

/-- The lowest free live-launch place of a root. -/
def freePlace (s : State) (root : Nat) : Option Nat := (List.range 16).find? fun i => (launchOf s (root * 16 + i)).isNone
/-- The clusters that hold a launch: its region and its root. -/
def holders (L : LaunchRec) : List Nat :=
  let r := regionOf L
  if r.contains L.tree then r else r ++ [L.tree]
/-- The head of a die of the region: the root on its own die, else the lowest-numbered cluster. -/
def headOf (L : LaunchRec) (d : Nat) : Option Nat :=
  if dieOf L.tree = d then some L.tree else (regionOf L).find? fun g => dieOf g == d
/-- The children of a cluster in the completion tree (R284). -/
def kidsOf (L : LaunchRec) (g : Nat) : List Nat :=
  let own := if headOf L (dieOf g) = some g then (regionOf L).filter fun k => dieOf k == dieOf g && k != g else []
  let heads := if g = L.tree then ((List.range 8).filter fun d => d != dieOf g).filterMap (headOf L) else []
  heads ++ own
/-- The entry of 0 to 3 that a key takes in a core: the one that holds it, or the lowest empty one. -/
def keyPlace (C : Core) (key : Nat) : Option Nat :=
  let holds (i : Nat) : Bool := match SMap.find? C.members i with | some m => m.valid && m.key == key && decide (0 < m.count) | none => false
  let empty (i : Nat) : Bool := match SMap.find? C.members i with | some m => !m.valid | none => true
  ((List.range 4).find? holds) <|> ((List.range 4).find? empty)
def addKey (C : Core) (key : Nat) : Core :=
  match keyPlace C key with
  | some i =>
    let n := match SMap.find? C.members i with | some m => if m.valid then m.count else 0 | none => 0
    { C with members := SMap.put C.members i { key := key, valid := true, count := n + 1 } }
  | none => C
def dropKey (C : Core) (key : Nat) : Core :=
  match (List.range 4).find? fun i => match SMap.find? C.members i with | some m => m.valid && m.key == key && decide (0 < m.count) | none => false with
  | some i =>
    (match SMap.find? C.members i with
     | some m => { C with members := if m.count ≤ 1 then SMap.del C.members i else SMap.put C.members i { m with count := m.count - 1 } }
     | none => C)
  | none => C
/-- Every cluster of the region has a live-launch place, and every core a membership entry. -/
def launchFits (s : State) (L : LaunchRec) : Bool :=
  (holders L).all fun g => decide ((s.cluster g).launches.length < 16)
    && ((regionOf L).contains g == false || (List.range 16).all fun i => (keyPlace (s.core (coreAt g i)) L.key).isSome)
def coresOf (g : Nat) : List Nat := (List.range 16).map (coreAt g)

/-- Install a launch in its region and spawn ROOT at TREE, which accepts it (R283; DEDUCED, log 57). -/
def installLaunch (s : State) (L : LaunchRec) (n : Nat) (gs : List (List Nat)) : State :=
  let tab := (List.range gs.length).zip gs
  let s := (holders L).foldl (fun s g =>
    s.modCluster g fun G =>
      { G with launches := G.launches ++ [{ handle := n, kids := kidsOf L g }]
               grpTab := tab.foldl (fun m (q, l) => if l.isEmpty then m else SMap.put m (n * 256 + q) (0, l)) G.grpTab }) s
  let s := ((regionOf L).map coresOf).flatten.foldl (fun s c => s.modCore c fun C => addKey C L.key) s
  let start := (s.core (mordantCore L.tree)).cycle
  let s := s.modPkg fun P => { P with launches := SMap.put P.launches n { trec := L, start := start } }
  let s := if s.dies.any fun (d, D) => D.isFailed && L.dies / 2 ^ d % 2 == 1 then orStatus s L.tree n statDie else s
  spawnRec s L.tree none L.root [] n L.slot L.key (some L.tree)

/-! Completion (R285). -/

/-- Cycles that pass while no hart of a core issues: a free value (DESIGN CHOICE, log 4). -/
def unseenCycles (s : State) : Nat × State := let (b, s) := s.draw; (b.toNat % 2 ^ 63, s)
/-- Push a completion record for a launch: none while its ring is full; with no ring to push into the
launch ends without a record (DEDUCED, log 26). `counted`: the cycles the root's Mordant core has counted. -/
def pushCompletion (s : State) (L : LaunchRec) (status counted : Nat) : State × Bool × Option Need :=
  let g := L.tree
  let (e, s) := unseenCycles s
  let elapsed := counted + e
  match devRead s g L.slot L.hostRing.isSome 1 L.ring 32 with
  | (s, .ok dl _) =>
    let compl := (parseRing dl).compl
    if compl = 0 then (s, true, none)
    else match devRead s g L.slot L.hostRing.isSome 1 compl 32 with
      | (s, .ok cl _) =>
        let d := parseRing cl
        if !d.valid then (s, true, none)
        else if d.full then (s, false, none)
        else
          let rec_ := toBytes 8 L.lseq ++ toBytes 4 status ++ toBytes 4 0 ++ toBytes 8 elapsed ++ toBytes 8 0
          (match devWrites s g L.slot L.hostRing.isSome 0
              [(d.slot d.pidx, rec_), (d.head d.pidx, toBytes 8 (d.phase d.pidx)), (compl + 16, toBytes 4 (d.pidx + 1))] with
           | (s, .need w) => (s, false, some w)
           | (s, _) => (s, true, none))
      | (s, .need w) => (s, false, some w)
      | (s, .fail) => (s, true, none)
  | (s, .need w) => (s, false, some w)
  | (s, .fail) => (s, true, none)

/-- The entries of a launch's type table leave a cluster's cache: once no launch names it the table may change (R247). -/
def forgetTypes (L : LaunchRec) (G : Cluster) : Cluster :=
  { G with types := G.types.filter fun e => !(e.1.1 == L.slot && e.1.2.1 == L.types) }
/-- The launch is retired in every cluster: its key counts, groups, barriers and cached types go with it. -/
def retireLaunch (s : State) (n : Nat) : State :=
  match launchOf s n with
  | none => s
  | some L =>
    let s := (holders L.trec).foldl (fun s g =>
      s.modCluster g fun G =>
        { G with launches := G.launches.filter (fun k => k.handle != n), grpTab := G.grpTab.filter fun (k, _) => k / 256 != n }) s
    let s := ((regionOf L.trec).map coresOf).flatten.foldl (fun s c => s.modCore c fun C => dropKey C L.trec.key) s
    let s := { s with clusters := s.clusters.map (fun (x : Nat × Cluster) => (x.1, forgetTypes L.trec x.2)) }
    s.modPkg fun P => { P with launches := SMap.del P.launches n, barriers := P.barriers.filter fun b => b.launch != n }

/-- The accumulated status of all clusters of a launch. -/
def statusOf (s : State) (n : Nat) : Nat :=
  s.clusters.foldl (fun v (_, G) => G.launches.foldl (fun v L => if L.handle = n then Nat.lor v L.acc else v) v) 0
/-- Try to push the record of a launch that is over, with what its status has become, and retire it. -/
def tryPush (s : State) (n : Nat) : State :=
  match launchOf s n with
  | none => s
  | some L =>
    match L.pushing with
    | none => s
    | some st =>
      let now := (s.core (mordantCore L.trec.tree)).cycle
      match pushCompletion s L.trec (Nat.lor st (statusOf s n)) (now - L.start) with
      | (t, true, _) => retireLaunch (devDone t L.trec.tree) n
      | (_, false, some w) => devAsk s L.trec.tree L.trec.slot w
      | (t, false, none) => devDone t L.trec.tree

/-- R283: a launch starts at its root, waits for places, or completes at once with status 0x8000_0000. -/
def execLaunchStart (p : Nat) (s : State) : Host.Outcome State Fault Refusal :=
  match atHand s p with
  | some q =>
    match q.body with
    | .launch L =>
      let refuseNow (s : State) : State :=
        match pushCompletion s L statLost 0 with
        | (t, true, _) => dropPkt (devDone t L.tree) p
        | (_, false, some w) => devAsk s L.tree L.slot w
        | (t, false, none) => devDone t L.tree
      if L.key = 0 then .next (refuseNow s)
      else
        (match freePlace s L.tree with
         | none => .next s
         | some i =>
           if !launchFits s L || keepFull (s.cluster L.tree) then .next s
           else if L.groups = 0 then .next (dropPkt (installLaunch s L (L.tree * 16 + i) []) p)
           else match devRead s L.tree L.slot false 64 L.groups 4096 with
             | (s, .ok hl false) =>
               (match devRead s L.tree L.slot false 4200 L.groups (groupBytes hl) with
                | (s, .ok l false) =>
                  (match parseGroups s L l with
                   | some gs => .next (dropPkt (installLaunch (devDone s L.tree) L (L.tree * 16 + i) gs) p)
                   | none => .next (refuseNow s))
                | (s, .need w) => .next (devAsk s L.tree L.slot w)
                | (s, _) => .next (refuseNow s))
             | (s, .need w) => .next (devAsk s L.tree L.slot w)
             | (s, _) => .next (refuseNow s))
    | _ => .next s
  | none => .next s

/-- No record of launch n is queued or running in cluster g, and none retained (R285, R312). -/
def quiet (s : State) (g n : Nat) : Bool :=
  let G := s.cluster g
  !G.queue.any (fun q => q.launch == n) && !G.keep.any (fun k => k.launch == n)
    && !G.waiting.any (fun q => match q.body with | .task _ _ m _ _ => m == n | _ => false)
    && (coresOf g).all fun c =>
        !((s.core c).arrQ ++ (s.core c).spill).any (fun x => x.launch == n)
          && (hartsOf c).all fun h => match (s.hart h).task with | some T => T.launch != n | none => true
/-- A cluster's view of a launch (DEDUCED, log 34). -/
def viewOf (s : State) (g n : Nat) : Option CluLaunch := (s.cluster g).launches.find? fun L => L.handle == n
/-- The children that have not sent done and still can (DEDUCED, log 34). -/
def kidsLeft (s : State) (L : CluLaunch) : List Nat := L.kids.filter fun k => !cluGone s k
/-- A cluster may send done. -/
def mayDone (s : State) (g n : Nat) : Bool :=
  match viewOf s g n with
  | some L => L.collecting && !L.sent && (kidsLeft s L).isEmpty && quiet s g n
  | none => false
/-- Begin collecting at a cluster and pass the collect message down the tree. -/
def collectAt (s : State) (g n : Nat) : State :=
  match viewOf s g n, launchOf s n with
  | some L, some K =>
    if L.collecting then s
    else (kidsLeft s L).foldl (fun s k => sendDev s g K.trec.slot K.trec.key (.collect n k))
      (s.modCluster g fun G => modLaunch G n fun L => { L with collecting := true })
  | _, _ => s

/-- Harts of a launch that the host ends: freed as soon as their accesses are answered (R420). -/
def reap (s : State) (n : Nat) : State :=
  s.harts.foldl (fun t (h, H) =>
    match H.task with
    | some T => if T.launch = n ∧ faultEndReady t h = true then leaveTask t h else t
    | none => t) s
/-- Some hart still runs a task of the launch. -/
def running' (s : State) (n : Nat) : Bool :=
  s.harts.any fun (_, H) => match H.task with | some T => T.launch == n | none => false
/-- The launch is over at its root, with these bits in its status. -/
def setPushing (s : State) (n st : Nat) : State :=
  s.modPkg fun P => { P with launches := match SMap.find? P.launches n with
    | some L => SMap.put P.launches n { L with pushing := some st }
    | none => P.launches }

/-- R285: the notice at the root: collect goes down the tree, and once every child is done and the root is
quiet the completion record is pushed. A launch the host ends completes when its harts are freed. -/
def execLaunchEndNotice (p : Nat) (s : State) : Host.Outcome State Fault Refusal :=
  match atHand s p with
  | some q =>
    match q.body with
    | .launchEnd n =>
      (match launchOf s n with
       | none => .next (dropPkt s p)
       | some L =>
         let g := L.trec.tree
         if L.killed then
           let s := reap s n
           .next (if running' s n then s else tryPush (setPushing (dropPkt s p) n statLost) n)
         else
           let s := collectAt (s.modPkg fun P => { P with launches := SMap.put P.launches n { L with ended := true } }) g n
           .next (if mayDone s g n then
             let st := match viewOf s g n with | some V => V.acc | none => 0
             tryPush (setPushing (dropPkt (s.modCluster g fun G => modLaunch G n fun V => { V with sent := true }) p) n st) n
           else s))
    | _ => .next s
  | none => .next s
/-- R285: a collect message; it stays until the cluster can send done. -/
def execCollect (p : Nat) (s : State) : Host.Outcome State Fault Refusal :=
  match atHand s p with
  | some q =>
    match q.body with
    | .collect n g =>
      (match launchOf s n, viewOf s g n with
       | some L, some _ =>
         if cluGone s g then .next (dropPkt s p)
         else
           let s := collectAt s g n
           .next (if mayDone s g n then
             let st := match viewOf s g n with | some V => V.acc | none => 0
             let up := if headOf L.trec (dieOf g) = some g then L.trec.tree else (headOf L.trec (dieOf g)).getD L.trec.tree
             sendDev (dropPkt (s.modCluster g fun G => modLaunch G n fun V => { V with sent := true }) p) g L.trec.slot L.trec.key (.done n up st)
           else s)
       | _, _ => .next (dropPkt s p))
    | _ => .next s
  | none => .next s
/-- R285: a done message reaches the parent. -/
def execDone (p : Nat) (s : State) : Host.Outcome State Fault Refusal :=
  match atHand s p with
  | some q =>
    match q.body with
    | .done n g st =>
      .next ((dropPkt s p).modCluster g fun G => modLaunch G n fun V =>
        { V with acc := Nat.lor V.acc st, kids := V.kids.filter fun k => k != q.hart - 65536 })
    | _ => .next s
  | none => .next s
/-- R285: the root reads a full completion ring again. -/
def execCompletionRingRetry (handle : Nat) (s : State) : Host.Outcome State Fault Refusal := .next (tryPush s handle)

/-! The end the host forces (R420). -/

/-- A packet that is not of launch `n`. -/
def killPkt (n : Nat) (q : Packet) : Bool :=
  match q.body with
  | .task _ _ m _ _ => m != n
  | .context _ x _ => x.launch != n
  | .dec _ _ _ m => m != n
  | .lost _ m _ => m != n
  | .launchEnd m => m != n
  | .collect m _ => m != n
  | .done m _ _ => m != n
  | _ => true
/-- The cluster's share of `killLaunch`. -/
def killCluster (n : Nat) (G : Cluster) : Cluster :=
  { G with
    q := G.q - ((G.queue.filter fun q => q.launch == n).map queuedCost).sum
    queue := G.queue.filter (fun q => q.launch != n)
    keep := G.keep.filter (fun k => k.launch != n)
    groups := G.groups.filter (fun x => x.2.launch != n)
    waiting := G.waiting.filter (killPkt n) }
/-- The core's share of `killLaunch`; `units` are the frames of its resume records. -/
def killCore (n : Nat) (units : List Nat) (C : Core) : Core :=
  { C with
    arrQ := C.arrQ.filter (fun x => x.launch != n)
    spill := C.spill.filter (fun x => x.launch != n)
    frames := C.frames.filter fun (u, _) => !units.contains u }
/-- The frames that resume records of launch n hold on core c. -/
def resumeFrames (s : State) (n c : Nat) : List Nat :=
  (s.cluster (cluOf c)).queue.filterMap fun q =>
    match q.resume with | some (k, T) => if k = c ∧ q.launch = n then some T.frame else none | none => none
/-- The cost of the contexts of launch n that have landed on a core leaves Q. -/
def killArrived (n : Nat) (s : State) (x : Nat × Core) : State :=
  s.modCluster (cluOf x.1) fun G => { G with q := G.q - (((x.2.arrQ ++ x.2.spill).filter fun y => y.launch == n).map fun y => y.cost).sum }
/-- The harts whose spawns and migrations of launch n are no longer outstanding, once for each (R252, R311). -/
def killCounted (s : State) (n : Nat) : List Nat :=
  (s.clusters.map fun (_, G) => G.keep.filterMap fun k => if k.launch = n then k.hart else none).flatten
    ++ s.net.filterMap fun p => match p.body with | .context _ x _ => if x.launch = n ∧ p.hart < 65536 then some p.hart else none | _ => none
/-- Queued records, contexts, packets and retention entries of a launch are discarded; its running tasks are
ended without DEC. -/
def killLaunch (s : State) (n : Nat) : State :=
  let s := s.cores.foldl (killArrived n) s
  let s := (killCounted s n).foldl (fun s h => s.modHart h fun H => { H with outst := H.outst - 1 }) s
  let s := (s.net.filter fun p => !killPkt n p).foldl (fun s p => dropPkt s p.id) s
  let s := { s with
    clusters := s.clusters.map (fun (x : Nat × Cluster) => (x.1, killCluster n x.2))
    cores := s.cores.map (fun (x : Nat × Core) => (x.1, killCore n (resumeFrames s n x.1) x.2)) }
  let hs := s.harts.filterMap (fun (x : Nat × Hart) => match x.2.task with
    | some T => if T.launch = n then some x.1 else none
    | none => none)
  hs.foldl faultEndStart s

/-- The live launch of a slot, root cluster and LSEQ. -/
def findLaunch (s : State) (slot root lseq : Nat) : Option Nat :=
  (List.find? (fun (e : Nat × Launch) => e.2.trec.slot == slot && e.2.trec.tree == root && e.2.trec.lseq == lseq && !e.2.killed) s.pkg.launches).map Prod.fst
/-- R420 on a live launch. -/
def endLaunchNow (s : State) (n : Nat) : State :=
  match launchOf s n with
  | none => s
  | some L =>
    let s := killLaunch (s.modPkg fun P => { P with launches := SMap.put P.launches n { L with killed := true } }) n
    sendDev s L.trec.tree L.trec.slot 0 (.launchEnd n)

end Sys2Proof.Machine
end

