-- ==== Sys2Proof/Machine/Msg.lean ====
section
/-! DEFINITION. Messages: armed registers and deposits (R292 to R297), handler messages (R298 to R304),
channels (R309, R310) and migration (R311 to R315). -/

namespace Sys2Proof.Machine
open Sys2Proof

/-! Order and answers. -/

/-- The hart of the package a message is for, where it is for one. -/
def msgHart : Body → Option Nat
  | .deposit t _ => if t < 2 ^ 60 then some (tgtHartNo t) else none
  | .handler t _ _ _ refused => if refused then none else some (tgtHartNo t)
  | .channel ep hart _ _ _ _ _ => some (epCore ep * 4 + hart)
  | _ => none
/-- An earlier message of the same hart to the same target hart has not been delivered (R289). -/
def messageFirst (s : State) (p : Packet) : Bool :=
  match msgHart p.body with
  | some h => s.net.any fun q => q.hart == p.hart && decide (q.id < p.id) && msgHart q.body == some h && destPkg s q.body == destPkg s p.body
  | none => false
/-- A message that its target has not refused. -/
def stillComing : Body → Bool
  | .deposit _ _ => true
  | .handler _ _ _ _ refused | .channel _ _ _ _ _ _ refused => !refused
  | _ => false
/-- An earlier message of the same core, plane and class to the same endpoint stands before it at hand (R15; DEDUCED, log 48). -/
def messagePair (s : State) (p : Packet) : Bool :=
  decide (p.hart < 65536) && s.net.any fun q =>
    decide (q.id < p.id) && decide (q.hart < 65536) && coreOf q.hart == coreOf p.hart && stillComing q.body
      && planeOf q.body == planeOf p.body && trafficClass q.body == trafficClass p.body && (SMap.find? s.paths q.id).isNone
      && destEp s q == destEp s p && standsAt s q == standsAt s p && !messageFirst s q && !sameBankFirst s q
/-- A message is not yet to be taken (R15, R289). -/
def msgBlocked (s : State) (p : Packet) : Bool := messageFirst s p || messagePair s p
/-- A message that has been taken: its acknowledgement. -/
def ackOf (p : Packet) : Packet :=
  match p.body with
  | .deposit t _ | .handler t _ _ _ _ => { p with body := .reply t false (.posted true) .ack }
  | .channel ep hart _ _ _ reg _ => { p with body := .reply (ep * 128 + hart * 32) false (.chan reg) .ack }
  | _ => p

/-! Armed registers (R292). -/

/-- A deposit held for register r of hart h. -/
def heldDeposit (s : State) (h r : Nat) : Option Packet :=
  (s.core (coreOf h)).deposits.find? fun p => depositFor h p && (match p.body with | .deposit t _ => tgtReg t == r | _ => false)
/-- Arm register r of hart h, or give it the oldest deposit held for it. -/
def armReg (s : State) (h r : Nat) : State :=
  if (s.hart h).armed.contains r then s
  else match heldDeposit s h r with
    | some p =>
      let v := match p.body with | .deposit _ v => v | _ => 0
      let s := s.modCore (coreOf h) fun C => { C with deposits := C.deposits.filter fun q => q.id != p.id }
      putBackAt (s.modHart h fun H => landX H r v) (ackOf p) (cluOfHart h)
    | none => s.modHart h fun H => { H with armed := H.armed ++ [r] }
/-- R292. -/
def execArm (rd : BitVec 5) (s : State) : Host.Outcome State Fault Refusal :=
  let r := rd.toNat
  if r = 0 then finish s .ok (retire s s.cur)
  else
    finish s (ready (s.me.commit != some r && !s.me.pend.any fun p => p.file == .x && p.reg == r))
      (armReg (retire s s.cur) s.cur r)

/-! Deposits (R293, R294). -/

/-- R293. -/
def execSendw (rs1 rs2 : BitVec 5) (s : State) : Host.Outcome State Fault Refusal :=
  let t := s.x rs1
  let n := t.toNat
  let checks : Pre :=
    if n / 2 ^ 60 = 8 ∨ n / 2 ^ 60 = 9 then .seq (accessPre s t 8 true true) (need (fePlace s t) 7 t)
    else need (decide (n < 2 ^ 58)) 7 t
  finish s (.seq checks (ready (placesFor s s.cur 1))) (send (retire s s.cur) s.cur (.deposit n (s.x rs2)))

/-- A deposit into a granule at a location. -/
def depositGranule (s : State) (p : Packet) (loc : Nat) (v : Word) : State :=
  match refusal s p.hart loc p.key with
  | some c => refuse s p loc c
  | none =>
    let s := (store s none loc (toBytes 8 v.toNat) false).setFe loc true
    wakeFe (putPkt s (ackOf p)) loc
/-- A deposit lands in an armed register: it is disarmed, and what waited for it, or for any result, goes on (R109, R294). -/
def depositLands (H : Hart) (r : Nat) (v : Word) : Hart :=
  let H := endWfm (landX H r v)
  { H with armed := H.armed.erase r, stalled := if H.stalled = some (.armed .x r) then none else H.stalled }
/-- A deposit into a register. -/
def depositReg (s : State) (p : Packet) (t : Nat) (v : Word) : State :=
  let c := epCore (tgtEp t)
  let h := tgtHartNo t
  let r := tgtReg t
  match homeErr s c p.key with
  | some e => failPkt (if e = 29 then countDrop s c else s) p e
  | none =>
    if !stampOk s h t p.slot then failPkt s p 56
    else if r = 0 then putPkt s (ackOf p)
    else if (s.hart h).armed.contains r then
      putPkt (s.modHart h fun H => depositLands H r v) (ackOf p)
    else if (s.core c).deposits.length < 16 then
      (dropPkt s p.id).modCore c fun C => { C with deposits := C.deposits ++ [p] }
    else failPkt s p 56
/-- R294: a deposit reaches its target, or leaves the package. -/
def execDepositArrival (p : Nat) (s : State) : Host.Outcome State Fault Refusal :=
  match atHand s p with
  | some q =>
    match q.body with
    | .deposit t v =>
      if bankBlocked s q || msgBlocked s q then .next s
      else if leavesPkg s q.body then .next (gatewaySend s q)
      else if t / 2 ^ 60 = 8 then .next (depositGranule s q (joinLoc t) v)
      else if t / 2 ^ 60 = 9 then .next (depositGranule s q (padBase (coreOf q.hart) + t % 2 ^ 17) v)
      else .next (depositReg s q t v)
    | _ => .next s
  | none => .next s
/-- R294: a deposit held longer than the target core's limit is refused. -/
def execDepositHoldTimeout (p : Nat) (s : State) : Host.Outcome State Fault Refusal :=
  match (s.cores.filterMap fun (x : Nat × Core) => (x.2.deposits.find? fun q => q.id == p).map fun q => (x.1, q)).head? with
  | some (c, q) =>
    if (s.core c).feLimit = 0 then .next s
    else .next (putBackAt (s.modCore c fun C => { C with deposits := C.deposits.filter fun r => r.id != p }) (errReply q 56) (cluOf c))
  | none => .next s
/-- A register still has nothing to read: it is armed, or its inbound channel holds no image. -/
def stillEmpty (H : Hart) (file : RFile) (r : Nat) : Bool :=
  if file = .v then (match streamOf H r with | some t => t.buf.isEmpty | none => false) else H.armed.contains r
/-- R297: a read of an armed register or inbound channel has waited past the limit. -/
def execArmedReadTimeout (h : Nat) (s : State) : Host.Outcome State Fault Refusal :=
  match (s.hart h).stalled with
  | some (.armed file r) =>
    if limitOf s h = 0 ∨ stillEmpty (s.hart h) file r = false then .next s
    else .next (takeTrap s h false 28 (word (2 ^ 63 + (if file = .v then 64 else 0) + r)))
  | _ => .next s

/-! Handler messages (R298 to R304). -/

/-- The header of an image: COUNT, DLEN, and whether the reserved bytes are 0. -/
def imageHead (l : List Byte) : Nat × Nat × Bool := (leAt l 0 1, leAt l 1 1, leAt l 2 14 == 0)
/-- Words from bytes. -/
def wordsAt (l : List Byte) (n : Nat) : List W32 := (List.range n).map fun i => w32 (leAt l (4 * i) 4)
/-- R299. -/
def execSendh (rs1 rs2 : BitVec 5) (s : State) : Host.Outcome State Fault Refusal :=
  let a := s.x rs1
  let t := (s.x rs2).toNat
  let to_ := decide (t < 2 ^ 58) && tgtReg t == 0
  let s := if to_ then readRecord s a 16 16 else s
  let (count, dlen, clean) := imageHead (recordBytes s a 16)
  let n := 16 + 4 * count + 8 * dlen
  let good := decide (1 ≤ count ∧ count ≤ 24 ∧ dlen ≤ 20) && clean
  let s := if to_ && good then readRecord s a 16 n else s
  let img := recordBytes s a n
  finish s (.all [recordPre s a 16, need to_ 7 (s.x rs2), need good 5 a, poisonPre s a n, ready (placesFor s s.cur 1)])
    (send (retire s s.cur) s.cur
      (.handler t a.toNat (wordsAt (img.drop 16) count) ((img.drop (16 + 4 * count)).take (8 * dlen)) false))

/-- The location of inbox slot n of core c (R27). -/
def slotLoc (c n : Nat) : Nat := winBase c + 0x10000 + 256 * n
/-- Zeros up to n bytes. -/
def fitTo (n : Nat) (l : List Byte) : List Byte := (l ++ List.replicate n 0).take n
/-- The bytes of a handler's slot (R301). -/
def slotBytes (words : List W32) (data : List Byte) : List Byte :=
  fitTo 256 (fitTo 96 (words.map fun w => toBytes 4 w.toNat).flatten ++ data)
/-- Write an inbox slot. -/
def writeSlot (s : State) (c n : Nat) (l : List Byte) : State := { s with mem := s.mem.writeBytes (slotLoc c n) l }
/-- The lowest free handler slot of hart i of a core. -/
def freeSlot (C : Core) (i : Nat) : Option Nat := ((List.range 7).map fun k => 7 * i + k).find? fun n => (SMap.find? C.inbox n).isNone

/-- R299: a handler message reaches its target: placed and acknowledged, or refused. -/
def execHandlerMessageArrival (p : Nat) (s : State) : Host.Outcome State Fault Refusal :=
  match atHand s p with
  | some q =>
    match q.body with
    | .handler t image words data refused =>
      if refused || msgBlocked s q then .next s
      else if leavesPkg s q.body then .next (gatewaySend s q)
      else
        let c := epCore (tgtEp t)
        (match homeErr s c q.key with
         | some e => .next (failPkt (if e = 29 then countDrop s c else s) q e)
         | none =>
           match freeSlot (s.core c) (tgtHart t) with
           | none => .next (setBody s p (.handler t image words data true))
           | some n =>
             let e : InSlot := { order := (s.core c).inOrder, scanned := false, count := words.length, dlen := data.length / 8
                                 src := q.hart, slot := q.slot, key := q.key, target := t, image := image }
             let s := (writeSlot s c n (slotBytes words data)).modCore c fun C =>
               { C with inbox := SMap.put C.inbox n e, inOrder := C.inOrder + 1 }
             .next (putPkt s (ackOf q)))
    | _ => .next s
  | none => .next s
/-- R299: a refused message is sent again. -/
def execHandlerResend (p : Nat) (s : State) : Host.Outcome State Fault Refusal :=
  match findPkt s p with
  | some q =>
    match q.body with
    | .handler t image words data true => .next (setBody s p (.handler t image words data false))
    | _ => .next s
  | none => .next s
/-- R299: past the limit the sender writes an error record of kind 4. -/
def execHandlerResendTimeout (p : Nat) (s : State) : Host.Outcome State Fault Refusal :=
  match findPkt s p with
  | some q =>
    match q.body with
    | .handler t image _ _ true =>
      if limitOf s q.hart = 0 then .next s else .next (writeErrRec (dropPkt s p) q.hart 4 0 0 t image)
    | _ => .next s
  | none => .next s

/-- x29 at handler entry: the sender's endpoint and hart. -/
def senderWord (s : State) (h : Nat) : Word :=
  if isForeign h then word ((foreignPkg h * 2 ^ 13 + h % 65536 / 4) * 128 + h % 4 * 32)
  else word (epOf s (coreOf h) * 128 + hartIn h * 32)
/-- An error record goes from core c to a message's sender. -/
def sendErrRec (s : State) (c : Nat) (e : InSlot) (kind reason idx : Nat) : State :=
  sendFrom s (cluOf c) { id := 0, hart := e.src, slot := e.slot, key := e.key, body := .errorRecord e.src kind reason idx e.target e.image }
/-- Free an inbox slot. -/
def freeInSlot (s : State) (c n : Nat) : State := s.modCore c fun C => { C with inbox := SMap.del C.inbox n }

/-- The hart can take a handler sent under a process slot now (R302). -/
def handlerReady (s : State) (h : Nat) (slot : Option Nat) : Bool :=
  let H := s.hart h
  H.handler.isNone && H.held.isNone && (dueInterrupt s h).isNone && H.ranSince && !(s.core (coreOf h)).isSealed
    && (isFree H
      || (H.mode == .U && H.task.isSome && slotOf H == slot && !H.pfx
          && (match H.vloop with | some v => v.at_ == 0 | none => true)
          && !H.armed.any fun n => decide (28 ≤ n)))
/-- A wait that a handler or an interrupt may end (DEDUCED, log 18): no lane of a gather or scatter has gone (R202). -/
def mayLeave (H : Hart) : Bool :=
  H.lanes.isEmpty &&
    match H.stalled with
    | some (.grpw _ _ _) | some (.keyrotAck _) => false
    | _ => true

/-- Entry to the handler in slot n (R303). -/
def enterHandler (s : State) (h n : Nat) (e : InSlot) : State :=
  let v := senderWord s e.src
  s.modHart h fun H =>
    let run : HandlerRun :=
      { inslot := n, wasFree := isFree H, pc := match H.vloop with | some w => w.pc | none => H.pc
        x28 := H.getX 28, x29 := H.getX 29, x30 := H.getX 30, x31 := H.getX 31
        le := leBit H.csr, chk := H.chk, slot := e.slot, key := e.key }
    let H := if isFree H then { H with x := [] } else H
    { landX (landX (landX (landX H 28 (word (0xC000000000010000 + 256 * n + 96))) 29 v) 30 (word (8 * e.dlen))) 31 (word n) with
      handler := some run, free := false, mode := .U, pc := word (0x10000 + 256 * n), arrival := .indirect, prefetch := [], vloop := none
      stalled := none, fetched := [], ranSince := false, chk := { H.chk with act := false }
      csr := { H.csr with mnstatus := setBit H.csr.mnstatus 4 false } }
/-- R303: the hart enters its oldest scanned handler; one whose stamp no longer fits is dropped (R304; DEDUCED, log 37). -/
def execHandlerEntry (h : Nat) (s : State) : Host.Outcome State Fault Refusal :=
  let c := coreOf h
  match oldestHandler (s.core c) (hartIn h) (s.hart h).running with
  | none => .next s
  | some n =>
    match SMap.find? (s.core c).inbox n with
    | none => .next s
    | some e =>
      if isMordant h || !handlerReady s h e.slot || !mayLeave (s.hart h) then .next s
      else if !stampOk s h e.target e.slot then .next (sendErrRec (freeInSlot s c n) c e 2 0 0)
      else .next (enterHandler (withdrawLease s h) h n e)

/-- What MSGRET restores inside a handler. -/
def leaveHandler (H : Hart) (r : HandlerRun) : Hart :=
  let H := if r.wasFree then { H with x := [], free := true }
    else landX (landX (landX (landX H 28 r.x28) 29 r.x29) 30 r.x30) 31 r.x31
  { H with handler := none, pc := r.pc, arrival := .seq, fromSigned := true, chk := r.chk
           csr := { H.csr with mnstatus := setBit H.csr.mnstatus 4 r.le } }
/-- R303. -/
def execMsgret (s : State) : Host.Outcome State Fault Refusal :=
  let h := s.cur
  let c := coreOf h
  let t := retire s h
  match s.me.handler with
  | some r => finish s .ok ((freeInSlot t c r.inslot).modHart h fun H => leaveHandler H r)
  | none => finish s .ok (if isMordant h then t else freeInSlot t c (28 + hartIn h))

/-! Channels (R309, R310). -/

/-- The register of a hart that is bound inbound to a tag. -/
def inboundReg (H : Hart) (tag : Nat) : Option (Nat × Stream) :=
  List.find? (fun (x : Nat × Stream) => match x.2.kind with | .chIn g => g == tag | _ => false) H.streams
/-- R309: a channel packet reaches its hart: accepted and acknowledged, or refused. -/
def execChannelPacketArrival (p : Nat) (s : State) : Host.Outcome State Fault Refusal :=
  match atHand s p with
  | some q =>
    match q.body with
    | .channel ep hart tag seq v reg refused =>
      if refused || msgBlocked s q then .next s
      else if leavesPkg s q.body then .next (gatewaySend s q)
      else
        let c := epCore ep
        let h := c * 4 + hart
        (match homeErr s c q.key with
         | some e => .next (failPkt (if e = 29 then countDrop s c else s) q e)
         | none =>
           match inboundReg (s.hart h) tag with
           | some (r, t) =>
             if (t.peer == none || t.peer == some q.hart) && seq == t.seq && decide (t.buf.length < 4) then
               let s := s.modHart h fun H =>
                 { setStream H r { t with buf := t.buf ++ [.ok v], seq := (t.seq + 1) % 16, peer := some q.hart } with
                   stalled := if H.stalled = some (.armed .v r) then none else H.stalled }
               .next (putPkt s (ackOf q))
             else .next (setBody s p (.channel ep hart tag seq v reg true))
           | none => .next (setBody s p (.channel ep hart tag seq v reg true)))
    | _ => .next s
  | none => .next s
/-- R310: the refused images of a binding are sent again, in order. -/
def execChannelResend (h v : Nat) (s : State) : Host.Outcome State Fault Refusal :=
  .next { s with net := s.net.map fun q =>
    match q.body with
    | .channel ep hart tag seq d reg true =>
      if q.hart = h ∧ reg = v then { q with body := .channel ep hart tag seq d reg false } else q
    | _ => q }
/-- R310: an image unacknowledged past the limit gets an error acknowledgement. -/
def execChannelImageTimeout (p : Nat) (s : State) : Host.Outcome State Fault Refusal :=
  match atHand s p with
  | some q =>
    match q.body with
    | .channel _ _ _ _ _ _ _ => if limitOf s q.hart = 0 then .next s else .next (failPkt s q 56)
    | _ => .next s
  | none => .next s

/-! Migration (R311 to R315). -/

/-- The core that MIGRATE's address names: a worker core of the package. -/
def migrateCore (s : State) (a : Word) : Option Nat :=
  match placeNow s a with
  | .own _ => if isMordant s.cur then none else some (coreOf s.cur)
  | .pad t _ => if isWorker t then some t else none
  | _ => none
/-- MIGRATE past its waits. -/
def migrateNow (s : State) (c ty : Nat) : State :=
  match s.me.task with
  | none => s
  | some T =>
    let h := s.cur
    let x : Ctx :=
      { trec := { T.trec with ty := ty, prio := 0, carry := true, range := false, b := 0, ext := 0 }
        regs := (List.range 8).map fun i => s.me.getX (10 + i)
        launch := T.launch, slot := T.slot, key := T.key, group := T.group }
    let s := (leaveTask (retire s h) h).modHart h fun H => { H with outst := H.outst + 1 }
    sendAs s h (some T.slot) T.key (.context c x false)
/-- R311. -/
def execMigrate (rs1 rs2 : BitVec 5) (s : State) : Host.Outcome State Fault Refusal :=
  let a := s.x rs1
  let ty := (s.x rs2).toNat
  match Pre.all [taskLegal s, need (migrateCore s a).isSome 5 a, (if ty < ntypesOf s then .ok else spawnBad 1),
      (if s.me.deque.isEmpty then .ok else dequeBad 4), unbindAllPre s.me] with
  | .ok =>
    let s1 := disarmHart (s.modHart s.cur unbindAll) s.cur
    endWork s1 (ready (!outFull s1.me && placesFor s1 s1.cur 1)) fun u => migrateNow u ((migrateCore s a).getD 0) ty
  | p => finish s p s

/-- A context no longer counts as outstanding for its hart. -/
def ctxDone (s : State) (h : Nat) : State := if 65536 ≤ h then s else s.modHart h fun H => { H with outst := H.outst - 1 }
/-- The lowest free entry of a core's spill area (R313). -/
def freeEntry (C : Core) : Nat := ((List.range 4096).find? fun k => !C.spill.any fun x => x.entry == k).getD 0
/-- A context lands in core c, in its queue or in its spill area (R312, R313). -/
def landCtx (s : State) (c : Nat) (x : Ctx) (spilled : Bool) : State :=
  let s := s.modCore c fun C => { C with landed := C.landed + 1 }
  if spilled then
    let k := freeEntry (s.core c)
    (store s none (spillEntry c k) (recBytes x.trec ++ wordsBytes x.regs) false).modCore c fun C =>
      { C with spill := C.spill ++ [{ x with entry := k }], spills := C.spills + 1 }
  else s.modCore c fun C => { C with arrQ := C.arrQ ++ [x] }
/-- R312: a context reaches its core: it lands, is refused while the spill list is full, or is lost. -/
def execContextArrival (p : Nat) (s : State) : Host.Outcome State Fault Refusal :=
  match atHand s p with
  | some q =>
    match q.body with
    | .context c x refused =>
      if refused || heldBack s q then .next s
      else
        let g := cluOf c
        (match homeErr s c q.key with
         | some e =>
           let s := ctxDone (dropPkt (if e = 29 then countDrop s c else s) p) q.hart
           .next (loseWork s g x.trec x.launch x.slot x.key x.group false)
         | none =>
           match typeLookup s g x.launch x.trec.ty with
           | (_, .host v) => .next (typeAsk s g x.launch v)
           | (t, .bad) => .next (loseWork (ctxDone (dropPkt t p) q.hart) g x.trec x.launch x.slot x.key x.group true)
           | (t, .ok e) =>
             let C := t.core c
             let full := decide (48 ≤ C.arrQ.length) || !C.spill.isEmpty
             if full && decide (4096 ≤ C.spill.length) then .next (setBody t p (.context c x true))
             else
               let t := (landCtx (ctxDone (dropPkt t p) q.hart) c { x with cost := e.cbase + e.crow } full).modCluster g fun G => { G with q := G.q + e.cbase + e.crow }
               .next (sendDev t g x.slot x.key (.accepted x.trec.ser (farClu x.trec.hpkg (homeOf (keyOfRec x.trec))) g)))
    | _ => .next s
  | none => .next s
/-- R312: a refused context is sent again. -/
def execContextResend (p : Nat) (s : State) : Host.Outcome State Fault Refusal :=
  match findPkt s p with
  | some q =>
    match q.body with
    | .context c x true => .next (setBody s p (.context c x false))
    | _ => .next s
  | none => .next s
/-- A spilled context as its entry holds it now, and whether it comes back poisoned (R313). -/
def refilled (s : State) (c : Nat) (x : Ctx) : Ctx × Bool :=
  let l := s.mem.readBytes (spillEntry c x.entry) 96
  ({ x with trec := parseRec l, regs := carried l }, (poisonedAt s (spillEntry c x.entry) 96).isSome)
/-- R312: the oldest spilled context returns to the queue; a poisoned one is lost (R315). -/
def execSpillRefill (c : Nat) (s : State) : Host.Outcome State Fault Refusal :=
  match (s.core c).spill with
  | [] => .next s
  | x :: r =>
    if 48 ≤ (s.core c).arrQ.length then .next s
    else
      let s := s.modCore c fun C => { C with spill := r }
      let (y, bad) := refilled s c x
      .next (if bad then loseCtx s (cluOf c) x else s.modCore c fun C => { C with arrQ := C.arrQ ++ [y] })

end Sys2Proof.Machine
end

