-- ==== Sys2Proof/Machine/Scan.lean ====
section
/-! DEFINITION. The code scanner: what it rejects in a range of words and under which reason (R38 to R68,
R75, R95, R114, R146, R167, R168), the commit of a range (R73, R74, R101) and the check of a handler
message (R77, R300). -/

namespace Sys2Proof.Machine
open Sys2Proof

/-! One word. -/

/-- The row of a word for the scanner: a word with the FMT opcode is an FMT whatever its payload. -/
def scanOp (w : W32) : Option Op :=
  match opOf w with
  | .ok op => some op
  | .error .badPayload => some .fmt
  | .error .notInstr => none
/-- The payload field of an FMT word. -/
def payloadAt (w : W32) : BitVec 25 := BitVec.ofNat 25 (fld w.toNat 7 25)

/-- Who a range is scanned for (R58, R300). -/
inductive Profile | worker | mordant | handler
  deriving DecidableEq, Repr

/-- A word of the base opcodes. -/
def isBase (w : Nat) : Bool := !([0x0B, 0x2B, 0x5B, 0x7B] : List Nat).contains (fld w 0 7)
/-- The ordering group and the scoped AMOs of custom-2. -/
def isOrd (w : Nat) : Bool := fld w 0 7 == 0x5B && (fld w 12 3 == 1 || fld w 12 3 == 5)
/-- A destination register that a handler may write: x0 or x28 to x31 (R300). -/
def handlerDest (op : Op) (w : Nat) : Bool :=
  (usesOf op w none).writes.all fun (q, n) => q == .x && (n == 0 || decide (28 ≤ n))
/-- The forms of a handler (R300). -/
def handlerForm (op : Op) (w : Nat) : Bool :=
  match op with
  | .jalr | .ecall | .ebreak | .mret | .sret | .wfi | .csrrw | .csrrwi | .fxrd => false
  | .jal => fld w 7 5 == 0
  | .csrrs | .csrrc | .csrrsi | .csrrci => fld w 15 5 == 0
  | .ldFeKeep | .ldFeClr | .stFe | .fesetEmpty | .fesetFull | .feqry | .joininit | .joinadd | .joinarm
  | .sendw | .sendh | .msgret => true
  | _ => isOrd w || ([0x03, 0x0F, 0x13, 0x17, 0x1B, 0x23, 0x2F, 0x33, 0x37, 0x3B, 0x63] : List Nat).contains (fld w 0 7)
/-- The form is in the profile. -/
def inProfile (P : Profile) (op : Op) (w : Nat) : Bool :=
  match P with
  | .worker => op != .cseal && op != .crestart
  | .mordant =>
    isBase w || isOrd w || ([.sig, .fmt, .safept, .codecmt, .wfm, .cseal, .crestart] : List Op).contains op
  | .handler => handlerForm op w && handlerDest op w

/-- The bank rule (R45, R201). -/
def banksFit (op : Op) (w : Nat) : Bool :=
  let odd (lo : Nat) : Bool := fld w lo 1 == 1
  match op with
  | .vadd | .vsub | .vmul | .vfma | .vfms | .vmin | .vmax | .vdot4 | .vcmp | .vshl | .vshr | .vsra | .vand | .vor | .vxor
  | .vperm | .vsel => odd 15 != odd 20
  | .scatA => odd 7
  | .scatX => odd 7 != odd 20
  | _ => true
/-- An odd field names a register pair (R168). -/
def oddPair (op : Op) (w : Nat) (p : Payload) : Bool :=
  (op == .vquant && p.fa == .f32 && fld w 15 1 == 1) || (op == .vdeq && p.fd == .f32 && p.sm == .src && fld w 7 1 == 1)

/-- The static target of a branch or JAL, in bytes from the word. -/
def staticOff (op : Op) (w : Nat) : Option Int :=
  match op with
  | .beq | .bne | .blt | .bge | .bltu | .bgeu =>
    some (2 * toSigned 12 (fld w 31 1 * 2048 + fld w 7 1 * 1024 + fld w 25 6 * 16 + fld w 8 4))
  | .jal => some (2 * toSigned 20 (fld w 31 1 * 524288 + fld w 12 8 * 2048 + fld w 20 1 * 1024 + fld w 21 10))
  | _ => none
/-- The control transfers of R95. -/
def isTransfer : Op → Bool
  | .beq | .bne | .blt | .bge | .bltu | .bgeu | .jal | .jalr | .ecall | .ebreak | .mret | .sret | .wfi | .wfm | .tend
  | .migrate | .msgret | .safept | .hloop => true
  | _ => false
/-- A word that may stand in a VLOOP body (R146). -/
def inVloop (op : Op) (w : Nat) : Bool :=
  fld w 0 7 == 0x0B ||
    match op with
    | .fmt | .vld | .vst | .vlds | .vsts | .vsel | .mand | .mor | .mxor | .mnot => true
    | _ => false
/-- After this word control cannot pass to the next (R68). -/
def neverNext (op : Op) (w : Nat) : Bool :=
  match op with
  | .jal | .jalr => fld w 7 5 == 0
  | .mret | .sret | .tend | .migrate => true
  | _ => false

/-! A range. -/

/-- What a scan is about: the profile, the words, the first word's index, the code words of the memory,
whether the object is signed, and its live-mask entries. -/
structure ScanEnv where
  prof   : Profile
  words  : List W32
  first  : Nat
  limit  : Nat
  signed : Bool
  nlive  : Nat

namespace ScanEnv
def n (E : ScanEnv) : Nat := E.words.length
def word (E : ScanEnv) (j : Nat) : Nat := ((E.words[j]?).getD 0).toNat
def op (E : ScanEnv) (j : Nat) : Option Op := (E.words[j]?).bind scanOp
def isOp (E : ScanEnv) (j : Nat) (o : Op) : Bool := E.op j == some o
/-- The word stands directly after an FMT. -/
def prefixed (E : ScanEnv) (j : Nat) : Bool := decide (0 < j) && E.isOp (j - 1) .fmt
/-- The word lies in the body of a VLOOP before it. -/
def inBody (E : ScanEnv) (j : Nat) : Bool :=
  (List.range (min j 16)).any fun i => E.isOp (j - 1 - i) .vloop && decide (i < fld (E.word (j - 1 - i)) 20 5 + 1)
end ScanEnv

/-- A failure of word j under a reason, under a condition. -/
def fails (b : Bool) (j r : Nat) : List (Nat × Nat) := if b then [(j, r)] else []

/-- Prefix framing and payload at an FMT (R62, R63, R168): the word it stands before carries the faults of
the combination. -/
def fmtFails (E : ScanEnv) (j : Nat) : List (Nat × Nat) :=
  match E.op (j + 1) with
  | none => [(j, 3)]
  | some o =>
    let w := E.word (j + 1)
    match payloadOf (payloadAt (w32 (E.word j))) with
    | none => [(j, 3)]
    | some p =>
      if fld (E.word j) 15 3 != 0 || fld (E.word j) 7 5 != 0 || prefixUse o w == .plain then [(j, 3)]
      else fails (!prefixFits o w p) (j + 1) 3 ++ fails (oddPair o w p) (j + 1) 2
/-- A static target (R63, R68, R75, R77). One outside the range is not looked at for standing after an FMT: the scanner applies
its rules to the words of the range (DESIGN CHOICE, log 73). -/
def targetFails (E : ScanEnv) (j : Nat) (off : Int) : List (Nat × Nat) :=
  let t : Int := 4 * ((E.first + j : Nat) : Int) + off
  let k : Int := t / 4 - (E.first : Int)
  let inside := decide (0 ≤ k ∧ k < (E.n : Int))
  let bad := decide (t % 4 ≠ 0) || (if E.prof = .handler then !inside else decide (t < 0 ∨ 4 * (E.limit : Int) ≤ t))
  if bad then [(j, 7)]
  else if inside then fails (E.prefixed k.toNat) j 3 ++ fails (E.signed && !E.isOp k.toNat .sig) k.toNat 5
  else []
/-- A hardware loop (R57, R63, R68, R95, R146). -/
def loopFails (E : ScanEnv) (j : Nat) : List (Nat × Nat) :=
  let w := E.word j
  let eoff := fld w 22 10
  let soff := fld w 20 2
  let last := j + eoff
  let head := j + soff + 1
  if eoff ≤ soff ∨ E.n ≤ last then [(j, 10)]
  else
    fails ((match E.op last with | some o => isTransfer o || o == .fmt || o == .sig || o == .vloop | none => false) || E.inBody last) j 10
      ++ fails (E.isOp last .fmt || E.prefixed head) j 3
      ++ fails (E.signed && !E.isOp head .sig) head 5
      ++ fails (E.signed && !E.isOp (last + 1) .sig) (min (last + 1) (E.n - 1)) 5
/-- A VLOOP body (R146). -/
def vloopFails (E : ScanEnv) (j : Nat) : List (Nat × Nat) :=
  let len := fld (E.word j) 20 5 + 1
  let ok (b : Nat) : Bool := match E.op b with | some o => inVloop o (E.word b) | none => false
  fails (decide (E.n ≤ j + len) || E.isOp (j + len) .fmt || !((List.range len).all fun i => ok (j + 1 + i))) j 1
/-- Signature placement after a block-ending word (R68). -/
def blockFails (E : ScanEnv) (j : Nat) (o : Op) : List (Nat × Nat) :=
  if !E.signed || endKindOf o == 0 then []
  else if j + 1 < E.n then fails (!E.isOp (j + 1) .sig) (j + 1) 5
  else fails (!neverNext o (E.word j)) j 5
/-- The last word of a handler (R300). -/
def lastFails (E : ScanEnv) (j : Nat) (o : Op) : List (Nat × Nat) :=
  fails (E.prof == .handler && j + 1 == E.n && !(o == .msgret || (o == .jal && fld (E.word j) 7 5 == 0))) j 6

/-- Every failure found at word j (DEDUCED, log 35). -/
def wordFails (E : ScanEnv) (j : Nat) : List (Nat × Nat) :=
  match E.op j with
  | none => [(j, 1)]
  | some o =>
    let w := E.word j
    fails (!inProfile E.prof o w) j 6 ++ fails (!banksFit o w) j 2
      ++ (if o = .fmt then fmtFails E j else fails (prefixUse o w == .needs && !E.prefixed j) j 3)
      ++ (match staticOff o w with | some d => targetFails E j d | none => [])
      ++ fails (o == .safept && decide (E.nlive ≤ fld w 15 10)) j 4
      ++ (if o = .hloop then loopFails E j else [])
      ++ (if o = .vloop then vloopFails E j else [])
      ++ fails (o == .sig && (!E.signed || E.prefixed j)) j 5
      ++ blockFails E j o ++ lastFails E j o

/-- The lower of two failures: by word, then by reason (R75). -/
def lowerFail (a b : Nat × Nat) : Nat × Nat := if b.1 < a.1 ∨ (b.1 = a.1 ∧ b.2 < a.2) then b else a
/-- The lowest failure of a range: its word and reason (DEDUCED, log 35). -/
def scan (E : ScanEnv) : Option (Nat × Nat) :=
  match fails (E.signed && !E.isOp 0 .sig) 0 5 ++ ((List.range E.n).map (wordFails E)).flatten with
  | [] => none
  | x :: r => some (r.foldl lowerFail x)
/-- The result word of R75. -/
def scanResult (reason idx : Nat) : Word := word (2 ^ 63 + reason * 2 ^ 48 + idx % 2 ^ 16)

/-! Commits (R73, R74, R101). -/

/-- Words first .. first+count-1 of a core's code. -/
def codeRange (s : State) (c first count : Nat) : List W32 := (List.range count).map fun i => w32 (s.loadN (codeLoc c (first + i)) 4)
/-- The range as the scanner of core c sees it. -/
def coreScan (s : State) (c first count : Nat) (signed : Bool) (nlive : Nat) : Option (Nat × Nat) :=
  scan { prof := if isWorker c then .worker else .mordant, words := codeRange s c first count, first := first
         limit := codeWords c, signed := signed, nlive := nlive }
/-- Words of a range lose their executable attribute. -/
def clearExec (C : Core) (first count : Nat) : Core :=
  { C with exec := (List.range count).foldl (fun m i => SMap.del m (first + i)) C.exec }
/-- Words of a range become executable and signed or not. -/
def setExec (C : Core) (first count : Nat) (signed : Bool) : Core :=
  { C with
    exec := (List.range count).foldl (fun m i => SMap.put m (first + i) true) C.exec
    signed := (List.range count).foldl (fun m i => SMap.set false m (first + i) signed) C.signed }
/-- A record enters the code-object store (R101). -/
def addObject (C : Core) (o : CodeObj) : Core :=
  let meets (q : CodeObj) : Bool := decide (q.first < o.first + o.count ∧ o.first < q.first + q.count)
  let C := (C.objs.filter meets).foldl (fun C q => clearExec C q.first q.count) { C with objs := C.objs.filter fun q => !meets q }
  let C := if 64 ≤ C.objs.length then
      (match C.objs with
       | q :: r => clearExec { C with objs := r } q.first q.count
       | [] => C)
    else C
  { C with objs := C.objs ++ [o] }
/-- A range is admitted: recorded, its words executable. -/
def acceptObj (C : Core) (o : CodeObj) (signed : Bool) : Core := setExec (addObject C o) o.first o.count signed

/-- R73, R74. -/
def execCodecmt (rd rs1 : BitVec 5) (s : State) : Host.Outcome State Fault Refusal :=
  let a := s.x rs1
  let c := coreOf s.cur
  let own := match placeNow s a with | .own off => decide (off + 32 ≤ padSize c) | _ => false
  let s1 := retireWith s fun H => { H with commit := some rd.toNat }
  finish s (.all [legal s (s.me.mode != .U), need own 5 a, armedW s rd, ready s.me.commit.isNone])
    (s1.modCore c fun C => { C with commits := C.commits ++ [{ hart := s.cur, rd := rd.toNat, desc := a }] })

/-- The oldest commit ends: its result lands in rd (R61). -/
def endCommit (s : State) (c : Nat) (q : Commit) (v : Word) : State :=
  let s := s.modCore c fun C => { C with commits := C.commits.tail }
  s.modHart q.hart fun H => if H.commit = some q.rd then { endWfm (landX H q.rd v) with commit := none } else H
/-- The location of a descriptor's or table's address in the memory of core c. -/
def descOff (s : State) (c : Nat) (a : Word) : Option Nat :=
  match placeOf s (hartAt c 0) none a with
  | .own off => some off
  | _ => none
/-- A descriptor is valid (R73, R75). -/
def descOk (s : State) (c : Nat) (l : List Byte) : Bool :=
  let n := leAt l 16 2
  let table := match descOff s c (word (leAt l 8 8)) with | some off => off % 16 == 0 && decide (off + 16 * n ≤ padSize c) | none => false
  leAt l 6 1 / 2 == 0 && leAt l 7 1 == 0 && leAt l 18 14 == 0 && decide (1 ≤ leAt l 2 2)
    && decide (leAt l 0 2 + leAt l 2 2 ≤ codeWords c) && decide (n ≤ 1024) && (n == 0 || table)
/-- R74: the scanner takes the oldest commit. One that ends here, with 0x0B or 0x08, does not empty the prefetch buffers: the
pseudocode stops before it says so (DESIGN CHOICE, log 74). -/
def execCodeScanStart (c : Nat) (s : State) : Host.Outcome State Fault Refusal :=
  match (s.core c).commits with
  | [] => .next s
  | q :: r =>
    if q.started then .next s
    else
      let loc := padBase c + (descOff s c q.desc).getD 0
      let s := scrub s loc 32 false
      let l := s.mem.readBytes loc 32
      if (poisonedAt s loc 32).isSome then .next (endCommit s c q (scanResult 11 0))
      else if !descOk s c l then .next (endCommit s c q (scanResult 8 (leAt l 0 2)))
      else
        let first := leAt l 0 2
        let count := leAt l 2 2
        let signed := leAt l 6 1 % 2 == 1
        let n := leAt l 16 2
        let q := { q with
          started := true, bad := coreScan s c first count signed n, first := first, count := count, id := leAt l 4 2
          signed := signed, table := word (leAt l 8 8), entries := n }
        .next (s.modCore c fun C => { clearExec C first count with commits := q :: r })
/-- R74, R75: the scan completes. -/
def execCodecmtCompletion (c : Nat) (s : State) : Host.Outcome State Fault Refusal :=
  match (s.core c).commits with
  | [] => .next s
  | q :: _ =>
    if !q.started then .next s
    else
      let (v, s) := match q.dirty, q.bad with
        | some w, _ => (scanResult 9 w, s)
        | none, some (j, r) => (scanResult r (q.first + j), s)
        | none, none =>
          (0, s.modCore c fun C => acceptObj C { first := q.first, count := q.count, id := q.id, table := q.table, entries := q.entries } q.signed)
      let s := endCommit s c q v
      .next ((hartsOf c).foldl (fun s h => s.modHart h fun H => { H with prefetch := [] }) s)

/-! Handlers (R77, R300). -/

/-- The failure of a handler's words: reason and word index. -/
def handlerScan (words : List W32) : Option (Nat × Nat) :=
  if words.isEmpty || decide (24 < words.length) then some (0, 8)
  else scan { prof := .handler, words := words, first := 0, limit := 64, signed := false, nlive := 0 }
/-- R300: a placed message is admitted, or dropped with an error record of kind 1. -/
def execHandlerScan (c slot : Nat) (s : State) : Host.Outcome State Fault Refusal :=
  match SMap.find? (s.core c).inbox slot with
  | some e =>
    if e.scanned || decide (28 ≤ slot) then .next s
    else
      (match handlerScan ((List.range e.count).map fun i => w32 (s.loadN (slotLoc c slot + 4 * i) 4)) with
       | none => .next (s.modCore c fun C => { C with inbox := SMap.put C.inbox slot { e with scanned := true } })
       | some (j, r) => .next (sendErrRec (freeInSlot s c slot) c e 1 r j))
  | none => .next s

end Sys2Proof.Machine
end

