-- ==== Sys2Proof/Machine/Contain.lean ====
section
/-! DEFINITION. Containment and restart of a core (R189, R407 to R411) and the retirement of units in
service (R188, R412). -/

namespace Sys2Proof.Machine
open Sys2Proof

/-! What is still in flight from a core that is sealed (R409). -/

/-- A packet of a sealed core goes on as a packet of no hart, so that its answer reaches none. -/
def orphanPkt (g : Nat) (p : Packet) : Packet := { p with hart := devHart g }
/-- What becomes of packet p of core c: answers and error records are discarded, contexts and task traffic
go on, and every other request is performed or not, as a free value decides. -/
def orphan (c : Nat) (free : BitVec 512) (i : Nat) (p : Packet) : Option Packet :=
  match p.body with
  | .reply _ _ _ _ => if coreOf p.hart = c ∧ p.hart < 65536 then none else some p
  | .errorRecord h _ _ _ _ _ => if coreOf h = c ∧ h < 65536 then none else some p
  | .mem _ _ _ _ | .deposit _ _ | .handler _ _ _ _ _ | .channel _ _ _ _ _ _ _ | .mcw _ _ _ _ _ =>
    if coreOf p.hart ≠ c ∨ 65536 ≤ p.hart then some p
    else match p.body with
      | .deposit t _ => if t / 2 ^ 60 = 9 ∨ free.getLsbD (i % 512) then none else some (orphanPkt (cluOf c) p)
      | _ => if free.getLsbD (i % 512) then none else some (orphanPkt (cluOf c) p)
  | _ => if coreOf p.hart = c ∧ p.hart < 65536 then some (orphanPkt (cluOf c) p) else some p
/-- A list of packets after the seal of core c. -/
def orphans (c : Nat) (free : BitVec 512) (l : List Packet) : List Packet :=
  ((List.range l.length).zip l).filterMap fun (i, p) => orphan c free i p
/-- Packets in flight, parked and open elsewhere lose the harts of core c (R409). -/
def orphanAll (s : State) (c : Nat) : State :=
  let (b, s) := s.draw
  let mine (p : Packet) : Bool := coreOf p.hart == c && decide (p.hart < 65536)
  { s with
    net := orphans c b s.net
    dies := s.dies.map (fun (x : Nat × Die) =>
      (x.1, { x.2 with parked := x.2.parked.filterMap fun e => (orphan c b (e.2.id) e.2).map fun p => (e.1, p) }))
    cores := s.cores.map (fun (x : Nat × Core) =>
      (x.1, { x.2 with feWait := if x.1 = c then x.2.feWait else x.2.feWait.filter (fun p => !mine p)
                       deposits := if x.1 = c then x.2.deposits else x.2.deposits.map fun p => if mine p then orphanPkt (cluOf c) p else p }))
    pkg := { s.pkg with
      ports := s.pkg.ports.map (fun (x : Nat × Port) =>
        (x.1, { x.2 with peers := x.2.peers.map (fun (y : Nat × Peer) => (y.1, { y.2 with opens := y.2.opens.filter fun p => !mine p })) })) } }

/-- Full-empty waiters of the sealed core are answered with REMOTE_ERROR (R199, R409). -/
def refuseWaiters (s : State) (c : Nat) : State :=
  let l := (s.core c).feWait
  let s := s.modCore c fun C => { C with feWait := [] }
  l.foldl (fun s q => putBackAt s (errReply q 56) (cluOf c)) s

/-! The seal. -/

/-- A hart of a sealed core: nothing of its work is left, and it issues nothing. -/
def sealHart (H : Hart) : Hart :=
  { freeHart H with free := false, armed := [], streams := [], bq := [], deque := [], handler := none, prefetch := [], commit := none }
/-- The task of a hart of the sealed core is lost (R274). -/
def loseTask (s : State) (h : Nat) : State :=
  match (s.hart h).task with
  | none => s
  | some T => loseWork (dropFrame (dropCost s h) h) (cluOfHart h) T.trec T.launch T.slot T.key T.group false
/-- The resume records of core c leave the cluster queue and are lost (R409). -/
def loseResumes (s : State) (c : Nat) : State :=
  let g := cluOf c
  let mine (q : QEnt) : Bool := match q.resume with | some (k, _) => k == c | none => false
  let l := (s.cluster g).queue.filter mine
  let s := s.modCluster g fun G => { G with q := G.q - (l.map queuedCost).sum, queue := G.queue.filter fun q => !mine q }
  l.foldl (fun s q => match q.resume with
    | some (_, T) => loseWork s g T.trec T.launch T.slot T.key T.group false
    | none => s) s
/-- Copies of the sealed core end without effect. -/
def dropCopies (s : State) (c : Nat) : State :=
  s.modCluster (cluOf c) fun G =>
    let first := match G.copyQ with | q :: _ => coreOf q.hart == c && !q.fill | [] => false
    let G := if first then clearRefused { G with copyFrom := none } (engIndex .copy) else G
    { G with copyQ := G.copyQ.filter (fun q => coreOf q.hart != c), engGrant := G.engGrant.filter fun (_, k) => k != c % 16 }

/-- Core c is sealed (R409; DESIGN CHOICE, log 19). -/
def sealCore (s : State) (c : Nat) : State :=
  if (s.core c).isSealed then s
  else
    let g := cluOf c
    let harts := hartsOf c
    let C := s.core c
    let s := refuseDeposits (refuseWaiters s c) c fun _ => true
    let s := dropCopies (dropSparse (dropMatrix s c) c) c
    let s := loseResumes (harts.foldl loseTask s) c
    let s := (C.arrQ ++ C.spill).foldl (fun s x => loseCtx s g x) s
    let s := harts.foldl (fun s h => s.modHart h sealHart) s
    let s := s.modCore c fun C =>
      { C with isSealed := true, inbox := [], locks := [], arrQ := [], spill := [], frames := [], commits := [], streak := 0 }
    let s := s.modCluster g fun G =>
      { G with keep := G.keep.map fun k => match k.hart with
          | some h => if coreOf h = c then { k with hart := none } else k
          | none => k }
    let s := s.modPkg fun P =>
      { P with
        barriers := P.barriers.map fun b => { b with harts := b.harts.filter fun h => coreOf h != c }
        launches := P.launches.map fun (n, L) => (n, if L.contained.contains c then L else { L with contained := L.contained ++ [c] }) }
    barrierCheck (orphanAll s c)
/-! The restart (R410). -/

/-- A region of the byte memory reads 0 again, and its granules are empty and clear. -/
def wipeMem (s : State) (lo n : Nat) : State :=
  { s with
    mem := s.mem.filter (fun (x : Nat × Byte) => decide (x.1 < lo ∨ lo + n ≤ x.1))
    gran := s.gran.filter fun (x : Nat × GBits) => decide (x.1 * 16 < lo ∨ lo + n ≤ x.1 * 16) }
/-- Core c at reset, unsealed unless it is retired (R412; DEDUCED, log 19), with what R410 keeps, and its n words of firmware
admitted. -/
def restartCore (s : State) (c n : Nat) : State :=
  let C := s.core c
  let K : Core := { isSealed := C.isRetired, banks := C.banks, members := C.members, isRetired := C.isRetired, seals := C.seals }
  let s := (wipeMem s (padBase c) (2 ^ 17)).setCore c (acceptObj K { first := 0, count := n, id := 0, table := 0, entries := 0 } false)
  (hartsOf c).foldl (fun s h => s.setHart h {}) s
/-- The result word of the scan of a core's firmware, if it fails. -/
def firmwareFault (s : State) (c n : Nat) : Option Word := (coreScan s c 0 n false 0).map fun (j, r) => scanResult r j
/-- R408, R410: a failing scan leaves the core as it was (R7). -/
def execCrestart (rs1 : BitVec 5) (s : State) : Host.Outcome State Fault Refusal :=
  let w := s.x rs1
  let v := w.toNat
  let c := coreAt (cluOfHart s.cur) (v % 16)
  let n := v / 2 ^ 16
  let bad := firmwareFault s c n
  finish s (.all [legal s (s.me.mode == .M),
      need (decide (v / 16 % 2 ^ 12 = 0 ∧ 1 ≤ n ∧ n ≤ 8192)) 7 w,
      need ((s.core c).isSealed && (s.core c).lostG.isNone) 7 w,
      (match bad with | some r => .trap 7 r | none => .ok)])
    (restartCore (retire s s.cur) c n)

/-! Repair in service (R188, R189, R412). -/

/-- The saffron controller records a retirement of a kind (0 bank, 1 core, 2 cluster, 3 die, 4 channel,
5 port, 6 lane) and unit in its non-volatile store. -/
def record (s : State) (kind unit : Nat) : State :=
  s.modPkg fun P => { P with nv := if P.nv.contains (kind, unit) then P.nv else P.nv ++ [(kind, unit)] }
/-- The number of a bank of core c as a unit (DESIGN CHOICE, log 27). -/
def bankUnit (c b : Nat) : Nat := c * 512 + b
/-- Every granule of a parity group is poisoned. -/
def poisonGroup (s : State) (c G : Nat) : State :=
  (List.range 256).foldl (fun s i => s.setPoi (padBase c + ((i / 8) * 256 + 8 * G + i % 8) * 16) true) s
/-- The parity group of a bank: data banks 0 to 255, parity banks 256 to 287. -/
def bankGroup (b : Nat) : Nat := if b < 256 then b / 8 else b - 256
/-- Every queued and running record of a cluster is lost, and the cluster is retired (R274, R412). -/
def retireCluster (s : State) (g : Nat) : State :=
  if (s.cluster g).isRetired then s
  else
    let s := (coresOf g).foldl sealCore s
    let q := (s.cluster g).queue
    let tiles := (s.cluster g).groups
    let s := q.foldl (fun s e => if e.group.isSome then s else loseWork s g e.trec e.launch e.slot e.key none false) s
    let s := tiles.foldl (fun s (_, T) => if T.alive then sendDev s g (match launchOf s T.launch with | some L => L.trec.slot | none => 0)
      (launchKey s T.launch) (.lost (keyOfRec T.trec) T.launch false) else s) s
    let w := (s.cluster g).waiting
    let s := w.foldl (fun s p => match p.body with | .task r _ n _ _ => loseWork s g r n (p.slot.getD 0) p.key none false | _ => s) s
    barrierCheck ((record s 2 g).modCluster g fun G => { G with isRetired := true, q := 0, queue := [], groups := [], waiting := [] })
/-- R412: the cluster's Mordant core or router fails, or 8 of its cores are retired. -/
def execClusterFailure (clu : Nat) (s : State) : Host.Outcome State Fault Refusal := .next (retireCluster s clu)
/-- Eight retired cores retire their cluster (R412). -/
def clusterRule (s : State) (g : Nat) : State :=
  if 8 ≤ ((coresOf g).filter fun k => (s.core k).isRetired).length then retireCluster s g else s
/-- A core is retired: it stays sealed; eight of them retire their cluster. -/
def retireCore (s : State) (c : Nat) : State :=
  clusterRule (record ((sealCore s c).modCore c fun C => { C with isRetired := true }) 1 c) (cluOf c)
/-- Core c is contained (R409). With its third containment it is retired, if the three lie within 2^34 cycles, as a free value
says (R412; DESIGN CHOICE, log 27). -/
def containCore (s : State) (c : Nat) : State :=
  if (s.core c).isSealed then s
  else
    let s := (sealCore s c).modCore c fun C => { C with seals := C.seals + 1 }
    if (s.core c).seals < 3 then s
    else let (b, s) := s.draw; if b.getLsbD 0 then retireCore s c else s
/-- A seal by the hardware: the Mordant core is notified (R407; DESIGN CHOICE, log 19). -/
def hardSeal (s : State) (c : Nat) : State := (containCore s c).modCore c fun C => { C with notified := true }

/-- R408, R409. -/
def execCseal (rs1 : BitVec 5) (s : State) : Host.Outcome State Fault Refusal :=
  let v := (s.x rs1).toNat
  finish s (.seq (legal s (s.me.mode == .M)) (need (decide (v ≤ 15)) 7 (s.x rs1)))
    (containCore (retire s s.cur) (coreAt (cluOfHart s.cur) v))

/-- A bank is retired; the second of a group loses the group and contains the core (R189). -/
def retireBank (s : State) (c b : Nat) : State :=
  let C := s.core c
  if C.banks.contains b || !decide (b < 288) then s
  else
    let lost := degraded C (bankGroup b)
    let s := record (s.modCore c fun C => { C with banks := C.banks ++ [b] }) 0 (bankUnit c b)
    if lost then hardSeal ((poisonGroup s c (bankGroup b)).modCore c fun C => { C with lostG := C.lostG <|> some (bankGroup b) }) c else s
/-- R188. -/
def execBankRetire (c bank : Nat) (s : State) : Host.Outcome State Fault Refusal :=
  .next (if isWorker c then retireBank s c bank else s)

/-- What stands where nothing carries it on is lost: its sender is answered with the error reply (R306, R384), or its hart
has the error reply in place of the answer; a record or a context has no acceptance any more (R274, R315). -/
def losePkt (s : State) (p : Packet) : State :=
  let r := senderRouter p.hart
  let s := dropPkt s p.id
  let live := !isForeign p.hart && !(s.die (dieOf r)).isFailed
  match p.body with
  | .mem _ _ _ _ | .deposit _ _ | .channel _ _ _ _ _ _ _ | .reply _ _ _ _ => if live then putBackAt s (errReply p 56) r else s
  | .handler t image _ _ _ => if live then putBackAt s { p with body := .errorRecord p.hart 3 0 0 t image } r else s
  | .mcw c off _ _ tag => if live then mcwFailed s p c off tag 56 else s
  | .context _ x _ => updKeep s (homeOf (keyOfRec x.trec)) x.trec.ser fun k => { k with accepted := none }
  | _ => s
/-- A packet stands on die d. -/
def onDie (s : State) (d : Nat) (p : Packet) : Bool := dieOf (standsAt s p) == d
/-- What waits on die d: at routers, stations, homes and gateways. -/
def heldOn (s : State) (d : Nat) : List Packet :=
  s.net.filter (onDie s d) ++ (s.die d).parked.map (fun e => e.2)
    ++ (s.cores.map fun (c, C) => if dieOf (cluOf c) = d then C.feWait ++ C.deposits else []).flatten
    ++ (s.pkg.ports.map fun (k, P) => if k / 2 = d then (P.peers.map fun (_, q) => q.opens).flatten else []).flatten
/-- A die is retired: its clusters answer nothing, its boundaries are infinite, and what was on it is lost. -/
def failDie (s : State) (d : Nat) : State :=
  if (s.die d).isFailed then s
  else
    let l := heldOn s d
    let s := (record s 3 d).modDie d fun D => { D with isFailed := true, parked := [], asks := [] }
    let s := { s with
      cores := s.cores.map fun (c, C) => (c, if dieOf (cluOf c) = d then { C with feWait := [], deposits := [] } else C)
      pkg := { s.pkg with ports := s.pkg.ports.map fun (k, P) => (k, if k / 2 = d then { P with down := true, peers := [] } else P) } }
    barrierCheck (l.foldl losePkt s)
/-- R412: a die misses the watchdog. -/
def execSaffronWatchdog (die : Nat) (s : State) : Host.Outcome State Fault Refusal :=
  .next (if die < 8 then failDie s die else s)

end Sys2Proof.Machine
end

