-- ==== Sys2Proof/Machine/Fabric.lean ====
section
/-! DEFINITION. Groups and multicast (R392 to R396), job-key entries (R397), key rotation (R398, R399), the
receiving side of links (R380 to R384) and the gateways' end-to-end delivery (R387 to R389). -/

namespace Sys2Proof.Machine
open Sys2Proof

/-! Groups (R395, R396). -/

/-- The groups of launch n as cluster g holds them, with group q replaced. -/
def groupsWith (s : State) (g n q : Nat) (l : List Nat) : List (List Nat) :=
  (List.range 256).map fun k => if k = q then l else (groupOf' s g n k).2
/-- Member word i of a list breaks R392 once it stands in group q: outside the region, a repeat, a core in
more than four groups, or beyond the total. -/
def memberBad (s : State) (L : LaunchRec) (g n q : Nat) (ws : List Nat) (i : Nat) : Bool :=
  match memberCore s L (ws.getD i 0) with
  | none => true
  | some c =>
    let others := groupsWith s g n q []
    (ws.take i).any (fun w => memberCore s L w == some c) || decide (4 ≤ (others.filter fun l => l.contains c).length)
      || decide (32768 < (others.map List.length).sum + i + 1)
/-- What reading GRPW's list does to stored errors (R188, R190). -/
def grpRead (s : State) (a : Word) : State :=
  let s := readRecord s a 16 16
  readRecord s a 16 (16 + 4 * min (leAt (recordBytes s a 16) 0 4) 8192)
/-- The fields of GRPW's list: COUNT, whether bytes 4 to 15 are 0, and the member words. -/
def grpList (s : State) (a : Word) : Nat × Bool × List Nat :=
  let h := recordBytes s a 16
  let n := leAt h 0 4
  let l := recordBytes s a (16 + 4 * min n 8192)
  (n, leAt h 4 12 == 0, (List.range (min n 8192)).map fun i => leAt l (16 + 4 * i) 4)
/-- An own address with n bytes after it in the own scratchpad. -/
def ownRoom (s : State) (a : Word) (n : Nat) : Bool :=
  match placeNow s a with
  | .own off => decide (off + n ≤ padSize (coreOf s.cur))
  | _ => false
/-- A rewrite of group q of launch n is under way. -/
def rewriting (s : State) (n q : Nat) : Bool :=
  s.harts.any fun (x : Nat × Hart) => match x.2.stalled with | some (.grpw m k _) => m == n && k == q | _ => false
/-- GRPW from its Retire() on: the new version travels to every cluster of the region. -/
def grpwSend (s : State) (T : Task) (L : LaunchRec) (q : Nat) (members : List Nat) : State :=
  let h := s.cur
  let g := cluOfHart h
  let v := ((groupOf' s g T.launch q).1 + 1) % 256
  let s := (retire s h).modHart h fun H => { H with stalled := some (.grpw T.launch q v) }
  (regionOf L).foldl (fun s k => sendAs s h (some T.slot) T.key (.group T.launch k q v members)) s
/-- R395. -/
def execGrpw (rs1 rs2 : BitVec 5) (s : State) : Host.Outcome State Fault Refusal :=
  let q := (s.x rs1).toNat
  let a := s.x rs2
  match taskLegal s, s.me.task.bind fun T => (launchOf s T.launch).map fun L => (T, L.trec) with
  | .ok, some (T, L) =>
    let s := if q ≤ 255 then grpRead s a else s
    let (n, clean, ws) := grpList s a
    let g := cluOfHart s.cur
    let bad := (List.range ws.length).find? (memberBad s L g T.launch q ws)
    finish s (.all [need (decide (q ≤ 255)) 5 (s.x rs1), recordPre s a 16, need (ownRoom s a (16 + 4 * min n 8192)) 5 a,
        poisonPre s a (16 + 4 * min n 8192), need (decide (n ≤ 8192) && clean) 5 a,
        (match bad with | some i => .trap 5 (a + word (16 + 4 * i)) | none => .ok),
        ready (!rewriting s T.launch q), ready (!outstanding s s.cur 3 false)])
      (grpwSend s T L q (ws.filterMap (memberCore s L)))
  | p, _ => finish s p s
/-- R395: a cluster installs the new version; the sending cluster's router does so last. -/
def execGroupInstall (p : Nat) (s : State) : Host.Outcome State Fault Refusal :=
  match atHand s p with
  | some q =>
    match q.body with
    | .group n clu k v members =>
      let others := s.net.any fun r => r.id != p && match r.body with | .group m _ j _ _ => m == n && j == k | _ => false
      if clu = cluOfHart q.hart ∧ others = true then .next s
      else .next ((dropPkt s p).modCluster clu fun G => { G with grpTab := SMap.put G.grpTab (n * 256 + k) (v, members) })
    | _ => .next s
  | none => .next s
/-- R395: every cluster holds the version, and every packet of an older one is delivered. -/
def execGrpwCompletion (h : Nat) (s : State) : Host.Outcome State Fault Refusal :=
  match (s.hart h).stalled with
  | some (.grpw n k v) =>
    let busy := s.net.any fun r =>
      match r.body with
      | .group m _ j _ _ => m == n && j == k
      | .mcw _ _ _ grp tag => grp == n * 256 + k && tag % 256 != v
      | _ => false
    .next (if busy then s else s.modHart h fun H => { H with stalled := none })
  | _ => .next s

/-- R396: the copies of one multicast packet. Its tag is the number of its first copy with the version (DEDUCED, log 47). -/
def mcwSend (s : State) (T : Task) (q o : Nat) (b : List Byte) : State :=
  let h := s.cur
  let (v, members) := groupOf' s (cluOfHart h) T.launch q
  let tag := s.nextId * 256 + v
  members.foldl (fun s c => send s h (.mcw c o b (T.launch * 256 + q) tag)) s
/-- R396. -/
def execMcw (rs1 rs2 : BitVec 5) (s : State) : Host.Outcome State Fault Refusal :=
  let a := s.x rs1
  let m := (s.x rs2).toNat
  let o := m / 2 ^ 16
  match taskLegal s, s.me.task with
  | .ok, some T =>
    let okDest := m / 2 ^ 8 % 2 ^ 8 == 0 && decide (o < 2 ^ 17) && o % 64 == 0
    let s := if okDest && lockPre s a 64 false == .ok then readRecord s a 64 64 else s
    finish s (.all [recordPre s a 64, need okDest 7 (s.x rs2),
        lockPre s a 64 false, poisonPre s a 64, ready (placesFor s s.cur 1)])
      (mcwSend (retire s s.cur) T (m % 256) o (recordBytes s a 64))
  | p, _ => finish s p s
/-- R396: a copy reaches a member: written, its granules full, or refused (DEDUCED, log 47). -/
def execMcwCopyArrival (p : Nat) (s : State) : Host.Outcome State Fault Refusal :=
  match atHand s p with
  | some q =>
    match q.body with
    | .mcw c off b _ _ =>
      if bankBlocked s q then .next s
      else
        (match homeErr s c q.key with
         | some e => .next (failPkt (if e = 29 then countDrop s c else s) q e)
         | none => .next (fillGranules (store (dropPkt s p) none (padBase c + off) b false) (padBase c + off) 64))
    | _ => .next s
  | none => .next s

/-! Job-key entries (R397). -/

/-- A membership entry from X(rs2). -/
def keyEntry (k : Nat) : Member := { key := k % 2 ^ 16, valid := k / 2 ^ 16 % 2 == 1, count := 0 }
/-- Write an entry of a table; one that is not valid is no entry. -/
def putKey (t : SMap Member) (i k : Nat) : SMap Member :=
  let m := keyEntry k
  if m.valid then SMap.put t i m else SMap.del t i
/-- R397. -/
def execJkset (rs1 rs2 : BitVec 5) (s : State) : Host.Outcome State Fault Refusal :=
  let t := (s.x rs1).toNat
  let k := (s.x rs2).toNat
  let gate := decide (2 ^ 63 ≤ t)
  let ok := decide (k < 2 ^ 17) &&
    (if gate then decide (t - 2 ^ 63 < 2 ^ 14) && t / 2 ^ 8 % 4 == 0 else decide (4 ≤ t ∧ t ≤ 7))
  let u := retire s s.cur
  let n := t / 2 ^ 10 % 16
  finish s (.seq (legal s (s.me.mode != .U)) (need ok 7 (s.x rs1)))
    (if gate then setPort u n { portOf u n with keys := putKey (portOf u n).keys (t % 256) k }
     else u.modCore (coreOf s.cur) fun C => { C with members := putKey C.members t k })

/-! Key rotation (R398, R399). -/

/-- R398. -/
def execKeyrot (rs1 : BitVec 5) (s : State) : Host.Outcome State Fault Refusal :=
  let p := (s.x rs1).toNat
  let P := portOf s p
  let u := (retire s s.cur).modHart s.cur fun H => { H with stalled := some (.keyrotAck p) }
  let L := linkOf u (portLink p)
  let u := setLink u (portLink p) { L with unacked := L.unacked.map fun f => { f with fresh := false } }
  finish s (.all [legal s (s.me.mode == .M), need (decide (p < 16)) 7 (s.x rs1), ready (P.staged.isSome && P.rotating.isNone) (.keyrot p)])
    (setPort u p { P with key := P.staged.getD 0, staged := none, gen := !P.gen, rotating := some false })
/-- The rotation of a port is complete, and the hart that asked goes on. -/
def endRotation (s : State) (k : Nat) : State :=
  let s := setPort s k { portOf s k with rotating := none }
  { s with harts := s.harts.map fun (x : Nat × Hart) => (x.1, if x.2.stalled = some (.keyrotAck k) then { x.2 with stalled := none } else x.2) }
/-- R399: the first flit of the new generation is acknowledged. -/
def execKeyrotCompletion (port : Nat) (s : State) : Host.Outcome State Fault Refusal :=
  .next (if (portOf s port).rotating = some true then endRotation s port else s)
/-- R398: the wait for a staged key passes fe_limit. -/
def execKeyrotTimeout (h : Nat) (s : State) : Host.Outcome State Fault Refusal :=
  match (s.hart h).stalled with
  | some (.keyrot p) => .next (if limitOf s h = 0 then s else takeTrap s h false 28 (word p))
  | _ => .next s
/-- R398: the saffron controller stages a port's next key. -/
def execKeyStaging (port key : Nat) (s : State) : Host.Outcome State Fault Refusal :=
  .next (if port < 16 then setPort s port { portOf s port with staged := some key } else s)

/-! The gateways (R387 to R391). -/

def setPeer (s : State) (k n : Nat) (q : Peer) : State :=
  let P := portOf s k
  setPort s k { P with peers := SMap.put P.peers n q }
def peerOf (s : State) (k n : Nat) : Peer := SMap.get {} (portOf s k).peers n
/-- The KIND and plane of a SACK packet (DESIGN CHOICE, log 22). -/
opaque sackKind : Nat
opaque sackPlane : Nat
/-- Send a SACK with BASE and the bitmap (R388). -/
def sendSack (s : State) (k n : Nat) : State :=
  let q := peerOf s k n
  let b := headerBytes 0 sackKind 1 0 0 0 (s.pkg.number % 4096 * 2 ^ 13) false true (n * 2 ^ 13) ++ toBytes 2 q.base ++ toBytes 8 q.bitmap.toNat
  let L := linkOf s (portLink k)
  setLink { s with nextId := s.nextId + 1 } (portLink k)
    { L with queue := L.queue ++ [{ id := s.nextId, cls := 0, vc := sackPlane % 4, flits := [(b ++ List.replicate 64 0).take 64] }] }
/-- BASE advances past every set bit at the bottom of the map. -/
def slideBase : Nat → Nat → BitVec 64 → Nat × BitVec 64
  | 0, base, m => (base, m)
  | k + 1, base, m => if m.getLsbD 0 then slideBase k ((base + 1) % 65536) (m >>> 1) else (base, m)
/-- A SACK covers an ESEQ. -/
def covered (base : Nat) (m : BitVec 64) (e : Nat) : Bool :=
  let d := (e + 65536 - base % 65536) % 65536
  decide (32768 ≤ d) || (decide (d < 64) && m.getLsbD d)
/-- A SACK of peer n on port k: the packets it covers leave the store (R388). -/
def takeSack (s : State) (k n base : Nat) (m : BitVec 64) : State :=
  let q := peerOf s k n
  setPeer s k n { q with store := q.store.filter fun (e, _, _) => !covered base m e }

/-- What an answer from another package becomes at home, at port k: the reply to the request it answers. -/
def answerHome (s : State) (k : Nat) (o : Packet) (host : Bool) (r : Reply) : State :=
  let back (b : Body) : State := putBackAt s { o with body := b } (portRouter k)
  match o.body with
  | .mem a _ sink _ => back (.reply a host sink r)
  | .channel ep hart _ _ _ reg _ => back (.reply (ep * 128 + hart * 32) false (.chan reg) r)
  | .deposit t _ | .handler t _ _ _ _ => back (.reply t false (.posted true) r)
  | _ => s
/-- A request from another package names an address of this one. -/
def homeBody : Body → Body
  | .mem a op sink _ => .mem a op sink (.at_ (joinLoc a))
  | b => b
/-- A packet from package n enters at port k (R391): its key is checked, an answer meets its request, and
everything else travels on as a packet of a foreign hart. -/
def deliverIn (s : State) (k n src shart key slot : Nat) (p : Packet) : State :=
  let P := portOf s k
  if !gateKey P key then setPort s k { P with drops := min 0xFFFFFFFF (P.drops + 1) }
  else
    let enter (h : Nat) (slot : Option Nat) (key : Nat) (b : Body) : State :=
      sendFrom s (portRouter k) { id := 0, hart := h, slot := slot, key := key, body := b }
    match p.body with
    | .reply _ host _ r =>
      (match (peerOf s k n).opens.find? fun o => o.id == p.id with
       | some o =>
         let q := peerOf s k n
         answerHome (setPeer s k n { q with opens := q.opens.filter fun x => x.id != p.id }) k o host r
       | none => s)
    | .beacon _ _ d e => enter (foreignHart n 0) none 0 (.beacon (portRouter k) (512 + k) d e)
    | b => enter (foreignHart n (src % 2 ^ 13 * 4 + shart)) (some slot) key (homeBody b)

/-- A whole packet from a peer, as bytes (R388). SACKs and beacons take no part in the end-to-end numbering (R400). -/
def gatewayTake (s : State) (k eseq : Nat) (bytes : List Byte) : State :=
  let h := leAt bytes 0 16
  let src := h / 2 ^ 44 % 2 ^ 25
  let n := src / 2 ^ 13
  if h / 2 ^ 104 % 2 ^ 8 = sackKind % 2 ^ 8 then takeSack s k n (leAt bytes 16 2) (BitVec.ofNat 64 (leAt bytes 18 8))
  else match wirePacket bytes with
  | none => s
  | some p =>
    let go (s : State) : State := deliverIn s k n src (h / 2 ^ 69 % 4) (h / 2 ^ 71 % 2 ^ 16) (h / 2 ^ 87 % 2 ^ 10) p
    match p.body with
    | .beacon _ _ _ _ => go s
    | _ =>
      let q := peerOf s k n
      let d := (eseq % 65536 + 65536 - q.base) % 65536
      if d < 64 ∧ q.bitmap.getLsbD d = false then
        let (base, m) := slideBase 64 q.base (q.bitmap ||| (1#64 <<< d))
        let s := setPeer s k n { q with base := base, bitmap := m, since := (q.since + 1) % 16 }
        go (if q.since + 1 = 16 then sendSack s k n else s)
      else if d < 64 ∨ 32768 ≤ d then sendSack s k n
      else s
/-- R388 (DESIGN CHOICE, log 38). -/
def execGatewayPacketArrival (port eseq : Nat) (bytes : List Byte) (s : State) : Host.Outcome State Fault Refusal :=
  .next (gatewayTake s port eseq bytes)
/-- R388: the period of the SACK passes while a bit is set. -/
def execSackTimer (port peer : Nat) (s : State) : Host.Outcome State Fault Refusal :=
  .next (if (peerOf s port peer).bitmap = 0 then s else sendSack s port peer)
/-- The operand that names a gateway's port and a peer: the port, plus 16 times the package number (DESIGN CHOICE, log 38). -/
def wayPort (n : Nat) : Nat := n % 16
def wayPeer (n : Nat) : Nat := n / 16
/-- R388. -/
def execSack (port base : Nat) (bitmap : BitVec 64) (s : State) : Host.Outcome State Fault Refusal :=
  .next (takeSack s (wayPort port) (wayPeer port) base bitmap)
/-- R388: an unacknowledged packet is sent again. -/
def execE2eResend (port eseq : Nat) (s : State) : Host.Outcome State Fault Refusal :=
  let (port, peer) := (wayPort port, wayPeer port)
  let q := peerOf s port peer
  match q.store.find? fun (e, _, k) => e == eseq && decide (k < 8) with
  | none => .next s
  | some (_, p, _) =>
    let s := setPeer s port peer { q with store := q.store.map fun (e, r, k) => if e = eseq then (e, r, k + 1) else (e, r, k) }
    .next (queueOut s (portLink port) eseq p)
/-- Route-table entries that name a retired port name another or none, as a free value says (R412; DESIGN CHOICE, log 27). -/
def reroute (s : State) (port : Nat) : State :=
  let (b, s) := s.draw
  let turn (d : Nat) (e : Nat × Nat) : Option (Nat × Nat) :=
    let n := b.toNat / 2 ^ (8 * d) % 16
    if e.2 ≠ port then some e else if b.getLsbD (8 * d + 7) || n == port then none else some (e.1, n)
  { s with dies := s.dies.map fun (d, D) => (d, { D with routes := D.routes.filterMap (turn d) }) }
/-- A port is retired (R412). -/
def retirePort (s : State) (port : Nat) : State := reroute (record s 5 port) port
/-- R389: after 8 resends the peer is unreachable; its stored packets are answered with an error reply. -/
def execPeerUnreachable (port peer : Nat) (s : State) : Host.Outcome State Fault Refusal :=
  let q := peerOf s port peer
  if !q.store.any (fun (_, _, k) => decide (8 ≤ k)) || q.unreachable then .next s
  else
    let stored := q.store.map fun (_, p, _) => p
    let s := setPeer s port peer { q with store := [], unreachable := true, opens := q.opens.filter fun o => !stored.any fun p => p.id == o.id }
    let s := s.modPkg fun P => { P with notices := (port, peer) :: P.notices }
    let s := stored.foldl (fun s p => if isForeign p.hart then s else failPkt { s with net := s.net ++ [p] } p 56) s
    .next (retirePort s port)
/-- R389: only the saffron controller resets a peer. -/
def execFabricPeerReset (port peer : Nat) (s : State) : Host.Outcome State Fault Refusal :=
  .next (if (peerOf s port peer).unreachable then setPeer s port peer {} else s)
/-- R412. -/
def execSpaustLaneFailure (port : Nat) (s : State) : Host.Outcome State Fault Refusal :=
  let P := portOf s port
  let n := P.lanesBad + 1
  let s := record (setPort s port { P with lanesBad := n, down := P.down || decide (2 ≤ n) }) 6 port
  .next (if 2 ≤ n then retirePort s port else s)

/-! Links (R380 to R384). -/

/-- Flits of the replay buffer from LSEQ n on go out again, under the key current now (R381, R399). -/
def replay (s : State) (l n : Nat) : State :=
  let L := linkOf s l
  match L.unacked.findIdx? fun f => f.lseq == n with
  | some i =>
    setLink s l
      { L with
        unacked := L.unacked.take i ++ (L.unacked.drop i).map fun f => { f with fresh := true }
        wire := L.wire ++ (L.unacked.drop i).map fun f => (f.id, wireFlit s l f.num f.flit) }
  | none => s
/-- A rotation is done once a flit sent under the new generation is acknowledged (R398). -/
def noteFresh (s : State) (l : Nat) (acked : List SentFlit) : State :=
  let k := spaustPort l
  let P := portOf s k
  if isSpaust l && P.rotating == some false && acked.any (fun f => f.fresh) then setPort s k { P with rotating := some true } else s
/-- Everything up to LSEQ n is acknowledged (R382). -/
def ackUpTo (s : State) (l n : Nat) : State :=
  let L := linkOf s l
  match L.unacked.findIdx? fun f => f.lseq == n with
  | some i => noteFresh (setLink s l { L with unacked := L.unacked.drop (i + 1) }) l (L.unacked.take (i + 1))
  | none => s
/-- A link-control flit with the current acknowledgement, as a NAK or not (R381, R382). -/
def sendControl (s : State) (l : Nat) (nak : Bool) : State :=
  let L := linkOf s l
  let w := controlWord (L.rxNext + 4095) L.txNext nak ((portOf s (spaustPort l)).gen && isSpaust l) false false 0 3
  setLink s l { L with wire := L.wire ++ [(0, wireFlit s l (controlNum w) (toBytes 8 w ++ List.replicate 64 0))] }

/-- A packet that an error reply, a record or a notice answers where it is lost (R384; DEDUCED, log 65). -/
def isAnswered : Body → Bool
  | .mem _ _ _ _ | .reply _ _ _ _ | .deposit _ _ | .handler _ _ _ _ _ | .channel _ _ _ _ _ _ _ | .mcw _ _ _ _ _ | .dec _ _ _ _
  | .task _ _ _ _ _ | .context _ _ _ => true
  | _ => false
/-- The packets of an end that the drop of its link loses: they have begun to leave and have not arrived. -/
def lostAt (s : State) (l : Nat) : List Packet :=
  s.net.filter fun p => SMap.find? s.paths p.id == some l && !(linkOf s l).queue.any fun o => o.id == p.id
/-- One end of a link that drops: its replay buffer and open contexts are discarded, and in the package the last live router
answers the packets it loses, and sends those that nothing answers again (R384). -/
def dropEnd (s : State) (l : Nat) : State :=
  let lost := lostAt s l
  let s := setLink s l { linkOf s l with up := false, prog := [], counts := [], due := [], unacked := [], wire := [], ctxs := [] }
  if isSpaust l then s else lost.foldl (fun s p => if isAnswered p.body then failPkt s p 56 else stand s p (routerOf l)) s
/-- The bridge channels of a die. -/
def dieLinks (d : Nat) : List Nat :=
  (((if d % 4 < 3 then (List.range 8).map (horiz d) else []) ++ (if 0 < d % 4 then (List.range 8).map (horiz (d - 1)) else []))
    ++ (List.range 8).map (vert (d % 4)))
/-- A die whose bridges have all dropped is retired (R412). -/
def dieRule (s : State) (l : Nat) : State :=
  if !isBridge l then s
  else (List.range 8).foldl (fun s d =>
    if (dieLinks d).contains (l / 2) && !(dieLinks d).any (bridgeUp s) then failDie s d else s) s
/-- A link drops, at both its ends (R384; DEDUCED, log 44). -/
def dropLink (s : State) (l : Nat) : State :=
  dieRule (if isSpaust l then dropEnd s l else dropEnd (dropEnd s l) (otherEnd l)) l

/-- The receive key of a port in its generation n (R399): keys are the saffron controller's (PRESUMED, log 7). -/
opaque rxKey : Nat → Nat → Nat
/-- The plaintext of an arriving flit, if its check passes, with the port's generation after it. -/
def openFlit (s : State) (l : Nat) (flit : List Byte) : Option (List Byte × Nat) :=
  if isSpaust l then
    let k := spaustPort l
    let P := portOf s k
    let w := leAt flit 0 4
    let num := if w % 4 = 3 then controlNum w else P.rxCounter
    let tryGen (g : Nat) : Option (List Byte × Nat) :=
      if w / 64 % 2 = g % 2 then (openSealed (rxKey k g) (ivOf k 1 num) flit).map fun f => (f, g) else none
    tryGen P.rxGen <|> tryGen (P.rxGen + 1)
  else if leAt flit 6 2 = crc16 (flit.take 6 ++ flit.drop 8) then some (flit, 0) else none
/-- A packet has wholly come through a link: on it goes from the router there, or is lost with its die (R383). -/
def arriveAt (s : State) (l id : Nat) : State :=
  match findPkt s id with
  | some p =>
    if SMap.find? s.paths id = some (otherEnd l) then
      (if (s.die (dieOf (routerOf l))).isFailed then losePkt s p else stand s p (routerOf l))
    else s
  | none => s
/-- A flit of packet `id` in LSEQ order joins its context (R380): a packet that a TAIL flit closes is delivered. -/
def joinContext (s : State) (l w id : Nat) (payload : List Byte) : State :=
  let L := linkOf s l
  let k := w % 4 * 4 + w / 4 % 4
  let head := w / 16 % 2 == 1
  let tail := w / 32 % 2 == 1
  let open_ := SMap.find? L.ctxs k
  if head == open_.isSome then dropLink s l
  else
    let fs := open_.getD [] ++ [payload]
    if tail then
      let s := setLink s l { L with ctxs := SMap.del L.ctxs k }
      let b := fs.flatten
      if isSpaust l then gatewayTake s (spaustPort l) (leAt b 14 2) b else arriveAt s l id
    else setLink s l { L with ctxs := SMap.put L.ctxs k fs }
/-- What link l brings next: the packet of the oldest flit on the wire, which leaves it; none where nothing can come. What
comes on Spaust comes from outside. -/
def offWire (s : State) (l : Nat) : Option (Nat × State) :=
  if isSpaust l then some (0, s)
  else
    let o := otherEnd l
    let L := linkOf s o
    match L.wire with
    | (id, _) :: r => some (id, setLink s o { L with wire := r })
    | [] => none
/-- R381: a link receives a flit. -/
def execFlitReceive (l : Nat) (flit : List Byte) (s : State) : Host.Outcome State Fault Refusal :=
  match offWire s l with
  | none => .next s
  | some (id, s) =>
    let L := linkOf s l
    if !L.up || flit.length != 72 then .next s
    else
      match openFlit s l flit with
      | none => .next (sendControl s l true)
      | some (f, g) =>
        let w := leAt f 0 8
        let ack := w / 2 ^ 20 % 4096
        let s := ackUpTo s l ack
        let s := if w / 128 % 2 = 1 then replay s l ((ack + 1) % 4096) else s
        if w % 4 = 3 then .next s
        else if w / 256 % 4096 ≠ L.rxNext then .next (sendControl s l true)
        else
          let s := setLink s l { linkOf s l with rxNext := (L.rxNext + 1) % 4096 }
          let s := if isSpaust l then
              let P := portOf s (spaustPort l)
              setPort s (spaustPort l) { P with rxGen := g, rxCounter := P.rxCounter + 1 }
            else s
          .next (joinContext s l w id (f.drop 8))
/-- R381: a NAK for an LSEQ acknowledges what is before it and makes the sender replay from it. -/
def execNak (l lseq : Nat) (s : State) : Host.Outcome State Fault Refusal :=
  .next (replay (ackUpTo s l ((lseq + 4095) % 4096)) l lseq)
/-- R382. -/
def execLinkControlFlit (l : Nat) (s : State) : Host.Outcome State Fault Refusal :=
  .next (if (linkOf s l).up then sendControl s l false else s)
/-- A number that stands for an end of a link. -/
def isLink (l : Nat) : Bool :=
  isBridge l || isSpaust l || (decide (1024 ≤ l ∧ l < 9216) &&
    match (l - 1024) / 4 % 4 with
    | 0 => decide (colOf (routerOf l) < 7)
    | 1 => decide (0 < rowOf (routerOf l))
    | 2 => decide (0 < colOf (routerOf l))
    | _ => decide (rowOf (routerOf l) < 7))
/-- R384. -/
def execLinkDrop (l : Nat) (s : State) : Host.Outcome State Fault Refusal := .next (if isLink l then dropLink s l else s)
/-- An end of a link comes up with its numbering begun again. -/
def raiseEnd (s : State) (l : Nat) : State := setLink s l { linkOf s l with up := true, txNext := 0, rxNext := 0 }
/-- R384: a link that is down comes up; on Spaust the sender's counter goes on from where a free value says, and a rotation
of the port is complete (R398; DESIGN CHOICE, log 22, 44). -/
def execLinkRetrained (l : Nat) (s : State) : Host.Outcome State Fault Refusal :=
  let L := linkOf s l
  if L.up || L.isRetired then .next s
  else if isSpaust l then
    let (b, s) := s.draw
    let k := spaustPort l
    let s := setPort (raiseEnd s l) k { portOf s k with rxCounter := b.toNat % 2 ^ 63 }
    .next (if (portOf s k).rotating.isSome then endRotation s k else s)
  else .next (raiseEnd (raiseEnd s l) (otherEnd l))
/-- An end of a channel is retired: what waits there takes another way (R384). -/
def retireEnd (s : State) (l : Nat) : State :=
  let L := linkOf s l
  let s := setLink s l { L with isRetired := true, queue := [] }
  L.queue.foldl (fun s o => match findPkt s o.id with | some p => stand s p (routerOf l) | none => s) s
/-- A bridge channel is retired (R412). -/
def retireChannel (s : State) (c : Nat) : State :=
  let s := dropLink s (2 * c)
  let s := setLink s (2 * c + 1) { linkOf s (2 * c + 1) with isRetired := true }
  dieRule (retireEnd (retireEnd (record s 4 c) (2 * c)) (2 * c + 1)) (2 * c)
/-- R384: a bridge channel that does not retrain is retired. -/
def execRetrainTimeout (l : Nat) (s : State) : Host.Outcome State Fault Refusal :=
  .next (if (linkOf s l).up || (linkOf s l).isRetired || !isBridge l then s else retireChannel s (l / 2))

end Sys2Proof.Machine
end

