-- ==== Sys2Proof/Machine/Fp.lean ====
section
/-! DEFINITION. The single-precision instructions (R39, R41, R92). -/

namespace Sys2Proof.Machine
open Sys2Proof

/-- Write F(rd) and the flags, and retire. -/
def fpu (rd : BitVec 5) (r : Nat × Nat) (s : State) : Host.Outcome State Fault Refusal :=
  finish s .ok (retireWith s fun H => setFlt H rd.toNat r)
/-- Write X(rd) and the flags, and retire. -/
def fpuX (rd : BitVec 5) (v : Word) (fl : Nat) (s : State) : Host.Outcome State Fault Refusal :=
  finish s (armedW s rd) (retireWith s fun H => setFx H rd.toNat v fl)
/-- The pattern in F(r). -/
def fpat (s : State) (r : BitVec 5) : Nat := (s.f r).toNat

/-- R92. -/
def execFmaddS (rd rs1 rs2 rs3 : BitVec 5) (rm : Rm) (s : State) : Host.Outcome State Fault Refusal :=
  fpu rd (fFma (rmOf s.me rm) false false (fpat s rs1) (fpat s rs2) (fpat s rs3)) s

/-- R92. -/
def execFmsubS (rd rs1 rs2 rs3 : BitVec 5) (rm : Rm) (s : State) : Host.Outcome State Fault Refusal :=
  fpu rd (fFma (rmOf s.me rm) false true (fpat s rs1) (fpat s rs2) (fpat s rs3)) s

/-- R92. -/
def execFnmsubS (rd rs1 rs2 rs3 : BitVec 5) (rm : Rm) (s : State) : Host.Outcome State Fault Refusal :=
  fpu rd (fFma (rmOf s.me rm) true false (fpat s rs1) (fpat s rs2) (fpat s rs3)) s

/-- R92. -/
def execFnmaddS (rd rs1 rs2 rs3 : BitVec 5) (rm : Rm) (s : State) : Host.Outcome State Fault Refusal :=
  fpu rd (fFma (rmOf s.me rm) true true (fpat s rs1) (fpat s rs2) (fpat s rs3)) s

/-- R92. -/
def execFaddS (rd rs1 rs2 : BitVec 5) (rm : Rm) (s : State) : Host.Outcome State Fault Refusal :=
  fpu rd (fAdd (rmOf s.me rm) (fpat s rs1) (fpat s rs2) false) s

/-- R92. -/
def execFsubS (rd rs1 rs2 : BitVec 5) (rm : Rm) (s : State) : Host.Outcome State Fault Refusal :=
  fpu rd (fAdd (rmOf s.me rm) (fpat s rs1) (fpat s rs2) true) s

/-- R92. -/
def execFmulS (rd rs1 rs2 : BitVec 5) (rm : Rm) (s : State) : Host.Outcome State Fault Refusal :=
  fpu rd (fMul (rmOf s.me rm) (fpat s rs1) (fpat s rs2)) s

/-- R92. -/
def execFdivS (rd rs1 rs2 : BitVec 5) (rm : Rm) (s : State) : Host.Outcome State Fault Refusal :=
  fpu rd (fDiv (rmOf s.me rm) (fpat s rs1) (fpat s rs2)) s

/-- R92. -/
def execFsqrtS (rd rs1 : BitVec 5) (rm : Rm) (s : State) : Host.Outcome State Fault Refusal :=
  fpu rd (fSqrt (rmOf s.me rm) (fpat s rs1)) s

/-- R92. -/
def execFsgnjS (rd rs1 rs2 : BitVec 5) (s : State) : Host.Outcome State Fault Refusal :=
  fpu rd (fSgnj 0 (fpat s rs1) (fpat s rs2), 0) s

/-- R92. -/
def execFsgnjnS (rd rs1 rs2 : BitVec 5) (s : State) : Host.Outcome State Fault Refusal :=
  fpu rd (fSgnj 1 (fpat s rs1) (fpat s rs2), 0) s

/-- R92. -/
def execFsgnjxS (rd rs1 rs2 : BitVec 5) (s : State) : Host.Outcome State Fault Refusal :=
  fpu rd (fSgnj 2 (fpat s rs1) (fpat s rs2), 0) s

/-- R92. -/
def execFminS (rd rs1 rs2 : BitVec 5) (s : State) : Host.Outcome State Fault Refusal :=
  fpu rd (fMinMax false (fpat s rs1) (fpat s rs2)) s

/-- R92. -/
def execFmaxS (rd rs1 rs2 : BitVec 5) (s : State) : Host.Outcome State Fault Refusal :=
  fpu rd (fMinMax true (fpat s rs1) (fpat s rs2)) s

/-- R92. -/
def execFcvtWS (rd rs1 : BitVec 5) (rm : Rm) (s : State) : Host.Outcome State Fault Refusal :=
  let r := fToInt (rmOf s.me rm) (-(2 ^ 31)) (2 ^ 31 - 1) (fpat s rs1)
  fpuX rd (sext32 (BitVec.ofInt 32 r.1)) r.2 s

/-- R92. -/
def execFcvtWuS (rd rs1 : BitVec 5) (rm : Rm) (s : State) : Host.Outcome State Fault Refusal :=
  let r := fToInt (rmOf s.me rm) 0 (2 ^ 32 - 1) (fpat s rs1)
  fpuX rd (sext32 (BitVec.ofInt 32 r.1)) r.2 s

/-- R92. -/
def execFcvtLS (rd rs1 : BitVec 5) (rm : Rm) (s : State) : Host.Outcome State Fault Refusal :=
  let r := fToInt (rmOf s.me rm) (-(2 ^ 63)) (2 ^ 63 - 1) (fpat s rs1)
  fpuX rd (wordZ r.1) r.2 s

/-- R92. -/
def execFcvtLuS (rd rs1 : BitVec 5) (rm : Rm) (s : State) : Host.Outcome State Fault Refusal :=
  let r := fToInt (rmOf s.me rm) 0 (2 ^ 64 - 1) (fpat s rs1)
  fpuX rd (wordZ r.1) r.2 s

/-- R92. -/
def execFcvtSW (rd rs1 : BitVec 5) (rm : Rm) (s : State) : Host.Outcome State Fault Refusal :=
  fpu rd (fOfInt (rmOf s.me rm) (lo32 (s.x rs1)).toInt) s

/-- R92. -/
def execFcvtSWu (rd rs1 : BitVec 5) (rm : Rm) (s : State) : Host.Outcome State Fault Refusal :=
  fpu rd (fOfInt (rmOf s.me rm) (lo32 (s.x rs1)).toNat) s

/-- R92. -/
def execFcvtSL (rd rs1 : BitVec 5) (rm : Rm) (s : State) : Host.Outcome State Fault Refusal :=
  fpu rd (fOfInt (rmOf s.me rm) (s.x rs1).toInt) s

/-- R92. -/
def execFcvtSLu (rd rs1 : BitVec 5) (rm : Rm) (s : State) : Host.Outcome State Fault Refusal :=
  fpu rd (fOfInt (rmOf s.me rm) (s.x rs1).toNat) s

/-- R92. -/
def execFmvXW (rd rs1 : BitVec 5) (s : State) : Host.Outcome State Fault Refusal :=
  fpuX rd (sext32 (s.f rs1)) 0 s

/-- R92. -/
def execFmvWX (rd rs1 : BitVec 5) (s : State) : Host.Outcome State Fault Refusal :=
  fpu rd ((lo32 (s.x rs1)).toNat, 0) s

/-- R92. -/
def execFeqS (rd rs1 rs2 : BitVec 5) (s : State) : Host.Outcome State Fault Refusal :=
  let r := fEq (fpat s rs1) (fpat s rs2)
  fpuX rd (boolW r.1) r.2 s

/-- R92. -/
def execFltS (rd rs1 rs2 : BitVec 5) (s : State) : Host.Outcome State Fault Refusal :=
  let r := fLt (fpat s rs1) (fpat s rs2)
  fpuX rd (boolW r.1) r.2 s

/-- R92. -/
def execFleS (rd rs1 rs2 : BitVec 5) (s : State) : Host.Outcome State Fault Refusal :=
  let r := fLe (fpat s rs1) (fpat s rs2)
  fpuX rd (boolW r.1) r.2 s

/-- R92. -/
def execFclassS (rd rs1 : BitVec 5) (s : State) : Host.Outcome State Fault Refusal :=
  fpuX rd (word (fClass (fpat s rs1))) 0 s

end Sys2Proof.Machine
end

