-- ==== Sys2Proof/Machine/Regs.lean ====
section
/-! DEFINITION. Steps on registers that no word of a hart makes: taking an interrupt (R103 to R106), the
timer (R110), accesses through the core window by the saffron controller (R8, R25, R27, R28, R163,
R164), and what the hart firmware does with a trap that reaches M mode (R403 to R406). -/

namespace Sys2Proof.Machine
open Sys2Proof

/-! Interrupts. -/

/-- The task of the hart is being ended by the host: it issues nothing (R420). -/
def beingEnded (s : State) (H : Hart) : Bool :=
  match H.task with
  | some T => (match launchOf s T.launch with | some L => L.killed | none => false)
  | none => false
/-- The firmware of a hart is ending its task: its words go on when that is done (R405). -/
def faultEnding (H : Hart) : Bool := H.fw && H.ending
/-- Hart h belongs to a core that runs (R183, R409, R412). -/
def coreRuns (s : State) (h : Nat) : Bool :=
  !(s.core (coreOf h)).isSealed && !coreGone s (coreOf h) && !beingEnded s (s.hart h) && !faultEnding (s.hart h)
/-- The hart stands at a boundary that admits an interrupt: it is not between tasks, no held instruction is out, no wait after
Retire() holds it, and a VLOOP stands between passes (R104, R145; DEDUCED, log 18). -/
def atBoundary (s : State) (h : Nat) : Bool :=
  let H := s.hart h
  coreRuns s h && H.held.isNone && mayLeave H && !H.free && (match H.vloop with | some v => v.at_ == 0 | none => true)
/-- A loop CSR or mnstatus of the hart holds an uncorrectable error: what reads it contains the core (R102). -/
def ownBroken (H : Hart) : Bool := (ownFlaws H).any fun e => e.2
/-- Correctable errors of the loop CSRs and mnstatus are repaired (R102). -/
def repairOwn (H : Hart) : Hart := repairRegs H ((ownFlaws H).map fun e => e.1)
/-- The hart as an interrupt finds it: its own state repaired, a VLOOP between passes at its own word (R102, R145). -/
def interrupted (H : Hart) : Hart :=
  let H := repairOwn H
  match H.vloop with | some v => { H with pc := v.pc } | none => H
/-- Interrupt n is taken (R104, R106). -/
def takeInterrupt (s : State) (h n : Nat) : State :=
  if ownBroken (s.hart h) then hardSeal s (coreOf h)
  else takeTrap ((withdrawLease s h).modHart h interrupted) h true n 0
/-- R106: an enabled pending interrupt is taken at a boundary. -/
def execTrapEntry (h : Nat) (s : State) : Host.Outcome State Fault Refusal :=
  match dueInterrupt s h with
  | some n => .next (if atBoundary s h then takeInterrupt s h n else s)
  | none => .next s

/-! The timer. -/

/-- R110: the count reaches stimecmp, and one cycle more passes. A core whose counter already stands
beyond it has LTIP set; a comparand of all ones is not reached (DESIGN CHOICE, log 6). -/
def execLocalTimer (h : Nat) (s : State) : Host.Outcome State Fault Refusal :=
  let t := (s.hart h).csr.stimecmp.toNat
  let c := coreOf h
  .next (if (s.core c).isSealed || decide (t + 1 = 2 ^ 64) then s
    else advance s c (t + 1))
/-- R110: LTIP follows the comparison, so a greater value clears it. -/
def execStimecmpWrite (h : Nat) (v : BitVec 64) (s : State) : Host.Outcome State Fault Refusal :=
  .next (csrWrite s h 0x14D v)

/-! Register writes and the core window from the saffron controller. -/

/-- R163: a written 0 is kept as 1. -/
def execSrseedWrite (h : Nat) (v : BitVec 64) (s : State) : Host.Outcome State Fault Refusal :=
  .next (csrWrite s h 0x802 v)
/-- The controller's access read a value, or met a cause. -/
def latched (s : State) (v : Nat ⊕ Word) : State := s.modPkg fun P => { P with latch := some v }
/-- R164: an access of cvamax, cvamax_flags or srseed of a hart waits for the hart's conversions and drains. -/
def execCvamaxAccess (h : Nat) (csr : BitVec 12) (wr : Option (BitVec 64)) (s : State) : Host.Outcome State Fault Refusal :=
  let n := csr.toNat
  if !decide (0x800 ≤ n ∧ n ≤ 0x802) then .next s
  else if csrWaits s h n then .next (passTime s (coreOf h))
  else match wr with
    | some v => .next (csrWrite s h n v)
    | none => .next (latched s (.inr (csrRead s h n)))
/-- The number that stands for the registers of BAR0 in REGISTER_WRITE (DESIGN CHOICE, log 29). -/
def barAgent : Nat := 65535
/-- A write to a register of BAR0 (R414): CMDRING and RSPRING are RW, the others RO. -/
def barWrite (s : State) (off : Nat) (v : Word) : State :=
  if off = 0x010 then s.modPkg fun P => { P with cmdRing := v }
  else if off = 0x018 then s.modPkg fun P => { P with rspRing := v }
  else s
/-- What a register of BAR0 reads as (R414). -/
def barRead (s : State) (off : Nat) : Word :=
  if off = 0x000 then 0x4C4E000800000001
  else if off = 0x008 then word s.pkg.state
  else if off = 0x010 then s.pkg.cmdRing
  else if off = 0x018 then s.pkg.rspRing
  else if off = 0x020 then s.pkg.hdmBase
  else 0
/-- R8: RO fields keep their value, WARL fields keep a legal one; a number no table holds, and a read-only
register, take nothing. -/
def execRegisterWrite (h : Nat) (csr : BitVec 12) (v : BitVec 64) (s : State) : Host.Outcome State Fault Refusal :=
  let n := csr.toNat
  if h = barAgent then .next (barWrite s n v)
  else .next (if !csrPresent n || csrReadOnly n then s
    else if csrWaits s h n then passTime s (coreOf h) else csrWrite s h n v)

/-- Block i of core c's window holds CSR n for a read or write (R27, R28). -/
def blockHas (c i n : Nat) (write : Bool) : Bool :=
  decide (i < (if isWorker c then 4 else 1)) && csrPresent n && !(write && csrReadOnly n)
/-- R28: a 64-bit access of a CSR through the window of core c, at window offset `addr`, as from M mode. -/
def execWindowCsrAccess (c addr : Nat) (wr : Option (BitVec 64)) (s : State) : Host.Outcome State Fault Refusal :=
  let i := (addr - 0x20000) / 0x8000
  let n := addr % 0x8000 / 8
  if addr % 8 ≠ 0 then .next (latched s (.inl (if wr.isSome then 6 else 4)))
  else if addr < 0x20000 || !blockHas c i n wr.isSome then .next (latched s (.inl (if wr.isSome then 7 else 5)))
  else if coreGone s c then .next (latched s (.inl 56))
  else if csrWaits s (hartAt c i) n then .next (passTime s c)
  else match wr with
    | some v => .next (csrWrite s (hartAt c i) n v)
    | none => .next (latched s (.inr (csrRead s (hartAt c i) n)))
/-- Bytes the window of core c has for memory that may be written (R27, R30). -/
def windowCode (c : Nat) : Nat := if isWorker c then 0x8000 else 0x10000
/-- R27, R30: a write of 1, 2, 4 or 8 bytes to code through the window of core c; the word written is no
longer executable. -/
def execWindowImemWrite (c off : Nat) (bytes : List (BitVec 8)) (s : State) : Host.Outcome State Fault Refusal :=
  let n := bytes.length
  if !([1, 2, 4, 8] : List Nat).contains n || off % n != 0 then .next (latched s (.inl 6))
  else if windowCode c < off + n then .next (latched s (.inl 7))
  else if coreGone s c then .next (latched s (.inl 56))
  else .next (store s none (windowLoc c off) bytes false)

/-! The hart firmware (R403 to R406; DESIGN CHOICE, log 24). -/

/-- ECALL from S mode with x17 = 0x4E45 on a hart that runs a task (R404). -/
def asksEnd (H : Hart) : Bool :=
  H.csr.mcause == 9 && Mode.ofCode (bits H.csr.mstatus 11 2) == .S && H.task.isSome && H.getX 17 == 0x4E45
/-- Any other environment call from S or U (R404): x10 = -1, and execution goes on after it. -/
def answerEcall (H : Hart) : Hart :=
  let H := if H.armed.contains 10 then H else landX H 10 (-1)
  leaveTrap { H with csr := { H.csr with mepc := H.csr.mepc + 4 } } true
/-- A trap in M mode that is none of the firmware's own breakpoints and calls: it leads to containment (R403). -/
def fatalTrap (H : Hart) : Bool :=
  H.csr.mcause == 26 ||
    (match Mode.ofCode (bits H.csr.mstatus 11 2) with | .M => H.csr.mcause != 3 && H.csr.mcause != 11 | _ => true)
/-- The next step of a fault end (R405): the streams are dissolved once their images are stored, and so on to the end. -/
def faultEnd (s : State) (h : Nat) : State :=
  let H := s.hart h
  if !H.ending then
    match unbindAllPre H with
    | .wait _ => s
    | _ => faultEndStart s h
  else if faultEndReady s h then faultEndFinish s h ((H.getX 10).toNat, H.csr.mepc, H.csr.mtval)
  else s
/-- What the firmware of worker hart h does with the exception for which M mode was entered. -/
def firmwareTurn (h : Nat) (s : State) : State :=
  let H := s.hart h
  if isMordant h || !H.fw || H.mode != .M || H.free || bit H.csr.mcause 63 || (s.core (coreOf h)).isSealed || coreGone s (coreOf h) then s
  else if H.csr.mcause == 8 || H.csr.mcause == 9 then
    if H.armed.contains 17 || (asksEnd H && H.armed.contains 10) then s
    else if asksEnd H then faultEnd s h
    else s.modHart h answerEcall
  else if fatalTrap H then containCore s (coreOf h)
  else s

end Sys2Proof.Machine
end

