-- ==== Sys2Proof/Machine/Host.lean ====
section
/-! DEFINITION. The host's side of the package (R413 to R421), measurement (R424), droop (R423) and
bring-up (R425). A command's arguments are 64-bit words in the order of R415's table (DESIGN CHOICE, log 28). -/

namespace Sys2Proof.Machine
open Sys2Proof

/-! Responses (R414, R415). -/

/-- Status codes of R415. -/
def stDone : Nat := 0
def stBad : Nat := 1
def stNone : Nat := 2
def stState : Nat := 3

/-- A response of 56 bytes: TAG, STATUS and results. -/
def responseBytes (tag status : Nat) (results : List Nat) : List Byte :=
  let l := toBytes 4 tag ++ toBytes 4 status ++ (results.map (toBytes 8)).flatten
  (l ++ List.replicate 56 0).take 56
/-- The ring descriptor at a host physical address, if the host answers and it is valid. -/
def hostRing (s : State) (a : Nat) : Option Ring :=
  match devRead s 0 0 true 1 a 32 with
  | (_, .ok l false) => if (parseRing l).valid then some (parseRing l) else none
  | _ => none
/-- Write one response into the response ring: none while it has no place. -/
def pushResponse (s : State) (r : List Byte) : Option State :=
  let a := s.pkg.rspRing.toNat
  if a = 0 then none
  else match hostRing s a with
    | some d =>
      if d.full then none
      else
        (match devWrites s 0 0 true 0
            [(d.slot d.pidx, r), (d.head d.pidx, toBytes 8 (d.phase d.pidx)), (a + 16, toBytes 4 (d.pidx + 1))] with
         | (s, .done) => some s
         | _ => none)
    | none => none
/-- Push waiting responses, oldest first, until one has no place. -/
def flushResponses : List (List Byte) → State → State
  | [], s => s.modPkg fun P => { P with responses := [] }
  | r :: rest, s =>
    match pushResponse s r with
    | some t => flushResponses rest t
    | none => s.modPkg fun P => { P with responses := r :: rest }
/-- Answer a command: its response goes behind those that wait. -/
def respond (s : State) (tag status : Nat) (results : List Nat) : State :=
  flushResponses (s.pkg.responses ++ [responseBytes tag status results]) s

/-! The commands: the state and the status after each, with its results. -/

/-- What a command answers; nothing yet when its work goes on. -/
structure Answer where
  st      : State
  status  : Nat
  results : List Nat := []
  later   : Bool := false

/-- R417 (DEDUCED, log 33). -/
def cmdAttach (s : State) (pasid mode root : Nat) : Answer :=
  if 2 ^ 20 ≤ pasid ∨ 3 < mode then { st := s, status := stBad }
  else if s.pkg.procs.any fun (_, p) => p.pasid == pasid then { st := s, status := stBad }
  else match (List.range 1024).find? fun k => (SMap.find? s.pkg.procs k).isNone with
    | some k => { st := s.modPkg fun P => { P with procs := SMap.put P.procs k { pasid := pasid, mode := mode, root := root } }
                  status := stDone, results := [k] }
    | none => { st := s, status := stNone }

/-- A launch of a slot is live. -/
def slotLaunched (s : State) (slot : Nat) : Bool := s.pkg.launches.any fun (_, L) => L.trec.slot == slot
/-- What a die holds for a slot that is detached: parked accesses answered, translations dropped (R418). -/
def detachDie (slot : Nat) (s : State) (d : Nat) : State :=
  let pages := (((s.die d).parked.filter fun (_, p) => p.slot == some slot).filterMap fun (_, p) =>
      match p.body with | .mem a _ _ _ => some (pageOf a) | _ => none)
    ++ ((s.die d).asks.filter fun (k, _) => k.1 == slot).map fun (k, _) => k.2
  (pages.eraseDups.foldl (fun s p => refusePage s d slot p) s).modDie d fun D =>
    { D with
      tlb := D.tlb.filter (fun t => t.slot != slot)
      pri := D.pri.filter (fun (_, k, _) => k != slot)
      ats := D.ats.filter fun (_, k, _) => k != slot }
/-- R418: a slot that is not live is a bad argument (DEDUCED, log 33). -/
def cmdDetach (s : State) (slot : Nat) : Answer :=
  if (SMap.find? s.pkg.procs slot).isNone then { st := s, status := stBad }
  else if slotLaunched s slot || s.pkg.rings.any (fun (_, _, k) => k == slot) then { st := s, status := stState }
  else
    { st := ((List.range 8).foldl (detachDie slot) s).modPkg fun P => { P with procs := SMap.del P.procs slot }
      status := stDone }

/-- A launch taken from host work ring n is live. -/
def ringLaunched (s : State) (n : Nat) : Bool := s.pkg.launches.any fun (_, L) => L.trec.hostRing == some n
/-- R419: the descriptor must be one with KIND 1 and CONS 1. -/
def cmdRingbind (s : State) (n slot desc : Nat) : Answer :=
  let fits := match hostRing s desc with | some d => d.kind == 1 && d.cons == 1 | none => false
  if 32768 ≤ n ∨ (SMap.find? s.pkg.procs slot).isNone ∨ fits = false then { st := s, status := stBad }
  else if (SMap.find? s.pkg.rings n).isSome && ringLaunched s n then { st := s, status := stState }
  else { st := s.modPkg fun P => { P with rings := SMap.put P.rings n (desc, slot) }, status := stDone }

/-- R420: no such live launch is a bad argument. -/
def cmdEndlaunch (s : State) (slot root lseq : Nat) : Answer :=
  match findLaunch s slot root lseq with
  | some n => { st := endLaunchNow s n, status := stDone }
  | none => { st := s, status := stBad }

/-- R412: kinds 0 bank, 1 core, 2 cluster, 3 die, 4 channel, 5 port; units as log 27 numbers them. -/
def cmdRetire (s : State) (kind unit : Nat) : Answer :=
  match kind with
  | 0 => if unit / 512 < 8192 ∧ unit % 512 < 288 then { st := retireBank s (unit / 512) (unit % 512), status := stDone }
         else { st := s, status := stBad }
  | 1 => if unit < 8192 then { st := retireCore s unit, status := stDone } else { st := s, status := stBad }
  | 2 => if unit < 512 then { st := retireCluster s unit, status := stDone } else { st := s, status := stBad }
  | 3 => if unit < 8 then { st := failDie s unit, status := stDone } else { st := s, status := stBad }
  | 4 => if unit < 80 then { st := retireChannel s unit, status := stDone } else { st := s, status := stBad }
  | 5 => if unit < 16 then { st := retirePort (setPort s unit { portOf s unit with down := true }) unit, status := stDone }
         else { st := s, status := stBad }
  | _ => { st := s, status := stBad }

/-! Firmware images. -/

/-- Words as bytes. -/
def firmwareBytes (l : List (BitVec 32)) : List Byte := (l.map fun w => toBytes 4 w.toNat).flatten
/-- A firmware image in the private memory of the Mordant core of cluster g. -/
def loadMordant (s : State) (g : Nat) (image : List Byte) : State :=
  let c := mordantCore g
  let s := wipeMem s (padBase c) (padSize c)
  { s with mem := s.mem.writeBytes (padBase c) image }
/-- Mordant core of cluster g starts with a firmware image, if its scanner accepts every word of it (R10, R58, R72; DEDUCED,
log 32): its words executable and unsigned, its hart at reset; the cycle counter, the reports and the cluster's registers go on. -/
def startMordant (s : State) (g : Nat) (image : List Byte) : Option State :=
  let c := mordantCore g
  let n := image.length / 4
  let t := loadMordant s g image
  let K : Core := { isSealed := false, cycle := (s.core c).cycle }
  if (firmwareFault t c n).isSome then none else some ((t.setCore c (setExec K 0 n false)).setHart (hartAt c 0) {})
/-- R412, R424: the image of 1 to 16,384 words is loaded, measured as index 2, and counted; one that the scanner rejects is a
bad argument (DEDUCED, log 32). -/
def cmdReload (s : State) (die clu addr len : Nat) : Answer :=
  if 8 ≤ die ∨ 64 ≤ clu ∨ len = 0 ∨ 65536 < len ∨ len % 4 ≠ 0 then { st := s, status := stBad }
  else if cluGone s (die * 64 + clu) then { st := s, status := stState }
  else match devRead s (die * 64 + clu) 0 true 1025 addr len with
    | (_, .ok l false) =>
      (match startMordant s (die * 64 + clu) l with
       | some t =>
         { st := t.modPkg fun P => { P with measured := SMap.put P.measured 2 (Config.sha384 l), reloads := P.reloads + 1 }
           status := stDone }
       | none => { st := s, status := stBad })
    | _ => { st := s, status := stBad }

/-! Checkpoints (R421). -/

/-- Whether checkpoint and restore may begin: no live launch, no bound ring, none under way (DEDUCED, log 30). -/
def chkIdle (s : State) : Bool := s.pkg.launches.isEmpty && s.pkg.rings.isEmpty && s.pkg.chk.isNone
/-- The arguments of CHKPT and RESTORE: a positive multiple of 64 GiB within device memory, whole lines. -/
def chkArgs (base len off : Nat) : Bool :=
  decide (0 < len) && len % 2 ^ 36 == 0 && decide (off + len ≤ 2 ^ 40) && off % 64 == 0 && base % 64 == 0
/-- R421: the copy begins; its response comes at its completion. -/
def cmdChk (s : State) (isRestore : Bool) (tag base len off : Nat) : Answer :=
  if !chkArgs base len off then { st := s, status := stBad }
  else if !chkIdle s then { st := s, status := stState }
  else { st := s.modPkg fun P => { P with chk := some (isRestore, tag, base, len, off) }, status := stDone, later := true }

/-- The offset in a span of device memory from `off`, or of host addresses from `base`, of a location. -/
def devOffset (off len loc : Nat) : Option Nat := if hbmLoc off ≤ loc ∧ loc < hbmLoc (off + len) then some (loc - hbmLoc off) else none
def hostOffset (s : State) (base len loc : Nat) : Option Nat :=
  let b := s.pkg.hdmBase.toNat
  let a := if isHostLoc loc then some (loc - 2 ^ 65) else if isHbmLoc loc ∧ s.pkg.hdmSet then some (loc - 2 ^ 64 + b) else none
  match a with
  | some a => if physLoc s a = loc ∧ base ≤ a ∧ a < base + len then some (a - base) else none
  | none => none
/-- Copy the bytes and the poison of the span `src` to the span that `dst` places. -/
def copySpan (s : State) (src dst : Nat → Option Nat) (place : Nat → Nat) : State :=
  { s with
    mem := s.mem.foldl (fun (m : Memory) (x : Nat × Byte) => match src x.1 with
      | some i => Memory.write m (place i) x.2
      | none => m) (s.mem.filter fun (x : Nat × Byte) => (dst x.1).isNone)
    gran := s.gran.foldl (fun (m : SMap GBits) (x : Nat × GBits) => match src (x.1 * 16) with
      | some i => SMap.set {} m (place i / 16) x.2
      | none => m) (s.gran.filter fun (x : Nat × GBits) => (dst (x.1 * 16)).isNone) }
/-- The copy of a checkpoint or a restore. -/
def copyDevice (s : State) (isRestore : Bool) (base len off : Nat) : State :=
  if isRestore then copySpan s (hostOffset s base len) (devOffset off len) fun i => hbmLoc (off + i)
  else copySpan s (devOffset off len) (hostOffset s base len) fun i => physLoc s (base + i)

/-! Counters (R416). -/

/-- Live-launch entry j of a cluster. -/
def launchEntry (s : State) (G : Cluster) (j : Nat) : List Byte :=
  match G.launches[j]? with
  | none => List.replicate 48 0
  | some V =>
    let (key, slot) := match launchOf s V.handle with | some L => (L.trec.key, L.trec.slot) | none => (0, 0)
    let (c, p, v) := V.fault.getD (0, 0, 0)
    toBytes 2 key ++ toBytes 2 slot ++ toBytes 4 c ++ toBytes 8 p.toNat ++ toBytes 8 v.toNat ++ List.replicate 24 0
/-- The key drops of the gateway at a cluster's router (R385). -/
def gatewayDrops (s : State) (g : Nat) : Nat :=
  if g % 64 = 0 then (portOf s (2 * dieOf g)).drops
  else if g % 64 = 63 then (portOf s (2 * dieOf g + 1)).drops else 0
/-- The block of 1,024 bytes. -/
def countersBlock (s : State) (g : Nat) : List Byte :=
  let G := s.cluster g
  ((coresOf g).map fun c => toBytes 8 (bankstat (s.core c)).toNat).flatten
    ++ ((coresOf g).map fun c => toBytes 4 (s.core c).drops).flatten
    ++ toBytes 4 (gatewayDrops s g) ++ toBytes 4 (min 0xFFFFFFFF G.stretches) ++ toBytes 4 G.faultEnds
    ++ List.replicate 52 0 ++ ((List.range 16).map (launchEntry s G)).flatten
/-- R416. -/
def cmdCounters (s : State) (die clu buf : Nat) : Answer :=
  if 8 ≤ die ∨ 64 ≤ clu ∨ buf % 64 ≠ 0 then { st := s, status := stBad }
  else if cluGone s (die * 64 + clu) then { st := s, status := stState }
  else
    let l := countersBlock s (die * 64 + clu)
    { st := (devWrites s 0 0 true 0 ((List.range 16).map fun i => (buf + 64 * i, (l.drop (64 * i)).take 64))).1
      status := stDone, results := [1024] }

/-! The steps. -/

/-- Answer a command, unless its work goes on. -/
def closeCmd (tag : Nat) (A : Answer) : State := if A.later then A.st else respond A.st tag A.status A.results
/-- R417. -/
def execAttach (tag pasid mode root : Nat) (s : State) : Host.Outcome State Fault Refusal := .next (closeCmd tag (cmdAttach s pasid mode root))
/-- R418. -/
def execDetach (tag slot : Nat) (s : State) : Host.Outcome State Fault Refusal := .next (closeCmd tag (cmdDetach s slot))
/-- R419. -/
def execRingbind (tag n slot desc : Nat) (s : State) : Host.Outcome State Fault Refusal := .next (closeCmd tag (cmdRingbind s n slot desc))
/-- R420. -/
def execEndlaunch (tag slot root lseq : Nat) (s : State) : Host.Outcome State Fault Refusal := .next (closeCmd tag (cmdEndlaunch s slot root lseq))
/-- R412, R415. -/
def execRetire (tag kind unit : Nat) (s : State) : Host.Outcome State Fault Refusal := .next (closeCmd tag (cmdRetire s kind unit))
/-- R412, R424. -/
def execReload (tag die clu addr len : Nat) (s : State) : Host.Outcome State Fault Refusal := .next (closeCmd tag (cmdReload s die clu addr len))
/-- R421. -/
def execChkpt (tag base len off : Nat) (s : State) : Host.Outcome State Fault Refusal := .next (closeCmd tag (cmdChk s false tag base len off))
/-- R421. -/
def execRestore (tag base len off : Nat) (s : State) : Host.Outcome State Fault Refusal := .next (closeCmd tag (cmdChk s true tag base len off))
/-- R421: the copy ends and its response follows. -/
def execChkptCompletion (s : State) : Host.Outcome State Fault Refusal :=
  match s.pkg.chk with
  | some (r, tag, base, len, off) =>
    .next (respond ((copyDevice s r base len off).modPkg fun P => { P with chk := none }) tag stDone [len])
  | none => .next s
/-- R416. -/
def execCounters (tag die clu buf : Nat) (s : State) : Host.Outcome State Fault Refusal := .next (closeCmd tag (cmdCounters s die clu buf))

/-- R414: writing CMDRING; polling begins once it is non-zero. -/
def execCmdringWrite (v : BitVec 64) (s : State) : Host.Outcome State Fault Refusal := .next (s.modPkg fun P => { P with cmdRing := v })
/-- A command record of 56 bytes is carried out and answered. -/
def runCommand (s : State) (l : List Byte) : State :=
  let tag := leAt l 4 4
  let a (i : Nat) : Nat := leAt l (8 + 8 * i) 8
  let A := if leAt l 2 2 ≠ 0 then { st := s, status := stBad }
    else match leAt l 0 2 with
      | 1 => cmdAttach s (a 0) (a 1) (a 2)
      | 2 => cmdDetach s (a 0)
      | 3 => cmdRingbind s (a 0) (a 1) (a 2)
      | 4 => cmdEndlaunch s (a 0) (a 1) (a 2)
      | 5 => cmdRetire s (a 0) (a 1)
      | 6 => cmdReload s (a 0) (a 1) (a 2) (a 3)
      | 7 => cmdChk s false tag (a 0) (a 1) (a 2)
      | 8 => cmdChk s true tag (a 0) (a 1) (a 2)
      | 9 => cmdCounters s (a 0) (a 1) (a 2)
      | _ => { st := s, status := stBad }
  closeCmd tag A
/-- R414: waiting responses are pushed first; then, with none waiting and no copy under way, the next command
is taken from the ring and carried out. -/
def execCmdRingPoll (s : State) : Host.Outcome State Fault Refusal :=
  let s := flushResponses s.pkg.responses s
  let r := s.pkg.cmdRing.toNat
  if r = 0 || !s.pkg.responses.isEmpty || s.pkg.chk.isSome then .next s
  else match hostRing s r with
    | some d =>
      if d.kind != 2 || d.size != 0 then .next s
      else match devRead s 0 0 true 1 (d.slot d.cidx) 64 with
        | (_, .ok l false) =>
          .next (if leAt l 56 1 % 2 = d.phase d.cidx then
              (match devWrites s 0 0 true 0 [(r + 20, toBytes 4 (d.cidx + 1))] with
               | (t, .done) => runCommand t l
               | _ => s)
            else s)
        | _ => .next s
    | none => .next s

/-- R413: a host access to the HDM range is served at the HBM controller, within one line and through a port
that is up. -/
def execCxlMemAccess (port addr len : Nat) (wr : Option (List (BitVec 8))) (s : State) : Host.Outcome State Fault Refusal :=
  let n := match wr with | some l => l.length | none => len
  let b := s.pkg.hdmBase.toNat
  if 2 ≤ port || SMap.get false s.pkg.cxlDown port || !s.pkg.hdmSet || !decide (b ≤ addr ∧ addr + n ≤ b + 2 ^ 40)
      || n == 0 || addr / 64 != (addr + n - 1) / 64 then .next s
  else
    let loc := hbmLoc (addr - b)
    match wr with
    | some l => .next (store s none loc l false)
    | none => .next (s.modPkg fun P => { P with cxlData := s.mem.readBytes loc n, cxlPoison := (poisonedAt s loc n).isSome })
/-- R180. -/
def execCxlPortDown (port : Nat) (up : Bool) (s : State) : Host.Outcome State Fault Refusal :=
  .next (if port < 2 then s.modPkg fun P => { P with cxlDown := SMap.set false P.cxlDown port (!up) } else s)
/-- R414: the host's decoders place the HDM range. -/
def execHdmDecoderSet (base : Nat) (s : State) : Host.Outcome State Fault Refusal :=
  .next (s.modPkg fun P => { P with hdmBase := word base, hdmSet := true })

/-! Droop (R423). -/

/-- R423: the clock goes to three quarters, and to half when the sag deepens; each stretch is counted (DEDUCED, log 56). -/
def execDroopStretch (clu : Nat) (half : Bool) (s : State) : Host.Outcome State Fault Refusal :=
  .next (s.modCluster clu fun G => { G with stretch := if half then 2 else max 1 G.stretch, stretches := min 0xFFFFFFFF (G.stretches + 1) })
/-- R423: after 256 clean cycles the clock is at its full rate (DEDUCED, log 56). -/
def execDroopRecover (clu : Nat) (s : State) : Host.Outcome State Fault Refusal :=
  .next (s.modCluster clu fun G => { G with stretch := 0 })

/-! SPDM (R424, PRESUMED, log 7). -/

/-- Answer an SPDM request: the response's code and the bytes its fields make. -/
def spdmSay (s : State) (code req : Nat) (request data : List Byte) : State :=
  s.modPkg fun P => { P with spdm := ([0x12, BitVec.ofNat 8 code] ++ Config.spdmBody req request data) :: P.spdm }
/-- Measurement index i: a hash, or the count of RELOADs. -/
def measurement (s : State) (i : Nat) : List Byte :=
  if i = 5 then toBytes 8 s.pkg.reloads else SMap.get [] s.pkg.measured i
/-- The measurements an index asks for: 0 only their number, 255 all. -/
def measurements (s : State) (i : Nat) : List Byte :=
  if i = 0 then [5]
  else if i = 255 then ([1, 2, 3, 4, 5].map (measurement s)).flatten
  else if i ≤ 5 then measurement s i else []
/-- R424. -/
def execGetVersion (s : State) : Host.Outcome State Fault Refusal := .next (spdmSay s 0x04 0x84 [] [])
/-- R424. -/
def execGetCapabilities (s : State) : Host.Outcome State Fault Refusal := .next (spdmSay s 0x61 0xE1 [] [])
/-- R424. -/
def execNegotiateAlgorithms (request : List (BitVec 8)) (s : State) : Host.Outcome State Fault Refusal :=
  .next (spdmSay s 0x63 0xE3 request [])
/-- R424: the digest of each slot's chain. -/
def execGetDigests (s : State) : Host.Outcome State Fault Refusal := .next (spdmSay s 0x01 0x81 [] (Config.sha384 (Config.certChain 0)))
/-- R424: part of a certificate chain. -/
def execGetCertificate (slot off len : Nat) (s : State) : Host.Outcome State Fault Refusal :=
  .next (spdmSay s 0x02 0x82 (toBytes 1 slot ++ toBytes 2 off ++ toBytes 2 len) (((Config.certChain slot).drop off).take len))
/-- R424: signed with ECDSA P-384 over SHA-384. -/
def execChallenge (nonce : List (BitVec 8)) (s : State) : Host.Outcome State Fault Refusal :=
  let all := Config.sha384 (measurements s 255)
  .next (spdmSay s 0x03 0x83 nonce (all ++ Config.sign (Config.sha384 (nonce ++ all))))
/-- R424. -/
def execGetMeasurements (index : Nat) (nonce : List (BitVec 8)) (s : State) : Host.Outcome State Fault Refusal :=
  let all := measurements s index
  .next (spdmSay s 0x60 0xE0 (toBytes 1 index ++ nonce) (all ++ Config.sign (Config.sha384 (nonce ++ all))))

/-! Bring-up (R425, DESIGN CHOICE, log 1). -/

/-- What outlives a reset: the non-volatile store and host memory. The agenda and the model's counters go on. -/
def afterReset (s : State) : State :=
  { State.reset with
    pkg := { nv := s.pkg.nv }
    mem := s.mem.filter (fun (x : Nat × Byte) => isHostLoc x.1)
    gran := s.gran.filter (fun (x : Nat × GBits) => isHostLoc (x.1 * 16))
    agenda := s.agenda, nextId := s.nextId, free := s.free }
/-- Apply a recorded retirement (R412). -/
def applyRecord (s : State) (e : Nat × Nat) : State :=
  match e.1 with
  | 0 => s.modCore (e.2 / 512) fun C =>
      { C with banks := C.banks ++ [e.2 % 512], lostG := if degraded C (bankGroup (e.2 % 512)) then C.lostG <|> some (bankGroup (e.2 % 512)) else C.lostG }
  | 1 => s.modCore e.2 fun C => { C with isRetired := true }
  | 2 => s.modCluster e.2 fun G => { G with isRetired := true }
  | 3 => s.modDie e.2 fun D => { D with isFailed := true }
  | 4 => setLink (setLink s (2 * e.2) { up := false, isRetired := true }) (2 * e.2 + 1) { up := false, isRetired := true }
  | 5 => setPort s e.2 { portOf s e.2 with down := true }
  | _ => setPort s e.2 { portOf s e.2 with lanesBad := (portOf s e.2).lanesBad + 1 }
/-- What the hart firmware delegates at bring-up (R403): causes 0 to 8, the device causes but 26, and the
interrupts 16 to 18. -/
def delegate (s : State) (h : Nat) : State :=
  modCsr s h fun C => { C with medeleg := 0x01FF0000FB0001FF, mideleg := 0x70000 }
/-- The worker core gets the hart firmware and starts, or is retired where its start fails (R410, R412, R425). -/
def startWorker (image : List Byte) (s : State) (c : Nat) : State :=
  if (s.core c).isRetired || coreGone s c then s
  else
    let s := { s with mem := s.mem.writeBytes (winBase c) (image.take 0x8000) }
    let n := image.length / 4
    if n = 0 ∨ 8192 < n ∨ (s.core c).lostG.isSome = true ∨ (firmwareFault s c n).isSome = true then
      retireCore s c
    else (hartsOf c).foldl delegate (restartCore s c n)
/-- The Mordant core of a cluster that is not retired is released. -/
def releaseMordant (image : List Byte) (s : State) (g : Nat) : State :=
  if cluGone s g then s else (startMordant s g image).getD s
/-- A port that leads to a configured peer: a route table names it, or it is marked for placement (R385, R400, R425). -/
def hasPeer (s : State) (k : Nat) : Bool :=
  (Config.placement k).isSome || (List.range 8).any fun d => (s.die d).routes.any fun e => e.2 == k
/-- Route tables, a link key for each configured peer and the ports marked for placement (R385, R398, R400, R425). -/
def loadTables (s : State) : State :=
  let s := (List.range 8).foldl (fun s d => s.modDie d fun D => { D with routes := Config.routes d }) s
  (List.range 16).foldl (fun s k =>
    if hasPeer s k then setPort s k { portOf s k with staged := some (Config.linkKey k), placement := Config.placement k } else s) s
/-- R425. -/
def execPowerOn (pkg : Nat) (mordantFw hartFw : List (BitVec 32)) (s : State) : Host.Outcome State Fault Refusal :=
  let m := (firmwareBytes mordantFw).take 65536
  let w := firmwareBytes hartFw
  let s := afterReset s
  let s := s.modPkg fun P =>
    { P with number := pkg % 4096
             measured := [(1, Config.sha384 Config.stage2), (2, Config.sha384 m), (3, Config.sha384 w), (4, Config.sha384 Config.tables)] }
  let s := loadTables ((List.range 512).foldl clusterRule (s.pkg.nv.foldl applyRecord s))
  let s := (List.range 512).foldl (releaseMordant m) s
  let s := (List.range 8192).foldl (startWorker w) s
  .next (s.modPkg fun P => { P with state := if (List.range 512).all fun g => (s.core (mordantCore g)).isSealed then 2 else 1 })

end Sys2Proof.Machine
end

