-- ==== Sys2Proof/Machine/Sys.lean ====
section
/-! DEFINITION. Zicsr (R42, R83, R85), trap returns and waits (R107, R109), the breakpoint, hardware
loops (R95 to R98), the prefix and signature words (R64, R69) and the branch-outcome queue (R148). -/

namespace Sys2Proof.Machine
open Sys2Proof

/-! Zicsr. -/

/-- One CSR access of the executing hart: read into rd, then write, if it writes (R42, R85). -/
def csrInstr (rd : BitVec 5) (n : Nat) (wr : Option (Word → Word)) (s : State) : Host.Outcome State Fault Refusal :=
  let old := csrRead s s.cur n
  let t := match wr with
    | some f => csrWrite s s.cur n (f old)
    | none => s
  finish s (.all [legal s (csrMode s s.cur n s.me.mode), armedW s rd, ready (!csrWaits s s.cur n)])
    (retireWith t fun H => H.setX rd.toNat old)

/-- R85. -/
def execCsrrw (rd rs1 : BitVec 5) (csr : BitVec 12) (s : State) : Host.Outcome State Fault Refusal :=
  csrInstr rd csr.toNat (some fun _ => s.x rs1) s
/-- R85: no write with rs1 = x0. -/
def execCsrrs (rd rs1 : BitVec 5) (csr : BitVec 12) (s : State) : Host.Outcome State Fault Refusal :=
  csrInstr rd csr.toNat (if rs1 = 0 then none else some fun old => old ||| s.x rs1) s
/-- R85. -/
def execCsrrc (rd rs1 : BitVec 5) (csr : BitVec 12) (s : State) : Host.Outcome State Fault Refusal :=
  csrInstr rd csr.toNat (if rs1 = 0 then none else some fun old => old &&& ~~~s.x rs1) s
/-- R85. -/
def execCsrrwi (rd uimm : BitVec 5) (csr : BitVec 12) (s : State) : Host.Outcome State Fault Refusal :=
  csrInstr rd csr.toNat (some fun _ => uimm.setWidth 64) s
/-- R85. -/
def execCsrrsi (rd uimm : BitVec 5) (csr : BitVec 12) (s : State) : Host.Outcome State Fault Refusal :=
  csrInstr rd csr.toNat (if uimm = 0 then none else some fun old => old ||| uimm.setWidth 64) s
/-- R85. -/
def execCsrrci (rd uimm : BitVec 5) (csr : BitVec 12) (s : State) : Host.Outcome State Fault Refusal :=
  csrInstr rd csr.toNat (if uimm = 0 then none else some fun old => old &&& ~~~uimm.setWidth 64) s

/-! Trap returns, the breakpoint and waits. -/

/-- R107: MRET, in M mode. -/
def execMret (s : State) : Host.Outcome State Fault Refusal :=
  finish s (legal s (s.me.mode == .M)) (s.modHart s.cur fun H => leaveTrap H true)
/-- R107: SRET, in S and M modes. -/
def execSret (s : State) : Host.Outcome State Fault Refusal :=
  finish s (legal s (s.me.mode != .U)) (s.modHart s.cur fun H => leaveTrap H false)
/-- R39. -/
def execEbreak (s : State) : Host.Outcome State Fault Refusal :=
  finish s (.trap 3 (tvalOf 3 s.me.pc)) s
/-- Retire and wait. -/
def retireWait (s : State) (w : Wait) : State :=
  (retire s s.cur).modHart s.cur fun H => { H with stalled := some w }
/-- R109: illegal in U mode, and in S mode when mstatus.TW is 1. -/
def execWfi (s : State) : Host.Outcome State Fault Refusal :=
  finish s (legal s (match s.me.mode with | .U => false | .S => !bit s.me.csr.mstatus 21 | .M => true)) (retireWait s .wfi)
/-- R109: legal in every mode. -/
def execWfm (s : State) : Host.Outcome State Fault Refusal :=
  finish s .ok (retireWait s .wfm)

/-! Hardware loops. -/

/-- The loop CSRs and LE after an HLOOP at pc (R95). -/
def hloopCsr (C : Csrs) (level : Bool) (pc : Word) (n : Word) (soff eoff : Nat) : Csrs :=
  let l : LoopLevel :=
    { start := (pc + word (4 * (soff + 1))) &&& 0x7FFC, stop := (pc + word (4 * eoff)) &&& 0x7FFC, count := n }
  let C := { C with mnstatus := setBit C.mnstatus 4 true }
  if level then { C with loop1 := l } else { C with loop0 := l }

/-- R95: a count of 0 leaves the level inactive and skips past the last word. -/
def execHloop (level : Bool) (rs1 : BitVec 5) (soff : BitVec 2) (eoff : BitVec 10) (s : State) : Host.Outcome State Fault Refusal :=
  let n := s.x rs1
  let t := s.modHart s.cur fun H => { H with csr := hloopCsr H.csr level H.pc n soff.toNat eoff.toNat }
  finish s .ok
    (if n = 0 then retireTo t s.cur (s.me.pc + word (4 * eoff.toNat + 4)) .direct else retire t s.cur)

/-- R98. -/
def execLclr0 (s : State) : Host.Outcome State Fault Refusal :=
  finish s .ok (retireWith s fun H => { H with csr := { H.csr with loop0 := { H.csr.loop0 with count := 0 } } })
/-- R98. -/
def execLclr1 (s : State) : Host.Outcome State Fault Refusal :=
  finish s .ok (retireWith s fun H => { H with csr := { H.csr with loop1 := { H.csr.loop1 with count := 0 } } })

/-! Prefix and signature words. -/

/-- The payload bits of an FMT word (R62). -/
def payloadBits (fa fb fd : Fmt) (sm : ScaleMode) : BitVec 25 :=
  BitVec.ofNat 25 (fa.code * 2 ^ 21 + fb.code * 2 ^ 17 + fd.code * 2 ^ 13 + sm.code * 2 ^ 11 + 0xE0)

/-- R64. -/
def execFmt (fa fb fd : Fmt) (sm : ScaleMode) (s : State) : Host.Outcome State Fault Refusal :=
  finish s .ok ((retire s s.cur).modHart s.cur fun H => { H with pfx := true, payload := payloadBits fa fb fd sm })

/-- The comparison of R69 fails. -/
def sigBad (k : Checker) : Bool := k.act && (k.run != k.exp || k.last != k.endk)

/-- R69, R70: compare, check the arrival, open the block. With mnstatus.SIG = 0 nothing is checked (R87; DEDUCED, log 52). -/
def execSig (crc : BitVec 12) (e : Bool) (k : EndKind) (s : State) : Host.Outcome State Fault Refusal :=
  let H := s.me
  let bad := sigBit H.csr && (sigBad H.chk || (H.arrival == .indirect && !e))
  finish s (need (!bad) 26 (sigTval H.chk H.chk.run H.chk.last))
    (retireWith s fun H => { H with chk := { H.chk with exp := crc, endk := BitVec.ofNat 3 k.code, run := 0, act := true } })

/-! The branch-outcome queue. -/

/-- STREAM's mtval: the code and the register (R149). -/
def streamTval (code reg : Nat) : Word := word (code + reg * 2 ^ 8)
/-- R148. -/
def execBqput (rs1 : BitVec 5) (s : State) : Host.Outcome State Fault Refusal :=
  finish s (need (decide (s.me.bq.length < 16)) 54 (streamTval 6 0)) (retireWith s fun H => { H with bq := H.bq ++ [s.x rs1] })
/-- R148. -/
def execBqget (rd : BitVec 5) (s : State) : Host.Outcome State Fault Refusal :=
  match s.me.bq with
  | [] => finish s (.trap 54 (streamTval 7 0)) s
  | v :: r => finish s (armedW s rd) (retireWith s fun H => { H.setX rd.toNat v with bq := r })

end Sys2Proof.Machine
end

