-- ==== Sys2Proof/Machine/Dispatch.lean ====
section
/-! DEFINITION. The meaning of every instruction, arm by arm. -/

namespace Sys2Proof.Machine
open Sys2Proof

def exec (i : Instr) (s : State) : Host.Outcome State Fault Refusal :=
  match i with
  | .lui rd imm => Sys2Proof.Machine.execLui rd imm s
  | .auipc rd imm => Sys2Proof.Machine.execAuipc rd imm s
  | .jal rd off => Sys2Proof.Machine.execJal rd off s
  | .jalr rd rs1 imm => Sys2Proof.Machine.execJalr rd rs1 imm s
  | .beq rs1 rs2 off => Sys2Proof.Machine.execBeq rs1 rs2 off s
  | .bne rs1 rs2 off => Sys2Proof.Machine.execBne rs1 rs2 off s
  | .blt rs1 rs2 off => Sys2Proof.Machine.execBlt rs1 rs2 off s
  | .bge rs1 rs2 off => Sys2Proof.Machine.execBge rs1 rs2 off s
  | .bltu rs1 rs2 off => Sys2Proof.Machine.execBltu rs1 rs2 off s
  | .bgeu rs1 rs2 off => Sys2Proof.Machine.execBgeu rs1 rs2 off s
  | .lb rd rs1 imm => Sys2Proof.Machine.execLb rd rs1 imm s
  | .lh rd rs1 imm => Sys2Proof.Machine.execLh rd rs1 imm s
  | .lw rd rs1 imm => Sys2Proof.Machine.execLw rd rs1 imm s
  | .ld rd rs1 imm => Sys2Proof.Machine.execLd rd rs1 imm s
  | .lbu rd rs1 imm => Sys2Proof.Machine.execLbu rd rs1 imm s
  | .lhu rd rs1 imm => Sys2Proof.Machine.execLhu rd rs1 imm s
  | .lwu rd rs1 imm => Sys2Proof.Machine.execLwu rd rs1 imm s
  | .sb rs1 rs2 imm => Sys2Proof.Machine.execSb rs1 rs2 imm s
  | .sh rs1 rs2 imm => Sys2Proof.Machine.execSh rs1 rs2 imm s
  | .sw rs1 rs2 imm => Sys2Proof.Machine.execSw rs1 rs2 imm s
  | .sd rs1 rs2 imm => Sys2Proof.Machine.execSd rs1 rs2 imm s
  | .addi rd rs1 imm => Sys2Proof.Machine.execAddi rd rs1 imm s
  | .slti rd rs1 imm => Sys2Proof.Machine.execSlti rd rs1 imm s
  | .sltiu rd rs1 imm => Sys2Proof.Machine.execSltiu rd rs1 imm s
  | .xori rd rs1 imm => Sys2Proof.Machine.execXori rd rs1 imm s
  | .ori rd rs1 imm => Sys2Proof.Machine.execOri rd rs1 imm s
  | .andi rd rs1 imm => Sys2Proof.Machine.execAndi rd rs1 imm s
  | .slli rd rs1 sh => Sys2Proof.Machine.execSlli rd rs1 sh s
  | .srli rd rs1 sh => Sys2Proof.Machine.execSrli rd rs1 sh s
  | .srai rd rs1 sh => Sys2Proof.Machine.execSrai rd rs1 sh s
  | .add rd rs1 rs2 => Sys2Proof.Machine.execAdd rd rs1 rs2 s
  | .sub rd rs1 rs2 => Sys2Proof.Machine.execSub rd rs1 rs2 s
  | .sll rd rs1 rs2 => Sys2Proof.Machine.execSll rd rs1 rs2 s
  | .slt rd rs1 rs2 => Sys2Proof.Machine.execSlt rd rs1 rs2 s
  | .sltu rd rs1 rs2 => Sys2Proof.Machine.execSltu rd rs1 rs2 s
  | .xor rd rs1 rs2 => Sys2Proof.Machine.execXor rd rs1 rs2 s
  | .srl rd rs1 rs2 => Sys2Proof.Machine.execSrl rd rs1 rs2 s
  | .sra rd rs1 rs2 => Sys2Proof.Machine.execSra rd rs1 rs2 s
  | .or rd rs1 rs2 => Sys2Proof.Machine.execOr rd rs1 rs2 s
  | .and rd rs1 rs2 => Sys2Proof.Machine.execAnd rd rs1 rs2 s
  | .addiw rd rs1 imm => Sys2Proof.Machine.execAddiw rd rs1 imm s
  | .slliw rd rs1 sh => Sys2Proof.Machine.execSlliw rd rs1 sh s
  | .srliw rd rs1 sh => Sys2Proof.Machine.execSrliw rd rs1 sh s
  | .sraiw rd rs1 sh => Sys2Proof.Machine.execSraiw rd rs1 sh s
  | .addw rd rs1 rs2 => Sys2Proof.Machine.execAddw rd rs1 rs2 s
  | .subw rd rs1 rs2 => Sys2Proof.Machine.execSubw rd rs1 rs2 s
  | .sllw rd rs1 rs2 => Sys2Proof.Machine.execSllw rd rs1 rs2 s
  | .srlw rd rs1 rs2 => Sys2Proof.Machine.execSrlw rd rs1 rs2 s
  | .sraw rd rs1 rs2 => Sys2Proof.Machine.execSraw rd rs1 rs2 s
  | .fence fm pred succ rd rs1 => Sys2Proof.Machine.execFence fm pred succ rd rs1 s
  | .fenceTso rd rs1 => Sys2Proof.Machine.execFenceTso rd rs1 s
  | .pause => Sys2Proof.Machine.execPause s
  | .ecall => Sys2Proof.Machine.execEcall s
  | .ebreak => Sys2Proof.Machine.execEbreak s
  | .mul rd rs1 rs2 => Sys2Proof.Machine.execMul rd rs1 rs2 s
  | .mulh rd rs1 rs2 => Sys2Proof.Machine.execMulh rd rs1 rs2 s
  | .mulhsu rd rs1 rs2 => Sys2Proof.Machine.execMulhsu rd rs1 rs2 s
  | .mulhu rd rs1 rs2 => Sys2Proof.Machine.execMulhu rd rs1 rs2 s
  | .div rd rs1 rs2 => Sys2Proof.Machine.execDiv rd rs1 rs2 s
  | .divu rd rs1 rs2 => Sys2Proof.Machine.execDivu rd rs1 rs2 s
  | .rem rd rs1 rs2 => Sys2Proof.Machine.execRem rd rs1 rs2 s
  | .remu rd rs1 rs2 => Sys2Proof.Machine.execRemu rd rs1 rs2 s
  | .mulw rd rs1 rs2 => Sys2Proof.Machine.execMulw rd rs1 rs2 s
  | .divw rd rs1 rs2 => Sys2Proof.Machine.execDivw rd rs1 rs2 s
  | .divuw rd rs1 rs2 => Sys2Proof.Machine.execDivuw rd rs1 rs2 s
  | .remw rd rs1 rs2 => Sys2Proof.Machine.execRemw rd rs1 rs2 s
  | .remuw rd rs1 rs2 => Sys2Proof.Machine.execRemuw rd rs1 rs2 s
  | .lrW rd rs1 aq rl => Sys2Proof.Machine.execLrW rd rs1 aq rl s
  | .lrD rd rs1 aq rl => Sys2Proof.Machine.execLrD rd rs1 aq rl s
  | .scW rd rs1 rs2 aq rl => Sys2Proof.Machine.execScW rd rs1 rs2 aq rl s
  | .scD rd rs1 rs2 aq rl => Sys2Proof.Machine.execScD rd rs1 rs2 aq rl s
  | .amoSwapW rd rs1 rs2 aq rl => Sys2Proof.Machine.execAmoSwapW rd rs1 rs2 aq rl s
  | .amoSwapD rd rs1 rs2 aq rl => Sys2Proof.Machine.execAmoSwapD rd rs1 rs2 aq rl s
  | .amoAddW rd rs1 rs2 aq rl => Sys2Proof.Machine.execAmoAddW rd rs1 rs2 aq rl s
  | .amoAddD rd rs1 rs2 aq rl => Sys2Proof.Machine.execAmoAddD rd rs1 rs2 aq rl s
  | .amoXorW rd rs1 rs2 aq rl => Sys2Proof.Machine.execAmoXorW rd rs1 rs2 aq rl s
  | .amoXorD rd rs1 rs2 aq rl => Sys2Proof.Machine.execAmoXorD rd rs1 rs2 aq rl s
  | .amoAndW rd rs1 rs2 aq rl => Sys2Proof.Machine.execAmoAndW rd rs1 rs2 aq rl s
  | .amoAndD rd rs1 rs2 aq rl => Sys2Proof.Machine.execAmoAndD rd rs1 rs2 aq rl s
  | .amoOrW rd rs1 rs2 aq rl => Sys2Proof.Machine.execAmoOrW rd rs1 rs2 aq rl s
  | .amoOrD rd rs1 rs2 aq rl => Sys2Proof.Machine.execAmoOrD rd rs1 rs2 aq rl s
  | .amoMinW rd rs1 rs2 aq rl => Sys2Proof.Machine.execAmoMinW rd rs1 rs2 aq rl s
  | .amoMinD rd rs1 rs2 aq rl => Sys2Proof.Machine.execAmoMinD rd rs1 rs2 aq rl s
  | .amoMaxW rd rs1 rs2 aq rl => Sys2Proof.Machine.execAmoMaxW rd rs1 rs2 aq rl s
  | .amoMaxD rd rs1 rs2 aq rl => Sys2Proof.Machine.execAmoMaxD rd rs1 rs2 aq rl s
  | .amoMinuW rd rs1 rs2 aq rl => Sys2Proof.Machine.execAmoMinuW rd rs1 rs2 aq rl s
  | .amoMinuD rd rs1 rs2 aq rl => Sys2Proof.Machine.execAmoMinuD rd rs1 rs2 aq rl s
  | .amoMaxuW rd rs1 rs2 aq rl => Sys2Proof.Machine.execAmoMaxuW rd rs1 rs2 aq rl s
  | .amoMaxuD rd rs1 rs2 aq rl => Sys2Proof.Machine.execAmoMaxuD rd rs1 rs2 aq rl s
  | .flw rd rs1 imm => Sys2Proof.Machine.execFlw rd rs1 imm s
  | .fsw rs1 rs2 imm => Sys2Proof.Machine.execFsw rs1 rs2 imm s
  | .fmaddS rd rs1 rs2 rs3 rm => Sys2Proof.Machine.execFmaddS rd rs1 rs2 rs3 rm s
  | .fmsubS rd rs1 rs2 rs3 rm => Sys2Proof.Machine.execFmsubS rd rs1 rs2 rs3 rm s
  | .fnmsubS rd rs1 rs2 rs3 rm => Sys2Proof.Machine.execFnmsubS rd rs1 rs2 rs3 rm s
  | .fnmaddS rd rs1 rs2 rs3 rm => Sys2Proof.Machine.execFnmaddS rd rs1 rs2 rs3 rm s
  | .faddS rd rs1 rs2 rm => Sys2Proof.Machine.execFaddS rd rs1 rs2 rm s
  | .fsubS rd rs1 rs2 rm => Sys2Proof.Machine.execFsubS rd rs1 rs2 rm s
  | .fmulS rd rs1 rs2 rm => Sys2Proof.Machine.execFmulS rd rs1 rs2 rm s
  | .fdivS rd rs1 rs2 rm => Sys2Proof.Machine.execFdivS rd rs1 rs2 rm s
  | .fsqrtS rd rs1 rm => Sys2Proof.Machine.execFsqrtS rd rs1 rm s
  | .fsgnjS rd rs1 rs2 => Sys2Proof.Machine.execFsgnjS rd rs1 rs2 s
  | .fsgnjnS rd rs1 rs2 => Sys2Proof.Machine.execFsgnjnS rd rs1 rs2 s
  | .fsgnjxS rd rs1 rs2 => Sys2Proof.Machine.execFsgnjxS rd rs1 rs2 s
  | .fminS rd rs1 rs2 => Sys2Proof.Machine.execFminS rd rs1 rs2 s
  | .fmaxS rd rs1 rs2 => Sys2Proof.Machine.execFmaxS rd rs1 rs2 s
  | .fcvtWS rd rs1 rm => Sys2Proof.Machine.execFcvtWS rd rs1 rm s
  | .fcvtWuS rd rs1 rm => Sys2Proof.Machine.execFcvtWuS rd rs1 rm s
  | .fcvtLS rd rs1 rm => Sys2Proof.Machine.execFcvtLS rd rs1 rm s
  | .fcvtLuS rd rs1 rm => Sys2Proof.Machine.execFcvtLuS rd rs1 rm s
  | .fcvtSW rd rs1 rm => Sys2Proof.Machine.execFcvtSW rd rs1 rm s
  | .fcvtSWu rd rs1 rm => Sys2Proof.Machine.execFcvtSWu rd rs1 rm s
  | .fcvtSL rd rs1 rm => Sys2Proof.Machine.execFcvtSL rd rs1 rm s
  | .fcvtSLu rd rs1 rm => Sys2Proof.Machine.execFcvtSLu rd rs1 rm s
  | .fmvXW rd rs1 => Sys2Proof.Machine.execFmvXW rd rs1 s
  | .fmvWX rd rs1 => Sys2Proof.Machine.execFmvWX rd rs1 s
  | .feqS rd rs1 rs2 => Sys2Proof.Machine.execFeqS rd rs1 rs2 s
  | .fltS rd rs1 rs2 => Sys2Proof.Machine.execFltS rd rs1 rs2 s
  | .fleS rd rs1 rs2 => Sys2Proof.Machine.execFleS rd rs1 rs2 s
  | .fclassS rd rs1 => Sys2Proof.Machine.execFclassS rd rs1 s
  | .csrrw rd rs1 csr => Sys2Proof.Machine.execCsrrw rd rs1 csr s
  | .csrrs rd rs1 csr => Sys2Proof.Machine.execCsrrs rd rs1 csr s
  | .csrrc rd rs1 csr => Sys2Proof.Machine.execCsrrc rd rs1 csr s
  | .csrrwi rd uimm csr => Sys2Proof.Machine.execCsrrwi rd uimm csr s
  | .csrrsi rd uimm csr => Sys2Proof.Machine.execCsrrsi rd uimm csr s
  | .csrrci rd uimm csr => Sys2Proof.Machine.execCsrrci rd uimm csr s
  | .mret => Sys2Proof.Machine.execMret s
  | .sret => Sys2Proof.Machine.execSret s
  | .wfi => Sys2Proof.Machine.execWfi s
  | .vadd vd vs1 vs2 t sc => Sys2Proof.Machine.execVadd vd vs1 vs2 t sc s
  | .vsub vd vs1 vs2 t sc => Sys2Proof.Machine.execVsub vd vs1 vs2 t sc s
  | .vmul vd vs1 vs2 t sc => Sys2Proof.Machine.execVmul vd vs1 vs2 t sc s
  | .vfma vd vs1 vs2 t sc => Sys2Proof.Machine.execVfma vd vs1 vs2 t sc s
  | .vfms vd vs1 vs2 t sc => Sys2Proof.Machine.execVfms vd vs1 vs2 t sc s
  | .vmin vd vs1 vs2 t sc => Sys2Proof.Machine.execVmin vd vs1 vs2 t sc s
  | .vmax vd vs1 vs2 t sc => Sys2Proof.Machine.execVmax vd vs1 vs2 t sc s
  | .vdot4 vd vs1 vs2 t sc => Sys2Proof.Machine.execVdot4 vd vs1 vs2 t sc s
  | .vcmp md cc vs1 vs2 t sc => Sys2Proof.Machine.execVcmp md cc vs1 vs2 t sc s
  | .vshl vd vs1 vs2 t sc => Sys2Proof.Machine.execVshl vd vs1 vs2 t sc s
  | .vshr vd vs1 vs2 t sc => Sys2Proof.Machine.execVshr vd vs1 vs2 t sc s
  | .vsra vd vs1 vs2 t sc => Sys2Proof.Machine.execVsra vd vs1 vs2 t sc s
  | .vand vd vs1 vs2 sc => Sys2Proof.Machine.execVand vd vs1 vs2 sc s
  | .vor vd vs1 vs2 sc => Sys2Proof.Machine.execVor vd vs1 vs2 sc s
  | .vxor vd vs1 vs2 sc => Sys2Proof.Machine.execVxor vd vs1 vs2 sc s
  | .vperm vd vs1 vs2 w sc => Sys2Proof.Machine.execVperm vd vs1 vs2 w sc s
  | .vabs vd vs1 t sc => Sys2Proof.Machine.execVabs vd vs1 t sc s
  | .vneg vd vs1 t sc => Sys2Proof.Machine.execVneg vd vs1 t sc s
  | .vmov vd vs1 t sc => Sys2Proof.Machine.execVmov vd vs1 t sc s
  | .vexp2 vd vs1 t sc => Sys2Proof.Machine.execVexp2 vd vs1 t sc s
  | .vlog2 vd vs1 t sc => Sys2Proof.Machine.execVlog2 vd vs1 t sc s
  | .vrcp vd vs1 t sc => Sys2Proof.Machine.execVrcp vd vs1 t sc s
  | .vrsq vd vs1 t sc => Sys2Proof.Machine.execVrsq vd vs1 t sc s
  | .vrsum vd vs1 t sc => Sys2Proof.Machine.execVrsum vd vs1 t sc s
  | .vrmax vd vs1 t sc => Sys2Proof.Machine.execVrmax vd vs1 t sc s
  | .vrmin vd vs1 t sc => Sys2Proof.Machine.execVrmin vd vs1 t sc s
  | .vidx vd t sc => Sys2Proof.Machine.execVidx vd t sc s
  | .vsplat vd rs1 t sc => Sys2Proof.Machine.execVsplat vd rs1 t sc s
  | .vbcast vd vs1 t sc => Sys2Proof.Machine.execVbcast vd vs1 t sc s
  | .vslideDn vd vs1 k w sc => Sys2Proof.Machine.execVslideDn vd vs1 k w sc s
  | .vslideUp vd vs1 k w sc => Sys2Proof.Machine.execVslideUp vd vs1 k w sc s
  | .vcvt vd vs1 rm sat amax sc => Sys2Proof.Machine.execVcvt vd vs1 rm sat amax sc s
  | .vquant vd vs1 rm sat amax sc => Sys2Proof.Machine.execVquant vd vs1 rm sat amax sc s
  | .vdeq vd vs1 rm sat amax sc => Sys2Proof.Machine.execVdeq vd vs1 rm sat amax sc s
  | .tbld vs1 sc => Sys2Proof.Machine.execTbld vs1 sc s
  | .cbld rs1 => Sys2Proof.Machine.execCbld rs1 s
  | .srseed rs1 => Sys2Proof.Machine.execSrseed rs1 s
  | .vld vd rs1 rs2 mk w => Sys2Proof.Machine.execVld vd rs1 rs2 mk w s
  | .vst vs3 rs1 rs2 mk w => Sys2Proof.Machine.execVst vs3 rs1 rs2 mk w s
  | .vlds vd rs1 rs2 mk w => Sys2Proof.Machine.execVlds vd rs1 rs2 mk w s
  | .vsts vs3 rs1 rs2 mk w => Sys2Proof.Machine.execVsts vs3 rs1 rs2 mk w s
  | .sbindSrc v rs1 => Sys2Proof.Machine.execSbindSrc v rs1 s
  | .sbindDst v rs1 => Sys2Proof.Machine.execSbindDst v rs1 s
  | .sunbind v => Sys2Proof.Machine.execSunbind v s
  | .vsel vd vs1 vs2 mk w => Sys2Proof.Machine.execVsel vd vs1 vs2 mk w s
  | .mand md ms1 ms2 => Sys2Proof.Machine.execMand md ms1 ms2 s
  | .mor md ms1 ms2 => Sys2Proof.Machine.execMor md ms1 ms2 s
  | .mxor md ms1 ms2 => Sys2Proof.Machine.execMxor md ms1 ms2 s
  | .mnot md ms1 => Sys2Proof.Machine.execMnot md ms1 s
  | .mpop rd ms1 => Sys2Proof.Machine.execMpop rd ms1 s
  | .vloop rs1 len => Sys2Proof.Machine.execVloop rs1 len s
  | .bqput rs1 => Sys2Proof.Machine.execBqput rs1 s
  | .bqget rd => Sys2Proof.Machine.execBqget rd s
  | .ldFeKeep rd rs1 => Sys2Proof.Machine.execLdFeKeep rd rs1 s
  | .ldFeClr rd rs1 => Sys2Proof.Machine.execLdFeClr rd rs1 s
  | .stFe rs1 rs2 => Sys2Proof.Machine.execStFe rs1 rs2 s
  | .fesetEmpty rs1 => Sys2Proof.Machine.execFesetEmpty rs1 s
  | .fesetFull rs1 => Sys2Proof.Machine.execFesetFull rs1 s
  | .feqry rd rs1 => Sys2Proof.Machine.execFeqry rd rs1 s
  | .gathA vd va => Sys2Proof.Machine.execGathA vd va s
  | .gathX vd rs1 vs2 => Sys2Proof.Machine.execGathX vd rs1 vs2 s
  | .scatA vs3 va => Sys2Proof.Machine.execScatA vs3 va s
  | .scatX vs3 rs1 vs2 => Sys2Proof.Machine.execScatX vs3 rs1 vs2 s
  | .cpy rd rs1 rs2 => Sys2Proof.Machine.execCpy rd rs1 rs2 s
  | .cpyw rd rs1 => Sys2Proof.Machine.execCpyw rd rs1 s
  | .fenceScoped sc k => Sys2Proof.Machine.execFenceScoped sc k s
  | .lda rd rs1 sc wd => Sys2Proof.Machine.execLda rd rs1 sc wd s
  | .strl rs1 rs2 sc wd => Sys2Proof.Machine.execStrl rs1 rs2 sc wd s
  | .fxadd rs1 rs2 => Sys2Proof.Machine.execFxadd rs1 rs2 s
  | .fxrd rd rs1 => Sys2Proof.Machine.execFxrd rd rs1 s
  | .fxrdLo rd rs1 => Sys2Proof.Machine.execFxrdLo rd rs1 s
  | .fxrdHi rd rs1 => Sys2Proof.Machine.execFxrdHi rd rs1 s
  | .fxclr rs1 => Sys2Proof.Machine.execFxclr rs1 s
  | .rlqry rd rs1 => Sys2Proof.Machine.execRlqry rd rs1 s
  | .amoAddScoped rd rs1 rs2 sc => Sys2Proof.Machine.execAmoAddScoped rd rs1 rs2 sc s
  | .amoSwapScoped rd rs1 rs2 sc => Sys2Proof.Machine.execAmoSwapScoped rd rs1 rs2 sc s
  | .amoAndScoped rd rs1 rs2 sc => Sys2Proof.Machine.execAmoAndScoped rd rs1 rs2 sc s
  | .amoOrScoped rd rs1 rs2 sc => Sys2Proof.Machine.execAmoOrScoped rd rs1 rs2 sc s
  | .amoXorScoped rd rs1 rs2 sc => Sys2Proof.Machine.execAmoXorScoped rd rs1 rs2 sc s
  | .amoMinScoped rd rs1 rs2 sc => Sys2Proof.Machine.execAmoMinScoped rd rs1 rs2 sc s
  | .amoMaxScoped rd rs1 rs2 sc => Sys2Proof.Machine.execAmoMaxScoped rd rs1 rs2 sc s
  | .amoMinuScoped rd rs1 rs2 sc => Sys2Proof.Machine.execAmoMinuScoped rd rs1 rs2 sc s
  | .amoMaxuScoped rd rs1 rs2 sc => Sys2Proof.Machine.execAmoMaxuScoped rd rs1 rs2 sc s
  | .amoCasScoped rd rs1 rs2 sc => Sys2Proof.Machine.execAmoCasScoped rd rs1 rs2 sc s
  | .spawn rs1 => Sys2Proof.Machine.execSpawn rs1 s
  | .spawnNb rd rs1 => Sys2Proof.Machine.execSpawnNb rd rs1 s
  | .spawnr rs1 rs2 => Sys2Proof.Machine.execSpawnr rs1 rs2 s
  | .spawnat rs1 rs2 => Sys2Proof.Machine.execSpawnat rs1 rs2 s
  | .tend rs1 => Sys2Proof.Machine.execTend rs1 s
  | .joininit rs1 rs2 => Sys2Proof.Machine.execJoininit rs1 rs2 s
  | .joinadd rs1 rs2 => Sys2Proof.Machine.execJoinadd rs1 rs2 s
  | .joinarm rs1 rs2 => Sys2Proof.Machine.execJoinarm rs1 rs2 s
  | .press rd => Sys2Proof.Machine.execPress rd s
  | .dqpush rs1 rs2 => Sys2Proof.Machine.execDqpush rs1 rs2 s
  | .dqpop rd => Sys2Proof.Machine.execDqpop rd s
  | .dqsplit => Sys2Proof.Machine.execDqsplit s
  | .dqspill rd rs1 => Sys2Proof.Machine.execDqspill rd rs1 s
  | .rpush rs1 rs2 => Sys2Proof.Machine.execRpush rs1 rs2 s
  | .rpop rd rs1 rs2 => Sys2Proof.Machine.execRpop rd rs1 rs2 s
  | .rpeek rd rs1 rs2 => Sys2Proof.Machine.execRpeek rd rs1 rs2 s
  | .grpbar rs1 => Sys2Proof.Machine.execGrpbar rs1 s
  | .arm rd => Sys2Proof.Machine.execArm rd s
  | .sendw rs1 rs2 => Sys2Proof.Machine.execSendw rs1 rs2 s
  | .sendh rs1 rs2 => Sys2Proof.Machine.execSendh rs1 rs2 s
  | .msgret => Sys2Proof.Machine.execMsgret s
  | .chbind v rs1 => Sys2Proof.Machine.execChbind v rs1 s
  | .migrate rs1 rs2 => Sys2Proof.Machine.execMigrate rs1 rs2 s
  | .grpw rs1 rs2 => Sys2Proof.Machine.execGrpw rs1 rs2 s
  | .mcw rs1 rs2 => Sys2Proof.Machine.execMcw rs1 rs2 s
  | .jkset rs1 rs2 => Sys2Proof.Machine.execJkset rs1 rs2 s
  | .keyrot rs1 => Sys2Proof.Machine.execKeyrot rs1 s
  | .mstg sx sw ac ms sc => Sys2Proof.Machine.execMstg sx sw ac ms sc s
  | .mstgAcc sx sw ac ms sc => Sys2Proof.Machine.execMstgAcc sx sw ac ms sc s
  | .mxst sx sw ac ms sc => Sys2Proof.Machine.execMxst sx sw ac ms sc s
  | .mxstAcc sx sw ac ms sc => Sys2Proof.Machine.execMxstAcc sx sw ac ms sc s
  | .mchain sx sw ac ms sc cf => Sys2Proof.Machine.execMchain sx sw ac ms sc cf s
  | .mchainAcc sx sw ac ms sc cf => Sys2Proof.Machine.execMchainAcc sx sw ac ms sc cf s
  | .mlease rs1 => Sys2Proof.Machine.execMlease rs1 s
  | .mrel => Sys2Proof.Machine.execMrel s
  | .oclaim rd rs1 => Sys2Proof.Machine.execOclaim rd rs1 s
  | .orel rs1 rs2 => Sys2Proof.Machine.execOrel rs1 rs2 s
  | .ofill rs1 rs2 => Sys2Proof.Machine.execOfill rs1 rs2 s
  | .odrain rs1 rs2 => Sys2Proof.Machine.execOdrain rs1 rs2 s
  | .odrainAmax rs1 rs2 => Sys2Proof.Machine.execOdrainAmax rs1 rs2 s
  | .mstride rs1 rs2 => Sys2Proof.Machine.execMstride rs1 rs2 s
  | .maccz rs1 => Sys2Proof.Machine.execMaccz rs1 s
  | .mwait => Sys2Proof.Machine.execMwait s
  | .mrgu rs1 rs2 => Sys2Proof.Machine.execMrgu rs1 rs2 s
  | .mrguDz rs1 rs2 => Sys2Proof.Machine.execMrguDz rs1 rs2 s
  | .mrgi rs1 rs2 => Sys2Proof.Machine.execMrgi rs1 rs2 s
  | .scnv rs1 rs2 => Sys2Proof.Machine.execScnv rs1 rs2 s
  | .scnvw rd rs1 => Sys2Proof.Machine.execScnvw rd rs1 s
  | .lclr0 => Sys2Proof.Machine.execLclr0 s
  | .lclr1 => Sys2Proof.Machine.execLclr1 s
  | .safept k => Sys2Proof.Machine.execSafept k s
  | .codecmt rd rs1 => Sys2Proof.Machine.execCodecmt rd rs1 s
  | .wfm => Sys2Proof.Machine.execWfm s
  | .cseal rs1 => Sys2Proof.Machine.execCseal rs1 s
  | .crestart rs1 => Sys2Proof.Machine.execCrestart rs1 s
  | .sig crc e k => Sys2Proof.Machine.execSig crc e k s
  | .hloop level rs1 soff eoff => Sys2Proof.Machine.execHloop level rs1 soff eoff s
  | .fmt fa fb fd sm => Sys2Proof.Machine.execFmt fa fb fd sm s
  | .trapEntry h => Sys2Proof.Machine.execTrapEntry h s
  | .localTimer h => Sys2Proof.Machine.execLocalTimer h s
  | .stimecmpWrite h v => Sys2Proof.Machine.execStimecmpWrite h v s
  | .srseedWrite h v => Sys2Proof.Machine.execSrseedWrite h v s
  | .cvamaxAccess h csr wr => Sys2Proof.Machine.execCvamaxAccess h csr wr s
  | .registerWrite h csr v => Sys2Proof.Machine.execRegisterWrite h csr v s
  | .windowCsrAccess c addr wr => Sys2Proof.Machine.execWindowCsrAccess c addr wr s
  | .windowImemWrite c off bytes => Sys2Proof.Machine.execWindowImemWrite c off bytes s
  | .codeScanStart c => Sys2Proof.Machine.execCodeScanStart c s
  | .codecmtCompletion c => Sys2Proof.Machine.execCodecmtCompletion c s
  | .streamImageFetch h v => Sys2Proof.Machine.execStreamImageFetch h v s
  | .streamImageStore h v => Sys2Proof.Machine.execStreamImageStore h v s
  | .remoteRequest p => Sys2Proof.Machine.execRemoteRequest p s
  | .replyLanding p => Sys2Proof.Machine.execReplyLanding p s
  | .storeAck p => Sys2Proof.Machine.execStoreAck p s
  | .errorReply p => Sys2Proof.Machine.execErrorReply p s
  | .gatherLaneReply p => Sys2Proof.Machine.execGatherLaneReply p s
  | .virtualAccess p => Sys2Proof.Machine.execVirtualAccess p s
  | .priResponse die station slot page success => Sys2Proof.Machine.execPriResponse die station slot page success s
  | .atsCompletion die station slot page frame writable => Sys2Proof.Machine.execAtsCompletion die station slot page frame writable s
  | .atsInvalidation slot page => Sys2Proof.Machine.execAtsInvalidation slot page s
  | .feRequest p => Sys2Proof.Machine.execFeRequest p s
  | .feTimeout p => Sys2Proof.Machine.execFeTimeout p s
  | .feWithdraw h => Sys2Proof.Machine.execFeWithdraw h s
  | .engineQueueGrant clu eng => Sys2Proof.Machine.execEngineQueueGrant clu eng s
  | .copyCompletion clu => Sys2Proof.Machine.execCopyCompletion clu s
  | .typeEntryRead clu handle ty => Sys2Proof.Machine.execTypeEntryRead clu handle ty s
  | .taskRecordArrival p => Sys2Proof.Machine.execTaskRecordArrival p s
  | .taskBufferAccept clu => Sys2Proof.Machine.execTaskBufferAccept clu s
  | .acceptanceNotice p => Sys2Proof.Machine.execAcceptanceNotice p s
  | .beaconInterval clu => Sys2Proof.Machine.execBeaconInterval clu s
  | .beacon p => Sys2Proof.Machine.execBeacon p s
  | .neighbourSilence clu nbr => Sys2Proof.Machine.execNeighbourSilence clu nbr s
  | .dispatch clu => Sys2Proof.Machine.execDispatch clu s
  | .preemptionRequest clu => Sys2Proof.Machine.execPreemptionRequest clu s
  | .dec p => Sys2Proof.Machine.execDec p s
  | .joinOpArrival p => Sys2Proof.Machine.execJoinOpArrival p s
  | .release p => Sys2Proof.Machine.execRelease p s
  | .unpin p => Sys2Proof.Machine.execUnpin p s
  | .lost p => Sys2Proof.Machine.execLost p s
  | .dieFailureNotice die => Sys2Proof.Machine.execDieFailureNotice die s
  | .acceptanceTimeout clu ser => Sys2Proof.Machine.execAcceptanceTimeout clu ser s
  | .ringNotify p => Sys2Proof.Machine.execRingNotify p s
  | .hostRingPoll n => Sys2Proof.Machine.execHostRingPoll n s
  | .launchStart p => Sys2Proof.Machine.execLaunchStart p s
  | .launchEndNotice p => Sys2Proof.Machine.execLaunchEndNotice p s
  | .collect p => Sys2Proof.Machine.execCollect p s
  | .done p => Sys2Proof.Machine.execDone p s
  | .completionRingRetry handle => Sys2Proof.Machine.execCompletionRingRetry handle s
  | .depositArrival p => Sys2Proof.Machine.execDepositArrival p s
  | .depositHoldTimeout p => Sys2Proof.Machine.execDepositHoldTimeout p s
  | .armedReadTimeout h => Sys2Proof.Machine.execArmedReadTimeout h s
  | .handlerMessageArrival p => Sys2Proof.Machine.execHandlerMessageArrival p s
  | .handlerResend p => Sys2Proof.Machine.execHandlerResend p s
  | .handlerResendTimeout p => Sys2Proof.Machine.execHandlerResendTimeout p s
  | .handlerScan c slot => Sys2Proof.Machine.execHandlerScan c slot s
  | .handlerEntry h => Sys2Proof.Machine.execHandlerEntry h s
  | .channelPacketArrival p => Sys2Proof.Machine.execChannelPacketArrival p s
  | .channelResend h v => Sys2Proof.Machine.execChannelResend h v s
  | .channelImageTimeout p => Sys2Proof.Machine.execChannelImageTimeout p s
  | .contextArrival p => Sys2Proof.Machine.execContextArrival p s
  | .contextResend p => Sys2Proof.Machine.execContextResend p s
  | .spillRefill c => Sys2Proof.Machine.execSpillRefill c s
  | .leaseGrant clu => Sys2Proof.Machine.execLeaseGrant clu s
  | .leaseIdleTimeout clu => Sys2Proof.Machine.execLeaseIdleTimeout clu s
  | .engineCommandStart clu => Sys2Proof.Machine.execEngineCommandStart clu s
  | .engineCommandCompletion clu => Sys2Proof.Machine.execEngineCommandCompletion clu s
  | .drainCompletion clu => Sys2Proof.Machine.execDrainCompletion clu s
  | .engineCommandFailure clu => Sys2Proof.Machine.execEngineCommandFailure clu s
  | .slotClearDone clu => Sys2Proof.Machine.execSlotClearDone clu s
  | .sparseCommandStart clu eng => Sys2Proof.Machine.execSparseCommandStart clu eng s
  | .sparseCommandCompletion clu eng => Sys2Proof.Machine.execSparseCommandCompletion clu eng s
  | .scnvwTimeout h => Sys2Proof.Machine.execScnvwTimeout h s
  | .spawnWaitTimeout h => Sys2Proof.Machine.execSpawnWaitTimeout h s
  | .ringWaitTimeout h => Sys2Proof.Machine.execRingWaitTimeout h s
  | .flitReceive l flit => Sys2Proof.Machine.execFlitReceive l flit s
  | .nak l lseq => Sys2Proof.Machine.execNak l lseq s
  | .linkControlFlit l => Sys2Proof.Machine.execLinkControlFlit l s
  | .linkDrop l => Sys2Proof.Machine.execLinkDrop l s
  | .linkRetrained l => Sys2Proof.Machine.execLinkRetrained l s
  | .retrainTimeout l => Sys2Proof.Machine.execRetrainTimeout l s
  | .gatewayPacketArrival port eseq bytes => Sys2Proof.Machine.execGatewayPacketArrival port eseq bytes s
  | .sack port base bitmap => Sys2Proof.Machine.execSack port base bitmap s
  | .sackTimer port peer => Sys2Proof.Machine.execSackTimer port peer s
  | .e2eResend port eseq => Sys2Proof.Machine.execE2eResend port eseq s
  | .peerUnreachable port peer => Sys2Proof.Machine.execPeerUnreachable port peer s
  | .mcwCopyArrival p => Sys2Proof.Machine.execMcwCopyArrival p s
  | .groupInstall p => Sys2Proof.Machine.execGroupInstall p s
  | .grpwCompletion h => Sys2Proof.Machine.execGrpwCompletion h s
  | .keyrotCompletion port => Sys2Proof.Machine.execKeyrotCompletion port s
  | .keyrotTimeout h => Sys2Proof.Machine.execKeyrotTimeout h s
  | .droopStretch clu half => Sys2Proof.Machine.execDroopStretch clu half s
  | .droopRecover clu => Sys2Proof.Machine.execDroopRecover clu s
  | .saffronWatchdog die => Sys2Proof.Machine.execSaffronWatchdog die s
  | .bankRetire c bank => Sys2Proof.Machine.execBankRetire c bank s
  | .powerOn pkg mordantFw hartFw => Sys2Proof.Machine.execPowerOn pkg mordantFw hartFw s
  | .cxlMemAccess port addr len wr => Sys2Proof.Machine.execCxlMemAccess port addr len wr s
  | .cmdringWrite v => Sys2Proof.Machine.execCmdringWrite v s
  | .cmdRingPoll => Sys2Proof.Machine.execCmdRingPoll s
  | .attach tag pasid mode root => Sys2Proof.Machine.execAttach tag pasid mode root s
  | .detach tag slot => Sys2Proof.Machine.execDetach tag slot s
  | .ringbind tag n slot desc => Sys2Proof.Machine.execRingbind tag n slot desc s
  | .endlaunch tag slot root lseq => Sys2Proof.Machine.execEndlaunch tag slot root lseq s
  | .retire tag kind unit => Sys2Proof.Machine.execRetire tag kind unit s
  | .reload tag die clu addr len => Sys2Proof.Machine.execReload tag die clu addr len s
  | .chkpt tag base len off => Sys2Proof.Machine.execChkpt tag base len off s
  | .restore tag base len off => Sys2Proof.Machine.execRestore tag base len off s
  | .counters tag die clu buf => Sys2Proof.Machine.execCounters tag die clu buf s
  | .getVersion => Sys2Proof.Machine.execGetVersion s
  | .getCapabilities => Sys2Proof.Machine.execGetCapabilities s
  | .negotiateAlgorithms request => Sys2Proof.Machine.execNegotiateAlgorithms request s
  | .getDigests => Sys2Proof.Machine.execGetDigests s
  | .getCertificate slot off len => Sys2Proof.Machine.execGetCertificate slot off len s
  | .challenge nonce => Sys2Proof.Machine.execChallenge nonce s
  | .getMeasurements index nonce => Sys2Proof.Machine.execGetMeasurements index nonce s
  | .cxlPortDown port up => Sys2Proof.Machine.execCxlPortDown port up s
  | .keyStaging port key => Sys2Proof.Machine.execKeyStaging port key s
  | .fabricPeerReset port peer => Sys2Proof.Machine.execFabricPeerReset port peer s
  | .clusterFailure clu => Sys2Proof.Machine.execClusterFailure clu s
  | .spaustLaneFailure port => Sys2Proof.Machine.execSpaustLaneFailure port s
  | .chkptCompletion => Sys2Proof.Machine.execChkptCompletion s
  | .hdmDecoderSet base => Sys2Proof.Machine.execHdmDecoderSet base s

end Sys2Proof.Machine
end

