-- ==== Sys2Proof/Machine/Issue.lean ====
section
/-! DEFINITION. What a step does around an instruction of a hart: the fetch (R29, R30, R72), the
signature checks at the word reached (R69), prefix framing (R65), STALL_CHECK and early dependents
(R60), the scoreboard (R61), register errors (R102) and the cycle in which the word issues (R59). -/

namespace Sys2Proof.Machine
open Sys2Proof

/-! Fetch. -/

/-- What a fetch answers: the word and its signed attribute, or the instruction access fault. -/
inductive Fetched
  | word (w : W32) (signed : Bool)
  | fault
  deriving DecidableEq, Repr

/-- Word n of a core's code as it stands in memory. -/
def codeWord (s : State) (c n : Nat) : W32 := w32 (s.loadN (codeLoc c n) 4)

/-- The prefetch buffer after a fetch of code word n: of the sixteen words from n on, those executable
now, and those it already holds (R72). -/
def refill (s : State) (c : Nat) (C : Core) (H : Hart) (n : Nat) : List (Nat × W32) :=
  ((List.range 16).map fun i => n + i).filterMap fun k =>
    if SMap.get false C.exec k then some (k, codeWord s c k)
    else (H.prefetch.find? fun (j, _) => j == k)

/-- A fetch from code memory; whether the buffer still holds a word that is no longer executable is a
free value (R72, R76, DESIGN CHOICE, log 12). -/
def fetchCode (s : State) (h n : Nat) : State × Fetched :=
  let c := coreOf h
  let C := s.core c
  let H := s.hart h
  let sg := SMap.get false C.signed n
  if SMap.get false C.exec n then
    (s.setHart h { H with prefetch := refill s c C H n }, .word (codeWord s c n) sg)
  else
    match H.prefetch.find? fun (j, _) => j == n with
    | none => (s, .fault)
    | some (_, w) =>
      let (b, s) := s.draw
      (s, if b.getLsbD 0 then .word w sg else .fault)

/-- The word at the hart's pc (R29, R30, R303). -/
def fetch (s : State) (h : Nat) : State × Fetched :=
  let H := s.hart h
  let c := coreOf h
  let p := H.pc.toNat
  if p / 4 < codeWords c then fetchCode s h (p / 4)
  else
    match H.handler with
    | none => (s, .fault)
    | some r =>
      let off := p - (0x10000 + 256 * r.inslot)
      let count := match SMap.find? (s.core c).inbox r.inslot with | some q => q.count | none => 0
      if 0x10000 + 256 * r.inslot ≤ p ∧ off < 4 * count then
        (s, .word (w32 (s.loadN (winBase c + p) 4)) false)
      else (s, .fault)

/-! The signature checker at the word reached (R69). -/

/-- What the arrival at a word that is no SIG does: nothing, a mismatch, or the end of checking. -/
inductive Landing | plain | mismatch | leave
  deriving DecidableEq, Repr

def landing (H : Hart) (signed isSig : Bool) : Landing :=
  if H.arrival == .seq then .plain
  else if signed then (if isSig || !sigBit H.csr then .plain else .mismatch)
  else if H.fromSigned && H.chk.act then (if sigBit H.csr && sigBad H.chk then .mismatch else .leave)
  else .plain

/-! Early dependents (R60) and the scoreboard (R61). -/

/-- Unlanded results whose register the word reads or writes, oldest first. -/
def touched (H : Hart) (u : Uses) : List Pending :=
  H.pend.filter fun p => (u.reads ++ u.writes).contains (p.file, p.reg)

/-- STALL_CHECK's mtval: the register number and its file. -/
def stallTval (p : Pending) : Word :=
  word (p.reg + 32 * (match p.file with | .x => 0 | .f => 1 | .v => 2 | .m => 3))

/-- The old or the new value of each unlanded register, by free bits from position k (R60). -/
def earlyView (free : BitVec 512) : Nat → List Pending → Hart → Hart
  | _, [], H => H
  | k, p :: r, H => earlyView free (k + 1) r (if free.getLsbD k then H.setReg p.file p.reg p.old else H)

/-- After the word: each unlanded register has its new value, unless the word wrote it and its write
stands (R60). -/
def landEarly (free : BitVec 512) (done : Bool) (u : Uses) : Nat → List Pending → Hart → Hart
  | _, [], H => H
  | k, p :: r, H =>
    landEarly free done u (k + 1) r
      (if done && u.writes.contains (p.file, p.reg) && free.getLsbD k then H else H.setReg p.file p.reg p.new)

/-- The word must wait for a variable-latency result (R61, R74, R203). -/
def scoreboard (H : Hart) (u : Uses) : Bool :=
  let t := u.reads ++ u.writes
  H.gathers.any (fun g => t.contains (.v, g.vd) && g.left != 0)
  || match H.commit with | some rd => t.contains (.x, rd) | none => false

/-- A read of an armed register waits (R292). -/
def armedRead (H : Hart) (u : Uses) : Option Nat :=
  (u.reads.find? fun (q, n) => q == .x && H.armed.contains n).map fun (_, n) => n

/-! The cycle in which a word issues (R59, DESIGN CHOICE, log 6). -/

/-- FMT and SIG cost no issue cycle (R64, R66). -/
def costsCycle : Op → Bool
  | .fmt | .sig => false
  | _ => true

/-- Advance the core's clock to the cycle in which the hart's word issues, land what is due, and hold
the hart's next word to the next cycle. -/
def tick (s : State) (h : Nat) : State :=
  let c := coreOf h
  let t := max ((s.core c).cycle + 1) (s.hart h).hold + Config.freeCycles s.free
  let s := (advance s c t).modHart h fun H => { H with hold := t + 1, pend := H.pend.filter fun p => decide (t < p.due) }
  { s with free := s.free + 1 }

end Sys2Proof.Machine
end

