-- ==== Sys2Proof/Machine/Turn.lean ====
section
/-! DEFINITION. One turn of a hart: what it does before its word (interrupts R104, handlers R302, waits
R109), the checks around the word in the order of R105, and the word's meaning. And the default
schedule's choice among the device's own events (DESIGN CHOICE, log 4). -/

namespace Sys2Proof.Machine
open Sys2Proof

/-! Checks on the word reached. -/

/-- A mode or a CSR number makes the word illegal here (R42, R107, R109, R251, R408). -/
def illegalHere (s : State) (op : Op) (w : Nat) : Bool :=
  let H := s.me
  match op with
  | .csrrw | .csrrs | .csrrc | .csrrwi | .csrrsi | .csrrci => !csrMode s s.cur (fld w 20 12) H.mode
  | .mret | .cseal | .crestart | .keyrot => H.mode != .M
  | .sret | .jkset | .codecmt => H.mode == .U
  | .wfi => (match H.mode with | .U => true | .S => bit H.csr.mstatus 21 | .M => false)
  | .rpush | .rpop | .rpeek => H.mode == .M
  | .spawn | .spawnNb | .spawnr | .spawnat | .tend | .dqpush | .dqpop | .dqsplit | .dqspill | .grpbar | .grpw | .mcw | .migrate =>
    !(H.mode == .U && H.task.isSome)
  | _ => false

/-- The pending payload and the word do not fit (R65; DEDUCED, log 16). Bits [7:5] of a restored payload are not looked at
(DESIGN CHOICE, log 71). -/
def misfit (H : Hart) (op : Op) (w : Nat) : Bool :=
  if H.pfx then
    prefixUse op w == .plain || H.payload.toNat % 32 != 0 || fld H.payload.toNat 8 3 != 0 ||
      match payloadOf H.payload with
      | some p => !prefixFits op w p || oddPair op w p
      | none => true
  else prefixUse op w == .needs

/-- A SIG word meets a mismatch, which comes before every other cause (R69, R105). -/
def sigStops (H : Hart) (op : Op) (w : Nat) : Bool :=
  op == .sig && sigBit H.csr && (sigBad H.chk || (H.arrival == .indirect && fld w 19 1 == 0))

/-- Memory words whose own checks hold the deferred fault of a gather in the order of R105. -/
def checksGathers : Op → Bool
  | .vld | .vst | .vlds | .vsts | .gathA | .gathX | .scatA | .scatX => true
  | _ => false

/-- The gather whose failure the word meets, all its lanes having landed (R203). -/
def metGather (H : Hart) (op : Op) (u : Uses) : Option (Gather × Nat × Word) :=
  if checksGathers op then none
  else (H.gathers.find? fun g => g.left == 0 && g.bad.isSome && (u.reads ++ u.writes).contains (.v, g.vd)).bind fun g =>
    g.bad.map fun (_, c, a) => (g, c, a)

/-- The registers a live mask names. -/
def liveReads (e : LiveMask) : List (RFile × Nat) :=
  (named e.xm 32).map (fun n => (.x, n)) ++ (named e.fm 32).map (fun n => (.f, n)) ++ (named e.vm 32).map (fun n => (.v, n))
    ++ (named e.mm 8).map fun n => (.m, n)
/-- The registers a word reads besides its operands: a migrating context, an image (R101, R311). -/
def extraReads (s : State) (op : Op) (w : Nat) : List (RFile × Nat) :=
  match op with
  | .migrate => (List.range 8).map fun i => (.x, 10 + i)
  | .safept => if preempts s.me then liveReads (parseMask (recordBytes s (maskAddr s (fld w 20 10)) 16)) else []
  | _ => []
/-- The stored errors of the registers a word reads (R102): an armed register holds no value and none (R295). -/
def regFlaws (H : Hart) (l : List (RFile × Nat)) : SMap Bool :=
  H.flaws.filter fun (k, _) => l.any fun (q, n) => regNo q n == k / 16 && !(q == .x && H.armed.contains n)

/-- The word waits for unlanded results instead of meeting STALL_CHECK: ARM (R292) and the body of a VLOOP
(R145; DEDUCED, log 15). -/
def interlocks (H : Hart) (op : Op) : Bool := op == .arm || H.vloop.isSome
/-- Hold the hart's word until the results it touches have landed. -/
def holdFor (H : Hart) (l : List Pending) : Hart := { H with hold := l.foldl (fun t p => max t p.due) H.hold }

/-! The word. -/

/-- The meaning of a word that touches results that have not landed, with SCK = 0: each register it reads
has its old or its new value, and a write of its own may land first (R60, DESIGN CHOICE, log 5). -/
def execEarly (s : State) (i : Instr) (u : Uses) (l : List Pending) : Host.Outcome State Fault Refusal :=
  let h := s.cur
  let (free, s) := s.draw
  match exec i (s.modHart h fun H => earlyView free 0 l H) with
  | .next t =>
    let T := t.hart h
    let trapped := T.pend.isEmpty
    let waits := T.stalled.isSome
    .next (t.setHart h
      { landEarly free (!trapped && !waits) u 0 l T with
        pend := if waits then T.pend else T.pend.filter fun p => !l.contains p })
  | .fault r => .fault r
  | .refused r => .refused r

/-- The checks before the meaning, from illegal instruction on, in the order of R105, and the meaning (DEDUCED, log 15). -/
def meet (s : State) (op : Op) (w : W32) (i : Instr) : Host.Outcome State Fault Refusal :=
  let h := s.cur
  let H := s.me
  let u := usesOf op w.toNat (if H.pfx then payloadOf H.payload else none)
  let bad := if H.flaws.isEmpty then [] else regFlaws H (u.reads ++ extraReads s op w.toNat)
  if !H.lanes.isEmpty then exec i (tick s h)
  else if sigStops H op w.toNat then exec i s
  else if misfit H op w.toNat then finish s (.trap 2 (tvalOf 2 (w.setWidth 64)) .prefix_) s
  else if illegalHere s op w.toNat then exec i s
  else if scoreboard H u then finish s (.wait .issue) s
  else if bad.any fun e => e.2 then .next (hardSeal s (coreOf h))
  else
    match bad with
    | _ :: _ => .next (s.modHart h fun H => repairRegs H (bad.map fun e => e.1))
    | [] =>
      let s := if interlocks H op then s.modHart h fun H => holdFor H (touched H u) else s
      let s := if costsCycle op then tick s h else s
      let l := touched s.me u
      match armedRead s.me u, metGather s.me op u with
      | some n, _ => finish s (.wait (.armed .x n)) s
      | none, some (g, c, a) => if l.isEmpty || !sckBit s.me.csr then finish s (.trap c a (.gather g.vd)) s else finish s (.trap 25 (stallTval (l.headD ⟨.x, 0, 0, 0, 0⟩))) s
      | none, none =>
        match l with
        | [] => exec i s
        | p :: _ => if sckBit s.me.csr then finish s (.trap 25 (stallTval p)) s else execEarly s i u l

/-- The word at pc, whose signed attribute is `sg`, with the signature checks of its arrival (R69; DESIGN CHOICE, log 32). -/
noncomputable def issueWord (s : State) (w : W32) (sg : Bool) : Host.Outcome State Fault Refusal :=
  let h := s.cur
  match opOf w, decode w with
  | .ok op, .ok i =>
    let s := s.modHart h fun H => { H with ir := w, irSigned := sg }
    (match landing s.me sg (op == .sig) with
     | .mismatch => finish s (.trap 26 (sigTval s.me.chk s.me.chk.run s.me.chk.last)) s
     | .leave => meet (s.modHart h fun H => { H with chk := { H.chk with act := false } }) op w i
     | .plain => meet s op w i)
  | _, _ => .fault (.badWord w)

/-- The word the hart has without a fetch: one whose lanes are going (R202), or one the sequencer queue holds (R17, R145). -/
def queuedWord (H : Hart) : Option W32 :=
  if !H.lanes.isEmpty then some H.ir else H.vloop.bind fun v => v.queue[v.at_]?
/-- A fetched word of a VLOOP body enters the sequencer queue (R17). -/
def enqueue (H : Hart) (w : W32) : Hart := { H with vloop := H.vloop.map fun v => { v with queue := v.queue ++ [w] } }
/-- The word at pc, from the queue or by a fetch, and what it brings. -/
noncomputable def issuePc (s : State) : Host.Outcome State Fault Refusal :=
  match queuedWord s.me with
  | some w => issueWord s w s.me.irSigned
  | none =>
    match fetch s s.cur with
    | (s, .word w sg) => issueWord (if s.me.vloop.isSome then s.modHart s.cur fun H => enqueue H w else s) w sg
    | (s, .fault) =>
      match landing s.me false false with
      | .mismatch => finish s (.trap 26 (sigTval s.me.chk s.me.chk.run s.me.chk.last)) s
      | _ => finish s (.trap 1 (tvalOf 1 s.me.pc)) s

/-! The turn. -/

/-- A wait of WFI or WFM is over (R109): a bit set in both mip and mie; for WFM also a slot of the inbox
occupied for the hart, or a context in the core's arrival queue. -/
def wakes (s : State) (h : Nat) (wfm : Bool) : Bool :=
  let C := s.core (coreOf h)
  (s.hart h).csr.mie &&& mipOf s h != 0 ||
    (wfm && (!C.arrQ.isEmpty ||
      (!isMordant h && C.inbox.any fun (n, _) => n == 28 + hartIn h || (n / 7 == hartIn h && decide (n < 28)))))
/-- The hart goes on from its wait: the others try their word again. -/
def resumes (s : State) (h : Nat) : Bool :=
  match (s.hart h).stalled with
  | some .wfi => wakes s h false
  | some .wfm => wakes s h true
  | _ => !(s.hart h).lanes.isEmpty || mayLeave (s.hart h)
/-- The hart's word can be tried now. -/
def mayIssue (s : State) (h : Nat) : Bool :=
  coreRuns s h && !(s.hart h).free && (s.hart h).held.isNone && resumes s h
/-- A scanned handler that hart h can enter now. -/
def handlerDue (s : State) (h : Nat) : Bool :=
  !isMordant h && mayLeave (s.hart h) &&
    match oldestHandler (s.core (coreOf h)) (hartIn h) (s.hart h).running with
    | some n => (match SMap.find? (s.core (coreOf h)).inbox n with | some e => handlerReady s h e.slot | none => false)
    | none => false
/-- An interrupt that is taken now. -/
def interruptNow (s : State) (h : Nat) : Option Nat := if atBoundary s h then dueInterrupt s h else none

/-- The waiting end of the hart's work meets a fault, which comes before an interrupt of the same cycle (R255). -/
def waitFault (s : State) : Bool :=
  s.me.stalled.isSome &&
    (match opOf s.me.ir with
     | .ok .tend | .ok .migrate => true
     | .ok .safept => preempts s.me
     | _ => false) &&
    (match endPre s with | .trap _ _ _ => true | _ => false)
/-- The executing hart's word. -/
noncomputable def issueOwn (s : State) : Host.Outcome State Fault Refusal :=
  if ownBroken s.me then .next (hardSeal s (coreOf s.cur))
  else issuePc (if s.me.flaws.isEmpty then s else s.modHart s.cur repairOwn)
/-- The turn of the executing hart: an interrupt first, then a handler, then its word (R104, R302; DESIGN CHOICE, log 49). -/
noncomputable def issue (s : State) : Host.Outcome State Fault Refusal :=
  let h := s.cur
  match (if waitFault s then none else interruptNow s h) with
  | some n => .next (takeInterrupt s h n)
  | none =>
    if handlerDue s h then execHandlerEntry h s
    else if (s.hart h).held.isSome then execFeWithdraw h s
    else if mayIssue s h then issueOwn s
    else .next s

/-! The harts of a core (R17, R59). -/

/-- Hart h can do something in a turn of its own. -/
def eligible (s : State) (h : Nat) : Bool :=
  mayIssue s h || (interruptNow s h).isSome || handlerDue s h || ((s.hart h).held.isSome && (dueInterrupt s h).isSome)
/-- It is eligible and its word has not just stalled. -/
def fresh (s : State) (h : Nat) : Bool :=
  eligible s h && (match (s.hart h).stalled with | none | some .wfi | some .wfm => true | _ => false)
/-- Its word need not wait for the count of the word before (R59). -/
def soon (s : State) (h : Nat) : Bool := decide ((s.hart h).hold ≤ (s.core (coreOf h)).cycle + 1)
/-- The hart that issues next on the core of hart h (R17): the one that has the issue cycles goes on until it stalls or is held
back; then the next that is ready, in round-robin order. -/
def pick (s : State) (h : Nat) : Nat :=
  if isMordant h then h
  else
    let c := coreOf h
    let t := (s.core c).turn
    if fresh s (hartAt c t) && soon s (hartAt c t) then hartAt c t
    else
      let next := (List.range 4).map fun i => hartAt c ((t + 1 + i) % 4)
      ((next.find? fun k => eligible s k && soon s k) <|> next.find? (eligible s)).getD h
/-- A turn of the core of hart h: the hart that is next there has the issue cycles. -/
noncomputable def issueAt (s : State) (h : Nat) : Host.Outcome State Fault Refusal :=
  let k := pick s h
  let c := coreOf k
  issue { (if (s.core c).turn = hartIn k then s else s.modCore c fun C => { C with turn := hartIn k }) with cur := k }

/-! The default schedule (DESIGN CHOICE, log 4). -/

/-- What the network does with a packet. -/
def deliver (s : State) (p : Packet) : Host.Outcome State Fault Refusal :=
  match p.body with
  | .mem a op _ wh =>
    if isFeOp op then (if a < 2 ^ 63 then execVirtualAccess p.id s else execFeRequest p.id s)
    else if isJoinOp op then execJoinOpArrival p.id s
    else if wh == .new && decide (a < 2 ^ 63) then execVirtualAccess p.id s
    else execRemoteRequest p.id s
  | .reply _ _ sink r =>
    if r.isErr then execErrorReply p.id s
    else (match sink with
      | .held _ | .unit _ => execReplyLanding p.id s
      | .posted _ | .chan _ | .stream _ _ => execStoreAck p.id s
      | .lane _ _ => execGatherLaneReply p.id s)
  | .task _ _ _ _ _ => execTaskRecordArrival p.id s
  | .accepted _ _ _ => execAcceptanceNotice p.id s
  | .dec _ _ _ _ => execDec p.id s
  | .release _ _ => execRelease p.id s
  | .unpin _ _ => execUnpin p.id s
  | .lost _ _ _ => execLost p.id s
  | .ringNote _ _ _ _ => execRingNotify p.id s
  | .launch _ => execLaunchStart p.id s
  | .launchEnd _ => execLaunchEndNotice p.id s
  | .collect _ _ => execCollect p.id s
  | .done _ _ _ => execDone p.id s
  | .deposit _ _ => execDepositArrival p.id s
  | .handler _ _ _ _ _ => execHandlerMessageArrival p.id s
  | .errorRecord _ _ _ _ _ _ => execErrorReply p.id s
  | .channel _ _ _ _ _ _ _ => execChannelPacketArrival p.id s
  | .context _ _ _ => execContextArrival p.id s
  | .beacon _ _ _ _ => execBeacon p.id s
  | .group _ _ _ _ _ => execGroupInstall p.id s
  | .mcw _ _ _ _ _ => execMcwCopyArrival p.id s

/-- A step that has changed something, if it has. -/
def moved (s : State) : Host.Outcome State Fault Refusal → Option State
  | .next t => if { t with free := s.free } = s then none else some t
  | _ => none
/-- The first packet, oldest first, that the network can take a step on. -/
def deliverFirst (s : State) (l : List Packet) : Option State := l.findSome? fun p => moved s (deliver s p)

/-- What an end of a link does next: a flit of this package is received at the other end, a port sends, a full window is
acknowledged (R378 to R382). -/
def linkTurn (s : State) (l : Nat) (L : Link) : Option State :=
  match L.wire with
  | (_, f) :: _ => if isSpaust l then none else moved s (execFlitReceive (otherEnd l) f s)
  | [] => none
/-- The other steps of a port. -/
def portStep (s : State) (l : Nat) (L : Link) : Option State :=
  if 256 ≤ L.unacked.length ∧ !isSpaust l then moved s (execLinkControlFlit (otherEnd l) s) else moved s (.next (portTurn l s))
/-- The first end of a link that has a step to take. -/
def linkStep (s : State) : Option State :=
  (s.links.findSome? fun (l, L) => linkTurn s l L) <|> s.links.findSome? fun (l, L) => portStep s l L

/-- The hart after `h` in the order of the listed harts, the first one after the last. -/
def nextHart (s : State) (h : Nat) : Nat :=
  match List.find? (fun (x : Nat × Hart) => decide (h < x.1)) s.harts with
  | some (k, _) => k
  | none => match s.harts with
    | (k, _) :: _ => k
    | [] => h

/-- With no turn on the agenda: the current hart's core runs while a hart of it can, then the network moves, then the links,
then the core of the next hart has its turn. -/
noncomputable def idle (s : State) : Host.Outcome State Fault Refusal :=
  if (hartsOf (coreOf s.cur)).any (fresh s) then issueAt s s.cur
  else match deliverFirst s s.net <|> linkStep s with
    | some t => .next t
    | none => issueAt s (nextHart s s.cur)

end Sys2Proof.Machine
end

