-- ==== Sys2Proof/Machine/Step.lean ====
section
/-! DEFINITION. One step of the package: the next turn of the agenda, or the default schedule's choice
(DESIGN CHOICE, log 4). And the state in which a given word is the next one fetched. -/

namespace Sys2Proof.Machine
open Sys2Proof

/-- One turn: a core's, named by a hart of it, a step of another agent, a hart's firmware, or an output port's. A word of a hart
is no step of another agent. -/
noncomputable def takeTurn (s : State) : Turn → Host.Outcome State Fault Refusal
  | .hart h => issueAt s h
  | .step i => if (encode i).isEmpty then exec i s else .next s
  | .firmware h => .next (firmwareTurn h s)
  | .port l => .next (portTurn l s)

/-- One step. -/
noncomputable def step (s : State) : Host.Outcome State Fault Refusal :=
  match s.agenda with
  | t :: r => takeTurn { s with agenda := r } t
  | [] => idle s

/-- The core and the hart that fetch a probe word: worker core 0 and its hart 0 in M mode; for CSEAL and
CRESTART, which only a Mordant core has (R408), the Mordant core of cluster 0. -/
def probeCore (w : W32) : Nat :=
  match opOf w with
  | .ok .cseal | .ok .crestart => 8192
  | _ => 0

/-- `s` with the word `w` the next one fetched: the core runs, word 0 of its code is `w` and executable, its
hart is at word 0 and has the turn (DESIGN CHOICE, log 1). -/
def State.withFetchWord (s : State) (nbits w : Nat) : State :=
  let v := w32 (w % 2 ^ (min nbits 32))
  let c := probeCore v
  let h := hartAt c 0
  let s := { s with mem := s.mem.writeBytes (codeLoc c 0) (Sys2Proof.wordBytes v), cur := h, agenda := [] }
  let s := s.modCore c fun C => { C with isSealed := false, turn := 0, exec := SMap.put C.exec 0 true }
  s.modHart h fun H => { H with pc := 0, mode := .M }

end Sys2Proof.Machine
end

