-- ==== Sys2Proof/WellFormed.lean ====
section
/-! DEFINITION. What makes an instruction legal beyond its shape, as far as one word shows it: type
codes (R48), the bank rule (R45), CSR numbers (R40), loop offsets (R57), the FMT payload (R62). What
needs the words around it is checked by the scanner (Machine/Scan.lean). -/

namespace Sys2Proof

/-- One vector source from each bank (R45). -/
def banksOk (a b : BitVec 5) : Bool := a.toNat % 2 != b.toNat % 2

/-- A FENCE word that is not also FENCE.TSO or PAUSE (R39). -/
def plainFence (fm pred succ : BitVec 4) (rd rs1 : BitVec 5) : Bool :=
  !(fm == 8 && pred == 3 && succ == 3) && !(fm == 0 && pred == 1 && succ == 0 && rd == 0 && rs1 == 0)

/-- The checks on one instruction. A step of another agent is no word and has none. -/
def Instr.wf : Instr → Bool
  | .vadd _ a b _ _ | .vsub _ a b _ _ | .vmul _ a b _ _ | .vmin _ a b _ _ | .vmax _ a b _ _ => banksOk a b
  | .vfma _ a b t _ | .vfms _ a b t _ => banksOk a b && t.isFloat
  | .vdot4 _ a b t _ => banksOk a b && (t == .i8 || t == .pre)
  | .vcmp _ _ a b _ _ => banksOk a b
  | .vshl _ a b t _ | .vshr _ a b t _ | .vsra _ a b t _ => banksOk a b && t.isInt
  | .vand _ a b _ | .vor _ a b _ | .vxor _ a b _ => banksOk a b
  | .vperm _ a b _ _ => banksOk a b
  | .vsel _ a b _ _ => banksOk a b
  | .vabs _ _ t _ | .vneg _ _ t _ => t.isSigned
  | .vexp2 _ _ t _ | .vlog2 _ _ t _ | .vrcp _ _ t _ | .vrsq _ _ t _ => t.isFloat
  | .scatA v _ => v.toNat % 2 == 1
  | .scatX v _ b => banksOk v b
  | .csrrw _ _ n | .csrrwi _ _ n => csrOk n.toNat true
  | .csrrs _ a n | .csrrc _ a n | .csrrsi _ a n | .csrrci _ a n => csrOk n.toNat (a != 0)
  | .hloop _ _ soff eoff => decide (soff.toNat < eoff.toNat)
  | .fence fm pred succ rd rs1 => plainFence fm pred succ rd rs1
  | _ => true

end Sys2Proof
end

