-- ==== Sys2Proof/Laws/Encoding.lean ====
section
/-! SUPPORT. A word as its six fields (funct7, rs2, rs1, funct3, rd, major), every field the decoder reads
in terms of them, and the two steps by which an encoded instruction decodes to itself. -/

namespace Sys2Proof

/-- Every field the decoder reads of a word n. -/
structure Fields (n m f7 b a f3 d : Nat) : Prop where
  p0   : fld n 0 7 = m
  p7   : fld n 7 5 = d
  p12  : fld n 12 3 = f3
  p15  : fld n 15 5 = a
  p20  : fld n 20 5 = b
  p25  : fld n 25 7 = f7
  i12  : fld n 20 12 = f7 * 32 + b
  i20  : fld n 12 20 = f7 * 8192 + b * 256 + a * 8 + f3
  p28  : fld n 28 4 = f7 / 8
  p25b : fld n 25 3 = f7 % 8
  p27  : fld n 27 5 = f7 / 4
  p27b : fld n 27 3 = f7 / 4 % 8
  p25c : fld n 25 2 = f7 % 4
  p26  : fld n 26 1 = f7 / 2 % 2
  p25d : fld n 25 1 = f7 % 2
  p26b : fld n 26 6 = f7 / 2
  p25e : fld n 25 6 = f7 % 64
  p31  : fld n 31 1 = f7 / 64
  p24  : fld n 24 4 = f7 % 8 * 2 + b / 16
  p22  : fld n 22 1 = b / 4 % 2
  p22b : fld n 22 10 = f7 * 8 + b / 4
  p21  : fld n 21 1 = b / 2 % 2
  p21b : fld n 21 5 = f7 % 2 * 16 + b / 2
  p21c : fld n 21 10 = f7 % 64 * 16 + b / 2
  p23  : fld n 23 2 = b / 8
  p20b : fld n 20 6 = f7 % 2 * 32 + b
  p20c : fld n 20 4 = b % 16
  p20d : fld n 20 3 = b % 8
  p20e : fld n 20 2 = b % 4
  p20f : fld n 20 1 = b % 2
  p15b : fld n 15 3 = a % 8
  p15c : fld n 15 10 = b * 32 + a
  p15d : fld n 15 2 = a % 4
  p16  : fld n 16 4 = a / 2
  p17  : fld n 17 2 = a / 4 % 4
  p18  : fld n 18 3 = b % 2 * 4 + a / 8
  p18b : fld n 18 2 = a / 8
  p18c : fld n 18 1 = a / 8 % 2
  p19  : fld n 19 1 = a / 16
  p19b : fld n 19 2 = b % 2 * 2 + a / 16
  p12b : fld n 12 2 = f3 % 4
  p12c : fld n 12 8 = a * 8 + f3
  p13  : fld n 13 2 = f3 / 2
  p7b  : fld n 7 3 = d % 8
  p7c  : fld n 7 2 = d % 4
  p7d  : fld n 7 1 = d % 2
  p7e  : fld n 7 4 = d % 16
  p8   : fld n 8 4 = d / 2
  p9   : fld n 9 3 = d / 4
  p10  : fld n 10 2 = d / 8
  p11  : fld n 11 1 = d / 16

theorem encR_toNat {m f7 b a f3 d : Nat} (hm : m < 128) (h7 : f7 < 128) (hb : b < 32) (ha : a < 32) (h3 : f3 < 8)
    (hd : d < 32) :
    (encR m f7 b a f3 d).toNat = m + d * 2 ^ 7 + f3 * 2 ^ 12 + a * 2 ^ 15 + b * 2 ^ 20 + f7 * 2 ^ 25 := by
  simp only [encR, w32, BitVec.toNat_ofNat]
  omega

/-- A field inside a field. -/
theorem fld_in (n lo k j w : Nat) (h : k + j ≤ w) : fld n (lo + k) j = fld n lo w / 2 ^ k % 2 ^ j := by
  unfold fld
  obtain ⟨e, rfl⟩ : ∃ e, w = k + (j + e) := ⟨w - k - j, by omega⟩
  rw [Nat.pow_add 2 k (j + e), Nat.mod_mul_right_div_self, Nat.pow_add 2 lo k, ← Nat.div_div_eq_div_mul, Nat.pow_add 2 j e,
    Nat.mod_mul_right_mod]

/-- A field of two parts. -/
theorem fld_cat (n lo j k : Nat) : fld n lo (j + k) = fld n (lo + j) k * 2 ^ j + fld n lo j := by
  unfold fld
  rw [Nat.pow_add 2 lo j, ← Nat.div_div_eq_div_mul, Nat.pow_add 2 j k, Nat.mod_mul, Nat.mul_comm, Nat.add_comm]

theorem fields {m f7 b a f3 d : Nat} (hm : m < 128) (h7 : f7 < 128) (hb : b < 32) (ha : a < 32) (h3 : f3 < 8)
    (hd : d < 32) : Fields (encR m f7 b a f3 d).toNat m f7 b a f3 d := by
  have hn := encR_toNat hm h7 hb ha h3 hd
  generalize (encR m f7 b a f3 d).toNat = n at hn
  have h0 : fld n 0 7 = m := by simp only [fld]; omega
  have e7 : fld n 7 5 = d := by simp only [fld]; omega
  have e12 : fld n 12 3 = f3 := by simp only [fld]; omega
  have e15 : fld n 15 5 = a := by simp only [fld]; omega
  have e20 : fld n 20 5 = b := by simp only [fld]; omega
  have e25 : fld n 25 7 = f7 := by simp only [fld]; omega
  have i20 : fld n 20 12 = f7 * 32 + b := by rw [fld_cat n 20 5 7, e20, e25]; rfl
  have u : fld n 12 8 = a * 8 + f3 := by rw [fld_cat n 12 3 5, e12, e15]; rfl
  have ba : fld n 15 10 = b * 32 + a := by rw [fld_cat n 15 5 5, e15, e20]; rfl
  clear hn
  constructor
  · exact h0
  · exact e7
  · exact e12
  · exact e15
  · exact e20
  · exact e25
  · exact i20
  · rw [fld_cat n 12 8 12, u, i20]; omega
  · rw [fld_in n 25 3 4 7 (by decide), e25]; omega
  · rw [fld_in n 25 0 3 7 (by decide), e25]; omega
  · rw [fld_in n 25 2 5 7 (by decide), e25]; omega
  · rw [fld_in n 25 2 3 7 (by decide), e25]; rfl
  · rw [fld_in n 25 0 2 7 (by decide), e25]; omega
  · rw [fld_in n 25 1 1 7 (by decide), e25]; rfl
  · rw [fld_in n 25 0 1 7 (by decide), e25]; omega
  · rw [fld_in n 25 1 6 7 (by decide), e25]; omega
  · rw [fld_in n 25 0 6 7 (by decide), e25]; omega
  · rw [fld_in n 25 6 1 7 (by decide), e25]; omega
  · rw [fld_in n 20 4 4 12 (by decide), i20]; omega
  · rw [fld_in n 20 2 1 5 (by decide), e20]; rfl
  · rw [fld_in n 20 2 10 12 (by decide), i20]; omega
  · rw [fld_in n 20 1 1 5 (by decide), e20]; rfl
  · rw [fld_in n 20 1 5 12 (by decide), i20]; omega
  · rw [fld_in n 20 1 10 12 (by decide), i20]; omega
  · rw [fld_in n 20 3 2 5 (by decide), e20]; omega
  · rw [fld_in n 20 0 6 12 (by decide), i20]; omega
  · rw [fld_in n 20 0 4 5 (by decide), e20]; omega
  · rw [fld_in n 20 0 3 5 (by decide), e20]; omega
  · rw [fld_in n 20 0 2 5 (by decide), e20]; omega
  · rw [fld_in n 20 0 1 5 (by decide), e20]; omega
  · rw [fld_in n 15 0 3 5 (by decide), e15]; omega
  · exact ba
  · rw [fld_in n 15 0 2 5 (by decide), e15]; omega
  · rw [fld_in n 15 1 4 5 (by decide), e15]; omega
  · rw [fld_in n 15 2 2 5 (by decide), e15]; rfl
  · rw [fld_in n 15 3 3 10 (by decide), ba]; omega
  · rw [fld_in n 15 3 2 5 (by decide), e15]; omega
  · rw [fld_in n 15 3 1 5 (by decide), e15]; rfl
  · rw [fld_in n 15 4 1 5 (by decide), e15]; omega
  · rw [fld_in n 15 4 2 10 (by decide), ba]; omega
  · rw [fld_in n 12 0 2 3 (by decide), e12]; omega
  · exact u
  · rw [fld_in n 12 1 2 3 (by decide), e12]; omega
  · rw [fld_in n 7 0 3 5 (by decide), e7]; omega
  · rw [fld_in n 7 0 2 5 (by decide), e7]; omega
  · rw [fld_in n 7 0 1 5 (by decide), e7]; omega
  · rw [fld_in n 7 0 4 5 (by decide), e7]; omega
  · rw [fld_in n 7 1 4 5 (by decide), e7]; omega
  · rw [fld_in n 7 2 3 5 (by decide), e7]; omega
  · rw [fld_in n 7 3 2 5 (by decide), e7]; omega
  · rw [fld_in n 7 4 1 5 (by decide), e7]; omega

/-- custom-3 but FMT, on fields. -/
def decCustom3F (f7 b a f3 d : Nat) : Option Op :=
  match f3 with
  | 0 =>
    match d % 4 with
    | 0 => some .mstg
    | 1 => some .mstgAcc
    | _ => none
  | 1 =>
    if a / 8 % 2 == 0 then
      match d % 4 with
      | 0 => some .mxst
      | 1 => some .mxstAcc
      | _ => none
    else none
  | 2 => when? (ChainFmt.ofCode (d % 4)).isSome .mchain
  | 3 => when? (ChainFmt.ofCode (d % 4)).isSome .mchainAcc
  | 4 => if f7 == 0x30 then when? (d == 0) .safept else decMat f7 b a d
  | 5 =>
    if a % 4 == 0 && d % 16 == 0 then when? (EndKind.ofCode (a / 4 % 4 * 2 + d / 16)).isSome .sig else none
  | 6 => when? (d / 2 == 0) .hloop
  | _ => none

/-- The row of a word by its fields; the quotients of funct7 and the 12-bit immediate are given beside it. -/
def majorF (m f7 q28 q25 q27 r25 i12 b a f3 d : Nat) : Option Op :=
  match m with
  | 0x03 => decLoad f3
  | 0x07 => when? (f3 == 2) .flw
  | 0x0B => decCustom0 q28 q25 b a f3 d
  | 0x0F => decFence i12 a f3 d
  | 0x13 => decOpImm i12 f3
  | 0x17 => some .auipc
  | 0x1B => decOpImm32 i12 f3
  | 0x23 => decStore f3
  | 0x27 => when? (f3 == 2) .fsw
  | 0x2B => decCustom1 q28 q25 b a f3 d
  | 0x2F => decAmo q27 b f3
  | 0x33 => decOp f7 f3
  | 0x37 => some .lui
  | 0x3B => decOp32 f7 f3
  | 0x43 => decFma 0x43 r25 f3
  | 0x47 => decFma 0x47 r25 f3
  | 0x4B => decFma 0x4B r25 f3
  | 0x4F => decFma 0x4F r25 f3
  | 0x53 => decFp f7 b f3
  | 0x5B => if f3 == 3 && f7 == 4 then when? (b == 0 && d / 8 == 3) .chbind else decCustom2 f7 b a f3 d
  | 0x63 => decBranch f3
  | 0x67 => when? (f3 == 0) .jalr
  | 0x6F => some .jal
  | 0x73 => decSystem i12 a f3 d
  | 0x7B => decCustom3F f7 b a f3 d
  | _ => none

theorem decMajor_fields {n m f7 b a f3 d : Nat} (F : Fields n m f7 b a f3 d) :
    decMajor n = majorF m f7 (f7 / 8) (f7 % 8) (f7 / 4) (f7 % 4) (f7 * 32 + b) b a f3 d := by
  have h : decCustom3 n = decCustom3F f7 b a f3 d := by
    unfold decCustom3 decCustom3F
    rw [F.p12, F.p7c, F.p18c, F.p25, F.p20, F.p15, F.p7, F.p15d, F.p7e, F.p17, F.p11, F.p8] <;> rfl
  unfold decMajor majorF
  rw [F.p0, F.p7, F.p12, F.p15, F.p20, F.p25, F.i12, F.p28, F.p25b, F.p27, F.p25c, h] <;> rfl

/-- A word that is no FMT word decodes by its major opcode. -/
theorem decode_of {w : W32} {op : Op} (hf : (fld w.toNat 0 7 == 0x7B && fld w.toNat 12 3 == 7) = false)
    (h : decMajor w.toNat = some op) : decode w = .ok (build w.toNat op) := by
  unfold decode opOf
  simp only [hf, h, Bool.false_eq_true, if_false]

/-- An instruction whose word has the given fields, whose row they name and from whose fields it is built,
decodes to itself. -/
theorem decode_fields {i : Instr} {op : Op} {W : W32} {m f7 b a f3 d q28 q25 q27 r25 i12 : Nat}
    (hW : W = encR m f7 b a f3 d)
    (hm : m < 128) (h7 : f7 < 128) (hb : b < 32) (ha : a < 32) (h3 : f3 < 8) (hd : d < 32)
    (e28 : f7 / 8 = q28) (e25 : f7 % 8 = q25) (e27 : f7 / 4 = q27) (f25 : f7 % 4 = r25) (e12 : f7 * 32 + b = i12)
    (hf : (m == 0x7B && f3 == 7) = false)
    (ho : majorF m f7 q28 q25 q27 r25 i12 b a f3 d = some op)
    (hi : ∀ n, Fields n m f7 b a f3 d → build n op = i) : decode W = .ok i := by
  subst hW
  have F := fields hm h7 hb ha h3 hd
  have h : decMajor (encR m f7 b a f3 d).toNat = some op := by
    rw [decMajor_fields F, e28, e25, e27, f25, e12]; exact ho
  rw [decode_of (by rw [F.p0, F.p12]; exact hf) h]
  exact congrArg Except.ok (hi _ F)

/-! The other layouts as fields. -/

theorem encI_fields (m imm a f3 d : Nat) : encI m imm a f3 d = encR m (imm / 32) (imm % 32) a f3 d := by
  unfold encI encR; congr 1; omega
theorem encU_fields (m imm d : Nat) : encU m imm d = encR m (imm / 8192) (imm / 256 % 32) (imm / 8 % 32) (imm % 8) d := by
  unfold encU encR; congr 1; omega
theorem encM_fields (f3 sx sw ac ms c cf : Nat) :
    encM f3 sx sw ac ms c cf = encR 0x7B (sx * 2 + sw / 16) (sw % 16 * 2 + ac / 4) (ac % 4 * 8 + ms) f3 (c * 4 + cf) := by
  unfold encM encR; congr 1; omega

/-! Operand fields. -/

@[simp] theorem r5_toNat (r : BitVec 5) : r5 r.toNat = r := by simp [r5]
theorem ofNat_of {n k : Nat} {x : BitVec n} (h : k = x.toNat) : BitVec.ofNat n k = x := by subst h; simp
theorem div8_lt8 (x : BitVec 3) : x.toNat / 8 = 0 := by have := x.isLt; omega

@[simp] theorem VType.ofCode_code (t : VType) : VType.ofCode t.code = some t := by cases t <;> rfl
@[simp] theorem Fmt.ofCode_code (t : Fmt) : Fmt.ofCode t.code = some t := by cases t <;> rfl
@[simp] theorem ScaleMode.ofCode_code (t : ScaleMode) : ScaleMode.ofCode t.code = some t := by cases t <;> rfl
@[simp] theorem Scope.ofCode_code (t : Scope) : Scope.ofCode t.code = some t := by cases t <;> rfl
@[simp] theorem FKind.ofCode_code (t : FKind) : FKind.ofCode t.code = some t := by cases t <;> rfl
@[simp] theorem MemW.ofCode_code (t : MemW) : MemW.ofCode t.code = some t := by cases t <;> rfl
@[simp] theorem VWidth.ofCode_code (t : VWidth) : VWidth.ofCode t.code = some t := by cases t <;> rfl
@[simp] theorem Rm.ofCode_code (t : Rm) : Rm.ofCode t.code = some t := by cases t <;> rfl
@[simp] theorem CvRm.ofCode_code (t : CvRm) : CvRm.ofCode t.code = some t := by cases t <;> rfl
@[simp] theorem Cc.ofCode_code (t : Cc) : Cc.ofCode t.code = some t := by cases t <;> rfl
@[simp] theorem ChainFmt.ofCode_code (t : ChainFmt) : ChainFmt.ofCode t.code = some t := by cases t <;> rfl
@[simp] theorem EndKind.ofCode_code (t : EndKind) : EndKind.ofCode t.code = some t := by cases t <;> rfl

theorem VType.code_lt (t : VType) : t.code < 8 := by cases t <;> decide
theorem Fmt.code_lt (t : Fmt) : t.code < 16 := by cases t <;> decide
theorem ScaleMode.code_lt (t : ScaleMode) : t.code < 4 := by cases t <;> decide
theorem Scope.code_lt (t : Scope) : t.code < 8 := by cases t <;> decide
theorem FKind.code_lt (t : FKind) : t.code < 4 := by cases t <;> decide
theorem MemW.code_lt (t : MemW) : t.code < 4 := by cases t <;> decide
theorem VWidth.code_lt (t : VWidth) : t.code < 3 := by cases t <;> decide
theorem Rm.code_lt (t : Rm) : t.code < 8 := by cases t <;> decide
theorem CvRm.code_lt (t : CvRm) : t.code < 4 := by cases t <;> decide
theorem Cc.code_lt (t : Cc) : t.code < 4 := by cases t <;> decide
theorem ChainFmt.code_lt (t : ChainFmt) : t.code < 4 := by cases t <;> decide
theorem EndKind.code_lt (t : EndKind) : t.code < 8 := by cases t <;> decide

end Sys2Proof
end

