-- ==== Sys2Proof/Laws/PerInstr.lean ====
section
/-! SUPPORT. Statements about every instruction, one lemma per constructor: RoundTrip, a well-formed
instruction's word decodes to that instruction (a step of another agent has no word). -/

namespace Sys2Proof.Laws.RoundTrip
open Sys2Proof

/-- Every word of a well-formed instruction decodes to the instruction. -/
def Statement (i : Instr) : Prop := i.wf = true → ∀ w, w ∈ encode i → decode w = .ok i

theorem of_none {i : Instr} (h : encode i = []) : Statement i := by
  intro _ w hw
  rw [h] at hw
  cases hw

theorem of_word {i : Instr} {W : W32} (h : encode i = [W]) (hd : i.wf = true → decode W = .ok i) : Statement i := by
  intro hwf w hw
  rw [h, List.mem_singleton] at hw
  rw [hw]
  exact hd hwf

theorem branch_parts {o : Nat} (h : o < 2 ^ 12) :
    (o / 2048 * 64 + o / 16 % 64) / 64 * 2048 + (o % 16 * 2 + o / 1024 % 2) % 2 * 1024
      + (o / 2048 * 64 + o / 16 % 64) % 64 * 16 + (o % 16 * 2 + o / 1024 % 2) / 2 = o := by
  have h1 : (o / 2048 * 64 + o / 16 % 64) / 64 = o / 2048 := by omega
  have h2 : (o / 2048 * 64 + o / 16 % 64) % 64 = o / 16 % 64 := by omega
  have h3 : (o % 16 * 2 + o / 1024 % 2) % 2 = o / 1024 % 2 := by omega
  have h4 : (o % 16 * 2 + o / 1024 % 2) / 2 = o % 16 := by omega
  rw [h1, h2, h3, h4]
  clear h1 h2 h3 h4
  omega

theorem jal_parts {o : Nat} (h : o < 2 ^ 20) :
    (o % 1024 / 16 + o / 524288 * 64) / 64 * 524288 + (o / 16384 % 32 * 8 + o / 2048 % 8) * 2048
      + (o / 1024 % 2 + o % 16 * 2) % 2 * 1024
      + ((o % 1024 / 16 + o / 524288 * 64) % 64 * 16 + (o / 1024 % 2 + o % 16 * 2) / 2) = o := by
  have h1 : (o % 1024 / 16 + o / 524288 * 64) / 64 = o / 524288 := by omega
  have h2 : o / 16384 % 32 * 8 + o / 2048 % 8 = o / 2048 % 256 := by omega
  have h3 : (o / 1024 % 2 + o % 16 * 2) % 2 = o / 1024 % 2 := by omega
  have h4 : (o % 1024 / 16 + o / 524288 * 64) % 64 = o % 1024 / 16 := by omega
  have h5 : (o / 1024 % 2 + o % 16 * 2) / 2 = o % 16 := by omega
  rw [h1, h2, h3, h4, h5]
  clear h1 h2 h3 h4 h5
  omega

theorem jal_word {o d : Nat} (h : o < 2 ^ 20) :
    0x6F + d * 2 ^ 7 + o / 2048 % 256 * 2 ^ 12 + o / 1024 % 2 * 2 ^ 20 + o % 1024 * 2 ^ 21 + o / 524288 * 2 ^ 31
      = 0x6F + d * 2 ^ 7 + o / 2048 % 8 * 2 ^ 12 + o / 16384 % 32 * 2 ^ 15 + (o / 1024 % 2 + o % 16 * 2) * 2 ^ 20
        + (o % 1024 / 16 + o / 524288 * 64) * 2 ^ 25 := by
  have h2 : o / 2048 % 256 = o / 16384 % 32 * 8 + o / 2048 % 8 := by omega
  have h4 : o % 1024 = o % 1024 / 16 * 16 + o % 16 := by omega
  rw [h2]
  generalize o / 16384 % 32 = a, o / 2048 % 8 = b, o / 1024 % 2 = c, o / 524288 = e at *
  generalize o % 1024 = f at *
  generalize o % 16 = g at *
  omega

theorem toNat_ne (r : BitVec 5) : (r.toNat != 0) = (r != 0) := by
  by_cases h : r = 0
  · subst h; rfl
  · have : r.toNat ≠ 0 := fun hn => h (BitVec.eq_of_toNat_eq hn)
    rw [bne_iff_ne.2 this, bne_iff_ne.2 h]

theorem decFence_plain {fm pred succ : BitVec 4} {rd rs1 : BitVec 5} (h : plainFence fm pred succ rd rs1 = true) :
    decFence (fm.toNat * 256 + pred.toNat * 16 + succ.toNat) rs1.toNat 0 rd.toNat = some .fence := by
  have h1 := fm.isLt
  have h2 := pred.isLt
  have h3 := succ.isLt
  have e4 (x : BitVec 4) (k : Nat) (hk : k < 16) : x = BitVec.ofNat 4 k ↔ x.toNat = k := by
    rw [BitVec.toNat_eq, BitVec.toNat_ofNat, Nat.mod_eq_of_lt hk]
  have e5 (x : BitVec 5) : x = 0 ↔ x.toNat = 0 := by rw [BitVec.toNat_eq]; rfl
  have g : ¬ (fm.toNat = 8 ∧ pred.toNat = 3 ∧ succ.toNat = 3) ∧
      ¬ (fm.toNat = 0 ∧ pred.toNat = 1 ∧ succ.toNat = 0 ∧ rd.toNat = 0 ∧ rs1.toNat = 0) := by
    rw [← e4 fm 8 (by decide), ← e4 pred 3 (by decide), ← e4 succ 3 (by decide), ← e4 fm 0 (by decide),
      ← e4 pred 1 (by decide), ← e4 succ 0 (by decide), ← e5, ← e5]
    simp [plainFence] at h
    tauto
  unfold decFence
  rw [if_neg (by decide), if_neg, if_neg]
  · simp only [beq_iff_eq]; omega
  · simp only [Bool.and_eq_true, beq_iff_eq]; omega

/-- The FMT word of given codes. -/
theorem fmt_of {w : W32} {fa fb fd : Fmt} {sm : ScaleMode} (h0 : fld w.toNat 0 7 = 0x7B) (h3 : fld w.toNat 12 3 = 7)
    (ha : fld w.toNat 28 4 = fa.code) (hb : fld w.toNat 24 4 = fb.code) (hd : fld w.toNat 20 4 = fd.code)
    (hs : fld w.toNat 18 2 = sm.code) (hz : fld w.toNat 15 3 = 0) (h7 : fld w.toNat 7 5 = 0) :
    decode w = .ok (.fmt fa fb fd sm) := by
  have h : opOf w = .ok .fmt := by
    unfold opOf decFmt
    simp only [h0, h3, ha, hb, hd, hs, hz, h7, Fmt.ofCode_code, ScaleMode.ofCode_code]
    rfl
  unfold decode
  rw [h]
  show Except.ok (Instr.fmt ((Fmt.ofCode (fld w.toNat 28 4)).getD .none) ((Fmt.ofCode (fld w.toNat 24 4)).getD .none)
    ((Fmt.ofCode (fld w.toNat 20 4)).getD .none) ((ScaleMode.ofCode (fld w.toNat 18 2)).getD .plain)) = _
  rw [ha, hb, hd, hs, Fmt.ofCode_code, Fmt.ofCode_code, Fmt.ofCode_code, ScaleMode.ofCode_code]
  rfl

theorem lui (rd : BitVec 5) (imm : BitVec 20) : Statement (.lui rd imm) := by
  refine of_word rfl fun _ => ?_
  have hrd := rd.isLt
  have himm := imm.isLt
  refine decode_fields (op := .lui) (m := 0x37) (f7 := (imm.toNat / 8192)) (b := (imm.toNat / 256 % 32)) (a := (imm.toNat / 8 % 32)) (f3 := (imm.toNat % 8)) (d := rd.toNat)
    (encU_fields _ _ _) (by decide) (by omega) (by omega) (by omega) (by omega) (by omega) (rfl) (rfl) (rfl) (rfl) (rfl) rfl
    (rfl) fun n F => ?_
  have e0 : (r5 (fld n 7 5)) = rd := ofNat_of (F.p7.trans (by omega))
  have e1 : (BitVec.ofNat 20 (fld n 12 20)) = imm := ofNat_of (F.i20.trans (by omega))
  show Instr.lui (r5 (fld n 7 5)) (BitVec.ofNat 20 (fld n 12 20)) = _
  rw [e0, e1]

theorem auipc (rd : BitVec 5) (imm : BitVec 20) : Statement (.auipc rd imm) := by
  refine of_word rfl fun _ => ?_
  have hrd := rd.isLt
  have himm := imm.isLt
  refine decode_fields (op := .auipc) (m := 0x17) (f7 := (imm.toNat / 8192)) (b := (imm.toNat / 256 % 32)) (a := (imm.toNat / 8 % 32)) (f3 := (imm.toNat % 8)) (d := rd.toNat)
    (encU_fields _ _ _) (by decide) (by omega) (by omega) (by omega) (by omega) (by omega) (rfl) (rfl) (rfl) (rfl) (rfl) rfl
    (rfl) fun n F => ?_
  have e0 : (r5 (fld n 7 5)) = rd := ofNat_of (F.p7.trans (by omega))
  have e1 : (BitVec.ofNat 20 (fld n 12 20)) = imm := ofNat_of (F.i20.trans (by omega))
  show Instr.auipc (r5 (fld n 7 5)) (BitVec.ofNat 20 (fld n 12 20)) = _
  rw [e0, e1]

theorem jal (rd : BitVec 5) (off : BitVec 20) : Statement (.jal rd off) := by
  refine of_word rfl fun _ => ?_
  have hrd := rd.isLt
  have hoff := off.isLt
  refine decode_fields (op := .jal) (m := 0x6F) (f7 := (off.toNat % 1024 / 16 + off.toNat / 524288 * 64)) (b := (off.toNat / 1024 % 2 + off.toNat % 16 * 2)) (a := (off.toNat / 16384 % 32)) (f3 := (off.toNat / 2048 % 8)) (d := rd.toNat)
    (by unfold encR; exact congrArg w32 (jal_word hoff)) (by decide) (by omega) (by omega) (by omega) (by omega) (by omega) (rfl) (rfl) (rfl) (rfl) (rfl) rfl
    (rfl) fun n F => ?_
  have e0 : (r5 (fld n 7 5)) = rd := ofNat_of (F.p7.trans (by omega))
  have e1 : (BitVec.ofNat 20 (fld n 31 1 * 524288 + fld n 12 8 * 2048 + fld n 20 1 * 1024 + fld n 21 10)) = off := ofNat_of (by rw [F.p31, F.p12c, F.p20f, F.p21c]; exact jal_parts hoff)
  show Instr.jal (r5 (fld n 7 5)) (BitVec.ofNat 20 (fld n 31 1 * 524288 + fld n 12 8 * 2048 + fld n 20 1 * 1024 + fld n 21 10)) = _
  rw [e0, e1]

theorem jalr (rd : BitVec 5) (rs1 : BitVec 5) (imm : BitVec 12) : Statement (.jalr rd rs1 imm) := by
  refine of_word rfl fun _ => ?_
  have hrd := rd.isLt
  have hrs1 := rs1.isLt
  have himm := imm.isLt
  refine decode_fields (op := .jalr) (m := 0x67) (f7 := (imm.toNat / 32)) (b := (imm.toNat % 32)) (a := rs1.toNat) (f3 := 0) (d := rd.toNat) (i12 := imm.toNat)
    (encI_fields _ _ _ _ _) (by decide) (by omega) (by omega) (by omega) (by decide) (by omega) (rfl) (rfl) (rfl) (rfl) (by omega) rfl
    (rfl) fun n F => ?_
  have e0 : (r5 (fld n 7 5)) = rd := ofNat_of (F.p7.trans (by omega))
  have e1 : (r5 (fld n 15 5)) = rs1 := ofNat_of (F.p15.trans (by omega))
  have e2 : (BitVec.ofNat 12 (fld n 20 12)) = imm := ofNat_of (F.i12.trans (by omega))
  show Instr.jalr (r5 (fld n 7 5)) (r5 (fld n 15 5)) (BitVec.ofNat 12 (fld n 20 12)) = _
  rw [e0, e1, e2]

theorem beq (rs1 : BitVec 5) (rs2 : BitVec 5) (off : BitVec 12) : Statement (.beq rs1 rs2 off) := by
  refine of_word rfl fun _ => ?_
  have hrs1 := rs1.isLt
  have hrs2 := rs2.isLt
  have hoff := off.isLt
  refine decode_fields (op := .beq) (m := 0x63) (f7 := (off.toNat / 2048 * 64 + off.toNat / 16 % 64)) (b := rs2.toNat) (a := rs1.toNat) (f3 := 0) (d := (off.toNat % 16 * 2 + off.toNat / 1024 % 2))
    (rfl) (by decide) (by omega) (by omega) (by omega) (by decide) (by omega) (rfl) (rfl) (rfl) (rfl) (rfl) rfl
    (rfl) fun n F => ?_
  have e0 : (r5 (fld n 15 5)) = rs1 := ofNat_of (F.p15.trans (by omega))
  have e1 : (r5 (fld n 20 5)) = rs2 := ofNat_of (F.p20.trans (by omega))
  have e2 : (BitVec.ofNat 12 (fld n 31 1 * 2048 + fld n 7 1 * 1024 + fld n 25 6 * 16 + fld n 8 4)) = off := ofNat_of (by rw [F.p31, F.p7d, F.p25e, F.p8]; exact branch_parts hoff)
  show Instr.beq (r5 (fld n 15 5)) (r5 (fld n 20 5)) (BitVec.ofNat 12 (fld n 31 1 * 2048 + fld n 7 1 * 1024 + fld n 25 6 * 16 + fld n 8 4)) = _
  rw [e0, e1, e2]

theorem bne (rs1 : BitVec 5) (rs2 : BitVec 5) (off : BitVec 12) : Statement (.bne rs1 rs2 off) := by
  refine of_word rfl fun _ => ?_
  have hrs1 := rs1.isLt
  have hrs2 := rs2.isLt
  have hoff := off.isLt
  refine decode_fields (op := .bne) (m := 0x63) (f7 := (off.toNat / 2048 * 64 + off.toNat / 16 % 64)) (b := rs2.toNat) (a := rs1.toNat) (f3 := 1) (d := (off.toNat % 16 * 2 + off.toNat / 1024 % 2))
    (rfl) (by decide) (by omega) (by omega) (by omega) (by decide) (by omega) (rfl) (rfl) (rfl) (rfl) (rfl) rfl
    (rfl) fun n F => ?_
  have e0 : (r5 (fld n 15 5)) = rs1 := ofNat_of (F.p15.trans (by omega))
  have e1 : (r5 (fld n 20 5)) = rs2 := ofNat_of (F.p20.trans (by omega))
  have e2 : (BitVec.ofNat 12 (fld n 31 1 * 2048 + fld n 7 1 * 1024 + fld n 25 6 * 16 + fld n 8 4)) = off := ofNat_of (by rw [F.p31, F.p7d, F.p25e, F.p8]; exact branch_parts hoff)
  show Instr.bne (r5 (fld n 15 5)) (r5 (fld n 20 5)) (BitVec.ofNat 12 (fld n 31 1 * 2048 + fld n 7 1 * 1024 + fld n 25 6 * 16 + fld n 8 4)) = _
  rw [e0, e1, e2]

theorem blt (rs1 : BitVec 5) (rs2 : BitVec 5) (off : BitVec 12) : Statement (.blt rs1 rs2 off) := by
  refine of_word rfl fun _ => ?_
  have hrs1 := rs1.isLt
  have hrs2 := rs2.isLt
  have hoff := off.isLt
  refine decode_fields (op := .blt) (m := 0x63) (f7 := (off.toNat / 2048 * 64 + off.toNat / 16 % 64)) (b := rs2.toNat) (a := rs1.toNat) (f3 := 4) (d := (off.toNat % 16 * 2 + off.toNat / 1024 % 2))
    (rfl) (by decide) (by omega) (by omega) (by omega) (by decide) (by omega) (rfl) (rfl) (rfl) (rfl) (rfl) rfl
    (rfl) fun n F => ?_
  have e0 : (r5 (fld n 15 5)) = rs1 := ofNat_of (F.p15.trans (by omega))
  have e1 : (r5 (fld n 20 5)) = rs2 := ofNat_of (F.p20.trans (by omega))
  have e2 : (BitVec.ofNat 12 (fld n 31 1 * 2048 + fld n 7 1 * 1024 + fld n 25 6 * 16 + fld n 8 4)) = off := ofNat_of (by rw [F.p31, F.p7d, F.p25e, F.p8]; exact branch_parts hoff)
  show Instr.blt (r5 (fld n 15 5)) (r5 (fld n 20 5)) (BitVec.ofNat 12 (fld n 31 1 * 2048 + fld n 7 1 * 1024 + fld n 25 6 * 16 + fld n 8 4)) = _
  rw [e0, e1, e2]

theorem bge (rs1 : BitVec 5) (rs2 : BitVec 5) (off : BitVec 12) : Statement (.bge rs1 rs2 off) := by
  refine of_word rfl fun _ => ?_
  have hrs1 := rs1.isLt
  have hrs2 := rs2.isLt
  have hoff := off.isLt
  refine decode_fields (op := .bge) (m := 0x63) (f7 := (off.toNat / 2048 * 64 + off.toNat / 16 % 64)) (b := rs2.toNat) (a := rs1.toNat) (f3 := 5) (d := (off.toNat % 16 * 2 + off.toNat / 1024 % 2))
    (rfl) (by decide) (by omega) (by omega) (by omega) (by decide) (by omega) (rfl) (rfl) (rfl) (rfl) (rfl) rfl
    (rfl) fun n F => ?_
  have e0 : (r5 (fld n 15 5)) = rs1 := ofNat_of (F.p15.trans (by omega))
  have e1 : (r5 (fld n 20 5)) = rs2 := ofNat_of (F.p20.trans (by omega))
  have e2 : (BitVec.ofNat 12 (fld n 31 1 * 2048 + fld n 7 1 * 1024 + fld n 25 6 * 16 + fld n 8 4)) = off := ofNat_of (by rw [F.p31, F.p7d, F.p25e, F.p8]; exact branch_parts hoff)
  show Instr.bge (r5 (fld n 15 5)) (r5 (fld n 20 5)) (BitVec.ofNat 12 (fld n 31 1 * 2048 + fld n 7 1 * 1024 + fld n 25 6 * 16 + fld n 8 4)) = _
  rw [e0, e1, e2]

theorem bltu (rs1 : BitVec 5) (rs2 : BitVec 5) (off : BitVec 12) : Statement (.bltu rs1 rs2 off) := by
  refine of_word rfl fun _ => ?_
  have hrs1 := rs1.isLt
  have hrs2 := rs2.isLt
  have hoff := off.isLt
  refine decode_fields (op := .bltu) (m := 0x63) (f7 := (off.toNat / 2048 * 64 + off.toNat / 16 % 64)) (b := rs2.toNat) (a := rs1.toNat) (f3 := 6) (d := (off.toNat % 16 * 2 + off.toNat / 1024 % 2))
    (rfl) (by decide) (by omega) (by omega) (by omega) (by decide) (by omega) (rfl) (rfl) (rfl) (rfl) (rfl) rfl
    (rfl) fun n F => ?_
  have e0 : (r5 (fld n 15 5)) = rs1 := ofNat_of (F.p15.trans (by omega))
  have e1 : (r5 (fld n 20 5)) = rs2 := ofNat_of (F.p20.trans (by omega))
  have e2 : (BitVec.ofNat 12 (fld n 31 1 * 2048 + fld n 7 1 * 1024 + fld n 25 6 * 16 + fld n 8 4)) = off := ofNat_of (by rw [F.p31, F.p7d, F.p25e, F.p8]; exact branch_parts hoff)
  show Instr.bltu (r5 (fld n 15 5)) (r5 (fld n 20 5)) (BitVec.ofNat 12 (fld n 31 1 * 2048 + fld n 7 1 * 1024 + fld n 25 6 * 16 + fld n 8 4)) = _
  rw [e0, e1, e2]

theorem bgeu (rs1 : BitVec 5) (rs2 : BitVec 5) (off : BitVec 12) : Statement (.bgeu rs1 rs2 off) := by
  refine of_word rfl fun _ => ?_
  have hrs1 := rs1.isLt
  have hrs2 := rs2.isLt
  have hoff := off.isLt
  refine decode_fields (op := .bgeu) (m := 0x63) (f7 := (off.toNat / 2048 * 64 + off.toNat / 16 % 64)) (b := rs2.toNat) (a := rs1.toNat) (f3 := 7) (d := (off.toNat % 16 * 2 + off.toNat / 1024 % 2))
    (rfl) (by decide) (by omega) (by omega) (by omega) (by decide) (by omega) (rfl) (rfl) (rfl) (rfl) (rfl) rfl
    (rfl) fun n F => ?_
  have e0 : (r5 (fld n 15 5)) = rs1 := ofNat_of (F.p15.trans (by omega))
  have e1 : (r5 (fld n 20 5)) = rs2 := ofNat_of (F.p20.trans (by omega))
  have e2 : (BitVec.ofNat 12 (fld n 31 1 * 2048 + fld n 7 1 * 1024 + fld n 25 6 * 16 + fld n 8 4)) = off := ofNat_of (by rw [F.p31, F.p7d, F.p25e, F.p8]; exact branch_parts hoff)
  show Instr.bgeu (r5 (fld n 15 5)) (r5 (fld n 20 5)) (BitVec.ofNat 12 (fld n 31 1 * 2048 + fld n 7 1 * 1024 + fld n 25 6 * 16 + fld n 8 4)) = _
  rw [e0, e1, e2]

theorem lb (rd : BitVec 5) (rs1 : BitVec 5) (imm : BitVec 12) : Statement (.lb rd rs1 imm) := by
  refine of_word rfl fun _ => ?_
  have hrd := rd.isLt
  have hrs1 := rs1.isLt
  have himm := imm.isLt
  refine decode_fields (op := .lb) (m := 0x03) (f7 := (imm.toNat / 32)) (b := (imm.toNat % 32)) (a := rs1.toNat) (f3 := 0) (d := rd.toNat) (i12 := imm.toNat)
    (encI_fields _ _ _ _ _) (by decide) (by omega) (by omega) (by omega) (by decide) (by omega) (rfl) (rfl) (rfl) (rfl) (by omega) rfl
    (rfl) fun n F => ?_
  have e0 : (r5 (fld n 7 5)) = rd := ofNat_of (F.p7.trans (by omega))
  have e1 : (r5 (fld n 15 5)) = rs1 := ofNat_of (F.p15.trans (by omega))
  have e2 : (BitVec.ofNat 12 (fld n 20 12)) = imm := ofNat_of (F.i12.trans (by omega))
  show Instr.lb (r5 (fld n 7 5)) (r5 (fld n 15 5)) (BitVec.ofNat 12 (fld n 20 12)) = _
  rw [e0, e1, e2]

theorem lh (rd : BitVec 5) (rs1 : BitVec 5) (imm : BitVec 12) : Statement (.lh rd rs1 imm) := by
  refine of_word rfl fun _ => ?_
  have hrd := rd.isLt
  have hrs1 := rs1.isLt
  have himm := imm.isLt
  refine decode_fields (op := .lh) (m := 0x03) (f7 := (imm.toNat / 32)) (b := (imm.toNat % 32)) (a := rs1.toNat) (f3 := 1) (d := rd.toNat) (i12 := imm.toNat)
    (encI_fields _ _ _ _ _) (by decide) (by omega) (by omega) (by omega) (by decide) (by omega) (rfl) (rfl) (rfl) (rfl) (by omega) rfl
    (rfl) fun n F => ?_
  have e0 : (r5 (fld n 7 5)) = rd := ofNat_of (F.p7.trans (by omega))
  have e1 : (r5 (fld n 15 5)) = rs1 := ofNat_of (F.p15.trans (by omega))
  have e2 : (BitVec.ofNat 12 (fld n 20 12)) = imm := ofNat_of (F.i12.trans (by omega))
  show Instr.lh (r5 (fld n 7 5)) (r5 (fld n 15 5)) (BitVec.ofNat 12 (fld n 20 12)) = _
  rw [e0, e1, e2]

theorem lw (rd : BitVec 5) (rs1 : BitVec 5) (imm : BitVec 12) : Statement (.lw rd rs1 imm) := by
  refine of_word rfl fun _ => ?_
  have hrd := rd.isLt
  have hrs1 := rs1.isLt
  have himm := imm.isLt
  refine decode_fields (op := .lw) (m := 0x03) (f7 := (imm.toNat / 32)) (b := (imm.toNat % 32)) (a := rs1.toNat) (f3 := 2) (d := rd.toNat) (i12 := imm.toNat)
    (encI_fields _ _ _ _ _) (by decide) (by omega) (by omega) (by omega) (by decide) (by omega) (rfl) (rfl) (rfl) (rfl) (by omega) rfl
    (rfl) fun n F => ?_
  have e0 : (r5 (fld n 7 5)) = rd := ofNat_of (F.p7.trans (by omega))
  have e1 : (r5 (fld n 15 5)) = rs1 := ofNat_of (F.p15.trans (by omega))
  have e2 : (BitVec.ofNat 12 (fld n 20 12)) = imm := ofNat_of (F.i12.trans (by omega))
  show Instr.lw (r5 (fld n 7 5)) (r5 (fld n 15 5)) (BitVec.ofNat 12 (fld n 20 12)) = _
  rw [e0, e1, e2]

theorem ld (rd : BitVec 5) (rs1 : BitVec 5) (imm : BitVec 12) : Statement (.ld rd rs1 imm) := by
  refine of_word rfl fun _ => ?_
  have hrd := rd.isLt
  have hrs1 := rs1.isLt
  have himm := imm.isLt
  refine decode_fields (op := .ld) (m := 0x03) (f7 := (imm.toNat / 32)) (b := (imm.toNat % 32)) (a := rs1.toNat) (f3 := 3) (d := rd.toNat) (i12 := imm.toNat)
    (encI_fields _ _ _ _ _) (by decide) (by omega) (by omega) (by omega) (by decide) (by omega) (rfl) (rfl) (rfl) (rfl) (by omega) rfl
    (rfl) fun n F => ?_
  have e0 : (r5 (fld n 7 5)) = rd := ofNat_of (F.p7.trans (by omega))
  have e1 : (r5 (fld n 15 5)) = rs1 := ofNat_of (F.p15.trans (by omega))
  have e2 : (BitVec.ofNat 12 (fld n 20 12)) = imm := ofNat_of (F.i12.trans (by omega))
  show Instr.ld (r5 (fld n 7 5)) (r5 (fld n 15 5)) (BitVec.ofNat 12 (fld n 20 12)) = _
  rw [e0, e1, e2]

theorem lbu (rd : BitVec 5) (rs1 : BitVec 5) (imm : BitVec 12) : Statement (.lbu rd rs1 imm) := by
  refine of_word rfl fun _ => ?_
  have hrd := rd.isLt
  have hrs1 := rs1.isLt
  have himm := imm.isLt
  refine decode_fields (op := .lbu) (m := 0x03) (f7 := (imm.toNat / 32)) (b := (imm.toNat % 32)) (a := rs1.toNat) (f3 := 4) (d := rd.toNat) (i12 := imm.toNat)
    (encI_fields _ _ _ _ _) (by decide) (by omega) (by omega) (by omega) (by decide) (by omega) (rfl) (rfl) (rfl) (rfl) (by omega) rfl
    (rfl) fun n F => ?_
  have e0 : (r5 (fld n 7 5)) = rd := ofNat_of (F.p7.trans (by omega))
  have e1 : (r5 (fld n 15 5)) = rs1 := ofNat_of (F.p15.trans (by omega))
  have e2 : (BitVec.ofNat 12 (fld n 20 12)) = imm := ofNat_of (F.i12.trans (by omega))
  show Instr.lbu (r5 (fld n 7 5)) (r5 (fld n 15 5)) (BitVec.ofNat 12 (fld n 20 12)) = _
  rw [e0, e1, e2]

theorem lhu (rd : BitVec 5) (rs1 : BitVec 5) (imm : BitVec 12) : Statement (.lhu rd rs1 imm) := by
  refine of_word rfl fun _ => ?_
  have hrd := rd.isLt
  have hrs1 := rs1.isLt
  have himm := imm.isLt
  refine decode_fields (op := .lhu) (m := 0x03) (f7 := (imm.toNat / 32)) (b := (imm.toNat % 32)) (a := rs1.toNat) (f3 := 5) (d := rd.toNat) (i12 := imm.toNat)
    (encI_fields _ _ _ _ _) (by decide) (by omega) (by omega) (by omega) (by decide) (by omega) (rfl) (rfl) (rfl) (rfl) (by omega) rfl
    (rfl) fun n F => ?_
  have e0 : (r5 (fld n 7 5)) = rd := ofNat_of (F.p7.trans (by omega))
  have e1 : (r5 (fld n 15 5)) = rs1 := ofNat_of (F.p15.trans (by omega))
  have e2 : (BitVec.ofNat 12 (fld n 20 12)) = imm := ofNat_of (F.i12.trans (by omega))
  show Instr.lhu (r5 (fld n 7 5)) (r5 (fld n 15 5)) (BitVec.ofNat 12 (fld n 20 12)) = _
  rw [e0, e1, e2]

theorem lwu (rd : BitVec 5) (rs1 : BitVec 5) (imm : BitVec 12) : Statement (.lwu rd rs1 imm) := by
  refine of_word rfl fun _ => ?_
  have hrd := rd.isLt
  have hrs1 := rs1.isLt
  have himm := imm.isLt
  refine decode_fields (op := .lwu) (m := 0x03) (f7 := (imm.toNat / 32)) (b := (imm.toNat % 32)) (a := rs1.toNat) (f3 := 6) (d := rd.toNat) (i12 := imm.toNat)
    (encI_fields _ _ _ _ _) (by decide) (by omega) (by omega) (by omega) (by decide) (by omega) (rfl) (rfl) (rfl) (rfl) (by omega) rfl
    (rfl) fun n F => ?_
  have e0 : (r5 (fld n 7 5)) = rd := ofNat_of (F.p7.trans (by omega))
  have e1 : (r5 (fld n 15 5)) = rs1 := ofNat_of (F.p15.trans (by omega))
  have e2 : (BitVec.ofNat 12 (fld n 20 12)) = imm := ofNat_of (F.i12.trans (by omega))
  show Instr.lwu (r5 (fld n 7 5)) (r5 (fld n 15 5)) (BitVec.ofNat 12 (fld n 20 12)) = _
  rw [e0, e1, e2]

theorem sb (rs1 : BitVec 5) (rs2 : BitVec 5) (imm : BitVec 12) : Statement (.sb rs1 rs2 imm) := by
  refine of_word rfl fun _ => ?_
  have hrs1 := rs1.isLt
  have hrs2 := rs2.isLt
  have himm := imm.isLt
  refine decode_fields (op := .sb) (m := 0x23) (f7 := (imm.toNat / 32)) (b := rs2.toNat) (a := rs1.toNat) (f3 := 0) (d := (imm.toNat % 32))
    (rfl) (by decide) (by omega) (by omega) (by omega) (by decide) (by omega) (rfl) (rfl) (rfl) (rfl) (rfl) rfl
    (rfl) fun n F => ?_
  have e0 : (r5 (fld n 15 5)) = rs1 := ofNat_of (F.p15.trans (by omega))
  have e1 : (r5 (fld n 20 5)) = rs2 := ofNat_of (F.p20.trans (by omega))
  have e2 : (BitVec.ofNat 12 (fld n 25 7 * 32 + fld n 7 5)) = imm := ofNat_of (by rw [F.p25, F.p7]; omega)
  show Instr.sb (r5 (fld n 15 5)) (r5 (fld n 20 5)) (BitVec.ofNat 12 (fld n 25 7 * 32 + fld n 7 5)) = _
  rw [e0, e1, e2]

theorem sh (rs1 : BitVec 5) (rs2 : BitVec 5) (imm : BitVec 12) : Statement (.sh rs1 rs2 imm) := by
  refine of_word rfl fun _ => ?_
  have hrs1 := rs1.isLt
  have hrs2 := rs2.isLt
  have himm := imm.isLt
  refine decode_fields (op := .sh) (m := 0x23) (f7 := (imm.toNat / 32)) (b := rs2.toNat) (a := rs1.toNat) (f3 := 1) (d := (imm.toNat % 32))
    (rfl) (by decide) (by omega) (by omega) (by omega) (by decide) (by omega) (rfl) (rfl) (rfl) (rfl) (rfl) rfl
    (rfl) fun n F => ?_
  have e0 : (r5 (fld n 15 5)) = rs1 := ofNat_of (F.p15.trans (by omega))
  have e1 : (r5 (fld n 20 5)) = rs2 := ofNat_of (F.p20.trans (by omega))
  have e2 : (BitVec.ofNat 12 (fld n 25 7 * 32 + fld n 7 5)) = imm := ofNat_of (by rw [F.p25, F.p7]; omega)
  show Instr.sh (r5 (fld n 15 5)) (r5 (fld n 20 5)) (BitVec.ofNat 12 (fld n 25 7 * 32 + fld n 7 5)) = _
  rw [e0, e1, e2]

theorem sw (rs1 : BitVec 5) (rs2 : BitVec 5) (imm : BitVec 12) : Statement (.sw rs1 rs2 imm) := by
  refine of_word rfl fun _ => ?_
  have hrs1 := rs1.isLt
  have hrs2 := rs2.isLt
  have himm := imm.isLt
  refine decode_fields (op := .sw) (m := 0x23) (f7 := (imm.toNat / 32)) (b := rs2.toNat) (a := rs1.toNat) (f3 := 2) (d := (imm.toNat % 32))
    (rfl) (by decide) (by omega) (by omega) (by omega) (by decide) (by omega) (rfl) (rfl) (rfl) (rfl) (rfl) rfl
    (rfl) fun n F => ?_
  have e0 : (r5 (fld n 15 5)) = rs1 := ofNat_of (F.p15.trans (by omega))
  have e1 : (r5 (fld n 20 5)) = rs2 := ofNat_of (F.p20.trans (by omega))
  have e2 : (BitVec.ofNat 12 (fld n 25 7 * 32 + fld n 7 5)) = imm := ofNat_of (by rw [F.p25, F.p7]; omega)
  show Instr.sw (r5 (fld n 15 5)) (r5 (fld n 20 5)) (BitVec.ofNat 12 (fld n 25 7 * 32 + fld n 7 5)) = _
  rw [e0, e1, e2]

theorem sd (rs1 : BitVec 5) (rs2 : BitVec 5) (imm : BitVec 12) : Statement (.sd rs1 rs2 imm) := by
  refine of_word rfl fun _ => ?_
  have hrs1 := rs1.isLt
  have hrs2 := rs2.isLt
  have himm := imm.isLt
  refine decode_fields (op := .sd) (m := 0x23) (f7 := (imm.toNat / 32)) (b := rs2.toNat) (a := rs1.toNat) (f3 := 3) (d := (imm.toNat % 32))
    (rfl) (by decide) (by omega) (by omega) (by omega) (by decide) (by omega) (rfl) (rfl) (rfl) (rfl) (rfl) rfl
    (rfl) fun n F => ?_
  have e0 : (r5 (fld n 15 5)) = rs1 := ofNat_of (F.p15.trans (by omega))
  have e1 : (r5 (fld n 20 5)) = rs2 := ofNat_of (F.p20.trans (by omega))
  have e2 : (BitVec.ofNat 12 (fld n 25 7 * 32 + fld n 7 5)) = imm := ofNat_of (by rw [F.p25, F.p7]; omega)
  show Instr.sd (r5 (fld n 15 5)) (r5 (fld n 20 5)) (BitVec.ofNat 12 (fld n 25 7 * 32 + fld n 7 5)) = _
  rw [e0, e1, e2]

theorem addi (rd : BitVec 5) (rs1 : BitVec 5) (imm : BitVec 12) : Statement (.addi rd rs1 imm) := by
  refine of_word rfl fun _ => ?_
  have hrd := rd.isLt
  have hrs1 := rs1.isLt
  have himm := imm.isLt
  refine decode_fields (op := .addi) (m := 0x13) (f7 := (imm.toNat / 32)) (b := (imm.toNat % 32)) (a := rs1.toNat) (f3 := 0) (d := rd.toNat) (i12 := imm.toNat)
    (encI_fields _ _ _ _ _) (by decide) (by omega) (by omega) (by omega) (by decide) (by omega) (rfl) (rfl) (rfl) (rfl) (by omega) rfl
    (rfl) fun n F => ?_
  have e0 : (r5 (fld n 7 5)) = rd := ofNat_of (F.p7.trans (by omega))
  have e1 : (r5 (fld n 15 5)) = rs1 := ofNat_of (F.p15.trans (by omega))
  have e2 : (BitVec.ofNat 12 (fld n 20 12)) = imm := ofNat_of (F.i12.trans (by omega))
  show Instr.addi (r5 (fld n 7 5)) (r5 (fld n 15 5)) (BitVec.ofNat 12 (fld n 20 12)) = _
  rw [e0, e1, e2]

theorem slti (rd : BitVec 5) (rs1 : BitVec 5) (imm : BitVec 12) : Statement (.slti rd rs1 imm) := by
  refine of_word rfl fun _ => ?_
  have hrd := rd.isLt
  have hrs1 := rs1.isLt
  have himm := imm.isLt
  refine decode_fields (op := .slti) (m := 0x13) (f7 := (imm.toNat / 32)) (b := (imm.toNat % 32)) (a := rs1.toNat) (f3 := 2) (d := rd.toNat) (i12 := imm.toNat)
    (encI_fields _ _ _ _ _) (by decide) (by omega) (by omega) (by omega) (by decide) (by omega) (rfl) (rfl) (rfl) (rfl) (by omega) rfl
    (rfl) fun n F => ?_
  have e0 : (r5 (fld n 7 5)) = rd := ofNat_of (F.p7.trans (by omega))
  have e1 : (r5 (fld n 15 5)) = rs1 := ofNat_of (F.p15.trans (by omega))
  have e2 : (BitVec.ofNat 12 (fld n 20 12)) = imm := ofNat_of (F.i12.trans (by omega))
  show Instr.slti (r5 (fld n 7 5)) (r5 (fld n 15 5)) (BitVec.ofNat 12 (fld n 20 12)) = _
  rw [e0, e1, e2]

theorem sltiu (rd : BitVec 5) (rs1 : BitVec 5) (imm : BitVec 12) : Statement (.sltiu rd rs1 imm) := by
  refine of_word rfl fun _ => ?_
  have hrd := rd.isLt
  have hrs1 := rs1.isLt
  have himm := imm.isLt
  refine decode_fields (op := .sltiu) (m := 0x13) (f7 := (imm.toNat / 32)) (b := (imm.toNat % 32)) (a := rs1.toNat) (f3 := 3) (d := rd.toNat) (i12 := imm.toNat)
    (encI_fields _ _ _ _ _) (by decide) (by omega) (by omega) (by omega) (by decide) (by omega) (rfl) (rfl) (rfl) (rfl) (by omega) rfl
    (rfl) fun n F => ?_
  have e0 : (r5 (fld n 7 5)) = rd := ofNat_of (F.p7.trans (by omega))
  have e1 : (r5 (fld n 15 5)) = rs1 := ofNat_of (F.p15.trans (by omega))
  have e2 : (BitVec.ofNat 12 (fld n 20 12)) = imm := ofNat_of (F.i12.trans (by omega))
  show Instr.sltiu (r5 (fld n 7 5)) (r5 (fld n 15 5)) (BitVec.ofNat 12 (fld n 20 12)) = _
  rw [e0, e1, e2]

theorem xori (rd : BitVec 5) (rs1 : BitVec 5) (imm : BitVec 12) : Statement (.xori rd rs1 imm) := by
  refine of_word rfl fun _ => ?_
  have hrd := rd.isLt
  have hrs1 := rs1.isLt
  have himm := imm.isLt
  refine decode_fields (op := .xori) (m := 0x13) (f7 := (imm.toNat / 32)) (b := (imm.toNat % 32)) (a := rs1.toNat) (f3 := 4) (d := rd.toNat) (i12 := imm.toNat)
    (encI_fields _ _ _ _ _) (by decide) (by omega) (by omega) (by omega) (by decide) (by omega) (rfl) (rfl) (rfl) (rfl) (by omega) rfl
    (rfl) fun n F => ?_
  have e0 : (r5 (fld n 7 5)) = rd := ofNat_of (F.p7.trans (by omega))
  have e1 : (r5 (fld n 15 5)) = rs1 := ofNat_of (F.p15.trans (by omega))
  have e2 : (BitVec.ofNat 12 (fld n 20 12)) = imm := ofNat_of (F.i12.trans (by omega))
  show Instr.xori (r5 (fld n 7 5)) (r5 (fld n 15 5)) (BitVec.ofNat 12 (fld n 20 12)) = _
  rw [e0, e1, e2]

theorem ori (rd : BitVec 5) (rs1 : BitVec 5) (imm : BitVec 12) : Statement (.ori rd rs1 imm) := by
  refine of_word rfl fun _ => ?_
  have hrd := rd.isLt
  have hrs1 := rs1.isLt
  have himm := imm.isLt
  refine decode_fields (op := .ori) (m := 0x13) (f7 := (imm.toNat / 32)) (b := (imm.toNat % 32)) (a := rs1.toNat) (f3 := 6) (d := rd.toNat) (i12 := imm.toNat)
    (encI_fields _ _ _ _ _) (by decide) (by omega) (by omega) (by omega) (by decide) (by omega) (rfl) (rfl) (rfl) (rfl) (by omega) rfl
    (rfl) fun n F => ?_
  have e0 : (r5 (fld n 7 5)) = rd := ofNat_of (F.p7.trans (by omega))
  have e1 : (r5 (fld n 15 5)) = rs1 := ofNat_of (F.p15.trans (by omega))
  have e2 : (BitVec.ofNat 12 (fld n 20 12)) = imm := ofNat_of (F.i12.trans (by omega))
  show Instr.ori (r5 (fld n 7 5)) (r5 (fld n 15 5)) (BitVec.ofNat 12 (fld n 20 12)) = _
  rw [e0, e1, e2]

theorem andi (rd : BitVec 5) (rs1 : BitVec 5) (imm : BitVec 12) : Statement (.andi rd rs1 imm) := by
  refine of_word rfl fun _ => ?_
  have hrd := rd.isLt
  have hrs1 := rs1.isLt
  have himm := imm.isLt
  refine decode_fields (op := .andi) (m := 0x13) (f7 := (imm.toNat / 32)) (b := (imm.toNat % 32)) (a := rs1.toNat) (f3 := 7) (d := rd.toNat) (i12 := imm.toNat)
    (encI_fields _ _ _ _ _) (by decide) (by omega) (by omega) (by omega) (by decide) (by omega) (rfl) (rfl) (rfl) (rfl) (by omega) rfl
    (rfl) fun n F => ?_
  have e0 : (r5 (fld n 7 5)) = rd := ofNat_of (F.p7.trans (by omega))
  have e1 : (r5 (fld n 15 5)) = rs1 := ofNat_of (F.p15.trans (by omega))
  have e2 : (BitVec.ofNat 12 (fld n 20 12)) = imm := ofNat_of (F.i12.trans (by omega))
  show Instr.andi (r5 (fld n 7 5)) (r5 (fld n 15 5)) (BitVec.ofNat 12 (fld n 20 12)) = _
  rw [e0, e1, e2]

theorem slli (rd : BitVec 5) (rs1 : BitVec 5) (sh : BitVec 6) : Statement (.slli rd rs1 sh) := by
  refine of_word rfl fun _ => ?_
  have hrd := rd.isLt
  have hrs1 := rs1.isLt
  have hsh := sh.isLt
  refine decode_fields (op := .slli) (m := 0x13) (f7 := (sh.toNat / 32)) (b := (sh.toNat % 32)) (a := rs1.toNat) (f3 := 1) (d := rd.toNat) (i12 := sh.toNat)
    (encI_fields _ _ _ _ _) (by decide) (by omega) (by omega) (by omega) (by decide) (by omega) (rfl) (rfl) (rfl) (rfl) (by omega) rfl
    (by unfold majorF decOpImm; rw [show sh.toNat / 64 = 0 by omega]; rfl) fun n F => ?_
  have e0 : (r5 (fld n 7 5)) = rd := ofNat_of (F.p7.trans (by omega))
  have e1 : (r5 (fld n 15 5)) = rs1 := ofNat_of (F.p15.trans (by omega))
  have e2 : (BitVec.ofNat 6 (fld n 20 6)) = sh := ofNat_of (F.p20b.trans (by omega))
  show Instr.slli (r5 (fld n 7 5)) (r5 (fld n 15 5)) (BitVec.ofNat 6 (fld n 20 6)) = _
  rw [e0, e1, e2]

theorem srli (rd : BitVec 5) (rs1 : BitVec 5) (sh : BitVec 6) : Statement (.srli rd rs1 sh) := by
  refine of_word rfl fun _ => ?_
  have hrd := rd.isLt
  have hrs1 := rs1.isLt
  have hsh := sh.isLt
  refine decode_fields (op := .srli) (m := 0x13) (f7 := (sh.toNat / 32)) (b := (sh.toNat % 32)) (a := rs1.toNat) (f3 := 5) (d := rd.toNat) (i12 := sh.toNat)
    (encI_fields _ _ _ _ _) (by decide) (by omega) (by omega) (by omega) (by decide) (by omega) (rfl) (rfl) (rfl) (rfl) (by omega) rfl
    (by unfold majorF decOpImm; rw [show sh.toNat / 64 = 0 by omega]; rfl) fun n F => ?_
  have e0 : (r5 (fld n 7 5)) = rd := ofNat_of (F.p7.trans (by omega))
  have e1 : (r5 (fld n 15 5)) = rs1 := ofNat_of (F.p15.trans (by omega))
  have e2 : (BitVec.ofNat 6 (fld n 20 6)) = sh := ofNat_of (F.p20b.trans (by omega))
  show Instr.srli (r5 (fld n 7 5)) (r5 (fld n 15 5)) (BitVec.ofNat 6 (fld n 20 6)) = _
  rw [e0, e1, e2]

theorem srai (rd : BitVec 5) (rs1 : BitVec 5) (sh : BitVec 6) : Statement (.srai rd rs1 sh) := by
  refine of_word rfl fun _ => ?_
  have hrd := rd.isLt
  have hrs1 := rs1.isLt
  have hsh := sh.isLt
  refine decode_fields (op := .srai) (m := 0x13) (f7 := ((0x400 + sh.toNat) / 32)) (b := ((0x400 + sh.toNat) % 32)) (a := rs1.toNat) (f3 := 5) (d := rd.toNat) (i12 := (0x400 + sh.toNat))
    (encI_fields _ _ _ _ _) (by decide) (by omega) (by omega) (by omega) (by decide) (by omega) (rfl) (rfl) (rfl) (rfl) (by omega) rfl
    (by unfold majorF decOpImm; rw [show (0x400 + sh.toNat) / 64 = 16 by omega]; rfl) fun n F => ?_
  have e0 : (r5 (fld n 7 5)) = rd := ofNat_of (F.p7.trans (by omega))
  have e1 : (r5 (fld n 15 5)) = rs1 := ofNat_of (F.p15.trans (by omega))
  have e2 : (BitVec.ofNat 6 (fld n 20 6)) = sh := ofNat_of (F.p20b.trans (by omega))
  show Instr.srai (r5 (fld n 7 5)) (r5 (fld n 15 5)) (BitVec.ofNat 6 (fld n 20 6)) = _
  rw [e0, e1, e2]

theorem add (rd : BitVec 5) (rs1 : BitVec 5) (rs2 : BitVec 5) : Statement (.add rd rs1 rs2) := by
  refine of_word rfl fun _ => ?_
  have hrd := rd.isLt
  have hrs1 := rs1.isLt
  have hrs2 := rs2.isLt
  refine decode_fields (op := .add) (m := 0x33) (f7 := 0) (b := rs2.toNat) (a := rs1.toNat) (f3 := 0) (d := rd.toNat)
    (rfl) (by decide) (by decide) (by omega) (by omega) (by decide) (by omega) (rfl) (rfl) (rfl) (rfl) (rfl) rfl
    (rfl) fun n F => ?_
  have e0 : (r5 (fld n 7 5)) = rd := ofNat_of (F.p7.trans (by omega))
  have e1 : (r5 (fld n 15 5)) = rs1 := ofNat_of (F.p15.trans (by omega))
  have e2 : (r5 (fld n 20 5)) = rs2 := ofNat_of (F.p20.trans (by omega))
  show Instr.add (r5 (fld n 7 5)) (r5 (fld n 15 5)) (r5 (fld n 20 5)) = _
  rw [e0, e1, e2]

theorem sub (rd : BitVec 5) (rs1 : BitVec 5) (rs2 : BitVec 5) : Statement (.sub rd rs1 rs2) := by
  refine of_word rfl fun _ => ?_
  have hrd := rd.isLt
  have hrs1 := rs1.isLt
  have hrs2 := rs2.isLt
  refine decode_fields (op := .sub) (m := 0x33) (f7 := 0x20) (b := rs2.toNat) (a := rs1.toNat) (f3 := 0) (d := rd.toNat)
    (rfl) (by decide) (by decide) (by omega) (by omega) (by decide) (by omega) (rfl) (rfl) (rfl) (rfl) (rfl) rfl
    (rfl) fun n F => ?_
  have e0 : (r5 (fld n 7 5)) = rd := ofNat_of (F.p7.trans (by omega))
  have e1 : (r5 (fld n 15 5)) = rs1 := ofNat_of (F.p15.trans (by omega))
  have e2 : (r5 (fld n 20 5)) = rs2 := ofNat_of (F.p20.trans (by omega))
  show Instr.sub (r5 (fld n 7 5)) (r5 (fld n 15 5)) (r5 (fld n 20 5)) = _
  rw [e0, e1, e2]

theorem sll (rd : BitVec 5) (rs1 : BitVec 5) (rs2 : BitVec 5) : Statement (.sll rd rs1 rs2) := by
  refine of_word rfl fun _ => ?_
  have hrd := rd.isLt
  have hrs1 := rs1.isLt
  have hrs2 := rs2.isLt
  refine decode_fields (op := .sll) (m := 0x33) (f7 := 0) (b := rs2.toNat) (a := rs1.toNat) (f3 := 1) (d := rd.toNat)
    (rfl) (by decide) (by decide) (by omega) (by omega) (by decide) (by omega) (rfl) (rfl) (rfl) (rfl) (rfl) rfl
    (rfl) fun n F => ?_
  have e0 : (r5 (fld n 7 5)) = rd := ofNat_of (F.p7.trans (by omega))
  have e1 : (r5 (fld n 15 5)) = rs1 := ofNat_of (F.p15.trans (by omega))
  have e2 : (r5 (fld n 20 5)) = rs2 := ofNat_of (F.p20.trans (by omega))
  show Instr.sll (r5 (fld n 7 5)) (r5 (fld n 15 5)) (r5 (fld n 20 5)) = _
  rw [e0, e1, e2]

theorem slt (rd : BitVec 5) (rs1 : BitVec 5) (rs2 : BitVec 5) : Statement (.slt rd rs1 rs2) := by
  refine of_word rfl fun _ => ?_
  have hrd := rd.isLt
  have hrs1 := rs1.isLt
  have hrs2 := rs2.isLt
  refine decode_fields (op := .slt) (m := 0x33) (f7 := 0) (b := rs2.toNat) (a := rs1.toNat) (f3 := 2) (d := rd.toNat)
    (rfl) (by decide) (by decide) (by omega) (by omega) (by decide) (by omega) (rfl) (rfl) (rfl) (rfl) (rfl) rfl
    (rfl) fun n F => ?_
  have e0 : (r5 (fld n 7 5)) = rd := ofNat_of (F.p7.trans (by omega))
  have e1 : (r5 (fld n 15 5)) = rs1 := ofNat_of (F.p15.trans (by omega))
  have e2 : (r5 (fld n 20 5)) = rs2 := ofNat_of (F.p20.trans (by omega))
  show Instr.slt (r5 (fld n 7 5)) (r5 (fld n 15 5)) (r5 (fld n 20 5)) = _
  rw [e0, e1, e2]

theorem sltu (rd : BitVec 5) (rs1 : BitVec 5) (rs2 : BitVec 5) : Statement (.sltu rd rs1 rs2) := by
  refine of_word rfl fun _ => ?_
  have hrd := rd.isLt
  have hrs1 := rs1.isLt
  have hrs2 := rs2.isLt
  refine decode_fields (op := .sltu) (m := 0x33) (f7 := 0) (b := rs2.toNat) (a := rs1.toNat) (f3 := 3) (d := rd.toNat)
    (rfl) (by decide) (by decide) (by omega) (by omega) (by decide) (by omega) (rfl) (rfl) (rfl) (rfl) (rfl) rfl
    (rfl) fun n F => ?_
  have e0 : (r5 (fld n 7 5)) = rd := ofNat_of (F.p7.trans (by omega))
  have e1 : (r5 (fld n 15 5)) = rs1 := ofNat_of (F.p15.trans (by omega))
  have e2 : (r5 (fld n 20 5)) = rs2 := ofNat_of (F.p20.trans (by omega))
  show Instr.sltu (r5 (fld n 7 5)) (r5 (fld n 15 5)) (r5 (fld n 20 5)) = _
  rw [e0, e1, e2]

theorem xor (rd : BitVec 5) (rs1 : BitVec 5) (rs2 : BitVec 5) : Statement (.xor rd rs1 rs2) := by
  refine of_word rfl fun _ => ?_
  have hrd := rd.isLt
  have hrs1 := rs1.isLt
  have hrs2 := rs2.isLt
  refine decode_fields (op := .xor) (m := 0x33) (f7 := 0) (b := rs2.toNat) (a := rs1.toNat) (f3 := 4) (d := rd.toNat)
    (rfl) (by decide) (by decide) (by omega) (by omega) (by decide) (by omega) (rfl) (rfl) (rfl) (rfl) (rfl) rfl
    (rfl) fun n F => ?_
  have e0 : (r5 (fld n 7 5)) = rd := ofNat_of (F.p7.trans (by omega))
  have e1 : (r5 (fld n 15 5)) = rs1 := ofNat_of (F.p15.trans (by omega))
  have e2 : (r5 (fld n 20 5)) = rs2 := ofNat_of (F.p20.trans (by omega))
  show Instr.xor (r5 (fld n 7 5)) (r5 (fld n 15 5)) (r5 (fld n 20 5)) = _
  rw [e0, e1, e2]

theorem srl (rd : BitVec 5) (rs1 : BitVec 5) (rs2 : BitVec 5) : Statement (.srl rd rs1 rs2) := by
  refine of_word rfl fun _ => ?_
  have hrd := rd.isLt
  have hrs1 := rs1.isLt
  have hrs2 := rs2.isLt
  refine decode_fields (op := .srl) (m := 0x33) (f7 := 0) (b := rs2.toNat) (a := rs1.toNat) (f3 := 5) (d := rd.toNat)
    (rfl) (by decide) (by decide) (by omega) (by omega) (by decide) (by omega) (rfl) (rfl) (rfl) (rfl) (rfl) rfl
    (rfl) fun n F => ?_
  have e0 : (r5 (fld n 7 5)) = rd := ofNat_of (F.p7.trans (by omega))
  have e1 : (r5 (fld n 15 5)) = rs1 := ofNat_of (F.p15.trans (by omega))
  have e2 : (r5 (fld n 20 5)) = rs2 := ofNat_of (F.p20.trans (by omega))
  show Instr.srl (r5 (fld n 7 5)) (r5 (fld n 15 5)) (r5 (fld n 20 5)) = _
  rw [e0, e1, e2]

theorem sra (rd : BitVec 5) (rs1 : BitVec 5) (rs2 : BitVec 5) : Statement (.sra rd rs1 rs2) := by
  refine of_word rfl fun _ => ?_
  have hrd := rd.isLt
  have hrs1 := rs1.isLt
  have hrs2 := rs2.isLt
  refine decode_fields (op := .sra) (m := 0x33) (f7 := 0x20) (b := rs2.toNat) (a := rs1.toNat) (f3 := 5) (d := rd.toNat)
    (rfl) (by decide) (by decide) (by omega) (by omega) (by decide) (by omega) (rfl) (rfl) (rfl) (rfl) (rfl) rfl
    (rfl) fun n F => ?_
  have e0 : (r5 (fld n 7 5)) = rd := ofNat_of (F.p7.trans (by omega))
  have e1 : (r5 (fld n 15 5)) = rs1 := ofNat_of (F.p15.trans (by omega))
  have e2 : (r5 (fld n 20 5)) = rs2 := ofNat_of (F.p20.trans (by omega))
  show Instr.sra (r5 (fld n 7 5)) (r5 (fld n 15 5)) (r5 (fld n 20 5)) = _
  rw [e0, e1, e2]

theorem or (rd : BitVec 5) (rs1 : BitVec 5) (rs2 : BitVec 5) : Statement (.or rd rs1 rs2) := by
  refine of_word rfl fun _ => ?_
  have hrd := rd.isLt
  have hrs1 := rs1.isLt
  have hrs2 := rs2.isLt
  refine decode_fields (op := .or) (m := 0x33) (f7 := 0) (b := rs2.toNat) (a := rs1.toNat) (f3 := 6) (d := rd.toNat)
    (rfl) (by decide) (by decide) (by omega) (by omega) (by decide) (by omega) (rfl) (rfl) (rfl) (rfl) (rfl) rfl
    (rfl) fun n F => ?_
  have e0 : (r5 (fld n 7 5)) = rd := ofNat_of (F.p7.trans (by omega))
  have e1 : (r5 (fld n 15 5)) = rs1 := ofNat_of (F.p15.trans (by omega))
  have e2 : (r5 (fld n 20 5)) = rs2 := ofNat_of (F.p20.trans (by omega))
  show Instr.or (r5 (fld n 7 5)) (r5 (fld n 15 5)) (r5 (fld n 20 5)) = _
  rw [e0, e1, e2]

theorem and (rd : BitVec 5) (rs1 : BitVec 5) (rs2 : BitVec 5) : Statement (.and rd rs1 rs2) := by
  refine of_word rfl fun _ => ?_
  have hrd := rd.isLt
  have hrs1 := rs1.isLt
  have hrs2 := rs2.isLt
  refine decode_fields (op := .and) (m := 0x33) (f7 := 0) (b := rs2.toNat) (a := rs1.toNat) (f3 := 7) (d := rd.toNat)
    (rfl) (by decide) (by decide) (by omega) (by omega) (by decide) (by omega) (rfl) (rfl) (rfl) (rfl) (rfl) rfl
    (rfl) fun n F => ?_
  have e0 : (r5 (fld n 7 5)) = rd := ofNat_of (F.p7.trans (by omega))
  have e1 : (r5 (fld n 15 5)) = rs1 := ofNat_of (F.p15.trans (by omega))
  have e2 : (r5 (fld n 20 5)) = rs2 := ofNat_of (F.p20.trans (by omega))
  show Instr.and (r5 (fld n 7 5)) (r5 (fld n 15 5)) (r5 (fld n 20 5)) = _
  rw [e0, e1, e2]

theorem addiw (rd : BitVec 5) (rs1 : BitVec 5) (imm : BitVec 12) : Statement (.addiw rd rs1 imm) := by
  refine of_word rfl fun _ => ?_
  have hrd := rd.isLt
  have hrs1 := rs1.isLt
  have himm := imm.isLt
  refine decode_fields (op := .addiw) (m := 0x1B) (f7 := (imm.toNat / 32)) (b := (imm.toNat % 32)) (a := rs1.toNat) (f3 := 0) (d := rd.toNat) (i12 := imm.toNat)
    (encI_fields _ _ _ _ _) (by decide) (by omega) (by omega) (by omega) (by decide) (by omega) (rfl) (rfl) (rfl) (rfl) (by omega) rfl
    (rfl) fun n F => ?_
  have e0 : (r5 (fld n 7 5)) = rd := ofNat_of (F.p7.trans (by omega))
  have e1 : (r5 (fld n 15 5)) = rs1 := ofNat_of (F.p15.trans (by omega))
  have e2 : (BitVec.ofNat 12 (fld n 20 12)) = imm := ofNat_of (F.i12.trans (by omega))
  show Instr.addiw (r5 (fld n 7 5)) (r5 (fld n 15 5)) (BitVec.ofNat 12 (fld n 20 12)) = _
  rw [e0, e1, e2]

theorem slliw (rd : BitVec 5) (rs1 : BitVec 5) (sh : BitVec 5) : Statement (.slliw rd rs1 sh) := by
  refine of_word rfl fun _ => ?_
  have hrd := rd.isLt
  have hrs1 := rs1.isLt
  have hsh := sh.isLt
  refine decode_fields (op := .slliw) (m := 0x1B) (f7 := (sh.toNat / 32)) (b := (sh.toNat % 32)) (a := rs1.toNat) (f3 := 1) (d := rd.toNat) (i12 := sh.toNat)
    (encI_fields _ _ _ _ _) (by decide) (by omega) (by omega) (by omega) (by decide) (by omega) (rfl) (rfl) (rfl) (rfl) (by omega) rfl
    (by unfold majorF decOpImm32; rw [show sh.toNat / 32 = 0 by omega]; rfl) fun n F => ?_
  have e0 : (r5 (fld n 7 5)) = rd := ofNat_of (F.p7.trans (by omega))
  have e1 : (r5 (fld n 15 5)) = rs1 := ofNat_of (F.p15.trans (by omega))
  have e2 : (r5 (fld n 20 5)) = sh := ofNat_of (F.p20.trans (by omega))
  show Instr.slliw (r5 (fld n 7 5)) (r5 (fld n 15 5)) (r5 (fld n 20 5)) = _
  rw [e0, e1, e2]

theorem srliw (rd : BitVec 5) (rs1 : BitVec 5) (sh : BitVec 5) : Statement (.srliw rd rs1 sh) := by
  refine of_word rfl fun _ => ?_
  have hrd := rd.isLt
  have hrs1 := rs1.isLt
  have hsh := sh.isLt
  refine decode_fields (op := .srliw) (m := 0x1B) (f7 := (sh.toNat / 32)) (b := (sh.toNat % 32)) (a := rs1.toNat) (f3 := 5) (d := rd.toNat) (i12 := sh.toNat)
    (encI_fields _ _ _ _ _) (by decide) (by omega) (by omega) (by omega) (by decide) (by omega) (rfl) (rfl) (rfl) (rfl) (by omega) rfl
    (by unfold majorF decOpImm32; rw [show sh.toNat / 32 = 0 by omega]; rfl) fun n F => ?_
  have e0 : (r5 (fld n 7 5)) = rd := ofNat_of (F.p7.trans (by omega))
  have e1 : (r5 (fld n 15 5)) = rs1 := ofNat_of (F.p15.trans (by omega))
  have e2 : (r5 (fld n 20 5)) = sh := ofNat_of (F.p20.trans (by omega))
  show Instr.srliw (r5 (fld n 7 5)) (r5 (fld n 15 5)) (r5 (fld n 20 5)) = _
  rw [e0, e1, e2]

theorem sraiw (rd : BitVec 5) (rs1 : BitVec 5) (sh : BitVec 5) : Statement (.sraiw rd rs1 sh) := by
  refine of_word rfl fun _ => ?_
  have hrd := rd.isLt
  have hrs1 := rs1.isLt
  have hsh := sh.isLt
  refine decode_fields (op := .sraiw) (m := 0x1B) (f7 := ((0x400 + sh.toNat) / 32)) (b := ((0x400 + sh.toNat) % 32)) (a := rs1.toNat) (f3 := 5) (d := rd.toNat) (i12 := (0x400 + sh.toNat))
    (encI_fields _ _ _ _ _) (by decide) (by omega) (by omega) (by omega) (by decide) (by omega) (rfl) (rfl) (rfl) (rfl) (by omega) rfl
    (by unfold majorF decOpImm32; rw [show (0x400 + sh.toNat) / 32 = 32 by omega]; rfl) fun n F => ?_
  have e0 : (r5 (fld n 7 5)) = rd := ofNat_of (F.p7.trans (by omega))
  have e1 : (r5 (fld n 15 5)) = rs1 := ofNat_of (F.p15.trans (by omega))
  have e2 : (r5 (fld n 20 5)) = sh := ofNat_of (F.p20.trans (by omega))
  show Instr.sraiw (r5 (fld n 7 5)) (r5 (fld n 15 5)) (r5 (fld n 20 5)) = _
  rw [e0, e1, e2]

theorem addw (rd : BitVec 5) (rs1 : BitVec 5) (rs2 : BitVec 5) : Statement (.addw rd rs1 rs2) := by
  refine of_word rfl fun _ => ?_
  have hrd := rd.isLt
  have hrs1 := rs1.isLt
  have hrs2 := rs2.isLt
  refine decode_fields (op := .addw) (m := 0x3B) (f7 := 0) (b := rs2.toNat) (a := rs1.toNat) (f3 := 0) (d := rd.toNat)
    (rfl) (by decide) (by decide) (by omega) (by omega) (by decide) (by omega) (rfl) (rfl) (rfl) (rfl) (rfl) rfl
    (rfl) fun n F => ?_
  have e0 : (r5 (fld n 7 5)) = rd := ofNat_of (F.p7.trans (by omega))
  have e1 : (r5 (fld n 15 5)) = rs1 := ofNat_of (F.p15.trans (by omega))
  have e2 : (r5 (fld n 20 5)) = rs2 := ofNat_of (F.p20.trans (by omega))
  show Instr.addw (r5 (fld n 7 5)) (r5 (fld n 15 5)) (r5 (fld n 20 5)) = _
  rw [e0, e1, e2]

theorem subw (rd : BitVec 5) (rs1 : BitVec 5) (rs2 : BitVec 5) : Statement (.subw rd rs1 rs2) := by
  refine of_word rfl fun _ => ?_
  have hrd := rd.isLt
  have hrs1 := rs1.isLt
  have hrs2 := rs2.isLt
  refine decode_fields (op := .subw) (m := 0x3B) (f7 := 0x20) (b := rs2.toNat) (a := rs1.toNat) (f3 := 0) (d := rd.toNat)
    (rfl) (by decide) (by decide) (by omega) (by omega) (by decide) (by omega) (rfl) (rfl) (rfl) (rfl) (rfl) rfl
    (rfl) fun n F => ?_
  have e0 : (r5 (fld n 7 5)) = rd := ofNat_of (F.p7.trans (by omega))
  have e1 : (r5 (fld n 15 5)) = rs1 := ofNat_of (F.p15.trans (by omega))
  have e2 : (r5 (fld n 20 5)) = rs2 := ofNat_of (F.p20.trans (by omega))
  show Instr.subw (r5 (fld n 7 5)) (r5 (fld n 15 5)) (r5 (fld n 20 5)) = _
  rw [e0, e1, e2]

theorem sllw (rd : BitVec 5) (rs1 : BitVec 5) (rs2 : BitVec 5) : Statement (.sllw rd rs1 rs2) := by
  refine of_word rfl fun _ => ?_
  have hrd := rd.isLt
  have hrs1 := rs1.isLt
  have hrs2 := rs2.isLt
  refine decode_fields (op := .sllw) (m := 0x3B) (f7 := 0) (b := rs2.toNat) (a := rs1.toNat) (f3 := 1) (d := rd.toNat)
    (rfl) (by decide) (by decide) (by omega) (by omega) (by decide) (by omega) (rfl) (rfl) (rfl) (rfl) (rfl) rfl
    (rfl) fun n F => ?_
  have e0 : (r5 (fld n 7 5)) = rd := ofNat_of (F.p7.trans (by omega))
  have e1 : (r5 (fld n 15 5)) = rs1 := ofNat_of (F.p15.trans (by omega))
  have e2 : (r5 (fld n 20 5)) = rs2 := ofNat_of (F.p20.trans (by omega))
  show Instr.sllw (r5 (fld n 7 5)) (r5 (fld n 15 5)) (r5 (fld n 20 5)) = _
  rw [e0, e1, e2]

theorem srlw (rd : BitVec 5) (rs1 : BitVec 5) (rs2 : BitVec 5) : Statement (.srlw rd rs1 rs2) := by
  refine of_word rfl fun _ => ?_
  have hrd := rd.isLt
  have hrs1 := rs1.isLt
  have hrs2 := rs2.isLt
  refine decode_fields (op := .srlw) (m := 0x3B) (f7 := 0) (b := rs2.toNat) (a := rs1.toNat) (f3 := 5) (d := rd.toNat)
    (rfl) (by decide) (by decide) (by omega) (by omega) (by decide) (by omega) (rfl) (rfl) (rfl) (rfl) (rfl) rfl
    (rfl) fun n F => ?_
  have e0 : (r5 (fld n 7 5)) = rd := ofNat_of (F.p7.trans (by omega))
  have e1 : (r5 (fld n 15 5)) = rs1 := ofNat_of (F.p15.trans (by omega))
  have e2 : (r5 (fld n 20 5)) = rs2 := ofNat_of (F.p20.trans (by omega))
  show Instr.srlw (r5 (fld n 7 5)) (r5 (fld n 15 5)) (r5 (fld n 20 5)) = _
  rw [e0, e1, e2]

theorem sraw (rd : BitVec 5) (rs1 : BitVec 5) (rs2 : BitVec 5) : Statement (.sraw rd rs1 rs2) := by
  refine of_word rfl fun _ => ?_
  have hrd := rd.isLt
  have hrs1 := rs1.isLt
  have hrs2 := rs2.isLt
  refine decode_fields (op := .sraw) (m := 0x3B) (f7 := 0x20) (b := rs2.toNat) (a := rs1.toNat) (f3 := 5) (d := rd.toNat)
    (rfl) (by decide) (by decide) (by omega) (by omega) (by decide) (by omega) (rfl) (rfl) (rfl) (rfl) (rfl) rfl
    (rfl) fun n F => ?_
  have e0 : (r5 (fld n 7 5)) = rd := ofNat_of (F.p7.trans (by omega))
  have e1 : (r5 (fld n 15 5)) = rs1 := ofNat_of (F.p15.trans (by omega))
  have e2 : (r5 (fld n 20 5)) = rs2 := ofNat_of (F.p20.trans (by omega))
  show Instr.sraw (r5 (fld n 7 5)) (r5 (fld n 15 5)) (r5 (fld n 20 5)) = _
  rw [e0, e1, e2]

theorem fence (fm : BitVec 4) (pred : BitVec 4) (succ : BitVec 4) (rd : BitVec 5) (rs1 : BitVec 5) : Statement (.fence fm pred succ rd rs1) := by
  refine of_word rfl fun hwf => ?_
  have hfm := fm.isLt
  have hpred := pred.isLt
  have hsucc := succ.isLt
  have hrd := rd.isLt
  have hrs1 := rs1.isLt
  refine decode_fields (op := .fence) (m := 0x0F) (f7 := ((fm.toNat * 256 + pred.toNat * 16 + succ.toNat) / 32)) (b := ((fm.toNat * 256 + pred.toNat * 16 + succ.toNat) % 32)) (a := rs1.toNat) (f3 := 0) (d := rd.toNat) (i12 := (fm.toNat * 256 + pred.toNat * 16 + succ.toNat))
    (encI_fields _ _ _ _ _) (by decide) (by omega) (by omega) (by omega) (by decide) (by omega) (rfl) (rfl) (rfl) (rfl) (by omega) rfl
    (by unfold majorF; exact decFence_plain hwf) fun n F => ?_
  have e0 : (BitVec.ofNat 4 (fld n 28 4)) = fm := ofNat_of (F.p28.trans (by omega))
  have e1 : (BitVec.ofNat 4 (fld n 24 4)) = pred := ofNat_of (F.p24.trans (by omega))
  have e2 : (BitVec.ofNat 4 (fld n 20 4)) = succ := ofNat_of (F.p20c.trans (by omega))
  have e3 : (r5 (fld n 7 5)) = rd := ofNat_of (F.p7.trans (by omega))
  have e4 : (r5 (fld n 15 5)) = rs1 := ofNat_of (F.p15.trans (by omega))
  show Instr.fence (BitVec.ofNat 4 (fld n 28 4)) (BitVec.ofNat 4 (fld n 24 4)) (BitVec.ofNat 4 (fld n 20 4)) (r5 (fld n 7 5)) (r5 (fld n 15 5)) = _
  rw [e0, e1, e2, e3, e4]

theorem fenceTso (rd : BitVec 5) (rs1 : BitVec 5) : Statement (.fenceTso rd rs1) := by
  refine of_word rfl fun _ => ?_
  have hrd := rd.isLt
  have hrs1 := rs1.isLt
  refine decode_fields (op := .fenceTso) (m := 0x0F) (f7 := (0x833 / 32)) (b := (0x833 % 32)) (a := rs1.toNat) (f3 := 0) (d := rd.toNat) (i12 := 0x833)
    (encI_fields _ _ _ _ _) (by decide) (by omega) (by omega) (by omega) (by decide) (by omega) (rfl) (rfl) (rfl) (rfl) (by omega) rfl
    (rfl) fun n F => ?_
  have e0 : (r5 (fld n 7 5)) = rd := ofNat_of (F.p7.trans (by omega))
  have e1 : (r5 (fld n 15 5)) = rs1 := ofNat_of (F.p15.trans (by omega))
  show Instr.fenceTso (r5 (fld n 7 5)) (r5 (fld n 15 5)) = _
  rw [e0, e1]

theorem pause : Statement (.pause) := by
  refine of_word rfl fun _ => ?_
  refine decode_fields (op := .pause) (m := 0x0F) (f7 := (0x010 / 32)) (b := (0x010 % 32)) (a := 0) (f3 := 0) (d := 0) (i12 := 0x010)
    (encI_fields _ _ _ _ _) (by decide) (by omega) (by omega) (by decide) (by decide) (by decide) (rfl) (rfl) (rfl) (rfl) (by omega) rfl
    (rfl) fun n F => ?_
  rfl

theorem ecall : Statement (.ecall) := by
  refine of_word rfl fun _ => ?_
  refine decode_fields (op := .ecall) (m := 0x73) (f7 := (0 / 32)) (b := (0 % 32)) (a := 0) (f3 := 0) (d := 0) (i12 := 0)
    (encI_fields _ _ _ _ _) (by decide) (by omega) (by omega) (by decide) (by decide) (by decide) (rfl) (rfl) (rfl) (rfl) (by omega) rfl
    (rfl) fun n F => ?_
  rfl

theorem ebreak : Statement (.ebreak) := by
  refine of_word rfl fun _ => ?_
  refine decode_fields (op := .ebreak) (m := 0x73) (f7 := (1 / 32)) (b := (1 % 32)) (a := 0) (f3 := 0) (d := 0) (i12 := 1)
    (encI_fields _ _ _ _ _) (by decide) (by omega) (by omega) (by decide) (by decide) (by decide) (rfl) (rfl) (rfl) (rfl) (by omega) rfl
    (rfl) fun n F => ?_
  rfl

theorem mul (rd : BitVec 5) (rs1 : BitVec 5) (rs2 : BitVec 5) : Statement (.mul rd rs1 rs2) := by
  refine of_word rfl fun _ => ?_
  have hrd := rd.isLt
  have hrs1 := rs1.isLt
  have hrs2 := rs2.isLt
  refine decode_fields (op := .mul) (m := 0x33) (f7 := 1) (b := rs2.toNat) (a := rs1.toNat) (f3 := 0) (d := rd.toNat)
    (rfl) (by decide) (by decide) (by omega) (by omega) (by decide) (by omega) (rfl) (rfl) (rfl) (rfl) (rfl) rfl
    (rfl) fun n F => ?_
  have e0 : (r5 (fld n 7 5)) = rd := ofNat_of (F.p7.trans (by omega))
  have e1 : (r5 (fld n 15 5)) = rs1 := ofNat_of (F.p15.trans (by omega))
  have e2 : (r5 (fld n 20 5)) = rs2 := ofNat_of (F.p20.trans (by omega))
  show Instr.mul (r5 (fld n 7 5)) (r5 (fld n 15 5)) (r5 (fld n 20 5)) = _
  rw [e0, e1, e2]

theorem mulh (rd : BitVec 5) (rs1 : BitVec 5) (rs2 : BitVec 5) : Statement (.mulh rd rs1 rs2) := by
  refine of_word rfl fun _ => ?_
  have hrd := rd.isLt
  have hrs1 := rs1.isLt
  have hrs2 := rs2.isLt
  refine decode_fields (op := .mulh) (m := 0x33) (f7 := 1) (b := rs2.toNat) (a := rs1.toNat) (f3 := 1) (d := rd.toNat)
    (rfl) (by decide) (by decide) (by omega) (by omega) (by decide) (by omega) (rfl) (rfl) (rfl) (rfl) (rfl) rfl
    (rfl) fun n F => ?_
  have e0 : (r5 (fld n 7 5)) = rd := ofNat_of (F.p7.trans (by omega))
  have e1 : (r5 (fld n 15 5)) = rs1 := ofNat_of (F.p15.trans (by omega))
  have e2 : (r5 (fld n 20 5)) = rs2 := ofNat_of (F.p20.trans (by omega))
  show Instr.mulh (r5 (fld n 7 5)) (r5 (fld n 15 5)) (r5 (fld n 20 5)) = _
  rw [e0, e1, e2]

theorem mulhsu (rd : BitVec 5) (rs1 : BitVec 5) (rs2 : BitVec 5) : Statement (.mulhsu rd rs1 rs2) := by
  refine of_word rfl fun _ => ?_
  have hrd := rd.isLt
  have hrs1 := rs1.isLt
  have hrs2 := rs2.isLt
  refine decode_fields (op := .mulhsu) (m := 0x33) (f7 := 1) (b := rs2.toNat) (a := rs1.toNat) (f3 := 2) (d := rd.toNat)
    (rfl) (by decide) (by decide) (by omega) (by omega) (by decide) (by omega) (rfl) (rfl) (rfl) (rfl) (rfl) rfl
    (rfl) fun n F => ?_
  have e0 : (r5 (fld n 7 5)) = rd := ofNat_of (F.p7.trans (by omega))
  have e1 : (r5 (fld n 15 5)) = rs1 := ofNat_of (F.p15.trans (by omega))
  have e2 : (r5 (fld n 20 5)) = rs2 := ofNat_of (F.p20.trans (by omega))
  show Instr.mulhsu (r5 (fld n 7 5)) (r5 (fld n 15 5)) (r5 (fld n 20 5)) = _
  rw [e0, e1, e2]

theorem mulhu (rd : BitVec 5) (rs1 : BitVec 5) (rs2 : BitVec 5) : Statement (.mulhu rd rs1 rs2) := by
  refine of_word rfl fun _ => ?_
  have hrd := rd.isLt
  have hrs1 := rs1.isLt
  have hrs2 := rs2.isLt
  refine decode_fields (op := .mulhu) (m := 0x33) (f7 := 1) (b := rs2.toNat) (a := rs1.toNat) (f3 := 3) (d := rd.toNat)
    (rfl) (by decide) (by decide) (by omega) (by omega) (by decide) (by omega) (rfl) (rfl) (rfl) (rfl) (rfl) rfl
    (rfl) fun n F => ?_
  have e0 : (r5 (fld n 7 5)) = rd := ofNat_of (F.p7.trans (by omega))
  have e1 : (r5 (fld n 15 5)) = rs1 := ofNat_of (F.p15.trans (by omega))
  have e2 : (r5 (fld n 20 5)) = rs2 := ofNat_of (F.p20.trans (by omega))
  show Instr.mulhu (r5 (fld n 7 5)) (r5 (fld n 15 5)) (r5 (fld n 20 5)) = _
  rw [e0, e1, e2]

theorem div (rd : BitVec 5) (rs1 : BitVec 5) (rs2 : BitVec 5) : Statement (.div rd rs1 rs2) := by
  refine of_word rfl fun _ => ?_
  have hrd := rd.isLt
  have hrs1 := rs1.isLt
  have hrs2 := rs2.isLt
  refine decode_fields (op := .div) (m := 0x33) (f7 := 1) (b := rs2.toNat) (a := rs1.toNat) (f3 := 4) (d := rd.toNat)
    (rfl) (by decide) (by decide) (by omega) (by omega) (by decide) (by omega) (rfl) (rfl) (rfl) (rfl) (rfl) rfl
    (rfl) fun n F => ?_
  have e0 : (r5 (fld n 7 5)) = rd := ofNat_of (F.p7.trans (by omega))
  have e1 : (r5 (fld n 15 5)) = rs1 := ofNat_of (F.p15.trans (by omega))
  have e2 : (r5 (fld n 20 5)) = rs2 := ofNat_of (F.p20.trans (by omega))
  show Instr.div (r5 (fld n 7 5)) (r5 (fld n 15 5)) (r5 (fld n 20 5)) = _
  rw [e0, e1, e2]

theorem divu (rd : BitVec 5) (rs1 : BitVec 5) (rs2 : BitVec 5) : Statement (.divu rd rs1 rs2) := by
  refine of_word rfl fun _ => ?_
  have hrd := rd.isLt
  have hrs1 := rs1.isLt
  have hrs2 := rs2.isLt
  refine decode_fields (op := .divu) (m := 0x33) (f7 := 1) (b := rs2.toNat) (a := rs1.toNat) (f3 := 5) (d := rd.toNat)
    (rfl) (by decide) (by decide) (by omega) (by omega) (by decide) (by omega) (rfl) (rfl) (rfl) (rfl) (rfl) rfl
    (rfl) fun n F => ?_
  have e0 : (r5 (fld n 7 5)) = rd := ofNat_of (F.p7.trans (by omega))
  have e1 : (r5 (fld n 15 5)) = rs1 := ofNat_of (F.p15.trans (by omega))
  have e2 : (r5 (fld n 20 5)) = rs2 := ofNat_of (F.p20.trans (by omega))
  show Instr.divu (r5 (fld n 7 5)) (r5 (fld n 15 5)) (r5 (fld n 20 5)) = _
  rw [e0, e1, e2]

theorem rem (rd : BitVec 5) (rs1 : BitVec 5) (rs2 : BitVec 5) : Statement (.rem rd rs1 rs2) := by
  refine of_word rfl fun _ => ?_
  have hrd := rd.isLt
  have hrs1 := rs1.isLt
  have hrs2 := rs2.isLt
  refine decode_fields (op := .rem) (m := 0x33) (f7 := 1) (b := rs2.toNat) (a := rs1.toNat) (f3 := 6) (d := rd.toNat)
    (rfl) (by decide) (by decide) (by omega) (by omega) (by decide) (by omega) (rfl) (rfl) (rfl) (rfl) (rfl) rfl
    (rfl) fun n F => ?_
  have e0 : (r5 (fld n 7 5)) = rd := ofNat_of (F.p7.trans (by omega))
  have e1 : (r5 (fld n 15 5)) = rs1 := ofNat_of (F.p15.trans (by omega))
  have e2 : (r5 (fld n 20 5)) = rs2 := ofNat_of (F.p20.trans (by omega))
  show Instr.rem (r5 (fld n 7 5)) (r5 (fld n 15 5)) (r5 (fld n 20 5)) = _
  rw [e0, e1, e2]

theorem remu (rd : BitVec 5) (rs1 : BitVec 5) (rs2 : BitVec 5) : Statement (.remu rd rs1 rs2) := by
  refine of_word rfl fun _ => ?_
  have hrd := rd.isLt
  have hrs1 := rs1.isLt
  have hrs2 := rs2.isLt
  refine decode_fields (op := .remu) (m := 0x33) (f7 := 1) (b := rs2.toNat) (a := rs1.toNat) (f3 := 7) (d := rd.toNat)
    (rfl) (by decide) (by decide) (by omega) (by omega) (by decide) (by omega) (rfl) (rfl) (rfl) (rfl) (rfl) rfl
    (rfl) fun n F => ?_
  have e0 : (r5 (fld n 7 5)) = rd := ofNat_of (F.p7.trans (by omega))
  have e1 : (r5 (fld n 15 5)) = rs1 := ofNat_of (F.p15.trans (by omega))
  have e2 : (r5 (fld n 20 5)) = rs2 := ofNat_of (F.p20.trans (by omega))
  show Instr.remu (r5 (fld n 7 5)) (r5 (fld n 15 5)) (r5 (fld n 20 5)) = _
  rw [e0, e1, e2]

theorem mulw (rd : BitVec 5) (rs1 : BitVec 5) (rs2 : BitVec 5) : Statement (.mulw rd rs1 rs2) := by
  refine of_word rfl fun _ => ?_
  have hrd := rd.isLt
  have hrs1 := rs1.isLt
  have hrs2 := rs2.isLt
  refine decode_fields (op := .mulw) (m := 0x3B) (f7 := 1) (b := rs2.toNat) (a := rs1.toNat) (f3 := 0) (d := rd.toNat)
    (rfl) (by decide) (by decide) (by omega) (by omega) (by decide) (by omega) (rfl) (rfl) (rfl) (rfl) (rfl) rfl
    (rfl) fun n F => ?_
  have e0 : (r5 (fld n 7 5)) = rd := ofNat_of (F.p7.trans (by omega))
  have e1 : (r5 (fld n 15 5)) = rs1 := ofNat_of (F.p15.trans (by omega))
  have e2 : (r5 (fld n 20 5)) = rs2 := ofNat_of (F.p20.trans (by omega))
  show Instr.mulw (r5 (fld n 7 5)) (r5 (fld n 15 5)) (r5 (fld n 20 5)) = _
  rw [e0, e1, e2]

theorem divw (rd : BitVec 5) (rs1 : BitVec 5) (rs2 : BitVec 5) : Statement (.divw rd rs1 rs2) := by
  refine of_word rfl fun _ => ?_
  have hrd := rd.isLt
  have hrs1 := rs1.isLt
  have hrs2 := rs2.isLt
  refine decode_fields (op := .divw) (m := 0x3B) (f7 := 1) (b := rs2.toNat) (a := rs1.toNat) (f3 := 4) (d := rd.toNat)
    (rfl) (by decide) (by decide) (by omega) (by omega) (by decide) (by omega) (rfl) (rfl) (rfl) (rfl) (rfl) rfl
    (rfl) fun n F => ?_
  have e0 : (r5 (fld n 7 5)) = rd := ofNat_of (F.p7.trans (by omega))
  have e1 : (r5 (fld n 15 5)) = rs1 := ofNat_of (F.p15.trans (by omega))
  have e2 : (r5 (fld n 20 5)) = rs2 := ofNat_of (F.p20.trans (by omega))
  show Instr.divw (r5 (fld n 7 5)) (r5 (fld n 15 5)) (r5 (fld n 20 5)) = _
  rw [e0, e1, e2]

theorem divuw (rd : BitVec 5) (rs1 : BitVec 5) (rs2 : BitVec 5) : Statement (.divuw rd rs1 rs2) := by
  refine of_word rfl fun _ => ?_
  have hrd := rd.isLt
  have hrs1 := rs1.isLt
  have hrs2 := rs2.isLt
  refine decode_fields (op := .divuw) (m := 0x3B) (f7 := 1) (b := rs2.toNat) (a := rs1.toNat) (f3 := 5) (d := rd.toNat)
    (rfl) (by decide) (by decide) (by omega) (by omega) (by decide) (by omega) (rfl) (rfl) (rfl) (rfl) (rfl) rfl
    (rfl) fun n F => ?_
  have e0 : (r5 (fld n 7 5)) = rd := ofNat_of (F.p7.trans (by omega))
  have e1 : (r5 (fld n 15 5)) = rs1 := ofNat_of (F.p15.trans (by omega))
  have e2 : (r5 (fld n 20 5)) = rs2 := ofNat_of (F.p20.trans (by omega))
  show Instr.divuw (r5 (fld n 7 5)) (r5 (fld n 15 5)) (r5 (fld n 20 5)) = _
  rw [e0, e1, e2]

theorem remw (rd : BitVec 5) (rs1 : BitVec 5) (rs2 : BitVec 5) : Statement (.remw rd rs1 rs2) := by
  refine of_word rfl fun _ => ?_
  have hrd := rd.isLt
  have hrs1 := rs1.isLt
  have hrs2 := rs2.isLt
  refine decode_fields (op := .remw) (m := 0x3B) (f7 := 1) (b := rs2.toNat) (a := rs1.toNat) (f3 := 6) (d := rd.toNat)
    (rfl) (by decide) (by decide) (by omega) (by omega) (by decide) (by omega) (rfl) (rfl) (rfl) (rfl) (rfl) rfl
    (rfl) fun n F => ?_
  have e0 : (r5 (fld n 7 5)) = rd := ofNat_of (F.p7.trans (by omega))
  have e1 : (r5 (fld n 15 5)) = rs1 := ofNat_of (F.p15.trans (by omega))
  have e2 : (r5 (fld n 20 5)) = rs2 := ofNat_of (F.p20.trans (by omega))
  show Instr.remw (r5 (fld n 7 5)) (r5 (fld n 15 5)) (r5 (fld n 20 5)) = _
  rw [e0, e1, e2]

theorem remuw (rd : BitVec 5) (rs1 : BitVec 5) (rs2 : BitVec 5) : Statement (.remuw rd rs1 rs2) := by
  refine of_word rfl fun _ => ?_
  have hrd := rd.isLt
  have hrs1 := rs1.isLt
  have hrs2 := rs2.isLt
  refine decode_fields (op := .remuw) (m := 0x3B) (f7 := 1) (b := rs2.toNat) (a := rs1.toNat) (f3 := 7) (d := rd.toNat)
    (rfl) (by decide) (by decide) (by omega) (by omega) (by decide) (by omega) (rfl) (rfl) (rfl) (rfl) (rfl) rfl
    (rfl) fun n F => ?_
  have e0 : (r5 (fld n 7 5)) = rd := ofNat_of (F.p7.trans (by omega))
  have e1 : (r5 (fld n 15 5)) = rs1 := ofNat_of (F.p15.trans (by omega))
  have e2 : (r5 (fld n 20 5)) = rs2 := ofNat_of (F.p20.trans (by omega))
  show Instr.remuw (r5 (fld n 7 5)) (r5 (fld n 15 5)) (r5 (fld n 20 5)) = _
  rw [e0, e1, e2]

theorem lrW (rd : BitVec 5) (rs1 : BitVec 5) (aq : Bool) (rl : Bool) : Statement (.lrW rd rs1 aq rl) := by
  refine of_word rfl fun _ => ?_
  have hrd := rd.isLt
  have hrs1 := rs1.isLt
  have haq : aq.toNat ≤ 1 := by cases aq <;> decide
  have hrl : rl.toNat ≤ 1 := by cases rl <;> decide
  refine decode_fields (op := .lrW) (m := 0x2F) (f7 := (2 * 4 + aq.toNat * 2 + rl.toNat)) (b := 0) (a := rs1.toNat) (f3 := 2) (d := rd.toNat) (q27 := 2)
    (rfl) (by decide) (by omega) (by decide) (by omega) (by decide) (by omega) (rfl) (rfl) (by omega) (rfl) (rfl) rfl
    (rfl) fun n F => ?_
  have e0 : (r5 (fld n 7 5)) = rd := ofNat_of (F.p7.trans (by omega))
  have e1 : (r5 (fld n 15 5)) = rs1 := ofNat_of (F.p15.trans (by omega))
  have e2 : (fld n 26 1 == 1) = aq := by rw [F.p26]; cases aq <;> cases rl <;> rfl
  have e3 : (fld n 25 1 == 1) = rl := by rw [F.p25d]; cases aq <;> cases rl <;> rfl
  show Instr.lrW (r5 (fld n 7 5)) (r5 (fld n 15 5)) (fld n 26 1 == 1) (fld n 25 1 == 1) = _
  rw [e0, e1, e2, e3]

theorem lrD (rd : BitVec 5) (rs1 : BitVec 5) (aq : Bool) (rl : Bool) : Statement (.lrD rd rs1 aq rl) := by
  refine of_word rfl fun _ => ?_
  have hrd := rd.isLt
  have hrs1 := rs1.isLt
  have haq : aq.toNat ≤ 1 := by cases aq <;> decide
  have hrl : rl.toNat ≤ 1 := by cases rl <;> decide
  refine decode_fields (op := .lrD) (m := 0x2F) (f7 := (2 * 4 + aq.toNat * 2 + rl.toNat)) (b := 0) (a := rs1.toNat) (f3 := 3) (d := rd.toNat) (q27 := 2)
    (rfl) (by decide) (by omega) (by decide) (by omega) (by decide) (by omega) (rfl) (rfl) (by omega) (rfl) (rfl) rfl
    (rfl) fun n F => ?_
  have e0 : (r5 (fld n 7 5)) = rd := ofNat_of (F.p7.trans (by omega))
  have e1 : (r5 (fld n 15 5)) = rs1 := ofNat_of (F.p15.trans (by omega))
  have e2 : (fld n 26 1 == 1) = aq := by rw [F.p26]; cases aq <;> cases rl <;> rfl
  have e3 : (fld n 25 1 == 1) = rl := by rw [F.p25d]; cases aq <;> cases rl <;> rfl
  show Instr.lrD (r5 (fld n 7 5)) (r5 (fld n 15 5)) (fld n 26 1 == 1) (fld n 25 1 == 1) = _
  rw [e0, e1, e2, e3]

theorem scW (rd : BitVec 5) (rs1 : BitVec 5) (rs2 : BitVec 5) (aq : Bool) (rl : Bool) : Statement (.scW rd rs1 rs2 aq rl) := by
  refine of_word rfl fun _ => ?_
  have hrd := rd.isLt
  have hrs1 := rs1.isLt
  have hrs2 := rs2.isLt
  have haq : aq.toNat ≤ 1 := by cases aq <;> decide
  have hrl : rl.toNat ≤ 1 := by cases rl <;> decide
  refine decode_fields (op := .scW) (m := 0x2F) (f7 := (3 * 4 + aq.toNat * 2 + rl.toNat)) (b := rs2.toNat) (a := rs1.toNat) (f3 := 2) (d := rd.toNat) (q27 := 3)
    (rfl) (by decide) (by omega) (by omega) (by omega) (by decide) (by omega) (rfl) (rfl) (by omega) (rfl) (rfl) rfl
    (rfl) fun n F => ?_
  have e0 : (r5 (fld n 7 5)) = rd := ofNat_of (F.p7.trans (by omega))
  have e1 : (r5 (fld n 15 5)) = rs1 := ofNat_of (F.p15.trans (by omega))
  have e2 : (r5 (fld n 20 5)) = rs2 := ofNat_of (F.p20.trans (by omega))
  have e3 : (fld n 26 1 == 1) = aq := by rw [F.p26]; cases aq <;> cases rl <;> rfl
  have e4 : (fld n 25 1 == 1) = rl := by rw [F.p25d]; cases aq <;> cases rl <;> rfl
  show Instr.scW (r5 (fld n 7 5)) (r5 (fld n 15 5)) (r5 (fld n 20 5)) (fld n 26 1 == 1) (fld n 25 1 == 1) = _
  rw [e0, e1, e2, e3, e4]

theorem scD (rd : BitVec 5) (rs1 : BitVec 5) (rs2 : BitVec 5) (aq : Bool) (rl : Bool) : Statement (.scD rd rs1 rs2 aq rl) := by
  refine of_word rfl fun _ => ?_
  have hrd := rd.isLt
  have hrs1 := rs1.isLt
  have hrs2 := rs2.isLt
  have haq : aq.toNat ≤ 1 := by cases aq <;> decide
  have hrl : rl.toNat ≤ 1 := by cases rl <;> decide
  refine decode_fields (op := .scD) (m := 0x2F) (f7 := (3 * 4 + aq.toNat * 2 + rl.toNat)) (b := rs2.toNat) (a := rs1.toNat) (f3 := 3) (d := rd.toNat) (q27 := 3)
    (rfl) (by decide) (by omega) (by omega) (by omega) (by decide) (by omega) (rfl) (rfl) (by omega) (rfl) (rfl) rfl
    (rfl) fun n F => ?_
  have e0 : (r5 (fld n 7 5)) = rd := ofNat_of (F.p7.trans (by omega))
  have e1 : (r5 (fld n 15 5)) = rs1 := ofNat_of (F.p15.trans (by omega))
  have e2 : (r5 (fld n 20 5)) = rs2 := ofNat_of (F.p20.trans (by omega))
  have e3 : (fld n 26 1 == 1) = aq := by rw [F.p26]; cases aq <;> cases rl <;> rfl
  have e4 : (fld n 25 1 == 1) = rl := by rw [F.p25d]; cases aq <;> cases rl <;> rfl
  show Instr.scD (r5 (fld n 7 5)) (r5 (fld n 15 5)) (r5 (fld n 20 5)) (fld n 26 1 == 1) (fld n 25 1 == 1) = _
  rw [e0, e1, e2, e3, e4]

theorem amoSwapW (rd : BitVec 5) (rs1 : BitVec 5) (rs2 : BitVec 5) (aq : Bool) (rl : Bool) : Statement (.amoSwapW rd rs1 rs2 aq rl) := by
  refine of_word rfl fun _ => ?_
  have hrd := rd.isLt
  have hrs1 := rs1.isLt
  have hrs2 := rs2.isLt
  have haq : aq.toNat ≤ 1 := by cases aq <;> decide
  have hrl : rl.toNat ≤ 1 := by cases rl <;> decide
  refine decode_fields (op := .amoSwapW) (m := 0x2F) (f7 := (1 * 4 + aq.toNat * 2 + rl.toNat)) (b := rs2.toNat) (a := rs1.toNat) (f3 := 2) (d := rd.toNat) (q27 := 1)
    (rfl) (by decide) (by omega) (by omega) (by omega) (by decide) (by omega) (rfl) (rfl) (by omega) (rfl) (rfl) rfl
    (rfl) fun n F => ?_
  have e0 : (r5 (fld n 7 5)) = rd := ofNat_of (F.p7.trans (by omega))
  have e1 : (r5 (fld n 15 5)) = rs1 := ofNat_of (F.p15.trans (by omega))
  have e2 : (r5 (fld n 20 5)) = rs2 := ofNat_of (F.p20.trans (by omega))
  have e3 : (fld n 26 1 == 1) = aq := by rw [F.p26]; cases aq <;> cases rl <;> rfl
  have e4 : (fld n 25 1 == 1) = rl := by rw [F.p25d]; cases aq <;> cases rl <;> rfl
  show Instr.amoSwapW (r5 (fld n 7 5)) (r5 (fld n 15 5)) (r5 (fld n 20 5)) (fld n 26 1 == 1) (fld n 25 1 == 1) = _
  rw [e0, e1, e2, e3, e4]

theorem amoSwapD (rd : BitVec 5) (rs1 : BitVec 5) (rs2 : BitVec 5) (aq : Bool) (rl : Bool) : Statement (.amoSwapD rd rs1 rs2 aq rl) := by
  refine of_word rfl fun _ => ?_
  have hrd := rd.isLt
  have hrs1 := rs1.isLt
  have hrs2 := rs2.isLt
  have haq : aq.toNat ≤ 1 := by cases aq <;> decide
  have hrl : rl.toNat ≤ 1 := by cases rl <;> decide
  refine decode_fields (op := .amoSwapD) (m := 0x2F) (f7 := (1 * 4 + aq.toNat * 2 + rl.toNat)) (b := rs2.toNat) (a := rs1.toNat) (f3 := 3) (d := rd.toNat) (q27 := 1)
    (rfl) (by decide) (by omega) (by omega) (by omega) (by decide) (by omega) (rfl) (rfl) (by omega) (rfl) (rfl) rfl
    (rfl) fun n F => ?_
  have e0 : (r5 (fld n 7 5)) = rd := ofNat_of (F.p7.trans (by omega))
  have e1 : (r5 (fld n 15 5)) = rs1 := ofNat_of (F.p15.trans (by omega))
  have e2 : (r5 (fld n 20 5)) = rs2 := ofNat_of (F.p20.trans (by omega))
  have e3 : (fld n 26 1 == 1) = aq := by rw [F.p26]; cases aq <;> cases rl <;> rfl
  have e4 : (fld n 25 1 == 1) = rl := by rw [F.p25d]; cases aq <;> cases rl <;> rfl
  show Instr.amoSwapD (r5 (fld n 7 5)) (r5 (fld n 15 5)) (r5 (fld n 20 5)) (fld n 26 1 == 1) (fld n 25 1 == 1) = _
  rw [e0, e1, e2, e3, e4]

theorem amoAddW (rd : BitVec 5) (rs1 : BitVec 5) (rs2 : BitVec 5) (aq : Bool) (rl : Bool) : Statement (.amoAddW rd rs1 rs2 aq rl) := by
  refine of_word rfl fun _ => ?_
  have hrd := rd.isLt
  have hrs1 := rs1.isLt
  have hrs2 := rs2.isLt
  have haq : aq.toNat ≤ 1 := by cases aq <;> decide
  have hrl : rl.toNat ≤ 1 := by cases rl <;> decide
  refine decode_fields (op := .amoAddW) (m := 0x2F) (f7 := (0 * 4 + aq.toNat * 2 + rl.toNat)) (b := rs2.toNat) (a := rs1.toNat) (f3 := 2) (d := rd.toNat) (q27 := 0)
    (rfl) (by decide) (by omega) (by omega) (by omega) (by decide) (by omega) (rfl) (rfl) (by omega) (rfl) (rfl) rfl
    (rfl) fun n F => ?_
  have e0 : (r5 (fld n 7 5)) = rd := ofNat_of (F.p7.trans (by omega))
  have e1 : (r5 (fld n 15 5)) = rs1 := ofNat_of (F.p15.trans (by omega))
  have e2 : (r5 (fld n 20 5)) = rs2 := ofNat_of (F.p20.trans (by omega))
  have e3 : (fld n 26 1 == 1) = aq := by rw [F.p26]; cases aq <;> cases rl <;> rfl
  have e4 : (fld n 25 1 == 1) = rl := by rw [F.p25d]; cases aq <;> cases rl <;> rfl
  show Instr.amoAddW (r5 (fld n 7 5)) (r5 (fld n 15 5)) (r5 (fld n 20 5)) (fld n 26 1 == 1) (fld n 25 1 == 1) = _
  rw [e0, e1, e2, e3, e4]

theorem amoAddD (rd : BitVec 5) (rs1 : BitVec 5) (rs2 : BitVec 5) (aq : Bool) (rl : Bool) : Statement (.amoAddD rd rs1 rs2 aq rl) := by
  refine of_word rfl fun _ => ?_
  have hrd := rd.isLt
  have hrs1 := rs1.isLt
  have hrs2 := rs2.isLt
  have haq : aq.toNat ≤ 1 := by cases aq <;> decide
  have hrl : rl.toNat ≤ 1 := by cases rl <;> decide
  refine decode_fields (op := .amoAddD) (m := 0x2F) (f7 := (0 * 4 + aq.toNat * 2 + rl.toNat)) (b := rs2.toNat) (a := rs1.toNat) (f3 := 3) (d := rd.toNat) (q27 := 0)
    (rfl) (by decide) (by omega) (by omega) (by omega) (by decide) (by omega) (rfl) (rfl) (by omega) (rfl) (rfl) rfl
    (rfl) fun n F => ?_
  have e0 : (r5 (fld n 7 5)) = rd := ofNat_of (F.p7.trans (by omega))
  have e1 : (r5 (fld n 15 5)) = rs1 := ofNat_of (F.p15.trans (by omega))
  have e2 : (r5 (fld n 20 5)) = rs2 := ofNat_of (F.p20.trans (by omega))
  have e3 : (fld n 26 1 == 1) = aq := by rw [F.p26]; cases aq <;> cases rl <;> rfl
  have e4 : (fld n 25 1 == 1) = rl := by rw [F.p25d]; cases aq <;> cases rl <;> rfl
  show Instr.amoAddD (r5 (fld n 7 5)) (r5 (fld n 15 5)) (r5 (fld n 20 5)) (fld n 26 1 == 1) (fld n 25 1 == 1) = _
  rw [e0, e1, e2, e3, e4]

theorem amoXorW (rd : BitVec 5) (rs1 : BitVec 5) (rs2 : BitVec 5) (aq : Bool) (rl : Bool) : Statement (.amoXorW rd rs1 rs2 aq rl) := by
  refine of_word rfl fun _ => ?_
  have hrd := rd.isLt
  have hrs1 := rs1.isLt
  have hrs2 := rs2.isLt
  have haq : aq.toNat ≤ 1 := by cases aq <;> decide
  have hrl : rl.toNat ≤ 1 := by cases rl <;> decide
  refine decode_fields (op := .amoXorW) (m := 0x2F) (f7 := (4 * 4 + aq.toNat * 2 + rl.toNat)) (b := rs2.toNat) (a := rs1.toNat) (f3 := 2) (d := rd.toNat) (q27 := 4)
    (rfl) (by decide) (by omega) (by omega) (by omega) (by decide) (by omega) (rfl) (rfl) (by omega) (rfl) (rfl) rfl
    (rfl) fun n F => ?_
  have e0 : (r5 (fld n 7 5)) = rd := ofNat_of (F.p7.trans (by omega))
  have e1 : (r5 (fld n 15 5)) = rs1 := ofNat_of (F.p15.trans (by omega))
  have e2 : (r5 (fld n 20 5)) = rs2 := ofNat_of (F.p20.trans (by omega))
  have e3 : (fld n 26 1 == 1) = aq := by rw [F.p26]; cases aq <;> cases rl <;> rfl
  have e4 : (fld n 25 1 == 1) = rl := by rw [F.p25d]; cases aq <;> cases rl <;> rfl
  show Instr.amoXorW (r5 (fld n 7 5)) (r5 (fld n 15 5)) (r5 (fld n 20 5)) (fld n 26 1 == 1) (fld n 25 1 == 1) = _
  rw [e0, e1, e2, e3, e4]

theorem amoXorD (rd : BitVec 5) (rs1 : BitVec 5) (rs2 : BitVec 5) (aq : Bool) (rl : Bool) : Statement (.amoXorD rd rs1 rs2 aq rl) := by
  refine of_word rfl fun _ => ?_
  have hrd := rd.isLt
  have hrs1 := rs1.isLt
  have hrs2 := rs2.isLt
  have haq : aq.toNat ≤ 1 := by cases aq <;> decide
  have hrl : rl.toNat ≤ 1 := by cases rl <;> decide
  refine decode_fields (op := .amoXorD) (m := 0x2F) (f7 := (4 * 4 + aq.toNat * 2 + rl.toNat)) (b := rs2.toNat) (a := rs1.toNat) (f3 := 3) (d := rd.toNat) (q27 := 4)
    (rfl) (by decide) (by omega) (by omega) (by omega) (by decide) (by omega) (rfl) (rfl) (by omega) (rfl) (rfl) rfl
    (rfl) fun n F => ?_
  have e0 : (r5 (fld n 7 5)) = rd := ofNat_of (F.p7.trans (by omega))
  have e1 : (r5 (fld n 15 5)) = rs1 := ofNat_of (F.p15.trans (by omega))
  have e2 : (r5 (fld n 20 5)) = rs2 := ofNat_of (F.p20.trans (by omega))
  have e3 : (fld n 26 1 == 1) = aq := by rw [F.p26]; cases aq <;> cases rl <;> rfl
  have e4 : (fld n 25 1 == 1) = rl := by rw [F.p25d]; cases aq <;> cases rl <;> rfl
  show Instr.amoXorD (r5 (fld n 7 5)) (r5 (fld n 15 5)) (r5 (fld n 20 5)) (fld n 26 1 == 1) (fld n 25 1 == 1) = _
  rw [e0, e1, e2, e3, e4]

theorem amoAndW (rd : BitVec 5) (rs1 : BitVec 5) (rs2 : BitVec 5) (aq : Bool) (rl : Bool) : Statement (.amoAndW rd rs1 rs2 aq rl) := by
  refine of_word rfl fun _ => ?_
  have hrd := rd.isLt
  have hrs1 := rs1.isLt
  have hrs2 := rs2.isLt
  have haq : aq.toNat ≤ 1 := by cases aq <;> decide
  have hrl : rl.toNat ≤ 1 := by cases rl <;> decide
  refine decode_fields (op := .amoAndW) (m := 0x2F) (f7 := (12 * 4 + aq.toNat * 2 + rl.toNat)) (b := rs2.toNat) (a := rs1.toNat) (f3 := 2) (d := rd.toNat) (q27 := 12)
    (rfl) (by decide) (by omega) (by omega) (by omega) (by decide) (by omega) (rfl) (rfl) (by omega) (rfl) (rfl) rfl
    (rfl) fun n F => ?_
  have e0 : (r5 (fld n 7 5)) = rd := ofNat_of (F.p7.trans (by omega))
  have e1 : (r5 (fld n 15 5)) = rs1 := ofNat_of (F.p15.trans (by omega))
  have e2 : (r5 (fld n 20 5)) = rs2 := ofNat_of (F.p20.trans (by omega))
  have e3 : (fld n 26 1 == 1) = aq := by rw [F.p26]; cases aq <;> cases rl <;> rfl
  have e4 : (fld n 25 1 == 1) = rl := by rw [F.p25d]; cases aq <;> cases rl <;> rfl
  show Instr.amoAndW (r5 (fld n 7 5)) (r5 (fld n 15 5)) (r5 (fld n 20 5)) (fld n 26 1 == 1) (fld n 25 1 == 1) = _
  rw [e0, e1, e2, e3, e4]

theorem amoAndD (rd : BitVec 5) (rs1 : BitVec 5) (rs2 : BitVec 5) (aq : Bool) (rl : Bool) : Statement (.amoAndD rd rs1 rs2 aq rl) := by
  refine of_word rfl fun _ => ?_
  have hrd := rd.isLt
  have hrs1 := rs1.isLt
  have hrs2 := rs2.isLt
  have haq : aq.toNat ≤ 1 := by cases aq <;> decide
  have hrl : rl.toNat ≤ 1 := by cases rl <;> decide
  refine decode_fields (op := .amoAndD) (m := 0x2F) (f7 := (12 * 4 + aq.toNat * 2 + rl.toNat)) (b := rs2.toNat) (a := rs1.toNat) (f3 := 3) (d := rd.toNat) (q27 := 12)
    (rfl) (by decide) (by omega) (by omega) (by omega) (by decide) (by omega) (rfl) (rfl) (by omega) (rfl) (rfl) rfl
    (rfl) fun n F => ?_
  have e0 : (r5 (fld n 7 5)) = rd := ofNat_of (F.p7.trans (by omega))
  have e1 : (r5 (fld n 15 5)) = rs1 := ofNat_of (F.p15.trans (by omega))
  have e2 : (r5 (fld n 20 5)) = rs2 := ofNat_of (F.p20.trans (by omega))
  have e3 : (fld n 26 1 == 1) = aq := by rw [F.p26]; cases aq <;> cases rl <;> rfl
  have e4 : (fld n 25 1 == 1) = rl := by rw [F.p25d]; cases aq <;> cases rl <;> rfl
  show Instr.amoAndD (r5 (fld n 7 5)) (r5 (fld n 15 5)) (r5 (fld n 20 5)) (fld n 26 1 == 1) (fld n 25 1 == 1) = _
  rw [e0, e1, e2, e3, e4]

theorem amoOrW (rd : BitVec 5) (rs1 : BitVec 5) (rs2 : BitVec 5) (aq : Bool) (rl : Bool) : Statement (.amoOrW rd rs1 rs2 aq rl) := by
  refine of_word rfl fun _ => ?_
  have hrd := rd.isLt
  have hrs1 := rs1.isLt
  have hrs2 := rs2.isLt
  have haq : aq.toNat ≤ 1 := by cases aq <;> decide
  have hrl : rl.toNat ≤ 1 := by cases rl <;> decide
  refine decode_fields (op := .amoOrW) (m := 0x2F) (f7 := (8 * 4 + aq.toNat * 2 + rl.toNat)) (b := rs2.toNat) (a := rs1.toNat) (f3 := 2) (d := rd.toNat) (q27 := 8)
    (rfl) (by decide) (by omega) (by omega) (by omega) (by decide) (by omega) (rfl) (rfl) (by omega) (rfl) (rfl) rfl
    (rfl) fun n F => ?_
  have e0 : (r5 (fld n 7 5)) = rd := ofNat_of (F.p7.trans (by omega))
  have e1 : (r5 (fld n 15 5)) = rs1 := ofNat_of (F.p15.trans (by omega))
  have e2 : (r5 (fld n 20 5)) = rs2 := ofNat_of (F.p20.trans (by omega))
  have e3 : (fld n 26 1 == 1) = aq := by rw [F.p26]; cases aq <;> cases rl <;> rfl
  have e4 : (fld n 25 1 == 1) = rl := by rw [F.p25d]; cases aq <;> cases rl <;> rfl
  show Instr.amoOrW (r5 (fld n 7 5)) (r5 (fld n 15 5)) (r5 (fld n 20 5)) (fld n 26 1 == 1) (fld n 25 1 == 1) = _
  rw [e0, e1, e2, e3, e4]

theorem amoOrD (rd : BitVec 5) (rs1 : BitVec 5) (rs2 : BitVec 5) (aq : Bool) (rl : Bool) : Statement (.amoOrD rd rs1 rs2 aq rl) := by
  refine of_word rfl fun _ => ?_
  have hrd := rd.isLt
  have hrs1 := rs1.isLt
  have hrs2 := rs2.isLt
  have haq : aq.toNat ≤ 1 := by cases aq <;> decide
  have hrl : rl.toNat ≤ 1 := by cases rl <;> decide
  refine decode_fields (op := .amoOrD) (m := 0x2F) (f7 := (8 * 4 + aq.toNat * 2 + rl.toNat)) (b := rs2.toNat) (a := rs1.toNat) (f3 := 3) (d := rd.toNat) (q27 := 8)
    (rfl) (by decide) (by omega) (by omega) (by omega) (by decide) (by omega) (rfl) (rfl) (by omega) (rfl) (rfl) rfl
    (rfl) fun n F => ?_
  have e0 : (r5 (fld n 7 5)) = rd := ofNat_of (F.p7.trans (by omega))
  have e1 : (r5 (fld n 15 5)) = rs1 := ofNat_of (F.p15.trans (by omega))
  have e2 : (r5 (fld n 20 5)) = rs2 := ofNat_of (F.p20.trans (by omega))
  have e3 : (fld n 26 1 == 1) = aq := by rw [F.p26]; cases aq <;> cases rl <;> rfl
  have e4 : (fld n 25 1 == 1) = rl := by rw [F.p25d]; cases aq <;> cases rl <;> rfl
  show Instr.amoOrD (r5 (fld n 7 5)) (r5 (fld n 15 5)) (r5 (fld n 20 5)) (fld n 26 1 == 1) (fld n 25 1 == 1) = _
  rw [e0, e1, e2, e3, e4]

theorem amoMinW (rd : BitVec 5) (rs1 : BitVec 5) (rs2 : BitVec 5) (aq : Bool) (rl : Bool) : Statement (.amoMinW rd rs1 rs2 aq rl) := by
  refine of_word rfl fun _ => ?_
  have hrd := rd.isLt
  have hrs1 := rs1.isLt
  have hrs2 := rs2.isLt
  have haq : aq.toNat ≤ 1 := by cases aq <;> decide
  have hrl : rl.toNat ≤ 1 := by cases rl <;> decide
  refine decode_fields (op := .amoMinW) (m := 0x2F) (f7 := (16 * 4 + aq.toNat * 2 + rl.toNat)) (b := rs2.toNat) (a := rs1.toNat) (f3 := 2) (d := rd.toNat) (q27 := 16)
    (rfl) (by decide) (by omega) (by omega) (by omega) (by decide) (by omega) (rfl) (rfl) (by omega) (rfl) (rfl) rfl
    (rfl) fun n F => ?_
  have e0 : (r5 (fld n 7 5)) = rd := ofNat_of (F.p7.trans (by omega))
  have e1 : (r5 (fld n 15 5)) = rs1 := ofNat_of (F.p15.trans (by omega))
  have e2 : (r5 (fld n 20 5)) = rs2 := ofNat_of (F.p20.trans (by omega))
  have e3 : (fld n 26 1 == 1) = aq := by rw [F.p26]; cases aq <;> cases rl <;> rfl
  have e4 : (fld n 25 1 == 1) = rl := by rw [F.p25d]; cases aq <;> cases rl <;> rfl
  show Instr.amoMinW (r5 (fld n 7 5)) (r5 (fld n 15 5)) (r5 (fld n 20 5)) (fld n 26 1 == 1) (fld n 25 1 == 1) = _
  rw [e0, e1, e2, e3, e4]

theorem amoMinD (rd : BitVec 5) (rs1 : BitVec 5) (rs2 : BitVec 5) (aq : Bool) (rl : Bool) : Statement (.amoMinD rd rs1 rs2 aq rl) := by
  refine of_word rfl fun _ => ?_
  have hrd := rd.isLt
  have hrs1 := rs1.isLt
  have hrs2 := rs2.isLt
  have haq : aq.toNat ≤ 1 := by cases aq <;> decide
  have hrl : rl.toNat ≤ 1 := by cases rl <;> decide
  refine decode_fields (op := .amoMinD) (m := 0x2F) (f7 := (16 * 4 + aq.toNat * 2 + rl.toNat)) (b := rs2.toNat) (a := rs1.toNat) (f3 := 3) (d := rd.toNat) (q27 := 16)
    (rfl) (by decide) (by omega) (by omega) (by omega) (by decide) (by omega) (rfl) (rfl) (by omega) (rfl) (rfl) rfl
    (rfl) fun n F => ?_
  have e0 : (r5 (fld n 7 5)) = rd := ofNat_of (F.p7.trans (by omega))
  have e1 : (r5 (fld n 15 5)) = rs1 := ofNat_of (F.p15.trans (by omega))
  have e2 : (r5 (fld n 20 5)) = rs2 := ofNat_of (F.p20.trans (by omega))
  have e3 : (fld n 26 1 == 1) = aq := by rw [F.p26]; cases aq <;> cases rl <;> rfl
  have e4 : (fld n 25 1 == 1) = rl := by rw [F.p25d]; cases aq <;> cases rl <;> rfl
  show Instr.amoMinD (r5 (fld n 7 5)) (r5 (fld n 15 5)) (r5 (fld n 20 5)) (fld n 26 1 == 1) (fld n 25 1 == 1) = _
  rw [e0, e1, e2, e3, e4]

theorem amoMaxW (rd : BitVec 5) (rs1 : BitVec 5) (rs2 : BitVec 5) (aq : Bool) (rl : Bool) : Statement (.amoMaxW rd rs1 rs2 aq rl) := by
  refine of_word rfl fun _ => ?_
  have hrd := rd.isLt
  have hrs1 := rs1.isLt
  have hrs2 := rs2.isLt
  have haq : aq.toNat ≤ 1 := by cases aq <;> decide
  have hrl : rl.toNat ≤ 1 := by cases rl <;> decide
  refine decode_fields (op := .amoMaxW) (m := 0x2F) (f7 := (20 * 4 + aq.toNat * 2 + rl.toNat)) (b := rs2.toNat) (a := rs1.toNat) (f3 := 2) (d := rd.toNat) (q27 := 20)
    (rfl) (by decide) (by omega) (by omega) (by omega) (by decide) (by omega) (rfl) (rfl) (by omega) (rfl) (rfl) rfl
    (rfl) fun n F => ?_
  have e0 : (r5 (fld n 7 5)) = rd := ofNat_of (F.p7.trans (by omega))
  have e1 : (r5 (fld n 15 5)) = rs1 := ofNat_of (F.p15.trans (by omega))
  have e2 : (r5 (fld n 20 5)) = rs2 := ofNat_of (F.p20.trans (by omega))
  have e3 : (fld n 26 1 == 1) = aq := by rw [F.p26]; cases aq <;> cases rl <;> rfl
  have e4 : (fld n 25 1 == 1) = rl := by rw [F.p25d]; cases aq <;> cases rl <;> rfl
  show Instr.amoMaxW (r5 (fld n 7 5)) (r5 (fld n 15 5)) (r5 (fld n 20 5)) (fld n 26 1 == 1) (fld n 25 1 == 1) = _
  rw [e0, e1, e2, e3, e4]

theorem amoMaxD (rd : BitVec 5) (rs1 : BitVec 5) (rs2 : BitVec 5) (aq : Bool) (rl : Bool) : Statement (.amoMaxD rd rs1 rs2 aq rl) := by
  refine of_word rfl fun _ => ?_
  have hrd := rd.isLt
  have hrs1 := rs1.isLt
  have hrs2 := rs2.isLt
  have haq : aq.toNat ≤ 1 := by cases aq <;> decide
  have hrl : rl.toNat ≤ 1 := by cases rl <;> decide
  refine decode_fields (op := .amoMaxD) (m := 0x2F) (f7 := (20 * 4 + aq.toNat * 2 + rl.toNat)) (b := rs2.toNat) (a := rs1.toNat) (f3 := 3) (d := rd.toNat) (q27 := 20)
    (rfl) (by decide) (by omega) (by omega) (by omega) (by decide) (by omega) (rfl) (rfl) (by omega) (rfl) (rfl) rfl
    (rfl) fun n F => ?_
  have e0 : (r5 (fld n 7 5)) = rd := ofNat_of (F.p7.trans (by omega))
  have e1 : (r5 (fld n 15 5)) = rs1 := ofNat_of (F.p15.trans (by omega))
  have e2 : (r5 (fld n 20 5)) = rs2 := ofNat_of (F.p20.trans (by omega))
  have e3 : (fld n 26 1 == 1) = aq := by rw [F.p26]; cases aq <;> cases rl <;> rfl
  have e4 : (fld n 25 1 == 1) = rl := by rw [F.p25d]; cases aq <;> cases rl <;> rfl
  show Instr.amoMaxD (r5 (fld n 7 5)) (r5 (fld n 15 5)) (r5 (fld n 20 5)) (fld n 26 1 == 1) (fld n 25 1 == 1) = _
  rw [e0, e1, e2, e3, e4]

theorem amoMinuW (rd : BitVec 5) (rs1 : BitVec 5) (rs2 : BitVec 5) (aq : Bool) (rl : Bool) : Statement (.amoMinuW rd rs1 rs2 aq rl) := by
  refine of_word rfl fun _ => ?_
  have hrd := rd.isLt
  have hrs1 := rs1.isLt
  have hrs2 := rs2.isLt
  have haq : aq.toNat ≤ 1 := by cases aq <;> decide
  have hrl : rl.toNat ≤ 1 := by cases rl <;> decide
  refine decode_fields (op := .amoMinuW) (m := 0x2F) (f7 := (24 * 4 + aq.toNat * 2 + rl.toNat)) (b := rs2.toNat) (a := rs1.toNat) (f3 := 2) (d := rd.toNat) (q27 := 24)
    (rfl) (by decide) (by omega) (by omega) (by omega) (by decide) (by omega) (rfl) (rfl) (by omega) (rfl) (rfl) rfl
    (rfl) fun n F => ?_
  have e0 : (r5 (fld n 7 5)) = rd := ofNat_of (F.p7.trans (by omega))
  have e1 : (r5 (fld n 15 5)) = rs1 := ofNat_of (F.p15.trans (by omega))
  have e2 : (r5 (fld n 20 5)) = rs2 := ofNat_of (F.p20.trans (by omega))
  have e3 : (fld n 26 1 == 1) = aq := by rw [F.p26]; cases aq <;> cases rl <;> rfl
  have e4 : (fld n 25 1 == 1) = rl := by rw [F.p25d]; cases aq <;> cases rl <;> rfl
  show Instr.amoMinuW (r5 (fld n 7 5)) (r5 (fld n 15 5)) (r5 (fld n 20 5)) (fld n 26 1 == 1) (fld n 25 1 == 1) = _
  rw [e0, e1, e2, e3, e4]

theorem amoMinuD (rd : BitVec 5) (rs1 : BitVec 5) (rs2 : BitVec 5) (aq : Bool) (rl : Bool) : Statement (.amoMinuD rd rs1 rs2 aq rl) := by
  refine of_word rfl fun _ => ?_
  have hrd := rd.isLt
  have hrs1 := rs1.isLt
  have hrs2 := rs2.isLt
  have haq : aq.toNat ≤ 1 := by cases aq <;> decide
  have hrl : rl.toNat ≤ 1 := by cases rl <;> decide
  refine decode_fields (op := .amoMinuD) (m := 0x2F) (f7 := (24 * 4 + aq.toNat * 2 + rl.toNat)) (b := rs2.toNat) (a := rs1.toNat) (f3 := 3) (d := rd.toNat) (q27 := 24)
    (rfl) (by decide) (by omega) (by omega) (by omega) (by decide) (by omega) (rfl) (rfl) (by omega) (rfl) (rfl) rfl
    (rfl) fun n F => ?_
  have e0 : (r5 (fld n 7 5)) = rd := ofNat_of (F.p7.trans (by omega))
  have e1 : (r5 (fld n 15 5)) = rs1 := ofNat_of (F.p15.trans (by omega))
  have e2 : (r5 (fld n 20 5)) = rs2 := ofNat_of (F.p20.trans (by omega))
  have e3 : (fld n 26 1 == 1) = aq := by rw [F.p26]; cases aq <;> cases rl <;> rfl
  have e4 : (fld n 25 1 == 1) = rl := by rw [F.p25d]; cases aq <;> cases rl <;> rfl
  show Instr.amoMinuD (r5 (fld n 7 5)) (r5 (fld n 15 5)) (r5 (fld n 20 5)) (fld n 26 1 == 1) (fld n 25 1 == 1) = _
  rw [e0, e1, e2, e3, e4]

theorem amoMaxuW (rd : BitVec 5) (rs1 : BitVec 5) (rs2 : BitVec 5) (aq : Bool) (rl : Bool) : Statement (.amoMaxuW rd rs1 rs2 aq rl) := by
  refine of_word rfl fun _ => ?_
  have hrd := rd.isLt
  have hrs1 := rs1.isLt
  have hrs2 := rs2.isLt
  have haq : aq.toNat ≤ 1 := by cases aq <;> decide
  have hrl : rl.toNat ≤ 1 := by cases rl <;> decide
  refine decode_fields (op := .amoMaxuW) (m := 0x2F) (f7 := (28 * 4 + aq.toNat * 2 + rl.toNat)) (b := rs2.toNat) (a := rs1.toNat) (f3 := 2) (d := rd.toNat) (q27 := 28)
    (rfl) (by decide) (by omega) (by omega) (by omega) (by decide) (by omega) (rfl) (rfl) (by omega) (rfl) (rfl) rfl
    (rfl) fun n F => ?_
  have e0 : (r5 (fld n 7 5)) = rd := ofNat_of (F.p7.trans (by omega))
  have e1 : (r5 (fld n 15 5)) = rs1 := ofNat_of (F.p15.trans (by omega))
  have e2 : (r5 (fld n 20 5)) = rs2 := ofNat_of (F.p20.trans (by omega))
  have e3 : (fld n 26 1 == 1) = aq := by rw [F.p26]; cases aq <;> cases rl <;> rfl
  have e4 : (fld n 25 1 == 1) = rl := by rw [F.p25d]; cases aq <;> cases rl <;> rfl
  show Instr.amoMaxuW (r5 (fld n 7 5)) (r5 (fld n 15 5)) (r5 (fld n 20 5)) (fld n 26 1 == 1) (fld n 25 1 == 1) = _
  rw [e0, e1, e2, e3, e4]

theorem amoMaxuD (rd : BitVec 5) (rs1 : BitVec 5) (rs2 : BitVec 5) (aq : Bool) (rl : Bool) : Statement (.amoMaxuD rd rs1 rs2 aq rl) := by
  refine of_word rfl fun _ => ?_
  have hrd := rd.isLt
  have hrs1 := rs1.isLt
  have hrs2 := rs2.isLt
  have haq : aq.toNat ≤ 1 := by cases aq <;> decide
  have hrl : rl.toNat ≤ 1 := by cases rl <;> decide
  refine decode_fields (op := .amoMaxuD) (m := 0x2F) (f7 := (28 * 4 + aq.toNat * 2 + rl.toNat)) (b := rs2.toNat) (a := rs1.toNat) (f3 := 3) (d := rd.toNat) (q27 := 28)
    (rfl) (by decide) (by omega) (by omega) (by omega) (by decide) (by omega) (rfl) (rfl) (by omega) (rfl) (rfl) rfl
    (rfl) fun n F => ?_
  have e0 : (r5 (fld n 7 5)) = rd := ofNat_of (F.p7.trans (by omega))
  have e1 : (r5 (fld n 15 5)) = rs1 := ofNat_of (F.p15.trans (by omega))
  have e2 : (r5 (fld n 20 5)) = rs2 := ofNat_of (F.p20.trans (by omega))
  have e3 : (fld n 26 1 == 1) = aq := by rw [F.p26]; cases aq <;> cases rl <;> rfl
  have e4 : (fld n 25 1 == 1) = rl := by rw [F.p25d]; cases aq <;> cases rl <;> rfl
  show Instr.amoMaxuD (r5 (fld n 7 5)) (r5 (fld n 15 5)) (r5 (fld n 20 5)) (fld n 26 1 == 1) (fld n 25 1 == 1) = _
  rw [e0, e1, e2, e3, e4]

theorem flw (rd : BitVec 5) (rs1 : BitVec 5) (imm : BitVec 12) : Statement (.flw rd rs1 imm) := by
  refine of_word rfl fun _ => ?_
  have hrd := rd.isLt
  have hrs1 := rs1.isLt
  have himm := imm.isLt
  refine decode_fields (op := .flw) (m := 0x07) (f7 := (imm.toNat / 32)) (b := (imm.toNat % 32)) (a := rs1.toNat) (f3 := 2) (d := rd.toNat) (i12 := imm.toNat)
    (encI_fields _ _ _ _ _) (by decide) (by omega) (by omega) (by omega) (by decide) (by omega) (rfl) (rfl) (rfl) (rfl) (by omega) rfl
    (rfl) fun n F => ?_
  have e0 : (r5 (fld n 7 5)) = rd := ofNat_of (F.p7.trans (by omega))
  have e1 : (r5 (fld n 15 5)) = rs1 := ofNat_of (F.p15.trans (by omega))
  have e2 : (BitVec.ofNat 12 (fld n 20 12)) = imm := ofNat_of (F.i12.trans (by omega))
  show Instr.flw (r5 (fld n 7 5)) (r5 (fld n 15 5)) (BitVec.ofNat 12 (fld n 20 12)) = _
  rw [e0, e1, e2]

theorem fsw (rs1 : BitVec 5) (rs2 : BitVec 5) (imm : BitVec 12) : Statement (.fsw rs1 rs2 imm) := by
  refine of_word rfl fun _ => ?_
  have hrs1 := rs1.isLt
  have hrs2 := rs2.isLt
  have himm := imm.isLt
  refine decode_fields (op := .fsw) (m := 0x27) (f7 := (imm.toNat / 32)) (b := rs2.toNat) (a := rs1.toNat) (f3 := 2) (d := (imm.toNat % 32))
    (rfl) (by decide) (by omega) (by omega) (by omega) (by decide) (by omega) (rfl) (rfl) (rfl) (rfl) (rfl) rfl
    (rfl) fun n F => ?_
  have e0 : (r5 (fld n 15 5)) = rs1 := ofNat_of (F.p15.trans (by omega))
  have e1 : (r5 (fld n 20 5)) = rs2 := ofNat_of (F.p20.trans (by omega))
  have e2 : (BitVec.ofNat 12 (fld n 25 7 * 32 + fld n 7 5)) = imm := ofNat_of (by rw [F.p25, F.p7]; omega)
  show Instr.fsw (r5 (fld n 15 5)) (r5 (fld n 20 5)) (BitVec.ofNat 12 (fld n 25 7 * 32 + fld n 7 5)) = _
  rw [e0, e1, e2]

theorem fmaddS (rd : BitVec 5) (rs1 : BitVec 5) (rs2 : BitVec 5) (rs3 : BitVec 5) (rm : Rm) : Statement (.fmaddS rd rs1 rs2 rs3 rm) := by
  refine of_word rfl fun _ => ?_
  have hrd := rd.isLt
  have hrs1 := rs1.isLt
  have hrs2 := rs2.isLt
  have hrs3 := rs3.isLt
  have hrm := rm.code_lt
  refine decode_fields (op := .fmaddS) (m := 0x43) (f7 := (rs3.toNat * 4)) (b := rs2.toNat) (a := rs1.toNat) (f3 := rm.code) (d := rd.toNat) (r25 := 0)
    (rfl) (by decide) (by omega) (by omega) (by omega) (by omega) (by omega) (rfl) (rfl) (rfl) (by omega) (rfl) rfl
    (by cases rm <;> rfl) fun n F => ?_
  have e0 : (r5 (fld n 7 5)) = rd := ofNat_of (F.p7.trans (by omega))
  have e1 : (r5 (fld n 15 5)) = rs1 := ofNat_of (F.p15.trans (by omega))
  have e2 : (r5 (fld n 20 5)) = rs2 := ofNat_of (F.p20.trans (by omega))
  have e3 : (r5 (fld n 27 5)) = rs3 := ofNat_of (F.p27.trans (by omega))
  have e4 : ((Rm.ofCode (fld n 12 3)).getD .dyn) = rm := by rw [F.p12.trans (show _ = rm.code by omega), Rm.ofCode_code]; rfl
  show Instr.fmaddS (r5 (fld n 7 5)) (r5 (fld n 15 5)) (r5 (fld n 20 5)) (r5 (fld n 27 5)) ((Rm.ofCode (fld n 12 3)).getD .dyn) = _
  rw [e0, e1, e2, e3, e4]

theorem fmsubS (rd : BitVec 5) (rs1 : BitVec 5) (rs2 : BitVec 5) (rs3 : BitVec 5) (rm : Rm) : Statement (.fmsubS rd rs1 rs2 rs3 rm) := by
  refine of_word rfl fun _ => ?_
  have hrd := rd.isLt
  have hrs1 := rs1.isLt
  have hrs2 := rs2.isLt
  have hrs3 := rs3.isLt
  have hrm := rm.code_lt
  refine decode_fields (op := .fmsubS) (m := 0x47) (f7 := (rs3.toNat * 4)) (b := rs2.toNat) (a := rs1.toNat) (f3 := rm.code) (d := rd.toNat) (r25 := 0)
    (rfl) (by decide) (by omega) (by omega) (by omega) (by omega) (by omega) (rfl) (rfl) (rfl) (by omega) (rfl) rfl
    (by cases rm <;> rfl) fun n F => ?_
  have e0 : (r5 (fld n 7 5)) = rd := ofNat_of (F.p7.trans (by omega))
  have e1 : (r5 (fld n 15 5)) = rs1 := ofNat_of (F.p15.trans (by omega))
  have e2 : (r5 (fld n 20 5)) = rs2 := ofNat_of (F.p20.trans (by omega))
  have e3 : (r5 (fld n 27 5)) = rs3 := ofNat_of (F.p27.trans (by omega))
  have e4 : ((Rm.ofCode (fld n 12 3)).getD .dyn) = rm := by rw [F.p12.trans (show _ = rm.code by omega), Rm.ofCode_code]; rfl
  show Instr.fmsubS (r5 (fld n 7 5)) (r5 (fld n 15 5)) (r5 (fld n 20 5)) (r5 (fld n 27 5)) ((Rm.ofCode (fld n 12 3)).getD .dyn) = _
  rw [e0, e1, e2, e3, e4]

theorem fnmsubS (rd : BitVec 5) (rs1 : BitVec 5) (rs2 : BitVec 5) (rs3 : BitVec 5) (rm : Rm) : Statement (.fnmsubS rd rs1 rs2 rs3 rm) := by
  refine of_word rfl fun _ => ?_
  have hrd := rd.isLt
  have hrs1 := rs1.isLt
  have hrs2 := rs2.isLt
  have hrs3 := rs3.isLt
  have hrm := rm.code_lt
  refine decode_fields (op := .fnmsubS) (m := 0x4b) (f7 := (rs3.toNat * 4)) (b := rs2.toNat) (a := rs1.toNat) (f3 := rm.code) (d := rd.toNat) (r25 := 0)
    (rfl) (by decide) (by omega) (by omega) (by omega) (by omega) (by omega) (rfl) (rfl) (rfl) (by omega) (rfl) rfl
    (by cases rm <;> rfl) fun n F => ?_
  have e0 : (r5 (fld n 7 5)) = rd := ofNat_of (F.p7.trans (by omega))
  have e1 : (r5 (fld n 15 5)) = rs1 := ofNat_of (F.p15.trans (by omega))
  have e2 : (r5 (fld n 20 5)) = rs2 := ofNat_of (F.p20.trans (by omega))
  have e3 : (r5 (fld n 27 5)) = rs3 := ofNat_of (F.p27.trans (by omega))
  have e4 : ((Rm.ofCode (fld n 12 3)).getD .dyn) = rm := by rw [F.p12.trans (show _ = rm.code by omega), Rm.ofCode_code]; rfl
  show Instr.fnmsubS (r5 (fld n 7 5)) (r5 (fld n 15 5)) (r5 (fld n 20 5)) (r5 (fld n 27 5)) ((Rm.ofCode (fld n 12 3)).getD .dyn) = _
  rw [e0, e1, e2, e3, e4]

theorem fnmaddS (rd : BitVec 5) (rs1 : BitVec 5) (rs2 : BitVec 5) (rs3 : BitVec 5) (rm : Rm) : Statement (.fnmaddS rd rs1 rs2 rs3 rm) := by
  refine of_word rfl fun _ => ?_
  have hrd := rd.isLt
  have hrs1 := rs1.isLt
  have hrs2 := rs2.isLt
  have hrs3 := rs3.isLt
  have hrm := rm.code_lt
  refine decode_fields (op := .fnmaddS) (m := 0x4f) (f7 := (rs3.toNat * 4)) (b := rs2.toNat) (a := rs1.toNat) (f3 := rm.code) (d := rd.toNat) (r25 := 0)
    (rfl) (by decide) (by omega) (by omega) (by omega) (by omega) (by omega) (rfl) (rfl) (rfl) (by omega) (rfl) rfl
    (by cases rm <;> rfl) fun n F => ?_
  have e0 : (r5 (fld n 7 5)) = rd := ofNat_of (F.p7.trans (by omega))
  have e1 : (r5 (fld n 15 5)) = rs1 := ofNat_of (F.p15.trans (by omega))
  have e2 : (r5 (fld n 20 5)) = rs2 := ofNat_of (F.p20.trans (by omega))
  have e3 : (r5 (fld n 27 5)) = rs3 := ofNat_of (F.p27.trans (by omega))
  have e4 : ((Rm.ofCode (fld n 12 3)).getD .dyn) = rm := by rw [F.p12.trans (show _ = rm.code by omega), Rm.ofCode_code]; rfl
  show Instr.fnmaddS (r5 (fld n 7 5)) (r5 (fld n 15 5)) (r5 (fld n 20 5)) (r5 (fld n 27 5)) ((Rm.ofCode (fld n 12 3)).getD .dyn) = _
  rw [e0, e1, e2, e3, e4]

theorem faddS (rd : BitVec 5) (rs1 : BitVec 5) (rs2 : BitVec 5) (rm : Rm) : Statement (.faddS rd rs1 rs2 rm) := by
  refine of_word rfl fun _ => ?_
  have hrd := rd.isLt
  have hrs1 := rs1.isLt
  have hrs2 := rs2.isLt
  have hrm := rm.code_lt
  refine decode_fields (op := .faddS) (m := 0x53) (f7 := 0) (b := rs2.toNat) (a := rs1.toNat) (f3 := rm.code) (d := rd.toNat)
    (rfl) (by decide) (by decide) (by omega) (by omega) (by omega) (by omega) (rfl) (rfl) (rfl) (rfl) (rfl) rfl
    (by cases rm <;> rfl) fun n F => ?_
  have e0 : (r5 (fld n 7 5)) = rd := ofNat_of (F.p7.trans (by omega))
  have e1 : (r5 (fld n 15 5)) = rs1 := ofNat_of (F.p15.trans (by omega))
  have e2 : (r5 (fld n 20 5)) = rs2 := ofNat_of (F.p20.trans (by omega))
  have e3 : ((Rm.ofCode (fld n 12 3)).getD .dyn) = rm := by rw [F.p12.trans (show _ = rm.code by omega), Rm.ofCode_code]; rfl
  show Instr.faddS (r5 (fld n 7 5)) (r5 (fld n 15 5)) (r5 (fld n 20 5)) ((Rm.ofCode (fld n 12 3)).getD .dyn) = _
  rw [e0, e1, e2, e3]

theorem fsubS (rd : BitVec 5) (rs1 : BitVec 5) (rs2 : BitVec 5) (rm : Rm) : Statement (.fsubS rd rs1 rs2 rm) := by
  refine of_word rfl fun _ => ?_
  have hrd := rd.isLt
  have hrs1 := rs1.isLt
  have hrs2 := rs2.isLt
  have hrm := rm.code_lt
  refine decode_fields (op := .fsubS) (m := 0x53) (f7 := 4) (b := rs2.toNat) (a := rs1.toNat) (f3 := rm.code) (d := rd.toNat)
    (rfl) (by decide) (by decide) (by omega) (by omega) (by omega) (by omega) (rfl) (rfl) (rfl) (rfl) (rfl) rfl
    (by cases rm <;> rfl) fun n F => ?_
  have e0 : (r5 (fld n 7 5)) = rd := ofNat_of (F.p7.trans (by omega))
  have e1 : (r5 (fld n 15 5)) = rs1 := ofNat_of (F.p15.trans (by omega))
  have e2 : (r5 (fld n 20 5)) = rs2 := ofNat_of (F.p20.trans (by omega))
  have e3 : ((Rm.ofCode (fld n 12 3)).getD .dyn) = rm := by rw [F.p12.trans (show _ = rm.code by omega), Rm.ofCode_code]; rfl
  show Instr.fsubS (r5 (fld n 7 5)) (r5 (fld n 15 5)) (r5 (fld n 20 5)) ((Rm.ofCode (fld n 12 3)).getD .dyn) = _
  rw [e0, e1, e2, e3]

theorem fmulS (rd : BitVec 5) (rs1 : BitVec 5) (rs2 : BitVec 5) (rm : Rm) : Statement (.fmulS rd rs1 rs2 rm) := by
  refine of_word rfl fun _ => ?_
  have hrd := rd.isLt
  have hrs1 := rs1.isLt
  have hrs2 := rs2.isLt
  have hrm := rm.code_lt
  refine decode_fields (op := .fmulS) (m := 0x53) (f7 := 8) (b := rs2.toNat) (a := rs1.toNat) (f3 := rm.code) (d := rd.toNat)
    (rfl) (by decide) (by decide) (by omega) (by omega) (by omega) (by omega) (rfl) (rfl) (rfl) (rfl) (rfl) rfl
    (by cases rm <;> rfl) fun n F => ?_
  have e0 : (r5 (fld n 7 5)) = rd := ofNat_of (F.p7.trans (by omega))
  have e1 : (r5 (fld n 15 5)) = rs1 := ofNat_of (F.p15.trans (by omega))
  have e2 : (r5 (fld n 20 5)) = rs2 := ofNat_of (F.p20.trans (by omega))
  have e3 : ((Rm.ofCode (fld n 12 3)).getD .dyn) = rm := by rw [F.p12.trans (show _ = rm.code by omega), Rm.ofCode_code]; rfl
  show Instr.fmulS (r5 (fld n 7 5)) (r5 (fld n 15 5)) (r5 (fld n 20 5)) ((Rm.ofCode (fld n 12 3)).getD .dyn) = _
  rw [e0, e1, e2, e3]

theorem fdivS (rd : BitVec 5) (rs1 : BitVec 5) (rs2 : BitVec 5) (rm : Rm) : Statement (.fdivS rd rs1 rs2 rm) := by
  refine of_word rfl fun _ => ?_
  have hrd := rd.isLt
  have hrs1 := rs1.isLt
  have hrs2 := rs2.isLt
  have hrm := rm.code_lt
  refine decode_fields (op := .fdivS) (m := 0x53) (f7 := 12) (b := rs2.toNat) (a := rs1.toNat) (f3 := rm.code) (d := rd.toNat)
    (rfl) (by decide) (by decide) (by omega) (by omega) (by omega) (by omega) (rfl) (rfl) (rfl) (rfl) (rfl) rfl
    (by cases rm <;> rfl) fun n F => ?_
  have e0 : (r5 (fld n 7 5)) = rd := ofNat_of (F.p7.trans (by omega))
  have e1 : (r5 (fld n 15 5)) = rs1 := ofNat_of (F.p15.trans (by omega))
  have e2 : (r5 (fld n 20 5)) = rs2 := ofNat_of (F.p20.trans (by omega))
  have e3 : ((Rm.ofCode (fld n 12 3)).getD .dyn) = rm := by rw [F.p12.trans (show _ = rm.code by omega), Rm.ofCode_code]; rfl
  show Instr.fdivS (r5 (fld n 7 5)) (r5 (fld n 15 5)) (r5 (fld n 20 5)) ((Rm.ofCode (fld n 12 3)).getD .dyn) = _
  rw [e0, e1, e2, e3]

theorem fsqrtS (rd : BitVec 5) (rs1 : BitVec 5) (rm : Rm) : Statement (.fsqrtS rd rs1 rm) := by
  refine of_word rfl fun _ => ?_
  have hrd := rd.isLt
  have hrs1 := rs1.isLt
  have hrm := rm.code_lt
  refine decode_fields (op := .fsqrtS) (m := 0x53) (f7 := 0x2C) (b := 0) (a := rs1.toNat) (f3 := rm.code) (d := rd.toNat)
    (rfl) (by decide) (by decide) (by decide) (by omega) (by omega) (by omega) (rfl) (rfl) (rfl) (rfl) (rfl) rfl
    (by cases rm <;> rfl) fun n F => ?_
  have e0 : (r5 (fld n 7 5)) = rd := ofNat_of (F.p7.trans (by omega))
  have e1 : (r5 (fld n 15 5)) = rs1 := ofNat_of (F.p15.trans (by omega))
  have e2 : ((Rm.ofCode (fld n 12 3)).getD .dyn) = rm := by rw [F.p12.trans (show _ = rm.code by omega), Rm.ofCode_code]; rfl
  show Instr.fsqrtS (r5 (fld n 7 5)) (r5 (fld n 15 5)) ((Rm.ofCode (fld n 12 3)).getD .dyn) = _
  rw [e0, e1, e2]

theorem fsgnjS (rd : BitVec 5) (rs1 : BitVec 5) (rs2 : BitVec 5) : Statement (.fsgnjS rd rs1 rs2) := by
  refine of_word rfl fun _ => ?_
  have hrd := rd.isLt
  have hrs1 := rs1.isLt
  have hrs2 := rs2.isLt
  refine decode_fields (op := .fsgnjS) (m := 0x53) (f7 := 0x10) (b := rs2.toNat) (a := rs1.toNat) (f3 := 0) (d := rd.toNat)
    (rfl) (by decide) (by decide) (by omega) (by omega) (by decide) (by omega) (rfl) (rfl) (rfl) (rfl) (rfl) rfl
    (rfl) fun n F => ?_
  have e0 : (r5 (fld n 7 5)) = rd := ofNat_of (F.p7.trans (by omega))
  have e1 : (r5 (fld n 15 5)) = rs1 := ofNat_of (F.p15.trans (by omega))
  have e2 : (r5 (fld n 20 5)) = rs2 := ofNat_of (F.p20.trans (by omega))
  show Instr.fsgnjS (r5 (fld n 7 5)) (r5 (fld n 15 5)) (r5 (fld n 20 5)) = _
  rw [e0, e1, e2]

theorem fsgnjnS (rd : BitVec 5) (rs1 : BitVec 5) (rs2 : BitVec 5) : Statement (.fsgnjnS rd rs1 rs2) := by
  refine of_word rfl fun _ => ?_
  have hrd := rd.isLt
  have hrs1 := rs1.isLt
  have hrs2 := rs2.isLt
  refine decode_fields (op := .fsgnjnS) (m := 0x53) (f7 := 0x10) (b := rs2.toNat) (a := rs1.toNat) (f3 := 1) (d := rd.toNat)
    (rfl) (by decide) (by decide) (by omega) (by omega) (by decide) (by omega) (rfl) (rfl) (rfl) (rfl) (rfl) rfl
    (rfl) fun n F => ?_
  have e0 : (r5 (fld n 7 5)) = rd := ofNat_of (F.p7.trans (by omega))
  have e1 : (r5 (fld n 15 5)) = rs1 := ofNat_of (F.p15.trans (by omega))
  have e2 : (r5 (fld n 20 5)) = rs2 := ofNat_of (F.p20.trans (by omega))
  show Instr.fsgnjnS (r5 (fld n 7 5)) (r5 (fld n 15 5)) (r5 (fld n 20 5)) = _
  rw [e0, e1, e2]

theorem fsgnjxS (rd : BitVec 5) (rs1 : BitVec 5) (rs2 : BitVec 5) : Statement (.fsgnjxS rd rs1 rs2) := by
  refine of_word rfl fun _ => ?_
  have hrd := rd.isLt
  have hrs1 := rs1.isLt
  have hrs2 := rs2.isLt
  refine decode_fields (op := .fsgnjxS) (m := 0x53) (f7 := 0x10) (b := rs2.toNat) (a := rs1.toNat) (f3 := 2) (d := rd.toNat)
    (rfl) (by decide) (by decide) (by omega) (by omega) (by decide) (by omega) (rfl) (rfl) (rfl) (rfl) (rfl) rfl
    (rfl) fun n F => ?_
  have e0 : (r5 (fld n 7 5)) = rd := ofNat_of (F.p7.trans (by omega))
  have e1 : (r5 (fld n 15 5)) = rs1 := ofNat_of (F.p15.trans (by omega))
  have e2 : (r5 (fld n 20 5)) = rs2 := ofNat_of (F.p20.trans (by omega))
  show Instr.fsgnjxS (r5 (fld n 7 5)) (r5 (fld n 15 5)) (r5 (fld n 20 5)) = _
  rw [e0, e1, e2]

theorem fminS (rd : BitVec 5) (rs1 : BitVec 5) (rs2 : BitVec 5) : Statement (.fminS rd rs1 rs2) := by
  refine of_word rfl fun _ => ?_
  have hrd := rd.isLt
  have hrs1 := rs1.isLt
  have hrs2 := rs2.isLt
  refine decode_fields (op := .fminS) (m := 0x53) (f7 := 0x14) (b := rs2.toNat) (a := rs1.toNat) (f3 := 0) (d := rd.toNat)
    (rfl) (by decide) (by decide) (by omega) (by omega) (by decide) (by omega) (rfl) (rfl) (rfl) (rfl) (rfl) rfl
    (rfl) fun n F => ?_
  have e0 : (r5 (fld n 7 5)) = rd := ofNat_of (F.p7.trans (by omega))
  have e1 : (r5 (fld n 15 5)) = rs1 := ofNat_of (F.p15.trans (by omega))
  have e2 : (r5 (fld n 20 5)) = rs2 := ofNat_of (F.p20.trans (by omega))
  show Instr.fminS (r5 (fld n 7 5)) (r5 (fld n 15 5)) (r5 (fld n 20 5)) = _
  rw [e0, e1, e2]

theorem fmaxS (rd : BitVec 5) (rs1 : BitVec 5) (rs2 : BitVec 5) : Statement (.fmaxS rd rs1 rs2) := by
  refine of_word rfl fun _ => ?_
  have hrd := rd.isLt
  have hrs1 := rs1.isLt
  have hrs2 := rs2.isLt
  refine decode_fields (op := .fmaxS) (m := 0x53) (f7 := 0x14) (b := rs2.toNat) (a := rs1.toNat) (f3 := 1) (d := rd.toNat)
    (rfl) (by decide) (by decide) (by omega) (by omega) (by decide) (by omega) (rfl) (rfl) (rfl) (rfl) (rfl) rfl
    (rfl) fun n F => ?_
  have e0 : (r5 (fld n 7 5)) = rd := ofNat_of (F.p7.trans (by omega))
  have e1 : (r5 (fld n 15 5)) = rs1 := ofNat_of (F.p15.trans (by omega))
  have e2 : (r5 (fld n 20 5)) = rs2 := ofNat_of (F.p20.trans (by omega))
  show Instr.fmaxS (r5 (fld n 7 5)) (r5 (fld n 15 5)) (r5 (fld n 20 5)) = _
  rw [e0, e1, e2]

theorem fcvtWS (rd : BitVec 5) (rs1 : BitVec 5) (rm : Rm) : Statement (.fcvtWS rd rs1 rm) := by
  refine of_word rfl fun _ => ?_
  have hrd := rd.isLt
  have hrs1 := rs1.isLt
  have hrm := rm.code_lt
  refine decode_fields (op := .fcvtWS) (m := 0x53) (f7 := 0x60) (b := 0) (a := rs1.toNat) (f3 := rm.code) (d := rd.toNat)
    (rfl) (by decide) (by decide) (by decide) (by omega) (by omega) (by omega) (rfl) (rfl) (rfl) (rfl) (rfl) rfl
    (by cases rm <;> rfl) fun n F => ?_
  have e0 : (r5 (fld n 7 5)) = rd := ofNat_of (F.p7.trans (by omega))
  have e1 : (r5 (fld n 15 5)) = rs1 := ofNat_of (F.p15.trans (by omega))
  have e2 : ((Rm.ofCode (fld n 12 3)).getD .dyn) = rm := by rw [F.p12.trans (show _ = rm.code by omega), Rm.ofCode_code]; rfl
  show Instr.fcvtWS (r5 (fld n 7 5)) (r5 (fld n 15 5)) ((Rm.ofCode (fld n 12 3)).getD .dyn) = _
  rw [e0, e1, e2]

theorem fcvtWuS (rd : BitVec 5) (rs1 : BitVec 5) (rm : Rm) : Statement (.fcvtWuS rd rs1 rm) := by
  refine of_word rfl fun _ => ?_
  have hrd := rd.isLt
  have hrs1 := rs1.isLt
  have hrm := rm.code_lt
  refine decode_fields (op := .fcvtWuS) (m := 0x53) (f7 := 0x60) (b := 1) (a := rs1.toNat) (f3 := rm.code) (d := rd.toNat)
    (rfl) (by decide) (by decide) (by decide) (by omega) (by omega) (by omega) (rfl) (rfl) (rfl) (rfl) (rfl) rfl
    (by cases rm <;> rfl) fun n F => ?_
  have e0 : (r5 (fld n 7 5)) = rd := ofNat_of (F.p7.trans (by omega))
  have e1 : (r5 (fld n 15 5)) = rs1 := ofNat_of (F.p15.trans (by omega))
  have e2 : ((Rm.ofCode (fld n 12 3)).getD .dyn) = rm := by rw [F.p12.trans (show _ = rm.code by omega), Rm.ofCode_code]; rfl
  show Instr.fcvtWuS (r5 (fld n 7 5)) (r5 (fld n 15 5)) ((Rm.ofCode (fld n 12 3)).getD .dyn) = _
  rw [e0, e1, e2]

theorem fcvtLS (rd : BitVec 5) (rs1 : BitVec 5) (rm : Rm) : Statement (.fcvtLS rd rs1 rm) := by
  refine of_word rfl fun _ => ?_
  have hrd := rd.isLt
  have hrs1 := rs1.isLt
  have hrm := rm.code_lt
  refine decode_fields (op := .fcvtLS) (m := 0x53) (f7 := 0x60) (b := 2) (a := rs1.toNat) (f3 := rm.code) (d := rd.toNat)
    (rfl) (by decide) (by decide) (by decide) (by omega) (by omega) (by omega) (rfl) (rfl) (rfl) (rfl) (rfl) rfl
    (by cases rm <;> rfl) fun n F => ?_
  have e0 : (r5 (fld n 7 5)) = rd := ofNat_of (F.p7.trans (by omega))
  have e1 : (r5 (fld n 15 5)) = rs1 := ofNat_of (F.p15.trans (by omega))
  have e2 : ((Rm.ofCode (fld n 12 3)).getD .dyn) = rm := by rw [F.p12.trans (show _ = rm.code by omega), Rm.ofCode_code]; rfl
  show Instr.fcvtLS (r5 (fld n 7 5)) (r5 (fld n 15 5)) ((Rm.ofCode (fld n 12 3)).getD .dyn) = _
  rw [e0, e1, e2]

theorem fcvtLuS (rd : BitVec 5) (rs1 : BitVec 5) (rm : Rm) : Statement (.fcvtLuS rd rs1 rm) := by
  refine of_word rfl fun _ => ?_
  have hrd := rd.isLt
  have hrs1 := rs1.isLt
  have hrm := rm.code_lt
  refine decode_fields (op := .fcvtLuS) (m := 0x53) (f7 := 0x60) (b := 3) (a := rs1.toNat) (f3 := rm.code) (d := rd.toNat)
    (rfl) (by decide) (by decide) (by decide) (by omega) (by omega) (by omega) (rfl) (rfl) (rfl) (rfl) (rfl) rfl
    (by cases rm <;> rfl) fun n F => ?_
  have e0 : (r5 (fld n 7 5)) = rd := ofNat_of (F.p7.trans (by omega))
  have e1 : (r5 (fld n 15 5)) = rs1 := ofNat_of (F.p15.trans (by omega))
  have e2 : ((Rm.ofCode (fld n 12 3)).getD .dyn) = rm := by rw [F.p12.trans (show _ = rm.code by omega), Rm.ofCode_code]; rfl
  show Instr.fcvtLuS (r5 (fld n 7 5)) (r5 (fld n 15 5)) ((Rm.ofCode (fld n 12 3)).getD .dyn) = _
  rw [e0, e1, e2]

theorem fcvtSW (rd : BitVec 5) (rs1 : BitVec 5) (rm : Rm) : Statement (.fcvtSW rd rs1 rm) := by
  refine of_word rfl fun _ => ?_
  have hrd := rd.isLt
  have hrs1 := rs1.isLt
  have hrm := rm.code_lt
  refine decode_fields (op := .fcvtSW) (m := 0x53) (f7 := 0x68) (b := 0) (a := rs1.toNat) (f3 := rm.code) (d := rd.toNat)
    (rfl) (by decide) (by decide) (by decide) (by omega) (by omega) (by omega) (rfl) (rfl) (rfl) (rfl) (rfl) rfl
    (by cases rm <;> rfl) fun n F => ?_
  have e0 : (r5 (fld n 7 5)) = rd := ofNat_of (F.p7.trans (by omega))
  have e1 : (r5 (fld n 15 5)) = rs1 := ofNat_of (F.p15.trans (by omega))
  have e2 : ((Rm.ofCode (fld n 12 3)).getD .dyn) = rm := by rw [F.p12.trans (show _ = rm.code by omega), Rm.ofCode_code]; rfl
  show Instr.fcvtSW (r5 (fld n 7 5)) (r5 (fld n 15 5)) ((Rm.ofCode (fld n 12 3)).getD .dyn) = _
  rw [e0, e1, e2]

theorem fcvtSWu (rd : BitVec 5) (rs1 : BitVec 5) (rm : Rm) : Statement (.fcvtSWu rd rs1 rm) := by
  refine of_word rfl fun _ => ?_
  have hrd := rd.isLt
  have hrs1 := rs1.isLt
  have hrm := rm.code_lt
  refine decode_fields (op := .fcvtSWu) (m := 0x53) (f7 := 0x68) (b := 1) (a := rs1.toNat) (f3 := rm.code) (d := rd.toNat)
    (rfl) (by decide) (by decide) (by decide) (by omega) (by omega) (by omega) (rfl) (rfl) (rfl) (rfl) (rfl) rfl
    (by cases rm <;> rfl) fun n F => ?_
  have e0 : (r5 (fld n 7 5)) = rd := ofNat_of (F.p7.trans (by omega))
  have e1 : (r5 (fld n 15 5)) = rs1 := ofNat_of (F.p15.trans (by omega))
  have e2 : ((Rm.ofCode (fld n 12 3)).getD .dyn) = rm := by rw [F.p12.trans (show _ = rm.code by omega), Rm.ofCode_code]; rfl
  show Instr.fcvtSWu (r5 (fld n 7 5)) (r5 (fld n 15 5)) ((Rm.ofCode (fld n 12 3)).getD .dyn) = _
  rw [e0, e1, e2]

theorem fcvtSL (rd : BitVec 5) (rs1 : BitVec 5) (rm : Rm) : Statement (.fcvtSL rd rs1 rm) := by
  refine of_word rfl fun _ => ?_
  have hrd := rd.isLt
  have hrs1 := rs1.isLt
  have hrm := rm.code_lt
  refine decode_fields (op := .fcvtSL) (m := 0x53) (f7 := 0x68) (b := 2) (a := rs1.toNat) (f3 := rm.code) (d := rd.toNat)
    (rfl) (by decide) (by decide) (by decide) (by omega) (by omega) (by omega) (rfl) (rfl) (rfl) (rfl) (rfl) rfl
    (by cases rm <;> rfl) fun n F => ?_
  have e0 : (r5 (fld n 7 5)) = rd := ofNat_of (F.p7.trans (by omega))
  have e1 : (r5 (fld n 15 5)) = rs1 := ofNat_of (F.p15.trans (by omega))
  have e2 : ((Rm.ofCode (fld n 12 3)).getD .dyn) = rm := by rw [F.p12.trans (show _ = rm.code by omega), Rm.ofCode_code]; rfl
  show Instr.fcvtSL (r5 (fld n 7 5)) (r5 (fld n 15 5)) ((Rm.ofCode (fld n 12 3)).getD .dyn) = _
  rw [e0, e1, e2]

theorem fcvtSLu (rd : BitVec 5) (rs1 : BitVec 5) (rm : Rm) : Statement (.fcvtSLu rd rs1 rm) := by
  refine of_word rfl fun _ => ?_
  have hrd := rd.isLt
  have hrs1 := rs1.isLt
  have hrm := rm.code_lt
  refine decode_fields (op := .fcvtSLu) (m := 0x53) (f7 := 0x68) (b := 3) (a := rs1.toNat) (f3 := rm.code) (d := rd.toNat)
    (rfl) (by decide) (by decide) (by decide) (by omega) (by omega) (by omega) (rfl) (rfl) (rfl) (rfl) (rfl) rfl
    (by cases rm <;> rfl) fun n F => ?_
  have e0 : (r5 (fld n 7 5)) = rd := ofNat_of (F.p7.trans (by omega))
  have e1 : (r5 (fld n 15 5)) = rs1 := ofNat_of (F.p15.trans (by omega))
  have e2 : ((Rm.ofCode (fld n 12 3)).getD .dyn) = rm := by rw [F.p12.trans (show _ = rm.code by omega), Rm.ofCode_code]; rfl
  show Instr.fcvtSLu (r5 (fld n 7 5)) (r5 (fld n 15 5)) ((Rm.ofCode (fld n 12 3)).getD .dyn) = _
  rw [e0, e1, e2]

theorem fmvXW (rd : BitVec 5) (rs1 : BitVec 5) : Statement (.fmvXW rd rs1) := by
  refine of_word rfl fun _ => ?_
  have hrd := rd.isLt
  have hrs1 := rs1.isLt
  refine decode_fields (op := .fmvXW) (m := 0x53) (f7 := 0x70) (b := 0) (a := rs1.toNat) (f3 := 0) (d := rd.toNat)
    (rfl) (by decide) (by decide) (by decide) (by omega) (by decide) (by omega) (rfl) (rfl) (rfl) (rfl) (rfl) rfl
    (rfl) fun n F => ?_
  have e0 : (r5 (fld n 7 5)) = rd := ofNat_of (F.p7.trans (by omega))
  have e1 : (r5 (fld n 15 5)) = rs1 := ofNat_of (F.p15.trans (by omega))
  show Instr.fmvXW (r5 (fld n 7 5)) (r5 (fld n 15 5)) = _
  rw [e0, e1]

theorem fmvWX (rd : BitVec 5) (rs1 : BitVec 5) : Statement (.fmvWX rd rs1) := by
  refine of_word rfl fun _ => ?_
  have hrd := rd.isLt
  have hrs1 := rs1.isLt
  refine decode_fields (op := .fmvWX) (m := 0x53) (f7 := 0x78) (b := 0) (a := rs1.toNat) (f3 := 0) (d := rd.toNat)
    (rfl) (by decide) (by decide) (by decide) (by omega) (by decide) (by omega) (rfl) (rfl) (rfl) (rfl) (rfl) rfl
    (rfl) fun n F => ?_
  have e0 : (r5 (fld n 7 5)) = rd := ofNat_of (F.p7.trans (by omega))
  have e1 : (r5 (fld n 15 5)) = rs1 := ofNat_of (F.p15.trans (by omega))
  show Instr.fmvWX (r5 (fld n 7 5)) (r5 (fld n 15 5)) = _
  rw [e0, e1]

theorem feqS (rd : BitVec 5) (rs1 : BitVec 5) (rs2 : BitVec 5) : Statement (.feqS rd rs1 rs2) := by
  refine of_word rfl fun _ => ?_
  have hrd := rd.isLt
  have hrs1 := rs1.isLt
  have hrs2 := rs2.isLt
  refine decode_fields (op := .feqS) (m := 0x53) (f7 := 0x50) (b := rs2.toNat) (a := rs1.toNat) (f3 := 2) (d := rd.toNat)
    (rfl) (by decide) (by decide) (by omega) (by omega) (by decide) (by omega) (rfl) (rfl) (rfl) (rfl) (rfl) rfl
    (rfl) fun n F => ?_
  have e0 : (r5 (fld n 7 5)) = rd := ofNat_of (F.p7.trans (by omega))
  have e1 : (r5 (fld n 15 5)) = rs1 := ofNat_of (F.p15.trans (by omega))
  have e2 : (r5 (fld n 20 5)) = rs2 := ofNat_of (F.p20.trans (by omega))
  show Instr.feqS (r5 (fld n 7 5)) (r5 (fld n 15 5)) (r5 (fld n 20 5)) = _
  rw [e0, e1, e2]

theorem fltS (rd : BitVec 5) (rs1 : BitVec 5) (rs2 : BitVec 5) : Statement (.fltS rd rs1 rs2) := by
  refine of_word rfl fun _ => ?_
  have hrd := rd.isLt
  have hrs1 := rs1.isLt
  have hrs2 := rs2.isLt
  refine decode_fields (op := .fltS) (m := 0x53) (f7 := 0x50) (b := rs2.toNat) (a := rs1.toNat) (f3 := 1) (d := rd.toNat)
    (rfl) (by decide) (by decide) (by omega) (by omega) (by decide) (by omega) (rfl) (rfl) (rfl) (rfl) (rfl) rfl
    (rfl) fun n F => ?_
  have e0 : (r5 (fld n 7 5)) = rd := ofNat_of (F.p7.trans (by omega))
  have e1 : (r5 (fld n 15 5)) = rs1 := ofNat_of (F.p15.trans (by omega))
  have e2 : (r5 (fld n 20 5)) = rs2 := ofNat_of (F.p20.trans (by omega))
  show Instr.fltS (r5 (fld n 7 5)) (r5 (fld n 15 5)) (r5 (fld n 20 5)) = _
  rw [e0, e1, e2]

theorem fleS (rd : BitVec 5) (rs1 : BitVec 5) (rs2 : BitVec 5) : Statement (.fleS rd rs1 rs2) := by
  refine of_word rfl fun _ => ?_
  have hrd := rd.isLt
  have hrs1 := rs1.isLt
  have hrs2 := rs2.isLt
  refine decode_fields (op := .fleS) (m := 0x53) (f7 := 0x50) (b := rs2.toNat) (a := rs1.toNat) (f3 := 0) (d := rd.toNat)
    (rfl) (by decide) (by decide) (by omega) (by omega) (by decide) (by omega) (rfl) (rfl) (rfl) (rfl) (rfl) rfl
    (rfl) fun n F => ?_
  have e0 : (r5 (fld n 7 5)) = rd := ofNat_of (F.p7.trans (by omega))
  have e1 : (r5 (fld n 15 5)) = rs1 := ofNat_of (F.p15.trans (by omega))
  have e2 : (r5 (fld n 20 5)) = rs2 := ofNat_of (F.p20.trans (by omega))
  show Instr.fleS (r5 (fld n 7 5)) (r5 (fld n 15 5)) (r5 (fld n 20 5)) = _
  rw [e0, e1, e2]

theorem fclassS (rd : BitVec 5) (rs1 : BitVec 5) : Statement (.fclassS rd rs1) := by
  refine of_word rfl fun _ => ?_
  have hrd := rd.isLt
  have hrs1 := rs1.isLt
  refine decode_fields (op := .fclassS) (m := 0x53) (f7 := 0x70) (b := 0) (a := rs1.toNat) (f3 := 1) (d := rd.toNat)
    (rfl) (by decide) (by decide) (by decide) (by omega) (by decide) (by omega) (rfl) (rfl) (rfl) (rfl) (rfl) rfl
    (rfl) fun n F => ?_
  have e0 : (r5 (fld n 7 5)) = rd := ofNat_of (F.p7.trans (by omega))
  have e1 : (r5 (fld n 15 5)) = rs1 := ofNat_of (F.p15.trans (by omega))
  show Instr.fclassS (r5 (fld n 7 5)) (r5 (fld n 15 5)) = _
  rw [e0, e1]

theorem csrrw (rd : BitVec 5) (rs1 : BitVec 5) (csr : BitVec 12) : Statement (.csrrw rd rs1 csr) := by
  refine of_word rfl fun hwf => ?_
  have hrd := rd.isLt
  have hrs1 := rs1.isLt
  have hcsr := csr.isLt
  refine decode_fields (op := .csrrw) (m := 0x73) (f7 := (csr.toNat / 32)) (b := (csr.toNat % 32)) (a := rs1.toNat) (f3 := 1) (d := rd.toNat) (i12 := csr.toNat)
    (encI_fields _ _ _ _ _) (by decide) (by omega) (by omega) (by omega) (by decide) (by omega) (rfl) (rfl) (rfl) (rfl) (by omega) rfl
    (by unfold majorF decSystem; rw [show csrOk csr.toNat true = true from hwf]; rfl) fun n F => ?_
  have e0 : (r5 (fld n 7 5)) = rd := ofNat_of (F.p7.trans (by omega))
  have e1 : (r5 (fld n 15 5)) = rs1 := ofNat_of (F.p15.trans (by omega))
  have e2 : (BitVec.ofNat 12 (fld n 20 12)) = csr := ofNat_of (F.i12.trans (by omega))
  show Instr.csrrw (r5 (fld n 7 5)) (r5 (fld n 15 5)) (BitVec.ofNat 12 (fld n 20 12)) = _
  rw [e0, e1, e2]

theorem csrrs (rd : BitVec 5) (rs1 : BitVec 5) (csr : BitVec 12) : Statement (.csrrs rd rs1 csr) := by
  refine of_word rfl fun hwf => ?_
  have hrd := rd.isLt
  have hrs1 := rs1.isLt
  have hcsr := csr.isLt
  refine decode_fields (op := .csrrs) (m := 0x73) (f7 := (csr.toNat / 32)) (b := (csr.toNat % 32)) (a := rs1.toNat) (f3 := 2) (d := rd.toNat) (i12 := csr.toNat)
    (encI_fields _ _ _ _ _) (by decide) (by omega) (by omega) (by omega) (by decide) (by omega) (rfl) (rfl) (rfl) (rfl) (by omega) rfl
    (by unfold majorF decSystem; rw [show csrOk csr.toNat (rs1.toNat != 0) = true by rw [toNat_ne]; exact hwf]; rfl) fun n F => ?_
  have e0 : (r5 (fld n 7 5)) = rd := ofNat_of (F.p7.trans (by omega))
  have e1 : (r5 (fld n 15 5)) = rs1 := ofNat_of (F.p15.trans (by omega))
  have e2 : (BitVec.ofNat 12 (fld n 20 12)) = csr := ofNat_of (F.i12.trans (by omega))
  show Instr.csrrs (r5 (fld n 7 5)) (r5 (fld n 15 5)) (BitVec.ofNat 12 (fld n 20 12)) = _
  rw [e0, e1, e2]

theorem csrrc (rd : BitVec 5) (rs1 : BitVec 5) (csr : BitVec 12) : Statement (.csrrc rd rs1 csr) := by
  refine of_word rfl fun hwf => ?_
  have hrd := rd.isLt
  have hrs1 := rs1.isLt
  have hcsr := csr.isLt
  refine decode_fields (op := .csrrc) (m := 0x73) (f7 := (csr.toNat / 32)) (b := (csr.toNat % 32)) (a := rs1.toNat) (f3 := 3) (d := rd.toNat) (i12 := csr.toNat)
    (encI_fields _ _ _ _ _) (by decide) (by omega) (by omega) (by omega) (by decide) (by omega) (rfl) (rfl) (rfl) (rfl) (by omega) rfl
    (by unfold majorF decSystem; rw [show csrOk csr.toNat (rs1.toNat != 0) = true by rw [toNat_ne]; exact hwf]; rfl) fun n F => ?_
  have e0 : (r5 (fld n 7 5)) = rd := ofNat_of (F.p7.trans (by omega))
  have e1 : (r5 (fld n 15 5)) = rs1 := ofNat_of (F.p15.trans (by omega))
  have e2 : (BitVec.ofNat 12 (fld n 20 12)) = csr := ofNat_of (F.i12.trans (by omega))
  show Instr.csrrc (r5 (fld n 7 5)) (r5 (fld n 15 5)) (BitVec.ofNat 12 (fld n 20 12)) = _
  rw [e0, e1, e2]

theorem csrrwi (rd : BitVec 5) (uimm : BitVec 5) (csr : BitVec 12) : Statement (.csrrwi rd uimm csr) := by
  refine of_word rfl fun hwf => ?_
  have hrd := rd.isLt
  have huimm := uimm.isLt
  have hcsr := csr.isLt
  refine decode_fields (op := .csrrwi) (m := 0x73) (f7 := (csr.toNat / 32)) (b := (csr.toNat % 32)) (a := uimm.toNat) (f3 := 5) (d := rd.toNat) (i12 := csr.toNat)
    (encI_fields _ _ _ _ _) (by decide) (by omega) (by omega) (by omega) (by decide) (by omega) (rfl) (rfl) (rfl) (rfl) (by omega) rfl
    (by unfold majorF decSystem; rw [show csrOk csr.toNat true = true from hwf]; rfl) fun n F => ?_
  have e0 : (r5 (fld n 7 5)) = rd := ofNat_of (F.p7.trans (by omega))
  have e1 : (r5 (fld n 15 5)) = uimm := ofNat_of (F.p15.trans (by omega))
  have e2 : (BitVec.ofNat 12 (fld n 20 12)) = csr := ofNat_of (F.i12.trans (by omega))
  show Instr.csrrwi (r5 (fld n 7 5)) (r5 (fld n 15 5)) (BitVec.ofNat 12 (fld n 20 12)) = _
  rw [e0, e1, e2]

theorem csrrsi (rd : BitVec 5) (uimm : BitVec 5) (csr : BitVec 12) : Statement (.csrrsi rd uimm csr) := by
  refine of_word rfl fun hwf => ?_
  have hrd := rd.isLt
  have huimm := uimm.isLt
  have hcsr := csr.isLt
  refine decode_fields (op := .csrrsi) (m := 0x73) (f7 := (csr.toNat / 32)) (b := (csr.toNat % 32)) (a := uimm.toNat) (f3 := 6) (d := rd.toNat) (i12 := csr.toNat)
    (encI_fields _ _ _ _ _) (by decide) (by omega) (by omega) (by omega) (by decide) (by omega) (rfl) (rfl) (rfl) (rfl) (by omega) rfl
    (by unfold majorF decSystem; rw [show csrOk csr.toNat (uimm.toNat != 0) = true by rw [toNat_ne]; exact hwf]; rfl) fun n F => ?_
  have e0 : (r5 (fld n 7 5)) = rd := ofNat_of (F.p7.trans (by omega))
  have e1 : (r5 (fld n 15 5)) = uimm := ofNat_of (F.p15.trans (by omega))
  have e2 : (BitVec.ofNat 12 (fld n 20 12)) = csr := ofNat_of (F.i12.trans (by omega))
  show Instr.csrrsi (r5 (fld n 7 5)) (r5 (fld n 15 5)) (BitVec.ofNat 12 (fld n 20 12)) = _
  rw [e0, e1, e2]

theorem csrrci (rd : BitVec 5) (uimm : BitVec 5) (csr : BitVec 12) : Statement (.csrrci rd uimm csr) := by
  refine of_word rfl fun hwf => ?_
  have hrd := rd.isLt
  have huimm := uimm.isLt
  have hcsr := csr.isLt
  refine decode_fields (op := .csrrci) (m := 0x73) (f7 := (csr.toNat / 32)) (b := (csr.toNat % 32)) (a := uimm.toNat) (f3 := 7) (d := rd.toNat) (i12 := csr.toNat)
    (encI_fields _ _ _ _ _) (by decide) (by omega) (by omega) (by omega) (by decide) (by omega) (rfl) (rfl) (rfl) (rfl) (by omega) rfl
    (by unfold majorF decSystem; rw [show csrOk csr.toNat (uimm.toNat != 0) = true by rw [toNat_ne]; exact hwf]; rfl) fun n F => ?_
  have e0 : (r5 (fld n 7 5)) = rd := ofNat_of (F.p7.trans (by omega))
  have e1 : (r5 (fld n 15 5)) = uimm := ofNat_of (F.p15.trans (by omega))
  have e2 : (BitVec.ofNat 12 (fld n 20 12)) = csr := ofNat_of (F.i12.trans (by omega))
  show Instr.csrrci (r5 (fld n 7 5)) (r5 (fld n 15 5)) (BitVec.ofNat 12 (fld n 20 12)) = _
  rw [e0, e1, e2]

theorem mret : Statement (.mret) := by
  refine of_word rfl fun _ => ?_
  refine decode_fields (op := .mret) (m := 0x73) (f7 := (0x302 / 32)) (b := (0x302 % 32)) (a := 0) (f3 := 0) (d := 0) (i12 := 0x302)
    (encI_fields _ _ _ _ _) (by decide) (by omega) (by omega) (by decide) (by decide) (by decide) (rfl) (rfl) (rfl) (rfl) (by omega) rfl
    (rfl) fun n F => ?_
  rfl

theorem sret : Statement (.sret) := by
  refine of_word rfl fun _ => ?_
  refine decode_fields (op := .sret) (m := 0x73) (f7 := (0x102 / 32)) (b := (0x102 % 32)) (a := 0) (f3 := 0) (d := 0) (i12 := 0x102)
    (encI_fields _ _ _ _ _) (by decide) (by omega) (by omega) (by decide) (by decide) (by decide) (rfl) (rfl) (rfl) (rfl) (by omega) rfl
    (rfl) fun n F => ?_
  rfl

theorem wfi : Statement (.wfi) := by
  refine of_word rfl fun _ => ?_
  refine decode_fields (op := .wfi) (m := 0x73) (f7 := (0x105 / 32)) (b := (0x105 % 32)) (a := 0) (f3 := 0) (d := 0) (i12 := 0x105)
    (encI_fields _ _ _ _ _) (by decide) (by omega) (by omega) (by decide) (by decide) (by decide) (rfl) (rfl) (rfl) (rfl) (by omega) rfl
    (rfl) fun n F => ?_
  rfl

theorem vadd (vd : BitVec 5) (vs1 : BitVec 5) (vs2 : BitVec 5) (t : VType) (sc : BitVec 3) : Statement (.vadd vd vs1 vs2 t sc) := by
  refine of_word rfl fun _ => ?_
  have hvd := vd.isLt
  have hvs1 := vs1.isLt
  have hvs2 := vs2.isLt
  have ht := t.code_lt
  have hsc := sc.isLt
  refine decode_fields (op := .vadd) (m := 0x0B) (f7 := (0 * 8 + sc.toNat)) (b := vs2.toNat) (a := vs1.toNat) (f3 := t.code) (d := vd.toNat) (q28 := 0) (q25 := sc.toNat)
    (rfl) (by decide) (by omega) (by omega) (by omega) (by omega) (by omega) (by omega) (by omega) (rfl) (rfl) (rfl) rfl
    (by cases t <;> rfl) fun n F => ?_
  have e0 : (r5 (fld n 7 5)) = vd := ofNat_of (F.p7.trans (by omega))
  have e1 : (r5 (fld n 15 5)) = vs1 := ofNat_of (F.p15.trans (by omega))
  have e2 : (r5 (fld n 20 5)) = vs2 := ofNat_of (F.p20.trans (by omega))
  have e3 : ((VType.ofCode (fld n 12 3)).getD .pre) = t := by rw [F.p12.trans (show _ = t.code by omega), VType.ofCode_code]; rfl
  have e4 : (BitVec.ofNat 3 (fld n 25 3)) = sc := ofNat_of (F.p25b.trans (by omega))
  show Instr.vadd (r5 (fld n 7 5)) (r5 (fld n 15 5)) (r5 (fld n 20 5)) ((VType.ofCode (fld n 12 3)).getD .pre) (BitVec.ofNat 3 (fld n 25 3)) = _
  rw [e0, e1, e2, e3, e4]

theorem vsub (vd : BitVec 5) (vs1 : BitVec 5) (vs2 : BitVec 5) (t : VType) (sc : BitVec 3) : Statement (.vsub vd vs1 vs2 t sc) := by
  refine of_word rfl fun _ => ?_
  have hvd := vd.isLt
  have hvs1 := vs1.isLt
  have hvs2 := vs2.isLt
  have ht := t.code_lt
  have hsc := sc.isLt
  refine decode_fields (op := .vsub) (m := 0x0B) (f7 := (1 * 8 + sc.toNat)) (b := vs2.toNat) (a := vs1.toNat) (f3 := t.code) (d := vd.toNat) (q28 := 1) (q25 := sc.toNat)
    (rfl) (by decide) (by omega) (by omega) (by omega) (by omega) (by omega) (by omega) (by omega) (rfl) (rfl) (rfl) rfl
    (by cases t <;> rfl) fun n F => ?_
  have e0 : (r5 (fld n 7 5)) = vd := ofNat_of (F.p7.trans (by omega))
  have e1 : (r5 (fld n 15 5)) = vs1 := ofNat_of (F.p15.trans (by omega))
  have e2 : (r5 (fld n 20 5)) = vs2 := ofNat_of (F.p20.trans (by omega))
  have e3 : ((VType.ofCode (fld n 12 3)).getD .pre) = t := by rw [F.p12.trans (show _ = t.code by omega), VType.ofCode_code]; rfl
  have e4 : (BitVec.ofNat 3 (fld n 25 3)) = sc := ofNat_of (F.p25b.trans (by omega))
  show Instr.vsub (r5 (fld n 7 5)) (r5 (fld n 15 5)) (r5 (fld n 20 5)) ((VType.ofCode (fld n 12 3)).getD .pre) (BitVec.ofNat 3 (fld n 25 3)) = _
  rw [e0, e1, e2, e3, e4]

theorem vmul (vd : BitVec 5) (vs1 : BitVec 5) (vs2 : BitVec 5) (t : VType) (sc : BitVec 3) : Statement (.vmul vd vs1 vs2 t sc) := by
  refine of_word rfl fun _ => ?_
  have hvd := vd.isLt
  have hvs1 := vs1.isLt
  have hvs2 := vs2.isLt
  have ht := t.code_lt
  have hsc := sc.isLt
  refine decode_fields (op := .vmul) (m := 0x0B) (f7 := (2 * 8 + sc.toNat)) (b := vs2.toNat) (a := vs1.toNat) (f3 := t.code) (d := vd.toNat) (q28 := 2) (q25 := sc.toNat)
    (rfl) (by decide) (by omega) (by omega) (by omega) (by omega) (by omega) (by omega) (by omega) (rfl) (rfl) (rfl) rfl
    (by cases t <;> rfl) fun n F => ?_
  have e0 : (r5 (fld n 7 5)) = vd := ofNat_of (F.p7.trans (by omega))
  have e1 : (r5 (fld n 15 5)) = vs1 := ofNat_of (F.p15.trans (by omega))
  have e2 : (r5 (fld n 20 5)) = vs2 := ofNat_of (F.p20.trans (by omega))
  have e3 : ((VType.ofCode (fld n 12 3)).getD .pre) = t := by rw [F.p12.trans (show _ = t.code by omega), VType.ofCode_code]; rfl
  have e4 : (BitVec.ofNat 3 (fld n 25 3)) = sc := ofNat_of (F.p25b.trans (by omega))
  show Instr.vmul (r5 (fld n 7 5)) (r5 (fld n 15 5)) (r5 (fld n 20 5)) ((VType.ofCode (fld n 12 3)).getD .pre) (BitVec.ofNat 3 (fld n 25 3)) = _
  rw [e0, e1, e2, e3, e4]

theorem vfma (vd : BitVec 5) (vs1 : BitVec 5) (vs2 : BitVec 5) (t : VType) (sc : BitVec 3) : Statement (.vfma vd vs1 vs2 t sc) := by
  refine of_word rfl fun hwf => ?_
  have hvd := vd.isLt
  have hvs1 := vs1.isLt
  have hvs2 := vs2.isLt
  have ht := t.code_lt
  have hsc := sc.isLt
  refine decode_fields (op := .vfma) (m := 0x0B) (f7 := (3 * 8 + sc.toNat)) (b := vs2.toNat) (a := vs1.toNat) (f3 := t.code) (d := vd.toNat) (q28 := 3) (q25 := sc.toNat)
    (rfl) (by decide) (by omega) (by omega) (by omega) (by omega) (by omega) (by omega) (by omega) (rfl) (rfl) (rfl) rfl
    (by have hw : (banksOk vs1 vs2 && t.isFloat) = true := hwf; cases t <;> first | rfl | simp [VType.isFloat, VType.isInt, VType.isSigned] at hw) fun n F => ?_
  have e0 : (r5 (fld n 7 5)) = vd := ofNat_of (F.p7.trans (by omega))
  have e1 : (r5 (fld n 15 5)) = vs1 := ofNat_of (F.p15.trans (by omega))
  have e2 : (r5 (fld n 20 5)) = vs2 := ofNat_of (F.p20.trans (by omega))
  have e3 : ((VType.ofCode (fld n 12 3)).getD .pre) = t := by rw [F.p12.trans (show _ = t.code by omega), VType.ofCode_code]; rfl
  have e4 : (BitVec.ofNat 3 (fld n 25 3)) = sc := ofNat_of (F.p25b.trans (by omega))
  show Instr.vfma (r5 (fld n 7 5)) (r5 (fld n 15 5)) (r5 (fld n 20 5)) ((VType.ofCode (fld n 12 3)).getD .pre) (BitVec.ofNat 3 (fld n 25 3)) = _
  rw [e0, e1, e2, e3, e4]

theorem vfms (vd : BitVec 5) (vs1 : BitVec 5) (vs2 : BitVec 5) (t : VType) (sc : BitVec 3) : Statement (.vfms vd vs1 vs2 t sc) := by
  refine of_word rfl fun hwf => ?_
  have hvd := vd.isLt
  have hvs1 := vs1.isLt
  have hvs2 := vs2.isLt
  have ht := t.code_lt
  have hsc := sc.isLt
  refine decode_fields (op := .vfms) (m := 0x0B) (f7 := (4 * 8 + sc.toNat)) (b := vs2.toNat) (a := vs1.toNat) (f3 := t.code) (d := vd.toNat) (q28 := 4) (q25 := sc.toNat)
    (rfl) (by decide) (by omega) (by omega) (by omega) (by omega) (by omega) (by omega) (by omega) (rfl) (rfl) (rfl) rfl
    (by have hw : (banksOk vs1 vs2 && t.isFloat) = true := hwf; cases t <;> first | rfl | simp [VType.isFloat, VType.isInt, VType.isSigned] at hw) fun n F => ?_
  have e0 : (r5 (fld n 7 5)) = vd := ofNat_of (F.p7.trans (by omega))
  have e1 : (r5 (fld n 15 5)) = vs1 := ofNat_of (F.p15.trans (by omega))
  have e2 : (r5 (fld n 20 5)) = vs2 := ofNat_of (F.p20.trans (by omega))
  have e3 : ((VType.ofCode (fld n 12 3)).getD .pre) = t := by rw [F.p12.trans (show _ = t.code by omega), VType.ofCode_code]; rfl
  have e4 : (BitVec.ofNat 3 (fld n 25 3)) = sc := ofNat_of (F.p25b.trans (by omega))
  show Instr.vfms (r5 (fld n 7 5)) (r5 (fld n 15 5)) (r5 (fld n 20 5)) ((VType.ofCode (fld n 12 3)).getD .pre) (BitVec.ofNat 3 (fld n 25 3)) = _
  rw [e0, e1, e2, e3, e4]

theorem vmin (vd : BitVec 5) (vs1 : BitVec 5) (vs2 : BitVec 5) (t : VType) (sc : BitVec 3) : Statement (.vmin vd vs1 vs2 t sc) := by
  refine of_word rfl fun _ => ?_
  have hvd := vd.isLt
  have hvs1 := vs1.isLt
  have hvs2 := vs2.isLt
  have ht := t.code_lt
  have hsc := sc.isLt
  refine decode_fields (op := .vmin) (m := 0x0B) (f7 := (5 * 8 + sc.toNat)) (b := vs2.toNat) (a := vs1.toNat) (f3 := t.code) (d := vd.toNat) (q28 := 5) (q25 := sc.toNat)
    (rfl) (by decide) (by omega) (by omega) (by omega) (by omega) (by omega) (by omega) (by omega) (rfl) (rfl) (rfl) rfl
    (by cases t <;> rfl) fun n F => ?_
  have e0 : (r5 (fld n 7 5)) = vd := ofNat_of (F.p7.trans (by omega))
  have e1 : (r5 (fld n 15 5)) = vs1 := ofNat_of (F.p15.trans (by omega))
  have e2 : (r5 (fld n 20 5)) = vs2 := ofNat_of (F.p20.trans (by omega))
  have e3 : ((VType.ofCode (fld n 12 3)).getD .pre) = t := by rw [F.p12.trans (show _ = t.code by omega), VType.ofCode_code]; rfl
  have e4 : (BitVec.ofNat 3 (fld n 25 3)) = sc := ofNat_of (F.p25b.trans (by omega))
  show Instr.vmin (r5 (fld n 7 5)) (r5 (fld n 15 5)) (r5 (fld n 20 5)) ((VType.ofCode (fld n 12 3)).getD .pre) (BitVec.ofNat 3 (fld n 25 3)) = _
  rw [e0, e1, e2, e3, e4]

theorem vmax (vd : BitVec 5) (vs1 : BitVec 5) (vs2 : BitVec 5) (t : VType) (sc : BitVec 3) : Statement (.vmax vd vs1 vs2 t sc) := by
  refine of_word rfl fun _ => ?_
  have hvd := vd.isLt
  have hvs1 := vs1.isLt
  have hvs2 := vs2.isLt
  have ht := t.code_lt
  have hsc := sc.isLt
  refine decode_fields (op := .vmax) (m := 0x0B) (f7 := (6 * 8 + sc.toNat)) (b := vs2.toNat) (a := vs1.toNat) (f3 := t.code) (d := vd.toNat) (q28 := 6) (q25 := sc.toNat)
    (rfl) (by decide) (by omega) (by omega) (by omega) (by omega) (by omega) (by omega) (by omega) (rfl) (rfl) (rfl) rfl
    (by cases t <;> rfl) fun n F => ?_
  have e0 : (r5 (fld n 7 5)) = vd := ofNat_of (F.p7.trans (by omega))
  have e1 : (r5 (fld n 15 5)) = vs1 := ofNat_of (F.p15.trans (by omega))
  have e2 : (r5 (fld n 20 5)) = vs2 := ofNat_of (F.p20.trans (by omega))
  have e3 : ((VType.ofCode (fld n 12 3)).getD .pre) = t := by rw [F.p12.trans (show _ = t.code by omega), VType.ofCode_code]; rfl
  have e4 : (BitVec.ofNat 3 (fld n 25 3)) = sc := ofNat_of (F.p25b.trans (by omega))
  show Instr.vmax (r5 (fld n 7 5)) (r5 (fld n 15 5)) (r5 (fld n 20 5)) ((VType.ofCode (fld n 12 3)).getD .pre) (BitVec.ofNat 3 (fld n 25 3)) = _
  rw [e0, e1, e2, e3, e4]

theorem vdot4 (vd : BitVec 5) (vs1 : BitVec 5) (vs2 : BitVec 5) (t : VType) (sc : BitVec 3) : Statement (.vdot4 vd vs1 vs2 t sc) := by
  refine of_word rfl fun hwf => ?_
  have hvd := vd.isLt
  have hvs1 := vs1.isLt
  have hvs2 := vs2.isLt
  have ht := t.code_lt
  have hsc := sc.isLt
  refine decode_fields (op := .vdot4) (m := 0x0B) (f7 := (7 * 8 + sc.toNat)) (b := vs2.toNat) (a := vs1.toNat) (f3 := t.code) (d := vd.toNat) (q28 := 7) (q25 := sc.toNat)
    (rfl) (by decide) (by omega) (by omega) (by omega) (by omega) (by omega) (by omega) (by omega) (rfl) (rfl) (rfl) rfl
    (by have hw : (banksOk vs1 vs2 && (t == .i8 || t == .pre)) = true := hwf; cases t <;> first | rfl | simp [VType.isFloat, VType.isInt, VType.isSigned] at hw) fun n F => ?_
  have e0 : (r5 (fld n 7 5)) = vd := ofNat_of (F.p7.trans (by omega))
  have e1 : (r5 (fld n 15 5)) = vs1 := ofNat_of (F.p15.trans (by omega))
  have e2 : (r5 (fld n 20 5)) = vs2 := ofNat_of (F.p20.trans (by omega))
  have e3 : ((VType.ofCode (fld n 12 3)).getD .pre) = t := by rw [F.p12.trans (show _ = t.code by omega), VType.ofCode_code]; rfl
  have e4 : (BitVec.ofNat 3 (fld n 25 3)) = sc := ofNat_of (F.p25b.trans (by omega))
  show Instr.vdot4 (r5 (fld n 7 5)) (r5 (fld n 15 5)) (r5 (fld n 20 5)) ((VType.ofCode (fld n 12 3)).getD .pre) (BitVec.ofNat 3 (fld n 25 3)) = _
  rw [e0, e1, e2, e3, e4]

theorem vcmp (md : BitVec 3) (cc : Cc) (vs1 : BitVec 5) (vs2 : BitVec 5) (t : VType) (sc : BitVec 3) : Statement (.vcmp md cc vs1 vs2 t sc) := by
  refine of_word rfl fun _ => ?_
  have hmd := md.isLt
  have hcc := cc.code_lt
  have hvs1 := vs1.isLt
  have hvs2 := vs2.isLt
  have ht := t.code_lt
  have hsc := sc.isLt
  refine decode_fields (op := .vcmp) (m := 0x0B) (f7 := (8 * 8 + sc.toNat)) (b := vs2.toNat) (a := vs1.toNat) (f3 := t.code) (d := (cc.code * 8 + md.toNat)) (q28 := 8) (q25 := sc.toNat)
    (rfl) (by decide) (by omega) (by omega) (by omega) (by omega) (by omega) (by omega) (by omega) (rfl) (rfl) (rfl) rfl
    (by cases t <;> rfl) fun n F => ?_
  have e0 : (BitVec.ofNat 3 (fld n 7 3)) = md := ofNat_of (F.p7b.trans (by omega))
  have e1 : ((Cc.ofCode (fld n 10 2)).getD .eq) = cc := by rw [F.p10.trans (show _ = cc.code by omega), Cc.ofCode_code]; rfl
  have e2 : (r5 (fld n 15 5)) = vs1 := ofNat_of (F.p15.trans (by omega))
  have e3 : (r5 (fld n 20 5)) = vs2 := ofNat_of (F.p20.trans (by omega))
  have e4 : ((VType.ofCode (fld n 12 3)).getD .pre) = t := by rw [F.p12.trans (show _ = t.code by omega), VType.ofCode_code]; rfl
  have e5 : (BitVec.ofNat 3 (fld n 25 3)) = sc := ofNat_of (F.p25b.trans (by omega))
  show Instr.vcmp (BitVec.ofNat 3 (fld n 7 3)) ((Cc.ofCode (fld n 10 2)).getD .eq) (r5 (fld n 15 5)) (r5 (fld n 20 5)) ((VType.ofCode (fld n 12 3)).getD .pre) (BitVec.ofNat 3 (fld n 25 3)) = _
  rw [e0, e1, e2, e3, e4, e5]

theorem vshl (vd : BitVec 5) (vs1 : BitVec 5) (vs2 : BitVec 5) (t : VType) (sc : BitVec 3) : Statement (.vshl vd vs1 vs2 t sc) := by
  refine of_word rfl fun hwf => ?_
  have hvd := vd.isLt
  have hvs1 := vs1.isLt
  have hvs2 := vs2.isLt
  have ht := t.code_lt
  have hsc := sc.isLt
  refine decode_fields (op := .vshl) (m := 0x0B) (f7 := (9 * 8 + sc.toNat)) (b := vs2.toNat) (a := vs1.toNat) (f3 := t.code) (d := vd.toNat) (q28 := 9) (q25 := sc.toNat)
    (rfl) (by decide) (by omega) (by omega) (by omega) (by omega) (by omega) (by omega) (by omega) (rfl) (rfl) (rfl) rfl
    (by have hw : (banksOk vs1 vs2 && t.isInt) = true := hwf; cases t <;> first | rfl | simp [VType.isFloat, VType.isInt, VType.isSigned] at hw) fun n F => ?_
  have e0 : (r5 (fld n 7 5)) = vd := ofNat_of (F.p7.trans (by omega))
  have e1 : (r5 (fld n 15 5)) = vs1 := ofNat_of (F.p15.trans (by omega))
  have e2 : (r5 (fld n 20 5)) = vs2 := ofNat_of (F.p20.trans (by omega))
  have e3 : ((VType.ofCode (fld n 12 3)).getD .pre) = t := by rw [F.p12.trans (show _ = t.code by omega), VType.ofCode_code]; rfl
  have e4 : (BitVec.ofNat 3 (fld n 25 3)) = sc := ofNat_of (F.p25b.trans (by omega))
  show Instr.vshl (r5 (fld n 7 5)) (r5 (fld n 15 5)) (r5 (fld n 20 5)) ((VType.ofCode (fld n 12 3)).getD .pre) (BitVec.ofNat 3 (fld n 25 3)) = _
  rw [e0, e1, e2, e3, e4]

theorem vshr (vd : BitVec 5) (vs1 : BitVec 5) (vs2 : BitVec 5) (t : VType) (sc : BitVec 3) : Statement (.vshr vd vs1 vs2 t sc) := by
  refine of_word rfl fun hwf => ?_
  have hvd := vd.isLt
  have hvs1 := vs1.isLt
  have hvs2 := vs2.isLt
  have ht := t.code_lt
  have hsc := sc.isLt
  refine decode_fields (op := .vshr) (m := 0x0B) (f7 := (10 * 8 + sc.toNat)) (b := vs2.toNat) (a := vs1.toNat) (f3 := t.code) (d := vd.toNat) (q28 := 10) (q25 := sc.toNat)
    (rfl) (by decide) (by omega) (by omega) (by omega) (by omega) (by omega) (by omega) (by omega) (rfl) (rfl) (rfl) rfl
    (by have hw : (banksOk vs1 vs2 && t.isInt) = true := hwf; cases t <;> first | rfl | simp [VType.isFloat, VType.isInt, VType.isSigned] at hw) fun n F => ?_
  have e0 : (r5 (fld n 7 5)) = vd := ofNat_of (F.p7.trans (by omega))
  have e1 : (r5 (fld n 15 5)) = vs1 := ofNat_of (F.p15.trans (by omega))
  have e2 : (r5 (fld n 20 5)) = vs2 := ofNat_of (F.p20.trans (by omega))
  have e3 : ((VType.ofCode (fld n 12 3)).getD .pre) = t := by rw [F.p12.trans (show _ = t.code by omega), VType.ofCode_code]; rfl
  have e4 : (BitVec.ofNat 3 (fld n 25 3)) = sc := ofNat_of (F.p25b.trans (by omega))
  show Instr.vshr (r5 (fld n 7 5)) (r5 (fld n 15 5)) (r5 (fld n 20 5)) ((VType.ofCode (fld n 12 3)).getD .pre) (BitVec.ofNat 3 (fld n 25 3)) = _
  rw [e0, e1, e2, e3, e4]

theorem vsra (vd : BitVec 5) (vs1 : BitVec 5) (vs2 : BitVec 5) (t : VType) (sc : BitVec 3) : Statement (.vsra vd vs1 vs2 t sc) := by
  refine of_word rfl fun hwf => ?_
  have hvd := vd.isLt
  have hvs1 := vs1.isLt
  have hvs2 := vs2.isLt
  have ht := t.code_lt
  have hsc := sc.isLt
  refine decode_fields (op := .vsra) (m := 0x0B) (f7 := (11 * 8 + sc.toNat)) (b := vs2.toNat) (a := vs1.toNat) (f3 := t.code) (d := vd.toNat) (q28 := 11) (q25 := sc.toNat)
    (rfl) (by decide) (by omega) (by omega) (by omega) (by omega) (by omega) (by omega) (by omega) (rfl) (rfl) (rfl) rfl
    (by have hw : (banksOk vs1 vs2 && t.isInt) = true := hwf; cases t <;> first | rfl | simp [VType.isFloat, VType.isInt, VType.isSigned] at hw) fun n F => ?_
  have e0 : (r5 (fld n 7 5)) = vd := ofNat_of (F.p7.trans (by omega))
  have e1 : (r5 (fld n 15 5)) = vs1 := ofNat_of (F.p15.trans (by omega))
  have e2 : (r5 (fld n 20 5)) = vs2 := ofNat_of (F.p20.trans (by omega))
  have e3 : ((VType.ofCode (fld n 12 3)).getD .pre) = t := by rw [F.p12.trans (show _ = t.code by omega), VType.ofCode_code]; rfl
  have e4 : (BitVec.ofNat 3 (fld n 25 3)) = sc := ofNat_of (F.p25b.trans (by omega))
  show Instr.vsra (r5 (fld n 7 5)) (r5 (fld n 15 5)) (r5 (fld n 20 5)) ((VType.ofCode (fld n 12 3)).getD .pre) (BitVec.ofNat 3 (fld n 25 3)) = _
  rw [e0, e1, e2, e3, e4]

theorem vand (vd : BitVec 5) (vs1 : BitVec 5) (vs2 : BitVec 5) (sc : BitVec 3) : Statement (.vand vd vs1 vs2 sc) := by
  refine of_word rfl fun _ => ?_
  have hvd := vd.isLt
  have hvs1 := vs1.isLt
  have hvs2 := vs2.isLt
  have hsc := sc.isLt
  refine decode_fields (op := .vand) (m := 0x0B) (f7 := (12 * 8 + sc.toNat)) (b := vs2.toNat) (a := vs1.toNat) (f3 := 0) (d := vd.toNat) (q28 := 12) (q25 := sc.toNat)
    (rfl) (by decide) (by omega) (by omega) (by omega) (by decide) (by omega) (by omega) (by omega) (rfl) (rfl) (rfl) rfl
    (rfl) fun n F => ?_
  have e0 : (r5 (fld n 7 5)) = vd := ofNat_of (F.p7.trans (by omega))
  have e1 : (r5 (fld n 15 5)) = vs1 := ofNat_of (F.p15.trans (by omega))
  have e2 : (r5 (fld n 20 5)) = vs2 := ofNat_of (F.p20.trans (by omega))
  have e3 : (BitVec.ofNat 3 (fld n 25 3)) = sc := ofNat_of (F.p25b.trans (by omega))
  show Instr.vand (r5 (fld n 7 5)) (r5 (fld n 15 5)) (r5 (fld n 20 5)) (BitVec.ofNat 3 (fld n 25 3)) = _
  rw [e0, e1, e2, e3]

theorem vor (vd : BitVec 5) (vs1 : BitVec 5) (vs2 : BitVec 5) (sc : BitVec 3) : Statement (.vor vd vs1 vs2 sc) := by
  refine of_word rfl fun _ => ?_
  have hvd := vd.isLt
  have hvs1 := vs1.isLt
  have hvs2 := vs2.isLt
  have hsc := sc.isLt
  refine decode_fields (op := .vor) (m := 0x0B) (f7 := (12 * 8 + sc.toNat)) (b := vs2.toNat) (a := vs1.toNat) (f3 := 1) (d := vd.toNat) (q28 := 12) (q25 := sc.toNat)
    (rfl) (by decide) (by omega) (by omega) (by omega) (by decide) (by omega) (by omega) (by omega) (rfl) (rfl) (rfl) rfl
    (rfl) fun n F => ?_
  have e0 : (r5 (fld n 7 5)) = vd := ofNat_of (F.p7.trans (by omega))
  have e1 : (r5 (fld n 15 5)) = vs1 := ofNat_of (F.p15.trans (by omega))
  have e2 : (r5 (fld n 20 5)) = vs2 := ofNat_of (F.p20.trans (by omega))
  have e3 : (BitVec.ofNat 3 (fld n 25 3)) = sc := ofNat_of (F.p25b.trans (by omega))
  show Instr.vor (r5 (fld n 7 5)) (r5 (fld n 15 5)) (r5 (fld n 20 5)) (BitVec.ofNat 3 (fld n 25 3)) = _
  rw [e0, e1, e2, e3]

theorem vxor (vd : BitVec 5) (vs1 : BitVec 5) (vs2 : BitVec 5) (sc : BitVec 3) : Statement (.vxor vd vs1 vs2 sc) := by
  refine of_word rfl fun _ => ?_
  have hvd := vd.isLt
  have hvs1 := vs1.isLt
  have hvs2 := vs2.isLt
  have hsc := sc.isLt
  refine decode_fields (op := .vxor) (m := 0x0B) (f7 := (12 * 8 + sc.toNat)) (b := vs2.toNat) (a := vs1.toNat) (f3 := 2) (d := vd.toNat) (q28 := 12) (q25 := sc.toNat)
    (rfl) (by decide) (by omega) (by omega) (by omega) (by decide) (by omega) (by omega) (by omega) (rfl) (rfl) (rfl) rfl
    (rfl) fun n F => ?_
  have e0 : (r5 (fld n 7 5)) = vd := ofNat_of (F.p7.trans (by omega))
  have e1 : (r5 (fld n 15 5)) = vs1 := ofNat_of (F.p15.trans (by omega))
  have e2 : (r5 (fld n 20 5)) = vs2 := ofNat_of (F.p20.trans (by omega))
  have e3 : (BitVec.ofNat 3 (fld n 25 3)) = sc := ofNat_of (F.p25b.trans (by omega))
  show Instr.vxor (r5 (fld n 7 5)) (r5 (fld n 15 5)) (r5 (fld n 20 5)) (BitVec.ofNat 3 (fld n 25 3)) = _
  rw [e0, e1, e2, e3]

theorem vperm (vd : BitVec 5) (vs1 : BitVec 5) (vs2 : BitVec 5) (w : VWidth) (sc : BitVec 3) : Statement (.vperm vd vs1 vs2 w sc) := by
  refine of_word rfl fun _ => ?_
  have hvd := vd.isLt
  have hvs1 := vs1.isLt
  have hvs2 := vs2.isLt
  have hw := w.code_lt
  have hsc := sc.isLt
  refine decode_fields (op := .vperm) (m := 0x0B) (f7 := (12 * 8 + sc.toNat)) (b := vs2.toNat) (a := vs1.toNat) (f3 := (4 + w.code)) (d := vd.toNat) (q28 := 12) (q25 := sc.toNat)
    (rfl) (by decide) (by omega) (by omega) (by omega) (by omega) (by omega) (by omega) (by omega) (rfl) (rfl) (rfl) rfl
    (by cases w <;> rfl) fun n F => ?_
  have e0 : (r5 (fld n 7 5)) = vd := ofNat_of (F.p7.trans (by omega))
  have e1 : (r5 (fld n 15 5)) = vs1 := ofNat_of (F.p15.trans (by omega))
  have e2 : (r5 (fld n 20 5)) = vs2 := ofNat_of (F.p20.trans (by omega))
  have e3 : ((VWidth.ofCode (fld n 12 2)).getD .w32) = w := by rw [F.p12b.trans (show _ = w.code by omega), VWidth.ofCode_code]; rfl
  have e4 : (BitVec.ofNat 3 (fld n 25 3)) = sc := ofNat_of (F.p25b.trans (by omega))
  show Instr.vperm (r5 (fld n 7 5)) (r5 (fld n 15 5)) (r5 (fld n 20 5)) ((VWidth.ofCode (fld n 12 2)).getD .w32) (BitVec.ofNat 3 (fld n 25 3)) = _
  rw [e0, e1, e2, e3, e4]

theorem vabs (vd : BitVec 5) (vs1 : BitVec 5) (t : VType) (sc : BitVec 3) : Statement (.vabs vd vs1 t sc) := by
  refine of_word rfl fun hwf => ?_
  have hvd := vd.isLt
  have hvs1 := vs1.isLt
  have ht := t.code_lt
  have hsc := sc.isLt
  refine decode_fields (op := .vabs) (m := 0x0B) (f7 := (13 * 8 + sc.toNat)) (b := 0) (a := vs1.toNat) (f3 := t.code) (d := vd.toNat) (q28 := 13) (q25 := sc.toNat)
    (rfl) (by decide) (by omega) (by decide) (by omega) (by omega) (by omega) (by omega) (by omega) (rfl) (rfl) (rfl) rfl
    (by have hw : (t.isSigned) = true := hwf; cases t <;> first | rfl | simp [VType.isFloat, VType.isInt, VType.isSigned] at hw) fun n F => ?_
  have e0 : (r5 (fld n 7 5)) = vd := ofNat_of (F.p7.trans (by omega))
  have e1 : (r5 (fld n 15 5)) = vs1 := ofNat_of (F.p15.trans (by omega))
  have e2 : ((VType.ofCode (fld n 12 3)).getD .pre) = t := by rw [F.p12.trans (show _ = t.code by omega), VType.ofCode_code]; rfl
  have e3 : (BitVec.ofNat 3 (fld n 25 3)) = sc := ofNat_of (F.p25b.trans (by omega))
  show Instr.vabs (r5 (fld n 7 5)) (r5 (fld n 15 5)) ((VType.ofCode (fld n 12 3)).getD .pre) (BitVec.ofNat 3 (fld n 25 3)) = _
  rw [e0, e1, e2, e3]

theorem vneg (vd : BitVec 5) (vs1 : BitVec 5) (t : VType) (sc : BitVec 3) : Statement (.vneg vd vs1 t sc) := by
  refine of_word rfl fun hwf => ?_
  have hvd := vd.isLt
  have hvs1 := vs1.isLt
  have ht := t.code_lt
  have hsc := sc.isLt
  refine decode_fields (op := .vneg) (m := 0x0B) (f7 := (13 * 8 + sc.toNat)) (b := 1) (a := vs1.toNat) (f3 := t.code) (d := vd.toNat) (q28 := 13) (q25 := sc.toNat)
    (rfl) (by decide) (by omega) (by decide) (by omega) (by omega) (by omega) (by omega) (by omega) (rfl) (rfl) (rfl) rfl
    (by have hw : (t.isSigned) = true := hwf; cases t <;> first | rfl | simp [VType.isFloat, VType.isInt, VType.isSigned] at hw) fun n F => ?_
  have e0 : (r5 (fld n 7 5)) = vd := ofNat_of (F.p7.trans (by omega))
  have e1 : (r5 (fld n 15 5)) = vs1 := ofNat_of (F.p15.trans (by omega))
  have e2 : ((VType.ofCode (fld n 12 3)).getD .pre) = t := by rw [F.p12.trans (show _ = t.code by omega), VType.ofCode_code]; rfl
  have e3 : (BitVec.ofNat 3 (fld n 25 3)) = sc := ofNat_of (F.p25b.trans (by omega))
  show Instr.vneg (r5 (fld n 7 5)) (r5 (fld n 15 5)) ((VType.ofCode (fld n 12 3)).getD .pre) (BitVec.ofNat 3 (fld n 25 3)) = _
  rw [e0, e1, e2, e3]

theorem vmov (vd : BitVec 5) (vs1 : BitVec 5) (t : VType) (sc : BitVec 3) : Statement (.vmov vd vs1 t sc) := by
  refine of_word rfl fun _ => ?_
  have hvd := vd.isLt
  have hvs1 := vs1.isLt
  have ht := t.code_lt
  have hsc := sc.isLt
  refine decode_fields (op := .vmov) (m := 0x0B) (f7 := (13 * 8 + sc.toNat)) (b := 2) (a := vs1.toNat) (f3 := t.code) (d := vd.toNat) (q28 := 13) (q25 := sc.toNat)
    (rfl) (by decide) (by omega) (by decide) (by omega) (by omega) (by omega) (by omega) (by omega) (rfl) (rfl) (rfl) rfl
    (by cases t <;> rfl) fun n F => ?_
  have e0 : (r5 (fld n 7 5)) = vd := ofNat_of (F.p7.trans (by omega))
  have e1 : (r5 (fld n 15 5)) = vs1 := ofNat_of (F.p15.trans (by omega))
  have e2 : ((VType.ofCode (fld n 12 3)).getD .pre) = t := by rw [F.p12.trans (show _ = t.code by omega), VType.ofCode_code]; rfl
  have e3 : (BitVec.ofNat 3 (fld n 25 3)) = sc := ofNat_of (F.p25b.trans (by omega))
  show Instr.vmov (r5 (fld n 7 5)) (r5 (fld n 15 5)) ((VType.ofCode (fld n 12 3)).getD .pre) (BitVec.ofNat 3 (fld n 25 3)) = _
  rw [e0, e1, e2, e3]

theorem vexp2 (vd : BitVec 5) (vs1 : BitVec 5) (t : VType) (sc : BitVec 3) : Statement (.vexp2 vd vs1 t sc) := by
  refine of_word rfl fun hwf => ?_
  have hvd := vd.isLt
  have hvs1 := vs1.isLt
  have ht := t.code_lt
  have hsc := sc.isLt
  refine decode_fields (op := .vexp2) (m := 0x0B) (f7 := (13 * 8 + sc.toNat)) (b := 3) (a := vs1.toNat) (f3 := t.code) (d := vd.toNat) (q28 := 13) (q25 := sc.toNat)
    (rfl) (by decide) (by omega) (by decide) (by omega) (by omega) (by omega) (by omega) (by omega) (rfl) (rfl) (rfl) rfl
    (by have hw : (t.isFloat) = true := hwf; cases t <;> first | rfl | simp [VType.isFloat, VType.isInt, VType.isSigned] at hw) fun n F => ?_
  have e0 : (r5 (fld n 7 5)) = vd := ofNat_of (F.p7.trans (by omega))
  have e1 : (r5 (fld n 15 5)) = vs1 := ofNat_of (F.p15.trans (by omega))
  have e2 : ((VType.ofCode (fld n 12 3)).getD .pre) = t := by rw [F.p12.trans (show _ = t.code by omega), VType.ofCode_code]; rfl
  have e3 : (BitVec.ofNat 3 (fld n 25 3)) = sc := ofNat_of (F.p25b.trans (by omega))
  show Instr.vexp2 (r5 (fld n 7 5)) (r5 (fld n 15 5)) ((VType.ofCode (fld n 12 3)).getD .pre) (BitVec.ofNat 3 (fld n 25 3)) = _
  rw [e0, e1, e2, e3]

theorem vlog2 (vd : BitVec 5) (vs1 : BitVec 5) (t : VType) (sc : BitVec 3) : Statement (.vlog2 vd vs1 t sc) := by
  refine of_word rfl fun hwf => ?_
  have hvd := vd.isLt
  have hvs1 := vs1.isLt
  have ht := t.code_lt
  have hsc := sc.isLt
  refine decode_fields (op := .vlog2) (m := 0x0B) (f7 := (13 * 8 + sc.toNat)) (b := 4) (a := vs1.toNat) (f3 := t.code) (d := vd.toNat) (q28 := 13) (q25 := sc.toNat)
    (rfl) (by decide) (by omega) (by decide) (by omega) (by omega) (by omega) (by omega) (by omega) (rfl) (rfl) (rfl) rfl
    (by have hw : (t.isFloat) = true := hwf; cases t <;> first | rfl | simp [VType.isFloat, VType.isInt, VType.isSigned] at hw) fun n F => ?_
  have e0 : (r5 (fld n 7 5)) = vd := ofNat_of (F.p7.trans (by omega))
  have e1 : (r5 (fld n 15 5)) = vs1 := ofNat_of (F.p15.trans (by omega))
  have e2 : ((VType.ofCode (fld n 12 3)).getD .pre) = t := by rw [F.p12.trans (show _ = t.code by omega), VType.ofCode_code]; rfl
  have e3 : (BitVec.ofNat 3 (fld n 25 3)) = sc := ofNat_of (F.p25b.trans (by omega))
  show Instr.vlog2 (r5 (fld n 7 5)) (r5 (fld n 15 5)) ((VType.ofCode (fld n 12 3)).getD .pre) (BitVec.ofNat 3 (fld n 25 3)) = _
  rw [e0, e1, e2, e3]

theorem vrcp (vd : BitVec 5) (vs1 : BitVec 5) (t : VType) (sc : BitVec 3) : Statement (.vrcp vd vs1 t sc) := by
  refine of_word rfl fun hwf => ?_
  have hvd := vd.isLt
  have hvs1 := vs1.isLt
  have ht := t.code_lt
  have hsc := sc.isLt
  refine decode_fields (op := .vrcp) (m := 0x0B) (f7 := (13 * 8 + sc.toNat)) (b := 5) (a := vs1.toNat) (f3 := t.code) (d := vd.toNat) (q28 := 13) (q25 := sc.toNat)
    (rfl) (by decide) (by omega) (by decide) (by omega) (by omega) (by omega) (by omega) (by omega) (rfl) (rfl) (rfl) rfl
    (by have hw : (t.isFloat) = true := hwf; cases t <;> first | rfl | simp [VType.isFloat, VType.isInt, VType.isSigned] at hw) fun n F => ?_
  have e0 : (r5 (fld n 7 5)) = vd := ofNat_of (F.p7.trans (by omega))
  have e1 : (r5 (fld n 15 5)) = vs1 := ofNat_of (F.p15.trans (by omega))
  have e2 : ((VType.ofCode (fld n 12 3)).getD .pre) = t := by rw [F.p12.trans (show _ = t.code by omega), VType.ofCode_code]; rfl
  have e3 : (BitVec.ofNat 3 (fld n 25 3)) = sc := ofNat_of (F.p25b.trans (by omega))
  show Instr.vrcp (r5 (fld n 7 5)) (r5 (fld n 15 5)) ((VType.ofCode (fld n 12 3)).getD .pre) (BitVec.ofNat 3 (fld n 25 3)) = _
  rw [e0, e1, e2, e3]

theorem vrsq (vd : BitVec 5) (vs1 : BitVec 5) (t : VType) (sc : BitVec 3) : Statement (.vrsq vd vs1 t sc) := by
  refine of_word rfl fun hwf => ?_
  have hvd := vd.isLt
  have hvs1 := vs1.isLt
  have ht := t.code_lt
  have hsc := sc.isLt
  refine decode_fields (op := .vrsq) (m := 0x0B) (f7 := (13 * 8 + sc.toNat)) (b := 6) (a := vs1.toNat) (f3 := t.code) (d := vd.toNat) (q28 := 13) (q25 := sc.toNat)
    (rfl) (by decide) (by omega) (by decide) (by omega) (by omega) (by omega) (by omega) (by omega) (rfl) (rfl) (rfl) rfl
    (by have hw : (t.isFloat) = true := hwf; cases t <;> first | rfl | simp [VType.isFloat, VType.isInt, VType.isSigned] at hw) fun n F => ?_
  have e0 : (r5 (fld n 7 5)) = vd := ofNat_of (F.p7.trans (by omega))
  have e1 : (r5 (fld n 15 5)) = vs1 := ofNat_of (F.p15.trans (by omega))
  have e2 : ((VType.ofCode (fld n 12 3)).getD .pre) = t := by rw [F.p12.trans (show _ = t.code by omega), VType.ofCode_code]; rfl
  have e3 : (BitVec.ofNat 3 (fld n 25 3)) = sc := ofNat_of (F.p25b.trans (by omega))
  show Instr.vrsq (r5 (fld n 7 5)) (r5 (fld n 15 5)) ((VType.ofCode (fld n 12 3)).getD .pre) (BitVec.ofNat 3 (fld n 25 3)) = _
  rw [e0, e1, e2, e3]

theorem vrsum (vd : BitVec 5) (vs1 : BitVec 5) (t : VType) (sc : BitVec 3) : Statement (.vrsum vd vs1 t sc) := by
  refine of_word rfl fun _ => ?_
  have hvd := vd.isLt
  have hvs1 := vs1.isLt
  have ht := t.code_lt
  have hsc := sc.isLt
  refine decode_fields (op := .vrsum) (m := 0x0B) (f7 := (13 * 8 + sc.toNat)) (b := 7) (a := vs1.toNat) (f3 := t.code) (d := vd.toNat) (q28 := 13) (q25 := sc.toNat)
    (rfl) (by decide) (by omega) (by decide) (by omega) (by omega) (by omega) (by omega) (by omega) (rfl) (rfl) (rfl) rfl
    (by cases t <;> rfl) fun n F => ?_
  have e0 : (r5 (fld n 7 5)) = vd := ofNat_of (F.p7.trans (by omega))
  have e1 : (r5 (fld n 15 5)) = vs1 := ofNat_of (F.p15.trans (by omega))
  have e2 : ((VType.ofCode (fld n 12 3)).getD .pre) = t := by rw [F.p12.trans (show _ = t.code by omega), VType.ofCode_code]; rfl
  have e3 : (BitVec.ofNat 3 (fld n 25 3)) = sc := ofNat_of (F.p25b.trans (by omega))
  show Instr.vrsum (r5 (fld n 7 5)) (r5 (fld n 15 5)) ((VType.ofCode (fld n 12 3)).getD .pre) (BitVec.ofNat 3 (fld n 25 3)) = _
  rw [e0, e1, e2, e3]

theorem vrmax (vd : BitVec 5) (vs1 : BitVec 5) (t : VType) (sc : BitVec 3) : Statement (.vrmax vd vs1 t sc) := by
  refine of_word rfl fun _ => ?_
  have hvd := vd.isLt
  have hvs1 := vs1.isLt
  have ht := t.code_lt
  have hsc := sc.isLt
  refine decode_fields (op := .vrmax) (m := 0x0B) (f7 := (13 * 8 + sc.toNat)) (b := 8) (a := vs1.toNat) (f3 := t.code) (d := vd.toNat) (q28 := 13) (q25 := sc.toNat)
    (rfl) (by decide) (by omega) (by decide) (by omega) (by omega) (by omega) (by omega) (by omega) (rfl) (rfl) (rfl) rfl
    (by cases t <;> rfl) fun n F => ?_
  have e0 : (r5 (fld n 7 5)) = vd := ofNat_of (F.p7.trans (by omega))
  have e1 : (r5 (fld n 15 5)) = vs1 := ofNat_of (F.p15.trans (by omega))
  have e2 : ((VType.ofCode (fld n 12 3)).getD .pre) = t := by rw [F.p12.trans (show _ = t.code by omega), VType.ofCode_code]; rfl
  have e3 : (BitVec.ofNat 3 (fld n 25 3)) = sc := ofNat_of (F.p25b.trans (by omega))
  show Instr.vrmax (r5 (fld n 7 5)) (r5 (fld n 15 5)) ((VType.ofCode (fld n 12 3)).getD .pre) (BitVec.ofNat 3 (fld n 25 3)) = _
  rw [e0, e1, e2, e3]

theorem vrmin (vd : BitVec 5) (vs1 : BitVec 5) (t : VType) (sc : BitVec 3) : Statement (.vrmin vd vs1 t sc) := by
  refine of_word rfl fun _ => ?_
  have hvd := vd.isLt
  have hvs1 := vs1.isLt
  have ht := t.code_lt
  have hsc := sc.isLt
  refine decode_fields (op := .vrmin) (m := 0x0B) (f7 := (13 * 8 + sc.toNat)) (b := 9) (a := vs1.toNat) (f3 := t.code) (d := vd.toNat) (q28 := 13) (q25 := sc.toNat)
    (rfl) (by decide) (by omega) (by decide) (by omega) (by omega) (by omega) (by omega) (by omega) (rfl) (rfl) (rfl) rfl
    (by cases t <;> rfl) fun n F => ?_
  have e0 : (r5 (fld n 7 5)) = vd := ofNat_of (F.p7.trans (by omega))
  have e1 : (r5 (fld n 15 5)) = vs1 := ofNat_of (F.p15.trans (by omega))
  have e2 : ((VType.ofCode (fld n 12 3)).getD .pre) = t := by rw [F.p12.trans (show _ = t.code by omega), VType.ofCode_code]; rfl
  have e3 : (BitVec.ofNat 3 (fld n 25 3)) = sc := ofNat_of (F.p25b.trans (by omega))
  show Instr.vrmin (r5 (fld n 7 5)) (r5 (fld n 15 5)) ((VType.ofCode (fld n 12 3)).getD .pre) (BitVec.ofNat 3 (fld n 25 3)) = _
  rw [e0, e1, e2, e3]

theorem vidx (vd : BitVec 5) (t : VType) (sc : BitVec 3) : Statement (.vidx vd t sc) := by
  refine of_word rfl fun _ => ?_
  have hvd := vd.isLt
  have ht := t.code_lt
  have hsc := sc.isLt
  refine decode_fields (op := .vidx) (m := 0x0B) (f7 := (13 * 8 + sc.toNat)) (b := 10) (a := 0) (f3 := t.code) (d := vd.toNat) (q28 := 13) (q25 := sc.toNat)
    (rfl) (by decide) (by omega) (by decide) (by decide) (by omega) (by omega) (by omega) (by omega) (rfl) (rfl) (rfl) rfl
    (by cases t <;> rfl) fun n F => ?_
  have e0 : (r5 (fld n 7 5)) = vd := ofNat_of (F.p7.trans (by omega))
  have e1 : ((VType.ofCode (fld n 12 3)).getD .pre) = t := by rw [F.p12.trans (show _ = t.code by omega), VType.ofCode_code]; rfl
  have e2 : (BitVec.ofNat 3 (fld n 25 3)) = sc := ofNat_of (F.p25b.trans (by omega))
  show Instr.vidx (r5 (fld n 7 5)) ((VType.ofCode (fld n 12 3)).getD .pre) (BitVec.ofNat 3 (fld n 25 3)) = _
  rw [e0, e1, e2]

theorem vsplat (vd : BitVec 5) (rs1 : BitVec 5) (t : VType) (sc : BitVec 3) : Statement (.vsplat vd rs1 t sc) := by
  refine of_word rfl fun _ => ?_
  have hvd := vd.isLt
  have hrs1 := rs1.isLt
  have ht := t.code_lt
  have hsc := sc.isLt
  refine decode_fields (op := .vsplat) (m := 0x0B) (f7 := (13 * 8 + sc.toNat)) (b := 11) (a := rs1.toNat) (f3 := t.code) (d := vd.toNat) (q28 := 13) (q25 := sc.toNat)
    (rfl) (by decide) (by omega) (by decide) (by omega) (by omega) (by omega) (by omega) (by omega) (rfl) (rfl) (rfl) rfl
    (by cases t <;> rfl) fun n F => ?_
  have e0 : (r5 (fld n 7 5)) = vd := ofNat_of (F.p7.trans (by omega))
  have e1 : (r5 (fld n 15 5)) = rs1 := ofNat_of (F.p15.trans (by omega))
  have e2 : ((VType.ofCode (fld n 12 3)).getD .pre) = t := by rw [F.p12.trans (show _ = t.code by omega), VType.ofCode_code]; rfl
  have e3 : (BitVec.ofNat 3 (fld n 25 3)) = sc := ofNat_of (F.p25b.trans (by omega))
  show Instr.vsplat (r5 (fld n 7 5)) (r5 (fld n 15 5)) ((VType.ofCode (fld n 12 3)).getD .pre) (BitVec.ofNat 3 (fld n 25 3)) = _
  rw [e0, e1, e2, e3]

theorem vbcast (vd : BitVec 5) (vs1 : BitVec 5) (t : VType) (sc : BitVec 3) : Statement (.vbcast vd vs1 t sc) := by
  refine of_word rfl fun _ => ?_
  have hvd := vd.isLt
  have hvs1 := vs1.isLt
  have ht := t.code_lt
  have hsc := sc.isLt
  refine decode_fields (op := .vbcast) (m := 0x0B) (f7 := (13 * 8 + sc.toNat)) (b := 12) (a := vs1.toNat) (f3 := t.code) (d := vd.toNat) (q28 := 13) (q25 := sc.toNat)
    (rfl) (by decide) (by omega) (by decide) (by omega) (by omega) (by omega) (by omega) (by omega) (rfl) (rfl) (rfl) rfl
    (by cases t <;> rfl) fun n F => ?_
  have e0 : (r5 (fld n 7 5)) = vd := ofNat_of (F.p7.trans (by omega))
  have e1 : (r5 (fld n 15 5)) = vs1 := ofNat_of (F.p15.trans (by omega))
  have e2 : ((VType.ofCode (fld n 12 3)).getD .pre) = t := by rw [F.p12.trans (show _ = t.code by omega), VType.ofCode_code]; rfl
  have e3 : (BitVec.ofNat 3 (fld n 25 3)) = sc := ofNat_of (F.p25b.trans (by omega))
  show Instr.vbcast (r5 (fld n 7 5)) (r5 (fld n 15 5)) ((VType.ofCode (fld n 12 3)).getD .pre) (BitVec.ofNat 3 (fld n 25 3)) = _
  rw [e0, e1, e2, e3]

theorem vslideDn (vd : BitVec 5) (vs1 : BitVec 5) (k : BitVec 5) (w : VWidth) (sc : BitVec 3) : Statement (.vslideDn vd vs1 k w sc) := by
  refine of_word rfl fun _ => ?_
  have hvd := vd.isLt
  have hvs1 := vs1.isLt
  have hk := k.isLt
  have hw := w.code_lt
  have hsc := sc.isLt
  refine decode_fields (op := .vslideDn) (m := 0x0B) (f7 := (14 * 8 + sc.toNat)) (b := k.toNat) (a := vs1.toNat) (f3 := (w.code * 2)) (d := vd.toNat) (q28 := 14) (q25 := sc.toNat)
    (rfl) (by decide) (by omega) (by omega) (by omega) (by omega) (by omega) (by omega) (by omega) (rfl) (rfl) (rfl) rfl
    (by cases w <;> rfl) fun n F => ?_
  have e0 : (r5 (fld n 7 5)) = vd := ofNat_of (F.p7.trans (by omega))
  have e1 : (r5 (fld n 15 5)) = vs1 := ofNat_of (F.p15.trans (by omega))
  have e2 : (r5 (fld n 20 5)) = k := ofNat_of (F.p20.trans (by omega))
  have e3 : ((VWidth.ofCode (fld n 13 2)).getD .w32) = w := by rw [F.p13.trans (show _ = w.code by omega), VWidth.ofCode_code]; rfl
  have e4 : (BitVec.ofNat 3 (fld n 25 3)) = sc := ofNat_of (F.p25b.trans (by omega))
  show Instr.vslideDn (r5 (fld n 7 5)) (r5 (fld n 15 5)) (r5 (fld n 20 5)) ((VWidth.ofCode (fld n 13 2)).getD .w32) (BitVec.ofNat 3 (fld n 25 3)) = _
  rw [e0, e1, e2, e3, e4]

theorem vslideUp (vd : BitVec 5) (vs1 : BitVec 5) (k : BitVec 5) (w : VWidth) (sc : BitVec 3) : Statement (.vslideUp vd vs1 k w sc) := by
  refine of_word rfl fun _ => ?_
  have hvd := vd.isLt
  have hvs1 := vs1.isLt
  have hk := k.isLt
  have hw := w.code_lt
  have hsc := sc.isLt
  refine decode_fields (op := .vslideUp) (m := 0x0B) (f7 := (14 * 8 + sc.toNat)) (b := k.toNat) (a := vs1.toNat) (f3 := (w.code * 2 + 1)) (d := vd.toNat) (q28 := 14) (q25 := sc.toNat)
    (rfl) (by decide) (by omega) (by omega) (by omega) (by omega) (by omega) (by omega) (by omega) (rfl) (rfl) (rfl) rfl
    (by cases w <;> rfl) fun n F => ?_
  have e0 : (r5 (fld n 7 5)) = vd := ofNat_of (F.p7.trans (by omega))
  have e1 : (r5 (fld n 15 5)) = vs1 := ofNat_of (F.p15.trans (by omega))
  have e2 : (r5 (fld n 20 5)) = k := ofNat_of (F.p20.trans (by omega))
  have e3 : ((VWidth.ofCode (fld n 13 2)).getD .w32) = w := by rw [F.p13.trans (show _ = w.code by omega), VWidth.ofCode_code]; rfl
  have e4 : (BitVec.ofNat 3 (fld n 25 3)) = sc := ofNat_of (F.p25b.trans (by omega))
  show Instr.vslideUp (r5 (fld n 7 5)) (r5 (fld n 15 5)) (r5 (fld n 20 5)) ((VWidth.ofCode (fld n 13 2)).getD .w32) (BitVec.ofNat 3 (fld n 25 3)) = _
  rw [e0, e1, e2, e3, e4]

theorem vcvt (vd : BitVec 5) (vs1 : BitVec 5) (rm : CvRm) (sat : Bool) (amax : Bool) (sc : BitVec 3) : Statement (.vcvt vd vs1 rm sat amax sc) := by
  refine of_word rfl fun _ => ?_
  have hvd := vd.isLt
  have hvs1 := vs1.isLt
  have hrm := rm.code_lt
  have hsat : sat.toNat ≤ 1 := by cases sat <;> decide
  have hamax : amax.toNat ≤ 1 := by cases amax <;> decide
  have hsc := sc.isLt
  refine decode_fields (op := .vcvt) (m := 0x0B) (f7 := (15 * 8 + sc.toNat)) (b := (rm.code * 8 + sat.toNat * 4 + amax.toNat * 2)) (a := vs1.toNat) (f3 := 0) (d := vd.toNat) (q28 := 15) (q25 := sc.toNat)
    (rfl) (by decide) (by omega) (by omega) (by omega) (by decide) (by omega) (by omega) (by omega) (rfl) (rfl) (rfl) rfl
    (by cases rm <;> cases sat <;> cases amax <;> rfl) fun n F => ?_
  have e0 : (r5 (fld n 7 5)) = vd := ofNat_of (F.p7.trans (by omega))
  have e1 : (r5 (fld n 15 5)) = vs1 := ofNat_of (F.p15.trans (by omega))
  have e2 : ((CvRm.ofCode (fld n 23 2)).getD .rne) = rm := by rw [F.p23]; cases rm <;> cases sat <;> cases amax <;> rfl
  have e3 : (fld n 22 1 == 1) = sat := by rw [F.p22]; cases sat <;> cases amax <;> cases rm <;> rfl
  have e4 : (fld n 21 1 == 1) = amax := by rw [F.p21]; cases sat <;> cases amax <;> cases rm <;> rfl
  have e5 : (BitVec.ofNat 3 (fld n 25 3)) = sc := ofNat_of (F.p25b.trans (by omega))
  show Instr.vcvt (r5 (fld n 7 5)) (r5 (fld n 15 5)) ((CvRm.ofCode (fld n 23 2)).getD .rne) (fld n 22 1 == 1) (fld n 21 1 == 1) (BitVec.ofNat 3 (fld n 25 3)) = _
  rw [e0, e1, e2, e3, e4, e5]

theorem vquant (vd : BitVec 5) (vs1 : BitVec 5) (rm : CvRm) (sat : Bool) (amax : Bool) (sc : BitVec 3) : Statement (.vquant vd vs1 rm sat amax sc) := by
  refine of_word rfl fun _ => ?_
  have hvd := vd.isLt
  have hvs1 := vs1.isLt
  have hrm := rm.code_lt
  have hsat : sat.toNat ≤ 1 := by cases sat <;> decide
  have hamax : amax.toNat ≤ 1 := by cases amax <;> decide
  have hsc := sc.isLt
  refine decode_fields (op := .vquant) (m := 0x0B) (f7 := (15 * 8 + sc.toNat)) (b := (rm.code * 8 + sat.toNat * 4 + amax.toNat * 2)) (a := vs1.toNat) (f3 := 1) (d := vd.toNat) (q28 := 15) (q25 := sc.toNat)
    (rfl) (by decide) (by omega) (by omega) (by omega) (by decide) (by omega) (by omega) (by omega) (rfl) (rfl) (rfl) rfl
    (by cases rm <;> cases sat <;> cases amax <;> rfl) fun n F => ?_
  have e0 : (r5 (fld n 7 5)) = vd := ofNat_of (F.p7.trans (by omega))
  have e1 : (r5 (fld n 15 5)) = vs1 := ofNat_of (F.p15.trans (by omega))
  have e2 : ((CvRm.ofCode (fld n 23 2)).getD .rne) = rm := by rw [F.p23]; cases rm <;> cases sat <;> cases amax <;> rfl
  have e3 : (fld n 22 1 == 1) = sat := by rw [F.p22]; cases sat <;> cases amax <;> cases rm <;> rfl
  have e4 : (fld n 21 1 == 1) = amax := by rw [F.p21]; cases sat <;> cases amax <;> cases rm <;> rfl
  have e5 : (BitVec.ofNat 3 (fld n 25 3)) = sc := ofNat_of (F.p25b.trans (by omega))
  show Instr.vquant (r5 (fld n 7 5)) (r5 (fld n 15 5)) ((CvRm.ofCode (fld n 23 2)).getD .rne) (fld n 22 1 == 1) (fld n 21 1 == 1) (BitVec.ofNat 3 (fld n 25 3)) = _
  rw [e0, e1, e2, e3, e4, e5]

theorem vdeq (vd : BitVec 5) (vs1 : BitVec 5) (rm : CvRm) (sat : Bool) (amax : Bool) (sc : BitVec 3) : Statement (.vdeq vd vs1 rm sat amax sc) := by
  refine of_word rfl fun _ => ?_
  have hvd := vd.isLt
  have hvs1 := vs1.isLt
  have hrm := rm.code_lt
  have hsat : sat.toNat ≤ 1 := by cases sat <;> decide
  have hamax : amax.toNat ≤ 1 := by cases amax <;> decide
  have hsc := sc.isLt
  refine decode_fields (op := .vdeq) (m := 0x0B) (f7 := (15 * 8 + sc.toNat)) (b := (rm.code * 8 + sat.toNat * 4 + amax.toNat * 2)) (a := vs1.toNat) (f3 := 2) (d := vd.toNat) (q28 := 15) (q25 := sc.toNat)
    (rfl) (by decide) (by omega) (by omega) (by omega) (by decide) (by omega) (by omega) (by omega) (rfl) (rfl) (rfl) rfl
    (by cases rm <;> cases sat <;> cases amax <;> rfl) fun n F => ?_
  have e0 : (r5 (fld n 7 5)) = vd := ofNat_of (F.p7.trans (by omega))
  have e1 : (r5 (fld n 15 5)) = vs1 := ofNat_of (F.p15.trans (by omega))
  have e2 : ((CvRm.ofCode (fld n 23 2)).getD .rne) = rm := by rw [F.p23]; cases rm <;> cases sat <;> cases amax <;> rfl
  have e3 : (fld n 22 1 == 1) = sat := by rw [F.p22]; cases sat <;> cases amax <;> cases rm <;> rfl
  have e4 : (fld n 21 1 == 1) = amax := by rw [F.p21]; cases sat <;> cases amax <;> cases rm <;> rfl
  have e5 : (BitVec.ofNat 3 (fld n 25 3)) = sc := ofNat_of (F.p25b.trans (by omega))
  show Instr.vdeq (r5 (fld n 7 5)) (r5 (fld n 15 5)) ((CvRm.ofCode (fld n 23 2)).getD .rne) (fld n 22 1 == 1) (fld n 21 1 == 1) (BitVec.ofNat 3 (fld n 25 3)) = _
  rw [e0, e1, e2, e3, e4, e5]

theorem tbld (vs1 : BitVec 5) (sc : BitVec 3) : Statement (.tbld vs1 sc) := by
  refine of_word rfl fun _ => ?_
  have hvs1 := vs1.isLt
  have hsc := sc.isLt
  refine decode_fields (op := .tbld) (m := 0x0B) (f7 := (15 * 8 + sc.toNat)) (b := 0) (a := vs1.toNat) (f3 := 3) (d := 0) (q28 := 15) (q25 := sc.toNat)
    (rfl) (by decide) (by omega) (by decide) (by omega) (by decide) (by decide) (by omega) (by omega) (rfl) (rfl) (rfl) rfl
    (rfl) fun n F => ?_
  have e0 : (r5 (fld n 15 5)) = vs1 := ofNat_of (F.p15.trans (by omega))
  have e1 : (BitVec.ofNat 3 (fld n 25 3)) = sc := ofNat_of (F.p25b.trans (by omega))
  show Instr.tbld (r5 (fld n 15 5)) (BitVec.ofNat 3 (fld n 25 3)) = _
  rw [e0, e1]

theorem cbld (rs1 : BitVec 5) : Statement (.cbld rs1) := by
  refine of_word rfl fun _ => ?_
  have hrs1 := rs1.isLt
  refine decode_fields (op := .cbld) (m := 0x0B) (f7 := (15 * 8 + 0)) (b := 0) (a := rs1.toNat) (f3 := 4) (d := 0) (q28 := 15) (q25 := 0)
    (rfl) (by decide) (by omega) (by decide) (by omega) (by decide) (by decide) (by omega) (by omega) (rfl) (rfl) (rfl) rfl
    (rfl) fun n F => ?_
  have e0 : (r5 (fld n 15 5)) = rs1 := ofNat_of (F.p15.trans (by omega))
  show Instr.cbld (r5 (fld n 15 5)) = _
  rw [e0]

theorem srseed (rs1 : BitVec 5) : Statement (.srseed rs1) := by
  refine of_word rfl fun _ => ?_
  have hrs1 := rs1.isLt
  refine decode_fields (op := .srseed) (m := 0x0B) (f7 := (15 * 8 + 0)) (b := 0) (a := rs1.toNat) (f3 := 5) (d := 0) (q28 := 15) (q25 := 0)
    (rfl) (by decide) (by omega) (by decide) (by omega) (by decide) (by decide) (by omega) (by omega) (rfl) (rfl) (rfl) rfl
    (rfl) fun n F => ?_
  have e0 : (r5 (fld n 15 5)) = rs1 := ofNat_of (F.p15.trans (by omega))
  show Instr.srseed (r5 (fld n 15 5)) = _
  rw [e0]

theorem vld (vd : BitVec 5) (rs1 : BitVec 5) (rs2 : BitVec 5) (mk : BitVec 3) (w : VWidth) : Statement (.vld vd rs1 rs2 mk w) := by
  refine of_word rfl fun _ => ?_
  have hvd := vd.isLt
  have hrs1 := rs1.isLt
  have hrs2 := rs2.isLt
  have hmk := mk.isLt
  have hw := w.code_lt
  refine decode_fields (op := .vld) (m := 0x2B) (f7 := (0 * 8 + mk.toNat)) (b := rs2.toNat) (a := rs1.toNat) (f3 := w.code) (d := vd.toNat) (q28 := 0) (q25 := mk.toNat)
    (rfl) (by decide) (by omega) (by omega) (by omega) (by omega) (by omega) (by omega) (by omega) (rfl) (rfl) (rfl) rfl
    (by cases w <;> rfl) fun n F => ?_
  have e0 : (r5 (fld n 7 5)) = vd := ofNat_of (F.p7.trans (by omega))
  have e1 : (r5 (fld n 15 5)) = rs1 := ofNat_of (F.p15.trans (by omega))
  have e2 : (r5 (fld n 20 5)) = rs2 := ofNat_of (F.p20.trans (by omega))
  have e3 : (BitVec.ofNat 3 (fld n 25 3)) = mk := ofNat_of (F.p25b.trans (by omega))
  have e4 : ((VWidth.ofCode (fld n 12 2)).getD .w32) = w := by rw [F.p12b.trans (show _ = w.code by omega), VWidth.ofCode_code]; rfl
  show Instr.vld (r5 (fld n 7 5)) (r5 (fld n 15 5)) (r5 (fld n 20 5)) (BitVec.ofNat 3 (fld n 25 3)) ((VWidth.ofCode (fld n 12 2)).getD .w32) = _
  rw [e0, e1, e2, e3, e4]

theorem vst (vs3 : BitVec 5) (rs1 : BitVec 5) (rs2 : BitVec 5) (mk : BitVec 3) (w : VWidth) : Statement (.vst vs3 rs1 rs2 mk w) := by
  refine of_word rfl fun _ => ?_
  have hvs3 := vs3.isLt
  have hrs1 := rs1.isLt
  have hrs2 := rs2.isLt
  have hmk := mk.isLt
  have hw := w.code_lt
  refine decode_fields (op := .vst) (m := 0x2B) (f7 := (1 * 8 + mk.toNat)) (b := rs2.toNat) (a := rs1.toNat) (f3 := w.code) (d := vs3.toNat) (q28 := 1) (q25 := mk.toNat)
    (rfl) (by decide) (by omega) (by omega) (by omega) (by omega) (by omega) (by omega) (by omega) (rfl) (rfl) (rfl) rfl
    (by cases w <;> rfl) fun n F => ?_
  have e0 : (r5 (fld n 7 5)) = vs3 := ofNat_of (F.p7.trans (by omega))
  have e1 : (r5 (fld n 15 5)) = rs1 := ofNat_of (F.p15.trans (by omega))
  have e2 : (r5 (fld n 20 5)) = rs2 := ofNat_of (F.p20.trans (by omega))
  have e3 : (BitVec.ofNat 3 (fld n 25 3)) = mk := ofNat_of (F.p25b.trans (by omega))
  have e4 : ((VWidth.ofCode (fld n 12 2)).getD .w32) = w := by rw [F.p12b.trans (show _ = w.code by omega), VWidth.ofCode_code]; rfl
  show Instr.vst (r5 (fld n 7 5)) (r5 (fld n 15 5)) (r5 (fld n 20 5)) (BitVec.ofNat 3 (fld n 25 3)) ((VWidth.ofCode (fld n 12 2)).getD .w32) = _
  rw [e0, e1, e2, e3, e4]

theorem vlds (vd : BitVec 5) (rs1 : BitVec 5) (rs2 : BitVec 5) (mk : BitVec 3) (w : VWidth) : Statement (.vlds vd rs1 rs2 mk w) := by
  refine of_word rfl fun _ => ?_
  have hvd := vd.isLt
  have hrs1 := rs1.isLt
  have hrs2 := rs2.isLt
  have hmk := mk.isLt
  have hw := w.code_lt
  refine decode_fields (op := .vlds) (m := 0x2B) (f7 := (2 * 8 + mk.toNat)) (b := rs2.toNat) (a := rs1.toNat) (f3 := w.code) (d := vd.toNat) (q28 := 2) (q25 := mk.toNat)
    (rfl) (by decide) (by omega) (by omega) (by omega) (by omega) (by omega) (by omega) (by omega) (rfl) (rfl) (rfl) rfl
    (by cases w <;> rfl) fun n F => ?_
  have e0 : (r5 (fld n 7 5)) = vd := ofNat_of (F.p7.trans (by omega))
  have e1 : (r5 (fld n 15 5)) = rs1 := ofNat_of (F.p15.trans (by omega))
  have e2 : (r5 (fld n 20 5)) = rs2 := ofNat_of (F.p20.trans (by omega))
  have e3 : (BitVec.ofNat 3 (fld n 25 3)) = mk := ofNat_of (F.p25b.trans (by omega))
  have e4 : ((VWidth.ofCode (fld n 12 2)).getD .w32) = w := by rw [F.p12b.trans (show _ = w.code by omega), VWidth.ofCode_code]; rfl
  show Instr.vlds (r5 (fld n 7 5)) (r5 (fld n 15 5)) (r5 (fld n 20 5)) (BitVec.ofNat 3 (fld n 25 3)) ((VWidth.ofCode (fld n 12 2)).getD .w32) = _
  rw [e0, e1, e2, e3, e4]

theorem vsts (vs3 : BitVec 5) (rs1 : BitVec 5) (rs2 : BitVec 5) (mk : BitVec 3) (w : VWidth) : Statement (.vsts vs3 rs1 rs2 mk w) := by
  refine of_word rfl fun _ => ?_
  have hvs3 := vs3.isLt
  have hrs1 := rs1.isLt
  have hrs2 := rs2.isLt
  have hmk := mk.isLt
  have hw := w.code_lt
  refine decode_fields (op := .vsts) (m := 0x2B) (f7 := (3 * 8 + mk.toNat)) (b := rs2.toNat) (a := rs1.toNat) (f3 := w.code) (d := vs3.toNat) (q28 := 3) (q25 := mk.toNat)
    (rfl) (by decide) (by omega) (by omega) (by omega) (by omega) (by omega) (by omega) (by omega) (rfl) (rfl) (rfl) rfl
    (by cases w <;> rfl) fun n F => ?_
  have e0 : (r5 (fld n 7 5)) = vs3 := ofNat_of (F.p7.trans (by omega))
  have e1 : (r5 (fld n 15 5)) = rs1 := ofNat_of (F.p15.trans (by omega))
  have e2 : (r5 (fld n 20 5)) = rs2 := ofNat_of (F.p20.trans (by omega))
  have e3 : (BitVec.ofNat 3 (fld n 25 3)) = mk := ofNat_of (F.p25b.trans (by omega))
  have e4 : ((VWidth.ofCode (fld n 12 2)).getD .w32) = w := by rw [F.p12b.trans (show _ = w.code by omega), VWidth.ofCode_code]; rfl
  show Instr.vsts (r5 (fld n 7 5)) (r5 (fld n 15 5)) (r5 (fld n 20 5)) (BitVec.ofNat 3 (fld n 25 3)) ((VWidth.ofCode (fld n 12 2)).getD .w32) = _
  rw [e0, e1, e2, e3, e4]

theorem sbindSrc (v : BitVec 3) (rs1 : BitVec 5) : Statement (.sbindSrc v rs1) := by
  refine of_word rfl fun _ => ?_
  have hv := v.isLt
  have hrs1 := rs1.isLt
  refine decode_fields (op := .sbindSrc) (m := 0x2B) (f7 := (4 * 8 + 0)) (b := 0) (a := rs1.toNat) (f3 := 0) (d := (24 + v.toNat)) (q28 := 4) (q25 := 0)
    (rfl) (by decide) (by omega) (by decide) (by omega) (by decide) (by omega) (by omega) (by omega) (rfl) (rfl) (rfl) rfl
    (by unfold majorF decCustom1; rw [show (24 + v.toNat) / 8 = 3 by omega]; rfl) fun n F => ?_
  have e0 : (BitVec.ofNat 3 (fld n 7 3)) = v := ofNat_of (F.p7b.trans (by omega))
  have e1 : (r5 (fld n 15 5)) = rs1 := ofNat_of (F.p15.trans (by omega))
  show Instr.sbindSrc (BitVec.ofNat 3 (fld n 7 3)) (r5 (fld n 15 5)) = _
  rw [e0, e1]

theorem sbindDst (v : BitVec 3) (rs1 : BitVec 5) : Statement (.sbindDst v rs1) := by
  refine of_word rfl fun _ => ?_
  have hv := v.isLt
  have hrs1 := rs1.isLt
  refine decode_fields (op := .sbindDst) (m := 0x2B) (f7 := (4 * 8 + 0)) (b := 0) (a := rs1.toNat) (f3 := 1) (d := (24 + v.toNat)) (q28 := 4) (q25 := 0)
    (rfl) (by decide) (by omega) (by decide) (by omega) (by decide) (by omega) (by omega) (by omega) (rfl) (rfl) (rfl) rfl
    (by unfold majorF decCustom1; rw [show (24 + v.toNat) / 8 = 3 by omega]; rfl) fun n F => ?_
  have e0 : (BitVec.ofNat 3 (fld n 7 3)) = v := ofNat_of (F.p7b.trans (by omega))
  have e1 : (r5 (fld n 15 5)) = rs1 := ofNat_of (F.p15.trans (by omega))
  show Instr.sbindDst (BitVec.ofNat 3 (fld n 7 3)) (r5 (fld n 15 5)) = _
  rw [e0, e1]

theorem sunbind (v : BitVec 3) : Statement (.sunbind v) := by
  refine of_word rfl fun _ => ?_
  have hv := v.isLt
  refine decode_fields (op := .sunbind) (m := 0x2B) (f7 := (5 * 8 + 0)) (b := 0) (a := 0) (f3 := 0) (d := (24 + v.toNat)) (q28 := 5) (q25 := 0)
    (rfl) (by decide) (by omega) (by decide) (by decide) (by decide) (by omega) (by omega) (by omega) (rfl) (rfl) (rfl) rfl
    (by unfold majorF decCustom1; rw [show (24 + v.toNat) / 8 = 3 by omega]; rfl) fun n F => ?_
  have e0 : (BitVec.ofNat 3 (fld n 7 3)) = v := ofNat_of (F.p7b.trans (by omega))
  show Instr.sunbind (BitVec.ofNat 3 (fld n 7 3)) = _
  rw [e0]

theorem vsel (vd : BitVec 5) (vs1 : BitVec 5) (vs2 : BitVec 5) (mk : BitVec 3) (w : VWidth) : Statement (.vsel vd vs1 vs2 mk w) := by
  refine of_word rfl fun _ => ?_
  have hvd := vd.isLt
  have hvs1 := vs1.isLt
  have hvs2 := vs2.isLt
  have hmk := mk.isLt
  have hw := w.code_lt
  refine decode_fields (op := .vsel) (m := 0x2B) (f7 := (6 * 8 + mk.toNat)) (b := vs2.toNat) (a := vs1.toNat) (f3 := w.code) (d := vd.toNat) (q28 := 6) (q25 := mk.toNat)
    (rfl) (by decide) (by omega) (by omega) (by omega) (by omega) (by omega) (by omega) (by omega) (rfl) (rfl) (rfl) rfl
    (by cases w <;> rfl) fun n F => ?_
  have e0 : (r5 (fld n 7 5)) = vd := ofNat_of (F.p7.trans (by omega))
  have e1 : (r5 (fld n 15 5)) = vs1 := ofNat_of (F.p15.trans (by omega))
  have e2 : (r5 (fld n 20 5)) = vs2 := ofNat_of (F.p20.trans (by omega))
  have e3 : (BitVec.ofNat 3 (fld n 25 3)) = mk := ofNat_of (F.p25b.trans (by omega))
  have e4 : ((VWidth.ofCode (fld n 12 2)).getD .w32) = w := by rw [F.p12b.trans (show _ = w.code by omega), VWidth.ofCode_code]; rfl
  show Instr.vsel (r5 (fld n 7 5)) (r5 (fld n 15 5)) (r5 (fld n 20 5)) (BitVec.ofNat 3 (fld n 25 3)) ((VWidth.ofCode (fld n 12 2)).getD .w32) = _
  rw [e0, e1, e2, e3, e4]

theorem mand (md : BitVec 3) (ms1 : BitVec 3) (ms2 : BitVec 3) : Statement (.mand md ms1 ms2) := by
  refine of_word rfl fun _ => ?_
  have hmd := md.isLt
  have hms1 := ms1.isLt
  have hms2 := ms2.isLt
  refine decode_fields (op := .mand) (m := 0x2B) (f7 := (7 * 8 + 0)) (b := ms2.toNat) (a := ms1.toNat) (f3 := 0) (d := md.toNat) (q28 := 7) (q25 := 0)
    (rfl) (by decide) (by omega) (by omega) (by omega) (by decide) (by omega) (by omega) (by omega) (rfl) (rfl) (rfl) rfl
    (by unfold majorF decCustom1; rw [div8_lt8, div8_lt8, div8_lt8]; rfl) fun n F => ?_
  have e0 : (BitVec.ofNat 3 (fld n 7 3)) = md := ofNat_of (F.p7b.trans (by omega))
  have e1 : (BitVec.ofNat 3 (fld n 15 3)) = ms1 := ofNat_of (F.p15b.trans (by omega))
  have e2 : (BitVec.ofNat 3 (fld n 20 3)) = ms2 := ofNat_of (F.p20d.trans (by omega))
  show Instr.mand (BitVec.ofNat 3 (fld n 7 3)) (BitVec.ofNat 3 (fld n 15 3)) (BitVec.ofNat 3 (fld n 20 3)) = _
  rw [e0, e1, e2]

theorem mor (md : BitVec 3) (ms1 : BitVec 3) (ms2 : BitVec 3) : Statement (.mor md ms1 ms2) := by
  refine of_word rfl fun _ => ?_
  have hmd := md.isLt
  have hms1 := ms1.isLt
  have hms2 := ms2.isLt
  refine decode_fields (op := .mor) (m := 0x2B) (f7 := (7 * 8 + 0)) (b := ms2.toNat) (a := ms1.toNat) (f3 := 1) (d := md.toNat) (q28 := 7) (q25 := 0)
    (rfl) (by decide) (by omega) (by omega) (by omega) (by decide) (by omega) (by omega) (by omega) (rfl) (rfl) (rfl) rfl
    (by unfold majorF decCustom1; rw [div8_lt8, div8_lt8, div8_lt8]; rfl) fun n F => ?_
  have e0 : (BitVec.ofNat 3 (fld n 7 3)) = md := ofNat_of (F.p7b.trans (by omega))
  have e1 : (BitVec.ofNat 3 (fld n 15 3)) = ms1 := ofNat_of (F.p15b.trans (by omega))
  have e2 : (BitVec.ofNat 3 (fld n 20 3)) = ms2 := ofNat_of (F.p20d.trans (by omega))
  show Instr.mor (BitVec.ofNat 3 (fld n 7 3)) (BitVec.ofNat 3 (fld n 15 3)) (BitVec.ofNat 3 (fld n 20 3)) = _
  rw [e0, e1, e2]

theorem mxor (md : BitVec 3) (ms1 : BitVec 3) (ms2 : BitVec 3) : Statement (.mxor md ms1 ms2) := by
  refine of_word rfl fun _ => ?_
  have hmd := md.isLt
  have hms1 := ms1.isLt
  have hms2 := ms2.isLt
  refine decode_fields (op := .mxor) (m := 0x2B) (f7 := (7 * 8 + 0)) (b := ms2.toNat) (a := ms1.toNat) (f3 := 2) (d := md.toNat) (q28 := 7) (q25 := 0)
    (rfl) (by decide) (by omega) (by omega) (by omega) (by decide) (by omega) (by omega) (by omega) (rfl) (rfl) (rfl) rfl
    (by unfold majorF decCustom1; rw [div8_lt8, div8_lt8, div8_lt8]; rfl) fun n F => ?_
  have e0 : (BitVec.ofNat 3 (fld n 7 3)) = md := ofNat_of (F.p7b.trans (by omega))
  have e1 : (BitVec.ofNat 3 (fld n 15 3)) = ms1 := ofNat_of (F.p15b.trans (by omega))
  have e2 : (BitVec.ofNat 3 (fld n 20 3)) = ms2 := ofNat_of (F.p20d.trans (by omega))
  show Instr.mxor (BitVec.ofNat 3 (fld n 7 3)) (BitVec.ofNat 3 (fld n 15 3)) (BitVec.ofNat 3 (fld n 20 3)) = _
  rw [e0, e1, e2]

theorem mnot (md : BitVec 3) (ms1 : BitVec 3) : Statement (.mnot md ms1) := by
  refine of_word rfl fun _ => ?_
  have hmd := md.isLt
  have hms1 := ms1.isLt
  refine decode_fields (op := .mnot) (m := 0x2B) (f7 := (7 * 8 + 0)) (b := 0) (a := ms1.toNat) (f3 := 3) (d := md.toNat) (q28 := 7) (q25 := 0)
    (rfl) (by decide) (by omega) (by decide) (by omega) (by decide) (by omega) (by omega) (by omega) (rfl) (rfl) (rfl) rfl
    (by unfold majorF decCustom1; rw [div8_lt8, div8_lt8]; rfl) fun n F => ?_
  have e0 : (BitVec.ofNat 3 (fld n 7 3)) = md := ofNat_of (F.p7b.trans (by omega))
  have e1 : (BitVec.ofNat 3 (fld n 15 3)) = ms1 := ofNat_of (F.p15b.trans (by omega))
  show Instr.mnot (BitVec.ofNat 3 (fld n 7 3)) (BitVec.ofNat 3 (fld n 15 3)) = _
  rw [e0, e1]

theorem mpop (rd : BitVec 5) (ms1 : BitVec 3) : Statement (.mpop rd ms1) := by
  refine of_word rfl fun _ => ?_
  have hrd := rd.isLt
  have hms1 := ms1.isLt
  refine decode_fields (op := .mpop) (m := 0x2B) (f7 := (7 * 8 + 0)) (b := 0) (a := ms1.toNat) (f3 := 4) (d := rd.toNat) (q28 := 7) (q25 := 0)
    (rfl) (by decide) (by omega) (by decide) (by omega) (by decide) (by omega) (by omega) (by omega) (rfl) (rfl) (rfl) rfl
    (by unfold majorF decCustom1; rw [div8_lt8]; rfl) fun n F => ?_
  have e0 : (r5 (fld n 7 5)) = rd := ofNat_of (F.p7.trans (by omega))
  have e1 : (BitVec.ofNat 3 (fld n 15 3)) = ms1 := ofNat_of (F.p15b.trans (by omega))
  show Instr.mpop (r5 (fld n 7 5)) (BitVec.ofNat 3 (fld n 15 3)) = _
  rw [e0, e1]

theorem vloop (rs1 : BitVec 5) (len : BitVec 4) : Statement (.vloop rs1 len) := by
  refine of_word rfl fun _ => ?_
  have hrs1 := rs1.isLt
  have hlen := len.isLt
  refine decode_fields (op := .vloop) (m := 0x2B) (f7 := (8 * 8 + 0)) (b := len.toNat) (a := rs1.toNat) (f3 := 0) (d := 0) (q28 := 8) (q25 := 0)
    (rfl) (by decide) (by omega) (by omega) (by omega) (by decide) (by decide) (by omega) (by omega) (rfl) (rfl) (rfl) rfl
    (by unfold majorF decCustom1; rw [show len.toNat / 16 = 0 by omega]; rfl) fun n F => ?_
  have e0 : (r5 (fld n 15 5)) = rs1 := ofNat_of (F.p15.trans (by omega))
  have e1 : (BitVec.ofNat 4 (fld n 20 4)) = len := ofNat_of (F.p20c.trans (by omega))
  show Instr.vloop (r5 (fld n 15 5)) (BitVec.ofNat 4 (fld n 20 4)) = _
  rw [e0, e1]

theorem bqput (rs1 : BitVec 5) : Statement (.bqput rs1) := by
  refine of_word rfl fun _ => ?_
  have hrs1 := rs1.isLt
  refine decode_fields (op := .bqput) (m := 0x2B) (f7 := (9 * 8 + 0)) (b := 0) (a := rs1.toNat) (f3 := 0) (d := 0) (q28 := 9) (q25 := 0)
    (rfl) (by decide) (by omega) (by decide) (by omega) (by decide) (by decide) (by omega) (by omega) (rfl) (rfl) (rfl) rfl
    (rfl) fun n F => ?_
  have e0 : (r5 (fld n 15 5)) = rs1 := ofNat_of (F.p15.trans (by omega))
  show Instr.bqput (r5 (fld n 15 5)) = _
  rw [e0]

theorem bqget (rd : BitVec 5) : Statement (.bqget rd) := by
  refine of_word rfl fun _ => ?_
  have hrd := rd.isLt
  refine decode_fields (op := .bqget) (m := 0x2B) (f7 := (10 * 8 + 0)) (b := 0) (a := 0) (f3 := 0) (d := rd.toNat) (q28 := 10) (q25 := 0)
    (rfl) (by decide) (by omega) (by decide) (by decide) (by decide) (by omega) (by omega) (by omega) (rfl) (rfl) (rfl) rfl
    (rfl) fun n F => ?_
  have e0 : (r5 (fld n 7 5)) = rd := ofNat_of (F.p7.trans (by omega))
  show Instr.bqget (r5 (fld n 7 5)) = _
  rw [e0]

theorem ldFeKeep (rd : BitVec 5) (rs1 : BitVec 5) : Statement (.ldFeKeep rd rs1) := by
  refine of_word rfl fun _ => ?_
  have hrd := rd.isLt
  have hrs1 := rs1.isLt
  refine decode_fields (op := .ldFeKeep) (m := 0x5B) (f7 := 0) (b := 0) (a := rs1.toNat) (f3 := 0) (d := rd.toNat)
    (rfl) (by decide) (by decide) (by decide) (by omega) (by decide) (by omega) (rfl) (rfl) (rfl) (rfl) (rfl) rfl
    (rfl) fun n F => ?_
  have e0 : (r5 (fld n 7 5)) = rd := ofNat_of (F.p7.trans (by omega))
  have e1 : (r5 (fld n 15 5)) = rs1 := ofNat_of (F.p15.trans (by omega))
  show Instr.ldFeKeep (r5 (fld n 7 5)) (r5 (fld n 15 5)) = _
  rw [e0, e1]

theorem ldFeClr (rd : BitVec 5) (rs1 : BitVec 5) : Statement (.ldFeClr rd rs1) := by
  refine of_word rfl fun _ => ?_
  have hrd := rd.isLt
  have hrs1 := rs1.isLt
  refine decode_fields (op := .ldFeClr) (m := 0x5B) (f7 := 1) (b := 0) (a := rs1.toNat) (f3 := 0) (d := rd.toNat)
    (rfl) (by decide) (by decide) (by decide) (by omega) (by decide) (by omega) (rfl) (rfl) (rfl) (rfl) (rfl) rfl
    (rfl) fun n F => ?_
  have e0 : (r5 (fld n 7 5)) = rd := ofNat_of (F.p7.trans (by omega))
  have e1 : (r5 (fld n 15 5)) = rs1 := ofNat_of (F.p15.trans (by omega))
  show Instr.ldFeClr (r5 (fld n 7 5)) (r5 (fld n 15 5)) = _
  rw [e0, e1]

theorem stFe (rs1 : BitVec 5) (rs2 : BitVec 5) : Statement (.stFe rs1 rs2) := by
  refine of_word rfl fun _ => ?_
  have hrs1 := rs1.isLt
  have hrs2 := rs2.isLt
  refine decode_fields (op := .stFe) (m := 0x5B) (f7 := 2) (b := rs2.toNat) (a := rs1.toNat) (f3 := 0) (d := 0)
    (rfl) (by decide) (by decide) (by omega) (by omega) (by decide) (by decide) (rfl) (rfl) (rfl) (rfl) (rfl) rfl
    (rfl) fun n F => ?_
  have e0 : (r5 (fld n 15 5)) = rs1 := ofNat_of (F.p15.trans (by omega))
  have e1 : (r5 (fld n 20 5)) = rs2 := ofNat_of (F.p20.trans (by omega))
  show Instr.stFe (r5 (fld n 15 5)) (r5 (fld n 20 5)) = _
  rw [e0, e1]

theorem fesetEmpty (rs1 : BitVec 5) : Statement (.fesetEmpty rs1) := by
  refine of_word rfl fun _ => ?_
  have hrs1 := rs1.isLt
  refine decode_fields (op := .fesetEmpty) (m := 0x5B) (f7 := 3) (b := 0) (a := rs1.toNat) (f3 := 0) (d := 0)
    (rfl) (by decide) (by decide) (by decide) (by omega) (by decide) (by decide) (rfl) (rfl) (rfl) (rfl) (rfl) rfl
    (rfl) fun n F => ?_
  have e0 : (r5 (fld n 15 5)) = rs1 := ofNat_of (F.p15.trans (by omega))
  show Instr.fesetEmpty (r5 (fld n 15 5)) = _
  rw [e0]

theorem fesetFull (rs1 : BitVec 5) : Statement (.fesetFull rs1) := by
  refine of_word rfl fun _ => ?_
  have hrs1 := rs1.isLt
  refine decode_fields (op := .fesetFull) (m := 0x5B) (f7 := 4) (b := 0) (a := rs1.toNat) (f3 := 0) (d := 0)
    (rfl) (by decide) (by decide) (by decide) (by omega) (by decide) (by decide) (rfl) (rfl) (rfl) (rfl) (rfl) rfl
    (rfl) fun n F => ?_
  have e0 : (r5 (fld n 15 5)) = rs1 := ofNat_of (F.p15.trans (by omega))
  show Instr.fesetFull (r5 (fld n 15 5)) = _
  rw [e0]

theorem feqry (rd : BitVec 5) (rs1 : BitVec 5) : Statement (.feqry rd rs1) := by
  refine of_word rfl fun _ => ?_
  have hrd := rd.isLt
  have hrs1 := rs1.isLt
  refine decode_fields (op := .feqry) (m := 0x5B) (f7 := 5) (b := 0) (a := rs1.toNat) (f3 := 0) (d := rd.toNat)
    (rfl) (by decide) (by decide) (by decide) (by omega) (by decide) (by omega) (rfl) (rfl) (rfl) (rfl) (rfl) rfl
    (rfl) fun n F => ?_
  have e0 : (r5 (fld n 7 5)) = rd := ofNat_of (F.p7.trans (by omega))
  have e1 : (r5 (fld n 15 5)) = rs1 := ofNat_of (F.p15.trans (by omega))
  show Instr.feqry (r5 (fld n 7 5)) (r5 (fld n 15 5)) = _
  rw [e0, e1]

theorem gathA (vd : BitVec 5) (va : BitVec 4) : Statement (.gathA vd va) := by
  refine of_word rfl fun _ => ?_
  have hvd := vd.isLt
  have hva := va.isLt
  refine decode_fields (op := .gathA) (m := 0x5B) (f7 := 8) (b := 0) (a := (va.toNat * 2)) (f3 := 0) (d := vd.toNat)
    (rfl) (by decide) (by decide) (by decide) (by omega) (by decide) (by omega) (rfl) (rfl) (rfl) (rfl) (rfl) rfl
    (by unfold majorF decCustom2 decMem; rw [show va.toNat * 2 % 2 = 0 by omega]; rfl) fun n F => ?_
  have e0 : (r5 (fld n 7 5)) = vd := ofNat_of (F.p7.trans (by omega))
  have e1 : (BitVec.ofNat 4 (fld n 16 4)) = va := ofNat_of (F.p16.trans (by omega))
  show Instr.gathA (r5 (fld n 7 5)) (BitVec.ofNat 4 (fld n 16 4)) = _
  rw [e0, e1]

theorem gathX (vd : BitVec 5) (rs1 : BitVec 5) (vs2 : BitVec 5) : Statement (.gathX vd rs1 vs2) := by
  refine of_word rfl fun _ => ?_
  have hvd := vd.isLt
  have hrs1 := rs1.isLt
  have hvs2 := vs2.isLt
  refine decode_fields (op := .gathX) (m := 0x5B) (f7 := 9) (b := vs2.toNat) (a := rs1.toNat) (f3 := 0) (d := vd.toNat)
    (rfl) (by decide) (by decide) (by omega) (by omega) (by decide) (by omega) (rfl) (rfl) (rfl) (rfl) (rfl) rfl
    (rfl) fun n F => ?_
  have e0 : (r5 (fld n 7 5)) = vd := ofNat_of (F.p7.trans (by omega))
  have e1 : (r5 (fld n 15 5)) = rs1 := ofNat_of (F.p15.trans (by omega))
  have e2 : (r5 (fld n 20 5)) = vs2 := ofNat_of (F.p20.trans (by omega))
  show Instr.gathX (r5 (fld n 7 5)) (r5 (fld n 15 5)) (r5 (fld n 20 5)) = _
  rw [e0, e1, e2]

theorem scatA (vs3 : BitVec 5) (va : BitVec 4) : Statement (.scatA vs3 va) := by
  refine of_word rfl fun _ => ?_
  have hvs3 := vs3.isLt
  have hva := va.isLt
  refine decode_fields (op := .scatA) (m := 0x5B) (f7 := 0xA) (b := 0) (a := (va.toNat * 2)) (f3 := 0) (d := vs3.toNat)
    (rfl) (by decide) (by decide) (by decide) (by omega) (by decide) (by omega) (rfl) (rfl) (rfl) (rfl) (rfl) rfl
    (by unfold majorF decCustom2 decMem; rw [show va.toNat * 2 % 2 = 0 by omega]; rfl) fun n F => ?_
  have e0 : (r5 (fld n 7 5)) = vs3 := ofNat_of (F.p7.trans (by omega))
  have e1 : (BitVec.ofNat 4 (fld n 16 4)) = va := ofNat_of (F.p16.trans (by omega))
  show Instr.scatA (r5 (fld n 7 5)) (BitVec.ofNat 4 (fld n 16 4)) = _
  rw [e0, e1]

theorem scatX (vs3 : BitVec 5) (rs1 : BitVec 5) (vs2 : BitVec 5) : Statement (.scatX vs3 rs1 vs2) := by
  refine of_word rfl fun _ => ?_
  have hvs3 := vs3.isLt
  have hrs1 := rs1.isLt
  have hvs2 := vs2.isLt
  refine decode_fields (op := .scatX) (m := 0x5B) (f7 := 0xB) (b := vs2.toNat) (a := rs1.toNat) (f3 := 0) (d := vs3.toNat)
    (rfl) (by decide) (by decide) (by omega) (by omega) (by decide) (by omega) (rfl) (rfl) (rfl) (rfl) (rfl) rfl
    (rfl) fun n F => ?_
  have e0 : (r5 (fld n 7 5)) = vs3 := ofNat_of (F.p7.trans (by omega))
  have e1 : (r5 (fld n 15 5)) = rs1 := ofNat_of (F.p15.trans (by omega))
  have e2 : (r5 (fld n 20 5)) = vs2 := ofNat_of (F.p20.trans (by omega))
  show Instr.scatX (r5 (fld n 7 5)) (r5 (fld n 15 5)) (r5 (fld n 20 5)) = _
  rw [e0, e1, e2]

theorem cpy (rd : BitVec 5) (rs1 : BitVec 5) (rs2 : BitVec 5) : Statement (.cpy rd rs1 rs2) := by
  refine of_word rfl fun _ => ?_
  have hrd := rd.isLt
  have hrs1 := rs1.isLt
  have hrs2 := rs2.isLt
  refine decode_fields (op := .cpy) (m := 0x5B) (f7 := 0x10) (b := rs2.toNat) (a := rs1.toNat) (f3 := 0) (d := rd.toNat)
    (rfl) (by decide) (by decide) (by omega) (by omega) (by decide) (by omega) (rfl) (rfl) (rfl) (rfl) (rfl) rfl
    (rfl) fun n F => ?_
  have e0 : (r5 (fld n 7 5)) = rd := ofNat_of (F.p7.trans (by omega))
  have e1 : (r5 (fld n 15 5)) = rs1 := ofNat_of (F.p15.trans (by omega))
  have e2 : (r5 (fld n 20 5)) = rs2 := ofNat_of (F.p20.trans (by omega))
  show Instr.cpy (r5 (fld n 7 5)) (r5 (fld n 15 5)) (r5 (fld n 20 5)) = _
  rw [e0, e1, e2]

theorem cpyw (rd : BitVec 5) (rs1 : BitVec 5) : Statement (.cpyw rd rs1) := by
  refine of_word rfl fun _ => ?_
  have hrd := rd.isLt
  have hrs1 := rs1.isLt
  refine decode_fields (op := .cpyw) (m := 0x5B) (f7 := 0x11) (b := 0) (a := rs1.toNat) (f3 := 0) (d := rd.toNat)
    (rfl) (by decide) (by decide) (by decide) (by omega) (by decide) (by omega) (rfl) (rfl) (rfl) (rfl) (rfl) rfl
    (rfl) fun n F => ?_
  have e0 : (r5 (fld n 7 5)) = rd := ofNat_of (F.p7.trans (by omega))
  have e1 : (r5 (fld n 15 5)) = rs1 := ofNat_of (F.p15.trans (by omega))
  show Instr.cpyw (r5 (fld n 7 5)) (r5 (fld n 15 5)) = _
  rw [e0, e1]

theorem fenceScoped (s : Scope) (k : FKind) : Statement (.fenceScoped s k) := by
  refine of_word rfl fun _ => ?_
  have hs := s.code_lt
  have hk := k.code_lt
  refine decode_fields (op := .fenceScoped) (m := 0x5B) (f7 := (s.code * 4 + k.code)) (b := 0) (a := 0) (f3 := 1) (d := 0)
    (rfl) (by decide) (by omega) (by decide) (by decide) (by decide) (by decide) (rfl) (rfl) (rfl) (rfl) (rfl) rfl
    (by cases s <;> cases k <;> rfl) fun n F => ?_
  have e0 : ((Scope.ofCode (fld n 27 3)).getD .sys) = s := by rw [F.p27b.trans (show _ = s.code by omega), Scope.ofCode_code]; rfl
  have e1 : ((FKind.ofCode (fld n 25 2)).getD .full) = k := by rw [F.p25c.trans (show _ = k.code by omega), FKind.ofCode_code]; rfl
  show Instr.fenceScoped ((Scope.ofCode (fld n 27 3)).getD .sys) ((FKind.ofCode (fld n 25 2)).getD .full) = _
  rw [e0, e1]

theorem lda (rd : BitVec 5) (rs1 : BitVec 5) (s : Scope) (wd : MemW) : Statement (.lda rd rs1 s wd) := by
  refine of_word rfl fun _ => ?_
  have hrd := rd.isLt
  have hrs1 := rs1.isLt
  have hs := s.code_lt
  have hwd := wd.code_lt
  refine decode_fields (op := .lda) (m := 0x5B) (f7 := (32 + s.code * 4 + wd.code)) (b := 0) (a := rs1.toNat) (f3 := 1) (d := rd.toNat)
    (rfl) (by decide) (by omega) (by decide) (by omega) (by decide) (by omega) (rfl) (rfl) (rfl) (rfl) (rfl) rfl
    (by cases s <;> cases wd <;> rfl) fun n F => ?_
  have e0 : (r5 (fld n 7 5)) = rd := ofNat_of (F.p7.trans (by omega))
  have e1 : (r5 (fld n 15 5)) = rs1 := ofNat_of (F.p15.trans (by omega))
  have e2 : ((Scope.ofCode (fld n 27 3)).getD .sys) = s := by rw [F.p27b.trans (show _ = s.code by omega), Scope.ofCode_code]; rfl
  have e3 : ((MemW.ofCode (fld n 25 2)).getD .d) = wd := by rw [F.p25c.trans (show _ = wd.code by omega), MemW.ofCode_code]; rfl
  show Instr.lda (r5 (fld n 7 5)) (r5 (fld n 15 5)) ((Scope.ofCode (fld n 27 3)).getD .sys) ((MemW.ofCode (fld n 25 2)).getD .d) = _
  rw [e0, e1, e2, e3]

theorem strl (rs1 : BitVec 5) (rs2 : BitVec 5) (s : Scope) (wd : MemW) : Statement (.strl rs1 rs2 s wd) := by
  refine of_word rfl fun _ => ?_
  have hrs1 := rs1.isLt
  have hrs2 := rs2.isLt
  have hs := s.code_lt
  have hwd := wd.code_lt
  refine decode_fields (op := .strl) (m := 0x5B) (f7 := (64 + s.code * 4 + wd.code)) (b := rs2.toNat) (a := rs1.toNat) (f3 := 1) (d := 0)
    (rfl) (by decide) (by omega) (by omega) (by omega) (by decide) (by decide) (rfl) (rfl) (rfl) (rfl) (rfl) rfl
    (by cases s <;> cases wd <;> rfl) fun n F => ?_
  have e0 : (r5 (fld n 15 5)) = rs1 := ofNat_of (F.p15.trans (by omega))
  have e1 : (r5 (fld n 20 5)) = rs2 := ofNat_of (F.p20.trans (by omega))
  have e2 : ((Scope.ofCode (fld n 27 3)).getD .sys) = s := by rw [F.p27b.trans (show _ = s.code by omega), Scope.ofCode_code]; rfl
  have e3 : ((MemW.ofCode (fld n 25 2)).getD .d) = wd := by rw [F.p25c.trans (show _ = wd.code by omega), MemW.ofCode_code]; rfl
  show Instr.strl (r5 (fld n 15 5)) (r5 (fld n 20 5)) ((Scope.ofCode (fld n 27 3)).getD .sys) ((MemW.ofCode (fld n 25 2)).getD .d) = _
  rw [e0, e1, e2, e3]

theorem fxadd (rs1 : BitVec 5) (rs2 : BitVec 5) : Statement (.fxadd rs1 rs2) := by
  refine of_word rfl fun _ => ?_
  have hrs1 := rs1.isLt
  have hrs2 := rs2.isLt
  refine decode_fields (op := .fxadd) (m := 0x5B) (f7 := 0x60) (b := rs2.toNat) (a := rs1.toNat) (f3 := 1) (d := 0)
    (rfl) (by decide) (by decide) (by omega) (by omega) (by decide) (by decide) (rfl) (rfl) (rfl) (rfl) (rfl) rfl
    (rfl) fun n F => ?_
  have e0 : (r5 (fld n 15 5)) = rs1 := ofNat_of (F.p15.trans (by omega))
  have e1 : (r5 (fld n 20 5)) = rs2 := ofNat_of (F.p20.trans (by omega))
  show Instr.fxadd (r5 (fld n 15 5)) (r5 (fld n 20 5)) = _
  rw [e0, e1]

theorem fxrd (rd : BitVec 5) (rs1 : BitVec 5) : Statement (.fxrd rd rs1) := by
  refine of_word rfl fun _ => ?_
  have hrd := rd.isLt
  have hrs1 := rs1.isLt
  refine decode_fields (op := .fxrd) (m := 0x5B) (f7 := 0x61) (b := 0) (a := rs1.toNat) (f3 := 1) (d := rd.toNat)
    (rfl) (by decide) (by decide) (by decide) (by omega) (by decide) (by omega) (rfl) (rfl) (rfl) (rfl) (rfl) rfl
    (rfl) fun n F => ?_
  have e0 : (r5 (fld n 7 5)) = rd := ofNat_of (F.p7.trans (by omega))
  have e1 : (r5 (fld n 15 5)) = rs1 := ofNat_of (F.p15.trans (by omega))
  show Instr.fxrd (r5 (fld n 7 5)) (r5 (fld n 15 5)) = _
  rw [e0, e1]

theorem fxrdLo (rd : BitVec 5) (rs1 : BitVec 5) : Statement (.fxrdLo rd rs1) := by
  refine of_word rfl fun _ => ?_
  have hrd := rd.isLt
  have hrs1 := rs1.isLt
  refine decode_fields (op := .fxrdLo) (m := 0x5B) (f7 := 0x62) (b := 0) (a := rs1.toNat) (f3 := 1) (d := rd.toNat)
    (rfl) (by decide) (by decide) (by decide) (by omega) (by decide) (by omega) (rfl) (rfl) (rfl) (rfl) (rfl) rfl
    (rfl) fun n F => ?_
  have e0 : (r5 (fld n 7 5)) = rd := ofNat_of (F.p7.trans (by omega))
  have e1 : (r5 (fld n 15 5)) = rs1 := ofNat_of (F.p15.trans (by omega))
  show Instr.fxrdLo (r5 (fld n 7 5)) (r5 (fld n 15 5)) = _
  rw [e0, e1]

theorem fxrdHi (rd : BitVec 5) (rs1 : BitVec 5) : Statement (.fxrdHi rd rs1) := by
  refine of_word rfl fun _ => ?_
  have hrd := rd.isLt
  have hrs1 := rs1.isLt
  refine decode_fields (op := .fxrdHi) (m := 0x5B) (f7 := 0x63) (b := 0) (a := rs1.toNat) (f3 := 1) (d := rd.toNat)
    (rfl) (by decide) (by decide) (by decide) (by omega) (by decide) (by omega) (rfl) (rfl) (rfl) (rfl) (rfl) rfl
    (rfl) fun n F => ?_
  have e0 : (r5 (fld n 7 5)) = rd := ofNat_of (F.p7.trans (by omega))
  have e1 : (r5 (fld n 15 5)) = rs1 := ofNat_of (F.p15.trans (by omega))
  show Instr.fxrdHi (r5 (fld n 7 5)) (r5 (fld n 15 5)) = _
  rw [e0, e1]

theorem fxclr (rs1 : BitVec 5) : Statement (.fxclr rs1) := by
  refine of_word rfl fun _ => ?_
  have hrs1 := rs1.isLt
  refine decode_fields (op := .fxclr) (m := 0x5B) (f7 := 0x64) (b := 0) (a := rs1.toNat) (f3 := 1) (d := 0)
    (rfl) (by decide) (by decide) (by decide) (by omega) (by decide) (by decide) (rfl) (rfl) (rfl) (rfl) (rfl) rfl
    (rfl) fun n F => ?_
  have e0 : (r5 (fld n 15 5)) = rs1 := ofNat_of (F.p15.trans (by omega))
  show Instr.fxclr (r5 (fld n 15 5)) = _
  rw [e0]

theorem rlqry (rd : BitVec 5) (rs1 : BitVec 5) : Statement (.rlqry rd rs1) := by
  refine of_word rfl fun _ => ?_
  have hrd := rd.isLt
  have hrs1 := rs1.isLt
  refine decode_fields (op := .rlqry) (m := 0x5B) (f7 := 0x65) (b := 0) (a := rs1.toNat) (f3 := 1) (d := rd.toNat)
    (rfl) (by decide) (by decide) (by decide) (by omega) (by decide) (by omega) (rfl) (rfl) (rfl) (rfl) (rfl) rfl
    (rfl) fun n F => ?_
  have e0 : (r5 (fld n 7 5)) = rd := ofNat_of (F.p7.trans (by omega))
  have e1 : (r5 (fld n 15 5)) = rs1 := ofNat_of (F.p15.trans (by omega))
  show Instr.rlqry (r5 (fld n 7 5)) (r5 (fld n 15 5)) = _
  rw [e0, e1]

theorem amoAddScoped (rd : BitVec 5) (rs1 : BitVec 5) (rs2 : BitVec 5) (s : Scope) : Statement (.amoAddScoped rd rs1 rs2 s) := by
  refine of_word rfl fun _ => ?_
  have hrd := rd.isLt
  have hrs1 := rs1.isLt
  have hrs2 := rs2.isLt
  have hs := s.code_lt
  refine decode_fields (op := .amoAddScoped) (m := 0x5B) (f7 := (0 * 8 + s.code)) (b := rs2.toNat) (a := rs1.toNat) (f3 := 5) (d := rd.toNat)
    (rfl) (by decide) (by omega) (by omega) (by omega) (by decide) (by omega) (rfl) (rfl) (rfl) (rfl) (rfl) rfl
    (by cases s <;> rfl) fun n F => ?_
  have e0 : (r5 (fld n 7 5)) = rd := ofNat_of (F.p7.trans (by omega))
  have e1 : (r5 (fld n 15 5)) = rs1 := ofNat_of (F.p15.trans (by omega))
  have e2 : (r5 (fld n 20 5)) = rs2 := ofNat_of (F.p20.trans (by omega))
  have e3 : ((Scope.ofCode (fld n 25 3)).getD .sys) = s := by rw [F.p25b.trans (show _ = s.code by omega), Scope.ofCode_code]; rfl
  show Instr.amoAddScoped (r5 (fld n 7 5)) (r5 (fld n 15 5)) (r5 (fld n 20 5)) ((Scope.ofCode (fld n 25 3)).getD .sys) = _
  rw [e0, e1, e2, e3]

theorem amoSwapScoped (rd : BitVec 5) (rs1 : BitVec 5) (rs2 : BitVec 5) (s : Scope) : Statement (.amoSwapScoped rd rs1 rs2 s) := by
  refine of_word rfl fun _ => ?_
  have hrd := rd.isLt
  have hrs1 := rs1.isLt
  have hrs2 := rs2.isLt
  have hs := s.code_lt
  refine decode_fields (op := .amoSwapScoped) (m := 0x5B) (f7 := (1 * 8 + s.code)) (b := rs2.toNat) (a := rs1.toNat) (f3 := 5) (d := rd.toNat)
    (rfl) (by decide) (by omega) (by omega) (by omega) (by decide) (by omega) (rfl) (rfl) (rfl) (rfl) (rfl) rfl
    (by cases s <;> rfl) fun n F => ?_
  have e0 : (r5 (fld n 7 5)) = rd := ofNat_of (F.p7.trans (by omega))
  have e1 : (r5 (fld n 15 5)) = rs1 := ofNat_of (F.p15.trans (by omega))
  have e2 : (r5 (fld n 20 5)) = rs2 := ofNat_of (F.p20.trans (by omega))
  have e3 : ((Scope.ofCode (fld n 25 3)).getD .sys) = s := by rw [F.p25b.trans (show _ = s.code by omega), Scope.ofCode_code]; rfl
  show Instr.amoSwapScoped (r5 (fld n 7 5)) (r5 (fld n 15 5)) (r5 (fld n 20 5)) ((Scope.ofCode (fld n 25 3)).getD .sys) = _
  rw [e0, e1, e2, e3]

theorem amoAndScoped (rd : BitVec 5) (rs1 : BitVec 5) (rs2 : BitVec 5) (s : Scope) : Statement (.amoAndScoped rd rs1 rs2 s) := by
  refine of_word rfl fun _ => ?_
  have hrd := rd.isLt
  have hrs1 := rs1.isLt
  have hrs2 := rs2.isLt
  have hs := s.code_lt
  refine decode_fields (op := .amoAndScoped) (m := 0x5B) (f7 := (2 * 8 + s.code)) (b := rs2.toNat) (a := rs1.toNat) (f3 := 5) (d := rd.toNat)
    (rfl) (by decide) (by omega) (by omega) (by omega) (by decide) (by omega) (rfl) (rfl) (rfl) (rfl) (rfl) rfl
    (by cases s <;> rfl) fun n F => ?_
  have e0 : (r5 (fld n 7 5)) = rd := ofNat_of (F.p7.trans (by omega))
  have e1 : (r5 (fld n 15 5)) = rs1 := ofNat_of (F.p15.trans (by omega))
  have e2 : (r5 (fld n 20 5)) = rs2 := ofNat_of (F.p20.trans (by omega))
  have e3 : ((Scope.ofCode (fld n 25 3)).getD .sys) = s := by rw [F.p25b.trans (show _ = s.code by omega), Scope.ofCode_code]; rfl
  show Instr.amoAndScoped (r5 (fld n 7 5)) (r5 (fld n 15 5)) (r5 (fld n 20 5)) ((Scope.ofCode (fld n 25 3)).getD .sys) = _
  rw [e0, e1, e2, e3]

theorem amoOrScoped (rd : BitVec 5) (rs1 : BitVec 5) (rs2 : BitVec 5) (s : Scope) : Statement (.amoOrScoped rd rs1 rs2 s) := by
  refine of_word rfl fun _ => ?_
  have hrd := rd.isLt
  have hrs1 := rs1.isLt
  have hrs2 := rs2.isLt
  have hs := s.code_lt
  refine decode_fields (op := .amoOrScoped) (m := 0x5B) (f7 := (3 * 8 + s.code)) (b := rs2.toNat) (a := rs1.toNat) (f3 := 5) (d := rd.toNat)
    (rfl) (by decide) (by omega) (by omega) (by omega) (by decide) (by omega) (rfl) (rfl) (rfl) (rfl) (rfl) rfl
    (by cases s <;> rfl) fun n F => ?_
  have e0 : (r5 (fld n 7 5)) = rd := ofNat_of (F.p7.trans (by omega))
  have e1 : (r5 (fld n 15 5)) = rs1 := ofNat_of (F.p15.trans (by omega))
  have e2 : (r5 (fld n 20 5)) = rs2 := ofNat_of (F.p20.trans (by omega))
  have e3 : ((Scope.ofCode (fld n 25 3)).getD .sys) = s := by rw [F.p25b.trans (show _ = s.code by omega), Scope.ofCode_code]; rfl
  show Instr.amoOrScoped (r5 (fld n 7 5)) (r5 (fld n 15 5)) (r5 (fld n 20 5)) ((Scope.ofCode (fld n 25 3)).getD .sys) = _
  rw [e0, e1, e2, e3]

theorem amoXorScoped (rd : BitVec 5) (rs1 : BitVec 5) (rs2 : BitVec 5) (s : Scope) : Statement (.amoXorScoped rd rs1 rs2 s) := by
  refine of_word rfl fun _ => ?_
  have hrd := rd.isLt
  have hrs1 := rs1.isLt
  have hrs2 := rs2.isLt
  have hs := s.code_lt
  refine decode_fields (op := .amoXorScoped) (m := 0x5B) (f7 := (4 * 8 + s.code)) (b := rs2.toNat) (a := rs1.toNat) (f3 := 5) (d := rd.toNat)
    (rfl) (by decide) (by omega) (by omega) (by omega) (by decide) (by omega) (rfl) (rfl) (rfl) (rfl) (rfl) rfl
    (by cases s <;> rfl) fun n F => ?_
  have e0 : (r5 (fld n 7 5)) = rd := ofNat_of (F.p7.trans (by omega))
  have e1 : (r5 (fld n 15 5)) = rs1 := ofNat_of (F.p15.trans (by omega))
  have e2 : (r5 (fld n 20 5)) = rs2 := ofNat_of (F.p20.trans (by omega))
  have e3 : ((Scope.ofCode (fld n 25 3)).getD .sys) = s := by rw [F.p25b.trans (show _ = s.code by omega), Scope.ofCode_code]; rfl
  show Instr.amoXorScoped (r5 (fld n 7 5)) (r5 (fld n 15 5)) (r5 (fld n 20 5)) ((Scope.ofCode (fld n 25 3)).getD .sys) = _
  rw [e0, e1, e2, e3]

theorem amoMinScoped (rd : BitVec 5) (rs1 : BitVec 5) (rs2 : BitVec 5) (s : Scope) : Statement (.amoMinScoped rd rs1 rs2 s) := by
  refine of_word rfl fun _ => ?_
  have hrd := rd.isLt
  have hrs1 := rs1.isLt
  have hrs2 := rs2.isLt
  have hs := s.code_lt
  refine decode_fields (op := .amoMinScoped) (m := 0x5B) (f7 := (5 * 8 + s.code)) (b := rs2.toNat) (a := rs1.toNat) (f3 := 5) (d := rd.toNat)
    (rfl) (by decide) (by omega) (by omega) (by omega) (by decide) (by omega) (rfl) (rfl) (rfl) (rfl) (rfl) rfl
    (by cases s <;> rfl) fun n F => ?_
  have e0 : (r5 (fld n 7 5)) = rd := ofNat_of (F.p7.trans (by omega))
  have e1 : (r5 (fld n 15 5)) = rs1 := ofNat_of (F.p15.trans (by omega))
  have e2 : (r5 (fld n 20 5)) = rs2 := ofNat_of (F.p20.trans (by omega))
  have e3 : ((Scope.ofCode (fld n 25 3)).getD .sys) = s := by rw [F.p25b.trans (show _ = s.code by omega), Scope.ofCode_code]; rfl
  show Instr.amoMinScoped (r5 (fld n 7 5)) (r5 (fld n 15 5)) (r5 (fld n 20 5)) ((Scope.ofCode (fld n 25 3)).getD .sys) = _
  rw [e0, e1, e2, e3]

theorem amoMaxScoped (rd : BitVec 5) (rs1 : BitVec 5) (rs2 : BitVec 5) (s : Scope) : Statement (.amoMaxScoped rd rs1 rs2 s) := by
  refine of_word rfl fun _ => ?_
  have hrd := rd.isLt
  have hrs1 := rs1.isLt
  have hrs2 := rs2.isLt
  have hs := s.code_lt
  refine decode_fields (op := .amoMaxScoped) (m := 0x5B) (f7 := (6 * 8 + s.code)) (b := rs2.toNat) (a := rs1.toNat) (f3 := 5) (d := rd.toNat)
    (rfl) (by decide) (by omega) (by omega) (by omega) (by decide) (by omega) (rfl) (rfl) (rfl) (rfl) (rfl) rfl
    (by cases s <;> rfl) fun n F => ?_
  have e0 : (r5 (fld n 7 5)) = rd := ofNat_of (F.p7.trans (by omega))
  have e1 : (r5 (fld n 15 5)) = rs1 := ofNat_of (F.p15.trans (by omega))
  have e2 : (r5 (fld n 20 5)) = rs2 := ofNat_of (F.p20.trans (by omega))
  have e3 : ((Scope.ofCode (fld n 25 3)).getD .sys) = s := by rw [F.p25b.trans (show _ = s.code by omega), Scope.ofCode_code]; rfl
  show Instr.amoMaxScoped (r5 (fld n 7 5)) (r5 (fld n 15 5)) (r5 (fld n 20 5)) ((Scope.ofCode (fld n 25 3)).getD .sys) = _
  rw [e0, e1, e2, e3]

theorem amoMinuScoped (rd : BitVec 5) (rs1 : BitVec 5) (rs2 : BitVec 5) (s : Scope) : Statement (.amoMinuScoped rd rs1 rs2 s) := by
  refine of_word rfl fun _ => ?_
  have hrd := rd.isLt
  have hrs1 := rs1.isLt
  have hrs2 := rs2.isLt
  have hs := s.code_lt
  refine decode_fields (op := .amoMinuScoped) (m := 0x5B) (f7 := (7 * 8 + s.code)) (b := rs2.toNat) (a := rs1.toNat) (f3 := 5) (d := rd.toNat)
    (rfl) (by decide) (by omega) (by omega) (by omega) (by decide) (by omega) (rfl) (rfl) (rfl) (rfl) (rfl) rfl
    (by cases s <;> rfl) fun n F => ?_
  have e0 : (r5 (fld n 7 5)) = rd := ofNat_of (F.p7.trans (by omega))
  have e1 : (r5 (fld n 15 5)) = rs1 := ofNat_of (F.p15.trans (by omega))
  have e2 : (r5 (fld n 20 5)) = rs2 := ofNat_of (F.p20.trans (by omega))
  have e3 : ((Scope.ofCode (fld n 25 3)).getD .sys) = s := by rw [F.p25b.trans (show _ = s.code by omega), Scope.ofCode_code]; rfl
  show Instr.amoMinuScoped (r5 (fld n 7 5)) (r5 (fld n 15 5)) (r5 (fld n 20 5)) ((Scope.ofCode (fld n 25 3)).getD .sys) = _
  rw [e0, e1, e2, e3]

theorem amoMaxuScoped (rd : BitVec 5) (rs1 : BitVec 5) (rs2 : BitVec 5) (s : Scope) : Statement (.amoMaxuScoped rd rs1 rs2 s) := by
  refine of_word rfl fun _ => ?_
  have hrd := rd.isLt
  have hrs1 := rs1.isLt
  have hrs2 := rs2.isLt
  have hs := s.code_lt
  refine decode_fields (op := .amoMaxuScoped) (m := 0x5B) (f7 := (8 * 8 + s.code)) (b := rs2.toNat) (a := rs1.toNat) (f3 := 5) (d := rd.toNat)
    (rfl) (by decide) (by omega) (by omega) (by omega) (by decide) (by omega) (rfl) (rfl) (rfl) (rfl) (rfl) rfl
    (by cases s <;> rfl) fun n F => ?_
  have e0 : (r5 (fld n 7 5)) = rd := ofNat_of (F.p7.trans (by omega))
  have e1 : (r5 (fld n 15 5)) = rs1 := ofNat_of (F.p15.trans (by omega))
  have e2 : (r5 (fld n 20 5)) = rs2 := ofNat_of (F.p20.trans (by omega))
  have e3 : ((Scope.ofCode (fld n 25 3)).getD .sys) = s := by rw [F.p25b.trans (show _ = s.code by omega), Scope.ofCode_code]; rfl
  show Instr.amoMaxuScoped (r5 (fld n 7 5)) (r5 (fld n 15 5)) (r5 (fld n 20 5)) ((Scope.ofCode (fld n 25 3)).getD .sys) = _
  rw [e0, e1, e2, e3]

theorem amoCasScoped (rd : BitVec 5) (rs1 : BitVec 5) (rs2 : BitVec 5) (s : Scope) : Statement (.amoCasScoped rd rs1 rs2 s) := by
  refine of_word rfl fun _ => ?_
  have hrd := rd.isLt
  have hrs1 := rs1.isLt
  have hrs2 := rs2.isLt
  have hs := s.code_lt
  refine decode_fields (op := .amoCasScoped) (m := 0x5B) (f7 := (9 * 8 + s.code)) (b := rs2.toNat) (a := rs1.toNat) (f3 := 5) (d := rd.toNat)
    (rfl) (by decide) (by omega) (by omega) (by omega) (by decide) (by omega) (rfl) (rfl) (rfl) (rfl) (rfl) rfl
    (by cases s <;> rfl) fun n F => ?_
  have e0 : (r5 (fld n 7 5)) = rd := ofNat_of (F.p7.trans (by omega))
  have e1 : (r5 (fld n 15 5)) = rs1 := ofNat_of (F.p15.trans (by omega))
  have e2 : (r5 (fld n 20 5)) = rs2 := ofNat_of (F.p20.trans (by omega))
  have e3 : ((Scope.ofCode (fld n 25 3)).getD .sys) = s := by rw [F.p25b.trans (show _ = s.code by omega), Scope.ofCode_code]; rfl
  show Instr.amoCasScoped (r5 (fld n 7 5)) (r5 (fld n 15 5)) (r5 (fld n 20 5)) ((Scope.ofCode (fld n 25 3)).getD .sys) = _
  rw [e0, e1, e2, e3]

theorem spawn (rs1 : BitVec 5) : Statement (.spawn rs1) := by
  refine of_word rfl fun _ => ?_
  have hrs1 := rs1.isLt
  refine decode_fields (op := .spawn) (m := 0x5B) (f7 := 0x00) (b := 0) (a := rs1.toNat) (f3 := 2) (d := 0)
    (rfl) (by decide) (by decide) (by decide) (by omega) (by decide) (by decide) (rfl) (rfl) (rfl) (rfl) (rfl) rfl
    (rfl) fun n F => ?_
  have e0 : (r5 (fld n 15 5)) = rs1 := ofNat_of (F.p15.trans (by omega))
  show Instr.spawn (r5 (fld n 15 5)) = _
  rw [e0]

theorem spawnNb (rd : BitVec 5) (rs1 : BitVec 5) : Statement (.spawnNb rd rs1) := by
  refine of_word rfl fun _ => ?_
  have hrd := rd.isLt
  have hrs1 := rs1.isLt
  refine decode_fields (op := .spawnNb) (m := 0x5B) (f7 := 0x01) (b := 0) (a := rs1.toNat) (f3 := 2) (d := rd.toNat)
    (rfl) (by decide) (by decide) (by decide) (by omega) (by decide) (by omega) (rfl) (rfl) (rfl) (rfl) (rfl) rfl
    (rfl) fun n F => ?_
  have e0 : (r5 (fld n 7 5)) = rd := ofNat_of (F.p7.trans (by omega))
  have e1 : (r5 (fld n 15 5)) = rs1 := ofNat_of (F.p15.trans (by omega))
  show Instr.spawnNb (r5 (fld n 7 5)) (r5 (fld n 15 5)) = _
  rw [e0, e1]

theorem spawnr (rs1 : BitVec 5) (rs2 : BitVec 5) : Statement (.spawnr rs1 rs2) := by
  refine of_word rfl fun _ => ?_
  have hrs1 := rs1.isLt
  have hrs2 := rs2.isLt
  refine decode_fields (op := .spawnr) (m := 0x5B) (f7 := 0x02) (b := rs2.toNat) (a := rs1.toNat) (f3 := 2) (d := 0)
    (rfl) (by decide) (by decide) (by omega) (by omega) (by decide) (by decide) (rfl) (rfl) (rfl) (rfl) (rfl) rfl
    (rfl) fun n F => ?_
  have e0 : (r5 (fld n 15 5)) = rs1 := ofNat_of (F.p15.trans (by omega))
  have e1 : (r5 (fld n 20 5)) = rs2 := ofNat_of (F.p20.trans (by omega))
  show Instr.spawnr (r5 (fld n 15 5)) (r5 (fld n 20 5)) = _
  rw [e0, e1]

theorem spawnat (rs1 : BitVec 5) (rs2 : BitVec 5) : Statement (.spawnat rs1 rs2) := by
  refine of_word rfl fun _ => ?_
  have hrs1 := rs1.isLt
  have hrs2 := rs2.isLt
  refine decode_fields (op := .spawnat) (m := 0x5B) (f7 := 0x03) (b := rs2.toNat) (a := rs1.toNat) (f3 := 2) (d := 0)
    (rfl) (by decide) (by decide) (by omega) (by omega) (by decide) (by decide) (rfl) (rfl) (rfl) (rfl) (rfl) rfl
    (rfl) fun n F => ?_
  have e0 : (r5 (fld n 15 5)) = rs1 := ofNat_of (F.p15.trans (by omega))
  have e1 : (r5 (fld n 20 5)) = rs2 := ofNat_of (F.p20.trans (by omega))
  show Instr.spawnat (r5 (fld n 15 5)) (r5 (fld n 20 5)) = _
  rw [e0, e1]

theorem tend (rs1 : BitVec 5) : Statement (.tend rs1) := by
  refine of_word rfl fun _ => ?_
  have hrs1 := rs1.isLt
  refine decode_fields (op := .tend) (m := 0x5B) (f7 := 0x04) (b := 0) (a := rs1.toNat) (f3 := 2) (d := 0)
    (rfl) (by decide) (by decide) (by decide) (by omega) (by decide) (by decide) (rfl) (rfl) (rfl) (rfl) (rfl) rfl
    (rfl) fun n F => ?_
  have e0 : (r5 (fld n 15 5)) = rs1 := ofNat_of (F.p15.trans (by omega))
  show Instr.tend (r5 (fld n 15 5)) = _
  rw [e0]

theorem joininit (rs1 : BitVec 5) (rs2 : BitVec 5) : Statement (.joininit rs1 rs2) := by
  refine of_word rfl fun _ => ?_
  have hrs1 := rs1.isLt
  have hrs2 := rs2.isLt
  refine decode_fields (op := .joininit) (m := 0x5B) (f7 := 0x08) (b := rs2.toNat) (a := rs1.toNat) (f3 := 2) (d := 0)
    (rfl) (by decide) (by decide) (by omega) (by omega) (by decide) (by decide) (rfl) (rfl) (rfl) (rfl) (rfl) rfl
    (rfl) fun n F => ?_
  have e0 : (r5 (fld n 15 5)) = rs1 := ofNat_of (F.p15.trans (by omega))
  have e1 : (r5 (fld n 20 5)) = rs2 := ofNat_of (F.p20.trans (by omega))
  show Instr.joininit (r5 (fld n 15 5)) (r5 (fld n 20 5)) = _
  rw [e0, e1]

theorem joinadd (rs1 : BitVec 5) (rs2 : BitVec 5) : Statement (.joinadd rs1 rs2) := by
  refine of_word rfl fun _ => ?_
  have hrs1 := rs1.isLt
  have hrs2 := rs2.isLt
  refine decode_fields (op := .joinadd) (m := 0x5B) (f7 := 0x09) (b := rs2.toNat) (a := rs1.toNat) (f3 := 2) (d := 0)
    (rfl) (by decide) (by decide) (by omega) (by omega) (by decide) (by decide) (rfl) (rfl) (rfl) (rfl) (rfl) rfl
    (rfl) fun n F => ?_
  have e0 : (r5 (fld n 15 5)) = rs1 := ofNat_of (F.p15.trans (by omega))
  have e1 : (r5 (fld n 20 5)) = rs2 := ofNat_of (F.p20.trans (by omega))
  show Instr.joinadd (r5 (fld n 15 5)) (r5 (fld n 20 5)) = _
  rw [e0, e1]

theorem joinarm (rs1 : BitVec 5) (rs2 : BitVec 5) : Statement (.joinarm rs1 rs2) := by
  refine of_word rfl fun _ => ?_
  have hrs1 := rs1.isLt
  have hrs2 := rs2.isLt
  refine decode_fields (op := .joinarm) (m := 0x5B) (f7 := 0x0A) (b := rs2.toNat) (a := rs1.toNat) (f3 := 2) (d := 0)
    (rfl) (by decide) (by decide) (by omega) (by omega) (by decide) (by decide) (rfl) (rfl) (rfl) (rfl) (rfl) rfl
    (rfl) fun n F => ?_
  have e0 : (r5 (fld n 15 5)) = rs1 := ofNat_of (F.p15.trans (by omega))
  have e1 : (r5 (fld n 20 5)) = rs2 := ofNat_of (F.p20.trans (by omega))
  show Instr.joinarm (r5 (fld n 15 5)) (r5 (fld n 20 5)) = _
  rw [e0, e1]

theorem press (rd : BitVec 5) : Statement (.press rd) := by
  refine of_word rfl fun _ => ?_
  have hrd := rd.isLt
  refine decode_fields (op := .press) (m := 0x5B) (f7 := 0x10) (b := 0) (a := 0) (f3 := 2) (d := rd.toNat)
    (rfl) (by decide) (by decide) (by decide) (by decide) (by decide) (by omega) (rfl) (rfl) (rfl) (rfl) (rfl) rfl
    (rfl) fun n F => ?_
  have e0 : (r5 (fld n 7 5)) = rd := ofNat_of (F.p7.trans (by omega))
  show Instr.press (r5 (fld n 7 5)) = _
  rw [e0]

theorem dqpush (rs1 : BitVec 5) (rs2 : BitVec 5) : Statement (.dqpush rs1 rs2) := by
  refine of_word rfl fun _ => ?_
  have hrs1 := rs1.isLt
  have hrs2 := rs2.isLt
  refine decode_fields (op := .dqpush) (m := 0x5B) (f7 := 0x18) (b := rs2.toNat) (a := rs1.toNat) (f3 := 2) (d := 0)
    (rfl) (by decide) (by decide) (by omega) (by omega) (by decide) (by decide) (rfl) (rfl) (rfl) (rfl) (rfl) rfl
    (rfl) fun n F => ?_
  have e0 : (r5 (fld n 15 5)) = rs1 := ofNat_of (F.p15.trans (by omega))
  have e1 : (r5 (fld n 20 5)) = rs2 := ofNat_of (F.p20.trans (by omega))
  show Instr.dqpush (r5 (fld n 15 5)) (r5 (fld n 20 5)) = _
  rw [e0, e1]

theorem dqpop (rd : BitVec 5) : Statement (.dqpop rd) := by
  refine of_word rfl fun _ => ?_
  have hrd := rd.isLt
  refine decode_fields (op := .dqpop) (m := 0x5B) (f7 := 0x19) (b := 0) (a := 0) (f3 := 2) (d := rd.toNat)
    (rfl) (by decide) (by decide) (by decide) (by decide) (by decide) (by omega) (rfl) (rfl) (rfl) (rfl) (rfl) rfl
    (rfl) fun n F => ?_
  have e0 : (r5 (fld n 7 5)) = rd := ofNat_of (F.p7.trans (by omega))
  show Instr.dqpop (r5 (fld n 7 5)) = _
  rw [e0]

theorem dqsplit : Statement (.dqsplit) := by
  refine of_word rfl fun _ => ?_
  refine decode_fields (op := .dqsplit) (m := 0x5B) (f7 := 0x1A) (b := 0) (a := 0) (f3 := 2) (d := 0)
    (rfl) (by decide) (by decide) (by decide) (by decide) (by decide) (by decide) (rfl) (rfl) (rfl) (rfl) (rfl) rfl
    (rfl) fun n F => ?_
  rfl

theorem dqspill (rd : BitVec 5) (rs1 : BitVec 5) : Statement (.dqspill rd rs1) := by
  refine of_word rfl fun _ => ?_
  have hrd := rd.isLt
  have hrs1 := rs1.isLt
  refine decode_fields (op := .dqspill) (m := 0x5B) (f7 := 0x1B) (b := 0) (a := rs1.toNat) (f3 := 2) (d := rd.toNat)
    (rfl) (by decide) (by decide) (by decide) (by omega) (by decide) (by omega) (rfl) (rfl) (rfl) (rfl) (rfl) rfl
    (rfl) fun n F => ?_
  have e0 : (r5 (fld n 7 5)) = rd := ofNat_of (F.p7.trans (by omega))
  have e1 : (r5 (fld n 15 5)) = rs1 := ofNat_of (F.p15.trans (by omega))
  show Instr.dqspill (r5 (fld n 7 5)) (r5 (fld n 15 5)) = _
  rw [e0, e1]

theorem rpush (rs1 : BitVec 5) (rs2 : BitVec 5) : Statement (.rpush rs1 rs2) := by
  refine of_word rfl fun _ => ?_
  have hrs1 := rs1.isLt
  have hrs2 := rs2.isLt
  refine decode_fields (op := .rpush) (m := 0x5B) (f7 := 0x20) (b := rs2.toNat) (a := rs1.toNat) (f3 := 2) (d := 0)
    (rfl) (by decide) (by decide) (by omega) (by omega) (by decide) (by decide) (rfl) (rfl) (rfl) (rfl) (rfl) rfl
    (rfl) fun n F => ?_
  have e0 : (r5 (fld n 15 5)) = rs1 := ofNat_of (F.p15.trans (by omega))
  have e1 : (r5 (fld n 20 5)) = rs2 := ofNat_of (F.p20.trans (by omega))
  show Instr.rpush (r5 (fld n 15 5)) (r5 (fld n 20 5)) = _
  rw [e0, e1]

theorem rpop (rd : BitVec 5) (rs1 : BitVec 5) (rs2 : BitVec 5) : Statement (.rpop rd rs1 rs2) := by
  refine of_word rfl fun _ => ?_
  have hrd := rd.isLt
  have hrs1 := rs1.isLt
  have hrs2 := rs2.isLt
  refine decode_fields (op := .rpop) (m := 0x5B) (f7 := 0x21) (b := rs2.toNat) (a := rs1.toNat) (f3 := 2) (d := rd.toNat)
    (rfl) (by decide) (by decide) (by omega) (by omega) (by decide) (by omega) (rfl) (rfl) (rfl) (rfl) (rfl) rfl
    (rfl) fun n F => ?_
  have e0 : (r5 (fld n 7 5)) = rd := ofNat_of (F.p7.trans (by omega))
  have e1 : (r5 (fld n 15 5)) = rs1 := ofNat_of (F.p15.trans (by omega))
  have e2 : (r5 (fld n 20 5)) = rs2 := ofNat_of (F.p20.trans (by omega))
  show Instr.rpop (r5 (fld n 7 5)) (r5 (fld n 15 5)) (r5 (fld n 20 5)) = _
  rw [e0, e1, e2]

theorem rpeek (rd : BitVec 5) (rs1 : BitVec 5) (rs2 : BitVec 5) : Statement (.rpeek rd rs1 rs2) := by
  refine of_word rfl fun _ => ?_
  have hrd := rd.isLt
  have hrs1 := rs1.isLt
  have hrs2 := rs2.isLt
  refine decode_fields (op := .rpeek) (m := 0x5B) (f7 := 0x22) (b := rs2.toNat) (a := rs1.toNat) (f3 := 2) (d := rd.toNat)
    (rfl) (by decide) (by decide) (by omega) (by omega) (by decide) (by omega) (rfl) (rfl) (rfl) (rfl) (rfl) rfl
    (rfl) fun n F => ?_
  have e0 : (r5 (fld n 7 5)) = rd := ofNat_of (F.p7.trans (by omega))
  have e1 : (r5 (fld n 15 5)) = rs1 := ofNat_of (F.p15.trans (by omega))
  have e2 : (r5 (fld n 20 5)) = rs2 := ofNat_of (F.p20.trans (by omega))
  show Instr.rpeek (r5 (fld n 7 5)) (r5 (fld n 15 5)) (r5 (fld n 20 5)) = _
  rw [e0, e1, e2]

theorem grpbar (rs1 : BitVec 5) : Statement (.grpbar rs1) := by
  refine of_word rfl fun _ => ?_
  have hrs1 := rs1.isLt
  refine decode_fields (op := .grpbar) (m := 0x5B) (f7 := 0x28) (b := 0) (a := rs1.toNat) (f3 := 2) (d := 0)
    (rfl) (by decide) (by decide) (by decide) (by omega) (by decide) (by decide) (rfl) (rfl) (rfl) (rfl) (rfl) rfl
    (rfl) fun n F => ?_
  have e0 : (r5 (fld n 15 5)) = rs1 := ofNat_of (F.p15.trans (by omega))
  show Instr.grpbar (r5 (fld n 15 5)) = _
  rw [e0]

theorem arm (rd : BitVec 5) : Statement (.arm rd) := by
  refine of_word rfl fun _ => ?_
  have hrd := rd.isLt
  refine decode_fields (op := .arm) (m := 0x5B) (f7 := 0x00) (b := 0) (a := 0) (f3 := 3) (d := rd.toNat)
    (rfl) (by decide) (by decide) (by decide) (by decide) (by decide) (by omega) (rfl) (rfl) (rfl) (rfl) (rfl) rfl
    (rfl) fun n F => ?_
  have e0 : (r5 (fld n 7 5)) = rd := ofNat_of (F.p7.trans (by omega))
  show Instr.arm (r5 (fld n 7 5)) = _
  rw [e0]

theorem sendw (rs1 : BitVec 5) (rs2 : BitVec 5) : Statement (.sendw rs1 rs2) := by
  refine of_word rfl fun _ => ?_
  have hrs1 := rs1.isLt
  have hrs2 := rs2.isLt
  refine decode_fields (op := .sendw) (m := 0x5B) (f7 := 0x01) (b := rs2.toNat) (a := rs1.toNat) (f3 := 3) (d := 0)
    (rfl) (by decide) (by decide) (by omega) (by omega) (by decide) (by decide) (rfl) (rfl) (rfl) (rfl) (rfl) rfl
    (rfl) fun n F => ?_
  have e0 : (r5 (fld n 15 5)) = rs1 := ofNat_of (F.p15.trans (by omega))
  have e1 : (r5 (fld n 20 5)) = rs2 := ofNat_of (F.p20.trans (by omega))
  show Instr.sendw (r5 (fld n 15 5)) (r5 (fld n 20 5)) = _
  rw [e0, e1]

theorem sendh (rs1 : BitVec 5) (rs2 : BitVec 5) : Statement (.sendh rs1 rs2) := by
  refine of_word rfl fun _ => ?_
  have hrs1 := rs1.isLt
  have hrs2 := rs2.isLt
  refine decode_fields (op := .sendh) (m := 0x5B) (f7 := 0x02) (b := rs2.toNat) (a := rs1.toNat) (f3 := 3) (d := 0)
    (rfl) (by decide) (by decide) (by omega) (by omega) (by decide) (by decide) (rfl) (rfl) (rfl) (rfl) (rfl) rfl
    (rfl) fun n F => ?_
  have e0 : (r5 (fld n 15 5)) = rs1 := ofNat_of (F.p15.trans (by omega))
  have e1 : (r5 (fld n 20 5)) = rs2 := ofNat_of (F.p20.trans (by omega))
  show Instr.sendh (r5 (fld n 15 5)) (r5 (fld n 20 5)) = _
  rw [e0, e1]

theorem msgret : Statement (.msgret) := by
  refine of_word rfl fun _ => ?_
  refine decode_fields (op := .msgret) (m := 0x5B) (f7 := 0x03) (b := 0) (a := 0) (f3 := 3) (d := 0)
    (rfl) (by decide) (by decide) (by decide) (by decide) (by decide) (by decide) (rfl) (rfl) (rfl) (rfl) (rfl) rfl
    (rfl) fun n F => ?_
  rfl

theorem chbind (v : BitVec 3) (rs1 : BitVec 5) : Statement (.chbind v rs1) := by
  refine of_word rfl fun _ => ?_
  have hv := v.isLt
  have hrs1 := rs1.isLt
  refine decode_fields (op := .chbind) (m := 0x5B) (f7 := 4) (b := 0) (a := rs1.toNat) (f3 := 3) (d := (24 + v.toNat))
    (rfl) (by decide) (by decide) (by decide) (by omega) (by decide) (by omega) (rfl) (rfl) (rfl) (rfl) (rfl) rfl
    (by unfold majorF; rw [show (24 + v.toNat) / 8 = 3 by omega]; rfl) fun n F => ?_
  have e0 : (BitVec.ofNat 3 (fld n 7 3)) = v := ofNat_of (F.p7b.trans (by omega))
  have e1 : (r5 (fld n 15 5)) = rs1 := ofNat_of (F.p15.trans (by omega))
  show Instr.chbind (BitVec.ofNat 3 (fld n 7 3)) (r5 (fld n 15 5)) = _
  rw [e0, e1]

theorem migrate (rs1 : BitVec 5) (rs2 : BitVec 5) : Statement (.migrate rs1 rs2) := by
  refine of_word rfl fun _ => ?_
  have hrs1 := rs1.isLt
  have hrs2 := rs2.isLt
  refine decode_fields (op := .migrate) (m := 0x5B) (f7 := 0x05) (b := rs2.toNat) (a := rs1.toNat) (f3 := 3) (d := 0)
    (rfl) (by decide) (by decide) (by omega) (by omega) (by decide) (by decide) (rfl) (rfl) (rfl) (rfl) (rfl) rfl
    (rfl) fun n F => ?_
  have e0 : (r5 (fld n 15 5)) = rs1 := ofNat_of (F.p15.trans (by omega))
  have e1 : (r5 (fld n 20 5)) = rs2 := ofNat_of (F.p20.trans (by omega))
  show Instr.migrate (r5 (fld n 15 5)) (r5 (fld n 20 5)) = _
  rw [e0, e1]

theorem grpw (rs1 : BitVec 5) (rs2 : BitVec 5) : Statement (.grpw rs1 rs2) := by
  refine of_word rfl fun _ => ?_
  have hrs1 := rs1.isLt
  have hrs2 := rs2.isLt
  refine decode_fields (op := .grpw) (m := 0x5B) (f7 := 0) (b := rs2.toNat) (a := rs1.toNat) (f3 := 4) (d := 0)
    (rfl) (by decide) (by decide) (by omega) (by omega) (by decide) (by decide) (rfl) (rfl) (rfl) (rfl) (rfl) rfl
    (rfl) fun n F => ?_
  have e0 : (r5 (fld n 15 5)) = rs1 := ofNat_of (F.p15.trans (by omega))
  have e1 : (r5 (fld n 20 5)) = rs2 := ofNat_of (F.p20.trans (by omega))
  show Instr.grpw (r5 (fld n 15 5)) (r5 (fld n 20 5)) = _
  rw [e0, e1]

theorem mcw (rs1 : BitVec 5) (rs2 : BitVec 5) : Statement (.mcw rs1 rs2) := by
  refine of_word rfl fun _ => ?_
  have hrs1 := rs1.isLt
  have hrs2 := rs2.isLt
  refine decode_fields (op := .mcw) (m := 0x5B) (f7 := 1) (b := rs2.toNat) (a := rs1.toNat) (f3 := 4) (d := 0)
    (rfl) (by decide) (by decide) (by omega) (by omega) (by decide) (by decide) (rfl) (rfl) (rfl) (rfl) (rfl) rfl
    (rfl) fun n F => ?_
  have e0 : (r5 (fld n 15 5)) = rs1 := ofNat_of (F.p15.trans (by omega))
  have e1 : (r5 (fld n 20 5)) = rs2 := ofNat_of (F.p20.trans (by omega))
  show Instr.mcw (r5 (fld n 15 5)) (r5 (fld n 20 5)) = _
  rw [e0, e1]

theorem jkset (rs1 : BitVec 5) (rs2 : BitVec 5) : Statement (.jkset rs1 rs2) := by
  refine of_word rfl fun _ => ?_
  have hrs1 := rs1.isLt
  have hrs2 := rs2.isLt
  refine decode_fields (op := .jkset) (m := 0x5B) (f7 := 2) (b := rs2.toNat) (a := rs1.toNat) (f3 := 4) (d := 0)
    (rfl) (by decide) (by decide) (by omega) (by omega) (by decide) (by decide) (rfl) (rfl) (rfl) (rfl) (rfl) rfl
    (rfl) fun n F => ?_
  have e0 : (r5 (fld n 15 5)) = rs1 := ofNat_of (F.p15.trans (by omega))
  have e1 : (r5 (fld n 20 5)) = rs2 := ofNat_of (F.p20.trans (by omega))
  show Instr.jkset (r5 (fld n 15 5)) (r5 (fld n 20 5)) = _
  rw [e0, e1]

theorem keyrot (rs1 : BitVec 5) : Statement (.keyrot rs1) := by
  refine of_word rfl fun _ => ?_
  have hrs1 := rs1.isLt
  refine decode_fields (op := .keyrot) (m := 0x5B) (f7 := 3) (b := 0) (a := rs1.toNat) (f3 := 4) (d := 0)
    (rfl) (by decide) (by decide) (by decide) (by omega) (by decide) (by decide) (rfl) (rfl) (rfl) (rfl) (rfl) rfl
    (rfl) fun n F => ?_
  have e0 : (r5 (fld n 15 5)) = rs1 := ofNat_of (F.p15.trans (by omega))
  show Instr.keyrot (r5 (fld n 15 5)) = _
  rw [e0]

theorem mstg (sx : BitVec 6) (sw : BitVec 5) (ac : BitVec 3) (ms : BitVec 3) (sc : BitVec 3) : Statement (.mstg sx sw ac ms sc) := by
  refine of_word rfl fun _ => ?_
  have hsx := sx.isLt
  have hsw := sw.isLt
  have hac := ac.isLt
  have hms := ms.isLt
  have hsc := sc.isLt
  refine decode_fields (op := .mstg) (m := 0x7B) (f7 := (sx.toNat * 2 + sw.toNat / 16)) (b := (sw.toNat % 16 * 2 + ac.toNat / 4)) (a := (ac.toNat % 4 * 8 + ms.toNat)) (f3 := 0) (d := (sc.toNat * 4 + 0))
    (encM_fields _ _ _ _ _ _ _) (by decide) (by omega) (by omega) (by omega) (by decide) (by omega) (rfl) (rfl) (rfl) (rfl) (rfl) rfl
    (by unfold majorF decCustom3F; rw [show (sc.toNat * 4 + 0) % 4 = 0 by omega]; rfl) fun n F => ?_
  have e0 : (BitVec.ofNat 6 (fld n 26 6)) = sx := ofNat_of (F.p26b.trans (by omega))
  have e1 : (r5 (fld n 21 5)) = sw := ofNat_of (F.p21b.trans (by omega))
  have e2 : (BitVec.ofNat 3 (fld n 18 3)) = ac := ofNat_of (F.p18.trans (by omega))
  have e3 : (BitVec.ofNat 3 (fld n 15 3)) = ms := ofNat_of (F.p15b.trans (by omega))
  have e4 : (BitVec.ofNat 3 (fld n 9 3)) = sc := ofNat_of (F.p9.trans (by omega))
  show Instr.mstg (BitVec.ofNat 6 (fld n 26 6)) (r5 (fld n 21 5)) (BitVec.ofNat 3 (fld n 18 3)) (BitVec.ofNat 3 (fld n 15 3)) (BitVec.ofNat 3 (fld n 9 3)) = _
  rw [e0, e1, e2, e3, e4]

theorem mstgAcc (sx : BitVec 6) (sw : BitVec 5) (ac : BitVec 3) (ms : BitVec 3) (sc : BitVec 3) : Statement (.mstgAcc sx sw ac ms sc) := by
  refine of_word rfl fun _ => ?_
  have hsx := sx.isLt
  have hsw := sw.isLt
  have hac := ac.isLt
  have hms := ms.isLt
  have hsc := sc.isLt
  refine decode_fields (op := .mstgAcc) (m := 0x7B) (f7 := (sx.toNat * 2 + sw.toNat / 16)) (b := (sw.toNat % 16 * 2 + ac.toNat / 4)) (a := (ac.toNat % 4 * 8 + ms.toNat)) (f3 := 0) (d := (sc.toNat * 4 + 1))
    (encM_fields _ _ _ _ _ _ _) (by decide) (by omega) (by omega) (by omega) (by decide) (by omega) (rfl) (rfl) (rfl) (rfl) (rfl) rfl
    (by unfold majorF decCustom3F; rw [show (sc.toNat * 4 + 1) % 4 = 1 by omega]; rfl) fun n F => ?_
  have e0 : (BitVec.ofNat 6 (fld n 26 6)) = sx := ofNat_of (F.p26b.trans (by omega))
  have e1 : (r5 (fld n 21 5)) = sw := ofNat_of (F.p21b.trans (by omega))
  have e2 : (BitVec.ofNat 3 (fld n 18 3)) = ac := ofNat_of (F.p18.trans (by omega))
  have e3 : (BitVec.ofNat 3 (fld n 15 3)) = ms := ofNat_of (F.p15b.trans (by omega))
  have e4 : (BitVec.ofNat 3 (fld n 9 3)) = sc := ofNat_of (F.p9.trans (by omega))
  show Instr.mstgAcc (BitVec.ofNat 6 (fld n 26 6)) (r5 (fld n 21 5)) (BitVec.ofNat 3 (fld n 18 3)) (BitVec.ofNat 3 (fld n 15 3)) (BitVec.ofNat 3 (fld n 9 3)) = _
  rw [e0, e1, e2, e3, e4]

theorem mxst (sx : BitVec 6) (sw : BitVec 5) (ac : BitVec 2) (ms : BitVec 3) (sc : BitVec 3) : Statement (.mxst sx sw ac ms sc) := by
  refine of_word rfl fun _ => ?_
  have hsx := sx.isLt
  have hsw := sw.isLt
  have hac := ac.isLt
  have hms := ms.isLt
  have hsc := sc.isLt
  refine decode_fields (op := .mxst) (m := 0x7B) (f7 := (sx.toNat * 2 + sw.toNat / 16)) (b := (sw.toNat % 16 * 2 + (ac.toNat * 2) / 4)) (a := ((ac.toNat * 2) % 4 * 8 + ms.toNat)) (f3 := 1) (d := (sc.toNat * 4 + 0))
    (encM_fields _ _ _ _ _ _ _) (by decide) (by omega) (by omega) (by omega) (by decide) (by omega) (rfl) (rfl) (rfl) (rfl) (rfl) rfl
    (by unfold majorF decCustom3F; rw [show (sc.toNat * 4 + 0) % 4 = 0 by omega, show (ac.toNat * 2 % 4 * 8 + ms.toNat) / 8 % 2 = 0 by omega]; rfl) fun n F => ?_
  have e0 : (BitVec.ofNat 6 (fld n 26 6)) = sx := ofNat_of (F.p26b.trans (by omega))
  have e1 : (r5 (fld n 21 5)) = sw := ofNat_of (F.p21b.trans (by omega))
  have e2 : (BitVec.ofNat 2 (fld n 19 2)) = ac := ofNat_of (F.p19b.trans (by omega))
  have e3 : (BitVec.ofNat 3 (fld n 15 3)) = ms := ofNat_of (F.p15b.trans (by omega))
  have e4 : (BitVec.ofNat 3 (fld n 9 3)) = sc := ofNat_of (F.p9.trans (by omega))
  show Instr.mxst (BitVec.ofNat 6 (fld n 26 6)) (r5 (fld n 21 5)) (BitVec.ofNat 2 (fld n 19 2)) (BitVec.ofNat 3 (fld n 15 3)) (BitVec.ofNat 3 (fld n 9 3)) = _
  rw [e0, e1, e2, e3, e4]

theorem mxstAcc (sx : BitVec 6) (sw : BitVec 5) (ac : BitVec 2) (ms : BitVec 3) (sc : BitVec 3) : Statement (.mxstAcc sx sw ac ms sc) := by
  refine of_word rfl fun _ => ?_
  have hsx := sx.isLt
  have hsw := sw.isLt
  have hac := ac.isLt
  have hms := ms.isLt
  have hsc := sc.isLt
  refine decode_fields (op := .mxstAcc) (m := 0x7B) (f7 := (sx.toNat * 2 + sw.toNat / 16)) (b := (sw.toNat % 16 * 2 + (ac.toNat * 2) / 4)) (a := ((ac.toNat * 2) % 4 * 8 + ms.toNat)) (f3 := 1) (d := (sc.toNat * 4 + 1))
    (encM_fields _ _ _ _ _ _ _) (by decide) (by omega) (by omega) (by omega) (by decide) (by omega) (rfl) (rfl) (rfl) (rfl) (rfl) rfl
    (by unfold majorF decCustom3F; rw [show (sc.toNat * 4 + 1) % 4 = 1 by omega, show (ac.toNat * 2 % 4 * 8 + ms.toNat) / 8 % 2 = 0 by omega]; rfl) fun n F => ?_
  have e0 : (BitVec.ofNat 6 (fld n 26 6)) = sx := ofNat_of (F.p26b.trans (by omega))
  have e1 : (r5 (fld n 21 5)) = sw := ofNat_of (F.p21b.trans (by omega))
  have e2 : (BitVec.ofNat 2 (fld n 19 2)) = ac := ofNat_of (F.p19b.trans (by omega))
  have e3 : (BitVec.ofNat 3 (fld n 15 3)) = ms := ofNat_of (F.p15b.trans (by omega))
  have e4 : (BitVec.ofNat 3 (fld n 9 3)) = sc := ofNat_of (F.p9.trans (by omega))
  show Instr.mxstAcc (BitVec.ofNat 6 (fld n 26 6)) (r5 (fld n 21 5)) (BitVec.ofNat 2 (fld n 19 2)) (BitVec.ofNat 3 (fld n 15 3)) (BitVec.ofNat 3 (fld n 9 3)) = _
  rw [e0, e1, e2, e3, e4]

theorem mchain (sx : BitVec 6) (sw : BitVec 5) (ac : BitVec 3) (ms : BitVec 3) (sc : BitVec 3) (cf : ChainFmt) : Statement (.mchain sx sw ac ms sc cf) := by
  refine of_word rfl fun _ => ?_
  have hsx := sx.isLt
  have hsw := sw.isLt
  have hac := ac.isLt
  have hms := ms.isLt
  have hsc := sc.isLt
  have hcf := cf.code_lt
  refine decode_fields (op := .mchain) (m := 0x7B) (f7 := (sx.toNat * 2 + sw.toNat / 16)) (b := (sw.toNat % 16 * 2 + ac.toNat / 4)) (a := (ac.toNat % 4 * 8 + ms.toNat)) (f3 := 2) (d := (sc.toNat * 4 + cf.code))
    (encM_fields _ _ _ _ _ _ _) (by decide) (by omega) (by omega) (by omega) (by decide) (by omega) (rfl) (rfl) (rfl) (rfl) (rfl) rfl
    (by unfold majorF decCustom3F; rw [show (sc.toNat * 4 + cf.code) % 4 = cf.code by omega]; cases cf <;> rfl) fun n F => ?_
  have e0 : (BitVec.ofNat 6 (fld n 26 6)) = sx := ofNat_of (F.p26b.trans (by omega))
  have e1 : (r5 (fld n 21 5)) = sw := ofNat_of (F.p21b.trans (by omega))
  have e2 : (BitVec.ofNat 3 (fld n 18 3)) = ac := ofNat_of (F.p18.trans (by omega))
  have e3 : (BitVec.ofNat 3 (fld n 15 3)) = ms := ofNat_of (F.p15b.trans (by omega))
  have e4 : (BitVec.ofNat 3 (fld n 9 3)) = sc := ofNat_of (F.p9.trans (by omega))
  have e5 : ((ChainFmt.ofCode (fld n 7 2)).getD .f32) = cf := by rw [F.p7c.trans (show _ = cf.code by omega), ChainFmt.ofCode_code]; rfl
  show Instr.mchain (BitVec.ofNat 6 (fld n 26 6)) (r5 (fld n 21 5)) (BitVec.ofNat 3 (fld n 18 3)) (BitVec.ofNat 3 (fld n 15 3)) (BitVec.ofNat 3 (fld n 9 3)) ((ChainFmt.ofCode (fld n 7 2)).getD .f32) = _
  rw [e0, e1, e2, e3, e4, e5]

theorem mchainAcc (sx : BitVec 6) (sw : BitVec 5) (ac : BitVec 3) (ms : BitVec 3) (sc : BitVec 3) (cf : ChainFmt) : Statement (.mchainAcc sx sw ac ms sc cf) := by
  refine of_word rfl fun _ => ?_
  have hsx := sx.isLt
  have hsw := sw.isLt
  have hac := ac.isLt
  have hms := ms.isLt
  have hsc := sc.isLt
  have hcf := cf.code_lt
  refine decode_fields (op := .mchainAcc) (m := 0x7B) (f7 := (sx.toNat * 2 + sw.toNat / 16)) (b := (sw.toNat % 16 * 2 + ac.toNat / 4)) (a := (ac.toNat % 4 * 8 + ms.toNat)) (f3 := 3) (d := (sc.toNat * 4 + cf.code))
    (encM_fields _ _ _ _ _ _ _) (by decide) (by omega) (by omega) (by omega) (by decide) (by omega) (rfl) (rfl) (rfl) (rfl) (rfl) rfl
    (by unfold majorF decCustom3F; rw [show (sc.toNat * 4 + cf.code) % 4 = cf.code by omega]; cases cf <;> rfl) fun n F => ?_
  have e0 : (BitVec.ofNat 6 (fld n 26 6)) = sx := ofNat_of (F.p26b.trans (by omega))
  have e1 : (r5 (fld n 21 5)) = sw := ofNat_of (F.p21b.trans (by omega))
  have e2 : (BitVec.ofNat 3 (fld n 18 3)) = ac := ofNat_of (F.p18.trans (by omega))
  have e3 : (BitVec.ofNat 3 (fld n 15 3)) = ms := ofNat_of (F.p15b.trans (by omega))
  have e4 : (BitVec.ofNat 3 (fld n 9 3)) = sc := ofNat_of (F.p9.trans (by omega))
  have e5 : ((ChainFmt.ofCode (fld n 7 2)).getD .f32) = cf := by rw [F.p7c.trans (show _ = cf.code by omega), ChainFmt.ofCode_code]; rfl
  show Instr.mchainAcc (BitVec.ofNat 6 (fld n 26 6)) (r5 (fld n 21 5)) (BitVec.ofNat 3 (fld n 18 3)) (BitVec.ofNat 3 (fld n 15 3)) (BitVec.ofNat 3 (fld n 9 3)) ((ChainFmt.ofCode (fld n 7 2)).getD .f32) = _
  rw [e0, e1, e2, e3, e4, e5]

theorem mlease (rs1 : BitVec 5) : Statement (.mlease rs1) := by
  refine of_word rfl fun _ => ?_
  have hrs1 := rs1.isLt
  refine decode_fields (op := .mlease) (m := 0x7B) (f7 := 0x00) (b := 0) (a := rs1.toNat) (f3 := 4) (d := 0)
    (rfl) (by decide) (by decide) (by decide) (by omega) (by decide) (by decide) (rfl) (rfl) (rfl) (rfl) (rfl) rfl
    (rfl) fun n F => ?_
  have e0 : (r5 (fld n 15 5)) = rs1 := ofNat_of (F.p15.trans (by omega))
  show Instr.mlease (r5 (fld n 15 5)) = _
  rw [e0]

theorem mrel : Statement (.mrel) := by
  refine of_word rfl fun _ => ?_
  refine decode_fields (op := .mrel) (m := 0x7B) (f7 := 0x01) (b := 0) (a := 0) (f3 := 4) (d := 0)
    (rfl) (by decide) (by decide) (by decide) (by decide) (by decide) (by decide) (rfl) (rfl) (rfl) (rfl) (rfl) rfl
    (rfl) fun n F => ?_
  rfl

theorem oclaim (rd : BitVec 5) (rs1 : BitVec 5) : Statement (.oclaim rd rs1) := by
  refine of_word rfl fun _ => ?_
  have hrd := rd.isLt
  have hrs1 := rs1.isLt
  refine decode_fields (op := .oclaim) (m := 0x7B) (f7 := 0x02) (b := 0) (a := rs1.toNat) (f3 := 4) (d := rd.toNat)
    (rfl) (by decide) (by decide) (by decide) (by omega) (by decide) (by omega) (rfl) (rfl) (rfl) (rfl) (rfl) rfl
    (rfl) fun n F => ?_
  have e0 : (r5 (fld n 7 5)) = rd := ofNat_of (F.p7.trans (by omega))
  have e1 : (r5 (fld n 15 5)) = rs1 := ofNat_of (F.p15.trans (by omega))
  show Instr.oclaim (r5 (fld n 7 5)) (r5 (fld n 15 5)) = _
  rw [e0, e1]

theorem orel (rs1 : BitVec 5) (rs2 : BitVec 5) : Statement (.orel rs1 rs2) := by
  refine of_word rfl fun _ => ?_
  have hrs1 := rs1.isLt
  have hrs2 := rs2.isLt
  refine decode_fields (op := .orel) (m := 0x7B) (f7 := 0x03) (b := rs2.toNat) (a := rs1.toNat) (f3 := 4) (d := 0)
    (rfl) (by decide) (by decide) (by omega) (by omega) (by decide) (by decide) (rfl) (rfl) (rfl) (rfl) (rfl) rfl
    (rfl) fun n F => ?_
  have e0 : (r5 (fld n 15 5)) = rs1 := ofNat_of (F.p15.trans (by omega))
  have e1 : (r5 (fld n 20 5)) = rs2 := ofNat_of (F.p20.trans (by omega))
  show Instr.orel (r5 (fld n 15 5)) (r5 (fld n 20 5)) = _
  rw [e0, e1]

theorem ofill (rs1 : BitVec 5) (rs2 : BitVec 5) : Statement (.ofill rs1 rs2) := by
  refine of_word rfl fun _ => ?_
  have hrs1 := rs1.isLt
  have hrs2 := rs2.isLt
  refine decode_fields (op := .ofill) (m := 0x7B) (f7 := 0x04) (b := rs2.toNat) (a := rs1.toNat) (f3 := 4) (d := 0)
    (rfl) (by decide) (by decide) (by omega) (by omega) (by decide) (by decide) (rfl) (rfl) (rfl) (rfl) (rfl) rfl
    (rfl) fun n F => ?_
  have e0 : (r5 (fld n 15 5)) = rs1 := ofNat_of (F.p15.trans (by omega))
  have e1 : (r5 (fld n 20 5)) = rs2 := ofNat_of (F.p20.trans (by omega))
  show Instr.ofill (r5 (fld n 15 5)) (r5 (fld n 20 5)) = _
  rw [e0, e1]

theorem odrain (rs1 : BitVec 5) (rs2 : BitVec 5) : Statement (.odrain rs1 rs2) := by
  refine of_word rfl fun _ => ?_
  have hrs1 := rs1.isLt
  have hrs2 := rs2.isLt
  refine decode_fields (op := .odrain) (m := 0x7B) (f7 := 0x05) (b := rs2.toNat) (a := rs1.toNat) (f3 := 4) (d := 0)
    (rfl) (by decide) (by decide) (by omega) (by omega) (by decide) (by decide) (rfl) (rfl) (rfl) (rfl) (rfl) rfl
    (rfl) fun n F => ?_
  have e0 : (r5 (fld n 15 5)) = rs1 := ofNat_of (F.p15.trans (by omega))
  have e1 : (r5 (fld n 20 5)) = rs2 := ofNat_of (F.p20.trans (by omega))
  show Instr.odrain (r5 (fld n 15 5)) (r5 (fld n 20 5)) = _
  rw [e0, e1]

theorem odrainAmax (rs1 : BitVec 5) (rs2 : BitVec 5) : Statement (.odrainAmax rs1 rs2) := by
  refine of_word rfl fun _ => ?_
  have hrs1 := rs1.isLt
  have hrs2 := rs2.isLt
  refine decode_fields (op := .odrainAmax) (m := 0x7B) (f7 := 0x06) (b := rs2.toNat) (a := rs1.toNat) (f3 := 4) (d := 0)
    (rfl) (by decide) (by decide) (by omega) (by omega) (by decide) (by decide) (rfl) (rfl) (rfl) (rfl) (rfl) rfl
    (rfl) fun n F => ?_
  have e0 : (r5 (fld n 15 5)) = rs1 := ofNat_of (F.p15.trans (by omega))
  have e1 : (r5 (fld n 20 5)) = rs2 := ofNat_of (F.p20.trans (by omega))
  show Instr.odrainAmax (r5 (fld n 15 5)) (r5 (fld n 20 5)) = _
  rw [e0, e1]

theorem mstride (rs1 : BitVec 5) (rs2 : BitVec 5) : Statement (.mstride rs1 rs2) := by
  refine of_word rfl fun _ => ?_
  have hrs1 := rs1.isLt
  have hrs2 := rs2.isLt
  refine decode_fields (op := .mstride) (m := 0x7B) (f7 := 0x07) (b := rs2.toNat) (a := rs1.toNat) (f3 := 4) (d := 0)
    (rfl) (by decide) (by decide) (by omega) (by omega) (by decide) (by decide) (rfl) (rfl) (rfl) (rfl) (rfl) rfl
    (rfl) fun n F => ?_
  have e0 : (r5 (fld n 15 5)) = rs1 := ofNat_of (F.p15.trans (by omega))
  have e1 : (r5 (fld n 20 5)) = rs2 := ofNat_of (F.p20.trans (by omega))
  show Instr.mstride (r5 (fld n 15 5)) (r5 (fld n 20 5)) = _
  rw [e0, e1]

theorem maccz (rs1 : BitVec 5) : Statement (.maccz rs1) := by
  refine of_word rfl fun _ => ?_
  have hrs1 := rs1.isLt
  refine decode_fields (op := .maccz) (m := 0x7B) (f7 := 0x08) (b := 0) (a := rs1.toNat) (f3 := 4) (d := 0)
    (rfl) (by decide) (by decide) (by decide) (by omega) (by decide) (by decide) (rfl) (rfl) (rfl) (rfl) (rfl) rfl
    (rfl) fun n F => ?_
  have e0 : (r5 (fld n 15 5)) = rs1 := ofNat_of (F.p15.trans (by omega))
  show Instr.maccz (r5 (fld n 15 5)) = _
  rw [e0]

theorem mwait : Statement (.mwait) := by
  refine of_word rfl fun _ => ?_
  refine decode_fields (op := .mwait) (m := 0x7B) (f7 := 0x09) (b := 0) (a := 0) (f3 := 4) (d := 0)
    (rfl) (by decide) (by decide) (by decide) (by decide) (by decide) (by decide) (rfl) (rfl) (rfl) (rfl) (rfl) rfl
    (rfl) fun n F => ?_
  rfl

theorem mrgu (rs1 : BitVec 5) (rs2 : BitVec 5) : Statement (.mrgu rs1 rs2) := by
  refine of_word rfl fun _ => ?_
  have hrs1 := rs1.isLt
  have hrs2 := rs2.isLt
  refine decode_fields (op := .mrgu) (m := 0x7B) (f7 := 0x10) (b := rs2.toNat) (a := rs1.toNat) (f3 := 4) (d := 0)
    (rfl) (by decide) (by decide) (by omega) (by omega) (by decide) (by decide) (rfl) (rfl) (rfl) (rfl) (rfl) rfl
    (rfl) fun n F => ?_
  have e0 : (r5 (fld n 15 5)) = rs1 := ofNat_of (F.p15.trans (by omega))
  have e1 : (r5 (fld n 20 5)) = rs2 := ofNat_of (F.p20.trans (by omega))
  show Instr.mrgu (r5 (fld n 15 5)) (r5 (fld n 20 5)) = _
  rw [e0, e1]

theorem mrguDz (rs1 : BitVec 5) (rs2 : BitVec 5) : Statement (.mrguDz rs1 rs2) := by
  refine of_word rfl fun _ => ?_
  have hrs1 := rs1.isLt
  have hrs2 := rs2.isLt
  refine decode_fields (op := .mrguDz) (m := 0x7B) (f7 := 0x11) (b := rs2.toNat) (a := rs1.toNat) (f3 := 4) (d := 0)
    (rfl) (by decide) (by decide) (by omega) (by omega) (by decide) (by decide) (rfl) (rfl) (rfl) (rfl) (rfl) rfl
    (rfl) fun n F => ?_
  have e0 : (r5 (fld n 15 5)) = rs1 := ofNat_of (F.p15.trans (by omega))
  have e1 : (r5 (fld n 20 5)) = rs2 := ofNat_of (F.p20.trans (by omega))
  show Instr.mrguDz (r5 (fld n 15 5)) (r5 (fld n 20 5)) = _
  rw [e0, e1]

theorem mrgi (rs1 : BitVec 5) (rs2 : BitVec 5) : Statement (.mrgi rs1 rs2) := by
  refine of_word rfl fun _ => ?_
  have hrs1 := rs1.isLt
  have hrs2 := rs2.isLt
  refine decode_fields (op := .mrgi) (m := 0x7B) (f7 := 0x12) (b := rs2.toNat) (a := rs1.toNat) (f3 := 4) (d := 0)
    (rfl) (by decide) (by decide) (by omega) (by omega) (by decide) (by decide) (rfl) (rfl) (rfl) (rfl) (rfl) rfl
    (rfl) fun n F => ?_
  have e0 : (r5 (fld n 15 5)) = rs1 := ofNat_of (F.p15.trans (by omega))
  have e1 : (r5 (fld n 20 5)) = rs2 := ofNat_of (F.p20.trans (by omega))
  show Instr.mrgi (r5 (fld n 15 5)) (r5 (fld n 20 5)) = _
  rw [e0, e1]

theorem scnv (rs1 : BitVec 5) (rs2 : BitVec 5) : Statement (.scnv rs1 rs2) := by
  refine of_word rfl fun _ => ?_
  have hrs1 := rs1.isLt
  have hrs2 := rs2.isLt
  refine decode_fields (op := .scnv) (m := 0x7B) (f7 := 0x13) (b := rs2.toNat) (a := rs1.toNat) (f3 := 4) (d := 0)
    (rfl) (by decide) (by decide) (by omega) (by omega) (by decide) (by decide) (rfl) (rfl) (rfl) (rfl) (rfl) rfl
    (rfl) fun n F => ?_
  have e0 : (r5 (fld n 15 5)) = rs1 := ofNat_of (F.p15.trans (by omega))
  have e1 : (r5 (fld n 20 5)) = rs2 := ofNat_of (F.p20.trans (by omega))
  show Instr.scnv (r5 (fld n 15 5)) (r5 (fld n 20 5)) = _
  rw [e0, e1]

theorem scnvw (rd : BitVec 5) (rs1 : BitVec 5) : Statement (.scnvw rd rs1) := by
  refine of_word rfl fun _ => ?_
  have hrd := rd.isLt
  have hrs1 := rs1.isLt
  refine decode_fields (op := .scnvw) (m := 0x7B) (f7 := 0x14) (b := 0) (a := rs1.toNat) (f3 := 4) (d := rd.toNat)
    (rfl) (by decide) (by decide) (by decide) (by omega) (by decide) (by omega) (rfl) (rfl) (rfl) (rfl) (rfl) rfl
    (rfl) fun n F => ?_
  have e0 : (r5 (fld n 7 5)) = rd := ofNat_of (F.p7.trans (by omega))
  have e1 : (r5 (fld n 15 5)) = rs1 := ofNat_of (F.p15.trans (by omega))
  show Instr.scnvw (r5 (fld n 7 5)) (r5 (fld n 15 5)) = _
  rw [e0, e1]

theorem lclr0 : Statement (.lclr0) := by
  refine of_word rfl fun _ => ?_
  refine decode_fields (op := .lclr0) (m := 0x7B) (f7 := 0x20) (b := 0) (a := 0) (f3 := 4) (d := 0)
    (rfl) (by decide) (by decide) (by decide) (by decide) (by decide) (by decide) (rfl) (rfl) (rfl) (rfl) (rfl) rfl
    (rfl) fun n F => ?_
  rfl

theorem lclr1 : Statement (.lclr1) := by
  refine of_word rfl fun _ => ?_
  refine decode_fields (op := .lclr1) (m := 0x7B) (f7 := 0x21) (b := 0) (a := 0) (f3 := 4) (d := 0)
    (rfl) (by decide) (by decide) (by decide) (by decide) (by decide) (by decide) (rfl) (rfl) (rfl) (rfl) (rfl) rfl
    (rfl) fun n F => ?_
  rfl

theorem safept (k : BitVec 10) : Statement (.safept k) := by
  refine of_word rfl fun _ => ?_
  have hk := k.isLt
  refine decode_fields (op := .safept) (m := 0x7B) (f7 := 0x30) (b := (k.toNat / 32)) (a := (k.toNat % 32)) (f3 := 4) (d := 0)
    (by unfold encR; exact congrArg w32 (by omega)) (by decide) (by decide) (by omega) (by omega) (by decide) (by decide) (rfl) (rfl) (rfl) (rfl) (rfl) rfl
    (rfl) fun n F => ?_
  have e0 : (BitVec.ofNat 10 (fld n 15 10)) = k := ofNat_of (F.p15c.trans (by omega))
  show Instr.safept (BitVec.ofNat 10 (fld n 15 10)) = _
  rw [e0]

theorem codecmt (rd : BitVec 5) (rs1 : BitVec 5) : Statement (.codecmt rd rs1) := by
  refine of_word rfl fun _ => ?_
  have hrd := rd.isLt
  have hrs1 := rs1.isLt
  refine decode_fields (op := .codecmt) (m := 0x7B) (f7 := 0x31) (b := 0) (a := rs1.toNat) (f3 := 4) (d := rd.toNat)
    (rfl) (by decide) (by decide) (by decide) (by omega) (by decide) (by omega) (rfl) (rfl) (rfl) (rfl) (rfl) rfl
    (rfl) fun n F => ?_
  have e0 : (r5 (fld n 7 5)) = rd := ofNat_of (F.p7.trans (by omega))
  have e1 : (r5 (fld n 15 5)) = rs1 := ofNat_of (F.p15.trans (by omega))
  show Instr.codecmt (r5 (fld n 7 5)) (r5 (fld n 15 5)) = _
  rw [e0, e1]

theorem wfm : Statement (.wfm) := by
  refine of_word rfl fun _ => ?_
  refine decode_fields (op := .wfm) (m := 0x7B) (f7 := 0x32) (b := 0) (a := 0) (f3 := 4) (d := 0)
    (rfl) (by decide) (by decide) (by decide) (by decide) (by decide) (by decide) (rfl) (rfl) (rfl) (rfl) (rfl) rfl
    (rfl) fun n F => ?_
  rfl

theorem cseal (rs1 : BitVec 5) : Statement (.cseal rs1) := by
  refine of_word rfl fun _ => ?_
  have hrs1 := rs1.isLt
  refine decode_fields (op := .cseal) (m := 0x7B) (f7 := 0x38) (b := 0) (a := rs1.toNat) (f3 := 4) (d := 0)
    (rfl) (by decide) (by decide) (by decide) (by omega) (by decide) (by decide) (rfl) (rfl) (rfl) (rfl) (rfl) rfl
    (rfl) fun n F => ?_
  have e0 : (r5 (fld n 15 5)) = rs1 := ofNat_of (F.p15.trans (by omega))
  show Instr.cseal (r5 (fld n 15 5)) = _
  rw [e0]

theorem crestart (rs1 : BitVec 5) : Statement (.crestart rs1) := by
  refine of_word rfl fun _ => ?_
  have hrs1 := rs1.isLt
  refine decode_fields (op := .crestart) (m := 0x7B) (f7 := 0x39) (b := 0) (a := rs1.toNat) (f3 := 4) (d := 0)
    (rfl) (by decide) (by decide) (by decide) (by omega) (by decide) (by decide) (rfl) (rfl) (rfl) (rfl) (rfl) rfl
    (rfl) fun n F => ?_
  have e0 : (r5 (fld n 15 5)) = rs1 := ofNat_of (F.p15.trans (by omega))
  show Instr.crestart (r5 (fld n 15 5)) = _
  rw [e0]

theorem sig (crc : BitVec 12) (e : Bool) (k : EndKind) : Statement (.sig crc e k) := by
  refine of_word rfl fun _ => ?_
  have hcrc := crc.isLt
  have he : e.toNat ≤ 1 := by cases e <;> decide
  have hk := k.code_lt
  refine decode_fields (op := .sig) (m := 0x7B) (f7 := (crc.toNat / 32)) (b := (crc.toNat % 32)) (a := (e.toNat * 16 + k.code / 2 * 4)) (f3 := 5) (d := (k.code % 2 * 16))
    (by unfold encR; exact congrArg w32 (by omega)) (by decide) (by omega) (by omega) (by omega) (by decide) (by omega) (rfl) (rfl) (rfl) (rfl) (rfl) rfl
    (by cases k <;> cases e <;> rfl) fun n F => ?_
  have e0 : (BitVec.ofNat 12 (fld n 20 12)) = crc := ofNat_of (F.i12.trans (by omega))
  have e1 : (fld n 19 1 == 1) = e := by rw [F.p19]; cases e <;> cases k <;> rfl
  have e2 : ((EndKind.ofCode (fld n 17 2 * 2 + fld n 11 1)).getD .plain) = k := by rw [F.p17, F.p11]; cases k <;> cases e <;> rfl
  show Instr.sig (BitVec.ofNat 12 (fld n 20 12)) (fld n 19 1 == 1) ((EndKind.ofCode (fld n 17 2 * 2 + fld n 11 1)).getD .plain) = _
  rw [e0, e1, e2]

theorem hloop (level : Bool) (rs1 : BitVec 5) (soff : BitVec 2) (eoff : BitVec 10) : Statement (.hloop level rs1 soff eoff) := by
  refine of_word rfl fun _ => ?_
  have hlevel : level.toNat ≤ 1 := by cases level <;> decide
  have hrs1 := rs1.isLt
  have hsoff := soff.isLt
  have heoff := eoff.isLt
  refine decode_fields (op := .hloop) (m := 0x7B) (f7 := (eoff.toNat / 8)) (b := (soff.toNat + eoff.toNat % 8 * 4)) (a := rs1.toNat) (f3 := 6) (d := level.toNat)
    (by unfold encR; exact congrArg w32 (by omega)) (by decide) (by omega) (by omega) (by omega) (by decide) (by omega) (rfl) (rfl) (rfl) (rfl) (rfl) rfl
    (by cases level <;> rfl) fun n F => ?_
  have e0 : (fld n 7 1 == 1) = level := by rw [F.p7d]; cases level <;> rfl
  have e1 : (r5 (fld n 15 5)) = rs1 := ofNat_of (F.p15.trans (by omega))
  have e2 : (BitVec.ofNat 2 (fld n 20 2)) = soff := ofNat_of (F.p20e.trans (by omega))
  have e3 : (BitVec.ofNat 10 (fld n 22 10)) = eoff := ofNat_of (F.p22b.trans (by omega))
  show Instr.hloop (fld n 7 1 == 1) (r5 (fld n 15 5)) (BitVec.ofNat 2 (fld n 20 2)) (BitVec.ofNat 10 (fld n 22 10)) = _
  rw [e0, e1, e2, e3]

theorem fmt (fa : Fmt) (fb : Fmt) (fd : Fmt) (sm : ScaleMode) : Statement (.fmt fa fb fd sm) := by
  refine of_word rfl fun _ => ?_
  have ha := fa.code_lt
  have hb := fb.code_lt
  have hd := fd.code_lt
  have hs := sm.code_lt
  rw [show w32 (0x707B + sm.code * 2 ^ 18 + fd.code * 2 ^ 20 + fb.code * 2 ^ 24 + fa.code * 2 ^ 28) =
    encR 0x7B (fb.code / 2 + fa.code * 8) (fd.code + fb.code % 2 * 16) (sm.code * 8) 7 0 by unfold encR; congr 1; omega]
  have F := fields (m := 0x7B) (f7 := fb.code / 2 + fa.code * 8) (b := fd.code + fb.code % 2 * 16) (a := sm.code * 8)
    (f3 := 7) (d := 0) (by decide) (by omega) (by omega) (by omega) (by decide) (by decide)
  have h := fmt_of F.p0 F.p12 (F.p28.trans (show _ = fa.code by omega)) (F.p24.trans (show _ = fb.code by omega))
    (F.p20c.trans (show _ = fd.code by omega)) (F.p18b.trans (show _ = sm.code by omega)) (F.p15b.trans (by omega)) F.p7
  exact h

theorem trapEntry (h : Nat) : Statement (.trapEntry h) := of_none rfl

theorem localTimer (h : Nat) : Statement (.localTimer h) := of_none rfl

theorem stimecmpWrite (h : Nat) (v : BitVec 64) : Statement (.stimecmpWrite h v) := of_none rfl

theorem srseedWrite (h : Nat) (v : BitVec 64) : Statement (.srseedWrite h v) := of_none rfl

theorem cvamaxAccess (h : Nat) (csr : BitVec 12) (wr : Option (BitVec 64)) : Statement (.cvamaxAccess h csr wr) := of_none rfl

theorem registerWrite (h : Nat) (csr : BitVec 12) (v : BitVec 64) : Statement (.registerWrite h csr v) := of_none rfl

theorem windowCsrAccess (c : Nat) (addr : Nat) (wr : Option (BitVec 64)) : Statement (.windowCsrAccess c addr wr) := of_none rfl

theorem windowImemWrite (c : Nat) (off : Nat) (bytes : List (BitVec 8)) : Statement (.windowImemWrite c off bytes) := of_none rfl

theorem codeScanStart (c : Nat) : Statement (.codeScanStart c) := of_none rfl

theorem codecmtCompletion (c : Nat) : Statement (.codecmtCompletion c) := of_none rfl

theorem streamImageFetch (h : Nat) (v : Nat) : Statement (.streamImageFetch h v) := of_none rfl

theorem streamImageStore (h : Nat) (v : Nat) : Statement (.streamImageStore h v) := of_none rfl

theorem remoteRequest (p : Nat) : Statement (.remoteRequest p) := of_none rfl

theorem replyLanding (p : Nat) : Statement (.replyLanding p) := of_none rfl

theorem storeAck (p : Nat) : Statement (.storeAck p) := of_none rfl

theorem errorReply (p : Nat) : Statement (.errorReply p) := of_none rfl

theorem gatherLaneReply (p : Nat) : Statement (.gatherLaneReply p) := of_none rfl

theorem virtualAccess (p : Nat) : Statement (.virtualAccess p) := of_none rfl

theorem priResponse (die : Nat) (station : Nat) (slot : Nat) (page : Nat) (success : Bool) : Statement (.priResponse die station slot page success) := of_none rfl

theorem atsCompletion (die : Nat) (station : Nat) (slot : Nat) (page : Nat) (frame : Option Nat) (writable : Bool) : Statement (.atsCompletion die station slot page frame writable) := of_none rfl

theorem atsInvalidation (slot : Nat) (page : Nat) : Statement (.atsInvalidation slot page) := of_none rfl

theorem feRequest (p : Nat) : Statement (.feRequest p) := of_none rfl

theorem feTimeout (p : Nat) : Statement (.feTimeout p) := of_none rfl

theorem feWithdraw (h : Nat) : Statement (.feWithdraw h) := of_none rfl

theorem engineQueueGrant (clu : Nat) (eng : Engine) : Statement (.engineQueueGrant clu eng) := of_none rfl

theorem copyCompletion (clu : Nat) : Statement (.copyCompletion clu) := of_none rfl

theorem typeEntryRead (clu : Nat) (handle : Nat) (ty : Nat) : Statement (.typeEntryRead clu handle ty) := of_none rfl

theorem taskRecordArrival (p : Nat) : Statement (.taskRecordArrival p) := of_none rfl

theorem taskBufferAccept (clu : Nat) : Statement (.taskBufferAccept clu) := of_none rfl

theorem acceptanceNotice (p : Nat) : Statement (.acceptanceNotice p) := of_none rfl

theorem beaconInterval (clu : Nat) : Statement (.beaconInterval clu) := of_none rfl

theorem beacon (p : Nat) : Statement (.beacon p) := of_none rfl

theorem neighbourSilence (clu : Nat) (nbr : Nat) : Statement (.neighbourSilence clu nbr) := of_none rfl

theorem dispatch (clu : Nat) : Statement (.dispatch clu) := of_none rfl

theorem preemptionRequest (clu : Nat) : Statement (.preemptionRequest clu) := of_none rfl

theorem dec (p : Nat) : Statement (.dec p) := of_none rfl

theorem joinOpArrival (p : Nat) : Statement (.joinOpArrival p) := of_none rfl

theorem release (p : Nat) : Statement (.release p) := of_none rfl

theorem unpin (p : Nat) : Statement (.unpin p) := of_none rfl

theorem lost (p : Nat) : Statement (.lost p) := of_none rfl

theorem dieFailureNotice (die : Nat) : Statement (.dieFailureNotice die) := of_none rfl

theorem acceptanceTimeout (clu : Nat) (ser : Nat) : Statement (.acceptanceTimeout clu ser) := of_none rfl

theorem ringNotify (p : Nat) : Statement (.ringNotify p) := of_none rfl

theorem hostRingPoll (n : Nat) : Statement (.hostRingPoll n) := of_none rfl

theorem launchStart (p : Nat) : Statement (.launchStart p) := of_none rfl

theorem launchEndNotice (p : Nat) : Statement (.launchEndNotice p) := of_none rfl

theorem collect (p : Nat) : Statement (.collect p) := of_none rfl

theorem done (p : Nat) : Statement (.done p) := of_none rfl

theorem completionRingRetry (handle : Nat) : Statement (.completionRingRetry handle) := of_none rfl

theorem depositArrival (p : Nat) : Statement (.depositArrival p) := of_none rfl

theorem depositHoldTimeout (p : Nat) : Statement (.depositHoldTimeout p) := of_none rfl

theorem armedReadTimeout (h : Nat) : Statement (.armedReadTimeout h) := of_none rfl

theorem handlerMessageArrival (p : Nat) : Statement (.handlerMessageArrival p) := of_none rfl

theorem handlerResend (p : Nat) : Statement (.handlerResend p) := of_none rfl

theorem handlerResendTimeout (p : Nat) : Statement (.handlerResendTimeout p) := of_none rfl

theorem handlerScan (c : Nat) (slot : Nat) : Statement (.handlerScan c slot) := of_none rfl

theorem handlerEntry (h : Nat) : Statement (.handlerEntry h) := of_none rfl

theorem channelPacketArrival (p : Nat) : Statement (.channelPacketArrival p) := of_none rfl

theorem channelResend (h : Nat) (v : Nat) : Statement (.channelResend h v) := of_none rfl

theorem channelImageTimeout (p : Nat) : Statement (.channelImageTimeout p) := of_none rfl

theorem contextArrival (p : Nat) : Statement (.contextArrival p) := of_none rfl

theorem contextResend (p : Nat) : Statement (.contextResend p) := of_none rfl

theorem spillRefill (c : Nat) : Statement (.spillRefill c) := of_none rfl

theorem leaseGrant (clu : Nat) : Statement (.leaseGrant clu) := of_none rfl

theorem leaseIdleTimeout (clu : Nat) : Statement (.leaseIdleTimeout clu) := of_none rfl

theorem engineCommandStart (clu : Nat) : Statement (.engineCommandStart clu) := of_none rfl

theorem engineCommandCompletion (clu : Nat) : Statement (.engineCommandCompletion clu) := of_none rfl

theorem drainCompletion (clu : Nat) : Statement (.drainCompletion clu) := of_none rfl

theorem engineCommandFailure (clu : Nat) : Statement (.engineCommandFailure clu) := of_none rfl

theorem slotClearDone (clu : Nat) : Statement (.slotClearDone clu) := of_none rfl

theorem sparseCommandStart (clu : Nat) (eng : Engine) : Statement (.sparseCommandStart clu eng) := of_none rfl

theorem sparseCommandCompletion (clu : Nat) (eng : Engine) : Statement (.sparseCommandCompletion clu eng) := of_none rfl

theorem scnvwTimeout (h : Nat) : Statement (.scnvwTimeout h) := of_none rfl

theorem spawnWaitTimeout (h : Nat) : Statement (.spawnWaitTimeout h) := of_none rfl

theorem ringWaitTimeout (h : Nat) : Statement (.ringWaitTimeout h) := of_none rfl

theorem flitReceive (l : Nat) (flit : List (BitVec 8)) : Statement (.flitReceive l flit) := of_none rfl

theorem nak (l : Nat) (lseq : Nat) : Statement (.nak l lseq) := of_none rfl

theorem linkControlFlit (l : Nat) : Statement (.linkControlFlit l) := of_none rfl

theorem linkDrop (l : Nat) : Statement (.linkDrop l) := of_none rfl

theorem linkRetrained (l : Nat) : Statement (.linkRetrained l) := of_none rfl

theorem retrainTimeout (l : Nat) : Statement (.retrainTimeout l) := of_none rfl

theorem gatewayPacketArrival (port : Nat) (eseq : Nat) (bytes : List (BitVec 8)) : Statement (.gatewayPacketArrival port eseq bytes) := of_none rfl

theorem sack (port : Nat) (base : Nat) (bitmap : BitVec 64) : Statement (.sack port base bitmap) := of_none rfl

theorem sackTimer (port : Nat) (peer : Nat) : Statement (.sackTimer port peer) := of_none rfl

theorem e2eResend (port : Nat) (eseq : Nat) : Statement (.e2eResend port eseq) := of_none rfl

theorem peerUnreachable (port : Nat) (peer : Nat) : Statement (.peerUnreachable port peer) := of_none rfl

theorem mcwCopyArrival (p : Nat) : Statement (.mcwCopyArrival p) := of_none rfl

theorem groupInstall (p : Nat) : Statement (.groupInstall p) := of_none rfl

theorem grpwCompletion (h : Nat) : Statement (.grpwCompletion h) := of_none rfl

theorem keyrotCompletion (port : Nat) : Statement (.keyrotCompletion port) := of_none rfl

theorem keyrotTimeout (h : Nat) : Statement (.keyrotTimeout h) := of_none rfl

theorem droopStretch (clu : Nat) (half : Bool) : Statement (.droopStretch clu half) := of_none rfl

theorem droopRecover (clu : Nat) : Statement (.droopRecover clu) := of_none rfl

theorem saffronWatchdog (die : Nat) : Statement (.saffronWatchdog die) := of_none rfl

theorem bankRetire (c : Nat) (bank : Nat) : Statement (.bankRetire c bank) := of_none rfl

theorem powerOn (pkg : Nat) (mordantFw : List (BitVec 32)) (hartFw : List (BitVec 32)) : Statement (.powerOn pkg mordantFw hartFw) := of_none rfl

theorem cxlMemAccess (port : Nat) (addr : Nat) (len : Nat) (wr : Option (List (BitVec 8))) : Statement (.cxlMemAccess port addr len wr) := of_none rfl

theorem cmdringWrite (v : BitVec 64) : Statement (.cmdringWrite v) := of_none rfl

theorem cmdRingPoll : Statement (.cmdRingPoll) := of_none rfl

theorem attach (tag : Nat) (pasid : Nat) (mode : Nat) (root : Nat) : Statement (.attach tag pasid mode root) := of_none rfl

theorem detach (tag : Nat) (slot : Nat) : Statement (.detach tag slot) := of_none rfl

theorem ringbind (tag : Nat) (n : Nat) (slot : Nat) (desc : Nat) : Statement (.ringbind tag n slot desc) := of_none rfl

theorem endlaunch (tag : Nat) (slot : Nat) (root : Nat) (lseq : Nat) : Statement (.endlaunch tag slot root lseq) := of_none rfl

theorem retire (tag : Nat) (kind : Nat) (unit : Nat) : Statement (.retire tag kind unit) := of_none rfl

theorem reload (tag : Nat) (die : Nat) (clu : Nat) (addr : Nat) (len : Nat) : Statement (.reload tag die clu addr len) := of_none rfl

theorem chkpt (tag : Nat) (base : Nat) (len : Nat) (off : Nat) : Statement (.chkpt tag base len off) := of_none rfl

theorem restore (tag : Nat) (base : Nat) (len : Nat) (off : Nat) : Statement (.restore tag base len off) := of_none rfl

theorem counters (tag : Nat) (die : Nat) (clu : Nat) (buf : Nat) : Statement (.counters tag die clu buf) := of_none rfl

theorem getVersion : Statement (.getVersion) := of_none rfl

theorem getCapabilities : Statement (.getCapabilities) := of_none rfl

theorem negotiateAlgorithms (request : List (BitVec 8)) : Statement (.negotiateAlgorithms request) := of_none rfl

theorem getDigests : Statement (.getDigests) := of_none rfl

theorem getCertificate (slot : Nat) (off : Nat) (len : Nat) : Statement (.getCertificate slot off len) := of_none rfl

theorem challenge (nonce : List (BitVec 8)) : Statement (.challenge nonce) := of_none rfl

theorem getMeasurements (index : Nat) (nonce : List (BitVec 8)) : Statement (.getMeasurements index nonce) := of_none rfl

theorem cxlPortDown (port : Nat) (up : Bool) : Statement (.cxlPortDown port up) := of_none rfl

theorem keyStaging (port : Nat) (key : Nat) : Statement (.keyStaging port key) := of_none rfl

theorem fabricPeerReset (port : Nat) (peer : Nat) : Statement (.fabricPeerReset port peer) := of_none rfl

theorem clusterFailure (clu : Nat) : Statement (.clusterFailure clu) := of_none rfl

theorem spaustLaneFailure (port : Nat) : Statement (.spaustLaneFailure port) := of_none rfl

theorem chkptCompletion : Statement (.chkptCompletion) := of_none rfl

theorem hdmDecoderSet (base : Nat) : Statement (.hdmDecoderSet base) := of_none rfl

end Sys2Proof.Laws.RoundTrip
end

