-- ==== Sys2Proof/Safety.lean ====
section
/-! DEFINITION. The terms in which claims are made: what stays as it was, what retiring a word does and
leaves (R64, R69, R96), and the invariant every step keeps. -/

namespace Sys2Proof.Machine
open Sys2Proof

/-! What stays as it was. -/

/-- Nothing outside the harts and memory differs. -/
structure SameDevice (s t : State) : Prop where
  cores    : t.cores = s.cores
  clusters : t.clusters = s.clusters
  dies     : t.dies = s.dies
  pkg      : t.pkg = s.pkg
  gran     : t.gran = s.gran
  net      : t.net = s.net
  nextId   : t.nextId = s.nextId
  paths    : t.paths = s.paths
  links    : t.links = s.links
  agenda   : t.agenda = s.agenda
  cur      : t.cur = s.cur
  free     : t.free = s.free

/-- Every byte of memory reads as before. -/
def SameMemory (s t : State) : Prop := ∀ a, t.mem.read a = s.mem.read a
/-- Every byte outside the n bytes at loc reads as before. -/
def SameOutside (s t : State) (loc n : Nat) : Prop :=
  ∀ a, a < loc ∨ loc + n ≤ a → t.mem.read a = s.mem.read a
/-- Every hart but the executing one is as before. -/
def OtherHarts (s t : State) : Prop := ∀ h, h ≠ s.cur → t.hart h = s.hart h

/-! Retirement. -/

/-- Register n of file q counts the passes of the VLOOP under way (R145). -/
def countsPasses (H : Hart) (q : RFile) (n : Nat) : Bool :=
  q == .x && match H.vloop with | some v => v.reg == n | none => false

/-- The level of R96 meets its end at this word and goes back. -/
def goesBack (C : Csrs) (l : LoopLevel) (a : Word) : Bool := leBit C && l.count != 0 && l.count != 1 && a == l.stop

/-- Where the word at pc is followed when it transfers no control (R96). -/
def nextPc (H : Hart) : Word :=
  if goesBack H.csr H.csr.loop0 H.pc then H.csr.loop0.start
  else if goesBack H.csr H.csr.loop1 H.pc then H.csr.loop1.start
  else H.pc + 4

/-- The fields of a hart that retiring a word of its own may change: pc, loop counts, the pass under way,
the broken body it ends, the checker's run and last, the stored errors of what it writes, and the marks of the word at issue.
Everything else stays. -/
def SameButRetire (H T : Hart) : Prop :=
  T = { H with
    x := T.x, f := T.f, v := T.v, m := T.m
    pc := T.pc, arrival := T.arrival, vloop := T.vloop, broken := T.broken
    pfx := false, held := none, fetched := [], lanes := [], stalled := none, ending := false, fw := false
    dropped := if H.mode == .U && H.handler.isNone then [] else H.dropped
    fromSigned := H.irSigned, ranSince := H.ranSince || (H.handler.isNone && H.mode == .U && H.task.isSome), flaws := flawsLeft H
    chk := { H.chk with run := T.chk.run, last := T.chk.last }
    csr := { H.csr with
      loop0 := { H.csr.loop0 with count := T.csr.loop0.count }
      loop1 := { H.csr.loop1 with count := T.csr.loop1.count } } }

/-- Every register of hart T reads as in hart H, but the one that counts passes of a VLOOP. -/
def SameRegs (H T : Hart) : Prop :=
  ∀ q n, countsPasses H q n = false → T.getReg q n = H.getReg q n

/-- t is s after its executing hart has retired its word in sequence: where the word has already had its
effect in s, nothing else changes. -/
structure Retired (s t : State) : Prop where
  device : SameDevice s t
  memory : SameMemory s t
  others : OtherHarts s t
  regs   : SameRegs s.me t.me
  rest   : SameButRetire s.me t.me
  pc     : s.me.vloop = none → t.me.pc = nextPc s.me

/-- t is s after its executing hart has retired a word that sends control to `dest` (R96: no loop level is
evaluated). -/
structure Jumped (s t : State) (dest : Word) : Prop where
  device : SameDevice s t
  memory : SameMemory s t
  others : OtherHarts s t
  regs   : ∀ q n, t.me.getReg q n = s.me.getReg q n
  rest   : SameButRetire s.me t.me
  loops  : t.me.csr = s.me.csr
  pc     : t.me.pc = dest

/-! The invariant. -/

/-- Memory is in its canonical form. -/
def Inv (s : State) : Prop := s.mem.wf = true

end Sys2Proof.Machine
end

