-- ==== Sys2Proof/Certificates/Slice0/Obligations.lean ====
section
/-! DEFINITION. The statements for the provers, with the tables of results they are stated over. -/

/-! Words of the scalar chapter. -/

namespace Sys2Proof.Spec
open Sys2Proof Sys2Proof.Machine

/-- A 32-bit value sign-extended to 64 bits, and the low 32 bits of a word. -/
def sx (v : BitVec 32) : Word := v.signExtend 64
def low (v : Word) : BitVec 32 := v.setWidth 32
/-- A truth value as a word. -/
def flag (p : Prop) [Decidable p] : Word := if p then 1 else 0
/-- Division and remainder of the base specification (R39): truncated toward zero; a zero divisor gives all
ones and the dividend; the one overflow wraps. -/
def quotS {w : Nat} (a b : BitVec w) : BitVec w := BitVec.ofInt w (if b = 0 then -1 else a.toInt.tdiv b.toInt)
def restS {w : Nat} (a b : BitVec w) : BitVec w := if b = 0 then a else BitVec.ofInt w (a.toInt.tmod b.toInt)
def quotU {w : Nat} (a b : BitVec w) : BitVec w := if b = 0 then BitVec.ofInt w (-1) else BitVec.ofNat w (a.toNat / b.toNat)
def restU {w : Nat} (a b : BitVec w) : BitVec w := if b = 0 then a else BitVec.ofNat w (a.toNat % b.toNat)
/-- Bits 127 .. 64 of a product. -/
def upper (p : Int) : Word := BitVec.ofInt 64 (p / 2 ^ 64)

/-- The integer computational instructions (R39, R92, R93): destination and result. -/
def intResult (s : State) : Instr → Option (BitVec 5 × Word)
  | .lui rd imm => some (rd, sx (imm ++ 0#12))
  | .auipc rd imm => some (rd, s.me.pc + sx (imm ++ 0#12))
  | .addi rd a imm => some (rd, s.x a + imm.signExtend 64)
  | .slti rd a imm => some (rd, flag ((s.x a).toInt < imm.toInt))
  | .sltiu rd a imm => some (rd, flag ((s.x a).toNat < (imm.signExtend 64).toNat))
  | .xori rd a imm => some (rd, s.x a ^^^ imm.signExtend 64)
  | .ori rd a imm => some (rd, s.x a ||| imm.signExtend 64)
  | .andi rd a imm => some (rd, s.x a &&& imm.signExtend 64)
  | .slli rd a sh => some (rd, s.x a <<< sh.toNat)
  | .srli rd a sh => some (rd, BitVec.ofNat 64 ((s.x a).toNat / 2 ^ sh.toNat))
  | .srai rd a sh => some (rd, BitVec.ofInt 64 ((s.x a).toInt / 2 ^ sh.toNat))
  | .add rd a b => some (rd, s.x a + s.x b)
  | .sub rd a b => some (rd, s.x a - s.x b)
  | .sll rd a b => some (rd, s.x a <<< ((s.x b).toNat % 64))
  | .slt rd a b => some (rd, flag ((s.x a).toInt < (s.x b).toInt))
  | .sltu rd a b => some (rd, flag ((s.x a).toNat < (s.x b).toNat))
  | .xor rd a b => some (rd, s.x a ^^^ s.x b)
  | .srl rd a b => some (rd, BitVec.ofNat 64 ((s.x a).toNat / 2 ^ ((s.x b).toNat % 64)))
  | .sra rd a b => some (rd, BitVec.ofInt 64 ((s.x a).toInt / 2 ^ ((s.x b).toNat % 64)))
  | .or rd a b => some (rd, s.x a ||| s.x b)
  | .and rd a b => some (rd, s.x a &&& s.x b)
  | .addiw rd a imm => some (rd, sx (low (s.x a + imm.signExtend 64)))
  | .slliw rd a sh => some (rd, sx (low (s.x a) <<< sh.toNat))
  | .srliw rd a sh => some (rd, sx (BitVec.ofNat 32 ((low (s.x a)).toNat / 2 ^ sh.toNat)))
  | .sraiw rd a sh => some (rd, sx (BitVec.ofInt 32 ((low (s.x a)).toInt / 2 ^ sh.toNat)))
  | .addw rd a b => some (rd, sx (low (s.x a + s.x b)))
  | .subw rd a b => some (rd, sx (low (s.x a - s.x b)))
  | .sllw rd a b => some (rd, sx (low (s.x a) <<< ((s.x b).toNat % 32)))
  | .srlw rd a b => some (rd, sx (BitVec.ofNat 32 ((low (s.x a)).toNat / 2 ^ ((s.x b).toNat % 32))))
  | .sraw rd a b => some (rd, sx (BitVec.ofInt 32 ((low (s.x a)).toInt / 2 ^ ((s.x b).toNat % 32))))
  | .mul rd a b => some (rd, s.x a * s.x b)
  | .mulh rd a b => some (rd, upper ((s.x a).toInt * (s.x b).toInt))
  | .mulhsu rd a b => some (rd, upper ((s.x a).toInt * (s.x b).toNat))
  | .mulhu rd a b => some (rd, upper ((s.x a).toNat * (s.x b).toNat))
  | .div rd a b => some (rd, quotS (s.x a) (s.x b))
  | .divu rd a b => some (rd, quotU (s.x a) (s.x b))
  | .rem rd a b => some (rd, restS (s.x a) (s.x b))
  | .remu rd a b => some (rd, restU (s.x a) (s.x b))
  | .mulw rd a b => some (rd, sx (low (s.x a * s.x b)))
  | .divw rd a b => some (rd, sx (quotS (low (s.x a)) (low (s.x b))))
  | .divuw rd a b => some (rd, sx (quotU (low (s.x a)) (low (s.x b))))
  | .remw rd a b => some (rd, sx (restS (low (s.x a)) (low (s.x b))))
  | .remuw rd a b => some (rd, sx (restU (low (s.x a)) (low (s.x b))))
  | _ => none

/-- The condition of a branch (R39): the two sources and the byte offset. -/
def branchTaken (s : State) : Instr → Option (Bool × Word)
  | .beq a b off => some (s.x a == s.x b, (off ++ 0#1).signExtend 64)
  | .bne a b off => some (s.x a != s.x b, (off ++ 0#1).signExtend 64)
  | .blt a b off => some (decide ((s.x a).toInt < (s.x b).toInt), (off ++ 0#1).signExtend 64)
  | .bge a b off => some (decide ((s.x b).toInt ≤ (s.x a).toInt), (off ++ 0#1).signExtend 64)
  | .bltu a b off => some (decide ((s.x a).toNat < (s.x b).toNat), (off ++ 0#1).signExtend 64)
  | .bgeu a b off => some (decide ((s.x b).toNat ≤ (s.x a).toNat), (off ++ 0#1).signExtend 64)
  | _ => none

/-- The base loads and LDA (R39, R226): destination, the file of the destination, address, bytes, signed. -/
def loadForm (s : State) : Instr → Option (BitVec 5 × Bool × Word × Nat × Bool)
  | .lb rd a imm => some (rd, false, s.x a + imm.signExtend 64, 1, true)
  | .lh rd a imm => some (rd, false, s.x a + imm.signExtend 64, 2, true)
  | .lw rd a imm => some (rd, false, s.x a + imm.signExtend 64, 4, true)
  | .ld rd a imm => some (rd, false, s.x a + imm.signExtend 64, 8, true)
  | .lbu rd a imm => some (rd, false, s.x a + imm.signExtend 64, 1, false)
  | .lhu rd a imm => some (rd, false, s.x a + imm.signExtend 64, 2, false)
  | .lwu rd a imm => some (rd, false, s.x a + imm.signExtend 64, 4, false)
  | .flw rd a imm => some (rd, true, s.x a + imm.signExtend 64, 4, false)
  | .lda rd a _ wd => some (rd, false, s.x a, (match wd with | .d => 8 | .w => 4), true)
  | _ => none

/-- The base stores and STRL: address, the bytes stored, and the scope of STRL's release part (R39, R226). -/
def storeForm (s : State) : Instr → Option (Word × List Byte × Option Nat)
  | .sb a b imm => some (s.x a + imm.signExtend 64, toBytes 1 (s.x b).toNat, none)
  | .sh a b imm => some (s.x a + imm.signExtend 64, toBytes 2 (s.x b).toNat, none)
  | .sw a b imm => some (s.x a + imm.signExtend 64, toBytes 4 (s.x b).toNat, none)
  | .sd a b imm => some (s.x a + imm.signExtend 64, toBytes 8 (s.x b).toNat, none)
  | .fsw a b imm => some (s.x a + imm.signExtend 64, toBytes 4 (s.f b).toNat, none)
  | .strl a b sc wd => some (s.x a, toBytes (match wd with | .d => 8 | .w => 4) (s.x b).toNat, some sc.code)
  | _ => none

/-- The number a load of n bytes gives (R39): sign- or zero-extended. -/
def extended (n : Nat) (signed : Bool) (v : Nat) : Word :=
  if signed && decide (2 ^ (8 * n - 1) ≤ v) then BitVec.ofInt 64 ((v : Int) - 2 ^ (8 * n)) else BitVec.ofNat 64 v

/-- The AMOs (R39, R52, R233): destination, address, bytes, what is stored from the old value and the
operand, and the value the old one is compared with; then the scope of a scoped form, or the rl bit. -/
structure Amo where
  rd  : BitVec 5
  adr : Word
  n   : Nat
  new : Nat → Nat
  cmp : Option Nat
  rel : Option Nat

/-- The smaller and larger of two w-bit numbers, signed. -/
def minS (w a b : Nat) : Nat := if toSigned w b < toSigned w a then b else a
def maxS (w a b : Nat) : Nat := if toSigned w a < toSigned w b then b else a

/-- rl is a release part at package scope, 3 (R231). -/
def relOf (rl : Bool) : Option Nat := if rl then some 3 else none
def opW (s : State) (b : BitVec 5) : Nat := (low (s.x b)).toNat
def opD (s : State) (b : BitVec 5) : Nat := (s.x b).toNat

def amoForm (s : State) : Instr → Option Amo
  | .amoSwapW rd a b _ rl => some ⟨rd, s.x a, 4, fun _ => opW s b, none, relOf rl⟩
  | .amoSwapD rd a b _ rl => some ⟨rd, s.x a, 8, fun _ => opD s b, none, relOf rl⟩
  | .amoAddW rd a b _ rl => some ⟨rd, s.x a, 4, fun o => (o + opW s b) % 2 ^ 32, none, relOf rl⟩
  | .amoAddD rd a b _ rl => some ⟨rd, s.x a, 8, fun o => (o + opD s b) % 2 ^ 64, none, relOf rl⟩
  | .amoXorW rd a b _ rl => some ⟨rd, s.x a, 4, fun o => o ^^^ opW s b, none, relOf rl⟩
  | .amoXorD rd a b _ rl => some ⟨rd, s.x a, 8, fun o => o ^^^ opD s b, none, relOf rl⟩
  | .amoAndW rd a b _ rl => some ⟨rd, s.x a, 4, fun o => o &&& opW s b, none, relOf rl⟩
  | .amoAndD rd a b _ rl => some ⟨rd, s.x a, 8, fun o => o &&& opD s b, none, relOf rl⟩
  | .amoOrW rd a b _ rl => some ⟨rd, s.x a, 4, fun o => o ||| opW s b, none, relOf rl⟩
  | .amoOrD rd a b _ rl => some ⟨rd, s.x a, 8, fun o => o ||| opD s b, none, relOf rl⟩
  | .amoMinW rd a b _ rl => some ⟨rd, s.x a, 4, fun o => minS 32 o (opW s b), none, relOf rl⟩
  | .amoMinD rd a b _ rl => some ⟨rd, s.x a, 8, fun o => minS 64 o (opD s b), none, relOf rl⟩
  | .amoMaxW rd a b _ rl => some ⟨rd, s.x a, 4, fun o => maxS 32 o (opW s b), none, relOf rl⟩
  | .amoMaxD rd a b _ rl => some ⟨rd, s.x a, 8, fun o => maxS 64 o (opD s b), none, relOf rl⟩
  | .amoMinuW rd a b _ rl => some ⟨rd, s.x a, 4, fun o => min o (opW s b), none, relOf rl⟩
  | .amoMinuD rd a b _ rl => some ⟨rd, s.x a, 8, fun o => min o (opD s b), none, relOf rl⟩
  | .amoMaxuW rd a b _ rl => some ⟨rd, s.x a, 4, fun o => max o (opW s b), none, relOf rl⟩
  | .amoMaxuD rd a b _ rl => some ⟨rd, s.x a, 8, fun o => max o (opD s b), none, relOf rl⟩
  | .amoAddScoped rd a b sc => some ⟨rd, s.x a, 8, fun o => (o + opD s b) % 2 ^ 64, none, some sc.code⟩
  | .amoSwapScoped rd a b sc => some ⟨rd, s.x a, 8, fun _ => opD s b, none, some sc.code⟩
  | .amoAndScoped rd a b sc => some ⟨rd, s.x a, 8, fun o => o &&& opD s b, none, some sc.code⟩
  | .amoOrScoped rd a b sc => some ⟨rd, s.x a, 8, fun o => o ||| opD s b, none, some sc.code⟩
  | .amoXorScoped rd a b sc => some ⟨rd, s.x a, 8, fun o => o ^^^ opD s b, none, some sc.code⟩
  | .amoMinScoped rd a b sc => some ⟨rd, s.x a, 8, fun o => minS 64 o (opD s b), none, some sc.code⟩
  | .amoMaxScoped rd a b sc => some ⟨rd, s.x a, 8, fun o => maxS 64 o (opD s b), none, some sc.code⟩
  | .amoMinuScoped rd a b sc => some ⟨rd, s.x a, 8, fun o => min o (opD s b), none, some sc.code⟩
  | .amoMaxuScoped rd a b sc => some ⟨rd, s.x a, 8, fun o => max o (opD s b), none, some sc.code⟩
  | .amoCasScoped rd a b sc => some ⟨rd, s.x a, 8, fun _ => opD s b, some (opD s rd), some sc.code⟩
  | _ => none

/-- The release part of an access waits for nothing and raises nothing: base forms wait for the accesses
within package scope (R231), scoped forms also meet the deferred faults (R224, R226, R233). -/
def released (s : State) : Instr → Option Nat → Prop
  | _, none => True
  | .strl _ _ _ _, some k | .amoAddScoped _ _ _ _, some k | .amoSwapScoped _ _ _ _, some k | .amoAndScoped _ _ _ _, some k
  | .amoOrScoped _ _ _ _, some k | .amoXorScoped _ _ _ _, some k | .amoMinScoped _ _ _ _, some k
  | .amoMaxScoped _ _ _ _, some k | .amoMinuScoped _ _ _ _, some k | .amoMaxuScoped _ _ _ _, some k
  | .amoCasScoped _ _ _ _, some k => releasePre s k = .ok
  | _, some k => outstanding s s.cur k false = false

/-- The location of offset `off` of the executing hart's own memory. -/
def own (s : State) (off : Nat) : Nat := padBase (coreOf s.cur) + off

/-- The F instructions with an F destination (R39, R92): destination, result pattern and flags. -/
def fltResult (s : State) : Instr → Option (BitVec 5 × Nat × Nat)
  | .fmaddS rd a b c rm => some (rd, fFma (rmOf s.me rm) false false (s.f a).toNat (s.f b).toNat (s.f c).toNat)
  | .fmsubS rd a b c rm => some (rd, fFma (rmOf s.me rm) false true (s.f a).toNat (s.f b).toNat (s.f c).toNat)
  | .fnmsubS rd a b c rm => some (rd, fFma (rmOf s.me rm) true false (s.f a).toNat (s.f b).toNat (s.f c).toNat)
  | .fnmaddS rd a b c rm => some (rd, fFma (rmOf s.me rm) true true (s.f a).toNat (s.f b).toNat (s.f c).toNat)
  | .faddS rd a b rm => some (rd, fAdd (rmOf s.me rm) (s.f a).toNat (s.f b).toNat false)
  | .fsubS rd a b rm => some (rd, fAdd (rmOf s.me rm) (s.f a).toNat (s.f b).toNat true)
  | .fmulS rd a b rm => some (rd, fMul (rmOf s.me rm) (s.f a).toNat (s.f b).toNat)
  | .fdivS rd a b rm => some (rd, fDiv (rmOf s.me rm) (s.f a).toNat (s.f b).toNat)
  | .fsqrtS rd a rm => some (rd, fSqrt (rmOf s.me rm) (s.f a).toNat)
  | .fsgnjS rd a b => some (rd, (s.f a).toNat % 2 ^ 31 + (s.f b).toNat / 2 ^ 31 * 2 ^ 31, 0)
  | .fsgnjnS rd a b => some (rd, (s.f a).toNat % 2 ^ 31 + (1 - (s.f b).toNat / 2 ^ 31) * 2 ^ 31, 0)
  | .fsgnjxS rd a b => some (rd, (s.f a).toNat % 2 ^ 31 + ((s.f a).toNat / 2 ^ 31 + (s.f b).toNat / 2 ^ 31) % 2 * 2 ^ 31, 0)
  | .fminS rd a b => some (rd, fMinMax false (s.f a).toNat (s.f b).toNat)
  | .fmaxS rd a b => some (rd, fMinMax true (s.f a).toNat (s.f b).toNat)
  | .fcvtSW rd a rm => some (rd, fOfInt (rmOf s.me rm) (low (s.x a)).toInt)
  | .fcvtSWu rd a rm => some (rd, fOfInt (rmOf s.me rm) (low (s.x a)).toNat)
  | .fcvtSL rd a rm => some (rd, fOfInt (rmOf s.me rm) (s.x a).toInt)
  | .fcvtSLu rd a rm => some (rd, fOfInt (rmOf s.me rm) (s.x a).toNat)
  | .fmvWX rd a => some (rd, (low (s.x a)).toNat, 0)
  | _ => none

/-- The F instructions with an X destination (R39, R92): destination, result and flags. -/
def fltToX (s : State) : Instr → Option (BitVec 5 × Word × Nat)
  | .fcvtWS rd a rm => let r := fToInt (rmOf s.me rm) (-(2 ^ 31)) (2 ^ 31 - 1) (s.f a).toNat; some (rd, sx (BitVec.ofInt 32 r.1), r.2)
  | .fcvtWuS rd a rm => let r := fToInt (rmOf s.me rm) 0 (2 ^ 32 - 1) (s.f a).toNat; some (rd, sx (BitVec.ofInt 32 r.1), r.2)
  | .fcvtLS rd a rm => let r := fToInt (rmOf s.me rm) (-(2 ^ 63)) (2 ^ 63 - 1) (s.f a).toNat; some (rd, BitVec.ofInt 64 r.1, r.2)
  | .fcvtLuS rd a rm => let r := fToInt (rmOf s.me rm) 0 (2 ^ 64 - 1) (s.f a).toNat; some (rd, BitVec.ofInt 64 r.1, r.2)
  | .fmvXW rd a => some (rd, sx (s.f a), 0)
  | .feqS rd a b => some (rd, flag ((fEq (s.f a).toNat (s.f b).toNat).1 = true), (fEq (s.f a).toNat (s.f b).toNat).2)
  | .fltS rd a b => some (rd, flag ((fLt (s.f a).toNat (s.f b).toNat).1 = true), (fLt (s.f a).toNat (s.f b).toNat).2)
  | .fleS rd a b => some (rd, flag ((fLe (s.f a).toNat (s.f b).toNat).1 = true), (fLe (s.f a).toNat (s.f b).toNat).2)
  | .fclassS rd a => some (rd, BitVec.ofNat 64 (fClass (s.f a).toNat), 0)
  | _ => none

/-- The Zicsr words (R39, R40): rd, the CSR, and what is written, if anything, from its old value. -/
def csrForm (s : State) : Instr → Option (BitVec 5 × Nat × Option (Word → Word))
  | .csrrw rd a n => some (rd, n.toNat, some fun _ => s.x a)
  | .csrrs rd a n => some (rd, n.toNat, if a = 0 then none else some fun o => o ||| s.x a)
  | .csrrc rd a n => some (rd, n.toNat, if a = 0 then none else some fun o => o &&& ~~~s.x a)
  | .csrrwi rd u n => some (rd, n.toNat, some fun _ => u.setWidth 64)
  | .csrrsi rd u n => some (rd, n.toNat, if u = 0 then none else some fun o => o ||| u.setWidth 64)
  | .csrrci rd u n => some (rd, n.toNat, if u = 0 then none else some fun o => o &&& ~~~(u.setWidth 64))
  | _ => none

end Sys2Proof.Spec

open Sys2Proof Sys2Proof.Machine

/-- R7: X(0) reads as 0 and a write to it is discarded; a write of any register of a file changes that
register alone. R163: srseed is a view of the LFSR state, in U mode too; it reads 0 above bit 31, is 1 at reset, and a
write of 0 stores 1. -/
def Obligations.RegisterFiles : Prop :=
  (∀ (H : Hart) (n k : Nat) (v : Word) (w : W32) (u : VReg),
    H.getX 0 = 0 ∧ H.setX 0 v = H ∧
    (n ≠ 0 → (H.setX n v).getX n = v) ∧ (k ≠ n → (H.setX n v).getX k = H.getX k) ∧
    (H.setF n w).getF n = w ∧ (k ≠ n → (H.setF n w).getF k = H.getF k) ∧
    (H.setV n u).getV n = u ∧ (k ≠ n → (H.setV n u).getV k = H.getV k) ∧
    (H.setM n v).getM n = v ∧ (k ≠ n → (H.setM n v).getM k = H.getM k)) ∧
  ∀ (s : State) (h : Nat) (v : Word),
    csrRead s h 0x802 = BitVec.ofNat 64 (s.hart h).lfsr.toNat ∧ csrMode s h 0x802 .U = true ∧ csrMode s h 0x802 .S = true ∧
    csrMode s h 0x802 .M = true ∧ csrRead State.reset h 0x802 = 1 ∧
    (v.toNat % 2 ^ 32 = 0 → ((csrWrite s h 0x802 v).hart h).lfsr = 1) ∧
    (v.toNat % 2 ^ 32 ≠ 0 → ((csrWrite s h 0x802 v).hart h).lfsr.toNat = v.toNat % 2 ^ 32)

/-- R39, R92: an integer computational instruction writes its result to rd, retires, and changes nothing
else; with rd armed it raises ARMED_WRITE and writes nothing (R295). -/
def Obligations.IntegerResults : Prop :=
  ∀ (i : Instr) (s : State) (rd : BitVec 5) (v : Word), Spec.intResult s i = some (rd, v) →
    (rd.toNat ∉ s.me.armed → ∃ t, exec i s = .next t ∧ Retired (s.modHart s.cur fun H => H.setX rd.toNat v) t) ∧
    (rd.toNat ∈ s.me.armed → exec i s = .next (takeTrap s s.cur false 30 (BitVec.ofNat 64 rd.toNat)))

/-- R39, R29: JAL and JALR link and jump; a JALR target that is no multiple of 4 faults at the JALR, before
any effect. -/
def Sys2Proof.Spec.jumps : Prop :=
  ∀ (s : State) (rd rs1 : BitVec 5) (off : BitVec 20) (imm : BitVec 12), rd.toNat ∉ s.me.armed →
    let target := (s.x rs1 + imm.signExtend 64) &&& ~~~1#64
    let linked := s.modHart s.cur fun H => H.setX rd.toNat (H.pc + 4)
    (∃ t, exec (.jal rd off) s = .next t ∧ Jumped linked t (s.me.pc + (off ++ 0#1).signExtend 64)) ∧
    (target.toNat % 4 = 0 → ∃ t, exec (.jalr rd rs1 imm) s = .next t ∧ Jumped linked t target) ∧
    (target.toNat % 4 ≠ 0 → exec (.jalr rd rs1 imm) s = .next (takeTrap s s.cur false 0 target))

/-- R39, R96: a taken branch goes to its target; a branch not taken retires like any other word. -/
def Sys2Proof.Spec.branches : Prop :=
  ∀ (i : Instr) (s : State) (taken : Bool) (off : Word), Spec.branchTaken s i = some (taken, off) →
    ∃ t, exec i s = .next t ∧ (if taken then Jumped s t (s.me.pc + off) else Retired s t)

/-- R29, R39, R96: jumps link and transfer control, and branches go to their target or on. -/
def Obligations.ControlTransfers : Prop := Spec.jumps ∧ Spec.branches

/-- R39, R89, R226, R295: a load from the hart's own memory gives the little-endian number that stands there,
extended as its form says, and changes no memory; a poisoned one raises POISON_CONSUMED, and a good one with rd armed
ARMED_WRITE. `load` is the read with its error handling (R188). -/
def Sys2Proof.Spec.memoryLoads : Prop :=
  ∀ (i : Instr) (s : State) (rd : BitVec 5) (fp : Bool) (a : Word) (n off : Nat) (signed : Bool),
    Spec.loadForm s i = some (rd, fp, a, n, signed) → placeNow s a = .own off → accessPre s a n false true = .ok →
    let r := load s (Spec.own s off) n
    (∀ b, r.1.mem.read b = s.mem.read b) ∧ (∀ h, r.1.hart h = s.hart h) ∧ r.2.1 = ofBytes (s.mem.readBytes (Spec.own s off) n) ∧
    (r.2.2 = none → (fp = false → rd.toNat ∉ s.me.armed) → ∃ t, exec i s = .next t ∧
      Retired (r.1.modHart s.cur fun H =>
        if fp then H.setF rd.toNat (BitVec.ofNat 32 r.2.1) else H.setX rd.toNat (Spec.extended n signed r.2.1)) t) ∧
    (r.2.2 = none → fp = false → rd.toNat ∈ s.me.armed →
      exec i s = .next (takeTrap r.1 s.cur false 30 (BitVec.ofNat 64 rd.toNat))) ∧
    (∀ b, r.2.2 = some b → exec i s = .next (takeTrap r.1 s.cur false 27 a))

/-- R27, R30, R164: a load through the window of the hart's own core waits for the drains of the CSR it names, and gives
the CSR, or the number in code memory, an inbound slot or the private memory. -/
def Sys2Proof.Spec.windowLoads : Prop :=
  ∀ (i : Instr) (s : State) (rd : BitVec 5) (fp : Bool) (a : Word) (n off : Nat) (signed : Bool), let c := coreOf s.cur
    Spec.loadForm s i = some (rd, fp, a, n, signed) → placeNow s a = .window c off → accessPre s a n false true = .ok →
    (fp = false → rd.toNat ∉ s.me.armed) →
    (windowWaits s c off = true → exec i s = .next (s.modHart s.cur fun H => { H with stalled := some .issue })) ∧
    (windowWaits s c off = false →
      (0x20000 ≤ off → n = 8 ∧ ∃ t, exec i s = .next t ∧
        Retired (s.modHart s.cur fun H => H.setX rd.toNat (csrRead s (hartAt c ((off - 0x20000) / 0x8000)) (off % 0x8000 / 8))) t) ∧
      (off < 0x20000 → let r := load s (windowLoc c off) n
        r.2.1 = ofBytes (s.mem.readBytes (windowLoc c off) n) ∧
        (r.2.2 = none → ∃ t, exec i s = .next t ∧
          Retired (r.1.modHart s.cur fun H =>
            if fp then H.setF rd.toNat (BitVec.ofNat 32 r.2.1) else H.setX rd.toNat (Spec.extended n signed r.2.1)) t)))

/-- R27, R39, R89, R164, R226: loads that the hart's own core serves. -/
def Obligations.OwnLoads : Prop := Spec.memoryLoads ∧ Spec.windowLoads

/-- R89, R91, R226: a store to the hart's own memory writes its bytes there, lowest address first, and
changes no other byte; of the other harts only reservations of that granule end, and no register changes. -/
def Sys2Proof.Spec.memoryStores : Prop :=
  ∀ (i : Instr) (s : State) (a : Word) (bytes : List Byte) (rel : Option Nat) (off : Nat),
    Spec.storeForm s i = some (a, bytes, rel) → placeNow s a = .own off →
    accessPre s a bytes.length true true = .ok → Spec.released s i rel →
    ∃ u t : State, exec i s = .next t ∧ Retired u t ∧
      u.mem.readBytes (Spec.own s off) bytes.length = bytes ∧
      SameOutside s u (Spec.own s off) bytes.length ∧
      u.me = s.me ∧ (∀ h, u.hart h = { s.hart h with resv := (u.hart h).resv }) ∧
      u.net = s.net ∧ u.pkg = s.pkg ∧ u.dies = s.dies

/-- R27, R30, R164: a store through the window of the hart's own core waits for the drains of the CSR it names, and
writes the CSR, or the bytes; a code word written is no longer executable. -/
def Sys2Proof.Spec.windowStores : Prop :=
  ∀ (i : Instr) (s : State) (a : Word) (bytes : List Byte) (rel : Option Nat) (off : Nat), let c := coreOf s.cur
    Spec.storeForm s i = some (a, bytes, rel) → placeNow s a = .window c off → accessPre s a bytes.length true true = .ok →
    Spec.released s i rel →
    (windowWaits s c off = true → exec i s = .next (s.modHart s.cur fun H => { H with stalled := some .issue })) ∧
    (windowWaits s c off = false →
      (0x20000 ≤ off → bytes.length = 8 ∧ ∃ t, exec i s = .next t ∧
        Retired (csrWrite s (hartAt c ((off - 0x20000) / 0x8000)) (off % 0x8000 / 8) (BitVec.ofNat 64 (ofBytes bytes))) t) ∧
      (off < 0x20000 → ∃ u t : State, exec i s = .next t ∧ Retired u t ∧
        u.mem.readBytes (windowLoc c off) bytes.length = bytes ∧ SameOutside s u (windowLoc c off) bytes.length ∧
        (∀ k, off / 4 ≤ k → 4 * k < off + bytes.length → SMap.get false (u.core c).exec k = false) ∧ u.me = s.me ∧ u.net = s.net))

/-- R27, R39, R89, R91, R164, R226: stores that the hart's own core serves. -/
def Obligations.OwnStores : Prop := Spec.memoryStores ∧ Spec.windowStores

/-- R221, R231, R233: an AMO on the hart's own memory stores what its operation gives of the old value and
the operand (a CAS only when the old value is the compared one), gives the old value in rd, and changes no
other byte. A poisoned one raises POISON_CONSUMED, and a good one with rd armed ARMED_WRITE (R295), with no store. -/
def Obligations.OwnAmos : Prop :=
  ∀ (i : Instr) (s : State) (A : Spec.Amo) (off : Nat), Spec.amoForm s i = some A → placeNow s A.adr = .own off →
    accessPre s A.adr A.n true false = .ok → Spec.released s i A.rel →
    let r := load s (Spec.own s off) A.n
    let old := ofBytes (s.mem.readBytes (Spec.own s off) A.n)
    let stored := match A.cmp with | some c => decide (c = old) | none => true
    (r.2.2 = none → A.rd.toNat ∉ s.me.armed →
      ∃ u t : State, exec i s = .next t ∧ Retired (u.modHart s.cur fun H => H.setX A.rd.toNat (Spec.extended A.n true old)) t ∧
        u.mem.readBytes (Spec.own s off) A.n = toBytes A.n (if stored then A.new old else old) ∧
        SameOutside s u (Spec.own s off) A.n ∧ u.me = s.me ∧ u.net = s.net ∧
        (∀ h, u.hart h = { s.hart h with resv := (u.hart h).resv })) ∧
    (r.2.2 = none → A.rd.toNat ∈ s.me.armed → exec i s = .next (takeTrap r.1 s.cur false 30 (BitVec.ofNat 64 A.rd.toNat))) ∧
    (∀ b, r.2.2 = some b → exec i s = .next (takeTrap r.1 s.cur false 27 A.adr))

/-- R91: LR reads and reserves its granule; SC stores and gives 0 while the granule is reserved, and
otherwise stores nothing and gives 1; either way the reservation is over. A poisoned LR raises POISON_CONSUMED, and a form
with rd armed ARMED_WRITE (R295). -/
def Obligations.ReservedAccesses : Prop :=
  ∀ (s : State) (rd a b : BitVec 5) (aq rl : Bool) (off : Nat) (wide : Bool),
    let n := if wide then 8 else 4
    let lr := if wide then Instr.lrD rd a aq rl else .lrW rd a aq rl
    let sc := if wide then Instr.scD rd a b aq rl else .scW rd a b aq rl
    let loc := Spec.own s off
    let armed := rd.toNat ∈ s.me.armed
    placeNow s (s.x a) = .own off → (rl = true → outstanding s s.cur 3 false = false) →
    (alignPre (s.x a) n false = .ok → lockPre s (s.x a) n false = .ok →
      ((load s loc n).2.2 = none → ¬armed → ∃ t, exec lr s = .next t ∧ Retired ((load s loc n).1.modHart s.cur fun H =>
        { H.setX rd.toNat (Spec.extended n true (ofBytes (s.mem.readBytes loc n))) with resv := some (loc / 16) }) t) ∧
      ((load s loc n).2.2 = none → armed → exec lr s = .next (takeTrap (load s loc n).1 s.cur false 30 (BitVec.ofNat 64 rd.toNat))) ∧
      (∀ x, (load s loc n).2.2 = some x → exec lr s = .next (takeTrap (load s loc n).1 s.cur false 27 (s.x a)))) ∧
    (armed → alignPre (s.x a) n true = .ok → lockPre s (s.x a) n true = .ok →
      exec sc s = .next (takeTrap s s.cur false 30 (BitVec.ofNat 64 rd.toNat))) ∧
    (¬armed → alignPre (s.x a) n true = .ok → lockPre s (s.x a) n true = .ok →
      (s.me.resv = some (loc / 16) → ∃ u t : State, exec sc s = .next t ∧
        Retired (u.modHart s.cur fun H => { H.setX rd.toNat 0 with resv := none }) t ∧
        u.mem.readBytes loc n = toBytes n (s.x b).toNat ∧ SameOutside s u loc n ∧ u.me = s.me ∧ u.net = s.net) ∧
      (s.me.resv ≠ some (loc / 16) → ∃ t, exec sc s = .next t ∧
        Retired (s.modHart s.cur fun H => { H.setX rd.toNat 1 with resv := none }) t))

/-- R89, R90, R91, R231, R233: an access to another core, to its window or to virtual memory waits for one of its core's
request places, then sends one packet. A load or an AMO holds the hart until its reply; a store retires at once. With the
destination armed (R295) only a read goes out, whose good reply raises ARMED_WRITE. LR and SC, which have own memory only,
raise the access fault. -/
def Obligations.RemoteAccesses : Prop :=
  ∀ (i : Instr) (s : State) (a : Word), (∀ off, placeNow s a ≠ .own off) → (∀ c off, placeNow s a = .window c off → c ≠ coreOf s.cur) →
    (∀ rd fp n signed, Spec.loadForm s i = some (rd, fp, a, n, signed) → accessPre s a n false true = .ok →
      (fp = false → rd.toNat ∉ s.me.armed) →
      (placesFor s s.cur 1 = true → exec i s = .next (sendHeld s (.load rd.toNat fp n signed) a (.load n))) ∧
      (placesFor s s.cur 1 = false → exec i s = .next (s.modHart s.cur fun H => { H with stalled := some .issue }))) ∧
    (∀ rd n signed, Spec.loadForm s i = some (rd, false, a, n, signed) → accessPre s a n false true = .ok →
      rd.toNat ∈ s.me.armed → placesFor s s.cur 1 = true →
      exec i s = .next (sendHeld s (.late 30 (BitVec.ofNat 64 rd.toNat) .none) a (.load n))) ∧
    (∀ A, Spec.amoForm s i = some A → A.adr = a → accessPre s a A.n true false = .ok → Spec.released s i A.rel →
      ∃ k v c, (∀ old, old < 2 ^ (8 * A.n) → amoNew k A.n old (BitVec.toNat v) = A.new old) ∧
        c.map (fun w : Word => w.toNat % 2 ^ (8 * A.n)) = A.cmp ∧
        (placesFor s s.cur 1 = false → exec i s = .next (s.modHart s.cur fun H => { H with stalled := some .issue })) ∧
        (placesFor s s.cur 1 = true →
          (A.rd.toNat ∉ s.me.armed → exec i s = .next (sendHeld s (.amo A.rd.toNat A.n) a (.amo k A.n v c))) ∧
          (A.rd.toNat ∈ s.me.armed →
            exec i s = .next (sendHeld s (.late 30 (BitVec.ofNat 64 A.rd.toNat) .none) a (.load A.n))))) ∧
    (∀ rd rs1 rs2 aq rl, ∀ wide : Bool, s.x rs1 = a → a.toNat % (if wide then 8 else 4) = 0 →
      (i = (if wide then .lrD rd rs1 aq rl else .lrW rd rs1 aq rl) → exec i s = .next (takeTrap s s.cur false 5 a)) ∧
      (i = (if wide then .scD rd rs1 rs2 aq rl else .scW rd rs1 rs2 aq rl) → exec i s = .next (takeTrap s s.cur false 7 a))) ∧
    (∀ bytes rel, Spec.storeForm s i = some (a, bytes, rel) → accessPre s a bytes.length true true = .ok →
      Spec.released s i rel →
      (placesFor s s.cur 1 = true → ∃ t, exec i s = .next t ∧
        Retired (send s s.cur (.mem a.toNat (.store bytes false) (.posted false) (whereOf (placeNow s a)))) t) ∧
      (placesFor s s.cur 1 = false → exec i s = .next (s.modHart s.cur fun H => { H with stalled := some .issue })))

/-- R88: a base access whose address is no multiple of its size raises the misaligned cause, and one whose
place the machine does not have for it (nowhere, or unassigned in a core window) raises the access fault, both with the
address in mtval and without any other effect. -/
def Obligations.AccessFaults : Prop :=
  ∀ (i : Instr) (s : State) (a : Word),
    (∀ rd fp n signed, Spec.loadForm s i = some (rd, fp, a, n, signed) →
      (a.toNat % n ≠ 0 → exec i s = .next (takeTrap s s.cur false 4 a)) ∧
      (a.toNat % n = 0 → placeNow s a = .bad → exec i s = .next (takeTrap s s.cur false 5 a)) ∧
      (∀ c off, a.toNat % n = 0 → placeNow s a = .window c off → windowOk s s.cur c off n false = false →
        exec i s = .next (takeTrap s s.cur false 5 a))) ∧
    (∀ bytes rel, Spec.storeForm s i = some (a, bytes, rel) →
      (a.toNat % bytes.length ≠ 0 → exec i s = .next (takeTrap s s.cur false 6 a)) ∧
      (a.toNat % bytes.length = 0 → placeNow s a = .bad → exec i s = .next (takeTrap s s.cur false 7 a)) ∧
      (∀ c off, a.toNat % bytes.length = 0 → placeNow s a = .window c off → windowOk s s.cur c off bytes.length true = false →
        exec i s = .next (takeTrap s s.cur false 7 a)))

/-- R92, R41: an F instruction with an F destination writes its result there, and its flags accumulate. -/
def Sys2Proof.Spec.floatResults : Prop :=
  ∀ (i : Instr) (s : State) (rd : BitVec 5) (p fl : Nat), Spec.fltResult s i = some (rd, p, fl) →
    ∃ t, exec i s = .next t ∧
      Retired (s.modHart s.cur fun H =>
        { H.setF rd.toNat (BitVec.ofNat 32 p) with csr := { H.csr with fflags := H.csr.fflags ||| BitVec.ofNat 5 fl } }) t

/-- R92: an F comparison, classification or conversion to an integer writes X(rd), and its flags accumulate. -/
def Sys2Proof.Spec.floatToInteger : Prop :=
  ∀ (i : Instr) (s : State) (rd : BitVec 5) (v : Word) (fl : Nat), Spec.fltToX s i = some (rd, v, fl) →
    rd.toNat ∉ s.me.armed →
    ∃ t, exec i s = .next t ∧
      Retired (s.modHart s.cur fun H =>
        { H.setX rd.toNat v with csr := { H.csr with fflags := H.csr.fflags ||| BitVec.ofNat 5 fl } }) t

/-- R39, R41, R92: the F computational words. -/
def Obligations.FloatWords : Prop := Spec.floatResults ∧ Spec.floatToInteger

/-- R92, R151: rounding the value of an f32 pattern that is no NaN gives the pattern back, in every mode and
without a flag: subnormals, both zeros and the infinities are kept. -/
def Sys2Proof.Spec.floatExact : Prop :=
  ∀ (p : Nat), p < 2 ^ 32 → f32F.dec p ≠ .nan → rne f32F (f32F.dec p) = p

/-- R42, R85: a Zicsr word that the mode admits reads the CSR into rd and writes the CSR's new value, if it
writes; one that the mode does not allow raises illegal instruction and changes nothing but what the trap
changes. -/
def Obligations.CsrWords : Prop :=
  ∀ (i : Instr) (s : State) (rd : BitVec 5) (n : Nat) (w : Option (Word → Word)), Spec.csrForm s i = some (rd, n, w) →
    (csrMode s s.cur n s.me.mode = true → rd.toNat ∉ s.me.armed → csrWaits s s.cur n = false →
      ∃ t, exec i s = .next t ∧ Retired
        ((match w with
          | some f => csrWrite s s.cur n (f (csrRead s s.cur n))
          | none => s).modHart s.cur fun H => H.setX rd.toNat (csrRead s s.cur n)) t) ∧
    (csrMode s s.cur n s.me.mode = false →
      exec i s = .next (takeTrap s s.cur false 2 (tvalOf 2 (s.me.ir.setWidth 64))))

/-- R41: frm keeps a value of 0 to 4 and is left unchanged by a write of another, through frm or fcsr; no write of another CSR changes it,
it is in that range at reset, and a word with the dynamic mode rounds as it says. -/
def Obligations.FrmWrites : Prop :=
  ∀ (s : State) (h : Nat) (v : Word),
    let f := fun n u => ((csrWrite s h n u).hart h).csr.frm
    (v.toNat % 8 ≤ 4 → (f 2 v).toNat = v.toNat % 8) ∧ (4 < v.toNat % 8 → f 2 v = (s.hart h).csr.frm) ∧
    (v.toNat / 32 % 8 ≤ 4 → (f 3 v).toNat = v.toNat / 32 % 8) ∧ (4 < v.toNat / 32 % 8 → f 3 v = (s.hart h).csr.frm) ∧
    (∀ n, n ≠ 2 → n ≠ 3 → f n v = (s.hart h).csr.frm) ∧ (State.reset.hart h).csr.frm.toNat ≤ 4 ∧
    ((s.hart h).csr.frm.toNat ≤ 4 → (∀ n, (f n v).toNat ≤ 4) ∧ ([.rne, .rtz, .rdn, .rup, .rmm] : List RMode)[(s.hart h).csr.frm.toNat]? = some (rmOf (s.hart h) .dyn))

/-! Traps, waits, fences, loops and signatures. -/

/-- R106: trap entry saves pc, cause, mtval, the checker, the interrupt enable, the mode and LE of the mode
it enters, clears the enable and LE, ends checking, a VLOOP and the reservation, and goes to the vector. Conversions in flight
land (R61, R164). The checker of a trapping ECALL or EBREAK is saved as of after it (R69; DEDUCED, log 52), and a VLOOP whose
body the trap breaks off is noted (R147). The x, f, v and m registers keep their values. -/
def Obligations.TrapEntry : Prop :=
  ∀ (H : Hart) (intr : Bool) (cause : Nat) (tval : Word),
    let T := enterTrap H intr cause tval
    let toS := H.mode != .M && cause != 26 && bit (if intr then H.csr.mideleg else H.csr.medeleg) cause
    let code := BitVec.ofNat 64 ((if intr then 2 ^ 63 else 0) + cause)
    let ends := !intr && (cause == 3 || cause == 8 || cause == 9 || cause == 11)
    let K := if ends then { H.chk with last := 4, run := (if H.irSigned && H.chk.act then crcOfWord H.chk.run H.ir else H.chk.run) } else H.chk
    let save := packSave { H with chk := K }
    let L := landCv H.cvPend H
    (toS = false →
      T.mode = .M ∧ T.csr.mepc = H.pc &&& ~~~3#64 ∧ T.csr.mcause = code ∧ T.csr.mtval = tval ∧ T.csr.mxsave = save ∧
      T.pc = vectorTarget H.csr.mtvec intr cause ∧
      bit T.csr.mstatus 7 = bit H.csr.mstatus 3 ∧ bit T.csr.mstatus 3 = false ∧ Mode.ofCode (bits T.csr.mstatus 11 2) = H.mode ∧
      (∀ k, k ∉ [3, 7, 11, 12] → bit T.csr.mstatus k = bit H.csr.mstatus k) ∧
      bit T.csr.mnstatus 5 = bit H.csr.mnstatus 4 ∧ bit T.csr.mnstatus 4 = false ∧
      (∀ k, k ∉ [4, 5] → bit T.csr.mnstatus k = bit H.csr.mnstatus k) ∧
      T.csr = { L.csr with mepc := T.csr.mepc, mcause := T.csr.mcause, mtval := T.csr.mtval, mxsave := T.csr.mxsave
                           mstatus := T.csr.mstatus, mnstatus := T.csr.mnstatus }) ∧
    (toS = true →
      T.mode = .S ∧ T.csr.sepc = H.pc &&& ~~~3#64 ∧ T.csr.scause = code ∧ T.csr.stval = tval ∧ T.csr.sxsave = save ∧
      T.pc = vectorTarget H.csr.stvec intr cause ∧
      bit T.csr.mstatus 5 = bit H.csr.mstatus 1 ∧ bit T.csr.mstatus 1 = false ∧ bit T.csr.mstatus 8 = decide (H.mode = .S) ∧
      (∀ k, k ∉ [1, 5, 8] → bit T.csr.mstatus k = bit H.csr.mstatus k) ∧
      bit T.csr.mnstatus 6 = bit H.csr.mnstatus 4 ∧ bit T.csr.mnstatus 4 = false ∧
      (∀ k, k ∉ [4, 6] → bit T.csr.mnstatus k = bit H.csr.mnstatus k) ∧
      T.csr = { L.csr with sepc := T.csr.sepc, scause := T.csr.scause, stval := T.csr.stval, sxsave := T.csr.sxsave
                           mstatus := T.csr.mstatus, mnstatus := T.csr.mnstatus }) ∧
    L = { H with lfsr := L.lfsr, csr := { H.csr with cvamax := L.csr.cvamax, cvflags := L.csr.cvflags } } ∧
    T = { L with csr := T.csr, mode := T.mode, pc := T.pc, pfx := false, chk := { H.chk with act := false }
                 arrival := .indirect, pend := [], cvPend := [], resv := none, prefetch := [], vloop := none, held := none
                 fetched := [], stalled := none, ending := false, fw := !toS
                 broken := (match H.vloop with | some v => if intr then H.broken else some (v.pc, v.len) | none => H.broken) }

/-- R107: MRET in M mode and SRET in S or M mode restore pc, mode, interrupt enable, LE and the checker; in a
lower mode each is an illegal instruction. Registers keep their values. -/
def Sys2Proof.Spec.trapReturns : Prop :=
  ∀ s : State, let H := s.me; let illegal := Host.Outcome.next (takeTrap s s.cur false 2 (tvalOf 2 (H.ir.setWidth 64)))
    (H.mode ≠ .M → exec .mret s = illegal) ∧ (H.mode = .U → exec .sret s = illegal) ∧
    (H.mode = .M → ∃ T, exec .mret s = .next (s.setHart s.cur T) ∧
      T.pc = H.csr.mepc ∧ T.mode = Mode.ofCode (bits H.csr.mstatus 11 2) ∧ T.chk = unpackChk H.csr.mxsave ∧
      T.pfx = bit H.csr.mxsave 63 ∧ T.payload = BitVec.ofNat 25 (bits H.csr.mxsave 33 25) ∧
      bit T.csr.mstatus 3 = bit H.csr.mstatus 7 ∧ bit T.csr.mstatus 7 = true ∧ bits T.csr.mstatus 11 2 = 0 ∧
      (∀ k, k ∉ [3, 7, 11, 12] → bit T.csr.mstatus k = bit H.csr.mstatus k) ∧
      bit T.csr.mnstatus 4 = bit H.csr.mnstatus 5 ∧ bit T.csr.mnstatus 5 = true ∧
      (∀ k, k ∉ [4, 5] → bit T.csr.mnstatus k = bit H.csr.mnstatus k) ∧
      T = { H with csr := { H.csr with mstatus := T.csr.mstatus, mnstatus := T.csr.mnstatus }, pfx := T.pfx
                   payload := T.payload, chk := T.chk, mode := T.mode, pc := T.pc, arrival := .seq, resv := none
                   prefetch := [], held := none, fetched := [], stalled := none, fw := false, fromSigned := true }) ∧
    (H.mode ≠ .U → ∃ T, exec .sret s = .next (s.setHart s.cur T) ∧
      T.pc = H.csr.sepc ∧ T.mode = (if bit H.csr.mstatus 8 then .S else .U) ∧ T.chk = unpackChk H.csr.sxsave ∧
      T.pfx = bit H.csr.sxsave 63 ∧ T.payload = BitVec.ofNat 25 (bits H.csr.sxsave 33 25) ∧
      bit T.csr.mstatus 1 = bit H.csr.mstatus 5 ∧ bit T.csr.mstatus 5 = true ∧ bit T.csr.mstatus 8 = false ∧
      (∀ k, k ∉ [1, 5, 8] → bit T.csr.mstatus k = bit H.csr.mstatus k) ∧
      bit T.csr.mnstatus 4 = bit H.csr.mnstatus 6 ∧ bit T.csr.mnstatus 6 = true ∧
      (∀ k, k ∉ [4, 6] → bit T.csr.mnstatus k = bit H.csr.mnstatus k) ∧
      T = { H with csr := { H.csr with mstatus := T.csr.mstatus, mnstatus := T.csr.mnstatus }, pfx := T.pfx
                   payload := T.payload, chk := T.chk, mode := T.mode, pc := T.pc, arrival := .seq, resv := none
                   prefetch := [], held := none, fetched := [], stalled := none, fw := false, fromSigned := true })

/-- R109: WFI and WFM retire and wait; WFI is illegal in U mode, and in S mode while mstatus.TW (bit 21) is
1. EBREAK raises breakpoint (R39). -/
def Sys2Proof.Spec.waitsAndBreak : Prop :=
  ∀ s : State,
    (exec .ebreak s = .next (takeTrap s s.cur false 3 (tvalOf 3 s.me.pc))) ∧
    (∃ t, exec .wfm s = .next (t.modHart s.cur fun H => { H with stalled := some .wfm }) ∧ Retired s t) ∧
    (s.me.mode = .M ∨ (s.me.mode = .S ∧ bit s.me.csr.mstatus 21 = false) →
      ∃ t, exec .wfi s = .next (t.modHart s.cur fun H => { H with stalled := some .wfi }) ∧ Retired s t) ∧
    (s.me.mode = .U ∨ (s.me.mode = .S ∧ bit s.me.csr.mstatus 21 = true) →
      exec .wfi s = .next (takeTrap s s.cur false 2 (tvalOf 2 (s.me.ir.setWidth 64))))

/-- R39, R107, R109: MRET, SRET, EBREAK, WFI and WFM. -/
def Obligations.TrapWords : Prop := Spec.trapReturns ∧ Spec.waitsAndBreak

namespace Sys2Proof.Spec
open Sys2Proof Sys2Proof.Machine

/-- What a fence orders (R224, R225): its scope, whether it waits for every earlier access, and whether for
the reads. Base fences act at package scope (3), I counting as R and O as W. -/
def fenceForm : Instr → Option (Nat × Bool × Bool)
  | .fenceScoped sc k => some (sc.code, k != .acq, k != .rel)
  | .fenceTso _ _ => some (3, true, true)
  | .pause => some (0, false, false)
  | .fence _ p q _ _ =>
    let fromW := p.getLsbD 0 || p.getLsbD 2
    let toR := q.getLsbD 1 || q.getLsbD 3
    if p = 0 ∨ q = 0 then some (0, false, false)
    else if !fromW then some (3, false, true)
    else if !toR then some (3, true, false)
    else some (3, true, true)
  | _ => none

end Sys2Proof.Spec

/-- R224, R225: a fence waits until what its kind orders within its scope is performed, meets the deferred
faults of its scope, and then only retires; an empty set or PAUSE orders nothing. -/
def Obligations.Fences : Prop :=
  ∀ (i : Instr) (s : State) (k : Nat) (rel acq : Bool), Spec.fenceForm i = some (k, rel, acq) →
    ((rel = true → outstanding s s.cur k false = false ∧ deferredPre s s.cur k = .ok) →
      (acq = true → outstanding s s.cur k true = false) → ∃ t, exec i s = .next t ∧ Retired s t) ∧
    (rel = true → outstanding s s.cur k false = true →
      exec i s = .next (s.modHart s.cur fun H => { H with stalled := some .issue })) ∧
    (rel = true → outstanding s s.cur k false = false → ∀ c a x, deferredPre s s.cur k = .trap c a x →
      exec i s = .next (takeTrap (s.modHart s.cur fun H => fixUp H x) s.cur false c a)) ∧
    (rel = false → acq = true → outstanding s s.cur k true = true →
      exec i s = .next (s.modHart s.cur fun H => { H with stalled := some .issue }))

/-- R95, R98: HLOOP loads its level, sets LE and goes on, or past its last word when the count is 0; LCLR
clears its level's count. -/
def Sys2Proof.Spec.loopSetup : Prop :=
  ∀ (s : State) (level : Bool) (rs1 : BitVec 5) (soff : BitVec 2) (eoff : BitVec 10),
    let l : LoopLevel := { start := (s.me.pc + BitVec.ofNat 64 (4 * soff.toNat + 4)) &&& 0x7FFC
                           stop := (s.me.pc + BitVec.ofNat 64 (4 * eoff.toNat)) &&& 0x7FFC, count := s.x rs1 }
    let C := { s.me.csr with mnstatus := s.me.csr.mnstatus ||| 0x10 }
    let u := s.modHart s.cur fun H => { H with csr := if level then { C with loop1 := l } else { C with loop0 := l } }
    (s.x rs1 ≠ 0 → ∃ t, exec (.hloop level rs1 soff eoff) s = .next t ∧ Retired u t) ∧
    (s.x rs1 = 0 → ∃ t, exec (.hloop level rs1 soff eoff) s = .next t ∧
      Jumped u t (s.me.pc + BitVec.ofNat 64 (4 * eoff.toNat + 4))) ∧
    (∃ t, exec .lclr0 s = .next t ∧
      Retired (s.modHart s.cur fun H => { H with csr := { H.csr with loop0 := { H.csr.loop0 with count := 0 } } }) t) ∧
    (∃ t, exec .lclr1 s = .next t ∧
      Retired (s.modHart s.cur fun H => { H with csr := { H.csr with loop1 := { H.csr.loop1 with count := 0 } } }) t)

/-- R96: what retiring a word does to the loop counts, outside a VLOOP. Level 0 is evaluated first; level 1
only when level 0 did not go back. -/
def Sys2Proof.Spec.loopCounts : Prop :=
  ∀ s : State, s.me.vloop = none →
    let C := s.me.csr
    let T := (retire s s.cur).me
    let at0 := leBit C && C.loop0.count != 0 && s.me.pc == C.loop0.stop
    let at1 := leBit C && C.loop1.count != 0 && s.me.pc == C.loop1.stop && !goesBack C C.loop0 s.me.pc
    T.csr.loop0.count = (if at0 then C.loop0.count - 1 else C.loop0.count) ∧
    T.csr.loop1.count = (if at1 then C.loop1.count - 1 else C.loop1.count) ∧
    T.pc = (if goesBack C C.loop0 s.me.pc then C.loop0.start
            else if at1 && C.loop1.count != 1 then C.loop1.start else s.me.pc + 4) ∧
    (T.arrival = .back ↔ goesBack C C.loop0 s.me.pc = true ∨ (at1 = true ∧ C.loop1.count ≠ 1))

/-- R95, R96, R98: the loop words, and what retiring a word does to the loop levels. -/
def Obligations.HardwareLoops : Prop := Spec.loopSetup ∧ Spec.loopCounts

/-- R145: VLOOP with count 0 goes past its body; otherwise the body is under way, with no loop level
evaluated. -/
def Sys2Proof.Spec.vloopStarts : Prop :=
  ∀ (s : State) (rs1 : BitVec 5) (len : BitVec 4),
    let n := len.toNat + 1
    (s.x rs1 = 0 → ∃ t, exec (.vloop rs1 len) s = .next t ∧ Jumped s t (s.me.pc + BitVec.ofNat 64 (4 + 4 * n)) ∧ t.me.vloop = s.me.vloop) ∧
    (s.x rs1 ≠ 0 → ∃ t, exec (.vloop rs1 len) s = .next t ∧ Jumped s t (s.me.pc + 4) ∧
      t.me.vloop = some { pc := s.me.pc, len := n, at_ := 0, reg := rs1.toNat })

/-- R145: the words of a VLOOP body. The last word lowers the count by 1 and, while passes are to come, goes
back to the first; the others go to the next word. Loop levels are evaluated in the last pass only. -/
def Sys2Proof.Spec.vloopPasses : Prop :=
  ∀ (s : State) (v : VLoop), s.me.vloop = some v →
    let T := (retire s s.cur).me
    let last := v.at_ + 1 = v.len
    (v.at_ + 1 < v.len → s.me.getX v.reg ≠ 1 →
      T.pc = s.me.pc + 4 ∧ T.csr = s.me.csr ∧ T.x = s.me.x ∧ T.vloop = some { v with at_ := v.at_ + 1 }) ∧
    (last → s.me.getX v.reg ≠ 1 →
      T.pc = v.pc + 4 ∧ T.csr = s.me.csr ∧ T.vloop = some { v with at_ := 0 } ∧
      (v.reg ≠ 0 → T.getX v.reg = s.me.getX v.reg - 1)) ∧
    (last → s.me.getX v.reg = 1 → T.vloop = none ∧ T.pc = nextPc s.me ∧ T.getX v.reg = 0) ∧
    (∀ q n, (q, n) ≠ (RFile.x, v.reg) → T.getReg q n = s.me.getReg q n)

/-- R145: VLOOP and the words of its body. -/
def Obligations.SequencerLoops : Prop := Spec.vloopStarts ∧ Spec.vloopPasses

/-- R62, R64: an FMT word retires and leaves its payload pending. -/
def Sys2Proof.Spec.prefixWord : Prop :=
  ∀ (s : State) (fa fb fd : Fmt) (sm : ScaleMode), ∃ u p, Retired s u ∧ payloadOf p = some ⟨fa, fb, fd, sm⟩ ∧
    exec (.fmt fa fb fd sm) s = .next (u.modHart s.cur fun H => { H with pfx := true, payload := p })

/-- R69, R70: a SIG word whose comparison or whose arrival fails raises SIG_MISMATCH while SIG is 1;
otherwise it opens a new block with its own values. -/
def Sys2Proof.Spec.signatureWord : Prop :=
  ∀ (s : State) (crc : BitVec 12) (e : Bool) (k : EndKind),
    let K := s.me.chk
    let bad := bit s.me.csr.mnstatus 2 &&
      ((K.act && (K.run != K.exp || K.last != K.endk)) || (s.me.arrival == .indirect && !e))
    (bad = true → exec (.sig crc e k) s =
      .next (takeTrap s s.cur false 26 (BitVec.ofNat 64 (K.run.toNat + K.exp.toNat * 2 ^ 12 + K.last.toNat * 2 ^ 24 + K.endk.toNat * 2 ^ 27)))) ∧
    (bad = false → ∃ t, exec (.sig crc e k) s = .next t ∧
      Retired (s.modHart s.cur fun H => { H with chk := { H.chk with exp := crc, endk := BitVec.ofNat 3 k.code, run := 0, act := true } }) t)

/-- R62, R64, R69, R70: FMT and SIG words. -/
def Obligations.PrefixAndSignature : Prop := Spec.prefixWord ∧ Spec.signatureWord

/-- R148, R149: BQPUT appends to the queue of 16 and BQGET takes its first entry; a full and an empty queue
raise STREAM with codes 6 and 7. -/
def Obligations.BranchQueue : Prop :=
  ∀ (s : State) (r : BitVec 5),
    (s.me.bq.length < 16 → ∃ t, exec (.bqput r) s = .next t ∧
      Retired (s.modHart s.cur fun H => { H with bq := H.bq ++ [s.x r] }) t) ∧
    (16 ≤ s.me.bq.length → exec (.bqput r) s = .next (takeTrap s s.cur false 54 6)) ∧
    (∀ v l, s.me.bq = v :: l → r.toNat ∉ s.me.armed → ∃ t, exec (.bqget r) s = .next t ∧
      Retired (s.modHart s.cur fun H => { H.setX r.toNat v with bq := l }) t) ∧
    (s.me.bq = [] → exec (.bqget r) s = .next (takeTrap s s.cur false 54 7))

namespace Sys2Proof.Spec
open Sys2Proof Sys2Proof.Machine

/-- A check of a cell access passes (R237): 16-byte alignment, a place that may hold a cell, no lock. -/
def cellReady (s : State) (a : Word) (off : Nat) (write : Bool) : Prop :=
  a.toNat % 16 = 0 ∧ placeNow s a = .own off ∧ isMordant s.cur = false ∧ lockPre s a 16 write = .ok

end Sys2Proof.Spec

/-- R235, R238: FXADD, FXCLR and the FXRD forms on a cell of the hart's own scratchpad that is not poisoned.
A cell without NaN and in range reads as its sum rounded to f32; one out of range raises FXCELL (55). -/
def Sys2Proof.Spec.ownCells : Prop :=
  ∀ (s : State) (rd rs1 rs2 : BitVec 5) (off : Nat),
    let loc := Spec.own s off
    let a := s.x rs1
    let c := ofBytes (s.mem.readBytes loc 16)
    let r := (load s loc 16).1
    let inRange : Bool := c / 2 ^ 126 % 2 == 0 && decide (-(2 ^ 119 : Int) ≤ toSigned 124 (c % 2 ^ 124) ∧ toSigned 124 (c % 2 ^ 124) < 2 ^ 119)
    (Spec.cellReady s a off true →
      (∃ u t : State, exec (.fxclr rs1) s = .next t ∧ Retired u t ∧ u.mem.readBytes loc 16 = toBytes 16 0 ∧
        SameOutside s u loc 16 ∧ u.me = s.me ∧ u.net = s.net) ∧
      ((load s loc 16).2.2 = none →
        ∃ u t : State, exec (.fxadd rs1 rs2) s = .next t ∧ Retired u t ∧
          u.mem.readBytes loc 16 = toBytes 16 (cellAdd c (s.f rs2)) ∧
          SameOutside s u loc 16 ∧ u.me = s.me ∧ u.net = s.net)) ∧
    (Spec.cellReady s a off false → (load s loc 16).2.2 = none →
      (rd.toNat ∉ s.me.armed →
        (∃ t, exec (.fxrdLo rd rs1) s = .next t ∧ Retired (r.modHart s.cur fun H => H.setX rd.toNat (BitVec.ofNat 64 c)) t) ∧
        (∃ t, exec (.fxrdHi rd rs1) s = .next t ∧ Retired (r.modHart s.cur fun H => H.setX rd.toNat (BitVec.ofNat 64 (c / 2 ^ 64))) t)) ∧
      (rd.toNat ∈ s.me.armed → let trapped := Host.Outcome.next (takeTrap r s.cur false 30 (BitVec.ofNat 64 rd.toNat))
        exec (.fxrdLo rd rs1) s = trapped ∧ exec (.fxrdHi rd rs1) s = trapped) ∧
      (c / 2 ^ 127 = 1 → ∃ t, exec (.fxrd rd rs1) s = .next t ∧ Retired (r.modHart s.cur fun H => H.setF rd.toNat 0x7FC00000) t) ∧
      (c / 2 ^ 127 = 0 → inRange = true → ∃ t, exec (.fxrd rd rs1) s = .next t ∧
        Retired (r.modHart s.cur fun H => H.setF rd.toNat (BitVec.ofNat 32 (cellF32 c))) t) ∧
      (c / 2 ^ 127 = 0 → inRange = false → exec (.fxrd rd rs1) s = .next (takeTrap r s.cur false 55 a)))

/-- R211, R237: a cell operation elsewhere, on another core's scratchpad or in virtual memory, waits for a request place
and sends one packet; FXADD and FXCLR retire, the FXRD forms hold their hart. An address that is not aligned to 16 bytes,
or nowhere, raises 4, 5, 6 or 7. -/
def Sys2Proof.Spec.awayCells : Prop :=
  ∀ (s : State) (rd rs1 rs2 : BitVec 5), let a := s.x rs1
    let goes := fun (i : Instr) (t : State) => (placesFor s s.cur 1 = true → exec i s = .next t) ∧
      (placesFor s s.cur 1 = false → exec i s = .next (s.modHart s.cur fun H => { H with stalled := some .issue }))
    let traps := fun (i : Instr) (c : Nat) => exec i s = .next (takeTrap s s.cur false c a)
    ((∀ off, placeNow s a ≠ .own off) →
      (cellPre s a true = .ok → goes (.fxadd rs1 rs2) (sendPosted s a (.fxAdd (s.f rs2))) ∧ goes (.fxclr rs1) (sendPosted s a .fxClear)) ∧
      (cellPre s a false = .ok → goes (.fxrd rd rs1) (sendHeld s (.fxrd rd.toNat 0) a .fxRead) ∧
        (rd.toNat ∉ s.me.armed → goes (.fxrdLo rd rs1) (sendHeld s (.fxrd rd.toNat 1) a .fxRead) ∧
          goes (.fxrdHi rd rs1) (sendHeld s (.fxrd rd.toNat 2) a .fxRead)) ∧
        (rd.toNat ∈ s.me.armed → let late := sendHeld s (.late 30 (BitVec.ofNat 64 rd.toNat) .none) a .fxRead
          goes (.fxrdLo rd rs1) late ∧ goes (.fxrdHi rd rs1) late))) ∧
    (a.toNat % 16 ≠ 0 → traps (.fxadd rs1 rs2) 6 ∧ traps (.fxclr rs1) 6 ∧ traps (.fxrd rd rs1) 4 ∧ traps (.fxrdLo rd rs1) 4 ∧
      traps (.fxrdHi rd rs1) 4) ∧
    (a.toNat % 16 = 0 → placeNow s a = .bad → traps (.fxadd rs1 rs2) 7 ∧ traps (.fxclr rs1) 7 ∧ traps (.fxrd rd rs1) 5 ∧
      traps (.fxrdLo rd rs1) 5 ∧ traps (.fxrdHi rd rs1) 5)

/-- R211, R235, R237, R238: the cell operations. -/
def Obligations.CellsAtHome : Prop := Spec.ownCells ∧ Spec.awayCells

/-- R238: adding f32 values to a cell. With v = n * 2^-60 exactly and no flag, the sum grows by n modulo
2^124 and the flags stay; a NaN sets bit 127, an infinity or a magnitude of 2^59 or more bit 126, without
any other change. -/
def Obligations.CellSums : Prop :=
  ∀ (c : Nat) (v : BitVec 32), c < 2 ^ 128 →
    (f32F.dec v.toNat = .nan → cellAdd c v = c ||| 2 ^ 127) ∧
    (∀ neg, f32F.dec v.toNat = .inf neg → cellAdd c v = c ||| 2 ^ 126) ∧
    (∀ neg m e, f32F.dec v.toNat = .fin neg m e → m * 2 ^ (e + 149).toNat < 2 ^ (59 + 149) → -60 ≤ e →
      (cellAdd c v) / 2 ^ 124 = c / 2 ^ 124 ∧
      (cellAdd c v) % 2 ^ 124 = (((c : Int) + (if neg then -1 else 1) * (m * 2 ^ (e + 60).toNat : Nat)) % 2 ^ 124).toNat)

/-- R244: RLQRY tells which entries of the own core's range-lock table hold an address (bits 31 .. 0), whether
any does (63), and whether destination (62) and source (61) entries do. -/
def Sys2Proof.Spec.lockQueries : Prop :=
  ∀ (s : State) (rd rs1 : BitVec 5), rd.toNat ∉ s.me.armed →
    let a := canonAddr s s.cur (s.x rs1)
    let hits := (s.core (coreOf s.cur)).locks.filter fun e =>
      decide (e.2.lo ≤ a ∧ a ≤ e.2.hi ∧ (2 ^ 63 ≤ a ∨ e.2.slot = slotOf s.me))
    let v := (if hits = [] then 0 else 2 ^ 63) + (if ∃ e ∈ hits, e.2.dst = true then 2 ^ 62 else 0)
      + (if ∃ e ∈ hits, e.2.dst = false then 2 ^ 61 else 0) + (hits.map fun e => 2 ^ e.1).sum
    ∃ t, exec (.rlqry rd rs1) s = .next t ∧ Retired (s.modHart s.cur fun H => H.setX rd.toNat (BitVec.ofNat 64 v)) t

/-! Words of the vector chapter. -/

namespace Sys2Proof.Spec
open Sys2Proof Sys2Proof.Machine

/-- Lane k of width w (R112). -/
def lane (w : Nat) (v : VReg) (k : Nat) : Nat := v.toNat / 2 ^ (w * k) % 2 ^ w
/-- A lane as a number of its integer type, and the lane of a number. -/
def num (t : Fmt) (a : Nat) : Int := if t.isSig then (BitVec.ofNat t.width a).toInt else (a : Int)
def back (w : Nat) (z : Int) : Nat := (z % 2 ^ w).toNat

/-- A lane result: an integer of the type, or a value rounded to nearest even (R114, R115, R133). -/
def laneOf (t : Fmt) (f : Int → Int → Int) (g : FVal → FVal → FVal) (a b : Nat) : Nat :=
  match ffmt t with
  | some F => rne F (g (F.dec a) (F.dec b))
  | none => back t.width (f (num t a) (num t b))

/-- VMIN and VMAX of a lane (R133): the other of a NaN, -0 below +0. -/
def laneLeast (most : Bool) (t : Fmt) (a b : Nat) : Nat :=
  match ffmt t with
  | some F =>
    if F.dec a = .nan then (if F.dec b = .nan then F.canonNaN else b)
    else if F.dec b = .nan then a
    else
      let below := (F.dec a).lt (F.dec b) || ((F.dec a).eq (F.dec b) && (F.dec a).isNeg && !(F.dec b).isNeg)
      if most then (if below then b else a) else (if below then a else b)
  | none => back t.width (if most then max (num t a) (num t b) else min (num t a) (num t b))

/-- VCMP of a lane (R139). -/
def laneTest (cc : Cc) (t : Fmt) (a b : Nat) : Bool :=
  match ffmt t, cc with
  | some F, .eq => (F.dec a).eq (F.dec b)
  | some F, .ne => !(F.dec a).eq (F.dec b)
  | some F, .lt => (F.dec a).lt (F.dec b)
  | some F, .le => (F.dec a).lt (F.dec b) || (F.dec a).eq (F.dec b)
  | none, .eq => decide (num t a = num t b)
  | none, .ne => decide (num t a ≠ num t b)
  | none, .lt => decide (num t a < num t b)
  | none, .le => decide (num t a ≤ num t b)

/-- VABS and VNEG of a lane (R137). -/
def laneSign (neg : Bool) (t : Fmt) (a : Nat) : Nat :=
  match ffmt t with
  | some F =>
    if F.dec a = .nan then F.canonNaN
    else if neg then (if F.signBit ≤ a then a - F.signBit else a + F.signBit) else a % F.signBit
  | none => back t.width (if neg then -num t a else |num t a|)

/-- A function of one float lane (R144). -/
def lane1 (t : Fmt) (g : FFmt → FVal → Nat) (a : Nat) : Nat := match ffmt t with | some F => g F (F.dec a) | none => 0

/-- The pairwise tree of R138 over 2^k lanes from lane j. -/
def tree (f : Nat → Nat → Nat) (A : Nat → Nat) : Nat → Nat → Nat
  | 0, j => A j
  | k + 1, j => f (tree f A k j) (tree f A k (j + 2 ^ k))

/-- The exponent of 2 in the number of lanes of a width. -/
def lgLanes (w : Nat) : Nat := if w = 8 then 6 else if w = 16 then 5 else 4

/-- A custom-0 word as R117 and R133 to R144 give it: destination, sources with the lane width each must
have, whether the destination is also read, the width it must have, latency, stall count; and lane k of the
result, in lanes of width w. -/
structure VecForm where
  vd   : Nat
  srcs : List (Nat × Option Nat)
  acc  : Bool
  wd   : Option Nat
  lat  : Nat
  sc   : BitVec 3
  w    : Nat
  val  : Nat → Nat

/-- What a word reads from a v register, in lanes (R123). -/
def inLane (s : State) (w : Nat) (r : BitVec 5) : Nat → Nat := lane w (srcVal s.me r.toNat)

/-- Two sources of one type. -/
def bin (s : State) (d a b : BitVec 5) (t : Fmt) (lat : Nat) (sc : BitVec 3) (f : Nat → Nat → Nat) : VecForm :=
  ⟨d.toNat, [(a.toNat, some t.width), (b.toNat, some t.width)], false, some t.width, lat, sc, t.width,
    fun k => f (inLane s t.width a k) (inLane s t.width b k)⟩
/-- One source of one type. -/
def un (s : State) (d a : BitVec 5) (t : Fmt) (lat : Nat) (sc : BitVec 3) (f : (Nat → Nat) → Nat → Nat) : VecForm :=
  ⟨d.toNat, [(a.toNat, some t.width)], false, some t.width, lat, sc, t.width, f (inLane s t.width a)⟩

/-- Integer and float lane types (R114); the types of a typed word when they are such. -/
def arith (t : Fmt) : Bool := t.isInt || t.isFlt
def onType (t : VType) (s : State) (ok : Payload → Bool) (f : Payload → VecForm) : Option VecForm :=
  (typesOf t s.me).bind fun p => if ok p then some (f p) else none
/-- Latency of integer and float forms (R117). -/
def lat2 (t : Fmt) (i f : Nat) : Nat := if t.isInt then i else f
/-- The lanes of an untyped width. -/
def wBits : VWidth → Nat
  | .w8 => 8
  | .w16 => 16
  | .w32 => 32

def vecForm (s : State) : Instr → Option VecForm
  | .vadd d a b t sc => onType t s (arith ·.fd) fun p => bin s d a b p.fd (lat2 p.fd 2 4) sc (laneOf p.fd (· + ·) (FVal.add false))
  | .vsub d a b t sc => onType t s (arith ·.fd) fun p => bin s d a b p.fd (lat2 p.fd 2 4) sc (laneOf p.fd (· - ·) fun x y => FVal.add false x y.neg)
  | .vmul d a b t sc => onType t s (arith ·.fd) fun p => bin s d a b p.fd (lat2 p.fd 3 4) sc (laneOf p.fd (· * ·) FVal.mul)
  | .vmin d a b t sc => onType t s (arith ·.fd) fun p => bin s d a b p.fd (lat2 p.fd 2 4) sc (laneLeast false p.fd)
  | .vmax d a b t sc => onType t s (arith ·.fd) fun p => bin s d a b p.fd (lat2 p.fd 2 4) sc (laneLeast true p.fd)
  | .vfma d a b t sc => onType t s (·.fd.isFlt) fun p =>
    { bin s d a b p.fd 4 sc (fun _ _ => 0) with
      acc := true, val := fun k => match ffmt p.fd with
        | some F => rne F (FVal.add false (F.dec (lane p.fd.width (s.me.getV d.toNat) k)) ((F.dec (inLane s p.fd.width a k)).mul (F.dec (inLane s p.fd.width b k))))
        | none => 0 }
  | .vfms d a b t sc => onType t s (·.fd.isFlt) fun p =>
    { bin s d a b p.fd 4 sc (fun _ _ => 0) with
      acc := true, val := fun k => match ffmt p.fd with
        | some F => rne F (FVal.add false (F.dec (lane p.fd.width (s.me.getV d.toNat) k)) ((F.dec (inLane s p.fd.width a k)).mul (F.dec (inLane s p.fd.width b k))).neg)
        | none => 0 }
  | .vdot4 d a b t sc => onType t s (fun p => p.fa.width == 8 && p.fa.isInt && p.fb.width == 8 && p.fb.isInt) fun p =>
    ⟨d.toNat, [(a.toNat, some 8), (b.toNat, some 8)], true, some 32, 4, sc, 32, fun k =>
      back 32 (lane 32 (s.me.getV d.toNat) k + (List.range 4 |>.map fun j => num p.fa (inLane s 8 a (4 * k + j)) * num p.fb (inLane s 8 b (4 * k + j))).sum)⟩
  | .vshl d a b t sc => onType t s (·.fd.isInt) fun p => bin s d a b p.fd 2 sc fun x y => x * 2 ^ (y % p.fd.width) % 2 ^ p.fd.width
  | .vshr d a b t sc => onType t s (·.fd.isInt) fun p => bin s d a b p.fd 2 sc fun x y => x / 2 ^ (y % p.fd.width)
  | .vsra d a b t sc => onType t s (·.fd.isInt) fun p => bin s d a b p.fd 2 sc fun x y => back p.fd.width ((BitVec.ofNat p.fd.width x).toInt / 2 ^ (y % p.fd.width))
  | .vand d a b sc => some ⟨d.toNat, [(a.toNat, none), (b.toNat, none)], false, none, 2, sc, 8, fun k => inLane s 8 a k &&& inLane s 8 b k⟩
  | .vor d a b sc => some ⟨d.toNat, [(a.toNat, none), (b.toNat, none)], false, none, 2, sc, 8, fun k => inLane s 8 a k ||| inLane s 8 b k⟩
  | .vxor d a b sc => some ⟨d.toNat, [(a.toNat, none), (b.toNat, none)], false, none, 2, sc, 8, fun k => inLane s 8 a k ^^^ inLane s 8 b k⟩
  | .vperm d a b w sc => some ⟨d.toNat, [(a.toNat, some (wBits w)), (b.toNat, some (wBits w))], false, some (wBits w), 3, sc, wBits w, fun k =>
      if inLane s (wBits w) b k < 512 / wBits w then inLane s (wBits w) a (inLane s (wBits w) b k) else 0⟩
  | .vabs d a t sc => onType t s (fun p => p.fd.isSig || p.fd.isFlt) fun p => un s d a p.fd 2 sc fun A k => laneSign false p.fd (A k)
  | .vneg d a t sc => onType t s (fun p => p.fd.isSig || p.fd.isFlt) fun p => un s d a p.fd 2 sc fun A k => laneSign true p.fd (A k)
  | .vmov d a t sc => onType t s (fun _ => true) fun _ => ⟨d.toNat, [(a.toNat, none)], false, none, 2, sc, 8, inLane s 8 a⟩
  | .vexp2 d a t sc => onType t s (·.fd.isFlt) fun p => un s d a p.fd (if p.fd = .f32 then 14 else 10) sc fun A k => lane1 p.fd exp2 (A k)
  | .vlog2 d a t sc => onType t s (·.fd.isFlt) fun p => un s d a p.fd (if p.fd = .f32 then 14 else 10) sc fun A k => lane1 p.fd log2 (A k)
  | .vrcp d a t sc => onType t s (·.fd.isFlt) fun p => un s d a p.fd (if p.fd = .f32 then 14 else 10) sc fun A k => lane1 p.fd rcp (A k)
  | .vrsq d a t sc => onType t s (·.fd.isFlt) fun p => un s d a p.fd (if p.fd = .f32 then 14 else 10) sc fun A k => lane1 p.fd rsq (A k)
  | .vrsum d a t sc => onType t s (arith ·.fd) fun p =>
    un s d a p.fd (if p.fd = .f32 then 10 else lat2 p.fd 6 12) sc fun A _ => tree (laneOf p.fd (· + ·) (FVal.add false)) A (lgLanes p.fd.width) 0
  | .vrmax d a t sc => onType t s (arith ·.fd) fun p => un s d a p.fd 6 sc fun A _ => tree (laneLeast true p.fd) A (lgLanes p.fd.width) 0
  | .vrmin d a t sc => onType t s (arith ·.fd) fun p => un s d a p.fd 6 sc fun A _ => tree (laneLeast false p.fd) A (lgLanes p.fd.width) 0
  | .vidx d t sc => onType t s (arith ·.fd) fun p => ⟨d.toNat, [], false, some p.fd.width, 2, sc, p.fd.width, fun k =>
      match ffmt p.fd with | some F => rne F (.fin false k 0) | none => k⟩
  | .vsplat d a t sc => onType t s (arith ·.fd) fun p => ⟨d.toNat, [], false, some p.fd.width, 2, sc, p.fd.width, fun _ =>
      match ffmt p.fd with | some F => rne F (f32F.dec (s.f a).toNat) | none => (s.x a).toNat % 2 ^ p.fd.width⟩
  | .vbcast d a t sc => onType t s (fun _ => true) fun p => un s d a p.fd 2 sc fun A _ => A 0
  | .vslideDn d a n w sc => some ⟨d.toNat, [(a.toNat, some (wBits w))], false, some (wBits w), 3, sc, wBits w, fun k =>
      if k + n.toNat < 512 / wBits w then inLane s (wBits w) a (k + n.toNat) else 0⟩
  | .vslideUp d a n w sc => some ⟨d.toNat, [(a.toNat, some (wBits w))], false, some (wBits w), 3, sc, wBits w, fun k =>
      if n.toNat ≤ k then inLane s (wBits w) a (k - n.toNat) else 0⟩
  | _ => none

/-- The checks of a custom-0 word pass: its stream operands are ready and fit (R123 to R126). -/
def VecForm.ready (F : VecForm) (s : State) : Prop :=
  (∀ q ∈ F.srcs, srcPre s q.2 q.1 = .ok) ∧ (if F.acc then bothPre s F.vd else dstPre s F.wd F.vd) = .ok

/-- The effect of a custom-0 word that writes v to its destination: a register, or the next image of a
stream (R124); its sources' images are consumed (R123), the result lands L cycles after the word, and the
hart's next word waits sc cycles (R59). -/
def VecForm.effect (F : VecForm) (s : State) (v : VReg) : State :=
  (vwrite s F.vd v).modHart s.cur fun H =>
    withLatency s.me ((F.srcs.map Prod.fst).foldl consume H) F.lat F.sc.toNat (if (streamOf s.me F.vd).isNone then [(.v, F.vd)] else [])

end Sys2Proof.Spec

/-- R112 to R117, R133 to R138, R142 to R144: a custom-0 word whose operands are ready writes the lanes its
form gives, takes its stream operands, and changes nothing else. -/
def Obligations.VectorResults : Prop :=
  ∀ (i : Instr) (s : State) (F : Spec.VecForm), Spec.vecForm s i = some F → F.ready s →
    ∃ v t, exec i s = .next t ∧ Retired (F.effect s v) t ∧ ∀ k, k < 512 / F.w → Spec.lane F.w v k = F.val k

/-- R123 to R126, R149: a custom-0 word whose operand check fails raises it, and a word whose image is not
there yet waits; neither changes a register. -/
def Sys2Proof.Spec.vectorStops : Prop :=
  ∀ (i : Instr) (s : State) (F : Spec.VecForm), Spec.vecForm s i = some F →
    let p := Pre.all (F.srcs.map (fun q => srcPre s q.2 q.1) ++ [if F.acc then bothPre s F.vd else dstPre s F.wd F.vd])
    (∀ c a, p = .trap c a .none → exec i s = .next (takeTrap s s.cur false c a)) ∧
    (∀ w, p = .wait w → exec i s = .next (s.modHart s.cur fun H => { H with stalled := some w }))

/-- R65: a custom-0 word that needs a prefix and finds none, or one whose fields are reserved, is an illegal
instruction, and the prefix is gone. -/
def Sys2Proof.Spec.prefixNeeded : Prop :=
  ∀ (s : State) (d a b : BitVec 5) (sc : BitVec 3) (i : Instr), typesOf .pre s.me = none →
    i ∈ [Instr.vadd d a b .pre sc, .vsub d a b .pre sc, .vmul d a b .pre sc, .vmin d a b .pre sc, .vmax d a b .pre sc,
      .vfma d a b .pre sc, .vfms d a b .pre sc, .vdot4 d a b .pre sc, .vshl d a b .pre sc, .vshr d a b .pre sc, .vsra d a b .pre sc,
      .vabs d a .pre sc, .vneg d a .pre sc, .vmov d a .pre sc, .vrsum d a .pre sc, .vidx d .pre sc, .vsplat d a .pre sc] →
    exec i s = .next (takeTrap (s.modHart s.cur fun H => { H with pfx := false }) s.cur false 2 (tvalOf 2 (s.me.ir.setWidth 64)))

/-- R65, R123 to R126, R149: custom-0 words whose operands or prefix do not fit. -/
def Obligations.VectorTraps : Prop := Spec.vectorStops ∧ Spec.prefixNeeded

/-- R139: VCMP writes one mask bit for each lane and clears the bits above the last lane. -/
def Sys2Proof.Spec.vectorCompares : Prop :=
  ∀ (s : State) (md : BitVec 3) (cc : Cc) (a b : BitVec 5) (t : VType) (sc : BitVec 3) (p : Payload),
    typesOf t s.me = some p → Spec.arith p.fa = true →
    srcPre s (some p.fa.width) a.toNat = .ok → srcPre s (some p.fa.width) b.toNat = .ok →
    ∃ v u, exec (.vcmp md cc a b t sc) s = .next u ∧
      Retired (s.modHart s.cur fun H => withLatency s.me (consume (consume (H.setM md.toNat v) a.toNat) b.toNat) 2 sc.toNat [(.m, md.toNat)]) u ∧
      ∀ k, k < 64 → v.getLsbD k = (decide (k < 512 / p.fa.width) &&
        Spec.laneTest cc p.fa (Spec.inLane s p.fa.width a k) (Spec.inLane s p.fa.width b k))

/-- R140: VSEL takes each lane from vs1 where its mask bit is 1 and from vs2 where it is 0. -/
def Sys2Proof.Spec.vectorSelect : Prop :=
  ∀ (s : State) (d a b : BitVec 5) (mk : BitVec 3) (w : VWidth),
    let n := Spec.wBits w
    srcPre s (some n) a.toNat = .ok → srcPre s (some n) b.toNat = .ok → dstPre s (some n) d.toNat = .ok →
    ∃ v t, exec (.vsel d a b mk w) s = .next t ∧
      Retired ((vwrite s d.toNat v).modHart s.cur fun H => consume (consume H a.toNat) b.toNat) t ∧
      ∀ k, k < 512 / n → Spec.lane n v k =
        if (s.me.getM mk.toNat).getLsbD k then Spec.inLane s n a k else Spec.inLane s n b k

/-- R141: the mask forms combine all 64 bits; MPOP counts all 64 bits. -/
def Sys2Proof.Spec.maskForms : Prop :=
  ∀ (s : State) (rd : BitVec 5) (md m1 m2 : BitVec 3),
    let A := s.me.getM m1.toNat
    let B := s.me.getM m2.toNat
    let set := fun (v : Word) => s.modHart s.cur fun H => H.setM md.toNat v
    (∃ t, exec (.mand md m1 m2) s = .next t ∧ Retired (set (A &&& B)) t) ∧
    (∃ t, exec (.mor md m1 m2) s = .next t ∧ Retired (set (A ||| B)) t) ∧
    (∃ t, exec (.mxor md m1 m2) s = .next t ∧ Retired (set (A ^^^ B)) t) ∧
    (∃ t, exec (.mnot md m1) s = .next t ∧ Retired (set (~~~A)) t) ∧
    (rd.toNat ∉ s.me.armed → ∃ t, exec (.mpop rd m1) s = .next t ∧
      Retired (s.modHart s.cur fun H => H.setX rd.toNat (BitVec.ofNat 64 ((List.range 64).countP fun k => A.getLsbD k))) t)

/-- R139 to R141: compares, select and the mask forms. -/
def Obligations.MasksAndSelect : Prop := Spec.vectorCompares ∧ Spec.vectorSelect ∧ Spec.maskForms

/-! Conversions and tables. -/

namespace Sys2Proof.Spec
open Sys2Proof Sys2Proof.Machine

/-- The rounding of element k of a conversion (R158 to R160): stochastic rounding takes the upper 24 bits of
the state reached after k + 1 steps. -/
def cvMode (rm : CvRm) (S : W32) (k : Nat) : RMode :=
  match rm with
  | .rne => .rne
  | .rtz => .rtz
  | .sr => .sr ((lfsrStep^[k + 1] S).toNat / 256)

/-- A conversion (R168 to R171): its rounding field, its amax suffix, the source values, what converts one of
them, the registers that get the codes, latency and stall count. -/
structure CvForm where
  rm   : CvRm
  amax : Bool
  vals : List FVal
  enc  : RMode → FVal → Conv
  src  : Nat
  pre  : Pre
  vd   : Nat
  pair : Bool
  out  : List Nat → List VReg
  lat  : Nat
  sc   : BitVec 3
  eats : Bool

/-- An F format's rounding with the sat suffix; t4 codes are the nearest table entries. -/
def encQuant (H : Hart) (fd : Fmt) (sat : Bool) (x8 : Nat) (m : RMode) (v : FVal) : Conv :=
  match ffmt fd with
  | some F => if x8 = 255 then { code := F.canonNaN } else roundTo F m sat (unscale x8 v)
  | none => { code := if x8 = 255 then 0 else t4Nearest H (unscale x8 v) }
def encDeq (fd : Fmt) (sat : Bool) (m : RMode) (v : FVal) : Conv :=
  match ffmt fd with
  | some F => roundTo F m sat v
  | none => { code := 0 }

def cvForm (s : State) : Instr → Option CvForm
  | .vcvt d a rm sat amax sc => (typesOf .pre s.me).map fun p =>
    let n := 512 / max p.fa.width p.fd.width
    ⟨rm, amax, (List.range n).map fun k => elemVal s.me p.fa (inLane s p.fa.width a k), fun m v => convElem p.fa p.fd m sat v, a.toNat,
      .all [srcPre s (some p.fa.width) a.toNat, dstPre s (some p.fd.width) d.toNat], d.toNat, false,
      fun c => [ofLanes p.fd.width c], 4, sc, true⟩
  | .vquant d a rm sat amax sc => (typesOf .pre s.me).map fun p =>
    let pair := p.fa = .f32
    let vals := if pair then (List.range 32).map fun k => elemVal s.me p.fa (if k < 16 then lane 32 (s.me.getV a.toNat) k else lane 32 (s.me.getV (a.toNat + 1)) (k - 16))
      else (List.range 32).map fun k => elemVal s.me p.fa (inLane s 16 a k)
    let x8 := blockScale vals (scaleBase s.me p.fd)
    ⟨rm, amax, vals, encQuant s.me p.fd sat x8, a.toNat,
      .all [(if pair then pairPre s a.toNat else srcPre s (some p.fa.width) a.toNat), dstPre s (some p.fd.width) d.toNat], d.toNat, false,
      fun c => [scaledImage p.fd.width c x8], 6, sc, !decide pair⟩
  | .vdeq d a rm sat amax sc => (typesOf .pre s.me).map fun p =>
    let scaled := p.sm = .src
    let pair := scaled ∧ p.fd = .f32
    let img := srcVal s.me a.toNat
    let n := if scaled then 32 else convCount p.fa p.fd
    let vals := (decodeImage s.me p.fa n img).map fun v => if scaled then scaleBy (img.toNat / 2 ^ 504) v else v
    ⟨rm, amax, vals, encDeq p.fd sat, a.toNat,
      .all [srcPre s (some p.fa.width) a.toNat, (if pair then pairPre s d.toNat else dstPre s (some p.fd.width) d.toNat)], d.toNat, pair,
      fun c => if pair then [ofLanes 32 c, ofLanes 32 (c.drop 16)] else [ofLanes p.fd.width c], if p.fa = .cb2 then 5 else 4, sc, true⟩
  | _ => none

namespace CvForm
/-- The converted elements, in order. -/
def codes (F : CvForm) (S : W32) : List Conv := F.vals.mapIdx fun k v => F.enc (cvMode F.rm S k) v
/-- What it leaves when its result lands, L cycles after its issue (R160, R162, R164, R165): the LFSR's steps with stochastic
rounding, with amax the largest magnitude, and SAT, OVF and NAN. -/
def leaves (F : CvForm) (H : Hart) : CvPend :=
  let c := F.codes H.lfsr
  { lfsr := if F.rm = .sr then some (lfsrStep^[F.vals.length] H.lfsr) else none
    amax := if F.amax then some (BitVec.ofNat 32 ((F.vals.filter (· ≠ .nan)).foldl (fun m v => max m (rne f32F v.abs)) 0)) else none
    flags := (if ∃ e ∈ c, e.sat = true then 2 else 0) ||| (if ∃ e ∈ c, e.ovf = true then 4 else 0)
      ||| (if F.amax = true ∧ FVal.nan ∈ F.vals then 1 else 0)
    due := H.hold - 1 + F.lat }
/-- The hart with that to come, after what lands before it. -/
def after (F : CvForm) (H : Hart) : Hart :=
  let p := F.leaves H
  { H with cvPend := H.cvPend.filter (fun q => decide (q.due ≤ p.due)) ++ p :: H.cvPend.filter fun q => decide (p.due < q.due) }
/-- The state before the word retires. -/
def effect (F : CvForm) (s : State) : State :=
  let vs := F.out ((F.codes s.me.lfsr).map Conv.code)
  let u := match vs with
    | [v, w] => s.modHart s.cur fun H => (H.setV F.vd v).setV (F.vd + 1) w
    | [v] => vwrite s F.vd v
    | _ => s
  let regs := (if F.pair then [F.vd, F.vd + 1] else [F.vd]).filter fun r => (streamOf s.me r).isNone
  u.modHart s.cur fun H => withLatency s.me (if F.eats then consume (F.after H) F.src else F.after H) F.lat F.sc.toNat (regs.map fun r => (.v, r))
end CvForm
end Sys2Proof.Spec

/-- R158 to R160, R168 to R171: VCVT, VQUANT and VDEQ convert their elements in ascending order, write their image, and
change nothing else before their result lands. -/
def Sys2Proof.Spec.conversionWords : Prop :=
  ∀ (i : Instr) (s : State) (F : Spec.CvForm), Spec.cvForm s i = some F → F.pre = .ok →
    ∃ t, exec i s = .next t ∧ Retired (F.effect s) t

/-- R160, R162, R164, R165: when the clock of core c reaches a conversion's retirement, the LFSR has its value, cvamax grows
to its magnitude, and its flags are set; before, nothing of the hart changes. -/
def Sys2Proof.Spec.conversionsLand : Prop :=
  ∀ (s : State) (c t h : Nat), h ∈ hartsOf c →
    let H := s.hart h
    let now := max (s.core c).cycle t
    ((advance s c t).core c).cycle = now ∧
    (∀ p, H.cvPend = [p] → p.due ≤ now → (advance s c t).hart h =
      { H with
        cvPend := []
        lfsr := p.lfsr.getD H.lfsr
        csr := { H.csr with
          cvamax := BitVec.ofNat 32 (max H.csr.cvamax.toNat ((p.amax.map BitVec.toNat).getD 0))
          cvflags := H.csr.cvflags ||| p.flags } }) ∧
    ((∀ p ∈ H.cvPend, now < p.due) → (advance s c t).hart h = H)

/-- R158 to R160, R162, R164, R165, R168 to R171: the conversion words, and the landing of what they leave in the LFSR, cvamax
and the sticky flags. -/
def Obligations.Conversions : Prop := Spec.conversionWords ∧ Spec.conversionsLand

/-- R169, R158: an integer converts to an integer format exactly when it fits; otherwise it saturates and sets
SAT with the sat suffix, and wraps and sets OVF without it. A NaN and an infinity saturate an integer. -/
def Sys2Proof.Spec.integerConversions : Prop :=
  ∀ (fa fd : Fmt) (m : RMode) (sat : Bool) (i : Int), fd.isInt = true → fa.isInt = true →
    let lo : Int := if fd.isSig then -(2 ^ (fd.width - 1)) else 0
    let hi : Int := if fd.isSig then 2 ^ (fd.width - 1) - 1 else 2 ^ fd.width - 1
    let v := FVal.fin (decide (i < 0)) i.natAbs 0
    let wrap := fun (z : Int) => (z % 2 ^ fd.width).toNat
    (lo ≤ i ∧ i ≤ hi → convElem fa fd m sat v = { code := wrap i }) ∧
    (i < lo → sat = true → convElem fa fd m sat v = { code := wrap lo, sat := true }) ∧
    (hi < i → sat = true → convElem fa fd m sat v = { code := wrap hi, sat := true }) ∧
    (i < lo ∨ hi < i → sat = false → convElem fa fd m sat v = { code := wrap i, ovf := true }) ∧
    convElem .f32 fd m sat .nan = { code := 0, sat := true } ∧
    convElem .f32 fd m sat (.inf false) = { code := wrap hi, sat := true } ∧
    convElem .f32 fd m sat (.inf true) = { code := wrap lo, sat := true }

/-- R92, R151, R153, R169: patterns and their values, and integers converted to integers. -/
def Obligations.ExactNumbers : Prop := Spec.floatExact ∧ Spec.integerConversions

/-- What reading rows of the own scratchpad leaves as it was: only stored errors, their counts and reports, and poison may
change (R188, R190). -/
def Sys2Proof.Spec.OnlyRows (s r : State) : Prop :=
  SameMemory s r ∧ r.harts = s.harts ∧ r.net = s.net ∧ r.cur = s.cur

/-- R172, R173: TBLD loads the sixteen t4 entries, CBLD the 256 codebook words, SRSEED the state, keeping 1
for 0. -/
def Obligations.ConversionTables : Prop :=
  ∀ (s : State) (a : BitVec 5) (sc : BitVec 3),
    (srcPre s (some 8) a.toNat = .ok → ∃ T t, exec (.tbld a sc) s = .next t ∧
      Retired (s.modHart s.cur fun H => withLatency s.me (consume { H with t4 := T } a.toNat) 2 sc.toNat []) t ∧
      ∀ c, (c < 16 → SMap.get 0 T c = BitVec.ofNat 8 (Spec.inLane s 8 a c)) ∧ (16 ≤ c → SMap.get 0 T c = SMap.get 0 s.me.t4 c)) ∧
    (∀ off, let r := readRecord s (s.x a) 64 1024
      placeNow s (s.x a) = .own off → (s.x a).toNat % 64 = 0 → poisonPre r (s.x a) 1024 = .ok →
      (∀ n l, (n, l) ∈ (s.core (coreOf s.cur)).locks → l.dst = true →
        canonAddr s s.cur (s.x a) + 1024 ≤ l.lo ∨ l.hi < canonAddr s s.cur (s.x a)) →
      ∃ T t, exec (.cbld a) s = .next t ∧ Retired (r.modHart s.cur fun H => { H with cb2 := T }) t ∧ Spec.OnlyRows s r ∧
        ∀ e, e < 256 → SMap.get 0 T e = BitVec.ofNat 32 (ofBytes (s.mem.readBytes (Spec.own s off + 4 * e) 4))) ∧
    (∃ t, exec (.srseed a) s = .next t ∧
      Retired (s.modHart s.cur fun H => { H with lfsr := if (s.x a).setWidth 32 = (0 : W32) then 1 else (s.x a).setWidth 32 }) t)

/-! Vector memory, gathers, copies. -/

namespace Sys2Proof.Spec
open Sys2Proof Sys2Proof.Machine

/-- A vector access (R129): the register, the address of lane k, the mask register, the lane width. -/
structure LaneForm where
  reg : BitVec 5
  adr : Nat → Word
  msk : BitVec 3
  w   : Nat

/-- The lanes whose mask bit is 1, or all of them with m0 (R128, R129). -/
def LaneForm.act (F : LaneForm) (s : State) : List Nat :=
  (List.range (512 / F.w)).filter fun k => F.msk = 0 || (s.me.getM F.msk.toNat).getLsbD k

def vloadForm (s : State) : Instr → Option LaneForm
  | .vld d a b mk w => some ⟨d, fun k => s.x a + s.x b + BitVec.ofNat 64 (k * (wBits w / 8)), mk, wBits w⟩
  | .vlds d a b mk w => some ⟨d, fun k => s.x a + BitVec.ofNat 64 k * s.x b, mk, wBits w⟩
  | _ => none
def vstoreForm (s : State) : Instr → Option LaneForm
  | .vst d a b mk w => some ⟨d, fun k => s.x a + s.x b + BitVec.ofNat 64 (k * (wBits w / 8)), mk, wBits w⟩
  | .vsts d a b mk w => some ⟨d, fun k => s.x a + BitVec.ofNat 64 k * s.x b, mk, wBits w⟩
  | _ => none

/-- The lanes of a form as the checks take them. -/
def LaneForm.lanes (F : LaneForm) (s : State) : List Lane := (F.act s).map fun k => ⟨k, F.adr k⟩

end Sys2Proof.Spec

/-- R129, R130, R194: a vector load whose active lanes all lie in the hart's own memory writes each of them from
its bytes, lowest first, and keeps the other lanes; no byte of memory changes. With no active lane nothing
happens, and with a poisoned one the lowest address of them raises POISON_CONSUMED. -/
def Sys2Proof.Spec.ownVectorLoads : Prop :=
  ∀ (i : Instr) (s : State) (F : Spec.LaneForm) (off : Nat → Nat), Spec.vloadForm s i = some F → gatherPre s.me [F.reg.toNat] = .ok →
    (F.act s = [] → ∃ t, exec i s = .next t ∧ Retired s t) ∧
    (F.act s ≠ [] → (∀ k ∈ F.act s, placeNow s (F.adr k) = .own (off k)) →
      lanesPre s (F.lanes s) (F.w / 8) false = .ok → dstPre s (some F.w) F.reg.toNat = .ok →
      (readOwn s F.w (ownLanes s (F.lanes s))).2.2 = none →
      ∃ (u : State) (v : VReg) (t : State), exec i s = .next t ∧ Retired (vwrite u F.reg.toNat v) t ∧ SameMemory s u ∧ (∀ h, u.hart h = s.hart h) ∧ u.net = s.net ∧
        ∀ k, k < 512 / F.w → Spec.lane F.w v k =
          if k ∈ F.act s then ofBytes (s.mem.readBytes (Spec.own s (off k)) (F.w / 8)) else Spec.lane F.w (s.me.getV F.reg.toNat) k) ∧
    ((∀ k ∈ F.act s, placeNow s (F.adr k) = .own (off k)) → lanesPre s (F.lanes s) (F.w / 8) false = .ok → (s.core (coreOf s.cur)).flaws = [] →
      let poisoned := fun k => poisonedAt s (Spec.own s (off k)) (F.w / 8) ≠ none
      (∃ k ∈ F.act s, poisoned k) → ∃ k ∈ F.act s, poisoned k ∧ (∀ j ∈ F.act s, poisoned j → (F.adr k).toNat ≤ (F.adr j).toNat) ∧
        exec i s = .next (takeTrap s s.cur false 27 (F.adr k)))

/-- R129, R131: a vector store whose active lanes all lie in the hart's own memory writes them in ascending
order, so the highest lane that names a byte stays; no other byte changes. -/
def Sys2Proof.Spec.ownVectorStores : Prop :=
  ∀ (i : Instr) (s : State) (F : Spec.LaneForm) (off : Nat → Nat), Spec.vstoreForm s i = some F → gatherPre s.me [F.reg.toNat] = .ok →
    (F.act s = [] → ∃ t, exec i s = .next t ∧ Retired s t) ∧
    (F.act s ≠ [] → (∀ k ∈ F.act s, placeNow s (F.adr k) = .own (off k)) → srcPre s (some F.w) F.reg.toNat = .ok →
      lanesPre s (F.lanes s) (F.w / 8) true = .ok → placesFor s s.cur 0 = true →
      ∃ u t : State, exec i s = .next t ∧ Retired (u.modHart s.cur fun H => consume H F.reg.toNat) t ∧ u.me = s.me ∧ u.net = s.net ∧
        ∀ a, u.mem.read a = ((F.act s).foldl (fun m k =>
          m.writeBytes (Spec.own s (off k)) (toBytes (F.w / 8) (Spec.lane F.w (srcVal s.me F.reg.toNat) k))) s.mem).read a)

/-- R129 to R131: vector loads and stores of own memory. -/
def Obligations.OwnVectorAccesses : Prop := Spec.ownVectorLoads ∧ Spec.ownVectorStores

/-- R89, R129, R130, R222: the lanes of a vector access that lie elsewhere go out as one packet for each
64-byte line; a load then holds the hart for as many replies, and a store retires. -/
def Sys2Proof.Spec.awayVectors : Prop :=
  ∀ (i : Instr) (s : State) (F : Spec.LaneForm), F.act s ≠ [] → gatherPre s.me [F.reg.toNat] = .ok →
    (∀ k ∈ F.act s, ∀ off, placeNow s (F.adr k) ≠ .own off) →
    let lines := ((F.act s).map fun k => (F.adr k).toNat / 64).dedup.length
    placesFor s s.cur lines = true →
    (Spec.vloadForm s i = some F → lanesPre s (F.lanes s) (F.w / 8) false = .ok → dstPre s (some F.w) F.reg.toNat = .ok →
      ∃ t, exec i s = .next t ∧ SameMemory s t ∧ OtherHarts s t ∧ t.net.length = s.net.length + lines ∧ t.net.take s.net.length = s.net ∧
        ∃ q, q.kind = .vload F.reg.toNat ∧ q.parts = lines ∧ t.me = { s.me with held := some q, stalled := none }) ∧
    (Spec.vstoreForm s i = some F → lanesPre s (F.lanes s) (F.w / 8) true = .ok → srcPre s (some F.w) F.reg.toNat = .ok →
      ∃ u t : State, exec i s = .next t ∧ Retired u t ∧ SameMemory s u ∧ u.net.length = s.net.length + lines ∧ u.net.take s.net.length = s.net ∧
        u.me = consume s.me F.reg.toNat ∧ OtherHarts s u)

/-- R89, R129, R130, R211: of a vector access with lanes elsewhere and in the hart's own memory, the own lanes are read, or
written, at issue, and each 64-byte line of the others goes out as one packet. A load keeps the own lanes with the
instruction, and its replies bring the others. With fewer places free than lines, nothing happens until there are. -/
def Sys2Proof.Spec.mixedVectors : Prop :=
  ∀ (i : Instr) (s : State) (F : Spec.LaneForm), gatherPre s.me [F.reg.toNat] = .ok →
    let isOwn := fun (k : Nat) => match placeNow s (F.adr k) with | .own _ => true | _ => false
    let away := (F.act s).filter fun k => !isOwn k
    let lines := (away.map fun k => (F.adr k).toNat / 64).dedup.length
    away ≠ [] →
    (Spec.vloadForm s i = some F → lanesPre s (F.lanes s) (F.w / 8) false = .ok → dstPre s (some F.w) F.reg.toNat = .ok →
      (placesFor s s.cur lines = false → exec i s = .next (s.modHart s.cur fun H => { H with stalled := some .issue })) ∧
      (placesFor s s.cur lines = true → ∃ t, exec i s = .next t ∧ SameMemory s t ∧ OtherHarts s t ∧
        t.net.length = s.net.length + lines ∧ t.net.take s.net.length = s.net ∧
        ∃ q, q.kind = .vload F.reg.toNat ∧ q.parts = lines ∧ t.me = { s.me with held := some q, stalled := none } ∧
          (∀ k, k < 512 / F.w → Spec.lane F.w q.mask k = if k ∈ F.act s then 2 ^ F.w - 1 else 0) ∧
          (∀ k, k < 512 / F.w → (k ∈ away ∨ k ∉ F.act s) → Spec.lane F.w q.acc k = 0) ∧
          (∀ k ∈ F.act s, ∀ off, placeNow s (F.adr k) = .own off →
            Spec.lane F.w q.acc k = ofBytes (s.mem.readBytes (Spec.own s off) (F.w / 8))))) ∧
    (Spec.vstoreForm s i = some F → lanesPre s (F.lanes s) (F.w / 8) true = .ok → srcPre s (some F.w) F.reg.toNat = .ok →
      (placesFor s s.cur lines = false → exec i s = .next (s.modHart s.cur fun H => { H with stalled := some .issue })) ∧
      (placesFor s s.cur lines = true → ∃ u t : State, exec i s = .next t ∧ Retired u t ∧ u.me = consume s.me F.reg.toNat ∧
        u.net.length = s.net.length + lines ∧ u.net.take s.net.length = s.net ∧
        ∀ a, u.mem.read a = ((F.act s).foldl (fun m k => match placeNow s (F.adr k) with
          | .own off => m.writeBytes (Spec.own s off) (toBytes (F.w / 8) (Spec.lane F.w (srcVal s.me F.reg.toNat) k))
          | _ => m) s.mem).read a))

/-- R89, R129, R130, R211, R222: vector accesses with lanes elsewhere. -/
def Obligations.AwayVectorAccesses : Prop := Spec.awayVectors ∧ Spec.mixedVectors

namespace Sys2Proof.Spec
open Sys2Proof Sys2Proof.Machine

/-- The address of lane k of the .a forms, from a register pair, and of the .x forms (R202). -/
def pairAddr (s : State) (va : BitVec 4) (k : Nat) : Word :=
  BitVec.ofNat 64 (lane 64 (srcVal s.me (2 * va.toNat + k / 8)) (k % 8))
def indexAddr (s : State) (rs1 vs2 : BitVec 5) (k : Nat) : Word :=
  s.x rs1 + 4 * sx (BitVec.ofNat 32 (lane 32 (srcVal s.me vs2.toNat) k))

/-- A gather or scatter (R202): the data register, the registers with the addresses and their lane width,
and the address of lane k. -/
def gatherForm (s : State) : Instr → Option (BitVec 5 × List (Nat × Nat) × (Nat → Word))
  | .gathA d va => some (d, [(2 * va.toNat, 64), (2 * va.toNat + 1, 64)], pairAddr s va)
  | .gathX d a b => some (d, [(b.toNat, 32)], indexAddr s a b)
  | _ => none
def scatterForm (s : State) : Instr → Option (BitVec 5 × List (Nat × Nat) × (Nat → Word))
  | .scatA d va => some (d, [(2 * va.toNat, 64), (2 * va.toNat + 1, 64)], pairAddr s va)
  | .scatX d a b => some (d, [(b.toNat, 32)], indexAddr s a b)
  | _ => none

/-- The packets a hart sends, oldest first, in front of which the net stood. -/
def bodies (s t : State) : List Body := (t.net.drop s.net.length).map Packet.body

/-- The lanes of a gather or scatter (R202 to R204): its checks, the hart once they are under way, the sixteen of them
(number, address, data), and the packet of one. -/
structure LanesForm where
  pre   : Pre
  start : Hart
  lanes : List (Nat × Word × W32)
  body  : Nat × Word × W32 → Body

/-- The sixteen addresses as the checks take them. -/
def sixteenOf (adr : Nat → Word) : List Lane := (List.range 16).map fun k => ⟨k, adr k⟩

def lanesForm (s : State) (i : Instr) : Option LanesForm :=
  ((gatherForm s i).map fun (d, srcs, adr) =>
    { pre := .all [.all (srcs.map fun q => srcPre s (some q.2) q.1), lanesPre s (sixteenOf adr) 4 false, gatherPre s.me (d.toNat :: srcs.map Prod.fst),
        dstPre s (some 32) d.toNat]
      start := { (srcs.foldl (fun H q => consume H q.1) s.me) with
        gathers := s.me.gathers.filter (fun g => g.vd != d.toNat) ++ [{ vd := d.toNat, left := 16 }] }
      lanes := (List.range 16).map fun k => (k, adr k, 0)
      body := fun e => .mem e.2.1.toNat (.load 4) (.lane d.toNat e.1) (laneWhere s e.2.1) }) <|>
  ((scatterForm s i).map fun (d, srcs, adr) =>
    { pre := .all [.all ((srcs ++ [(d.toNat, 32)]).map fun (q : Nat × Nat) => srcPre s (some q.2) q.1), lanesPre s (sixteenOf adr) 4 true,
        gatherPre s.me (d.toNat :: srcs.map Prod.fst)]
      start := ((d.toNat, 32) :: srcs).foldl (fun H q => consume H q.1) s.me
      lanes := (List.range 16).map fun k => (k, adr k, BitVec.ofNat 32 (lane 32 (srcVal s.me d.toNat) k))
      body := fun e => .mem e.2.1.toNat (.store (toBytes 4 e.2.2.toNat) false) (.posted false) (laneWhere s e.2.1) })

/-- From s to u the hart became H and sent these packets; nothing else of it, no other hart and no byte changed. -/
def Sent (s u : State) (H : Hart) (l : List Body) : Prop :=
  u.me = H ∧ SameMemory s u ∧ OtherHarts s u ∧ u.net.take s.net.length = s.net ∧ bodies s u = l

end Sys2Proof.Spec

/-- R202 to R204, R211: a gather (GATH.A, GATH.X) retires with sixteen 4-byte reads under way for its register, a scatter
(SCAT.A, SCAT.X) with sixteen 4-byte writes, in lane order; neither has touched memory. Each lane takes a request place: with
fewer free the word sends as many lanes as there are places and holds the hart with the others; it goes on with those when
places are free, and retires with the last. -/
def Obligations.GatherScatter : Prop :=
  ∀ (i : Instr) (s : State) (F : Spec.LanesForm), Spec.lanesForm s i = some F →
    let free := 48 - placesUsed s (coreOf s.cur)
    (s.me.lanes = [] → F.pre = .ok →
      (16 ≤ free → ∃ u t : State, exec i s = .next t ∧ Retired u t ∧ Spec.Sent s u F.start (F.lanes.map F.body)) ∧
      (0 < free → free < 16 → ∃ t : State, exec i s = .next t ∧
        Spec.Sent s t { F.start with lanes := F.lanes.drop free, stalled := some .issue } ((F.lanes.take free).map F.body)) ∧
      (free = 0 → exec i s = .next (s.modHart s.cur fun H => { H with stalled := some .issue }))) ∧
    (s.me.lanes ≠ [] →
      (s.me.lanes.length ≤ free → ∃ u t : State, exec i s = .next t ∧ Retired u t ∧ Spec.Sent s u s.me (s.me.lanes.map F.body)) ∧
      (free < s.me.lanes.length → ∃ t : State, exec i s = .next t ∧
        Spec.Sent s t { s.me with lanes := s.me.lanes.drop free, stalled := some .issue } ((s.me.lanes.take free).map F.body)))

/-- The locks l have been put, in order, into the entries ns of the own core's range-lock table: ns are its lowest free
entries in s, and every other entry is as it was (R240). -/
def Sys2Proof.Spec.locksAdded (s u : State) (ns : List Nat) (l : List Lock) : Prop :=
  let old := (s.core (coreOf s.cur)).locks
  let new := (u.core (coreOf s.cur)).locks
  ns = ((List.range 32).filter fun n => (SMap.find? old n).isNone).take l.length ∧ ns.length = l.length ∧
  (∀ (k n : Nat) (e : Lock), ns[k]? = some n → l[k]? = some e → SMap.find? new n = some e) ∧
  (∀ n, n ∉ ns → SMap.find? new n = SMap.find? old n)

/-- R205, R206, R209, R240: CPY puts its command with its two shapes into the copy queue, locks the hull of its source as a
source and that of its destination as a destination, each in the lowest free entry of the own core's table (a shape without
elements locks nothing), and gives the next tag; CPYW waits for the tags up to its operand and gives the first unreported failure, or
0. -/
def Sys2Proof.Spec.copyCommands : Prop :=
  ∀ (s : State) (rd a b : BitVec 5), rd.toNat ∉ s.me.armed →
    let tag := s.me.copyCtr + 1
    let r := readRecord (readRecord s (s.x a) 8 32) (s.x b) 8 32
    (recordPre s (s.x a) 8 = .ok → recordPre s (s.x b) 8 = .ok → poisonPre r (s.x a) 32 = .ok → poisonPre r (s.x b) 32 = .ok →
      queuePre r .copy = .ok → entriesPre r 2 = .ok →
      ∃ u t : State, exec (.cpy rd a b) s = .next t ∧
        Retired (u.modHart s.cur fun H => { H.setX rd.toNat (BitVec.ofNat 64 tag) with copyCtr := tag, copies := H.copies ++ [{ tag := tag }] }) t ∧
        SameMemory s u ∧ u.harts = s.harts ∧ u.net = s.net ∧
        ∃ q, (u.cluster (cluOfHart s.cur)).copyQ = (s.cluster (cluOfHart s.cur)).copyQ ++ [q] ∧ q.hart = s.cur ∧ q.tag = tag ∧ q.fill = false ∧
          q.src = parseShape (recordBytes s (s.x a) 32) ∧ q.dst = parseShape (recordBytes s (s.x b) 32) ∧ q.slot = slotOf s.me ∧ q.key = keyOf s.me ∧
          q.born = s.nextId ∧ q.imgs = imagesNow s.me ∧
          Spec.locksAdded s u q.locks
            (((hull s s.cur q.src).map fun e => (⟨e.1, e.2, false, .copy, s.cur, slotOf s.me⟩ : Lock)).toList
              ++ ((hull s s.cur q.dst).map fun e => (⟨e.1, e.2, true, .copy, s.cur, slotOf s.me⟩ : Lock)).toList)) ∧
    (let due := s.me.copies.filter fun c => decide (c.tag ≤ (s.x a).toNat)
     let bad := due.filter fun c => !c.reported && c.status != some 0
     ((∃ c ∈ due, c.status = none) → exec (.cpyw rd a) s = .next (s.modHart s.cur fun H => { H with stalled := some .copy })) ∧
     ((∀ c ∈ due, c.status ≠ none) → bad = [] → (∀ c ∈ s.me.copies, c.tag ≠ 0) → ∃ t, exec (.cpyw rd a) s = .next t ∧
        Retired (s.modHart s.cur fun H => H.setX rd.toNat 0) t) ∧
     ((∀ c ∈ due, c.status ≠ none) → ∀ c l v, bad = c :: l → c.status = some v → ∃ t, exec (.cpyw rd a) s = .next t ∧
        Retired (s.modHart s.cur fun H => { H.setX rd.toNat v with
          copies := H.copies.map fun e => if e.tag = c.tag then { e with reported := true } else e }) t))

/-- R205, R206, R209, R240, R244: the copy words and the query of the range-lock table. -/
def Obligations.CopiesAndLocks : Prop := Spec.copyCommands ∧ Spec.lockQueries

/-! Streams and full-empty bits. -/

/-- R121, R122, R307, R308: SBIND, CHBIND and SUNBIND. A new binding takes the place of the old one and
starts at its first image. -/
def Obligations.Bindings : Prop :=
  ∀ (s : State) (v : BitVec 3) (a : BitVec 5), unbindPre s.me (24 + v.toNat) = .ok →
    let r := 24 + v.toNat
    let clear := fun (H : Hart) => { H.setV r 0 with streams := SMap.del H.streams r }
    let bound := fun (R : State) (k : StreamKind) => R.modHart s.cur fun H =>
      { clear H with streams := SMap.put (SMap.del H.streams r) r { kind := k, born := s.nextId } }
    (∃ t, exec (.sunbind v) s = .next t ∧ Retired (s.modHart s.cur clear) t) ∧
    (contextPre s r = .ok →
      (let R := readRecord s (s.x a) 8 32
       recordPre s (s.x a) 8 = .ok → poisonPre R (s.x a) 32 = .ok →
        let shp := parseShape (recordBytes s (s.x a) 32)
        Spec.OnlyRows s R ∧
        (shp.valid = true →
          (∃ t, exec (.sbindSrc v a) s = .next t ∧ Retired (bound R (.src shp)) t) ∧
          (∃ t, exec (.sbindDst v a) s = .next t ∧ Retired (bound R (.dst shp)) t)) ∧
        (shp.valid = false →
          exec (.sbindSrc v a) s = .next (takeTrap R s.cur false 54 (BitVec.ofNat 64 (5 + 256 * r))) ∧
          exec (.sbindDst v a) s = .next (takeTrap R s.cur false 54 (BitVec.ofNat 64 (5 + 256 * r))))) ∧
      (bit (s.x a) 63 = true → bits (s.x a) 43 20 = 0 → ∃ t, exec (.chbind v a) s = .next t ∧
        Retired (bound s (.chOut (bits (s.x a) 0 16) (bits (s.x a) 16 25) (bits (s.x a) 41 2))) t) ∧
      (bit (s.x a) 63 = false → bits (s.x a) 16 47 = 0 → tagBound s.me r (bits (s.x a) 0 16) = false →
        ∃ t, exec (.chbind v a) s = .next t ∧ Retired (bound s (.chIn (bits (s.x a) 0 16))) t))

namespace Sys2Proof.Spec
open Sys2Proof Sys2Proof.Machine

/-- No request waits on the granule of loc. -/
def quiet (s : State) (loc : Nat) : Prop :=
  ∀ p ∈ (s.core (coreOfLoc loc)).feWait, ∀ a op k l, p.body = .mem a op k (.at_ l) → l / 16 ≠ loc / 16

end Sys2Proof.Spec

/-- R197, R198: the full-empty operations on a granule of the hart's own scratchpad on which nothing waits.
LD.FE takes a full granule's doubleword and, with clr, empties it; ST.FE stores to an empty one and fills it;
FESET sets the bit; FEQRY tells full, poisoned and how many requests wait. -/
def Sys2Proof.Spec.fullEmptyAtHome : Prop :=
  ∀ (s : State) (rd a b : BitVec 5) (off : Nat), let loc := Spec.own s off
    placeNow s (s.x a) = .own off → isMordant s.cur = false → Spec.quiet s loc → rd.toNat ∉ s.me.armed →
    ((s.x a).toNat % 8 = 0 → lockPre s (s.x a) 8 false = .ok → (s.gbits loc).fe = true → (load s loc 8).2.2 = none →
      ∃ u t : State, exec (.ldFeKeep rd a) s = .next t ∧
        Retired (u.modHart s.cur fun H => H.setX rd.toNat (BitVec.ofNat 64 (ofBytes (s.mem.readBytes loc 8)))) t ∧
        SameMemory s u ∧ u.me = s.me ∧ (u.gbits loc).fe = true) ∧
    ((s.x a).toNat % 8 = 0 → lockPre s (s.x a) 8 true = .ok → (s.gbits loc).fe = true → (load s loc 8).2.2 = none →
      ∃ u t : State, exec (.ldFeClr rd a) s = .next t ∧
        Retired (u.modHart s.cur fun H => H.setX rd.toNat (BitVec.ofNat 64 (ofBytes (s.mem.readBytes loc 8)))) t ∧
        SameMemory s u ∧ u.me = s.me ∧ (u.gbits loc).fe = false) ∧
    (feRelease s (s.x a) = .ok → (s.x a).toNat % 8 = 0 → lockPre s (s.x a) 8 true = .ok → (s.gbits loc).fe = false →
      ∃ u t : State, exec (.stFe a b) s = .next t ∧ Retired u t ∧ u.mem.readBytes loc 8 = toBytes 8 (s.x b).toNat ∧
        SameOutside s u loc 8 ∧ (u.gbits loc).fe = true ∧ u.me = s.me) ∧
    (feRelease s (s.x a) = .ok → granuleLockPre s (s.x a) = .ok →
      (∃ u t : State, exec (.fesetEmpty a) s = .next t ∧ Retired u t ∧ SameMemory s u ∧ (u.gbits loc).fe = false ∧ u.me = s.me) ∧
      (∃ u t : State, exec (.fesetFull a) s = .next t ∧ Retired u t ∧ SameMemory s u ∧ (u.gbits loc).fe = true ∧ u.me = s.me)) ∧
    (∃ (u : State) (v : Word) (t : State), exec (.feqry rd a) s = .next t ∧ Retired (u.modHart s.cur fun H => H.setX rd.toNat v) t ∧
      SameMemory s u ∧ u.me = s.me ∧ bit v 0 = (s.gbits loc).fe ∧ bit v 1 = (s.gbits loc).poi)

/-- R199, R200: a full-empty request whose condition does not hold waits at its granule's core, oldest first,
and holds its hart; with 64 waiting it raises FE_TIMEOUT (28). -/
def Sys2Proof.Spec.fullEmptyWaits : Prop :=
  ∀ (s : State) (rd a b : BitVec 5) (off : Nat), let loc := Spec.own s off; let c := coreOf s.cur
    placeNow s (s.x a) = .own off → isMordant s.cur = false → rd.toNat ∉ s.me.armed → (s.x a).toNat % 8 = 0 →
    let joined := fun (i : Instr) (k : HeldKind) (op : MemOp) =>
      (64 ≤ (s.core c).feWait.length → exec i s = .next (takeTrap s s.cur false 28 (s.x a))) ∧
      ((s.core c).feWait.length < 64 → ∃ t p, exec i s = .next t ∧ SameMemory s t ∧ t.net = s.net ∧
        (t.core c).feWait = (s.core c).feWait ++ [p] ∧ p.hart = s.cur ∧ p.body = .mem (s.x a).toNat op (.held 0) (.at_ loc) ∧
        t.me = { s.me with held := some { kind := k, addr := s.x a, parts := 1 }, stalled := none })
    ((s.gbits loc).fe = false → lockPre s (s.x a) 8 false = .ok → joined (.ldFeKeep rd a) (.plain rd.toNat) (.feLoad false)) ∧
    ((s.gbits loc).fe = false → lockPre s (s.x a) 8 true = .ok → joined (.ldFeClr rd a) (.plain rd.toNat) (.feLoad true)) ∧
    ((s.gbits loc).fe = true → lockPre s (s.x a) 8 true = .ok → feRelease s (s.x a) = .ok →
      joined (.stFe a b) (.plain 0) (.feStore (s.x b)))

/-- R195, R197: a full-empty operation whose address is not aligned, or in none of its spaces, raises 4, 5, 6 or 7 with
the address, and has no other effect. -/
def Sys2Proof.Spec.fullEmptyFaults : Prop :=
  ∀ (s : State) (rd a b : BitVec 5), let traps := fun (i : Instr) (c : Nat) => exec i s = .next (takeTrap s s.cur false c (s.x a))
    ((s.x a).toNat % 8 ≠ 0 → traps (.ldFeKeep rd a) 4 ∧ traps (.ldFeClr rd a) 4 ∧ traps (.stFe a b) 6) ∧
    (fePlace s (s.x a) = false → traps (.fesetEmpty a) 7 ∧ traps (.fesetFull a) 7 ∧ traps (.feqry rd a) 5 ∧
      ((s.x a).toNat % 8 = 0 → traps (.ldFeKeep rd a) 5 ∧ traps (.ldFeClr rd a) 5 ∧ traps (.stFe a b) 7))

/-- R89, R197, R211: a full-empty operation on another core waits for a request place and sends one packet. FESET retires;
the others hold their hart until the reply. -/
def Sys2Proof.Spec.fullEmptyAway : Prop :=
  ∀ (s : State) (rd a b : BitVec 5), (∀ off, placeNow s (s.x a) ≠ .own off) → fePlace s (s.x a) = true →
    let goes := fun (i : Instr) (t : State) => (placesFor s s.cur 1 = true → exec i s = .next t) ∧
      (placesFor s s.cur 1 = false → exec i s = .next (s.modHart s.cur fun H => { H with stalled := some .issue }))
    (rd.toNat ∉ s.me.armed → goes (.feqry rd a) (sendHeld s (.plain rd.toNat) (s.x a) .feQuery) ∧
      ((s.x a).toNat % 8 = 0 → lockPre s (s.x a) 8 false = .ok → goes (.ldFeKeep rd a) (sendHeld s (.plain rd.toNat) (s.x a) (.feLoad false))) ∧
      ((s.x a).toNat % 8 = 0 → lockPre s (s.x a) 8 true = .ok → goes (.ldFeClr rd a) (sendHeld s (.plain rd.toNat) (s.x a) (.feLoad true)))) ∧
    (feRelease s (s.x a) = .ok → (s.x a).toNat % 8 = 0 → lockPre s (s.x a) 8 true = .ok →
      goes (.stFe a b) (sendHeld s (.plain 0) (s.x a) (.feStore (s.x b)))) ∧
    (feRelease s (s.x a) = .ok → granuleLockPre s (s.x a) = .ok →
      goes (.fesetEmpty a) (sendPosted s (s.x a) (.feSet false)) ∧ goes (.fesetFull a) (sendPosted s (s.x a) (.feSet true)))

/-- R195, R197 to R200, R211: the full-empty operations. -/
def Obligations.FullEmptyOperations : Prop :=
  Spec.fullEmptyAtHome ∧ Spec.fullEmptyWaits ∧ Spec.fullEmptyFaults ∧ Spec.fullEmptyAway

/-! Task words. -/

namespace Sys2Proof.Spec
open Sys2Proof Sys2Proof.Machine

/-- A spawn form (R252, R253): the address of its record buffer, what it makes of the record, the cluster it
names, and the register that tells how it went. -/
def spawnForm (s : State) : Instr → Option (Word × (TaskRec → TaskRec) × Option Nat × Option (BitVec 5))
  | .spawn a => some (s.x a, id, none, none)
  | .spawnNb rd a => some (s.x a, id, none, some rd)
  | .spawnr a b => if (s.x b).toNat < 65536 then some (s.x a, fun r => { r with range := true, ext := (s.x b).toNat }, none, none) else none
  | .spawnat a b => if (s.x b).toNat < 512 then some (s.x a, id, some (s.x b).toNat, none) else none
  | _ => none

/-- The hart runs a task in U mode (R251), and its launch is live. -/
def running (s : State) (T : Task) (L : Launch) : Prop :=
  s.me.mode = .U ∧ s.me.task = some T ∧ launchOf s T.launch = some L

end Sys2Proof.Spec

/-- R252, R253, R271: a spawn whose checks pass, with a retention entry and an outstanding place free, keeps
the record under a fresh serial, counts it, and sends it to its own cluster or straight to the cluster it
names. SPAWN.NB gives 0; without a place it gives 1 or 2 and does nothing. -/
def Obligations.Spawning : Prop :=
  ∀ (i : Instr) (s : State) (T : Task) (L : Launch) (a : Word) (f : TaskRec → TaskRec) (to_ : Option Nat) (rd : Option (BitVec 5)),
    let S := bufferRead s a
    Spec.spawnForm s i = some (a, f, to_, rd) → Spec.running s T L → bufferPre S a = .ok →
    let g := cluOfHart s.cur
    let r := f (recordAt s a).1
    recCode s L.trec.ntypes r = none → (∀ t, to_ = some t → inRegion L.trec t = true) → (∀ d, rd = some d → d.toNat ∉ s.me.armed) →
    (s.me.outst < 64 → (s.cluster g).keep.length < 1024 →
      ∃ (u t : State) (p : Packet) (ser : Nat), exec i s = .next t ∧
        Retired (match rd with | some d => u.modHart s.cur fun H => H.setX d.toNat 0 | none => u) t ∧
        (∀ k ∈ (s.cluster g).keep, k.trec.ser ≠ ser) ∧
        (let k := { r with hop := 0, hdie := dieOf g, hclu := g % 64, hpkg := s.pkg.number % 4096, slot := T.slot, ser := ser }
         let direct := match to_ with | some c => !cluGone s c | none => false
         u.net = s.net ++ [p] ∧ p.hart = s.cur ∧ p.slot = some T.slot ∧ p.key = T.key ∧
         p.body = .task k (recordAt s a).2 T.launch (if direct then to_.getD g else g) direct ∧
         (u.cluster g).keep = (s.cluster g).keep ++ [{ trec := k, regs := (recordAt s a).2, launch := T.launch, slot := T.slot, key := T.key, hart := some s.cur }]) ∧
        u.me = { s.me with outst := s.me.outst + 1 } ∧ OtherHarts s u ∧ u.mem = s.mem ∧ u.pkg = s.pkg) ∧
    Spec.OnlyRows s S ∧
    (∀ d, rd = some d → 64 ≤ s.me.outst → ∃ t, exec i s = .next t ∧ Retired (S.modHart s.cur fun H => H.setX d.toNat 1) t) ∧
    (∀ d, rd = some d → s.me.outst < 64 → 1024 ≤ (s.cluster g).keep.length →
      ∃ t, exec i s = .next t ∧ Retired (S.modHart s.cur fun H => H.setX d.toNat 2) t) ∧
    (rd = none → (64 ≤ s.me.outst ∨ 1024 ≤ (s.cluster g).keep.length) →
      exec i s = .next (S.modHart s.cur fun H => { H with stalled := some .spawn }))

/-- R254, R426: TEND with an empty deque, its end waits over and no end fault frees the hart, its frame and
its cost, and sends one signal last: the arrival at the record's counter, or the release of its entry. -/
def Sys2Proof.Spec.taskEnds : Prop :=
  ∀ (s : State) (a : BitVec 5) (T : Task), s.me.mode = .U → s.me.task = some T → s.me.deque = [] → unbindAllPre s.me = .ok →
    let s1 := s.modHart s.cur unbindAll
    endPre s1 = .ok → sigEnd (releaseEngine s1 s.cur) = .ok →
    ∃ t, exec (.tend a) s = .next t ∧ t.me.task = none ∧ t.me.free = true ∧ t.me.streams = [] ∧ t.me.bq = [] ∧ t.me.armed = [] ∧
      (∀ x, x < 2 ^ 66 → t.mem.read x = s.mem.read x) ∧ (T.group = none → ∃ p, t.net.getLast? = some p ∧
        p.body = (if T.trec.join ≠ 0 ∧ joinValid s T.trec.join = true then
            .dec T.trec.join (tendStatus (s.x a)) (keyOfRec T.trec) T.launch
          else .release (keyOfRec T.trec) T.launch))

/-- R39: ECALL is an environment call of its mode. -/
def Sys2Proof.Spec.environmentCalls : Prop :=
  ∀ s : State, exec .ecall s = .next (takeTrap s s.cur false (match s.me.mode with | .U => 8 | .S => 9 | .M => 11) 0)

/-- R403 to R406: what the hart firmware does once an exception has entered M mode on a worker hart of a core that runs. A call
from S mode with x17 = 0x4E45 on a hart with a task is a fault end: the hart's streams, commands and leases go, then, with every
access answered, the hart. Any other call from U or S mode gets -1 in x10 and goes on after the ECALL. Every other exception from
U or S mode, and SIG_MISMATCH from any, contains the core. -/
def Sys2Proof.Spec.firmwareAnswers : Prop :=
  ∀ (s : State) (h : Nat), let H := s.hart h
    let cause := H.csr.mcause.toNat
    let from_ := Mode.ofCode (bits H.csr.mstatus 11 2)
    isMordant h = false → H.fw = true → H.mode = .M → H.free = false → (s.core (coreOf h)).isSealed = false → coreGone s (coreOf h) = false →
    17 ∉ H.armed → 10 ∉ H.armed →
    let fatal := (cause = 9 ∧ from_ = .S ∧ H.task ≠ none ∧ H.getX 17 = 0x4E45)
    (cause = 8 ∨ cause = 9 → ¬fatal → ∃ T, firmwareTurn h s = s.setHart h T ∧ T.getX 10 = -1 ∧ (∀ n, n ≠ 10 → T.getX n = H.getX n) ∧
      T.pc = H.csr.mepc + 4 ∧ T.mode = from_) ∧
    (fatal → H.ending = false → unbindAllPre H = .ok → firmwareTurn h s = faultEndStart s h) ∧
    (fatal → H.ending = true → faultEndReady s h = true → firmwareTurn h s = faultEndFinish s h ((H.getX 10).toNat, H.csr.mepc, H.csr.mtval)) ∧
    (cause < 2 ^ 63 → cause ≠ 8 → cause ≠ 9 → (from_ ≠ .M ∨ cause = 26) → firmwareTurn h s = containCore s (coreOf h))

/-- R99: SAFEPT does nothing while no pre-emption is asked for. When it is (PRIP and its enable, U mode, a
task, no loop active), the hart's task becomes a resume record of its cluster and the hart is free. -/
def Sys2Proof.Spec.safePoints : Prop :=
  ∀ (s : State) (k : BitVec 10),
    let H := s.me
    let asked := H.mode == .U && H.task.isSome && H.csr.prip && bit H.csr.mie 19 && H.csr.loop0.count == 0 && H.csr.loop1.count == 0
    (asked = false → sigEnd s = .ok → ∃ t, exec (.safept k) s = .next t ∧ Retired s t) ∧
    (∀ T, asked = true → H.task = some T → unbindAllPre H = .ok → H.commit = none → H.held = none →
      let s0 := disarmHart (s.modHart s.cur fun H => { unbindAll H with dropped := H.dropped ++ H.armed }) s.cur
      let s1 := readRecord s0 (maskAddr s0 k.toNat) 16 16
      let e := parseMask (recordBytes s1 (maskAddr s1 k.toNat) 16)
      endPre s1 = .ok → poisonPre s1 (maskAddr s1 k.toNat) 16 = .ok → e.valid = true → sigEnd (releaseEngine s1 s.cur) = .ok →
      ∃ t q, exec (.safept k) s = .next t ∧ t.me.task = none ∧ t.me.free = true ∧ t.me.deque = [] ∧
        (t.cluster (cluOfHart s.cur)).queue.getLast? = some q ∧ q.launch = T.launch ∧ q.resume = some (coreOf s.cur, T) ∧
        q.ent.entry = s.me.pc.toNat / 4 + 1 ∧ q.regs = dequeWords s.me.deque)

/-- R286, R393, R411: a hart of a group's core arrives; the episode ends with the last member, and every waiting hart goes on.
An episode keeps the set it began with, whatever the group has become: a core of that set joins, and one that only the new set
names waits for it to end. -/
def Sys2Proof.Spec.groupBarriers : Prop :=
  ∀ (s : State) (a : BitVec 5) (T : Task), s.me.mode = .U → s.me.task = some T → s.pkg.barriers = [] →
    let c := coreOf s.cur
    let n := (s.x a).toNat
    let M := (groupOf' s (cluOf c) T.launch n).2
    outstanding s s.cur 3 false = false →
    let contained := fun (k : Nat) => ∃ L, launchOf s T.launch = some L ∧ k ∈ L.contained
    (n ≤ 255 → c ∈ M → (∀ k ∈ M, k = c ∨ (s.core k).isSealed = true ∨ coreGone s k = true ∨ contained k) →
      ∃ t, exec (.grpbar a) s = .next t ∧ t.pkg.barriers = [] ∧ t.me.stalled = none ∧ (s.me.vloop = none → t.me.pc = nextPc s.me)) ∧
    (n ≤ 255 → c ∈ M → (∃ k ∈ M, k ≠ c ∧ (s.core k).isSealed = false ∧ coreGone s k = false ∧ ¬contained k) →
      exec (.grpbar a) s = .next ((s.modPkg fun P =>
        { P with barriers := [{ launch := T.launch, group := n, members := M, arrived := [c], harts := [s.cur] }] }).modHart s.cur
          fun H => { H with stalled := some (.barrier T.launch n) })) ∧
    (255 < n ∨ c ∉ M → exec (.grpbar a) s = .next (takeTrap s s.cur false 5 (s.x a)))

/-- R286, R393: the same while an episode of the group is under way. -/
def Sys2Proof.Spec.barrierEpisodes : Prop :=
  ∀ (s : State) (a : BitVec 5) (T : Task) (b : Barrier), s.me.mode = .U → s.me.task = some T → s.pkg.barriers = [b] →
    b.launch = T.launch → b.group = (s.x a).toNat → b.members ≠ [] → outstanding s s.cur 3 false = false →
    let c := coreOf s.cur
    (c ∈ b.members → c ∉ b.arrived → s.cur ∉ b.harts → (∃ k ∈ b.members, k ≠ c ∧ counted s b k = false) →
      exec (.grpbar a) s = .next ((s.modPkg fun P => { P with barriers := [{ b with arrived := b.arrived ++ [c], harts := b.harts ++ [s.cur] }] }).modHart s.cur
        fun H => { H with stalled := some (.barrier T.launch b.group) })) ∧
    (c ∉ b.members → b.group ≤ 255 → c ∈ (groupOf' s (cluOf c) T.launch b.group).2 →
      exec (.grpbar a) s = .next (s.modHart s.cur fun H => { H with stalled := some .issue })) ∧
    (c ∉ b.members → (255 < b.group ∨ c ∉ (groupOf' s (cluOf c) T.launch b.group).2) →
      exec (.grpbar a) s = .next (takeTrap s s.cur false 5 (s.x a)))

/-- R39, R99, R254, R286, R393, R403 to R406, R411, R426: the words that end or hold a hart's work, and the firmware's answers. -/
def Obligations.TaskEnds : Prop :=
  Spec.taskEnds ∧ Spec.environmentCalls ∧ Spec.firmwareAnswers ∧ Spec.safePoints ∧ Spec.groupBarriers ∧ Spec.barrierEpisodes

/-- R256, R257: the join words on a counter of the hart's own scratchpad that is not poisoned. The counter's
sixteen bytes are count, status and flags (ARM, FIRED, UNDER, OVER), and continuation. JOINARM of a counter
at 0 fires: with continuation 0 it sends the launch's end notice. -/
def Sys2Proof.Spec.ownCounters : Prop :=
  ∀ (s : State) (a b : BitVec 5) (off : Nat), let loc := Spec.own s off
    placeNow s (s.x a) = .own off → isMordant s.cur = false → (s.x a).toNat % 16 = 0 → lockPre s (s.x a) 16 true = .ok →
    feRelease s (s.x a) = .ok →
    let r := scrub s loc 16 false
    let q := readCounter s loc
    let v := (s.x b).toNat % 2 ^ 32
    let put := fun (i : Instr) (k : Counter) => ∃ u t : State, exec i s = .next t ∧ Retired u t ∧
      u.mem.readBytes loc 16 = counterBytes k ∧ SameOutside s u loc 16 ∧ u.me = s.me ∧ u.net = s.net
    put (.joininit a b) { count := v, stat := 0, arm := false, fired := false, under := false, overf := false, cont := 0 } ∧
    Spec.OnlyRows s r ∧
    (counterPoisoned r loc = false →
      (q.count + v < 2 ^ 32 → put (.joinadd a b) { q with count := q.count + v }) ∧
      (2 ^ 32 ≤ q.count + v → put (.joinadd a b) { q with count := 2 ^ 32 - 1, overf := true }) ∧
      (q.fired = true → ∃ t, exec (.joinarm a b) s = .next t ∧ Retired r t) ∧
      (q.fired = false → q.count ≠ 0 → put (.joinarm a b) { q with cont := (s.x b).toNat, arm := true }) ∧
      (∀ T L, q.fired = false → q.count = 0 → s.x b = 0 → s.me.task = some T → launchOf s T.launch = some L → L.killed = false →
        ∃ u t p, exec (.joinarm a b) s = .next t ∧ Retired u t ∧ u.me = s.me ∧ u.net = s.net ++ [p] ∧ p.body = .launchEnd T.launch ∧
          u.mem.readBytes loc 16 = counterBytes { q with cont := 0, arm := true, fired := true } ∧ SameOutside s u loc 16)) ∧
    (counterPoisoned r loc = true → exec (.joinadd a b) s = .next (takeTrap r s.cur false 27 (s.x a)))

/-- R211, R257: a counter operation on another core waits for a request place, sends one packet and retires. An address that
is not aligned to 16 bytes raises 6, and one of virtual memory, which holds no counter, 7. -/
def Sys2Proof.Spec.awayCounters : Prop :=
  ∀ (s : State) (a b : BitVec 5),
    let traps := fun (c : Nat) (i : Instr) => exec i s = .next (takeTrap s s.cur false c (s.x a))
    let goes := fun (i : Instr) (op : MemOp) => (placesFor s s.cur 1 = true → exec i s = .next (sendPosted s (s.x a) op)) ∧
      (placesFor s s.cur 1 = false → exec i s = .next (s.modHart s.cur fun H => { H with stalled := some .issue }))
    ((∀ off, placeNow s (s.x a) ≠ .own off) → counterPre s (s.x a) = .ok →
      goes (.joininit a b) (.joinInit ((s.x b).toNat % 2 ^ 32)) ∧ goes (.joinadd a b) (.joinAdd ((s.x b).toNat % 2 ^ 32)) ∧
      goes (.joinarm a b) (.joinArm (s.x b).toNat (s.me.task.map fun T => T.launch))) ∧
    ((s.x a).toNat % 16 ≠ 0 → ∀ i ∈ [Instr.joininit a b, .joinadd a b, .joinarm a b], traps 6 i) ∧
    (∀ v, (s.x a).toNat % 16 = 0 → placeNow s (s.x a) = .virt v → ∀ i ∈ [Instr.joininit a b, .joinadd a b, .joinarm a b], traps 7 i)

/-- R211, R256, R257: the join counters. -/
def Obligations.JoinWords : Prop := Spec.ownCounters ∧ Spec.awayCounters

/-- R266, R276, R277: the range deque, whose first entry is the bottom, and PRESS. DQSPLIT halves the bottom;
DQSPILL spawns its upper half as a RANGE record, or tells why it did not. -/
def Obligations.DequeWords : Prop :=
  ∀ (s : State) (rd a b : BitVec 5) (T : Task) (L : Launch), Spec.running s T L → rd.toNat ∉ s.me.armed →
    let lo := (s.x a).toNat
    let hi := (s.x b).toNat
    let D := s.me.deque
    let G := s.cluster (cluOfHart s.cur)
    let mid := fun (p q : Nat) => p + (q - p) / 2
    let stop := fun (i : Instr) (c : Nat) => exec i s = .next (takeTrap s s.cur false 53 (BitVec.ofNat 64 c))
    (∃ t, exec (.press rd) s = .next t ∧
      Retired (s.modHart s.cur fun H => H.setX rd.toNat (BitVec.ofNat 64 (pressure G + G.dist * 2 ^ 16 + G.queue.length * 2 ^ 32))) t) ∧
    (lo < hi → hi ≤ 65536 → D.length < 16 → ∃ t, exec (.dqpush a b) s = .next t ∧
      Retired (s.modHart s.cur fun H => { H with deque := D ++ [(lo, hi)] }) t) ∧
    (hi ≤ lo ∨ 65536 < hi → stop (.dqpush a b) 3) ∧
    (lo < hi → hi ≤ 65536 → 16 ≤ D.length → stop (.dqpush a b) 1) ∧
    (D = [] → (∃ t, exec (.dqpop rd) s = .next t ∧ Retired (s.modHart s.cur fun H => H.setX rd.toNat 0x8000000000000000) t) ∧
      (∃ t, exec .dqsplit s = .next t ∧ Retired s t) ∧
      (∃ t, exec (.dqspill rd a) s = .next t ∧ Retired (s.modHart s.cur fun H => H.setX rd.toNat 1) t)) ∧
    (∀ E p q, D = E ++ [(p, q)] → ∃ t, exec (.dqpop rd) s = .next t ∧
      Retired (s.modHart s.cur fun H => { H.setX rd.toNat (BitVec.ofNat 64 (p + q * 2 ^ 32)) with deque := E }) t) ∧
    (∀ E p q, D = (p, q) :: E →
      (q - p < 2 → (∃ t, exec .dqsplit s = .next t ∧ Retired s t) ∧
        (∃ t, exec (.dqspill rd a) s = .next t ∧ Retired (s.modHart s.cur fun H => H.setX rd.toNat 2) t)) ∧
      (2 ≤ q - p → D.length < 16 → ∃ t, exec .dqsplit s = .next t ∧
        Retired (s.modHart s.cur fun H => { H with deque := (p, mid p q) :: (mid p q, q) :: E }) t) ∧
      (2 ≤ q - p → 16 ≤ D.length → stop .dqsplit 2) ∧
      (let S := readRecord s (s.x a) 16 32
       2 ≤ q - p → recordPre s (s.x a) 16 = .ok → poisonPre S (s.x a) 32 = .ok → (recordAt s (s.x a)).1.carry = false →
        recCode s L.trec.ntypes (recordAt s (s.x a)).1 = none →
        Spec.OnlyRows s S ∧
        (64 ≤ s.me.outst → ∃ t, exec (.dqspill rd a) s = .next t ∧ Retired (S.modHart s.cur fun H => H.setX rd.toNat 3) t) ∧
        (s.me.outst < 64 → 1024 ≤ G.keep.length →
          ∃ t, exec (.dqspill rd a) s = .next t ∧ Retired (S.modHart s.cur fun H => H.setX rd.toNat 4) t) ∧
        (s.me.outst < 64 → G.keep.length < 1024 → (recordAt s (s.x a)).1.join = 0 →
          ∃ (u t : State) (k : TaskRec) (regs : List Word) (d : Packet) (c : Nat), exec (.dqspill rd a) s = .next t ∧
            Retired (u.modHart s.cur fun H => { H.setX rd.toNat 0 with deque := (p, mid p q) :: E }) t ∧
            u.net.getLast? = some d ∧ d.body = .task k regs T.launch c false ∧ k.c0 = mid p q ∧ k.ext = q - mid p q ∧ k.range = true ∧
            u.me = { s.me with outst := s.me.outst + 1 } ∧ u.mem = s.mem)))

/-- R230, R279, R280, R281: RPUSH on a ring of the hart's own scratchpad that has room writes its slot, then the slot's header,
then PIDX, and nothing else; with accesses of the hart not yet performed the header and PIDX go out as release stores behind
them. A full ring holds the hart. RPOP and RPEEK copy the slot at CIDX
when its phase is new and give 0, RPOP moving CIDX; otherwise they give 1. -/
def Obligations.RingWords : Prop :=
  ∀ (s : State) (rd a b : BitVec 5) (off : Nat), let loc := Spec.own s off
    let d := parseRing (s.mem.readBytes loc 32)
    let at_ := fun (n o : Nat) => placeNow s (BitVec.ofNat 64 n) = .own o
    s.me.mode ≠ .M → isMordant s.cur = false → placeNow s (s.x a) = .own off → (s.x a).toNat % 32 = 0 →
    let S := readRecord s (s.x a) 1 32
    poisonPre S (s.x a) 32 = .ok →
    (let R := readRecord S (s.x b) 16 (if d.kind = 0 then (if (parseRec (recordBytes s (s.x b) 32)).carry then 96 else 32) else 120)
     pushPre R d (s.x b) = .ok →
      Spec.OnlyRows s R ∧
      (d.full = true → exec (.rpush a b) s = .next (R.modHart s.cur fun H => { H with stalled := some .ring, fetched := [] })) ∧
      (∀ so ho po, d.full = false → d.cons = 0 → placesFor s s.cur 4 = true → at_ (d.slot d.pidx) so → at_ (d.head d.pidx) ho →
        placeNow s (s.x a + 16) = .own po →
        let m := s.mem.writeBytes (Spec.own s so) (pushBytes s d (s.x b))
        (outstanding s s.cur 0 false = false → ∃ u t : State, exec (.rpush a b) s = .next t ∧ Retired u t ∧ u.me = s.me ∧ u.net = s.net ∧
          ∀ x, u.mem.read x = ((m.writeBytes (Spec.own s ho) (ringHeader s d)).writeBytes (Spec.own s po) (toBytes 4 (d.pidx + 1))).read x) ∧
        (outstanding s s.cur 0 false = true → ∃ u t : State, exec (.rpush a b) s = .next t ∧ Retired u t ∧ u.me = s.me ∧
          u.net.take s.net.length = s.net ∧ (∀ x, u.mem.read x = m.read x) ∧
          Spec.bodies s u =
            [.mem (globalAddr s (BitVec.ofNat 64 (d.head d.pidx))) (.relStore (ringHeader s d)) (.posted false) (.at_ (Spec.own s ho)),
             .mem (globalAddr s (s.x a + 16)) (.relStore (toBytes 4 (d.pidx + 1))) (.posted false) (.at_ (Spec.own s po))]))) ∧
    (rd.toNat ∉ s.me.armed → d.valid = true → ringPlace s (BitVec.ofNat 64 (d.slot 0)) = true → d.cons = 0 → ¬(d.kind = 2 ∧ s.me.mode = .U) →
      recordPre s (s.x b) 16 = .ok → ∀ ho, at_ (d.head d.cidx) ho →
      let head : Word := BitVec.ofNat 64 (d.head d.cidx)
      let R := readRecord S head 1 8
      poisonPre R head 8 = .ok →
      let phase := (s.mem.read (Spec.own s ho)).toNat % 2
      (phase ≠ d.phase d.cidx →
        Spec.OnlyRows s R ∧
        (∃ t, exec (.rpop rd a b) s = .next t ∧ Retired (R.modHart s.cur fun H => H.setX rd.toNat 1) t) ∧
        (∃ t, exec (.rpeek rd a b) s = .next t ∧ Retired (R.modHart s.cur fun H => H.setX rd.toNat 1) t)) ∧
      (∀ so ro co, let n := if d.size = 1 then 120 else 56
        phase = d.phase d.cidx → at_ (d.slot d.cidx) so → (d.size = 1 → at_ (d.slot d.cidx + 64) (so + 64)) →
        (let slot : Word := BitVec.ofNat 64 (d.slot d.cidx)
         let Q := readRecord R slot 1 n
         if d.size = 1 then poisonPre Q slot 64 = .ok ∧ poisonPre Q (slot + 64) 56 = .ok else poisonPre Q slot 56 = .ok) →
        placeNow s (s.x b) = .own ro → placeNow s (s.x a + 20) = .own co → placesFor s s.cur 1 = true →
        let m := s.mem.writeBytes (Spec.own s ro) (s.mem.readBytes (Spec.own s so) n)
        (∃ u t : State, exec (.rpeek rd a b) s = .next t ∧ Retired (u.modHart s.cur fun H => H.setX rd.toNat 0) t ∧ u.me = s.me ∧ u.net = s.net ∧
          ∀ x, u.mem.read x = m.read x) ∧
        (∃ u t : State, exec (.rpop rd a b) s = .next t ∧ Retired (u.modHart s.cur fun H => H.setX rd.toNat 0) t ∧ u.me = s.me ∧ u.net = s.net ∧
          ∀ x, u.mem.read x = (m.writeBytes (Spec.own s co) (toBytes 4 (d.cidx + 1))).read x)))

/-! Messages, groups, keys, engines and code. -/

namespace Sys2Proof.Spec
open Sys2Proof Sys2Proof.Machine

/-- s with the packets of some bodies sent by its hart under a process slot and a key, in order. -/
def sending (s : State) (slot : Option Nat) (key : Nat) (l : List Body) : State := l.foldl (fun s b => sendAs s s.cur slot key b) s
/-- The same under the hart's own slot and key, with its core's fe_limit (R35, R199). -/
def tells (s : State) (l : List Body) : State := l.foldl (fun s b => send s s.cur b) s
/-- What sending does (R35, R199): one packet more, with the next number; where it is not at hand at once, it waits at the output
port of its route (R15). -/
def sendingAdds : Prop :=
  ∀ (s : State) (slot : Option Nat) (key : Nat) (b : Body),
    let p : Packet := { id := s.nextId, hart := s.cur, slot := slot, key := key, body := b, imgs := imagesNow s.me }
    let q : Packet := { p with slot := slotOf s.me, key := keyOf s.me, limit := (s.core (coreOf s.cur)).feLimit }
    (∃ paths links, sending s slot key [b] = { s with net := s.net ++ [p], nextId := s.nextId + 1, paths := paths, links := links }) ∧
    (∃ paths links, tells s [b] = { s with net := s.net ++ [q], nextId := s.nextId + 1, paths := paths, links := links }) ∧
    (∀ r, ((destRouter s q (senderRouter s.cur) = senderRouter s.cur → SMap.find? (tells s [b]).paths s.nextId = none ∧ (tells s [b]).links = s.links) ∧
      (destRouter s q (senderRouter s.cur) ≠ senderRouter s.cur → nextPort s (senderRouter s.cur) (destRouter s q (senderRouter s.cur)) (planeOf b) = some r →
        SMap.find? (tells s [b]).paths s.nextId = some r ∧ ∀ l, l ≠ r → linkOf (tells s [b]) l = linkOf s l)))
/-- s with its hart holding its word back. -/
def waits (s : State) (w : Wait) : State := s.modHart s.cur fun H => { H with stalled := some w }
/-- An illegal instruction of the executing hart. -/
def illegal (s : State) : State := takeTrap s s.cur false 2 (tvalOf 2 (s.me.ir.setWidth 64))

/-- R292, R294: ARM of x0 and of an armed register does nothing; of a register that a result or a commit is on
its way to, it waits; else the register is armed, or takes the oldest deposit held for it. -/
def arming : Prop :=
  ∀ (s : State) (rd : BitVec 5), let r := rd.toNat
    let clear := s.me.commit ≠ some r ∧ ∀ p ∈ s.me.pend, ¬(p.file = .x ∧ p.reg = r)
    (r = 0 ∨ (clear ∧ r ∈ s.me.armed) → ∃ t, exec (.arm rd) s = .next t ∧ Retired s t) ∧
    (r ≠ 0 → ¬clear → exec (.arm rd) s = .next (waits s .issue)) ∧
    (r ≠ 0 → clear → r ∉ s.me.armed →
      (heldDeposit s s.cur r = none →
        ∃ t, exec (.arm rd) s = .next t ∧ Retired (s.modHart s.cur fun H => { H with armed := H.armed ++ [r] }) t) ∧
      (∀ p n v, heldDeposit s s.cur r = some p → p.body = .deposit n v →
        ∃ t, exec (.arm rd) s = .next t ∧ t.me.getX r = v ∧ t.me.armed = s.me.armed ∧ t.net = s.net ++ [ackOf p] ∧
          (t.core (coreOf s.cur)).deposits = (s.core (coreOf s.cur)).deposits.filter (fun q => q.id != p.id) ∧
          SameMemory s t ∧ OtherHarts s t))

/-- R288, R293, R299: SENDW and SENDH to targets that pass their checks, with a place free, send one packet. -/
def sends : Prop :=
  ∀ (s : State) (a b : BitVec 5), placesFor s s.cur 1 = true →
    let n := (s.x a).toNat
    let m := (s.x b).toNat
    let granule := n / 2 ^ 60 = 8 ∨ n / 2 ^ 60 = 9
    let one := fun (i : Instr) (p : Body) => ∃ u, exec i s = .next (tells u [p]) ∧ Retired s u
    (granule → accessPre s (s.x a) 8 true true = .ok → fePlace s (s.x a) = true → one (.sendw a b) (.deposit n (s.x b))) ∧
    (n < 2 ^ 58 → one (.sendw a b) (.deposit n (s.x b))) ∧
    (¬granule → 2 ^ 58 ≤ n → exec (.sendw a b) s = .next (takeTrap s s.cur false 7 (s.x a))) ∧
    (recordPre s (s.x a) 16 = .ok →
      let H := readRecord s (s.x a) 16 16
      let h := recordBytes s (s.x a) 16
      let count := leAt h 0 1
      let dlen := leAt h 1 1
      let size := 16 + 4 * count + 8 * dlen
      let img := recordBytes s (s.x a) size
      let target := m < 2 ^ 58 ∧ m % 32 = 0
      let header := 1 ≤ count ∧ count ≤ 24 ∧ dlen ≤ 20 ∧ leAt h 2 14 = 0
      let R := readRecord H (s.x a) 16 size
      Spec.OnlyRows s R ∧
      (target → header → poisonPre R (s.x a) size = .ok → ∃ u, Retired R u ∧ exec (.sendh a b) s = .next (tells u
        [.handler m n (wordsAt (img.drop 16) count) ((img.drop (16 + 4 * count)).take (8 * dlen)) false])) ∧
      (¬target → exec (.sendh a b) s = .next (takeTrap s s.cur false 7 (s.x b))) ∧
      (target → ¬header → exec (.sendh a b) s = .next (takeTrap H s.cur false 5 (s.x a))))

/-- R303, R304: MSGRET leaves a handler: the interrupted work goes on with its pc, checker, LE and x28 to x31,
and the slot is free; outside a handler it frees the error record of the hart. -/
def returns : Prop :=
  ∀ s : State, let c := coreOf s.cur
    (∀ r, s.me.handler = some r → s.me.vloop = none → ∃ t, exec .msgret s = .next t ∧
      t.me.handler = none ∧ t.me.pc = r.pc ∧ t.me.chk = r.chk ∧ leBit t.me.csr = r.le ∧
      SMap.find? (t.core c).inbox r.inslot = none ∧ SameMemory s t ∧ OtherHarts s t ∧ t.net = s.net ∧
      (r.wasFree = true → t.me.free = true ∧ ∀ n, t.me.getX n = 0) ∧
      (r.wasFree = false → t.me.getX 28 = r.x28 ∧ t.me.getX 29 = r.x29 ∧ t.me.getX 30 = r.x30 ∧ t.me.getX 31 = r.x31 ∧
        (∀ n, n < 28 → t.me.getX n = s.me.getX n) ∧ ∀ q, q ≠ .x → ∀ n, t.me.getReg q n = s.me.getReg q n)) ∧
    (s.me.handler = none → isMordant s.cur = false →
      ∃ u, exec .msgret s = .next (freeInSlot u c (28 + hartIn s.cur)) ∧ Retired s u) ∧
    (s.me.handler = none → isMordant s.cur = true → ∃ t, exec .msgret s = .next t ∧ Retired s t)

/-- R311: MIGRATE past its checks and waits frees the hart and sends its task as a context to the core it names,
with x10 to x17, under the new type; an armed register holds 0. -/
def migration : Prop :=
  ∀ (s : State) (a b : BitVec 5) (T : Task) (c : Nat), let ty := (s.x b).toNat
    s.me.mode = .U → s.me.task = some T → migrateCore s (s.x a) = some c → s.me.deque = [] → unbindAllPre s.me = .ok →
    let s1 := disarmHart (s.modHart s.cur unbindAll) s.cur
    (ntypesOf s ≤ ty → exec (.migrate a b) s = .next (takeTrap s s.cur false 52 1)) ∧
    (ty < ntypesOf s → endPre s1 = .ok → s.me.outst < 64 → placesFor s1 s.cur 1 = true → sigEnd (releaseEngine s1 s.cur) = .ok →
      ∃ t p x, exec (.migrate a b) s = .next t ∧ t.me.task = none ∧ t.me.free = true ∧ t.me.armed = [] ∧ t.me.outst = s.me.outst + 1 ∧
        t.net.getLast? = some p ∧ p.hart = s.cur ∧ p.slot = some T.slot ∧ p.key = T.key ∧ p.body = .context c x false ∧
        x.trec = { T.trec with ty := ty, prio := 0, carry := true, range := false, b := 0, ext := 0 } ∧
        x.regs = ((List.range 8).map fun i => if 10 + i ∈ s.me.armed then 0 else s.me.getX (10 + i)) ∧
        x.launch = T.launch ∧ x.group = T.group)

end Sys2Proof.Spec

/-- R35, R288, R292, R293, R299, R303, R304, R311: the words of messages and migration. -/
def Obligations.MessageWords : Prop := Spec.sendingAdds ∧ Spec.arming ∧ Spec.sends ∧ Spec.returns ∧ Spec.migration

/-- R395 to R398: GRPW sends the new version of a group to every cluster of its region and holds its hart; MCW
sends one copy to each member of the group as it is now; JKSET writes entry 4 to 7 of its core or an entry of a
gateway; KEYROT takes the staged key of a port into use, or waits for one. -/
def Obligations.FabricWords : Prop :=
  ∀ (s : State) (a b : BitVec 5),
    (∀ (T : Task) (L : Launch), Spec.running s T L →
      let q := (s.x a).toNat
      let at_ := s.x b
      let n := leAt (recordBytes s at_ 16) 0 4
      let l := recordBytes s at_ (16 + 4 * n)
      let ws := (List.range n).map fun i => leAt l (16 + 4 * i) 4
      let g := cluOfHart s.cur
      (255 < q → exec (.grpw a b) s = .next (takeTrap s s.cur false 5 (s.x a))) ∧
      let R := grpRead s at_
      (q ≤ 255 → recordPre s at_ 16 = .ok → n ≤ 8192 → leAt (recordBytes s at_ 16) 4 12 = 0 → ownRoom s at_ (16 + 4 * n) = true →
        poisonPre R at_ (16 + 4 * n) = .ok →
        Spec.OnlyRows s R ∧
        (∀ i, i < n → memberBad s L.trec g T.launch q ws i = true → (∀ j, j < i → memberBad s L.trec g T.launch q ws j = false) →
          exec (.grpw a b) s = .next (takeTrap R s.cur false 5 (at_ + BitVec.ofNat 64 (16 + 4 * i)))) ∧
        ((∀ i, i < n → memberBad s L.trec g T.launch q ws i = false) → rewriting s T.launch q = false → outstanding s s.cur 3 false = false →
          let v := ((groupOf' s g T.launch q).1 + 1) % 256
          ∃ u, Retired R u ∧ exec (.grpw a b) s = .next (Spec.sending (Spec.waits u (.grpw T.launch q v)) (some T.slot) T.key
            ((regionOf L.trec).map fun k => .group T.launch k q v (ws.filterMap (memberCore s L.trec))))))) ∧
    (∀ (T : Task) (q o : Nat), s.me.mode = .U → s.me.task = some T → (s.x b).toNat = q + 2 ^ 16 * o → q < 256 → o < 2 ^ 17 → o % 64 = 0 →
      let R := readRecord s (s.x a) 64 64
      recordPre s (s.x a) 64 = .ok → lockPre s (s.x a) 64 false = .ok → poisonPre R (s.x a) 64 = .ok → placesFor s s.cur 1 = true →
      let G := groupOf' s (cluOfHart s.cur) T.launch q
      ∃ u, Retired R u ∧ exec (.mcw a b) s = .next (Spec.tells u
        (G.2.map fun c => .mcw c o (recordBytes s (s.x a) 64) (T.launch * 256 + q) (s.nextId * 256 + G.1)))) ∧
    (∀ k, k < 2 ^ 16 → s.me.mode ≠ .U →
      let put := fun (t : SMap Member) (i : Nat) => SMap.put t i { key := k, valid := true, count := 0 }
      let own := fun (f : SMap Member → SMap Member) =>
        ∃ u, Retired s u ∧ exec (.jkset a b) s = .next (u.modCore (coreOf s.cur) fun C => { C with members := f C.members })
      let gate := fun (n : Nat) (f : SMap Member → SMap Member) =>
        ∃ u, Retired s u ∧ exec (.jkset a b) s = .next (setPort u n { portOf s n with keys := f (portOf s n).keys })
      (∀ i, 4 ≤ i → i ≤ 7 → s.x a = BitVec.ofNat 64 i →
        ((s.x b).toNat = 2 ^ 16 + k → own fun t => put t i) ∧ ((s.x b).toNat = k → own fun t => SMap.del t i)) ∧
      (∀ n i, n < 16 → i < 256 → s.x a = BitVec.ofNat 64 (2 ^ 63 + n * 2 ^ 10 + i) →
        ((s.x b).toNat = 2 ^ 16 + k → gate n fun t => put t i) ∧ ((s.x b).toNat = k → gate n fun t => SMap.del t i))) ∧
    (s.me.mode = .U → exec (.jkset a b) s = .next (Spec.illegal s)) ∧
    (s.me.mode ≠ .M → exec (.keyrot a) s = .next (Spec.illegal s)) ∧
    (s.me.mode = .M → let p := (s.x a).toNat
      (16 ≤ p → exec (.keyrot a) s = .next (takeTrap s s.cur false 7 (s.x a))) ∧
      (p < 16 → (portOf s p).staged = none ∨ (portOf s p).rotating ≠ none → exec (.keyrot a) s = .next (Spec.waits s (.keyrot p))) ∧
      (∀ k, p < 16 → (portOf s p).staged = some k → (portOf s p).rotating = none →
        let P := portOf s p
        let L := linkOf s (portLink p)
        ∃ u, Retired s u ∧ exec (.keyrot a) s = .next
          (setPort (setLink (Spec.waits u (.keyrotAck p)) (portLink p) { L with unacked := L.unacked.map fun f => { f with fresh := false } })
            p { P with key := k, staged := none, gen := !P.gen, rotating := some false })))

/-! The matrix engine. -/

namespace Sys2Proof.Spec
open Sys2Proof Sys2Proof.Machine

/-- LEASE and SLOT traps with a code, and the number concerned (R321, R333). -/
def leaseTrap (s : State) (c : Nat) : State := takeTrap s s.cur false 48 (BitVec.ofNat 64 c)
def slotTrap (s : State) (c n : Nat) : State := takeTrap s s.cur false 49 (BitVec.ofNat 64 (c + 256 * n))
/-- The cluster of the executing hart after a change. -/
def onCluster (s : State) (f : Cluster → Cluster) : State := s.modCluster (cluOfHart s.cur) f

/-- R319, R321: MLEASE of 1 to 64 commands by a worker hart: granted at once when the lease is free and nobody
asks; else the request joins, a lease of its own core given up first, and the hart waits. MREL ends the lease of
its core and is otherwise nothing. -/
def leases : Prop :=
  ∀ (s : State) (a : BitVec 5), let n := (s.x a).toNat
    let g := cluOfHart s.cur
    let k := coreOf s.cur % 16
    let G := s.cluster g
    let asked := fun (G : Cluster) => G.leaseReq.filter (fun (c, _) => c != k) ++ [(k, n)]
    (n = 0 ∨ 64 < n → exec (.mlease a) s = .next (leaseTrap s 2)) ∧
    (1 ≤ n → n ≤ 64 → (∀ m, s.me.stalled ≠ some (.lease m)) →
      (isMordant s.cur = false → G.lease = none → G.leaseReq = [] → leaseWaits s g k = [] →
        ∃ t, exec (.mlease a) s = .next t ∧ Retired (onCluster s fun G => { G with lease := some k, rem := n, leaseReq := [] }) t) ∧
      (G.lease ≠ none → G.lease ≠ some k →
        exec (.mlease a) s = .next (waits (onCluster s fun G => { G with leaseReq := asked G }) (.lease n))) ∧
      (G.lease = some k → exec (.mlease a) s = .next
        (waits (onCluster s fun G => { G with lease := none, rem := 0, lastLease := k, leaseReq := asked G }) (.lease n)))) ∧
    (G.lease = some k → ∃ t, exec .mrel s = .next t ∧ Retired (onCluster s fun G => { G with lease := none, rem := 0, lastLease := k }) t) ∧
    (G.lease ≠ some k → ∃ t, exec .mrel s = .next t ∧ Retired s t)

/-- R324: OCLAIM maps the lowest aligned run of n unmapped logical slots or accumulators to units that are free
and clear, and gives its first number; where there is no run or too few units it gives all ones. -/
def claims : Prop :=
  ∀ (s : State) (rd a : BitVec 5), let acc := bit (s.x a) 63
    let n := (s.x a).toNat % 256
    let m := mapOf s.me acc
    let units := freeUnits s (cluOfHart s.cur) acc
    rd.toNat ∉ s.me.armed →
    (bits (s.x a) 8 55 ≠ 0 → exec (.oclaim rd a) s = .next (slotTrap s 6 0)) ∧
    (bits (s.x a) 8 55 = 0 → n = 0 ∨ mapSize acc < n → exec (.oclaim rd a) s = .next (slotTrap s 5 0)) ∧
    (bits (s.x a) 8 55 = 0 → 1 ≤ n → n ≤ mapSize acc →
      (freeRun m (mapSize acc) n = none ∨ units.length < n →
        ∃ t, exec (.oclaim rd a) s = .next t ∧ Retired (s.modHart s.cur fun H => H.setX rd.toNat (-1)) t) ∧
      (∀ l, freeRun m (mapSize acc) n = some l → n ≤ units.length →
        ∃ (t : State) (m' : SMap Nat), exec (.oclaim rd a) s = .next t ∧
          Retired (s.modHart s.cur fun H => (withMap H acc m').setX rd.toNat (BitVec.ofNat 64 l)) t ∧
          (∀ i, i < n → SMap.find? m (l + i) = none ∧ SMap.find? m' (l + i) = units[i]?) ∧
          (∀ j, j < l ∨ l + n ≤ j → SMap.find? m' j = SMap.find? m j)))

/-- R325: OREL unmaps the logical numbers it names; their units read 0 and are being cleared. -/
def released' : Prop :=
  ∀ (s : State) (a b : BitVec 5), let acc := bit (s.x a) 63
    let l := (s.x a).toNat % 2 ^ 63
    let n := (s.x b).toNat
    let m := mapOf s.me acc
    let off := if acc then 128 else 0
    let g := cluOfHart s.cur
    (mapSize acc ≤ l → exec (.orel a b) s = .next (slotTrap s 6 0)) ∧
    (l < mapSize acc → n = 0 ∨ mapSize acc < l + n → exec (.orel a b) s = .next (slotTrap s 5 0)) ∧
    (1 ≤ n → l + n ≤ mapSize acc →
      (∀ i, i < n → SMap.find? m (l + i) = none → (∀ j, j < i → (SMap.find? m (l + j)).isSome) →
        exec (.orel a b) s = .next (slotTrap s 1 (l + i))) ∧
      ((∀ i, i < n → (SMap.find? m (l + i)).isSome) → (∃ i, i < n ∧ namedBy s s.cur (off + l + i) = true) →
        exec (.orel a b) s = .next (waits s .issue)) ∧
      ((∀ i, i < n → (SMap.find? m (l + i)).isSome) → (∀ i, i < n → namedBy s s.cur (off + l + i) = false) →
        ∃ t, exec (.orel a b) s = .next t ∧ OtherHarts s t ∧ t.net = s.net ∧ t.cores = s.cores ∧
          (∀ j, SMap.find? (mapOf t.me acc) j = if l ≤ j ∧ j < l + n then none else SMap.find? m j) ∧
          (∀ i u, i < n → SMap.find? m (l + i) = some u → off + u ∈ (t.cluster g).clearing ∧
            (acc = false → ∀ o, o < 8192 → t.mem.read (opLoc g (u * 8192 + o)) = 0) ∧
            (acc = true → ∀ r e, r < 32 → e < 128 → accWord (t.cluster g) u r e = 0))))

/-- R333, R348: a command that is accepted counts REM down, the last one ending the lease; it joins the queue,
or is discarded while the hart has an unreported failure. A fill takes a place of the copy engine too. -/
def accepting : Prop :=
  ∀ (s : State) (op : MatOp) (uses locks : List Nat) (fill : Bool),
    holdsLease s = true →
    let G := s.cluster (cluOfHart s.cur)
    let G' := (accept s op uses locks fill).cluster (cluOfHart s.cur)
    let c : MatCmd := { hart := s.cur, slot := slotOf s.me, key := keyOf s.me, op := op, uses := uses, slots := s.me.slots, accs := s.me.accs, locks := locks
                        born := s.nextId, imgs := imagesNow s.me }
    (G.rem ≤ 1 → G'.lease = none ∧ G'.rem = 0 ∧ G'.lastLease = coreOf s.cur % 16) ∧
    (1 < G.rem → G'.lease = G.lease ∧ G'.rem = G.rem - 1) ∧
    G'.matQ = (if s.me.engFail.isSome then G.matQ else G.matQ ++ [c]) ∧
    (fill = false ∨ s.me.engFail.isSome = true → G'.copyQ = G.copyQ) ∧
    (fill = true → s.me.engFail = none → ∃ q, G'.copyQ = G.copyQ ++ [q] ∧ q.fill = true ∧ q.hart = s.cur)

/-- R327, R328, R341, R348: MSTRIDE keeps what its register has room for, LOGB 7 as 6; MACCZ queues its zero;
MWAIT waits for the hart's commands and then raises its failure or goes on. -/
def settles : Prop :=
  ∀ (s : State) (a b : BitVec 5), let i := (s.x a).toNat
    (8 ≤ i → exec (.mstride a b) s = .next (slotTrap s 6 (i % 256))) ∧
    (i < 8 → let w := s.x b &&& 0x1FFFFFFFFFFFF
      ∃ t, exec (.mstride a b) s = .next t ∧
        Retired (s.modHart s.cur fun H => { H with csr := { H.csr with
          mstr := SMap.put H.csr.mstr i (if w.toNat / 2 ^ 39 % 8 = 7 then w &&& ~~~(1#64 <<< 39) else w) } }) t) ∧
    (holdsLease s = false → exec (.maccz a) s = .next (leaseTrap s 1)) ∧
    (holdsLease s = true →
      (8 ≤ i → exec (.maccz a) s = .next (slotTrap s 6 (i % 256))) ∧
      (i < 8 → mappedAcc s.me i = false → exec (.maccz a) s = .next (slotTrap s 1 i)) ∧
      (i < 8 → mappedAcc s.me i = true → 16 ≤ (s.cluster (cluOfHart s.cur)).matQ.length →
        exec (.maccz a) s = .next (waits s (.queue .matrix))) ∧
      (i < 8 → mappedAcc s.me i = true → (s.cluster (cluOfHart s.cur)).matQ.length < 16 →
        ∃ t, exec (.maccz a) s = .next t ∧ Retired (accept s (.zero i) [128 + i] [] false) t)) ∧
    (hasCommands s s.cur = true → exec .mwait s = .next (waits s .issue)) ∧
    (hasCommands s s.cur = false →
      (s.me.engFail = none → ∃ t, exec .mwait s = .next t ∧ Retired s t) ∧
      (∀ c v, s.me.engFail = some (c, v) →
        exec .mwait s = .next (takeTrap (s.modHart s.cur fun H => { H with engFail := none }) s.cur false c v)))

end Sys2Proof.Spec

/-- R319 to R328, R333, R341, R348: the lease, the logical numbers, stride registers, zero and wait. -/
def Obligations.EngineWords : Prop := Spec.leases ∧ Spec.claims ∧ Spec.released' ∧ Spec.accepting ∧ Spec.settles

namespace Sys2Proof.Spec
open Sys2Proof Sys2Proof.Machine

/-- A stage command (R330, R331, R338): its checks past the lease, the command, the numbers it names, its sc, and
whether it steps the LFSR. -/
structure Stage where
  pre  : Pre
  op   : MatOp
  uses : List Nat
  sc   : Nat
  step : Bool

/-- The formats of a stage: those of the pending payload, else bf16, bf16 and f32 (R331). -/
def stageFmts (H : Hart) : Payload := if H.pfx then (payloadOf H.payload).getD ⟨.bf16, .bf16, .f32, .plain⟩ else ⟨.bf16, .bf16, .f32, .plain⟩

def inTile (s : State) (sx : BitVec 6) (sw : BitVec 5) (ac ms sc : BitVec 3) (acc : Bool) : Stage :=
  let p := stageFmts s.me
  let w := mstrOf s.me ms.toNat
  let blk := p.sm == .src
  let x := tileSlots (2 * sx.toNat) p.fa
  let area := areaAt (32768 * sw.toNat) p.fb (strBlock w) blk
  { pre := .all [mapPre s.me x [ac.toNat], stridePre [(ms.toNat, w)], scalePre blk [(ms.toNat, w)], areaPre s.me sw.toNat [area], matPre s]
    op := .stage (2 * sx.toNat) sw.toNat ac.toNat acc w p.fa p.fb p.fd blk
    uses := x ++ areaSlots [area] ++ [128 + ac.toNat], sc := sc.toNat, step := false }

def crossTile (s : State) (sx : BitVec 6) (sw : BitVec 5) (ac : BitVec 2) (ms sc : BitVec 3) (acc : Bool) : Stage :=
  let p := stageFmts s.me
  let w := mstrOf s.me ms.toNat
  let q := strPartner w
  let a := 2 * ac.toNat
  let x := tileSlots (2 * sx.toNat) p.fa ++ tileSlots q p.fa
  let area := crossArea (32768 * sw.toNat) p.fb
  { pre := .all [mapPre s.me x [a, a + 1], (if p.fa = .f32 ∧ q % 2 = 1 then slotBad 7 q else .ok), areaPre s.me sw.toNat [area], matPre s]
    op := .cross (2 * sx.toNat) q sw.toNat a acc w p.fa p.fb p.fd
    uses := x ++ areaSlots [area] ++ [128 + a, 129 + a], sc := sc.toNat, step := false }

def chained (s : State) (sx : BitVec 6) (sw : BitVec 5) (ac ms sc : BitVec 3) (cf : ChainFmt) (acc : Bool) : Stage :=
  let p := stageFmts s.me
  let ws := ((List.range 8).drop ms.toNat).map fun m => (m, mstrOf s.me m)
  let x := tileSlots (2 * sx.toNat) p.fa
  let areas := chainAreas (32768 * sw.toNat) p.fb (ws.map fun (_, w) => w)
  { pre := .all [mapPre s.me x [ac.toNat], stridePre ws, areaPre s.me sw.toNat areas, matPre s]
    op := .chain (2 * sx.toNat) sw.toNat ac.toNat acc (ws.map fun (_, w) => w) p.fa p.fb cf s.me.lfsr
    uses := x ++ areaSlots areas ++ [128 + ac.toNat], sc := sc.toNat, step := cf == .bf16sr }

def stageForm (s : State) : Instr → Option Stage
  | .mstg sx sw ac ms sc => some (inTile s sx sw ac ms sc false)
  | .mstgAcc sx sw ac ms sc => some (inTile s sx sw ac ms sc true)
  | .mxst sx sw ac ms sc => some (crossTile s sx sw ac ms sc false)
  | .mxstAcc sx sw ac ms sc => some (crossTile s sx sw ac ms sc true)
  | .mchain sx sw ac ms sc cf => some (chained s sx sw ac ms sc cf false)
  | .mchainAcc sx sw ac ms sc cf => some (chained s sx sw ac ms sc cf true)
  | _ => none

/-- R343, R344: the checks of a fill and of a drain past the lease. -/
def fillPre (s : State) (v a : Word) : Pre :=
  let r := parseShape (recordBytes s a 32)
  let hi := (fillSpan (v.toNat % 128) (bits v 7 13) r).2
  .all [recordPre s a 8, poisonPre s a 32, (if r.valid then .ok else slotBad 9 0), (if v.toNat < 2 ^ 20 then .ok else slotBad 6 0),
    mapPre s.me (slotsOf (8192 * (v.toNat % 128) + bits v 7 13) (min hi 0x100000)) [], (if hi ≤ 0x100000 then .ok else slotBad 2 (v.toNat % 128)),
    matPre s, queuePre s .copy, entriesPre s 1]
def drainPre (s : State) (v a : Word) : Pre :=
  let r := parseShape (recordBytes s a 32)
  .all [recordPre s a 8, poisonPre s a 32, (if r.valid then .ok else slotBad 9 0), (if bits v 3 5 = 0 ∧ bits v 10 22 = 0 then .ok else slotBad 6 0),
    mapPre s.me [] [v.toNat % 8], (if r.ty = (drainTypes s.me).fd.code ∧ r.count = 4096 then .ok else slotBad 10 0), matPre s, entriesPre s 1]
/-- The lock of a fill's source or a drain's destination; none is registered for a command that is discarded. -/
def shapeLock (s : State) (a : Word) (dst : Bool) : State × List Nat :=
  regLocks s (if s.me.engFail.isSome then [] else locksOf s .matrix [(hull s s.cur (parseShape (recordBytes s a 32)), dst)])

end Sys2Proof.Spec

/-- R330 to R333, R338, R339, R343, R344: a stage, cross-tile stage or chain whose checks pass is accepted and the
next word held by sc cycles more; a fill and a drain are accepted with their ranges locked. Without the lease each
traps. -/
def Obligations.MatrixWords : Prop :=
  ∀ (s : State) (a b : BitVec 5),
    (∀ i k, Spec.stageForm s i = some k →
      (holdsLease s = false → exec i s = .next (Spec.leaseTrap s 1)) ∧
      (holdsLease s = true → k.pre = .ok → ∃ t, exec i s = .next t ∧
        Retired ((accept s k.op k.uses [] false).modHart s.cur fun H =>
          { H with hold := H.hold + k.sc, lfsr := if k.step then lfsrStep H.lfsr else H.lfsr }) t)) ∧
    (holdsLease s = false → ∀ i, i ∈ [Instr.ofill a b, .odrain a b, .odrainAmax a b] → exec i s = .next (Spec.leaseTrap s 1)) ∧
    (holdsLease s = true →
      let v := s.x a
      let r := parseShape (recordBytes s (s.x b) 32)
      let p := drainTypes s.me
      let R := readRecord s (s.x b) 8 32
      Spec.OnlyRows s R ∧
      (Spec.fillPre R v (s.x b) = .ok →
        let slot := v.toNat % 128
        let off := v.toNat / 128 % 8192
        let k := Spec.shapeLock R (s.x b) false
        ∃ t, exec (.ofill a b) s = .next t ∧
          Retired (accept k.1 (.fill slot off r) (slotsOf (8192 * slot + off) (min (fillSpan slot off r).2 0x100000)) k.2 true) t) ∧
      (Spec.drainPre R v (s.x b) = .ok →
        let ac := v.toNat % 8
        let k := Spec.shapeLock R (s.x b) true
        let op := fun m => MatOp.drain ac r (BitVec.ofNat 32 (v.toNat / 2 ^ 32)) (bit v 9) (bit v 8) m p.fa p.fd
        (∃ t, exec (.odrain a b) s = .next t ∧ Retired (accept k.1 (op false) [128 + ac] k.2 false) t) ∧
        (∃ t, exec (.odrainAmax a b) s = .next t ∧ Retired (accept k.1 (op true) [128 + ac] k.2 false) t)))

namespace Sys2Proof.Spec
open Sys2Proof Sys2Proof.Machine

/-- A sparse command (R358): its descriptor and completion addresses, kind, and the descriptor's bytes. -/
def sparseForm (s : State) : Instr → Option (Word × Word × Nat × Nat)
  | .mrgu a b => some (s.x a, s.x b, 0, 64)
  | .mrguDz a b => some (s.x a, s.x b, 1, 64)
  | .mrgi a b => some (s.x a, s.x b, 2, 64)
  | .scnv a b => some (s.x a, s.x b, 3, 96)
  | _ => none
/-- The arrays a command's descriptor names, and whether the descriptor is valid (R354 to R356). -/
def arrsOf (kind : Nat) (l : List Byte) : List Arr := if kind = 3 then convArrs (parseConv l) else mergeArrs (parseMerge l) (kind == 2)
def descOf (s : State) (kind : Nat) (l : List Byte) : Bool := if kind = 3 then convOk s s.cur (parseConv l) else mergeOk s s.cur (parseMerge l) (kind == 2)
/-- The queue of an engine. -/
def queueOf (G : Cluster) (kind : Nat) : List SpCmd := if kind = 3 then G.convQ else G.mergeQ

end Sys2Proof.Spec

/-- R358, R360, R369: a sparse command whose checks pass joins its engine's queue and the hart's table with its
completion granule zero and, where no request waits on it, empty. SCNVW of a full granule gives its status with the
poison bit, marks a failure as reported and takes it off the table; of an empty one it waits. -/
def Obligations.SparseWords : Prop :=
  ∀ (s : State) (rd a : BitVec 5),
    (∀ i d c kind n off, Spec.sparseForm s i = some (d, c, kind, n) → ownPre16 s d 5 = .ok → ownPre16 s c 7 = .ok → placeNow s c = .own off →
      let S := readRecord s d 16 n
      poisonPre S d n = .ok →
      let l := recordBytes s d n
      let loc := Spec.own s off
      Spec.OnlyRows s S ∧
      (Spec.descOf s kind l = false → exec i s = .next (takeTrap S s.cur false 50 d)) ∧
      (Spec.descOf s kind l = true → lockPre s c 16 true = .ok → trackPre s.me = .ok →
        queuePre s (if kind = 3 then .conv else .merge) = .ok → entriesPre s (Spec.arrsOf kind l).length = .ok →
        (s.core (coreOf s.cur)).feWait = [] →
        ∃ (u t : State) (q : SpCmd), exec i s = .next t ∧ Retired (u.modHart s.cur fun H => { H with tracked := H.tracked ++ [{ c := c }] }) t ∧
          Spec.queueOf (u.cluster (cluOfHart s.cur)) kind = Spec.queueOf (s.cluster (cluOfHart s.cur)) kind ++ [q] ∧
          q.hart = s.cur ∧ q.slot = slotOf s.me ∧ q.key = keyOf s.me ∧ q.kind = kind ∧ q.desc = l ∧ q.c = c ∧ q.born = s.nextId ∧ q.imgs = imagesNow s.me ∧
          u.mem.readBytes loc 16 = List.replicate 16 0 ∧ SameOutside s u loc 16 ∧ (u.gbits loc).fe = false ∧
          u.me.x = s.me.x ∧ u.me.tracked = s.me.tracked ∧ u.net = s.net)) ∧
    (∀ off, placeNow s (s.x a) = .own off → (s.x a).toNat % 16 = 0 → rd.toNat ∉ s.me.armed →
      let loc := Spec.own s off
      let v := BitVec.ofNat 64 (ofBytes (s.mem.readBytes loc 8))
      let fresh := v.getLsbD 63 && !v.getLsbD 55
      let w := if ((scrub s loc 8 false).gbits loc).poi then v ||| (1#64 <<< 54) else v &&& ~~~(1#64 <<< 54)
      ((s.gbits loc).fe = false → exec (.scnvw rd a) s = .next (Spec.waits s (.scnvw (s.x a)))) ∧
      ((s.gbits loc).fe = true → fresh = false → ∃ (u t : State), exec (.scnvw rd a) s = .next t ∧
        Retired (u.modHart s.cur fun H => H.setX rd.toNat w) t ∧ u.me = s.me ∧ u.mem = s.mem ∧ u.net = s.net) ∧
      ((s.gbits loc).fe = true → fresh = true → ∃ (u t : State), exec (.scnvw rd a) s = .next t ∧
        Retired (u.modHart s.cur fun H => { H.setX rd.toNat (w ||| (1#64 <<< 55)) with tracked := reportTracked s s.cur (s.x a) H.tracked }) t ∧
        u.mem.readBytes loc 8 = toBytes 8 (v ||| (1#64 <<< 55)).toNat ∧ SameOutside s u loc 8 ∧ u.net = s.net ∧
        u.me.tracked = s.me.tracked ∧ u.me.x = s.me.x))

/-- R73 to R75, R101, R408 to R411: CODECMT queues a commit; the scanner reads its descriptor, takes the range's words from
execution and scans them; the completion lands the result, 0 for a range that is then executable. CSEAL seals a core
of its cluster; CRESTART starts a sealed one at reset with words that a scan admits. -/
def Obligations.CodeWords : Prop :=
  ∀ (s : State) (rd a : BitVec 5),
    (s.me.mode = .U → exec (.codecmt rd a) s = .next (Spec.illegal s)) ∧
    (∀ off, s.me.mode ≠ .U → placeNow s (s.x a) = .own off → off + 32 ≤ padSize (coreOf s.cur) → rd.toNat ∉ s.me.armed →
      (s.me.commit ≠ none → exec (.codecmt rd a) s = .next (Spec.waits s .issue)) ∧
      (s.me.commit = none → ∃ t, exec (.codecmt rd a) s = .next t ∧
        Retired ((s.modHart s.cur fun H => { H with commit := some rd.toNat }).modCore (coreOf s.cur) fun C =>
          { C with commits := C.commits ++ [{ hart := s.cur, rd := rd.toNat, desc := s.x a }] }) t)) ∧
    (∀ c q r, (s.core c).commits = q :: r → q.started = false →
      let loc := padBase c + (descOff s c q.desc).getD 0
      let l := s.mem.readBytes loc 32
      let S := scrub s loc 32 false
      Spec.OnlyRows s S ∧
      (poisonedAt S loc 32 ≠ none → exec (.codeScanStart c) s = .next (endCommit S c q (BitVec.ofNat 64 (2 ^ 63 + 11 * 2 ^ 48)))) ∧
      (poisonedAt S loc 32 = none → descOk s c l = false →
        exec (.codeScanStart c) s = .next (endCommit S c q (BitVec.ofNat 64 (2 ^ 63 + 8 * 2 ^ 48 + leAt l 0 2)))) ∧
      (poisonedAt S loc 32 = none → descOk s c l = true → ∃ t q', exec (.codeScanStart c) s = .next t ∧
        (t.core c).commits = q' :: r ∧ q'.started = true ∧ q'.hart = q.hart ∧ q'.rd = q.rd ∧ q'.first = leAt l 0 2 ∧ q'.count = leAt l 2 2 ∧
        q'.bad = coreScan s c (leAt l 0 2) (leAt l 2 2) (leAt l 6 1 % 2 == 1) (leAt l 16 2) ∧
        (∀ i, i < leAt l 2 2 → SMap.get false (t.core c).exec (leAt l 0 2 + i) = false) ∧ t.mem = s.mem ∧ t.harts = s.harts)) ∧
    (∀ c q r, (s.core c).commits = q :: r → q.started = true → coreOf q.hart = c → q.hart ∈ hartsOf c → (s.hart q.hart).commit = some q.rd →
      let v := match q.dirty, q.bad with
        | some w, _ => BitVec.ofNat 64 (2 ^ 63 + 9 * 2 ^ 48 + w % 2 ^ 16)
        | none, some (j, k) => BitVec.ofNat 64 (2 ^ 63 + k * 2 ^ 48 + (q.first + j) % 2 ^ 16)
        | none, none => 0
      ∃ t, exec (.codecmtCompletion c) s = .next t ∧ (t.core c).commits = r ∧
        t.hart q.hart = { endWfm (landX (s.hart q.hart) q.rd v) with commit := none, prefetch := [] } ∧ t.mem = s.mem ∧
        (q.dirty ≠ none ∨ q.bad ≠ none → (t.core c).exec = (s.core c).exec ∧ (t.core c).objs = (s.core c).objs) ∧
        (q.dirty = none → q.bad = none →
          (∀ i, i < q.count → SMap.get false (t.core c).exec (q.first + i) = true ∧ SMap.get false (t.core c).signed (q.first + i) = q.signed) ∧
          (t.core c).objs.getLast? = some { first := q.first, count := q.count, id := q.id, table := q.table, entries := q.entries })) ∧
    (s.me.mode ≠ .M → exec (.cseal a) s = .next (Spec.illegal s) ∧ exec (.crestart a) s = .next (Spec.illegal s)) ∧
    (s.me.mode = .M → let w := (s.x a).toNat
      (15 < w → exec (.cseal a) s = .next (takeTrap s s.cur false 7 (s.x a))) ∧
      (w ≤ 15 → let c := coreAt (cluOfHart s.cur) w
        ∃ (u t : State), exec (.cseal a) s = .next t ∧ Retired s u ∧ t = containCore u c ∧ (t.core c).isSealed = true ∧
          ((s.core c).isSealed = false → ∀ h ∈ hartsOf c, (t.hart h).task = none ∧ (t.hart h).armed = [] ∧ (t.hart h).streams = [])) ∧
      (∀ c n, c < 16 → 1 ≤ n → n ≤ 8192 → w = c + 2 ^ 16 * n →
        let k := coreAt (cluOfHart s.cur) c
        ((s.core k).isSealed = false ∨ (s.core k).lostG ≠ none → exec (.crestart a) s = .next (takeTrap s s.cur false 7 (s.x a))) ∧
        ((s.core k).isSealed = true → (s.core k).lostG = none →
          (∀ j r, coreScan s k 0 n false 0 = some (j, r) →
            exec (.crestart a) s = .next (takeTrap s s.cur false 7 (BitVec.ofNat 64 (2 ^ 63 + r * 2 ^ 48 + j % 2 ^ 16)))) ∧
          (coreScan s k 0 n false 0 = none → ∃ t, exec (.crestart a) s = .next t ∧
            ((s.core k).isRetired = false → (t.core k).isSealed = false) ∧ (∀ h ∈ hartsOf k, t.hart h = {}) ∧
            (∀ i, i < n → SMap.get false (t.core k).exec i = true ∧ SMap.get false (t.core k).signed i = false) ∧
            (t.core k).banks = (s.core k).banks ∧ (t.core k).members = (s.core k).members ∧
            (∀ o, o < 2 ^ 17 → t.mem.read (padBase k + o) = 0) ∧
            (∀ x, x < padBase k ∨ padBase k + 2 ^ 17 ≤ x → t.mem.read x = s.mem.read x)))))

/-! Steps of the device. Each says what its step answers where its object is pending; a step whose object is
not pending changes nothing. -/

namespace Sys2Proof.Spec
open Sys2Proof Sys2Proof.Machine

/-- Nothing but the state of hart h differs. -/
def OnlyHart (s t : State) (h : Nat) (H : Hart) : Prop := t = s.modHart h fun _ => H
/-- Packet p of the network is q. -/
def inNet (s : State) (p : Nat) (q : Packet) : Prop := findPkt s p = some q
/-- Packet p of the network is q, and has come to where it is bound for (R15). -/
def comes (s : State) (p : Nat) (q : Packet) : Prop := atHand s p = some q

end Sys2Proof.Spec

/-- R8, R25, R27, R28, R30, R103 to R106, R110, R163, R164, R414: an interrupt that is due is taken at a
boundary, a VLOOP between its passes standing at its own word; the timer reaches its comparand; registers, BAR0
and the core window as the saffron controller reads and writes them; a written code word is not executable. -/
def Obligations.RegisterSteps : Prop :=
  ∀ (s : State) (h : Nat) (v : Word),
    (dueInterrupt s h = none → exec (.trapEntry h) s = .next s) ∧
    (∀ n, dueInterrupt s h = some n →
      (atBoundary s h = false → exec (.trapEntry h) s = .next s) ∧
      (atBoundary s h = true → ownFlaws (s.hart h) = [] → ∃ t, exec (.trapEntry h) s = .next t ∧
        t.hart h = enterTrap { s.hart h with pc := match (s.hart h).vloop with | some w => w.pc | none => (s.hart h).pc } true n 0 ∧
        (∀ k, k ≠ h → t.hart k = s.hart k) ∧ t.mem = s.mem ∧ t.net = s.net ∧ t.cores = s.cores) ∧
      (atBoundary s h = true → ownBroken (s.hart h) = false → ∃ t, exec (.trapEntry h) s = .next t ∧
        t.hart h = enterTrap (interrupted (s.hart h)) true n 0 ∧ ((interrupted (s.hart h)).flaws.all fun e => e.1 < 2048) = true) ∧
      (atBoundary s h = true → ownBroken (s.hart h) = true → ∃ t, exec (.trapEntry h) s = .next t ∧ (t.core (coreOf h)).isSealed = true)) ∧
    (intrDue s h 18 = true → dueInterrupt s h = some 18) ∧
    (intrDue s h 18 = false → intrDue s h 16 = true → dueInterrupt s h = some 16) ∧
    (intrDue s h 18 = false → intrDue s h 16 = false → intrDue s h 17 = true → dueInterrupt s h = some 17) ∧
    ((s.core (coreOf h)).isSealed = false → (s.hart h).csr.stimecmp ≠ -1 → ∃ t, exec (.localTimer h) s = .next t ∧ ltip t h = true ∧
      t = advance s (coreOf h) ((s.hart h).csr.stimecmp.toNat + 1) ∧
      (t.core (coreOf h)).cycle = max (s.core (coreOf h)).cycle ((s.hart h).csr.stimecmp.toNat + 1)) ∧
    ((s.core (coreOf h)).isSealed = true ∨ (s.hart h).csr.stimecmp = -1 → exec (.localTimer h) s = .next s) ∧
    (∃ t, exec (.stimecmpWrite h v) s = .next t ∧ Spec.OnlyHart s t h { s.hart h with csr := { (s.hart h).csr with stimecmp := v } } ∧
      (ltip t h = true ↔ v.toNat < (s.core (coreOf h)).cycle)) ∧
    (∃ t, exec (.srseedWrite h v) s = .next t ∧ Spec.OnlyHart s t h { s.hart h with lfsr := if Spec.low v = 0 then 1 else Spec.low v }) ∧
    (∀ n, n ∈ [0x800, 0x801, 0x802#12] →
      (csrWaits s h n.toNat = true → ∀ w, exec (.cvamaxAccess h n w) s = .next (passTime s (coreOf h))) ∧
      (csrWaits s h n.toNat = false →
        exec (.cvamaxAccess h n none) s = .next (s.modPkg fun P => { P with latch := some (.inr (csrRead s h n.toNat)) }) ∧
        exec (.cvamaxAccess h n (some v)) s = .next (s.modHart h fun H =>
          if n = 0x800 then { H with csr := { H.csr with cvamax := BitVec.ofNat 32 (min (v.toNat % 2 ^ 31) 0x7F800000) } }
          else if n = 0x801 then { H with csr := { H.csr with cvflags := BitVec.ofNat 3 v.toNat } }
          else { H with lfsr := if Spec.low v = 0 then 1 else Spec.low v }))) ∧
    (∀ n : BitVec 12, h ≠ 65535 →
      (csrPresent n.toNat = true → csrReadOnly n.toNat = false → csrWaits s h n.toNat = false →
        exec (.registerWrite h n v) s = .next (csrWrite s h n.toNat v)) ∧
      (csrPresent n.toNat = true → csrReadOnly n.toNat = false → csrWaits s h n.toNat = true →
        exec (.registerWrite h n v) s = .next (passTime s (coreOf h))) ∧
      (csrPresent n.toNat = false ∨ csrReadOnly n.toNat = true → exec (.registerWrite h n v) s = .next s)) ∧
    exec (.registerWrite 65535 0x010 v) s = .next (s.modPkg fun P => { P with cmdRing := v }) ∧
    exec (.registerWrite 65535 0x018 v) s = .next (s.modPkg fun P => { P with rspRing := v }) ∧
    (∀ n, n ∈ [0x000, 0x008, 0x020#12] → exec (.registerWrite 65535 n v) s = .next s) ∧
    (∀ (c i n : Nat) (wr : Option Word), n < 4096 →
      let addr := 0x20000 + 0x8000 * i + 8 * n
      let latch := fun (k : Nat) => s.modPkg fun P => { P with latch := some (.inl k) }
      (∀ k, k % 8 ≠ 0 → exec (.windowCsrAccess c k wr) s = .next (latch (if wr.isSome then 6 else 4))) ∧
      (blockHas c i n wr.isSome = false → exec (.windowCsrAccess c addr wr) s = .next (latch (if wr.isSome then 7 else 5))) ∧
      (blockHas c i n wr.isSome = true →
        (coreGone s c = true → exec (.windowCsrAccess c addr wr) s = .next (latch 56)) ∧
        (coreGone s c = false → csrWaits s (hartAt c i) n = true → exec (.windowCsrAccess c addr wr) s = .next (passTime s c)) ∧
        (coreGone s c = false → csrWaits s (hartAt c i) n = false →
          (wr = none → exec (.windowCsrAccess c addr wr) s = .next (s.modPkg fun P => { P with latch := some (.inr (csrRead s (hartAt c i) n)) })) ∧
          (∀ w, wr = some w → exec (.windowCsrAccess c addr wr) s = .next (csrWrite s (hartAt c i) n w))))) ∧
    (∀ (c off : Nat) (l : List Byte), let n := l.length
      let latch := fun (k : Nat) => s.modPkg fun P => { P with latch := some (.inl k) }
      let size := if c < 8192 then 0x8000 else 0x10000
      (n ∉ [1, 2, 4, 8] ∨ off % n ≠ 0 → exec (.windowImemWrite c off l) s = .next (latch 6)) ∧
      (n ∈ [1, 2, 4, 8] → off % n = 0 → size < off + n → exec (.windowImemWrite c off l) s = .next (latch 7)) ∧
      (n ∈ [1, 2, 4, 8] → off % n = 0 → off + n ≤ size → coreGone s c = true → exec (.windowImemWrite c off l) s = .next (latch 56)) ∧
      (n ∈ [1, 2, 4, 8] → off % n = 0 → off + n ≤ size → coreGone s c = false → c < 8704 → ∃ t, exec (.windowImemWrite c off l) s = .next t ∧
        t.mem = s.mem.writeBytes (codeLoc c 0 + off) l ∧
        (∀ i, off / 4 ≤ i → 4 * i < off + n → SMap.get false (t.core c).exec i = false) ∧
        (∀ i, i < off / 4 ∨ off + n ≤ 4 * i → SMap.get false (t.core c).exec i = SMap.get false (s.core c).exec i)))

/-- R89, R90, R122 to R126, R164, R203, R214, R304, R306, R391: a request that has reached its home, in the order of its
bank, is performed or refused; the replies of held, posted and gathered accesses land at a core that still holds their
key; a stream fetches and stores its images, its fetch asking for a line elsewhere under a place of the core. -/
def Obligations.NetworkSteps : Prop :=
  ∀ (s : State) (p : Nat) (q : Packet), Spec.comes s p q →
    let h := q.hart
    (∀ a op sink loc, q.body = .mem a op sink (.at_ loc) → isFeOp op = false → isJoinOp op = false →
      (bankBlocked s q = true ∨ relWaits s q = true → exec (.remoteRequest p) s = .next s) ∧
      (bankBlocked s q = false → relWaits s q = false → drainWaits s loc = true →
        exec (.remoteRequest p) s = .next (passTime s (coreOfLoc loc))) ∧
      (bankBlocked s q = false → relWaits s q = false → drainWaits s loc = false →
        (∀ c, refusal s h loc q.key = some c → exec (.remoteRequest p) s = .next (refuse s q loc c)) ∧
        (refusal s h loc q.key = none →
          exec (.remoteRequest p) s = .next (answer (performMem s h loc op).1 q (performMem s h loc op).2) ∧
          (∀ n, op = .load n → (isPadLoc loc && isWindowLoc loc) = false → poisonedAt s loc n = none → (s.core (coreOfLoc loc)).flaws = [] →
            ∃ t, exec (.remoteRequest p) s = .next t ∧ t.mem = s.mem ∧
              Spec.inNet t p { q with body := .reply a (isHostLoc loc) sink (.data (BitVec.ofNat 512 (ofBytes (s.mem.readBytes loc n))) none) }) ∧
          (∀ b, op = .store b false → (isPadLoc loc && isWindowLoc loc) = false → ∃ t, exec (.remoteRequest p) s = .next t ∧ t.mem = s.mem.writeBytes loc b ∧
            Spec.inNet t p { q with body := .reply a (isHostLoc loc) sink .ack })))) ∧
    let held := isWorker (coreOf h) = true → keyHeld (s.core (coreOf h)) q.key = true
    (∀ a host sink v, q.body = .reply a host sink v → h < 65536 → ¬held →
      let step := if v.isErr then Instr.errorReply p else if sink.isHeld then .replyLanding p
        else if sink.isPosted then .storeAck p else .gatherLaneReply p
      exec step s = .next (countDrop (dropPkt s p) (coreOf h))) ∧
    (∀ a host v, q.body = .reply a host (.held 0) v → h < 65536 → held →
      ∀ k, (s.hart h).held = some k → k.parts = 1 → k.acc = 0 → k.bad = none → ∀ rd n signed, k.kind = .load rd false n signed →
        (∀ d, v = .data d none → exec (.replyLanding p) s = .next
          (retire ((dropPkt s p).modHart h fun H => H.setX rd (Spec.extended n signed (d.toNat % 2 ^ (8 * n)))) h)) ∧
        (∀ d pos off, v = .data d (some (pos, off)) →
          exec (.replyLanding p) s = .next (takeTrap (dropPkt s p) h false 27 (BitVec.ofNat 64 (a + off)))) ∧
        (∀ c pos off, v = .err c pos off → exec (.errorReply p) s = .next (takeTrap (dropPkt s p) h false c (BitVec.ofNat 64 (a + off))))) ∧
    (∀ a host m, q.body = .reply a host (.posted m) .ack → h < 65536 → held → exec (.storeAck p) s = .next (dropPkt s p)) ∧
    (∀ a host m c pos off, q.body = .reply a host (.posted m) (.err c pos off) → h < 65536 → held →
      exec (.errorReply p) s = .next ((dropPkt s p).modHart h fun H => { H with failed := some (match H.failed with
        | none => { id := p, cause := c, addr := BitVec.ofNat 64 (a + off), count := 1, host := host, scope := scopeOfBody s h q.body }
        | some f =>
          if f.id < p then
            { id := p, cause := c, addr := BitVec.ofNat 64 (a + off), count := f.count + 1, host := host, scope := scopeOfBody s h q.body }
          else { f with count := f.count + 1 }) })) ∧
    (∀ k kind reason idx target image, q.body = .errorRecord k kind reason idx target image → k < 32768 → (s.core (coreOf k)).isSealed = false →
      let n := 28 + k % 4
      let loc := winBase (k / 4) + 0x10000 + 256 * n
      (SMap.find? (s.core (k / 4)).inbox n = none → ∃ t, exec (.errorReply p) s = .next t ∧
        t.mem.readBytes loc 24 = toBytes 1 kind ++ toBytes 1 reason ++ toBytes 2 idx ++ toBytes 4 0 ++ toBytes 8 target ++ toBytes 8 image ∧
        (SMap.find? (t.core (k / 4)).inbox n).isSome ∧ SameOutside s t loc 256) ∧
      ((SMap.find? (s.core (k / 4)).inbox n).isSome → ∃ t, exec (.errorReply p) s = .next t ∧
        t.mem = s.mem.writeBytes (loc + 4) (toBytes 4 (min 0xFFFFFFFF (ofBytes (s.mem.readBytes (loc + 4) 4) + 1))) ∧ t.cores = s.cores)) ∧
    (∀ a host vd lane d, q.body = .reply a host (.lane vd lane) (.data d none) → h < 65536 → held → streamOf (s.hart h) vd = none →
      exec (.gatherLaneReply p) s = .next ((dropPkt s p).modHart h fun H =>
        { (endWfm H).setV vd ((H.getV vd &&& ~~~((0xFFFFFFFF#512) <<< (32 * lane))) ||| ((d &&& 0xFFFFFFFF) <<< (32 * lane))) with
          gathers := (H.gathers.map fun g => if g.vd = vd then { g with left := g.left - 1 } else g).filter fun g =>
            !(g.left == 0 && g.bad.isNone) })) ∧
    (∀ k v b r, streamOf (s.hart k) v = some b → b.kind = .src r →
      let l := r.imageElems b.ahead
      let R := ((List.range l.length).zip l).foldl (imageLane k (tagStream k v) b.born r) { st := s }
      (r.images ≤ b.ahead ∨ 4 ≤ b.buf.length → exec (.streamImageFetch k v) s = .next s) ∧
      (b.ahead < r.images → b.buf.length < 4 →
        (∀ e ∈ l, ∃ loc, ownAt s k (r.elem e).1 = some loc ∧
          ∀ o ∈ underWay s k, ∀ j ∈ padBanks loc r.elemBytes, (banksOf s o).contains j = false) →
        ∃ t, exec (.streamImageFetch k v) s = .next t ∧ streamOf (t.hart k) v = some { b with
          ahead := b.ahead + 1, buf := b.buf ++ [match R.bad with | some (c, a) => .bad c a | none => .ok (BitVec.ofNat 512 R.bits)] }) ∧
      (b.ahead < r.images → b.buf.length < 4 → ∀ e, l.head? = some e → let x := (r.elem e).1
        elemFault s k x r.elemBytes = none → ownAt s k x = none → lineAsked s k (tagStream k v) b.born (x.toNat / 64) = none →
        (placesFor s k 1 = false → exec (.streamImageFetch k v) s = .next s) ∧
        (placesFor s k 1 = true → ∃ t o, exec (.streamImageFetch k v) s = .next t ∧ t.net = s.net ++ [o] ∧ o.hart = k ∧ o.id = s.nextId ∧
          (∃ segs wh, o.body = .mem (x.toNat / 64 * 64) (.loads segs) (.unit (tagStream k v)) wh) ∧
          lineAsked t k (tagStream k v) b.born (x.toNat / 64) = (if b.born ≤ s.nextId then some none else none)))) ∧
    (∀ k v b r n img rest, streamOf (s.hart k) v = some b → b.kind = .dst r → b.out = (n, img) :: rest →
      (∀ x ∈ imageBytes r n img, ∃ off, placeOf s k (slotOf (s.hart k)) x.1 = .own off ∧ ownBusy s k (padBase (coreOf k) + off) = false) →
      (∀ o ∈ underWay s k, ∀ a op j wh, o.body ≠ .mem a op (.stream v j) wh) → placesFor s k 0 = true →
      ∃ t, exec (.streamImageStore k v) s = .next t ∧ streamOf (t.hart k) v = some { b with out := rest } ∧ t.net = s.net ∧
        t.mem = (imageBytes r n img).foldl (fun m x => match placeOf s k (slotOf (s.hart k)) x.1 with
          | .own off => m.writeBytes (padBase (coreOf k) + off) x.2
          | _ => m) s.mem)

/-- R178 to R182: what a station makes of a virtual address. A dead slot and an address outside the format are
errors; a cached translation answers at once; a walk sets A, and D for a write, in the leaf it finds. -/
def Sys2Proof.Spec.translation : Prop :=
  ∀ (s : State) (d slot a : Nat) (write : Bool), let page := fun (f : Nat) => physLoc s (f * 4096 + a % 4096)
    (SMap.find? s.pkg.procs slot = none → translate s d slot a write = (s, .err 31)) ∧
    (∀ P, SMap.find? s.pkg.procs slot = some P →
      (canonical P.mode a = false → translate s d slot a write = (s, .err 31)) ∧
      (canonical P.mode a = true →
        (∀ e, tlbHit (s.die d) slot a write = some e → translate s d slot a write = (s, .ok (page e.frame))) ∧
        (tlbHit (s.die d) slot a write = none →
          (P.mode = 3 → translate s d slot a write = (s, .host)) ∧
          (P.mode ≠ 3 → hostUp s = false → translate s d slot a write = (s, .err 56)) ∧
          (P.mode ≠ 3 → hostUp s = true →
            let w := walk s a write (P.mode + 3) P.root
            (w = .fault → translate s d slot a write = (s, .host)) ∧
            (w = .poison → translate s d slot a write = (s, .err 56)) ∧
            (∀ loc e f, w = .leaf loc e f → ∃ t, translate s d slot a write = (t, .ok (page f)) ∧ t.mem = s.mem.writeBytes loc (toBytes 8 e) ∧
              e / 64 % 2 = 1 ∧ (write = true → e / 128 % 2 = 1) ∧
              (t.die d).tlb.getLast? = some { station := a / 4096 % 16, slot := slot, page := a / 4096, frame := f, writable := write })))))

/-- R178, R181, R182: the stations' steps. -/
def Sys2Proof.Spec.stations : Prop :=
  ∀ s : State,
    (∀ p q a op sink, Spec.comes s p q → q.body = .mem a op sink .new → a < 2 ^ 63 → bankBlocked s q = false → relWaits s q = false →
      let d := senderDie q.hart
      let room := parkedAt (s.die d) (a / 4096 % 16) < 256
      (lineParked s d a q.slot = true → (room → exec (.virtualAccess p) s = .next (parkPkt s d a q)) ∧
        (¬room → exec (.virtualAccess p) s = .next s)) ∧
      (lineParked s d a q.slot = false →
      let hit := tlbHit (s.die d) (q.slot.getD 0) a (!readsOnly op) ≠ none
      let T := translate s d (q.slot.getD 0) a (!readsOnly op)
      (¬room → ¬hit → exec (.virtualAccess p) s = .next s) ∧
      (∀ loc, T.2 = .ok loc → room ∨ hit → exec (.virtualAccess p) s = .next
        (if locUp T.1 loc && !(isCellOp op && isHostLoc loc) then setBody T.1 p (.mem a op sink (.at_ loc)) else failPkt T.1 q 56)) ∧
      (∀ c, T.2 = .err c → room ∨ hit → exec (.virtualAccess p) s = .next (failPkt T.1 q c)) ∧
      (T.2 = .host → room → ∃ t, exec (.virtualAccess p) s = .next t ∧
        (t.die d).parked = (s.die d).parked ++ [(a / 4096 % 16, q)] ∧ findPkt t p = none ∧ t.mem = s.mem ∧
        ((a / 4096 % 16, q.slot.getD 0, a / 4096) ∈ (t.die d).pri ∨ (a / 4096 % 16, q.slot.getD 0, a / 4096) ∈ (t.die d).ats)))) ∧
    (∀ d station slot page, let k := (station, slot, page)
      let done := s.modDie d fun D => { D with pri := D.pri.erase k }
      (k ∉ (s.die d).pri → ∀ b, exec (.priResponse d station slot page b) s = .next s) ∧
      (k ∈ (s.die d).pri → exec (.priResponse d station slot page false) s = .next (refusePage done d slot page)) ∧
      (k ∈ (s.die d).pri → (∀ P, SMap.find? s.pkg.procs slot = some P → P.mode ≠ 3) →
        exec (.priResponse d station slot page true) s = .next ((retryPage done d slot page).modDie d fun D => dropAsks D slot page)) ∧
      (k ∈ (s.die d).ats → ∀ w, ∃ t, exec (.atsCompletion d station slot page none w) s = .next t ∧
        (t.die d).pri = (s.die d).pri ++ [k] ∧ (t.die d).ats = (s.die d).ats.erase k) ∧
      (k ∈ (s.die d).ats → (∀ e ∈ (s.die d).parked, ofPage slot page e = false) → ∀ f w,
        ∃ t, exec (.atsCompletion d station slot page (some f) w) s = .next t ∧ t.mem = s.mem ∧ (t.die d).ats = (s.die d).ats.erase k ∧
          (t.die d).tlb = (s.die d).tlb.filter (fun u => !(u.slot == slot && u.page == page)) ++
            [{ station := station, slot := slot, page := page, frame := f, writable := w }])) ∧
    (∀ slot page, (∀ q ∈ s.net, ∀ a op sink loc, q.slot = some slot → q.body = .mem a op sink (.at_ loc) → a < 2 ^ 63 → a / 4096 ≠ page) →
      ∃ t, exec (.atsInvalidation slot page) s = .next t ∧ t.mem = s.mem ∧ t.net = s.net ∧
        ∀ e ∈ t.dies, ∀ u ∈ e.2.tlb, ¬(u.slot = slot ∧ u.page = page))

/-- R195 to R200: full-empty requests of other cores: served at once, or kept in the core's list of 64 until one
serves them, a limit passes or an interrupt withdraws them. -/
def Sys2Proof.Spec.feRequests : Prop :=
  ∀ (s : State) (p : Nat) (q : Packet),
    (∀ a op sink loc, Spec.comes s p q → q.body = .mem a op sink (.at_ loc) → isFeOp op = true → bankBlocked s q = false →
      (∀ c, refusal s q.hart loc q.key = some c → exec (.feRequest p) s = .next (refuse s q loc c)) ∧
      (refusal s q.hart loc q.key = none →
        (∀ t r, feAt s (some q.hart) loc op = some (t, r) → exec (.feRequest p) s = .next (wakeFe (answer t q r) loc)) ∧
        (feAt s (some q.hart) loc op = none → (s.core (coreOfLoc loc)).feWait.length < 64 → ∃ t, exec (.feRequest p) s = .next t ∧
          (t.core (coreOfLoc loc)).feWait = (s.core (coreOfLoc loc)).feWait ++ [q] ∧ findPkt t p = none ∧ t.mem = s.mem ∧ t.gran = s.gran) ∧
        (feAt s (some q.hart) loc op = none → 64 ≤ (s.core (coreOfLoc loc)).feWait.length → exec (.feRequest p) s = .next (failPkt s q 28)))) ∧
    (∀ c, waiting s (fun r => r.id == p) = some (c, q) →
      (q.limit = 0 → exec (.feTimeout p) s = .next s) ∧
      (q.limit ≠ 0 → exec (.feTimeout p) s = .next (failPkt { unwait s c q with net := s.net ++ [q] } q 28))) ∧
    (∀ h c n, dueInterrupt s h = some n → waiting s (fun r => r.hart == h) = some (c, q) → ∃ t, exec (.feWithdraw h) s = .next t ∧
      (t.core c).feWait = (s.core c).feWait.filter (fun r => r.id != q.id) ∧ (t.hart h).held = none ∧ t.mem = s.mem ∧ t.net = s.net)

/-- R37, R207, R208, R218: a free place of an engine goes to the next stalled core; the copy at the head of its queue
begins once its hart's earlier accesses to its banks are performed, and ends with its status, a record fault without any
effect on memory. -/
def Sys2Proof.Spec.copySteps : Prop :=
  ∀ (s : State) (g : Nat),
    (∀ e k, let s' := s.modCluster g fun G => { G with engGrant := G.engGrant.filter fun (f, k) => f != e || stallsFor s g e k }
      (engCores (s'.cluster g) e).length + grantsOf (s'.cluster g) e < 16 → nextStalled s' g e = some k →
      ∃ t, exec (.engineQueueGrant g e) s = .next t ∧ (t.cluster g).engGrant = (s'.cluster g).engGrant ++ [(e, k)] ∧
        SMap.find? (t.cluster g).engLast (engIndex e) = some k ∧ t.mem = s.mem ∧ t.harts = s.harts) ∧
    (∀ c r, (s.cluster g).copyQ = c :: r → c.fill = false →
      ((s.cluster g).copyFrom = none →
        let free := canBegin s c.agent (hullsOf s c.hart [c.src, c.dst])
        (free = false → exec (.copyCompletion g) s = .next s) ∧
        (free = true → exec (.copyCompletion g) s = .next (s.modCluster g fun G => { G with copyFrom := some (s.mem, s.gran) }))) ∧
      (∀ before, (s.cluster g).copyFrom = some before →
        (∀ t v, runCopy s c before = (t, v, none) → ∃ u, exec (.copyCompletion g) s = .next u ∧ u = endCopy t g c v ∧
          (u.hart c.hart).copies = (t.hart c.hart).copies.map (fun q => if q.tag = c.tag then { q with status := some v } else q)) ∧
        (∀ t v n, runCopy s c before = (t, v, some n) → exec (.copyCompletion g) s = .next (engAsk s c.agent n)) ∧
        (∀ code side, copyRecordCode c = some (code, side) → ∃ u k, exec (.copyCompletion g) s = .next u ∧
          k < 2 ∧ (∀ x, side = some x → k = x) ∧ u.mem = s.mem ∧ (u.cluster g).copyQ = r ∧
          (u.hart c.hart).copies = (s.hart c.hart).copies.map (fun q => if q.tag = c.tag then
            { q with status := some (BitVec.ofNat 64 (2 ^ 63 + code * 2 ^ 56 + k * 2 ^ 55)) } else q))) ∧
      (c.src.valid = false → c.dst.valid = true → copyRecordCode c = some (0x70, some 0)) ∧
      (c.src.valid = true → c.dst.valid = false → copyRecordCode c = some (0x70, some 1)))

/-- R37, R178 to R182, R195 to R200, R207, R208: translation, waiting requests and copies. -/
def Obligations.StationSteps : Prop := Spec.translation ∧ Spec.stations ∧ Spec.feRequests ∧ Spec.copySteps

/-- R218, R252, R280, R319, R325, R340 to R350, R359, R369, R370, R373: the lease is granted and lapses; a matrix command
starts when the engine is free and its hart's earlier accesses to its arrays are performed, completes with its effect and
leaves the queue, or fails with the hart's other commands; a cleared unit is free; a sparse command starts in its place in
the program order, and completes with its granule full; waits that pass a limit trap. -/
def Obligations.EngineSteps : Prop :=
  ∀ (s : State) (g : Nat), let G := s.cluster g
    (∀ k, G.lease = none → nextLease G = some k → ∃ t, exec (.leaseGrant g) s = .next t ∧ (t.cluster g).lease = some k ∧
      (t.cluster g).leaseReq = G.leaseReq.filter (fun (c, _) => c != k) ∧ (∀ e ∈ leaseWaits s g k, e.2 ≤ (t.cluster g).rem) ∧ t.mem = s.mem) ∧
    (∀ k c n, G.lease = some k → (c, n) ∈ G.leaseReq → c ≠ k → exec (.leaseIdleTimeout g) s = .next
      (s.modCluster g fun G => { G with lease := none, rem := 0, lastLease := k })) ∧
    (G.matRun = true ∨ G.matQ = [] → exec (.engineCommandStart g) s = .next s) ∧
    (∀ c r, G.matQ = c :: r →
      (G.matRun = false → canBegin s c.agent (hullsOf s c.hart c.shapes) = true →
        ((∀ a b d, c.op ≠ .fill a b d) ∨ ∃ q l, G.copyQ = q :: l ∧ q.fill = true) →
        exec (.engineCommandStart g) s = .next (s.modCluster g fun G => { G with matRun := true, fillFrom := some (s.mem, s.gran) })) ∧
      (G.matRun = false → canBegin s c.agent (hullsOf s c.hart c.shapes) = false ∨
          ((∃ a b d, c.op = .fill a b d) ∧ ∀ q l, G.copyQ = q :: l → q.fill = false) →
        exec (.engineCommandStart g) s = .next s) ∧
      (G.matRun = true →
        ((∀ a b d, c.op ≠ .fill a b d) → (∀ a b d e f k l m, c.op ≠ .drain a b d e f k l m) → ∃ t, exec (.engineCommandCompletion g) s = .next t ∧
          t = endCommand (runStage s g c) g c ∧ (t.cluster g).matQ = r ∧ (t.cluster g).matRun = false ∧ t.mem = s.mem ∧ t.net = s.net) ∧
        (∀ a, c.op = .zero a → ∃ t, exec (.engineCommandCompletion g) s = .next t ∧
          ∀ i j, i < 32 → j < 128 → accWord (t.cluster g) (SMap.get 0 c.accs a) i j = 0 ∧ accPoisoned (t.cluster g) (SMap.get 0 c.accs a) i = false) ∧
        (∀ slot off d, c.op = .fill slot off d → let R := runFill s g c slot off d
          (∀ w, R.need = some w → exec (.engineCommandCompletion g) s = .next (engAsk s c.agent w)) ∧
          (R.need = none → R.fail = none → exec (.engineCommandCompletion g) s = .next (endCommand R.st g c)) ∧
          (∀ code side k a, R.need = none → R.fail = some (code, side, k, a) → ∃ t, exec (.engineCommandFailure g) s = .next t ∧
            (t.hart c.hart).engFail = ((R.st.hart c.hart).engFail <|> some (code, a)) ∧ ∀ e ∈ (t.cluster g).matQ, e.hart ≠ c.hart)) ∧
        (∀ a d skip rtz sat amax fa fd, c.op = .drain a d skip rtz sat amax fa fd → let R := runDrain s g c a d skip rtz sat fa fd
          (R.need = none → R.fail = none →
            exec (.drainCompletion g) s = .next (endCommand (drainNote R.st g c a skip rtz sat amax fa fd) g c)) ∧
          (∀ code side k v, R.need = none → R.fail = some (code, side, k, v) → ∃ t, exec (.engineCommandFailure g) s = .next t ∧
            (t.hart c.hart).engFail = ((R.st.hart c.hart).engFail <|> some (code, v)) ∧ ∀ e ∈ (t.cluster g).matQ, e.hart ≠ c.hart)))) ∧
    (∀ u l, G.clearing = u :: l → exec (.slotClearDone g) s = .next (s.modCluster g fun G => { G with clearing := l })) ∧
    (∀ e c r, spQueue G e = c :: r → spRunning G e = false → let free := canBegin s c.agent (c.arrs.map fun a => (a.base, a.bytes))
      (free = false → exec (.sparseCommandStart g e) s = .next s) ∧
      (free = true → e = .merge → exec (.sparseCommandStart g .merge) s = .next (s.modCluster g fun G =>
        { G with mergeRun := true, mergeFrom := some (s.mem, s.gran) })) ∧
      (free = true → e = .conv → exec (.sparseCommandStart g .conv) s = .next (s.modCluster g fun G =>
        { G with convRun := true, convFrom := some (s.mem, s.gran) }))) ∧
    (∀ e, e = .merge ∨ e = .conv → spRunning G e = true ∨ spQueue G e = [] → exec (.sparseCommandStart g e) s = .next s) ∧
    (∀ e c r t stop res poi, e = .merge ∨ e = .conv → spRunning G e = true → spQueue G e = c :: r → spEngine c.kind = e →
      runSparse s c = (t, stop, res, poi) →
      (∀ w, stop = some (.need w) → exec (.sparseCommandCompletion g e) s = .next (engAsk s c.agent w)) ∧
      ((∀ w, stop ≠ some (.need w)) → (t.core (coreOf c.hart)).feWait = [] →
      ∃ u, exec (.sparseCommandCompletion g e) s = .next u ∧
        (let loc := padBase (coreOf c.hart) + (ownOff s c.hart c.c).getD 0
         loc % 16 = 0 → u.mem.readBytes loc 16 = toBytes 8 (spStatus stop) ++ toBytes 8 res ∧ (u.gbits loc).fe = true))) ∧
    (∀ h, let limit := (s.core (coreOf h)).feLimit
      (∀ c, (s.hart h).stalled = some (.scnvw c) → limit ≠ 0 → exec (.scnvwTimeout h) s = .next (takeTrap s h false 28 c)) ∧
      ((s.hart h).stalled = some .spawn → limit ≠ 0 → exec (.spawnWaitTimeout h) s = .next (takeTrap s h false 52 3)) ∧
      ((s.hart h).stalled = some .ring → limit ≠ 0 → exec (.ringWaitTimeout h) s = .next (takeTrap s h false 51 4)) ∧
      (limit = 0 → exec (.spawnWaitTimeout h) s = .next s ∧ exec (.ringWaitTimeout h) s = .next s ∧ exec (.scnvwTimeout h) s = .next s))

namespace Sys2Proof.Spec
open Sys2Proof Sys2Proof.Machine

/-- R246, R247, R252, R262, R263: a type entry is read once and cached; a record that enters a cluster waits for its
hart's earlier accesses and for the page of its type, is forwarded to the neighbour that is chosen, accepted where there is
room, held where there is none, or lost with a type that cannot be read; a range without extent ends at its home. -/
def records : Prop :=
  ∀ (s : State) (g : Nat),
    (∀ n ty L, launchOf s n = some L → ty < L.trec.ntypes → L.trec.types + 32 * ty < 2 ^ 63 →
      let key := (L.trec.slot, L.trec.types, ty)
      (∀ e, ((s.cluster g).types.find? fun x => x.1 == key) = some e → exec (.typeEntryRead g n ty) s = .next s) ∧
      (((s.cluster g).types.find? fun x => x.1 == key) = none → ∀ u loc,
        reach s { hart := 32768 + g, slot := some L.trec.slot, key := 0, tag := tagTypes } (BitVec.ofNat 64 (L.trec.types + 32 * ty)) 32 false = (u, .at_ loc) →
        isHostLoc loc = false → poisonedAt u loc 32 = none → ∃ t, exec (.typeEntryRead g n ty) s = .next t ∧
          (t.cluster g).types.getLast? = some (key, parseType (u.mem.readBytes loc 32)) ∧ (t.cluster g).types.length ≤ max 64 (u.cluster g).types.length ∧
          t.mem = u.mem)) ∧
    (∀ p q r regs n direct L, comes s p q → q.body = .task r regs n g direct → heldBack s q = false → g < 512 →
      cluGone s g = false → launchOf s n = some L →
      (isRange r = true → r.ext = 0 → r.hpkg = s.pkg.number % 4096 →
        exec (.taskRecordArrival p) s = .next (finishEmpty (dropPkt s p) r n)) ∧
      (¬(isRange r = true ∧ r.ext = 0 ∧ r.hpkg = s.pkg.number % 4096) →
      (∀ t v, typeLookup s g n r.ty = (t, .host v) → exec (.taskRecordArrival p) s = .next (typeAsk s g n v)) ∧
      (∀ t, typeLookup s g n r.ty = (t, .bad) → ∃ u d, exec (.taskRecordArrival p) s = .next u ∧ u.net.getLast? = some d ∧
        d.body = .lost (keyOfRec r) n true ∧ (u.cluster g).queue = (t.cluster g).queue) ∧
      (∀ t e, typeLookup s g n r.ty = (t, .ok e) → let G := t.cluster g
        (direct = true ∨ pressure G < G.lSpawn ∨ G.hopmax ≤ r.hop → decideMove t g r e L.trec direct = none) ∧
        (∀ y, decideMove t g r e L.trec direct = some y →
          exec (.taskRecordArrival p) s = .next (setBody t p (.task { r with hop := r.hop + 1 } regs n y false))) ∧
        (decideMove t g r e L.trec direct = none →
          (hasRoom G r = false → ∃ u, exec (.taskRecordArrival p) s = .next u ∧ (u.cluster g).waiting = G.waiting ++ [q] ∧ findPkt u p = none) ∧
          (hasRoom G r = true → ∃ u k d, exec (.taskRecordArrival p) s = .next u ∧ (u.cluster g).queue = G.queue ++ [k] ∧
            k.trec = r ∧ k.regs = regs ∧ k.launch = n ∧ k.ent = e ∧ k.level = max r.prio e.prio ∧ k.age = 0 ∧ k.resume = none ∧
            (u.cluster g).q = G.q + costOf r e ∧ (isRange r = false → (u.cluster g).groups = G.groups) ∧
            u.net.getLast? = some d ∧ d.body = .accepted r.ser (r.hpkg * 512 + (r.hdie * 64 + r.hclu)) g))))) ∧
    (∀ p q r regs n direct, comes s p q → q.body = .task r regs n g direct → heldBack s q = true →
      exec (.taskRecordArrival p) s = .next s) ∧
    (∀ q r regs n c direct t e, ((s.cluster g).waiting.find? fun k => match k.body with
        | .task r _ _ _ _ => hasRoom (s.cluster g) r
        | _ => false) = some q → q.body = .task r regs n c direct → typeLookup s g n r.ty = (t, .ok e) →
      ∃ u k, exec (.taskBufferAccept g) s = .next u ∧ (u.cluster g).waiting = (t.cluster g).waiting.filter (fun k => k.id != q.id) ∧
        (u.cluster g).queue = (t.cluster g).queue ++ [k] ∧ k.trec = r ∧ k.regs = regs)

/-- R260: beacons. -/
def beacons : Prop :=
  ∀ (s : State) (g : Nat),
    ((s.die (dieOf g)).isFailed = false → ∃ t l, exec (.beaconInterval g) s = .next t ∧ t.net = s.net ++ l ∧
      (l.map fun p => p.body) = ((peersOf g).filter fun p => !peerDown s g p).map (fun p => .beacon p g (pressure (t.cluster g)) (t.cluster g).dist) ∧
      (∀ p ∈ peersOf g, peerDown s g p = true → heard (t.cluster g) p = (0xFFFF, 63)) ∧ (t.cluster g).dist = distOf (t.cluster g) g ∧ t.mem = s.mem) ∧
    (∀ p q nbr P d, comes s p q → q.body = .beacon g nbr P d → g < 512 → ∃ t, exec (.beacon p) s = .next t ∧
      heard (t.cluster g) nbr = (P, d) ∧ (t.cluster g).dist = distOf (t.cluster g) g ∧ findPkt t p = none) ∧
    (∀ nbr, ∃ t, exec (.neighbourSilence g nbr) s = .next t ∧ heard (t.cluster g) nbr = (0xFFFF, 63) ∧ (t.cluster g).dist = distOf (t.cluster g) g)

/-- Hart h runs a task of a priority below the record's whose end would let its core take the record. -/
def couldTake (s : State) (g : Nat) (q : QEnt) (h : Nat) : Prop :=
  ∃ T, (s.hart h).task = some T ∧ T.prio < q.level ∧ (s.core (coreOf h)).isSealed = false ∧
    coreOf h ∈ takers ((dropFrame s h).modHart h freeHart) g q

/-- R250, R267, R270: with no arrival that can start, the dispatcher starts the queue's first record on the core it
chooses: on a free hart, in U mode, at its entry, with its frame and registers. PRIP goes to a hart of the lowest
priority whose core could take the record, of these to the one whose task has run longest since it entered its hart (the
model's reading, log 44), then to the lowest; not while a request for the record is pending. -/
def dispatches : Prop :=
  ∀ (s : State) (g : Nat) (q : QEnt), firstOf (s.cluster g) = some q →
    (∀ c, cluGone s g = false → (∀ i, i < 16 → settleHead s (coreAt g i) = s ∧ arrivalHead s (coreAt g i) = none) → q.resume = none → isRange q.trec = false →
      bestCore s (takers s g q) = some c → objOk (s.core c) q.ent = true →
      ∃ (t : State) (h u : Nat) (T : Task), exec (.dispatch g) s = .next t ∧ (freeHarts s c).head? = some h ∧
        fitFrame (s.core c) q.ent.frame = some u ∧ (t.hart h).task = some T ∧ T.trec = q.trec ∧ T.launch = q.launch ∧ T.slot = q.slot ∧ T.key = q.key ∧
        T.frame = u ∧ T.cost = q.ent.cbase + q.ent.crow ∧ T.prio = q.level ∧ T.group = q.group ∧
        (t.hart h).mode = .U ∧ (t.hart h).pc = BitVec.ofNat 64 (4 * q.ent.entry) ∧ (t.hart h).getX 5 = BitVec.ofNat 64 q.trec.x5 ∧
        (t.hart h).getX 6 = BitVec.ofNat 64 (9 * 2 ^ 60 + 0x10000 + 512 * u) ∧
        (t.hart h).getX 2 = BitVec.ofNat 64 (9 * 2 ^ 60 + 0x10000 + 512 * u + 512 * q.ent.frame) ∧
        (q.trec.carry = false → (t.hart h).getX 10 = BitVec.ofNat 64 q.trec.c0 ∧ (t.hart h).getX 11 = BitVec.ofNat 64 q.trec.c1 ∧
          (t.hart h).getX 12 = BitVec.ofNat 64 q.trec.c2 ∧ (t.hart h).getX 13 = BitVec.ofNat 64 q.trec.c3 ∧
          (t.hart h).getX 14 = BitVec.ofNat 64 q.trec.b ∧ (t.hart h).getX 15 = 1 ∧ (t.hart h).getX 16 = 1 ∧ (t.hart h).getX 17 = 0) ∧
        (q.trec.carry = true → ∀ i, i < 8 → (t.hart h).getX (10 + i) = q.regs.getD i 0) ∧
        (∀ n, n = 1 ∨ n = 3 ∨ n = 4 ∨ n = 8 ∨ n = 9 ∨ 18 ≤ n → (t.hart h).getX n = 0) ∧
        (t.cluster g).dispatches = (s.cluster g).dispatches + 1 ∧ (∀ k ∈ (t.cluster g).queue, k.order ≠ q.order)) ∧
    (levelAt q ((s.cluster g).dispatches + 1) ≠ 3 ∨ takers s g q ≠ [] ∨
        (∃ h, q.asked = some h ∧ (s.hart h).csr.prip = true ∧ (s.hart h).task ≠ none) →
      exec (.preemptionRequest g) s = .next s) ∧
    (levelAt q ((s.cluster g).dispatches + 1) = 3 → takers s g q = [] →
      (∀ h, q.asked = some h → (s.hart h).csr.prip = false ∨ (s.hart h).task = none) →
      (∃ i, i < 64 ∧ couldTake s g q (g * 64 + i)) →
      ∃ t i T, i < 64 ∧ couldTake s g q (g * 64 + i) ∧ (s.hart (g * 64 + i)).task = some T ∧
        (∀ k U, k < 64 → couldTake s g q (g * 64 + k) → (s.hart (g * 64 + k)).task = some U →
          T.prio < U.prio ∨ T.prio = U.prio ∧ (T.began < U.began ∨ T.began = U.began ∧ i ≤ k)) ∧
        exec (.preemptionRequest g) s = .next t ∧ t = requestOn s g (g * 64 + i) q.order ∧
        t.hart (g * 64 + i) = { s.hart (g * 64 + i) with csr := { (s.hart (g * 64 + i)).csr with prip := true } } ∧
        (∀ h, h ≠ g * 64 + i → t.hart h = s.hart h))

/-- R257, R258, R271 to R275: counters, retention and losses. -/
def joins : Prop :=
  ∀ (s : State) (p : Nat) (q : Packet), comes s p q →
    (∀ ser home by_, q.body = .accepted ser home by_ → leavesPkg s q.body = false → cluGone s (home % 512) = false →
      ((s.die (by_ / 64)).isFailed = false → ∃ t, exec (.acceptanceNotice p) s = .next t ∧ findPkt t p = none ∧ (t.cluster (home % 512)).keep =
        (s.cluster (home % 512)).keep.map fun k => if k.trec.ser = ser then { k with accepted := some by_, hart := none } else k) ∧
      ((s.die (by_ / 64)).isFailed = true → exec (.acceptanceNotice p) s = .next (loseKept (noteAccepted (dropPkt s p) (home % 512) ser by_) (home % 512) ser false))) ∧
    (∀ ctr st key n, q.body = .dec ctr st key n → leavesPkg s q.body = false → homeErr s (coreOfLoc (joinLoc ctr)) q.key = none → p ≠ s.nextId →
      (s.core (coreOfLoc (joinLoc ctr))).flaws = [] →
      let loc := joinLoc ctr
      let g := cluOf (coreOfLoc loc)
      let G := s.cluster g
      let C := readCounter s loc
      ((∃ e ∈ G.window, e.1 = key) → ∃ t d, exec (.dec p) s = .next t ∧ t.mem = s.mem ∧ t.net.getLast? = some d ∧ d.body = .release key n) ∧
      ((∀ e ∈ G.window, e.1 ≠ key ∧ e.2 = true) → 64 ≤ G.window.length → exec (.dec p) s = .next s) ∧
      ((∀ e ∈ G.window, e.1 ≠ key) → G.window.length < 64 → counterPoisoned s loc = false → 1 ≤ C.count →
        (C.count ≠ 1 ∨ C.arm = false ∨ C.fired = true) → ∃ t d, exec (.dec p) s = .next t ∧
          t.mem = s.mem.writeBytes loc (counterBytes { C with count := C.count - 1, stat := Nat.lor C.stat (st % 2 ^ 24) }) ∧
          (t.cluster g).window = G.window ++ [(key, true)] ∧ t.net.getLast? = some d ∧ d.body = .release key n)) ∧
    (∀ a op sink loc, q.body = .mem a op sink (.at_ loc) → isJoinOp op = true → bankBlocked s q = false →
      (joinWaits s loc op = true → exec (.joinOpArrival p) s = .next s) ∧
      (joinWaits s loc op = false →
        (∀ c, refusal s q.hart loc q.key = some c → exec (.joinOpArrival p) s = .next (refuse s q loc c)) ∧
        (refusal s q.hart loc q.key = none → exec (.joinOpArrival p) s = .next (answer (joinAt s (some q.hart) loc op).1 q (joinAt s (some q.hart) loc op).2)))) ∧
    (∀ key n, q.body = .release key n → leavesPkg s q.body = false → ∀ k, ((s.cluster (homeOf key)).keep.find? fun e => e.trec.ser == key.ser) = some k →
      (k.issued ≤ k.finished + 1 → ∃ t, exec (.release p) s = .next t ∧ t.mem = s.mem ∧ ∀ e ∈ (t.cluster (homeOf key)).keep, e.trec.ser ≠ key.ser) ∧
      (k.finished + 1 < k.issued → ∃ t, exec (.release p) s = .next t ∧ t.mem = s.mem ∧ (t.cluster (homeOf key)).keep =
        (s.cluster (homeOf key)).keep.map fun e => if e.trec.ser = key.ser then { e with finished := e.finished + 1, released := true } else e)) ∧
    (∀ key c, q.body = .unpin key c → leavesPkg s q.body = false → ∃ t, exec (.unpin p) s = .next t ∧ t.mem = s.mem ∧
      (t.cluster (c % 512)).window = (s.cluster (c % 512)).window.map fun e => (e.1, e.2 && e.1 != key)) ∧
    (∀ key n final, q.body = .lost key n final → leavesPkg s q.body = false → ∀ k, ((s.cluster (homeOf key)).keep.find? fun e => e.trec.ser == key.ser) = some k →
      exec (.lost p) s = .next (loseKept (dropPkt s p) (homeOf key) key.ser final) ∧
      (∀ u e, final = false → k.released = false → typeLookup (dropPkt s p) (homeOf key) k.launch k.trec.ty = (u, .ok e) → e.restart = true →
        ∃ t d, exec (.lost p) s = .next t ∧ t.net.getLast? = some d ∧ d.body = .task { k.trec with hop := 0 } k.regs k.launch (homeOf key) false ∧
          d.slot = some k.slot ∧ d.key = k.key))

/-- R274: a failed die. -/
def dieLosses : Prop :=
  ∀ s : State,
    (∀ d, (s.die d).isFailed = false → exec (.dieFailureNotice d) s = .next s) ∧
    (∀ d, (s.die d).isFailed = true → (∀ e ∈ s.clusters, ∀ k ∈ e.2.keep, ∀ b, k.accepted = some b → b / 64 ≠ d) →
      exec (.dieFailureNotice d) s = .next (s.pkg.launches.foldl (fun s e =>
        if e.2.trec.dies / 2 ^ d % 2 = 1 then orStatus s (e.1 / 16) e.1 (2 ^ 30) else s) s)) ∧
    (∀ g ser k, ((s.cluster g).keep.find? fun e => e.trec.ser == ser) = some k →
      ((∃ e ∈ s.dies, e.2.isFailed = true) → k.accepted = none → k.released = false →
        exec (.acceptanceTimeout g ser) s = .next (loseKept s g ser false)) ∧
      (k.accepted ≠ none → exec (.acceptanceTimeout g ser) s = .next s))

end Sys2Proof.Spec

/-- R246, R247, R250, R257 to R263, R267, R270 to R275: placement, dispatch and the bookkeeping of records. -/
def Obligations.PlacementSteps : Prop := Spec.records ∧ Spec.beacons ∧ Spec.dispatches ∧ Spec.joins ∧ Spec.dieLosses

/-- R282 to R285, R390, R392, R419: a ring's slot is taken once, and from a host work ring only a launch whose key the
slot's process may use (which keys those are is the model's free value, log 57); a launch with key 0 ends at once, one
that fits is installed and its root record sent; collecting passes down the tree and done messages up; a completion record
that waits is tried again. -/
def Obligations.LaunchSteps : Prop :=
  ∀ s : State,
    (∀ p q desc g slot key, Spec.comes s p q → q.body = .ringNote desc g slot key → (q.hart < 65536 → earlierOpen s q 4 = false) →
      (cluGone s g = true → exec (.ringNotify p) s = .next (dropPkt s p)) ∧
      (cluGone s g = false →
        (∀ t v, takeSlot s g (slot.getD 0) desc none = (t, true, v) → exec (.ringNotify p) s = .next (devDone t g)) ∧
        (∀ t w, takeSlot s g (slot.getD 0) desc none = (t, false, some w) → exec (.ringNotify p) s = .next (devAsk s g (slot.getD 0) w)) ∧
        (∀ t, takeSlot s g (slot.getD 0) desc none = (t, false, none) → keepFull (t.cluster g) = false →
          exec (.ringNotify p) s = .next (dropPkt (devDone t g) p)))) ∧
    (∀ p q desc g slot key, Spec.comes s p q → q.body = .ringNote desc g slot key → q.hart < 65536 → earlierOpen s q 4 = true →
      exec (.ringNotify p) s = .next s) ∧
    (∀ n desc slot, SMap.find? s.pkg.rings n = some (desc, slot) →
      (cluGone s (n / 64) = true → exec (.hostRingPoll n) s = .next s) ∧
      (cluGone s (n / 64) = false →
        (∀ t v, takeSlot s (n / 64) slot desc (some n) = (t, true, v) → exec (.hostRingPoll n) s = .next (devDone t (n / 64))) ∧
        (∀ dl l bad, devRead s (n / 64) slot true 1 desc 32 = (s, .ok dl false) → let d := parseRing dl
          d.valid = true → d.cons = 1 → d.kind = 1 → devRead s (n / 64) slot true 2 (d.slot d.cidx) d.slotBytes = (s, .ok l bad) →
          let W := devWrites s (n / 64) slot true 0 [(desc + 20, toBytes 4 (d.cidx + 1))]
          (leAt (l.drop (d.slotBytes - 8)) 0 1 % 2 = d.phase d.cidx → W.2 = .done →
            if mayUse s slot (leAt l 42 2) then ∃ t k, exec (.hostRingPoll n) s = .next t ∧
              t.net = s.net ++ [k] ∧ k.slot = some slot ∧ k.body = .launch (parseLaunch l slot desc (some n)) ∧ t.mem = W.1.mem
            else exec (.hostRingPoll n) s = .next (devDone s (n / 64))) ∧
          (leAt (l.drop (d.slotBytes - 8)) 0 1 % 2 ≠ d.phase d.cidx →
            exec (.hostRingPoll n) s = .next (devDone s (n / 64)))))) ∧
    (∀ p q L, Spec.comes s p q → q.body = .launch L →
      (L.key = 0 →
        (∀ t v, pushCompletion s L (2 ^ 31) 0 = (t, true, v) → exec (.launchStart p) s = .next (dropPkt (devDone t L.tree) p)) ∧
        (∀ t w, pushCompletion s L (2 ^ 31) 0 = (t, false, some w) → exec (.launchStart p) s = .next (devAsk s L.tree L.slot w)) ∧
        (∀ t, pushCompletion s L (2 ^ 31) 0 = (t, false, none) → exec (.launchStart p) s = .next (devDone t L.tree))) ∧
      (L.key ≠ 0 → freePlace s L.tree = none → exec (.launchStart p) s = .next s) ∧
      (∀ i, L.key ≠ 0 → freePlace s L.tree = some i → launchFits s L = true → keepFull (s.cluster L.tree) = false → L.groups = 0 → p ≠ s.nextId →
        ∃ t K k, exec (.launchStart p) s = .next t ∧ launchOf t (L.tree * 16 + i) = some K ∧ K.trec = L ∧ K.ended = false ∧
          t.net.getLast? = some k ∧ (∃ direct ser, let r := { L.root with hop := 0, hdie := dieOf L.tree, hclu := L.tree % 64 }
            k.body = .task { r with hpkg := s.pkg.number % 4096, slot := L.slot, ser := ser } [] (L.tree * 16 + i) L.tree direct) ∧
          (∀ c ∈ ((regionOf L).map coresOf).flatten, keyHeld (t.core c) L.key = true) ∧ t.mem = s.mem)) ∧
    (∀ p q n, Spec.comes s p q → q.body = .launchEnd n →
      (launchOf s n = none → exec (.launchEndNotice p) s = .next (dropPkt s p)) ∧
      (∀ L V, launchOf s n = some L → L.killed = false → viewOf s L.trec.tree n = some V → V.collecting = false → V.kids ≠ [] →
        kidsLeft s V = V.kids → ∃ t l, exec (.launchEndNotice p) s = .next t ∧ t.net = s.net ++ l ∧
          (l.map fun k => k.body) = V.kids.map (fun k => .collect n k) ∧ (∃ V', viewOf t L.trec.tree n = some V' ∧ V'.collecting = true) ∧
          ∃ K, launchOf t n = some K ∧ K.ended = true)) ∧
    (∀ p q n g, Spec.comes s p q → q.body = .collect n g →
      (launchOf s n = none → exec (.collect p) s = .next (dropPkt s p)) ∧
      (∀ L V, launchOf s n = some L → viewOf s g n = some V → cluGone s g = false → mayDone s g n = true →
        let up := if headOf L.trec (dieOf g) = some g then L.trec.tree else (headOf L.trec (dieOf g)).getD L.trec.tree
        ∃ t d, exec (.collect p) s = .next t ∧ t.net = s.net.filter (fun k => k.id != p) ++ [d] ∧ d.body = .done n up V.acc)) ∧
    (∀ p q n g st, Spec.comes s p q → q.body = .done n g st → ∃ t, exec (.done p) s = .next t ∧ t.net = s.net.filter (fun k => k.id != p) ∧
      (t.cluster g).launches = (s.cluster g).launches.map fun V =>
        if V.handle = n then { V with acc := Nat.lor V.acc st, kids := V.kids.filter fun k => k != q.hart - 65536 } else V) ∧
    (∀ n, (launchOf s n = none → exec (.completionRingRetry n) s = .next s) ∧
      (∀ L st, launchOf s n = some L → L.pushing = some st → ∀ t v,
        pushCompletion s L.trec (Nat.lor st (statusOf s n)) ((s.core (mordantCore L.trec.tree)).cycle - L.start) = (t, true, v) →
        ∃ u, exec (.completionRingRetry n) s = .next u ∧ u = retireLaunch (devDone t L.trec.tree) n ∧ launchOf u n = none))

namespace Sys2Proof.Spec
open Sys2Proof Sys2Proof.Machine

/-- The core that holds deposit p, with it. -/
def heldAt (s : State) (p : Nat) : Option (Nat × Packet) :=
  (s.cores.filterMap fun (x : Nat × Core) => (x.2.deposits.find? fun q => q.id == p).map fun q => (x.1, q)).head?

/-- R288, R294, R297: deposits. -/
def deposits : Prop :=
  ∀ s : State,
    (∀ p q n v, comes s p q → q.body = .deposit n v → bankBlocked s q = false → msgBlocked s q = false → leavesPkg s q.body = false →
      (n / 2 ^ 60 = 8 → refusal s q.hart (joinLoc n) q.key = none → (s.core (coreOfLoc (joinLoc n))).feWait = [] →
        ∃ t, exec (.depositArrival p) s = .next t ∧ t.mem = s.mem.writeBytes (joinLoc n) (toBytes 8 v.toNat) ∧
          (t.gbits (joinLoc n)).fe = true ∧ inNet t p (ackOf q)) ∧
      (n / 2 ^ 60 ≠ 8 → n / 2 ^ 60 ≠ 9 →
        let h := epCore (tgtEp n) * 4 + n / 32 % 4
        let r := n % 32
        let c := epCore (tgtEp n)
        (homeErr s c q.key = some 56 → exec (.depositArrival p) s = .next (failPkt s q 56)) ∧
        (homeErr s c q.key = none →
          (stampOk s h n q.slot = false → exec (.depositArrival p) s = .next (failPkt s q 56)) ∧
          (stampOk s h n q.slot = true →
            (r = 0 → exec (.depositArrival p) s = .next (putPkt s (ackOf q))) ∧
            (r ≠ 0 → r ∈ (s.hart h).armed → ∃ t, exec (.depositArrival p) s = .next t ∧
              t = putPkt (s.modHart h fun H => depositLands H r v) (ackOf q) ∧ (t.hart h).getX r = v ∧
              (t.hart h).armed = (s.hart h).armed.erase r ∧ (t.hart h).stalled ≠ some (.armed .x r) ∧ (t.hart h).stalled ≠ some .wfm ∧
              (∀ k, k < 32 → k ≠ r → (t.hart h).getX k = (s.hart h).getX k) ∧ (t.hart h).pc = (s.hart h).pc) ∧
            (r ≠ 0 → r ∉ (s.hart h).armed → (s.core c).deposits.length < 16 → ∃ t, exec (.depositArrival p) s = .next t ∧
              (t.core c).deposits = (s.core c).deposits ++ [q] ∧ findPkt t p = none ∧ t.harts = s.harts ∧ t.mem = s.mem) ∧
            (r ≠ 0 → r ∉ (s.hart h).armed → 16 ≤ (s.core c).deposits.length → exec (.depositArrival p) s = .next (failPkt s q 56)))))) ∧
    (∀ p c q, heldAt s p = some (c, q) →
      ((s.core c).feLimit = 0 → exec (.depositHoldTimeout p) s = .next s) ∧
      ((s.core c).feLimit ≠ 0 → ∃ t, exec (.depositHoldTimeout p) s = .next t ∧
        (t.core c).deposits = (s.core c).deposits.filter (fun r => r.id != p) ∧ t.net = s.net ++ [errReply q 56])) ∧
    (∀ h file r, (s.hart h).stalled = some (.armed file r) → (s.core (coreOf h)).feLimit = 0 ∨ stillEmpty (s.hart h) file r = false →
      exec (.armedReadTimeout h) s = .next s) ∧
    (∀ h file r, (s.hart h).stalled = some (.armed file r) → (s.core (coreOf h)).feLimit ≠ 0 → stillEmpty (s.hart h) file r = true →
      exec (.armedReadTimeout h) s = .next (takeTrap s h false 28 (BitVec.ofNat 64 (2 ^ 63 + (if file = .v then 64 else 0) + r))))

/-- R299 to R304: handler messages. -/
def handlers : Prop :=
  ∀ s : State,
    (∀ p q n image words data, comes s p q → q.body = .handler n image words data false → msgBlocked s q = false → leavesPkg s q.body = false →
      let c := epCore (tgtEp n)
      homeErr s c q.key = none →
      (freeSlot (s.core c) (n / 32 % 4) = none → exec (.handlerMessageArrival p) s = .next (setBody s p (.handler n image words data true))) ∧
      (∀ k, freeSlot (s.core c) (n / 32 % 4) = some k → ∃ t e, exec (.handlerMessageArrival p) s = .next t ∧
        t.mem = s.mem.writeBytes (winBase c + 0x10000 + 256 * k) (slotBytes words data) ∧ SMap.find? (t.core c).inbox k = some e ∧
        e.scanned = false ∧ e.count = words.length ∧ e.src = q.hart ∧ e.slot = q.slot ∧ e.key = q.key ∧ e.target = n ∧ e.image = image ∧
        inNet t p (ackOf q))) ∧
    (∀ p q n image words data, inNet s p q → q.body = .handler n image words data true →
      exec (.handlerResend p) s = .next (setBody s p (.handler n image words data false)) ∧
      ((s.core (coreOf q.hart)).feLimit ≠ 0 → exec (.handlerResendTimeout p) s = .next (writeErrRec (dropPkt s p) q.hart 4 0 0 n image)) ∧
      ((s.core (coreOf q.hart)).feLimit = 0 → exec (.handlerResendTimeout p) s = .next s)) ∧
    (∀ c k e, SMap.find? (s.core c).inbox k = some e → e.scanned = false → k < 28 →
      let ws := (List.range e.count).map fun i => BitVec.ofNat 32 (ofBytes (s.mem.readBytes (winBase c + 0x10000 + 256 * k + 4 * i) 4))
      (handlerScan ws = none → exec (.handlerScan c k) s = .next (s.modCore c fun C => { C with inbox := SMap.put C.inbox k { e with scanned := true } })) ∧
      (∀ j r, handlerScan ws = some (j, r) → ∃ t d, exec (.handlerScan c k) s = .next t ∧ SMap.find? (t.core c).inbox k = none ∧
        t.net = s.net ++ [d] ∧ d.body = .errorRecord e.src 1 r j e.target e.image)) ∧
    (∀ h n e, h < 32768 → oldestHandler (s.core (coreOf h)) (hartIn h) (s.hart h).running = some n → SMap.find? (s.core (coreOf h)).inbox n = some e →
      handlerReady s h e.slot = true → mayLeave (s.hart h) = true →
      (stampOk s h e.target e.slot = true → ∃ t r, exec (.handlerEntry h) s = .next t ∧ (t.hart h).handler = some r ∧ r.inslot = n ∧
        r.slot = e.slot ∧ r.key = e.key ∧ r.le = leBit (s.hart h).csr ∧ r.chk = (s.hart h).chk ∧
        r.x28 = (s.hart h).getX 28 ∧ r.x29 = (s.hart h).getX 29 ∧ r.x30 = (s.hart h).getX 30 ∧ r.x31 = (s.hart h).getX 31 ∧
        r.pc = (match (s.hart h).vloop with | some w => w.pc | none => (s.hart h).pc) ∧
        (t.hart h).pc = BitVec.ofNat 64 (0x10000 + 256 * n) ∧ (t.hart h).mode = .U ∧ (t.hart h).free = false ∧ (t.hart h).chk.act = false ∧ leBit (t.hart h).csr = false ∧
        (t.hart h).getX 28 = BitVec.ofNat 64 (0xC000000000010000 + 256 * n + 96) ∧ (t.hart h).getX 29 = senderWord s e.src ∧
        (t.hart h).getX 30 = BitVec.ofNat 64 (8 * e.dlen) ∧ (t.hart h).getX 31 = BitVec.ofNat 64 n ∧
        (∀ k, k ≠ h → t.hart k = s.hart k) ∧ t.mem = s.mem) ∧
      (stampOk s h e.target e.slot = false → ∃ t d, exec (.handlerEntry h) s = .next t ∧ SMap.find? (t.core (coreOf h)).inbox n = none ∧
        t.net = s.net ++ [d] ∧ d.body = .errorRecord e.src 2 0 0 e.target e.image ∧ t.harts = s.harts))

/-- R309, R310, R312, R315: channel images and contexts. -/
def channels : Prop :=
  ∀ s : State,
    (∀ p q ep hart tag seq v reg, comes s p q → q.body = .channel ep hart tag seq v reg false → msgBlocked s q = false → leavesPkg s q.body = false →
      homeErr s (epCore ep) q.key = none →
      let h := epCore ep * 4 + hart
      (inboundReg (s.hart h) tag = none → exec (.channelPacketArrival p) s = .next (setBody s p (.channel ep hart tag seq v reg true))) ∧
      (∀ r b, inboundReg (s.hart h) tag = some (r, b) →
        (seq ≠ b.seq ∨ 4 ≤ b.buf.length ∨ (b.peer ≠ none ∧ b.peer ≠ some q.hart) → exec (.channelPacketArrival p) s = .next (setBody s p (.channel ep hart tag seq v reg true))) ∧
        (seq = b.seq → b.buf.length < 4 → b.peer = none ∨ b.peer = some q.hart → ∃ t, exec (.channelPacketArrival p) s = .next t ∧
          streamOf (t.hart h) r = some { b with buf := b.buf ++ [.ok v], seq := (b.seq + 1) % 16, peer := some q.hart } ∧ inNet t p (ackOf q)))) ∧
    (∀ h v, ∃ t, exec (.channelResend h v) s = .next t ∧ t.mem = s.mem ∧ t.harts = s.harts ∧ t.net = s.net.map fun q => match q.body with
      | .channel ep hart tag seq d reg true => if q.hart = h ∧ reg = v then { q with body := .channel ep hart tag seq d reg false } else q
      | _ => q) ∧
    (∀ p q ep hart tag seq v reg refused, comes s p q → q.body = .channel ep hart tag seq v reg refused →
      ((s.core (coreOf q.hart)).feLimit ≠ 0 → exec (.channelImageTimeout p) s = .next (failPkt s q 56)) ∧
      ((s.core (coreOf q.hart)).feLimit = 0 → exec (.channelImageTimeout p) s = .next s)) ∧
    (∀ p q c x t e, comes s p q → q.body = .context c x false → heldBack s q = false → homeErr s c q.key = none →
      typeLookup s (cluOf c) x.launch x.trec.ty = (t, .ok e) → let C := t.core c
      (C.arrQ.length < 48 → C.spill = [] → ∃ u d, exec (.contextArrival p) s = .next u ∧ (u.core c).arrQ = C.arrQ ++ [{ x with cost := e.cbase + e.crow }] ∧
        (u.core c).landed = C.landed + 1 ∧ (u.cluster (cluOf c)).q = (t.cluster (cluOf c)).q + e.cbase + e.crow ∧
        u.net.getLast? = some d ∧ d.body = .accepted x.trec.ser (x.trec.hpkg * 512 + (x.trec.hdie * 64 + x.trec.hclu)) (cluOf c)) ∧
      (48 ≤ C.arrQ.length ∨ C.spill ≠ [] → C.spill.length < 4096 → let k := freeEntry C
        ∃ u, exec (.contextArrival p) s = .next u ∧ (u.core c).spill = C.spill ++ [{ x with cost := e.cbase + e.crow, entry := k }] ∧
        u.mem = t.mem.writeBytes (spillEntry c k) (recBytes x.trec ++ wordsBytes x.regs) ∧ (u.core c).spills = C.spills + 1 ∧ (u.core c).arrQ = C.arrQ) ∧
      (4096 ≤ C.spill.length → exec (.contextArrival p) s = .next (setBody t p (.context c x true)))) ∧
    (∀ p q c x, inNet s p q → q.body = .context c x true → exec (.contextResend p) s = .next (setBody s p (.context c x false))) ∧
    (∀ c x r, (s.core c).spill = x :: r →
      (48 ≤ (s.core c).arrQ.length → exec (.spillRefill c) s = .next s) ∧
      ((s.core c).arrQ.length < 48 → let y := refilled s c x
        (y.1.trec = parseRec (s.mem.readBytes (spillEntry c x.entry) 96) ∧ (y.2 = true ↔ poisonedAt s (spillEntry c x.entry) 96 ≠ none)) ∧
        (y.2 = false → ∃ t, exec (.spillRefill c) s = .next t ∧ (t.core c).spill = r ∧
          (t.core c).arrQ = (s.core c).arrQ ++ [y.1] ∧ t.mem = s.mem ∧ t.harts = s.harts) ∧
        (y.2 = true → exec (.spillRefill c) s = .next (loseCtx (s.modCore c fun C => { C with spill := r }) (cluOf c) x))))

end Sys2Proof.Spec

/-- R288, R294, R297, R299 to R304, R309, R310, R312, R315: deposits, handlers, channels and contexts. -/
def Obligations.MessageSteps : Prop := Spec.deposits ∧ Spec.handlers ∧ Spec.channels

namespace Sys2Proof.Spec
open Sys2Proof Sys2Proof.Machine

/-- R378, R379, R381: what an output port sends at a flit boundary: a Vermilion packet in progress, else the highest class
that is due, else the highest class with a flit ready; in a class the packet in progress, else a waiting packet of the next
virtual channel in turn. The flit goes out with the next LSEQ and stays in the replay buffer; a class below the one sent
counts it, is due from the count of 48, and stays due for 4 flits or to the end of its packet. -/
def arbitration : Prop :=
  ∀ (s : State) (l : Nat), let L := linkOf s l
    ((SMap.find? L.prog 0).isSome = true → chooseClass L = some 0) ∧
    ((SMap.find? L.prog 0).isSome = false → ∀ c, c = 1 ∨ c = 2 → (SMap.find? L.due c).isSome = true → hasClass L c = true →
      (∀ b, 1 ≤ b → b < c → (SMap.find? L.due b).isSome = false ∨ hasClass L b = false) → chooseClass L = some c) ∧
    ((SMap.find? L.prog 0).isSome = false → (∀ c, c = 1 ∨ c = 2 → (SMap.find? L.due c).isSome = false ∨ hasClass L c = false) →
      (∀ c, c < 3 → hasClass L c = true → (∀ b, b < c → hasClass L b = false) → chooseClass L = some c) ∧
      ((∀ c, c < 3 → hasClass L c = false) → chooseClass L = none)) ∧
    (∀ c o, SMap.find? L.prog c = some o → choosePkt L c = some o) ∧
    (∀ c i o, SMap.find? L.prog c = none → i < 4 → let vc := fun k => (SMap.get 3 L.lastVc c + 1 + k) % 4
      (∀ k, k < i → ∀ e ∈ L.queue, ¬(e.cls = c ∧ e.vc = vc k)) → (L.queue.find? fun e => e.cls == c && e.vc == vc i) = some o →
      choosePkt L c = some o) ∧
    (l < 16384 → canSend s l = false ∨ chooseClass L = none → portTurn l s = s) ∧
    (∀ c o, l < 16384 → canSend s l = true → chooseClass L = some c → choosePkt L c = some o →
      let K := linkOf (portTurn l s) l
      K.txNext = (L.txNext + 1) % 4096 ∧ (K.unacked.map fun f => f.lseq) = (L.unacked.map fun f => f.lseq) ++ [L.txNext] ∧
      (K.wire.map fun e => e.1) = (L.wire.map fun e => e.1) ++ [o.id] ∧
      SMap.find? K.prog o.cls = (if o.flits.tail = [] then none else some { o with gone := o.gone + 1, flits := o.flits.tail }) ∧
      SMap.get 3 K.lastVc o.cls = o.vc ∧ (portTurn l s).mem = s.mem ∧ (portTurn l s).harts = s.harts ∧ (portTurn l s).net = s.net ∧
      (∀ b, b = 1 ∨ b = 2 →
        (b = o.cls → SMap.get 0 K.counts b = 0 ∧ SMap.find? K.due b =
          match SMap.find? L.due b with | some n => if o.flits.tail = [] ∨ n ≤ 1 then none else some (n - 1) | none => none) ∧
        (o.cls < b → hasClass L b = true → SMap.get 0 K.counts b = SMap.get 0 L.counts b + 1 ∧
          ((SMap.find? L.due b).isSome = false → 48 ≤ SMap.get 0 L.counts b + 1 → SMap.find? K.due b = some 4))))

/-- R380 to R384: a flit that fails its check or is out of order is answered with a NAK; one in order advances the link and
joins its context, a HEAD that opens one and a TAIL that closes one, whose packet then goes on; a flit that breaks a context
drops the link; acknowledgements are cumulative and a NAK replays. A link drops at both its ends with its replay buffers and
contexts, its lost packets answered (which of them nothing answers is the model's reading, log 65), retrains or is retired. -/
def linkSteps : Prop :=
  ∀ (s : State) (l : Nat), let L := linkOf s l
    (∀ f, ¬(256 ≤ l ∧ l < 272) → openFlit s l f = if leAt f 6 2 = crc16 (f.take 6 ++ f.drop 8) then some (f, 0) else none) ∧
    (∀ f, offWire s l = none → exec (.flitReceive l f) s = .next s) ∧
    (∀ f id u, offWire s l = some (id, u) → let M := linkOf u l
      (M.up = false ∨ f.length ≠ 72 → exec (.flitReceive l f) s = .next u) ∧
      (M.up = true → f.length = 72 →
        (openFlit u l f = none → exec (.flitReceive l f) s = .next (sendControl u l true)) ∧
        (∀ g n, openFlit u l f = some (g, n) → let w := leAt g 0 8
          let ack := w / 2 ^ 20 % 4096
          let k := w % 4 * 4 + w / 4 % 4
          let old := SMap.find? M.ctxs k
          let next := fun (v : State) => v.mem = s.mem ∧ v.harts = s.harts ∧ v.net = s.net ∧ (linkOf v l).rxNext = (M.rxNext + 1) % 4096
          (w % 4 = 3 → w / 128 % 2 = 0 → exec (.flitReceive l f) s = .next (ackUpTo u l ack)) ∧
          (w % 4 = 3 → w / 128 % 2 = 1 → exec (.flitReceive l f) s = .next (replay (ackUpTo u l ack) l ((ack + 1) % 4096))) ∧
          (w % 4 ≠ 3 → w / 128 % 2 = 0 → w / 256 % 4096 ≠ M.rxNext →
            exec (.flitReceive l f) s = .next (sendControl (ackUpTo u l ack) l true)) ∧
          (w % 4 ≠ 3 → w / 128 % 2 = 0 → w / 256 % 4096 = M.rxNext →
            ((w / 16 % 2 = 1 ↔ old ≠ none) → ∃ v, exec (.flitReceive l f) s = .next (dropLink v l) ∧ next v) ∧
            ((w / 16 % 2 = 1 ↔ old = none) → let fs := old.getD [] ++ [g.drop 8]
              (w / 32 % 2 = 0 → ∃ v, exec (.flitReceive l f) s = .next v ∧ next v ∧ SMap.find? (linkOf v l).ctxs k = some fs) ∧
              (w / 32 % 2 = 1 → ∃ v, next v ∧ SMap.find? (linkOf v l).ctxs k = none ∧ exec (.flitReceive l f) s = .next
                (if 256 ≤ l ∧ l < 272 then gatewayTake v (l - 256) (leAt fs.flatten 14 2) fs.flatten else arriveAt v l id))))))) ∧
    (∀ n, exec (.nak l n) s = .next (replay (ackUpTo s l ((n + 4095) % 4096)) l n)) ∧
    (∀ i n, (L.unacked.findIdx? fun f => f.lseq == n) = some i → (linkOf (ackUpTo s l n) l).unacked = L.unacked.drop (i + 1) ∧
      (linkOf (replay s l n) l).wire.length = L.wire.length + (L.unacked.length - i)) ∧
    (L.up = true → ∃ t, exec (.linkControlFlit l) s = .next t ∧ (linkOf t l).txNext = L.txNext ∧
      let w := controlWord (L.rxNext + 4095) L.txNext false ((portOf s (l - 256)).gen && decide (256 ≤ l ∧ l < 272)) false false 0 3
      (linkOf t l).wire = L.wire ++ [(0, wireFlit s l (controlNum w) (toBytes 8 w ++ List.replicate 64 0))]) ∧
    (L.up = false → exec (.linkControlFlit l) s = .next s) ∧
    (isLink l = false → exec (.linkDrop l) s = .next s) ∧
    (isLink l = true → ∃ t, exec (.linkDrop l) s = .next t ∧ t.mem = s.mem ∧
      (∀ e, e = l ∨ (¬(256 ≤ l ∧ l < 272) ∧ e = otherEnd l) → let K := linkOf t e
        K.up = false ∧ K.unacked = [] ∧ K.wire = [] ∧ K.ctxs = [] ∧ K.prog = [] ∧ K.isRetired = (linkOf s e).isRetired)) ∧
    (L.up = false → L.isRetired = false →
      (∃ t, exec (.linkRetrained l) s = .next t ∧ linkOf t l = { L with up := true, txNext := 0, rxNext := 0 } ∧
        (256 ≤ l → l < 272 → (portOf t (l - 256)).rotating = none) ∧
        (¬(256 ≤ l ∧ l < 272) → linkOf t (otherEnd l) = { linkOf s (otherEnd l) with up := true, txNext := 0, rxNext := 0 })) ∧
      (l < 160 → ∃ t, exec (.retrainTimeout l) s = .next t ∧ (∀ e, e / 2 = l / 2 → (linkOf t e).isRetired = true ∧ (linkOf t e).up = false) ∧
        (4, l / 2) ∈ t.pkg.nv))

/-- R387 to R389: a packet of a peer is taken once; stored packets are acknowledged, sent again or given up. -/
def endToEnd : Prop :=
  ∀ (s : State) (k : Nat),
    (∀ e b, let n := leAt b 0 16 / 2 ^ 44 % 2 ^ 25 / 2 ^ 13
      let sacks := leAt b 0 16 / 2 ^ 104 % 2 ^ 8 = sackKind % 2 ^ 8
      (sacks → exec (.gatewayPacketArrival k e b) s = .next (takeSack s k n (leAt b 16 2) (BitVec.ofNat 64 (leAt b 18 8)))) ∧
      (¬sacks → match wirePacket b with
        | none => exec (.gatewayPacketArrival k e b) s = .next s
        | some p => (∀ c n x y, p.body ≠ .beacon c n x y) →
          let q := peerOf s k n
          let d := (e % 65536 + 65536 - q.base) % 65536
          (d < 64 → q.bitmap.getLsbD d = false → ∃ t, exec (.gatewayPacketArrival k e b) s = .next t ∧
            ((peerOf t k n).base, (peerOf t k n).bitmap) = slideBase 64 q.base (q.bitmap ||| (1#64 <<< d))) ∧
          ((d < 64 ∧ q.bitmap.getLsbD d = true) ∨ 32768 ≤ d → exec (.gatewayPacketArrival k e b) s = .next (sendSack s k n)) ∧
          (64 ≤ d → d < 32768 → exec (.gatewayPacketArrival k e b) s = .next s))) ∧
    (∀ n base m, k < 16 → ∃ t, exec (.sack (k + 16 * n) base m) s = .next t ∧
      (peerOf t k n).store = (peerOf s k n).store.filter (fun x => !covered base m x.1) ∧
      (∀ j, j ≠ n → peerOf t k j = peerOf s k j) ∧ t.mem = s.mem ∧ t.harts = s.harts) ∧
    (∀ n, ((peerOf s k n).bitmap = 0 → exec (.sackTimer k n) s = .next s) ∧
      ((peerOf s k n).bitmap ≠ 0 → exec (.sackTimer k n) s = .next (sendSack s k n))) ∧
    (∀ n e p i, let q := peerOf s k n
      k < 16 → (q.store.find? fun x => x.1 == e && decide (x.2.2 < 8)) = some (e, p, i) →
      ∃ t, exec (.e2eResend (k + 16 * n) e) s = .next t ∧
        (peerOf t k n).store = q.store.map (fun x => if x.1 = e then (x.1, x.2.1, x.2.2 + 1) else x) ∧
        ((linkOf t (256 + k)).queue.map fun o => o.id) = ((linkOf s (256 + k)).queue.map fun o => o.id) ++ [p.id] ∧
        (∀ j, j ≠ n → peerOf t k j = peerOf s k j)) ∧
    (∀ n, (∃ x ∈ (peerOf s k n).store, 8 ≤ x.2.2) → (peerOf s k n).unreachable = false → ∃ t, exec (.peerUnreachable k n) s = .next t ∧
      (peerOf t k n).unreachable = true ∧ (peerOf t k n).store = [] ∧ (k, n) ∈ t.pkg.notices ∧ (5, k) ∈ t.pkg.nv)

/-- R395, R396, R398, R399: a multicast copy fills its line; a group's version and a key's rotation come to their end, the
latter once a flit sent under the new key is acknowledged. -/
def groupsAndKeys : Prop :=
  ∀ s : State,
    (∀ p q c off b grp tag, comes s p q → q.body = .mcw c off b grp tag → bankBlocked s q = false → homeErr s c q.key = none →
      c < 8192 → off < 2 ^ 17 → off % 64 = 0 → b.length = 64 → (s.core c).feWait = [] → ∃ t, exec (.mcwCopyArrival p) s = .next t ∧
        t.mem = s.mem.writeBytes (padBase c + off) b ∧ findPkt t p = none ∧ ∀ i, i < 4 → (t.gbits (padBase c + off + 16 * i)).fe = true) ∧
    (∀ p q n g k v m, comes s p q → q.body = .group n g k v m →
      (g ≠ cluOfHart q.hart ∨ (∀ r ∈ s.net, r.id = p ∨ ∀ c w x, r.body ≠ .group n c k w x)) → ∃ t, exec (.groupInstall p) s = .next t ∧
        groupOf' t g n k = (v, m) ∧ findPkt t p = none ∧ t.mem = s.mem ∧ t.harts = s.harts) ∧
    (∀ h n k v, (s.hart h).stalled = some (.grpw n k v) →
      ((∀ r ∈ s.net, (∀ c w x, r.body ≠ .group n c k w x) ∧ ∀ c o b tag, r.body = .mcw c o b (n * 256 + k) tag → tag % 256 = v) →
        exec (.grpwCompletion h) s = .next (s.modHart h fun H => { H with stalled := none })) ∧
      ((∃ r ∈ s.net, ∃ c w x, r.body = .group n c k w x) → exec (.grpwCompletion h) s = .next s)) ∧
    (∀ k i n, k < 16 → (portOf s k).rotating = some false → ((linkOf s (256 + k)).unacked.findIdx? fun f => f.lseq == n) = some i →
      (portOf (ackUpTo s (256 + k) n) k).rotating = some (((linkOf s (256 + k)).unacked.take (i + 1)).any fun f => f.fresh)) ∧
    (∀ k, ((portOf s k).rotating = some true → ∃ t, exec (.keyrotCompletion k) s = .next t ∧
        (portOf t k).rotating = none ∧ ∀ h, (s.hart h).stalled = some (.keyrotAck k) → (t.hart h).stalled = none) ∧
      ((portOf s k).rotating ≠ some true → exec (.keyrotCompletion k) s = .next s)) ∧
    (∀ h k, (s.hart h).stalled = some (.keyrot k) → (s.core (coreOf h)).feLimit ≠ 0 →
      exec (.keyrotTimeout h) s = .next (takeTrap s h false 28 (BitVec.ofNat 64 k)))

end Sys2Proof.Spec

/-- R378 to R384, R387 to R389, R395, R396, R398, R399: output ports, links, gateways, groups and key rotation. -/
def Obligations.LinkSteps : Prop := Spec.arbitration ∧ Spec.linkSteps ∧ Spec.endToEnd ∧ Spec.groupsAndKeys

namespace Sys2Proof.Spec
open Sys2Proof Sys2Proof.Machine

/-- s with one more response waiting, for want of a response ring (R415). -/
def answered (s : State) (tag status : Nat) (results : List Nat) : State :=
  s.modPkg fun P => { P with responses := P.responses ++ [responseBytes tag status results] }

/-- R417 to R419: process slots and host work rings. -/
def slotCommands : Prop :=
  ∀ (s : State) (tag : Nat), s.pkg.rspRing = 0 →
    (∀ pasid mode root,
      (2 ^ 20 ≤ pasid ∨ 3 < mode ∨ (∃ e ∈ s.pkg.procs, e.2.pasid = pasid) → exec (.attach tag pasid mode root) s = .next (answered s tag 1 [])) ∧
      (pasid < 2 ^ 20 → mode ≤ 3 → (∀ e ∈ s.pkg.procs, e.2.pasid ≠ pasid) →
        (∀ k, k < 1024 → SMap.find? s.pkg.procs k = none → (∀ j, j < k → SMap.find? s.pkg.procs j ≠ none) →
          exec (.attach tag pasid mode root) s = .next (answered
            (s.modPkg fun P => { P with procs := SMap.put P.procs k { pasid := pasid, mode := mode, root := root } }) tag 0 [k])) ∧
        ((∀ k, k < 1024 → SMap.find? s.pkg.procs k ≠ none) → exec (.attach tag pasid mode root) s = .next (answered s tag 2 [])))) ∧
    (∀ slot,
      (SMap.find? s.pkg.procs slot = none → exec (.detach tag slot) s = .next (answered s tag 1 [])) ∧
      (SMap.find? s.pkg.procs slot ≠ none →
        ((∃ e ∈ s.pkg.launches, e.2.trec.slot = slot) ∨ (∃ e ∈ s.pkg.rings, e.2.2 = slot) →
          exec (.detach tag slot) s = .next (answered s tag 3 [])) ∧
        ((∀ e ∈ s.pkg.launches, e.2.trec.slot ≠ slot) → (∀ e ∈ s.pkg.rings, e.2.2 ≠ slot) → ∃ t, exec (.detach tag slot) s = .next t ∧
          SMap.find? t.pkg.procs slot = none ∧ t.pkg.responses = s.pkg.responses ++ [responseBytes tag 0 []] ∧ t.mem = s.mem ∧
          ∀ d, d < 8 → ∀ e ∈ (t.die d).tlb, e.slot ≠ slot))) ∧
    (∀ n slot desc,
      (32768 ≤ n ∨ SMap.find? s.pkg.procs slot = none ∨ hostRing s desc = none → exec (.ringbind tag n slot desc) s = .next (answered s tag 1 [])) ∧
      (n < 32768 → SMap.find? s.pkg.procs slot ≠ none → (∃ d, hostRing s desc = some d ∧ d.kind = 1 ∧ d.cons = 1) →
        (SMap.find? s.pkg.rings n ≠ none → (∃ e ∈ s.pkg.launches, e.2.trec.hostRing = some n) →
          exec (.ringbind tag n slot desc) s = .next (answered s tag 3 [])) ∧
        (SMap.find? s.pkg.rings n = none ∨ (∀ e ∈ s.pkg.launches, e.2.trec.hostRing ≠ some n) → exec (.ringbind tag n slot desc) s = .next
          (answered (s.modPkg fun P => { P with rings := SMap.put P.rings n (desc, slot) }) tag 0 []))))

/-- R412, R416, R420, R421, R424: the other commands. -/
def unitCommands : Prop :=
  ∀ (s : State) (tag : Nat), s.pkg.rspRing = 0 →
    (∀ slot root lseq,
      (findLaunch s slot root lseq = none → exec (.endlaunch tag slot root lseq) s = .next (answered s tag 1 [])) ∧
      (∀ n, findLaunch s slot root lseq = some n → ∃ t L, exec (.endlaunch tag slot root lseq) s = .next t ∧
        launchOf t n = some L ∧ L.killed = true ∧ t.pkg.responses = s.pkg.responses ++ [responseBytes tag 0 []])) ∧
    (∀ u, u < 16 → ∃ t, exec (.retire tag 5 u) s = .next t ∧ (portOf t u).down = true ∧ (5, u) ∈ t.pkg.nv) ∧
    (∀ u, u < 8 → ∃ t, exec (.retire tag 3 u) s = .next t ∧ (t.die u).isFailed = true ∧
      ((s.die u).isFailed = false → (3, u) ∈ t.pkg.nv)) ∧
    (∀ kind u, 5 < kind ∨ (kind = 1 ∧ 8192 ≤ u) ∨ (kind = 2 ∧ 512 ≤ u) ∨ (kind = 3 ∧ 8 ≤ u) ∨ (kind = 4 ∧ 80 ≤ u) ∨ (kind = 5 ∧ 16 ≤ u) →
      exec (.retire tag kind u) s = .next (answered s tag 1 [])) ∧
    (∀ die clu addr len, let g := die * 64 + clu
      (8 ≤ die ∨ 64 ≤ clu ∨ len = 0 ∨ 65536 < len ∨ len % 4 ≠ 0 → exec (.reload tag die clu addr len) s = .next (answered s tag 1 [])) ∧
      (die < 8 → clu < 64 → 0 < len → len ≤ 65536 → len % 4 = 0 →
        (cluGone s g = true → exec (.reload tag die clu addr len) s = .next (answered s tag 3 [])) ∧
        (∀ u l, cluGone s g = false → devRead s g 0 true 1025 addr len = (u, .ok l false) →
          firmwareFault (loadMordant s g l) (8192 + g) (l.length / 4) ≠ none → exec (.reload tag die clu addr len) s = .next (answered s tag 1 [])) ∧
        (∀ u l, cluGone s g = false → devRead s g 0 true 1025 addr len = (u, .ok l false) →
          firmwareFault (loadMordant s g l) (8192 + g) (l.length / 4) = none → ∃ t, exec (.reload tag die clu addr len) s = .next t ∧
          (∀ i, i < l.length / 4 → SMap.get false (t.core (8192 + g)).exec i = true) ∧
          (∀ i, i < l.length → t.mem.read (padBase (8192 + g) + i) = l.getD i 0) ∧ t.pkg.reloads = s.pkg.reloads + 1 ∧
          SMap.get [] t.pkg.measured 2 = Config.sha384 l ∧ (t.core (8192 + g)).isSealed = false ∧
          (t.core (8192 + g)).cycle = (s.core (8192 + g)).cycle ∧ t.hart (32768 + g) = {}))) ∧
    (∀ base len off,
      let fits := 0 < len ∧ len % 2 ^ 36 = 0 ∧ off + len ≤ 2 ^ 40 ∧ off % 64 = 0 ∧ base % 64 = 0
      let quiet := s.pkg.launches = [] ∧ s.pkg.rings = [] ∧ s.pkg.chk = none
      (¬fits → exec (.chkpt tag base len off) s = .next (answered s tag 1 []) ∧ exec (.restore tag base len off) s = .next (answered s tag 1 [])) ∧
      (fits → ¬quiet → exec (.chkpt tag base len off) s = .next (answered s tag 3 []) ∧ exec (.restore tag base len off) s = .next (answered s tag 3 [])) ∧
      (fits → quiet → exec (.chkpt tag base len off) s = .next (s.modPkg fun P => { P with chk := some (false, tag, base, len, off) }) ∧
        exec (.restore tag base len off) s = .next (s.modPkg fun P => { P with chk := some (true, tag, base, len, off) }))) ∧
    (s.pkg.chk = none → exec .chkptCompletion s = .next s) ∧
    (∀ base len off, s.mem.wf = true → off + len ≤ 2 ^ 40 → base + len ≤ 2 ^ 52 →
      (s.pkg.chk = some (false, tag, base, len, off) → ∃ t, exec .chkptCompletion s = .next t ∧ t.pkg.chk = none ∧
        t.pkg.responses = s.pkg.responses ++ [responseBytes tag 0 [len]] ∧
        ∀ i, i < len → t.mem.read (physLoc s (base + i)) = s.mem.read (hbmLoc (off + i))) ∧
      (s.pkg.chk = some (true, tag, base, len, off) → ∃ t, exec .chkptCompletion s = .next t ∧ t.pkg.chk = none ∧
        t.pkg.responses = s.pkg.responses ++ [responseBytes tag 0 [len]] ∧
        ∀ i, i < len → t.mem.read (hbmLoc (off + i)) = s.mem.read (physLoc s (base + i)))) ∧
    (∀ die clu buf,
      (8 ≤ die ∨ 64 ≤ clu ∨ buf % 64 ≠ 0 → exec (.counters tag die clu buf) s = .next (answered s tag 1 [])) ∧
      (die < 8 → clu < 64 → buf % 64 = 0 → cluGone s (die * 64 + clu) = true → exec (.counters tag die clu buf) s = .next (answered s tag 3 [])) ∧
      (die < 8 → clu < 64 → buf % 64 = 0 → cluGone s (die * 64 + clu) = false → ∃ t, exec (.counters tag die clu buf) s = .next (answered t tag 0 [1024]) ∧
        t = (devWrites s 0 0 true 0 ((List.range 16).map fun i =>
          (buf + 64 * i, ((countersBlock s (die * 64 + clu)).drop (64 * i)).take 64))).1))

/-- R414, R415: a command record has the effect of the step its OP names, and the command ring is polled. -/
def commandRecords : Prop :=
  ∀ (s : State) (l : List (BitVec 8)),
    let tag := leAt l 4 4
    let a := fun i => leAt l (8 + 8 * i) 8
    let runs := fun i => exec i s = .next (runCommand s l)
    (leAt l 2 2 = 0 →
      (leAt l 0 2 = 1 → runs (.attach tag (a 0) (a 1) (a 2))) ∧ (leAt l 0 2 = 2 → runs (.detach tag (a 0))) ∧
      (leAt l 0 2 = 3 → runs (.ringbind tag (a 0) (a 1) (a 2))) ∧ (leAt l 0 2 = 4 → runs (.endlaunch tag (a 0) (a 1) (a 2))) ∧
      (leAt l 0 2 = 5 → runs (.retire tag (a 0) (a 1))) ∧ (leAt l 0 2 = 6 → runs (.reload tag (a 0) (a 1) (a 2) (a 3))) ∧
      (leAt l 0 2 = 7 → runs (.chkpt tag (a 0) (a 1) (a 2))) ∧ (leAt l 0 2 = 8 → runs (.restore tag (a 0) (a 1) (a 2))) ∧
      (leAt l 0 2 = 9 → runs (.counters tag (a 0) (a 1) (a 2)))) ∧
    (s.pkg.rspRing = 0 → leAt l 2 2 ≠ 0 ∨ leAt l 0 2 = 0 ∨ 9 < leAt l 0 2 → runCommand s l = answered s tag 1 []) ∧
    (∀ v, exec (.cmdringWrite v) s = .next (s.modPkg fun P => { P with cmdRing := v })) ∧
    (s.pkg.responses = [] →
      (s.pkg.cmdRing = 0 ∨ s.pkg.chk ≠ none → exec .cmdRingPoll s = .next s) ∧
      (∀ d u, s.pkg.cmdRing ≠ 0 → s.pkg.chk = none → hostRing s s.pkg.cmdRing.toNat = some d → d.kind = 2 → d.size = 0 →
        devRead s 0 0 true 1 (d.slot d.cidx) 64 = (u, .ok l false) →
        (leAt l 56 1 % 2 ≠ d.phase d.cidx → exec .cmdRingPoll s = .next s) ∧
        (leAt l 56 1 % 2 = d.phase d.cidx →
          ∀ t, devWrites s 0 0 true 0 [(s.pkg.cmdRing.toNat + 20, toBytes 4 (d.cidx + 1))] = (t, .done) →
            exec .cmdRingPoll s = .next (runCommand t l))))

/-- R180, R413, R414: the CXL side. -/
def cxlSteps : Prop :=
  ∀ (s : State) (port addr : Nat),
    let b := s.pkg.hdmBase.toNat
    let open_ := fun n => port < 2 ∧ SMap.get false s.pkg.cxlDown port = false ∧ s.pkg.hdmSet = true ∧ b ≤ addr ∧ addr + n ≤ b + 2 ^ 40 ∧
      0 < n ∧ addr / 64 = (addr + n - 1) / 64
    (∀ n, (open_ n → ∃ t, exec (.cxlMemAccess port addr n none) s = .next t ∧ t.pkg.cxlData = s.mem.readBytes (2 ^ 64 + (addr - b)) n ∧
        t.pkg.cxlPoison = (poisonedAt s (2 ^ 64 + (addr - b)) n).isSome ∧ t.mem = s.mem ∧ t.harts = s.harts) ∧
      (¬open_ n → exec (.cxlMemAccess port addr n none) s = .next s)) ∧
    (∀ n l, (open_ l.length → ∃ t, exec (.cxlMemAccess port addr n (some l)) s = .next t ∧ t.mem = s.mem.writeBytes (2 ^ 64 + (addr - b)) l ∧
        t.harts = s.harts ∧ t.net = s.net) ∧
      (¬open_ l.length → exec (.cxlMemAccess port addr n (some l)) s = .next s)) ∧
    (∀ up, port < 2 → ∃ t, exec (.cxlPortDown port up) s = .next t ∧ SMap.get false t.pkg.cxlDown port = !up ∧ t.mem = s.mem) ∧
    exec (.hdmDecoderSet addr) s = .next (s.modPkg fun P => { P with hdmBase := BitVec.ofNat 64 addr, hdmSet := true })

/-- R424: what the SPDM responder answers (its codes are the model's, log 7). -/
def spdmAnswers : Prop :=
  ∀ s : State, let replies := fun (i : Instr) (code : BitVec 8) => ∃ body, exec i s = .next (s.modPkg fun P => { P with spdm := (0x12 :: code :: body) :: P.spdm })
    replies .getVersion 0x04 ∧ replies .getCapabilities 0x61 ∧ (∀ r, replies (.negotiateAlgorithms r) 0x63) ∧ replies .getDigests 0x01 ∧
    (∀ a b c, replies (.getCertificate a b c) 0x02) ∧ (∀ n, replies (.challenge n) 0x03) ∧ ∀ i n, replies (.getMeasurements i n) 0x60

/-- R389, R398, R412, R423: units that fail, and the saffron controller. -/
def unitSteps : Prop :=
  ∀ s : State,
    (∀ g half, ∃ t, exec (.droopStretch g half) s = .next t ∧ (t.cluster g).stretch = (if half then 2 else max 1 (s.cluster g).stretch) ∧
      (t.cluster g).stretches = min 0xFFFFFFFF ((s.cluster g).stretches + 1) ∧ ∀ k, k ≠ g → t.cluster k = s.cluster k) ∧
    (∀ g, exec (.droopRecover g) s = .next (s.modCluster g fun G => { G with stretch := 0 })) ∧
    (∀ d, d < 8 → ∃ t, exec (.saffronWatchdog d) s = .next t ∧ (t.die d).isFailed = true ∧
      ((s.die d).isFailed = false → (3, d) ∈ t.pkg.nv) ∧ t.mem = s.mem) ∧
    (∀ c b, c < 8192 → b < 288 → b ∉ (s.core c).banks →
      (degraded (s.core c) (bankGroup b) = false → ∃ t, exec (.bankRetire c b) s = .next t ∧ (t.core c).banks = (s.core c).banks ++ [b] ∧
        (0, c * 512 + b) ∈ t.pkg.nv ∧ t.mem = s.mem ∧ t.harts = s.harts) ∧
      (degraded (s.core c) (bankGroup b) = true → ∃ t, exec (.bankRetire c b) s = .next t ∧ (t.core c).isSealed = true)) ∧
    (∀ c b, c < 8192 → b ∈ (s.core c).banks → exec (.bankRetire c b) s = .next s) ∧
    (∀ g, ((s.cluster g).isRetired = true → exec (.clusterFailure g) s = .next s) ∧
      ((s.cluster g).isRetired = false → ∃ t, exec (.clusterFailure g) s = .next t ∧ (t.cluster g).isRetired = true ∧
        (t.cluster g).queue = [] ∧ (2, g) ∈ t.pkg.nv)) ∧
    (∀ k n, k < 16 → ∃ t, exec (.keyStaging k n) s = .next t ∧ portOf t k = { portOf s k with staged := some n } ∧
      (∀ j, j ≠ k → portOf t j = portOf s j) ∧ t.mem = s.mem ∧ t.harts = s.harts) ∧
    (∀ k n, ((peerOf s k n).unreachable = true → ∃ t, exec (.fabricPeerReset k n) s = .next t ∧ peerOf t k n = {}) ∧
      ((peerOf s k n).unreachable = false → exec (.fabricPeerReset k n) s = .next s)) ∧
    (∀ k, ∃ t, exec (.spaustLaneFailure k) s = .next t ∧ (portOf t k).lanesBad = (portOf s k).lanesBad + 1 ∧ (6, k) ∈ t.pkg.nv ∧
      ((portOf s k).lanesBad = 0 → (portOf t k).down = (portOf s k).down) ∧
      (1 ≤ (portOf s k).lanesBad → (portOf t k).down = true ∧ (5, k) ∈ t.pkg.nv))

/-- R10, R403, R410, R412, R425: bring-up. A Mordant core starts where the scanner accepts every word of its firmware (that
it stays sealed where not is the model's reading, log 32). -/
def bringUp : Prop :=
  ∀ (s : State) (n : Nat) (mw hw : List (BitVec 32)), let words := mw.take 16384
    let clean := scan { prof := .mordant, words := words, first := 0, limit := 16384, signed := false, nlive := 0 } = none
    ∃ t : State, exec (.powerOn n mw hw) s = .next t ∧
    t.pkg.number = n % 4096 ∧ t.net = [] ∧ t.pkg.procs = [] ∧ t.pkg.launches = [] ∧ t.pkg.rings = [] ∧ t.pkg.cmdRing = 0 ∧
    (∀ e ∈ s.pkg.nv, e ∈ t.pkg.nv) ∧
    (t.pkg.state = 2 ↔ ∀ g, g < 512 → (t.core (8192 + g)).isSealed = true) ∧ (t.pkg.state = 1 ∨ t.pkg.state = 2) ∧
    ((∀ d, d < 8 → (t.die d).isFailed = true) → t.pkg.state = 2) ∧
    (∀ a, 2 ^ 65 ≤ a → a < 2 ^ 66 → t.mem.read a = s.mem.read a) ∧
    (∀ g, g < 512 → cluGone t g = false →
      (clean → (t.core (8192 + g)).isSealed = false ∧ t.hart (32768 + g) = {} ∧
        ∀ i, i < words.length → SMap.get false (t.core (8192 + g)).exec i = true) ∧
      (¬clean → (t.core (8192 + g)).isSealed = true)) ∧
    (∀ c, c < 8192 → coreGone t c = false → (t.core c).isRetired = true ∨
      ((t.core c).isSealed = false ∧ ∀ i, i < 4 → (t.hart (4 * c + i)).pc = 0 ∧ (t.hart (4 * c + i)).mode = .M ∧
        (t.hart (4 * c + i)).csr.mideleg = 0x70000))

end Sys2Proof.Spec

/-- R180, R389, R398, R403, R412 to R421, R423 to R425: the host's commands with their statuses and effects, the
command ring, CXL, SPDM, droop, retirements and bring-up. The layout of a command's arguments, the status of a
DETACH of a dead slot, of a RINGBIND without a valid descriptor and of an ENDLAUNCH of no launch, and the SPDM codes
are the model's choices (log 7, 28). -/
def Obligations.HostSteps : Prop :=
  Spec.slotCommands ∧ Spec.unitCommands ∧ Spec.commandRecords ∧ Spec.cxlSteps ∧ Spec.spdmAnswers ∧ Spec.unitSteps ∧ Spec.bringUp

/-- R38 to R66: words written out from the encodings of the spec are the instructions they stand for, the worked
encoding of R65 among them; a payload with a reserved format code and a word of no encoding are rejected. -/
def Obligations.DecodeSamples : Prop :=
  decode 0xABCDE2B7 = .ok (.lui 5 0xABCDE) ∧ decode 0x807FF0EF = .ok (.jal 1 0xffc03) ∧ decode 0x7F15E503 = .ok (.lwu 10 11 0x7F1) ∧
  decode 0x8AD632A3 = .ok (.sd 12 13 0x8A5) ∧ decode 0x01289833 = .ok (.sll 16 17 18) ∧ decode 0x627322AF = .ok (.amoAndW 5 6 7 false true) ∧
  decode 0x203110CB = .ok (.fnmsubS 1 2 3 4 .rtz) ∧ decode 0x0AD54A0B = .ok (.vadd 20 10 13 .f16 5) ∧ decode 0x22058ADB = .ok (.cpyw 21 11) ∧
  decode 0x6F70707B = .ok (.fmt .f32 .none .bf16 .plain) ∧ decode 0xF601028B = .ok (.vcvt 5 2 .rne false false 3) ∧
  decode 0xB6370AFB = .ok (.mstgAcc 45 17 5 6 5) ∧ decode 0x22C5C07B = .ok (.mrguDz 11 12) ∧
  decode 0x0E44707B = .error .badPayload ∧ decode 0 = .error .notInstr

/-- R38 to R66, R73: every word of a well-formed instruction decodes to that instruction, every operand at every
value its field admits. -/
def Obligations.EncodeThenDecode : Prop :=
  ∀ (i : Instr) (w : BitVec 32), i.wf = true → w ∈ encode i → decode w = .ok i

/-- R38 to R66: a word that decodes to an instruction is that instruction's one encoding: no bit of a word is passed
over, so no reserved field decodes with a value other than its own. -/
def Obligations.DecodeThenEncode : Prop :=
  ∀ (w : BitVec 32) (i : Instr), decode w = .ok i → encode i = [w]

namespace Sys2Proof.Spec
open Sys2Proof Sys2Proof.Machine

/-- s where its hart's word w is at issue. -/
def atWord (s : State) (w : BitVec 32) (signed : Bool) : State := s.modHart s.cur fun H => { H with ir := w, irSigned := signed }

/-- s where hart k has its core's turn. -/
def atTurn (s : State) (k : Nat) : State :=
  { (if (s.core (coreOf k)).turn = hartIn k then s else s.modCore (coreOf k) fun C => { C with turn := hartIn k }) with cur := k }

/-- What the word w of the executing hart, reached in sequence, comes to: `o`. -/
def comesTo (a : State) (op : Op) (w : BitVec 32) (i : Instr) (o : Host.Outcome State Fault Refusal) : Prop :=
  let h := a.cur; let H := a.me
  let uses := usesOf op w.toNat (if H.pfx then payloadOf H.payload else none)
  let flaws := if H.flaws = [] then [] else regFlaws H (uses.reads ++ extraReads a op w.toNat)
  let b₀ := if interlocks H op then a.modHart h fun H => holdFor H (touched H uses) else a
  let b := if costsCycle op then tick b₀ h else b₀
  (sigStops H op w.toNat = true → o = exec i a) ∧
  (sigStops H op w.toNat = false → misfit H op w.toNat = true →
    ∃ t : State, o = .next t ∧ (t.hart h).pfx = false ∧ t.mem = a.mem ∧ ∀ k, k ≠ h → t.hart k = a.hart k) ∧
  (sigStops H op w.toNat = false → misfit H op w.toNat = false →
    (illegalHere a op w.toNat = true → o = exec i a) ∧
    (illegalHere a op w.toNat = false →
      (scoreboard H uses = true → o = .next (a.modHart h fun H => { H with stalled := some .issue })) ∧
      (scoreboard H uses = false →
        (∀ f ∈ flaws, f.2 = true → o = .next (hardSeal a (coreOf h))) ∧
        (flaws ≠ [] → (∀ f ∈ flaws, f.2 = false) → o = .next (a.modHart h fun H => repairRegs H (flaws.map fun f => f.1))) ∧
        (flaws = [] →
          (∀ n, armedRead b.me uses = some n → o = .next (b.modHart h fun H => { H with stalled := some (.armed .x n) })) ∧
          (∀ g cause tval, armedRead b.me uses = none → metGather b.me op uses = some (g, cause, tval) → touched b.me uses = [] →
            o = .next (takeTrap (b.modHart h fun H => fixUp H (.gather g.vd)) h false cause tval)) ∧
          (armedRead b.me uses = none → metGather b.me op uses = none →
            (touched b.me uses = [] → o = exec i b) ∧
            (∀ p l, touched b.me uses = p :: l → sckBit b.me.csr = true → o = .next (takeTrap b h false 25 (stallTval p))))))))

/-- What the executing hart's turn comes to where it may issue, is not at the lanes of a gather or scatter, and neither an
interrupt nor a handler is for it now. -/
def runsWord (s : State) (o : Host.Outcome State Fault Refusal) : Prop :=
  let h := s.cur; let H := s.me
  let v := if H.flaws = [] then s else s.modHart h repairOwn
  coreRuns s h = true → H.free = false → H.held = none → H.stalled = none → H.lanes = [] → interruptNow s h = none → handlerDue s h = false →
    (ownBroken H = true → o = .next (hardSeal s (coreOf h))) ∧
    (ownBroken H = false → H.arrival = .seq →
      (∀ w op i, v.me.vloop.bind (fun q => q.queue[q.at_]?) = some w → opOf w = .ok op → decode w = .ok i →
        comesTo (atWord v w v.me.irSigned) op w i o) ∧
      (v.me.vloop.bind (fun q => q.queue[q.at_]?) = none →
        (∀ u w sg, fetch v h = (u, .word w sg) →
          let a := if u.me.vloop.isSome then u.modHart u.cur fun H => enqueue H w else u
          (∀ op i, opOf w = .ok op → decode w = .ok i → comesTo (atWord a w sg) op w i o) ∧
          ((∀ i, decode w ≠ .ok i) → o = .fault (.badWord w))) ∧
        (∀ u, fetch v h = (u, .fault) → o = .next (takeTrap u h false 1 (tvalOf 1 (u.hart h).pc)))))

end Sys2Proof.Spec

open Sys2Proof Sys2Proof.Machine Sys2Proof.Spec in
/-- R17, R29, R30, R59, R60, R61, R65, R69, R72, R102, R105, R292: a core's turn is the hart's that has the issue cycles until
it stalls, else a hart's that can go on. That hart, where it may issue and neither an interrupt nor a handler is for it now,
takes its word from the sequencer queue of its VLOOP or fetches the word at pc, and runs it: after the cycle in which the word
issues, where nothing it touches is still to land; as STALL_CHECK where it is and SCK = 1; without that cycle where a mode
check of its own or a signature stops it. A register error is repaired first, or seals the core. A word at pc in code memory
that is executable is the word fetched; a word fetched in sequence meets no signature check. The agenda's turns and the cycle
of issue are the model's (log 4, 6). -/
def Obligations.StepRunsWord : Prop :=
  (∀ s : State, s.agenda = [] → (hartsOf (coreOf s.cur)).any (fresh s) = true → runsWord (atTurn s (pick s s.cur)) (step s)) ∧
  (∀ (s : State) (k : Nat) r, s.agenda = .hart k :: r →
    let s₁ := { s with agenda := r }
    runsWord (atTurn s₁ (pick s₁ k)) (step s)) ∧
  (∀ (s : State) (h : Nat), let c := coreOf h
    (isMordant h = true → pick s h = h) ∧
    (isMordant h = false → (s.core c).turn < 4 →
      (let t := hartAt c (s.core c).turn
       fresh s t = true → soon s t = true → pick s h = t) ∧
      (∀ i, i < 4 → eligible s (hartAt c i) = true → eligible s (pick s h) = true ∧ ∃ j, j < 4 ∧ pick s h = hartAt c j))) ∧
  (∀ s : State, let h := s.cur; let H := s.me; let c := coreOf h
    (∀ n, H.pc = BitVec.ofNat 64 (4 * n) → n < codeWords c → SMap.get false (s.core c).exec n = true →
      ∃ u : State, fetch s h = (u, .word (BitVec.ofNat 32 (s.loadN (codeLoc c n) 4)) (SMap.get false (s.core c).signed n)) ∧
        u.mem = s.mem ∧ u.cores = s.cores ∧ u.net = s.net ∧ (∀ k, k ≠ h → u.hart k = s.hart k) ∧
        ∃ l, u.hart h = { H with prefetch := l }) ∧
    (∀ n, n < 8192 → SMap.get false (s.core c).exec n = false → h < 32768 → H.prefetch = [] → H.pc = BitVec.ofNat 64 (4 * n) → fetch s h = (s, .fault)) ∧
    (∀ i r, s.agenda = .step i :: r → (encode i = [] → step s = exec i { s with agenda := r }) ∧
      (encode i ≠ [] → step s = .next { s with agenda := r })) ∧
    (∀ k r, s.agenda = .firmware k :: r → step s = .next (firmwareTurn k { s with agenda := r })) ∧
    (∀ l r, s.agenda = .port l :: r → step s = .next (portTurn l { s with agenda := r })))

open Sys2Proof Sys2Proof.Machine in
/-- R21, R27, R41, R64, R72, R87, R94, R104, R110, R119, R154, R155, R159, R183, R200, R260, R265, R319, R327, R414:
the values the spec gives for reset: every core sealed, its counter 0, no code executable; every hart at word 0 in M
mode with its status, timer, loop, stride and conversion registers; scratchpads 0, empty and clear; every cluster's
gradient registers (the distance 63, where R260 and R264 differ, is the model's choice, log 75); no process slot, ring or
launch. The zero registers of log 2 are not part of it. -/
def Obligations.ResetState : Prop :=
  let s := State.reset
  (∀ c, (s.core c).isSealed = true ∧ (s.core c).cycle = 0 ∧ (s.core c).exec = [] ∧ (s.core c).signed = [] ∧ (s.core c).objs = [] ∧
    (s.core c).feLimit = 16777216 ∧ bankstat (s.core c) = 0 ∧ (s.core c).inbox = [] ∧ (s.core c).members = []) ∧
  (∀ h, h < 33280 → (s.hart h).pc = 0 ∧ (s.hart h).mode = .M ∧ csrRead s h 0x7C0 = 0x74 ∧ csrRead s h 0x14D = 0xFFFFFFFFFFFFFFFF ∧
    csrRead s h 0x302 = 0 ∧ csrRead s h 0x303 = 0 ∧ csrRead s h 0x304 = 0 ∧ csrRead s h 0x802 = 1 ∧
    (∀ n, n < 6 → csrRead s h (0x810 + n) = 0) ∧ (∀ n, n < 8 → csrRead s h (0x820 + n) = 0x700FFFFFFFF) ∧
    (s.hart h).streams = [] ∧ (s.hart h).bq = [] ∧ (s.hart h).deque = [] ∧ (s.hart h).armed = [] ∧ (s.hart h).resv = none) ∧
  (∀ c off, c < 8192 → off < 2 ^ 17 → s.mem.read (padBase c + off) = 0 ∧ (s.gbits (padBase c + off)).fe = false ∧
    (s.gbits (padBase c + off)).poi = false) ∧
  (∀ g, (s.cluster g).dist = 63 ∧ (s.cluster g).q = 0 ∧ (s.cluster g).queue = [] ∧ (s.cluster g).keep = []) ∧
  s.pkg.state = 0 ∧ s.pkg.cmdRing = 0 ∧ s.pkg.rspRing = 0 ∧ s.pkg.hdmBase = 0 ∧ s.pkg.procs = [] ∧ s.pkg.rings = [] ∧ s.pkg.launches = [] ∧
  s.net = []

/-- Memory is in its canonical form at reset. -/
def Obligations.InvReset : Prop := Sys2Proof.Machine.Inv Sys2Proof.Machine.State.reset

/-- Every step, of whichever agent, keeps memory in its canonical form: addresses strictly rising, and no byte listed
that reads as an unlisted one. -/
def Obligations.InvStep : Prop :=
  ∀ s t : Sys2Proof.Machine.State, Sys2Proof.Machine.Inv s → Sys2Proof.Machine.step s = .next t → Sys2Proof.Machine.Inv t
end

