-- ==== Sys2Proof/Laws/Maps.lean ====
section
/-! SUPPORT. Sparse maps and the byte memory: what a read answers after a write, and that every memory
operation keeps the canonical form. -/

namespace Sys2Proof

namespace SMap

variable {α : Type}

@[simp] theorem get_put_same (d : α) (m : SMap α) (k : Nat) (v : α) : get d (put m k v) k = v := by
  induction m with
  | nil => simp [put, get]
  | cons p r ih =>
    obtain ⟨j, w⟩ := p
    rcases Nat.lt_trichotomy k j with h | h | h
    · simp [put, h, get]
    · subst h; simp [put, get]
    · have h1 : ¬ k < j := by omega
      have h2 : k ≠ j := by omega
      have h3 : j ≠ k := by omega
      simp [put, h1, h2, get, h3, ih]

theorem get_put_ne (d : α) (m : SMap α) {k n : Nat} (v : α) (h : n ≠ k) : get d (put m k v) n = get d m n := by
  induction m with
  | nil => simp [put, get, Ne.symm h]
  | cons p r ih =>
    obtain ⟨j, w⟩ := p
    rcases Nat.lt_trichotomy k j with hk | hk | hk
    · simp [put, hk, get, Ne.symm h]
    · subst hk; simp [put, get, Ne.symm h]
    · have h1 : ¬ k < j := by omega
      have h2 : k ≠ j := by omega
      simp [put, h1, h2, get, ih]

theorem get_put (d : α) (m : SMap α) (k n : Nat) (v : α) :
    get d (put m k v) n = if n = k then v else get d m n := by
  split
  · next h => rw [h, get_put_same]
  · next h => exact get_put_ne d m v h

@[simp] theorem find?_put_same (m : SMap α) (k : Nat) (v : α) : find? (put m k v) k = some v := by
  induction m with
  | nil => simp [put, find?]
  | cons p r ih =>
    obtain ⟨j, w⟩ := p
    rcases Nat.lt_trichotomy k j with h | h | h
    · simp [put, h, find?]
    · subst h; simp [put, find?]
    · have h1 : ¬ k < j := by omega
      have h2 : k ≠ j := by omega
      have h3 : j ≠ k := by omega
      simp [put, h1, h2, find?, h3, ih]

theorem find?_put_ne (m : SMap α) {k n : Nat} (v : α) (h : n ≠ k) : find? (put m k v) n = find? m n := by
  induction m with
  | nil => simp [put, find?, Ne.symm h]
  | cons p r ih =>
    obtain ⟨j, w⟩ := p
    rcases Nat.lt_trichotomy k j with hk | hk | hk
    · simp [put, hk, find?, Ne.symm h]
    · subst hk; simp [put, find?, Ne.symm h]
    · have h1 : ¬ k < j := by omega
      have h2 : k ≠ j := by omega
      simp [put, h1, h2, find?, ih]

/-- The last of two writes of one key stands. -/
@[simp] theorem put_put (m : SMap α) (k : Nat) (v w : α) : put (put m k v) k w = put m k w := by
  induction m with
  | nil => simp [put]
  | cons x r ih =>
    obtain ⟨j, u⟩ := x
    simp only [put]
    split
    · simp [put]
    · split
      · simp [put]
      · simp_all [put]

@[simp] theorem get_del_same (d : α) (m : SMap α) (k : Nat) : get d (del m k) k = d := by
  induction m with
  | nil => simp [del, get]
  | cons p r ih =>
    obtain ⟨j, w⟩ := p
    by_cases h : j = k <;> simp [del, h, get, ih]

theorem get_del_ne (d : α) (m : SMap α) {k n : Nat} (h : n ≠ k) : get d (del m k) n = get d m n := by
  induction m with
  | nil => simp [del, get]
  | cons p r ih =>
    obtain ⟨j, w⟩ := p
    by_cases hj : j = k
    · subst hj; simp [del, get, Ne.symm h, ih]
    · simp [del, hj, get, ih]

variable [DecidableEq α]

@[simp] theorem get_set_same (d : α) (m : SMap α) (k : Nat) (v : α) : get d (set d m k v) k = v := by
  unfold set
  split
  · next h => simp [h]
  · simp

theorem get_set_ne (d : α) (m : SMap α) {k n : Nat} (v : α) (h : n ≠ k) : get d (set d m k v) n = get d m n := by
  unfold set
  split
  · exact get_del_ne d m h
  · exact get_put_ne d m v h

/-! The canonical form. -/

theorem canon_mono {d : α} {lo hi : Nat} {m : SMap α} (h : canon d (some hi) m = true) (hl : lo ≤ hi) :
    canon d (some lo) m = true := by
  cases m with
  | nil => rfl
  | cons p r =>
    obtain ⟨j, w⟩ := p
    simp only [canon, Bool.and_eq_true, decide_eq_true_eq] at h ⊢
    exact ⟨⟨by omega, h.1.2⟩, h.2⟩

/-- The bound of a canonical map is above `lo`. -/
def above (lo : Option Nat) (k : Nat) : Prop := ∀ b, lo = some b → b < k

theorem canon_cons {d : α} {lo : Option Nat} {j : Nat} {w : α} {r : SMap α} :
    canon d lo ((j, w) :: r) = true ↔ above lo j ∧ w ≠ d ∧ canon d (some j) r = true := by
  cases lo <;> simp [canon, above, and_assoc]

theorem canon_lower {d : α} {lo : Option Nat} {k j : Nat} {r : SMap α} (h : canon d (some j) r = true)
    (_ : above lo k) (hkj : k ≤ j) : canon d (some k) r = true := canon_mono h hkj

theorem canon_put {d : α} {m : SMap α} {k : Nat} {v : α} (hv : v ≠ d) :
    ∀ {lo : Option Nat}, canon d lo m = true → above lo k → canon d lo (put m k v) = true := by
  induction m with
  | nil => intro lo _ hk; exact canon_cons.2 ⟨hk, hv, rfl⟩
  | cons p r ih =>
    obtain ⟨j, w⟩ := p
    intro lo h hk
    obtain ⟨h1, h2, h3⟩ := canon_cons.1 h
    rcases Nat.lt_trichotomy k j with hj | hj | hj
    · simp only [put, hj, if_true]
      exact canon_cons.2 ⟨hk, hv, canon_cons.2 ⟨by intro b hb; cases hb; exact hj, h2, h3⟩⟩
    · subst hj
      simp only [put, Nat.lt_irrefl, if_false, if_true]
      exact canon_cons.2 ⟨hk, hv, h3⟩
    · have n1 : ¬ k < j := by omega
      have n2 : k ≠ j := by omega
      simp only [put, n1, n2, if_false]
      exact canon_cons.2 ⟨h1, h2, ih h3 (by intro b hb; cases hb; exact hj)⟩

theorem canon_del {d : α} {m : SMap α} {k : Nat} :
    ∀ {lo : Option Nat}, canon d lo m = true → canon d lo (del m k) = true := by
  induction m with
  | nil => intro lo _; rfl
  | cons p r ih =>
    obtain ⟨j, w⟩ := p
    intro lo h
    obtain ⟨h1, h2, h3⟩ := canon_cons.1 h
    by_cases hj : j = k
    · simp only [del, hj, if_true]
      apply ih
      cases r with
      | nil => rfl
      | cons q r' =>
        obtain ⟨i, u⟩ := q
        obtain ⟨g1, g2, g3⟩ := canon_cons.1 h3
        refine canon_cons.2 ⟨?_, g2, g3⟩
        intro b hb
        have := h1 b hb
        have := g1 j rfl
        omega
    · simp only [del, hj, if_false]
      exact canon_cons.2 ⟨h1, h2, ih h3⟩

theorem canon_set {d : α} {m : SMap α} {k : Nat} {v : α} (h : canon d none m = true) :
    canon d none (set d m k v) = true := by
  unfold set
  split
  · exact canon_del h
  · next hv => exact canon_put hv h (by intro b hb; cases hb)

end SMap

namespace Memory

@[simp] theorem read_write_same (m : Memory) (a : Nat) (b : Byte) : (m.write a b).read a = b := by
  simp [read, write]

theorem read_write_ne (m : Memory) {a c : Nat} (b : Byte) (h : c ≠ a) : (m.write a b).read c = m.read c :=
  SMap.get_set_ne _ _ _ h

/-- A write of bytes leaves every byte outside them alone. -/
theorem read_writeBytes_outside (l : List Byte) :
    ∀ (m : Memory) (a c : Nat), c < a ∨ a + l.length ≤ c → (m.writeBytes a l).read c = m.read c := by
  induction l with
  | nil => intros; rfl
  | cons b r ih =>
    intro m a c h
    simp only [writeBytes]
    rw [ih _ _ _ (by simp at h; omega), read_write_ne _ _ (by simp at h; omega)]

/-- A byte of the written bytes reads as written. -/
theorem read_writeBytes_inside (l : List Byte) :
    ∀ (m : Memory) (a i : Nat) (h : i < l.length), (m.writeBytes a l).read (a + i) = l[i] := by
  induction l with
  | nil => intro _ _ _ h; simp at h
  | cons b r ih =>
    intro m a i h
    cases i with
    | zero =>
      simp only [writeBytes, Nat.add_zero, List.getElem_cons_zero]
      rw [read_writeBytes_outside _ _ _ _ (by omega), read_write_same]
    | succ i =>
      simp only [writeBytes, List.getElem_cons_succ]
      have := ih (m.write a b) (a + 1) i (by simpa using h)
      rwa [show a + (i + 1) = a + 1 + i by omega]

@[simp] theorem readBytes_length (n : Nat) : ∀ (m : Memory) (a : Nat), (m.readBytes a n).length = n := by
  induction n with
  | zero => intros; rfl
  | succ n ih => intro m a; simp [readBytes, ih]

/-- Reading what was just written. -/
theorem readBytes_writeBytes (l : List Byte) :
    ∀ (m : Memory) (a : Nat), (m.writeBytes a l).readBytes a l.length = l := by
  have key : ∀ (n : Nat) (m : Memory) (a : Nat) (g : Nat → Byte), (∀ i, i < n → m.read (a + i) = g i) →
      m.readBytes a n = (List.range n).map g := by
    intro n
    induction n with
    | zero => intros; rfl
    | succ n ih =>
      intro m a g h
      rw [readBytes, List.range_succ_eq_map, List.map_cons, List.map_map, ← h 0 (by omega)]
      congr 1
      exact ih m (a + 1) _ (fun i hi => by
        have := h (i + 1) (by omega)
        rw [← Nat.add_assoc, Nat.add_right_comm] at this
        exact this)
  intro m a
  rw [key l.length _ a (fun i => l.getD i 0) (fun i hi => by
    rw [read_writeBytes_inside _ _ _ _ hi]; simp [List.getD, hi])]
  apply List.ext_getElem
  · simp
  · intro i h1 h2; simp [List.getD, h2]

/-- Reading bytes that two memories share. -/
theorem readBytes_congr (n : Nat) : ∀ (m k : Memory) (a : Nat),
    (∀ c, a ≤ c → c < a + n → m.read c = k.read c) → m.readBytes a n = k.readBytes a n := by
  induction n with
  | zero => intros; rfl
  | succ n ih =>
    intro m k a h
    simp only [readBytes]
    rw [h a (by omega) (by omega), ih m k (a + 1) (fun c h1 h2 => h c (by omega) (by omega))]

/-- A write keeps the canonical form. -/
theorem wf_write {m : Memory} (h : m.wf = true) (a : Nat) (b : Byte) : (m.write a b).wf = true := SMap.canon_set h

/-- A write of bytes keeps the canonical form. -/
theorem wf_writeBytes (l : List Byte) : ∀ {m : Memory}, m.wf = true → ∀ a, (m.writeBytes a l).wf = true := by
  induction l with
  | nil => intro m h a; exact h
  | cons b r ih => intro m h a; exact ih (wf_write h a b) (a + 1)

theorem wf_empty : Memory.wf [] = true := rfl

end Memory

end Sys2Proof
end

