-- ==== Sys2Proof/Laws/State.lean ====
section
/-! SUPPORT. What each update of a part of the state leaves in every other part. -/

namespace Sys2Proof.Machine
open Sys2Proof

namespace State

variable (s : State)

/-! setHart -/

@[simp] theorem setHart_harts (n : Nat) (v : Hart) : (s.setHart n v).harts = SMap.put s.harts n v := rfl
@[simp] theorem setHart_cores (n : Nat) (v : Hart) : (s.setHart n v).cores = s.cores := rfl
@[simp] theorem setHart_clusters (n : Nat) (v : Hart) : (s.setHart n v).clusters = s.clusters := rfl
@[simp] theorem setHart_dies (n : Nat) (v : Hart) : (s.setHart n v).dies = s.dies := rfl
@[simp] theorem setHart_pkg (n : Nat) (v : Hart) : (s.setHart n v).pkg = s.pkg := rfl
@[simp] theorem setHart_mem (n : Nat) (v : Hart) : (s.setHart n v).mem = s.mem := rfl
@[simp] theorem setHart_gran (n : Nat) (v : Hart) : (s.setHart n v).gran = s.gran := rfl
@[simp] theorem setHart_net (n : Nat) (v : Hart) : (s.setHart n v).net = s.net := rfl
@[simp] theorem setHart_nextId (n : Nat) (v : Hart) : (s.setHart n v).nextId = s.nextId := rfl
@[simp] theorem setHart_paths (n : Nat) (v : Hart) : (s.setHart n v).paths = s.paths := rfl
@[simp] theorem setHart_links (n : Nat) (v : Hart) : (s.setHart n v).links = s.links := rfl
@[simp] theorem setHart_agenda (n : Nat) (v : Hart) : (s.setHart n v).agenda = s.agenda := rfl
@[simp] theorem setHart_cur (n : Nat) (v : Hart) : (s.setHart n v).cur = s.cur := rfl
@[simp] theorem setHart_free (n : Nat) (v : Hart) : (s.setHart n v).free = s.free := rfl
@[simp] theorem setHart_core (n : Nat) (v : Hart) (k : Nat) : (s.setHart n v).core k = s.core k := rfl
@[simp] theorem setHart_cluster (n : Nat) (v : Hart) (k : Nat) : (s.setHart n v).cluster k = s.cluster k := rfl
@[simp] theorem setHart_die (n : Nat) (v : Hart) (k : Nat) : (s.setHart n v).die k = s.die k := rfl
@[simp] theorem setHart_hart_same (n : Nat) (v : Hart) : (s.setHart n v).hart n = v := SMap.get_put_same _ _ _ _
theorem setHart_hart_ne (n : Nat) (v : Hart) {k : Nat} (h : k ≠ n) : (s.setHart n v).hart k = s.hart k := SMap.get_put_ne _ _ _ h
theorem setHart_hart (n : Nat) (v : Hart) (k : Nat) : (s.setHart n v).hart k = if k = n then v else s.hart k := SMap.get_put _ _ _ _ _

@[simp] theorem setHart_setHart (n : Nat) (v w : Hart) : (s.setHart n v).setHart n w = s.setHart n w := by simp [setHart]
@[simp] theorem modHart_modHart (n : Nat) (f g : Hart → Hart) : (s.modHart n f).modHart n g = s.modHart n fun H => g (f H) := by
  simp [modHart, setHart, hart]

/-! setCore -/

@[simp] theorem setCore_harts (n : Nat) (v : Core) : (s.setCore n v).harts = s.harts := rfl
@[simp] theorem setCore_cores (n : Nat) (v : Core) : (s.setCore n v).cores = SMap.put s.cores n v := rfl
@[simp] theorem setCore_clusters (n : Nat) (v : Core) : (s.setCore n v).clusters = s.clusters := rfl
@[simp] theorem setCore_dies (n : Nat) (v : Core) : (s.setCore n v).dies = s.dies := rfl
@[simp] theorem setCore_pkg (n : Nat) (v : Core) : (s.setCore n v).pkg = s.pkg := rfl
@[simp] theorem setCore_mem (n : Nat) (v : Core) : (s.setCore n v).mem = s.mem := rfl
@[simp] theorem setCore_gran (n : Nat) (v : Core) : (s.setCore n v).gran = s.gran := rfl
@[simp] theorem setCore_net (n : Nat) (v : Core) : (s.setCore n v).net = s.net := rfl
@[simp] theorem setCore_nextId (n : Nat) (v : Core) : (s.setCore n v).nextId = s.nextId := rfl
@[simp] theorem setCore_paths (n : Nat) (v : Core) : (s.setCore n v).paths = s.paths := rfl
@[simp] theorem setCore_links (n : Nat) (v : Core) : (s.setCore n v).links = s.links := rfl
@[simp] theorem setCore_agenda (n : Nat) (v : Core) : (s.setCore n v).agenda = s.agenda := rfl
@[simp] theorem setCore_cur (n : Nat) (v : Core) : (s.setCore n v).cur = s.cur := rfl
@[simp] theorem setCore_free (n : Nat) (v : Core) : (s.setCore n v).free = s.free := rfl
@[simp] theorem setCore_hart (n : Nat) (v : Core) (k : Nat) : (s.setCore n v).hart k = s.hart k := rfl
@[simp] theorem setCore_cluster (n : Nat) (v : Core) (k : Nat) : (s.setCore n v).cluster k = s.cluster k := rfl
@[simp] theorem setCore_die (n : Nat) (v : Core) (k : Nat) : (s.setCore n v).die k = s.die k := rfl
@[simp] theorem setCore_core_same (n : Nat) (v : Core) : (s.setCore n v).core n = v := SMap.get_put_same _ _ _ _
theorem setCore_core_ne (n : Nat) (v : Core) {k : Nat} (h : k ≠ n) : (s.setCore n v).core k = s.core k := SMap.get_put_ne _ _ _ h
theorem setCore_core (n : Nat) (v : Core) (k : Nat) : (s.setCore n v).core k = if k = n then v else s.core k := SMap.get_put _ _ _ _ _

/-! setCluster -/

@[simp] theorem setCluster_harts (n : Nat) (v : Cluster) : (s.setCluster n v).harts = s.harts := rfl
@[simp] theorem setCluster_cores (n : Nat) (v : Cluster) : (s.setCluster n v).cores = s.cores := rfl
@[simp] theorem setCluster_clusters (n : Nat) (v : Cluster) : (s.setCluster n v).clusters = SMap.put s.clusters n v := rfl
@[simp] theorem setCluster_dies (n : Nat) (v : Cluster) : (s.setCluster n v).dies = s.dies := rfl
@[simp] theorem setCluster_pkg (n : Nat) (v : Cluster) : (s.setCluster n v).pkg = s.pkg := rfl
@[simp] theorem setCluster_mem (n : Nat) (v : Cluster) : (s.setCluster n v).mem = s.mem := rfl
@[simp] theorem setCluster_gran (n : Nat) (v : Cluster) : (s.setCluster n v).gran = s.gran := rfl
@[simp] theorem setCluster_net (n : Nat) (v : Cluster) : (s.setCluster n v).net = s.net := rfl
@[simp] theorem setCluster_nextId (n : Nat) (v : Cluster) : (s.setCluster n v).nextId = s.nextId := rfl
@[simp] theorem setCluster_paths (n : Nat) (v : Cluster) : (s.setCluster n v).paths = s.paths := rfl
@[simp] theorem setCluster_links (n : Nat) (v : Cluster) : (s.setCluster n v).links = s.links := rfl
@[simp] theorem setCluster_agenda (n : Nat) (v : Cluster) : (s.setCluster n v).agenda = s.agenda := rfl
@[simp] theorem setCluster_cur (n : Nat) (v : Cluster) : (s.setCluster n v).cur = s.cur := rfl
@[simp] theorem setCluster_free (n : Nat) (v : Cluster) : (s.setCluster n v).free = s.free := rfl
@[simp] theorem setCluster_hart (n : Nat) (v : Cluster) (k : Nat) : (s.setCluster n v).hart k = s.hart k := rfl
@[simp] theorem setCluster_core (n : Nat) (v : Cluster) (k : Nat) : (s.setCluster n v).core k = s.core k := rfl
@[simp] theorem setCluster_die (n : Nat) (v : Cluster) (k : Nat) : (s.setCluster n v).die k = s.die k := rfl
@[simp] theorem setCluster_cluster_same (n : Nat) (v : Cluster) : (s.setCluster n v).cluster n = v := SMap.get_put_same _ _ _ _
theorem setCluster_cluster_ne (n : Nat) (v : Cluster) {k : Nat} (h : k ≠ n) : (s.setCluster n v).cluster k = s.cluster k := SMap.get_put_ne _ _ _ h
theorem setCluster_cluster (n : Nat) (v : Cluster) (k : Nat) : (s.setCluster n v).cluster k = if k = n then v else s.cluster k := SMap.get_put _ _ _ _ _

/-! setDie -/

@[simp] theorem setDie_harts (n : Nat) (v : Die) : (s.setDie n v).harts = s.harts := rfl
@[simp] theorem setDie_cores (n : Nat) (v : Die) : (s.setDie n v).cores = s.cores := rfl
@[simp] theorem setDie_clusters (n : Nat) (v : Die) : (s.setDie n v).clusters = s.clusters := rfl
@[simp] theorem setDie_dies (n : Nat) (v : Die) : (s.setDie n v).dies = SMap.put s.dies n v := rfl
@[simp] theorem setDie_pkg (n : Nat) (v : Die) : (s.setDie n v).pkg = s.pkg := rfl
@[simp] theorem setDie_mem (n : Nat) (v : Die) : (s.setDie n v).mem = s.mem := rfl
@[simp] theorem setDie_gran (n : Nat) (v : Die) : (s.setDie n v).gran = s.gran := rfl
@[simp] theorem setDie_net (n : Nat) (v : Die) : (s.setDie n v).net = s.net := rfl
@[simp] theorem setDie_nextId (n : Nat) (v : Die) : (s.setDie n v).nextId = s.nextId := rfl
@[simp] theorem setDie_paths (n : Nat) (v : Die) : (s.setDie n v).paths = s.paths := rfl
@[simp] theorem setDie_links (n : Nat) (v : Die) : (s.setDie n v).links = s.links := rfl
@[simp] theorem setDie_agenda (n : Nat) (v : Die) : (s.setDie n v).agenda = s.agenda := rfl
@[simp] theorem setDie_cur (n : Nat) (v : Die) : (s.setDie n v).cur = s.cur := rfl
@[simp] theorem setDie_free (n : Nat) (v : Die) : (s.setDie n v).free = s.free := rfl
@[simp] theorem setDie_hart (n : Nat) (v : Die) (k : Nat) : (s.setDie n v).hart k = s.hart k := rfl
@[simp] theorem setDie_core (n : Nat) (v : Die) (k : Nat) : (s.setDie n v).core k = s.core k := rfl
@[simp] theorem setDie_cluster (n : Nat) (v : Die) (k : Nat) : (s.setDie n v).cluster k = s.cluster k := rfl
@[simp] theorem setDie_die_same (n : Nat) (v : Die) : (s.setDie n v).die n = v := SMap.get_put_same _ _ _ _
theorem setDie_die_ne (n : Nat) (v : Die) {k : Nat} (h : k ≠ n) : (s.setDie n v).die k = s.die k := SMap.get_put_ne _ _ _ h
theorem setDie_die (n : Nat) (v : Die) (k : Nat) : (s.setDie n v).die k = if k = n then v else s.die k := SMap.get_put _ _ _ _ _

/-! modHart -/

@[simp] theorem modHart_harts (n : Nat) (v : Hart → Hart) : (s.modHart n v).harts = SMap.put s.harts n (v (s.hart n)) := rfl
@[simp] theorem modHart_cores (n : Nat) (v : Hart → Hart) : (s.modHart n v).cores = s.cores := rfl
@[simp] theorem modHart_clusters (n : Nat) (v : Hart → Hart) : (s.modHart n v).clusters = s.clusters := rfl
@[simp] theorem modHart_dies (n : Nat) (v : Hart → Hart) : (s.modHart n v).dies = s.dies := rfl
@[simp] theorem modHart_pkg (n : Nat) (v : Hart → Hart) : (s.modHart n v).pkg = s.pkg := rfl
@[simp] theorem modHart_mem (n : Nat) (v : Hart → Hart) : (s.modHart n v).mem = s.mem := rfl
@[simp] theorem modHart_gran (n : Nat) (v : Hart → Hart) : (s.modHart n v).gran = s.gran := rfl
@[simp] theorem modHart_net (n : Nat) (v : Hart → Hart) : (s.modHart n v).net = s.net := rfl
@[simp] theorem modHart_nextId (n : Nat) (v : Hart → Hart) : (s.modHart n v).nextId = s.nextId := rfl
@[simp] theorem modHart_paths (n : Nat) (v : Hart → Hart) : (s.modHart n v).paths = s.paths := rfl
@[simp] theorem modHart_links (n : Nat) (v : Hart → Hart) : (s.modHart n v).links = s.links := rfl
@[simp] theorem modHart_agenda (n : Nat) (v : Hart → Hart) : (s.modHart n v).agenda = s.agenda := rfl
@[simp] theorem modHart_cur (n : Nat) (v : Hart → Hart) : (s.modHart n v).cur = s.cur := rfl
@[simp] theorem modHart_free (n : Nat) (v : Hart → Hart) : (s.modHart n v).free = s.free := rfl
@[simp] theorem modHart_core (n : Nat) (v : Hart → Hart) (k : Nat) : (s.modHart n v).core k = s.core k := rfl
@[simp] theorem modHart_cluster (n : Nat) (v : Hart → Hart) (k : Nat) : (s.modHart n v).cluster k = s.cluster k := rfl
@[simp] theorem modHart_die (n : Nat) (v : Hart → Hart) (k : Nat) : (s.modHart n v).die k = s.die k := rfl
@[simp] theorem modHart_hart_same (n : Nat) (v : Hart → Hart) : (s.modHart n v).hart n = v (s.hart n) := SMap.get_put_same _ _ _ _
theorem modHart_hart_ne (n : Nat) (v : Hart → Hart) {k : Nat} (h : k ≠ n) : (s.modHart n v).hart k = s.hart k := SMap.get_put_ne _ _ _ h
theorem modHart_hart (n : Nat) (v : Hart → Hart) (k : Nat) : (s.modHart n v).hart k = if k = n then v (s.hart n) else s.hart k := SMap.get_put _ _ _ _ _

/-! modCore -/

@[simp] theorem modCore_harts (n : Nat) (v : Core → Core) : (s.modCore n v).harts = s.harts := rfl
@[simp] theorem modCore_cores (n : Nat) (v : Core → Core) : (s.modCore n v).cores = SMap.put s.cores n (v (s.core n)) := rfl
@[simp] theorem modCore_clusters (n : Nat) (v : Core → Core) : (s.modCore n v).clusters = s.clusters := rfl
@[simp] theorem modCore_dies (n : Nat) (v : Core → Core) : (s.modCore n v).dies = s.dies := rfl
@[simp] theorem modCore_pkg (n : Nat) (v : Core → Core) : (s.modCore n v).pkg = s.pkg := rfl
@[simp] theorem modCore_mem (n : Nat) (v : Core → Core) : (s.modCore n v).mem = s.mem := rfl
@[simp] theorem modCore_gran (n : Nat) (v : Core → Core) : (s.modCore n v).gran = s.gran := rfl
@[simp] theorem modCore_net (n : Nat) (v : Core → Core) : (s.modCore n v).net = s.net := rfl
@[simp] theorem modCore_nextId (n : Nat) (v : Core → Core) : (s.modCore n v).nextId = s.nextId := rfl
@[simp] theorem modCore_paths (n : Nat) (v : Core → Core) : (s.modCore n v).paths = s.paths := rfl
@[simp] theorem modCore_links (n : Nat) (v : Core → Core) : (s.modCore n v).links = s.links := rfl
@[simp] theorem modCore_agenda (n : Nat) (v : Core → Core) : (s.modCore n v).agenda = s.agenda := rfl
@[simp] theorem modCore_cur (n : Nat) (v : Core → Core) : (s.modCore n v).cur = s.cur := rfl
@[simp] theorem modCore_free (n : Nat) (v : Core → Core) : (s.modCore n v).free = s.free := rfl
@[simp] theorem modCore_hart (n : Nat) (v : Core → Core) (k : Nat) : (s.modCore n v).hart k = s.hart k := rfl
@[simp] theorem modCore_cluster (n : Nat) (v : Core → Core) (k : Nat) : (s.modCore n v).cluster k = s.cluster k := rfl
@[simp] theorem modCore_die (n : Nat) (v : Core → Core) (k : Nat) : (s.modCore n v).die k = s.die k := rfl
@[simp] theorem modCore_core_same (n : Nat) (v : Core → Core) : (s.modCore n v).core n = v (s.core n) := SMap.get_put_same _ _ _ _
theorem modCore_core_ne (n : Nat) (v : Core → Core) {k : Nat} (h : k ≠ n) : (s.modCore n v).core k = s.core k := SMap.get_put_ne _ _ _ h
theorem modCore_core (n : Nat) (v : Core → Core) (k : Nat) : (s.modCore n v).core k = if k = n then v (s.core n) else s.core k := SMap.get_put _ _ _ _ _

/-! modCluster -/

@[simp] theorem modCluster_harts (n : Nat) (v : Cluster → Cluster) : (s.modCluster n v).harts = s.harts := rfl
@[simp] theorem modCluster_cores (n : Nat) (v : Cluster → Cluster) : (s.modCluster n v).cores = s.cores := rfl
@[simp] theorem modCluster_clusters (n : Nat) (v : Cluster → Cluster) : (s.modCluster n v).clusters = SMap.put s.clusters n (v (s.cluster n)) := rfl
@[simp] theorem modCluster_dies (n : Nat) (v : Cluster → Cluster) : (s.modCluster n v).dies = s.dies := rfl
@[simp] theorem modCluster_pkg (n : Nat) (v : Cluster → Cluster) : (s.modCluster n v).pkg = s.pkg := rfl
@[simp] theorem modCluster_mem (n : Nat) (v : Cluster → Cluster) : (s.modCluster n v).mem = s.mem := rfl
@[simp] theorem modCluster_gran (n : Nat) (v : Cluster → Cluster) : (s.modCluster n v).gran = s.gran := rfl
@[simp] theorem modCluster_net (n : Nat) (v : Cluster → Cluster) : (s.modCluster n v).net = s.net := rfl
@[simp] theorem modCluster_nextId (n : Nat) (v : Cluster → Cluster) : (s.modCluster n v).nextId = s.nextId := rfl
@[simp] theorem modCluster_paths (n : Nat) (v : Cluster → Cluster) : (s.modCluster n v).paths = s.paths := rfl
@[simp] theorem modCluster_links (n : Nat) (v : Cluster → Cluster) : (s.modCluster n v).links = s.links := rfl
@[simp] theorem modCluster_agenda (n : Nat) (v : Cluster → Cluster) : (s.modCluster n v).agenda = s.agenda := rfl
@[simp] theorem modCluster_cur (n : Nat) (v : Cluster → Cluster) : (s.modCluster n v).cur = s.cur := rfl
@[simp] theorem modCluster_free (n : Nat) (v : Cluster → Cluster) : (s.modCluster n v).free = s.free := rfl
@[simp] theorem modCluster_hart (n : Nat) (v : Cluster → Cluster) (k : Nat) : (s.modCluster n v).hart k = s.hart k := rfl
@[simp] theorem modCluster_core (n : Nat) (v : Cluster → Cluster) (k : Nat) : (s.modCluster n v).core k = s.core k := rfl
@[simp] theorem modCluster_die (n : Nat) (v : Cluster → Cluster) (k : Nat) : (s.modCluster n v).die k = s.die k := rfl
@[simp] theorem modCluster_cluster_same (n : Nat) (v : Cluster → Cluster) : (s.modCluster n v).cluster n = v (s.cluster n) := SMap.get_put_same _ _ _ _
theorem modCluster_cluster_ne (n : Nat) (v : Cluster → Cluster) {k : Nat} (h : k ≠ n) : (s.modCluster n v).cluster k = s.cluster k := SMap.get_put_ne _ _ _ h
theorem modCluster_cluster (n : Nat) (v : Cluster → Cluster) (k : Nat) : (s.modCluster n v).cluster k = if k = n then v (s.cluster n) else s.cluster k := SMap.get_put _ _ _ _ _

/-! modDie -/

@[simp] theorem modDie_harts (n : Nat) (v : Die → Die) : (s.modDie n v).harts = s.harts := rfl
@[simp] theorem modDie_cores (n : Nat) (v : Die → Die) : (s.modDie n v).cores = s.cores := rfl
@[simp] theorem modDie_clusters (n : Nat) (v : Die → Die) : (s.modDie n v).clusters = s.clusters := rfl
@[simp] theorem modDie_dies (n : Nat) (v : Die → Die) : (s.modDie n v).dies = SMap.put s.dies n (v (s.die n)) := rfl
@[simp] theorem modDie_pkg (n : Nat) (v : Die → Die) : (s.modDie n v).pkg = s.pkg := rfl
@[simp] theorem modDie_mem (n : Nat) (v : Die → Die) : (s.modDie n v).mem = s.mem := rfl
@[simp] theorem modDie_gran (n : Nat) (v : Die → Die) : (s.modDie n v).gran = s.gran := rfl
@[simp] theorem modDie_net (n : Nat) (v : Die → Die) : (s.modDie n v).net = s.net := rfl
@[simp] theorem modDie_nextId (n : Nat) (v : Die → Die) : (s.modDie n v).nextId = s.nextId := rfl
@[simp] theorem modDie_paths (n : Nat) (v : Die → Die) : (s.modDie n v).paths = s.paths := rfl
@[simp] theorem modDie_links (n : Nat) (v : Die → Die) : (s.modDie n v).links = s.links := rfl
@[simp] theorem modDie_agenda (n : Nat) (v : Die → Die) : (s.modDie n v).agenda = s.agenda := rfl
@[simp] theorem modDie_cur (n : Nat) (v : Die → Die) : (s.modDie n v).cur = s.cur := rfl
@[simp] theorem modDie_free (n : Nat) (v : Die → Die) : (s.modDie n v).free = s.free := rfl
@[simp] theorem modDie_hart (n : Nat) (v : Die → Die) (k : Nat) : (s.modDie n v).hart k = s.hart k := rfl
@[simp] theorem modDie_core (n : Nat) (v : Die → Die) (k : Nat) : (s.modDie n v).core k = s.core k := rfl
@[simp] theorem modDie_cluster (n : Nat) (v : Die → Die) (k : Nat) : (s.modDie n v).cluster k = s.cluster k := rfl
@[simp] theorem modDie_die_same (n : Nat) (v : Die → Die) : (s.modDie n v).die n = v (s.die n) := SMap.get_put_same _ _ _ _
theorem modDie_die_ne (n : Nat) (v : Die → Die) {k : Nat} (h : k ≠ n) : (s.modDie n v).die k = s.die k := SMap.get_put_ne _ _ _ h
theorem modDie_die (n : Nat) (v : Die → Die) (k : Nat) : (s.modDie n v).die k = if k = n then v (s.die n) else s.die k := SMap.get_put _ _ _ _ _

/-! modPkg -/

@[simp] theorem modPkg_harts (v : Pkg → Pkg) : (s.modPkg v).harts = s.harts := rfl
@[simp] theorem modPkg_cores (v : Pkg → Pkg) : (s.modPkg v).cores = s.cores := rfl
@[simp] theorem modPkg_clusters (v : Pkg → Pkg) : (s.modPkg v).clusters = s.clusters := rfl
@[simp] theorem modPkg_dies (v : Pkg → Pkg) : (s.modPkg v).dies = s.dies := rfl
@[simp] theorem modPkg_pkg (v : Pkg → Pkg) : (s.modPkg v).pkg = v s.pkg := rfl
@[simp] theorem modPkg_mem (v : Pkg → Pkg) : (s.modPkg v).mem = s.mem := rfl
@[simp] theorem modPkg_gran (v : Pkg → Pkg) : (s.modPkg v).gran = s.gran := rfl
@[simp] theorem modPkg_net (v : Pkg → Pkg) : (s.modPkg v).net = s.net := rfl
@[simp] theorem modPkg_nextId (v : Pkg → Pkg) : (s.modPkg v).nextId = s.nextId := rfl
@[simp] theorem modPkg_paths (v : Pkg → Pkg) : (s.modPkg v).paths = s.paths := rfl
@[simp] theorem modPkg_links (v : Pkg → Pkg) : (s.modPkg v).links = s.links := rfl
@[simp] theorem modPkg_agenda (v : Pkg → Pkg) : (s.modPkg v).agenda = s.agenda := rfl
@[simp] theorem modPkg_cur (v : Pkg → Pkg) : (s.modPkg v).cur = s.cur := rfl
@[simp] theorem modPkg_free (v : Pkg → Pkg) : (s.modPkg v).free = s.free := rfl
@[simp] theorem modPkg_hart (v : Pkg → Pkg) (k : Nat) : (s.modPkg v).hart k = s.hart k := rfl
@[simp] theorem modPkg_core (v : Pkg → Pkg) (k : Nat) : (s.modPkg v).core k = s.core k := rfl
@[simp] theorem modPkg_cluster (v : Pkg → Pkg) (k : Nat) : (s.modPkg v).cluster k = s.cluster k := rfl
@[simp] theorem modPkg_die (v : Pkg → Pkg) (k : Nat) : (s.modPkg v).die k = s.die k := rfl

/-! The executing hart. -/

theorem me_def : s.me = s.hart s.cur := rfl
@[simp] theorem modHart_me (f : Hart → Hart) : (s.modHart s.cur f).me = f s.me := modHart_hart_same s s.cur f
@[simp] theorem setHart_me (H : Hart) : (s.setHart s.cur H).me = H := setHart_hart_same s s.cur H
@[simp] theorem modCore_me (n : Nat) (f : Core → Core) : (s.modCore n f).me = s.me := rfl
@[simp] theorem modCluster_me (n : Nat) (f : Cluster → Cluster) : (s.modCluster n f).me = s.me := rfl
@[simp] theorem modDie_me (n : Nat) (f : Die → Die) : (s.modDie n f).me = s.me := rfl
@[simp] theorem modPkg_me (f : Pkg → Pkg) : (s.modPkg f).me = s.me := rfl

/-! A free value is drawn. -/

@[simp] theorem draw_fst : s.draw.1 = Config.freeBits s.free := rfl
@[simp] theorem draw_free : s.draw.2.free = s.free + 1 := rfl
@[simp] theorem draw_mem : s.draw.2.mem = s.mem := rfl
@[simp] theorem draw_cur : s.draw.2.cur = s.cur := rfl
@[simp] theorem draw_hart (k : Nat) : s.draw.2.hart k = s.hart k := rfl
@[simp] theorem draw_me : s.draw.2.me = s.me := rfl

end State

namespace Hart

variable (H : Hart)

/-! Registers (R7): x0 reads 0 and discards writes; a write changes its own register. -/

@[simp] theorem getX_zero : H.getX 0 = 0 := rfl
@[simp] theorem setX_zero (v : Word) : H.setX 0 v = H := rfl
theorem getX_setX (n k : Nat) (v : Word) : (H.setX n v).getX k = if k = n ∧ n ≠ 0 then v else H.getX k := by
  by_cases hn : n = 0
  · subst hn; simp
  · by_cases hk : k = n
    · subst hk; simp [setX, getX, hn]
    · by_cases h0 : k = 0
      · subst h0; simp [hk]
      · simp [setX, getX, hn, hk, h0, SMap.get_put_ne]
@[simp] theorem getX_setX_same {n : Nat} (h : n ≠ 0) (v : Word) : (H.setX n v).getX n = v := by simp [getX_setX, h]
theorem getX_setX_ne {n k : Nat} (h : k ≠ n) (v : Word) : (H.setX n v).getX k = H.getX k := by simp [getX_setX, h]
theorem getF_setF (n k : Nat) (v : W32) : (H.setF n v).getF k = if k = n then v else H.getF k := SMap.get_put _ _ _ _ _
theorem getV_setV (n k : Nat) (v : VReg) : (H.setV n v).getV k = if k = n then v else H.getV k := SMap.get_put _ _ _ _ _
theorem getM_setM (n k : Nat) (v : Word) : (H.setM n v).getM k = if k = n then v else H.getM k := SMap.get_put _ _ _ _ _
@[simp] theorem setX_getF (n k : Nat) (v : Word) : (H.setX n v).getF k = H.getF k := by unfold setX; split <;> rfl
@[simp] theorem setX_getV (n k : Nat) (v : Word) : (H.setX n v).getV k = H.getV k := by unfold setX; split <;> rfl
@[simp] theorem setX_getM (n k : Nat) (v : Word) : (H.setX n v).getM k = H.getM k := by unfold setX; split <;> rfl
@[simp] theorem setF_getX (n k : Nat) (v : W32) : (H.setF n v).getX k = H.getX k := rfl
@[simp] theorem setF_getV (n k : Nat) (v : W32) : (H.setF n v).getV k = H.getV k := rfl
@[simp] theorem setF_getM (n k : Nat) (v : W32) : (H.setF n v).getM k = H.getM k := rfl
@[simp] theorem setV_getX (n k : Nat) (v : VReg) : (H.setV n v).getX k = H.getX k := rfl
@[simp] theorem setV_getF (n k : Nat) (v : VReg) : (H.setV n v).getF k = H.getF k := rfl
@[simp] theorem setV_getM (n k : Nat) (v : VReg) : (H.setV n v).getM k = H.getM k := rfl
@[simp] theorem setM_getX (n k : Nat) (v : Word) : (H.setM n v).getX k = H.getX k := rfl
@[simp] theorem setM_getF (n k : Nat) (v : Word) : (H.setM n v).getF k = H.getF k := rfl
@[simp] theorem setM_getV (n k : Nat) (v : Word) : (H.setM n v).getV k = H.getV k := rfl

/-- A write of X leaves every other part of the hart. -/
theorem setX_rest (n : Nat) (v : Word) : H.setX n v = { H with x := (H.setX n v).x } := by unfold setX; split <;> rfl

end Hart

end Sys2Proof.Machine
end

