-- ==== Sys2Proof/Laws/Memory.lean ====
section
/-! SUPPORT. What the shared operations on memory do: the bytes they write, what they leave alone, and that they
keep the canonical form. -/

namespace Sys2Proof.Machine
open Sys2Proof

/-- What every step of a fold keeps, the fold keeps. -/
theorem foldl_keeps {α γ : Type} (g : State → γ) (f : State → α → State) (h : ∀ s a, g (f s a) = g s) (l : List α) :
    ∀ s, g (l.foldl f s) = g s := by
  induction l with
  | nil => intro s; rfl
  | cons a r ih => intro s; rw [List.foldl_cons, ih, h]

/-- Memory operations leave a part of the state: harts, cores, clusters and granule bits are all they change besides bytes. -/
structure Aside {γ : Type} (g : State → γ) : Prop where
  hart    : ∀ s n f, g (State.modHart s n f) = g s
  core    : ∀ s n f, g (State.modCore s n f) = g s
  cluster : ∀ s n f, g (State.modCluster s n f) = g s
  gran    : ∀ s l b, g (State.setGbits s l b) = g s

theorem aside_mem : Aside State.mem := ⟨fun _ _ _ => rfl, fun _ _ _ => rfl, fun _ _ _ => rfl, fun _ _ _ => rfl⟩
theorem aside_net : Aside State.net := ⟨fun _ _ _ => rfl, fun _ _ _ => rfl, fun _ _ _ => rfl, fun _ _ _ => rfl⟩
theorem aside_nextId : Aside State.nextId := ⟨fun _ _ _ => rfl, fun _ _ _ => rfl, fun _ _ _ => rfl, fun _ _ _ => rfl⟩
theorem aside_paths : Aside State.paths := ⟨fun _ _ _ => rfl, fun _ _ _ => rfl, fun _ _ _ => rfl, fun _ _ _ => rfl⟩
theorem aside_links : Aside State.links := ⟨fun _ _ _ => rfl, fun _ _ _ => rfl, fun _ _ _ => rfl, fun _ _ _ => rfl⟩
theorem aside_agenda : Aside State.agenda := ⟨fun _ _ _ => rfl, fun _ _ _ => rfl, fun _ _ _ => rfl, fun _ _ _ => rfl⟩
theorem aside_cur : Aside State.cur := ⟨fun _ _ _ => rfl, fun _ _ _ => rfl, fun _ _ _ => rfl, fun _ _ _ => rfl⟩
theorem aside_free : Aside State.free := ⟨fun _ _ _ => rfl, fun _ _ _ => rfl, fun _ _ _ => rfl, fun _ _ _ => rfl⟩
theorem aside_pkg : Aside State.pkg := ⟨fun _ _ _ => rfl, fun _ _ _ => rfl, fun _ _ _ => rfl, fun _ _ _ => rfl⟩
theorem aside_dies : Aside State.dies := ⟨fun _ _ _ => rfl, fun _ _ _ => rfl, fun _ _ _ => rfl, fun _ _ _ => rfl⟩

namespace Aside
variable {γ : Type} {g : State → γ} (a : Aside g)
include a

/-- What an access does to one stored error. -/
theorem rowFix (s : State) (c : Nat) (f : RowFix) : g (Machine.rowFix s c f) = g s := by
  cases f with
  | corrected k => simp only [Machine.rowFix, countCE]; rw [a.cluster, a.core]
  | reported k => simp only [Machine.rowFix, report]; rw [a.cluster]
  | gone k => simp only [Machine.rowFix]; rw [a.core]
  | poisoned n => simp only [Machine.rowFix, State.setPoi]; rw [a.gran]
theorem scrubGranule (s : State) (c n : Nat) (w b : Bool) : g (Machine.scrubGranule s c n w b) = g s :=
  foldl_keeps g _ (fun _ _ => a.rowFix _ _ _) _ _
theorem scrub (s : State) (l n : Nat) (w : Bool) : g (Machine.scrub s l n w) = g s := by
  unfold Machine.scrub; split
  · exact foldl_keeps g _ (fun _ _ => a.scrubGranule _ _ _ _ _) _ _
  · rfl
theorem setPoi (s : State) (l : Nat) (p : Bool) : g (s.setPoi l p) = g s := a.gran _ _ _
theorem setFe (s : State) (l : Nat) (p : Bool) : g (s.setFe l p) = g s := a.gran _ _ _
theorem poisonWrite (s : State) (l n : Nat) (p : Bool) : g (Machine.poisonWrite s l n p) = g s := by
  unfold Machine.poisonWrite; repeat' split
  · rfl
  · exact foldl_keeps g _ (fun _ _ => foldl_keeps g _ (fun _ _ => a.setPoi _ _ _) _ _) _ _
  · exact foldl_keeps g _ (fun _ _ => by unfold poisonPad; split <;> exact a.setPoi _ _ _) _ _
theorem loseResv (s : State) (w : Option Nat) (l n : Nat) : g (Machine.loseResv s w l n) = g s := by
  unfold Machine.loseResv; split
  · refine foldl_keeps g _ (fun _ _ => ?_) _ _
    repeat' split
    all_goals first | rfl | exact a.hart _ _ _
  · rfl
theorem dirtyCode (s : State) (l n : Nat) : g (Machine.dirtyCode s l n) = g s := by
  unfold Machine.dirtyCode; split
  · rfl
  · exact a.core _ _ _
/-- A store leaves what its bytes leave. -/
theorem store (s : State) (w : Option Nat) (l : Nat) (b : List Byte) (p : Bool) :
    g (Machine.store s w l b p) = g { Machine.scrub s l b.length true with mem := (Machine.scrub s l b.length true).mem.writeBytes l b } := by
  unfold Machine.store; rw [a.dirtyCode, a.loseResv, a.poisonWrite]
theorem load (s : State) (l n : Nat) : g (Machine.load s l n).1 = g s := a.scrub _ _ _ _

end Aside

/-! Error handling leaves every part of the state but cores, clusters and granule bits. -/

@[simp] theorem scrub_mem (s : State) (l n : Nat) (w : Bool) : (scrub s l n w).mem = s.mem := aside_mem.scrub s l n w
@[simp] theorem scrub_net (s : State) (l n : Nat) (w : Bool) : (scrub s l n w).net = s.net := aside_net.scrub s l n w
@[simp] theorem scrub_nextId (s : State) (l n : Nat) (w : Bool) : (scrub s l n w).nextId = s.nextId := aside_nextId.scrub s l n w
@[simp] theorem scrub_paths (s : State) (l n : Nat) (w : Bool) : (scrub s l n w).paths = s.paths := aside_paths.scrub s l n w
@[simp] theorem scrub_links (s : State) (l n : Nat) (w : Bool) : (scrub s l n w).links = s.links := aside_links.scrub s l n w
@[simp] theorem scrub_agenda (s : State) (l n : Nat) (w : Bool) : (scrub s l n w).agenda = s.agenda := aside_agenda.scrub s l n w
@[simp] theorem scrub_cur (s : State) (l n : Nat) (w : Bool) : (scrub s l n w).cur = s.cur := aside_cur.scrub s l n w
@[simp] theorem scrub_free (s : State) (l n : Nat) (w : Bool) : (scrub s l n w).free = s.free := aside_free.scrub s l n w
@[simp] theorem scrub_pkg (s : State) (l n : Nat) (w : Bool) : (scrub s l n w).pkg = s.pkg := aside_pkg.scrub s l n w
@[simp] theorem scrub_dies (s : State) (l n : Nat) (w : Bool) : (scrub s l n w).dies = s.dies := aside_dies.scrub s l n w
@[simp] theorem scrub_harts (s : State) (l n : Nat) (w : Bool) : (scrub s l n w).harts = s.harts := by
  unfold scrub; split
  · exact foldl_keeps State.harts _ (fun _ _ => foldl_keeps State.harts _ (fun _ f => by cases f <;> rfl) _ _) _ _
  · rfl
@[simp] theorem scrub_me (s : State) (l n : Nat) (w : Bool) : (scrub s l n w).me = s.me := by
  simp [State.me, State.hart]

/-! A store and a load. -/

/-- A store writes its bytes at its location, and no other byte. -/
@[simp] theorem store_mem (s : State) (w : Option Nat) (l : Nat) (b : List Byte) (p : Bool) :
    (store s w l b p).mem = s.mem.writeBytes l b := by rw [aside_mem.store, scrub_mem]
@[simp] theorem store_net (s : State) (w : Option Nat) (l : Nat) (b : List Byte) (p : Bool) : (store s w l b p).net = s.net := by
  rw [aside_net.store]; exact scrub_net _ _ _ _
@[simp] theorem store_nextId (s : State) (w : Option Nat) (l : Nat) (b : List Byte) (p : Bool) : (store s w l b p).nextId = s.nextId := by
  rw [aside_nextId.store]; exact scrub_nextId _ _ _ _
@[simp] theorem store_paths (s : State) (w : Option Nat) (l : Nat) (b : List Byte) (p : Bool) : (store s w l b p).paths = s.paths := by
  rw [aside_paths.store]; exact scrub_paths _ _ _ _
@[simp] theorem store_links (s : State) (w : Option Nat) (l : Nat) (b : List Byte) (p : Bool) : (store s w l b p).links = s.links := by
  rw [aside_links.store]; exact scrub_links _ _ _ _
@[simp] theorem store_agenda (s : State) (w : Option Nat) (l : Nat) (b : List Byte) (p : Bool) : (store s w l b p).agenda = s.agenda := by
  rw [aside_agenda.store]; exact scrub_agenda _ _ _ _
@[simp] theorem store_cur (s : State) (w : Option Nat) (l : Nat) (b : List Byte) (p : Bool) : (store s w l b p).cur = s.cur := by
  rw [aside_cur.store]; exact scrub_cur _ _ _ _
@[simp] theorem store_free (s : State) (w : Option Nat) (l : Nat) (b : List Byte) (p : Bool) : (store s w l b p).free = s.free := by
  rw [aside_free.store]; exact scrub_free _ _ _ _
@[simp] theorem store_pkg (s : State) (w : Option Nat) (l : Nat) (b : List Byte) (p : Bool) : (store s w l b p).pkg = s.pkg := by
  rw [aside_pkg.store]; exact scrub_pkg _ _ _ _
@[simp] theorem store_dies (s : State) (w : Option Nat) (l : Nat) (b : List Byte) (p : Bool) : (store s w l b p).dies = s.dies := by
  rw [aside_dies.store]; exact scrub_dies _ _ _ _
@[simp] theorem load_mem (s : State) (l n : Nat) : (load s l n).1.mem = s.mem := aside_mem.load s l n
@[simp] theorem load_net (s : State) (l n : Nat) : (load s l n).1.net = s.net := aside_net.load s l n
@[simp] theorem load_nextId (s : State) (l n : Nat) : (load s l n).1.nextId = s.nextId := aside_nextId.load s l n
@[simp] theorem load_paths (s : State) (l n : Nat) : (load s l n).1.paths = s.paths := aside_paths.load s l n
@[simp] theorem load_links (s : State) (l n : Nat) : (load s l n).1.links = s.links := aside_links.load s l n
@[simp] theorem load_agenda (s : State) (l n : Nat) : (load s l n).1.agenda = s.agenda := aside_agenda.load s l n
@[simp] theorem load_cur (s : State) (l n : Nat) : (load s l n).1.cur = s.cur := aside_cur.load s l n
@[simp] theorem load_free (s : State) (l n : Nat) : (load s l n).1.free = s.free := aside_free.load s l n
@[simp] theorem load_pkg (s : State) (l n : Nat) : (load s l n).1.pkg = s.pkg := aside_pkg.load s l n
@[simp] theorem load_dies (s : State) (l n : Nat) : (load s l n).1.dies = s.dies := aside_dies.load s l n
@[simp] theorem load_me (s : State) (l n : Nat) : (load s l n).1.me = s.me := scrub_me _ _ _ _

/-- A byte outside a store reads as before. -/
theorem store_outside (s : State) (w : Option Nat) (l : Nat) (b : List Byte) (p : Bool) (a : Nat) (h : a < l ∨ l + b.length ≤ a) :
    (store s w l b p).mem.read a = s.mem.read a := by
  rw [store_mem, Memory.read_writeBytes_outside _ _ _ _ h]
/-- A store keeps the canonical form. -/
theorem wf_store {s : State} (h : s.mem.wf = true) (w : Option Nat) (l : Nat) (b : List Byte) (p : Bool) : (store s w l b p).mem.wf = true := by
  rw [store_mem]; exact Memory.wf_writeBytes b h l
/-- A load keeps the canonical form. -/
theorem wf_load {s : State} (h : s.mem.wf = true) (l n : Nat) : (load s l n).1.mem.wf = true := by rw [load_mem]; exact h

/-- Leaving out entries keeps the canonical form. -/
theorem canon_filter (f : Nat × Byte → Bool) (m : Memory) : ∀ lo, SMap.canon Memory.blank lo m = true → SMap.canon Memory.blank lo (m.filter f) = true := by
  induction m with
  | nil => intro lo _; rfl
  | cons x r ih =>
    intro lo h
    obtain ⟨k, v⟩ := x
    have hr := (SMap.canon_cons.1 h)
    rw [List.filter_cons]
    split
    · exact SMap.canon_cons.2 ⟨hr.1, hr.2.1, ih _ hr.2.2⟩
    · cases lo with
      | none =>
        refine ih none ?_
        cases r with
        | nil => rfl
        | cons y r =>
          obtain ⟨j, u⟩ := y
          have := SMap.canon_cons.1 hr.2.2
          exact SMap.canon_cons.2 ⟨(by intro b hb; cases hb), this.2⟩
      | some b => exact ih _ (SMap.canon_mono hr.2.2 (by have := hr.1 b rfl; omega))
theorem wf_filter {m : Memory} (h : m.wf = true) (f : Nat × Byte → Bool) : Memory.wf (m.filter f) = true := canon_filter f m none h
/-- Wiping a region keeps the canonical form. -/
theorem wf_wipeMem {s : State} (h : s.mem.wf = true) (lo n : Nat) : (wipeMem s lo n).mem.wf = true := wf_filter h _

end Sys2Proof.Machine
end

