-- ==== Sys2Proof/Laws/Retire.lean ====
section
/-! SUPPORT. What the shared ends of a meaning do: checks, retirement in sequence and to a target. -/

namespace Sys2Proof.Machine
open Sys2Proof

/-! Checks. -/

@[simp] theorem Pre.seq_ok_iff (p q : Pre) : Pre.seq p q = .ok ↔ p = .ok ∧ q = .ok := by
  cases p <;> simp [Pre.seq]
@[simp] theorem Pre.all_nil : Pre.all [] = .ok := rfl
@[simp] theorem Pre.all_cons_ok_iff (p : Pre) (r : List Pre) : Pre.all (p :: r) = .ok ↔ p = .ok ∧ Pre.all r = .ok := by
  simp [Pre.all]
@[simp] theorem need_ok_iff (b : Bool) (c : Nat) (v : Word) : need b c v = .ok ↔ b = true := by
  cases b <;> simp [need]
@[simp] theorem ready_ok_iff (b : Bool) (w : Wait) : ready b w = .ok ↔ b = true := by
  cases b <;> simp [ready]
@[simp] theorem finish_ok (s t : State) : finish s .ok t = .next t := rfl
@[simp] theorem finish_trap (s t : State) (c : Nat) (v : Word) (x : Fix) :
    finish s (.trap c v x) t = .next (takeTrap (s.modHart s.cur fun H => fixUp H x) s.cur false c v) := rfl
/-- A check that settles nothing else raises its trap on the state as it is. -/
theorem finish_trap_none (s t : State) (c : Nat) (v : Word) : finish s (.trap c v) t = .next (takeTrap s s.cur false c v) := by
  simp [finish, takeTrap, fixUp]
@[simp] theorem finish_wait (s t : State) (w : Wait) :
    finish s (.wait w) t = .next (s.modHart s.cur fun H => { H with stalled := some w }) := rfl
/-- No meaning that ends in `finish` stops the machine. -/
theorem finish_next (s : State) (p : Pre) (t : State) : ∃ u, finish s p t = .next u := by
  cases p <;> exact ⟨_, rfl⟩

/-! Taking an exception changes the hart it is taken on, and nothing else. -/

@[simp] theorem takeTrap_cores (s : State) (h : Nat) (i : Bool) (c : Nat) (v : Word) : (takeTrap s h i c v).cores = s.cores := rfl
@[simp] theorem takeTrap_clusters (s : State) (h : Nat) (i : Bool) (c : Nat) (v : Word) : (takeTrap s h i c v).clusters = s.clusters := rfl
@[simp] theorem takeTrap_dies (s : State) (h : Nat) (i : Bool) (c : Nat) (v : Word) : (takeTrap s h i c v).dies = s.dies := rfl
@[simp] theorem takeTrap_pkg (s : State) (h : Nat) (i : Bool) (c : Nat) (v : Word) : (takeTrap s h i c v).pkg = s.pkg := rfl
@[simp] theorem takeTrap_mem (s : State) (h : Nat) (i : Bool) (c : Nat) (v : Word) : (takeTrap s h i c v).mem = s.mem := rfl
@[simp] theorem takeTrap_gran (s : State) (h : Nat) (i : Bool) (c : Nat) (v : Word) : (takeTrap s h i c v).gran = s.gran := rfl
@[simp] theorem takeTrap_net (s : State) (h : Nat) (i : Bool) (c : Nat) (v : Word) : (takeTrap s h i c v).net = s.net := rfl
@[simp] theorem takeTrap_paths (s : State) (h : Nat) (i : Bool) (c : Nat) (v : Word) : (takeTrap s h i c v).paths = s.paths := rfl
@[simp] theorem takeTrap_links (s : State) (h : Nat) (i : Bool) (c : Nat) (v : Word) : (takeTrap s h i c v).links = s.links := rfl
@[simp] theorem takeTrap_nextId (s : State) (h : Nat) (i : Bool) (c : Nat) (v : Word) : (takeTrap s h i c v).nextId = s.nextId := rfl
@[simp] theorem takeTrap_agenda (s : State) (h : Nat) (i : Bool) (c : Nat) (v : Word) : (takeTrap s h i c v).agenda = s.agenda := rfl
@[simp] theorem takeTrap_cur (s : State) (h : Nat) (i : Bool) (c : Nat) (v : Word) : (takeTrap s h i c v).cur = s.cur := rfl
@[simp] theorem takeTrap_free (s : State) (h : Nat) (i : Bool) (c : Nat) (v : Word) : (takeTrap s h i c v).free = s.free := rfl
@[simp] theorem takeTrap_hart (s : State) (h : Nat) (i : Bool) (c : Nat) (v : Word) : (takeTrap s h i c v).hart h = enterTrap (s.hart h) i c v := by
  simp [takeTrap]
theorem takeTrap_hart_ne (s : State) {h k : Nat} (i : Bool) (c : Nat) (v : Word) (hk : k ≠ h) : (takeTrap s h i c v).hart k = s.hart k :=
  State.setHart_hart_ne _ _ _ hk

/-! A packet takes its place at a router: only paths and the ports of links change. -/

@[simp] theorem stand_harts (s : State) (p : Packet) (r : Nat) : (stand s p r).harts = s.harts := by unfold stand; dsimp only; split <;> rfl
@[simp] theorem stand_cores (s : State) (p : Packet) (r : Nat) : (stand s p r).cores = s.cores := by unfold stand; dsimp only; split <;> rfl
@[simp] theorem stand_clusters (s : State) (p : Packet) (r : Nat) : (stand s p r).clusters = s.clusters := by unfold stand; dsimp only; split <;> rfl
@[simp] theorem stand_dies (s : State) (p : Packet) (r : Nat) : (stand s p r).dies = s.dies := by unfold stand; dsimp only; split <;> rfl
@[simp] theorem stand_pkg (s : State) (p : Packet) (r : Nat) : (stand s p r).pkg = s.pkg := by unfold stand; dsimp only; split <;> rfl
@[simp] theorem stand_mem (s : State) (p : Packet) (r : Nat) : (stand s p r).mem = s.mem := by unfold stand; dsimp only; split <;> rfl
@[simp] theorem stand_gran (s : State) (p : Packet) (r : Nat) : (stand s p r).gran = s.gran := by unfold stand; dsimp only; split <;> rfl
@[simp] theorem stand_net (s : State) (p : Packet) (r : Nat) : (stand s p r).net = s.net := by unfold stand; dsimp only; split <;> rfl
@[simp] theorem stand_nextId (s : State) (p : Packet) (r : Nat) : (stand s p r).nextId = s.nextId := by unfold stand; dsimp only; split <;> rfl
@[simp] theorem stand_agenda (s : State) (p : Packet) (r : Nat) : (stand s p r).agenda = s.agenda := by unfold stand; dsimp only; split <;> rfl
@[simp] theorem stand_cur (s : State) (p : Packet) (r : Nat) : (stand s p r).cur = s.cur := by unfold stand; dsimp only; split <;> rfl
@[simp] theorem stand_free (s : State) (p : Packet) (r : Nat) : (stand s p r).free = s.free := by unfold stand; dsimp only; split <;> rfl

/-! Sending a packet lengthens the list of packets in flight by one, and counts it. -/

@[simp] theorem send_harts (s : State) (h : Nat) (b : Body) : (send s h b).harts = s.harts := by simp [send, sendFrom]
@[simp] theorem send_cores (s : State) (h : Nat) (b : Body) : (send s h b).cores = s.cores := by simp [send, sendFrom]
@[simp] theorem send_clusters (s : State) (h : Nat) (b : Body) : (send s h b).clusters = s.clusters := by simp [send, sendFrom]
@[simp] theorem send_dies (s : State) (h : Nat) (b : Body) : (send s h b).dies = s.dies := by simp [send, sendFrom]
@[simp] theorem send_pkg (s : State) (h : Nat) (b : Body) : (send s h b).pkg = s.pkg := by simp [send, sendFrom]
@[simp] theorem send_mem (s : State) (h : Nat) (b : Body) : (send s h b).mem = s.mem := by simp [send, sendFrom]
@[simp] theorem send_gran (s : State) (h : Nat) (b : Body) : (send s h b).gran = s.gran := by simp [send, sendFrom]
@[simp] theorem send_agenda (s : State) (h : Nat) (b : Body) : (send s h b).agenda = s.agenda := by simp [send, sendFrom]
@[simp] theorem send_cur (s : State) (h : Nat) (b : Body) : (send s h b).cur = s.cur := by simp [send, sendFrom]
@[simp] theorem send_free (s : State) (h : Nat) (b : Body) : (send s h b).free = s.free := by simp [send, sendFrom]
@[simp] theorem send_nextId (s : State) (h : Nat) (b : Body) : (send s h b).nextId = s.nextId + 1 := by simp [send, sendFrom]
@[simp] theorem send_net (s : State) (h : Nat) (b : Body) :
    (send s h b).net = s.net ++ [{ id := s.nextId, hart := h, slot := slotOf (s.hart h), key := keyOf (s.hart h), body := b
                                   limit := (s.core (coreOf h)).feLimit, imgs := imagesNow (s.hart h) }] := by simp [send, sendFrom]
/-- A packet found in flight has the number it was looked for by. -/
theorem findPkt_id {s : State} {p : Nat} {q : Packet} (h : findPkt s p = some q) : q.id = p := by
  simpa using List.find?_some h

/-! Registers. -/

theorem getReg_setX (H : Hart) (q : RFile) (k n : Nat) (v : Word) (h : (q, k) ≠ (RFile.x, n)) :
    (H.setX n v).getReg q k = H.getReg q k := by
  cases q <;> simp [Hart.getReg]
  rw [Hart.getX_setX_ne]
  rintro rfl
  exact h rfl

/-- Two harts with the same registers. -/
theorem getReg_congr {H T : Hart} (hx : T.x = H.x) (hf : T.f = H.f) (hv : T.v = H.v) (hm : T.m = H.m) (q : RFile)
    (n : Nat) : T.getReg q n = H.getReg q n := by
  cases q <;> simp [Hart.getReg, Hart.getX, Hart.getF, Hart.getV, Hart.getM, hx, hf, hv, hm]

/-! The loop evaluation. -/

theorem loopLevel_fst (l : LoopLevel) (a : Word) : (loopLevel l a).1 = { l with count := (loopLevel l a).1.count } := by
  unfold loopLevel; split
  · split <;> rfl
  · rfl

theorem loopEval_csr (C : Csrs) (a : Word) : (loopEval C a).1 = { C with
    loop0 := { C.loop0 with count := (loopEval C a).1.loop0.count }
    loop1 := { C.loop1 with count := (loopEval C a).1.loop1.count } } := by
  unfold loopEval
  split
  · rfl
  · split
    · next h =>
      have := loopLevel_fst C.loop0 a
      rw [h] at this
      simp only at this ⊢
      rw [this]
    · next h =>
      have h0 := loopLevel_fst C.loop0 a
      have h1 := loopLevel_fst C.loop1 a
      rw [h] at h0
      simp only at h0 ⊢
      rw [h0, h1]

theorem loopEval_next (H : Hart) : ((loopEval H.csr H.pc).2.1).getD (H.pc + 4) = nextPc H := by
  unfold loopEval nextPc goesBack loopLevel
  by_cases hle : leBit H.csr = true
  · by_cases a0 : H.csr.loop0.count = 0 <;> by_cases b0 : H.csr.loop0.count = 1 <;>
    by_cases c0 : H.pc = H.csr.loop0.stop <;> by_cases a1 : H.csr.loop1.count = 0 <;>
    by_cases b1 : H.csr.loop1.count = 1 <;> by_cases c1 : H.pc = H.csr.loop1.stop <;>
    simp_all
  · simp only [Bool.not_eq_true] at hle
    simp [hle]

/-! Retirement. -/

theorem follow_rest (H : Hart) (r : Csrs × Option Word × Bool) (b : Bool)
    (hr : r.1 = { H.csr with
      loop0 := { H.csr.loop0 with count := r.1.loop0.count }
      loop1 := { H.csr.loop1 with count := r.1.loop1.count } }) : SameButRetire H (follow H r b) := by
  have h : (follow H r b).csr = r.1 := rfl
  unfold SameButRetire
  rw [h, ← hr]
  rfl

theorem SameButRetire.setX {H T : Hart} (h : SameButRetire H T) (n : Nat) (v : Word) :
    SameButRetire H (T.setX n v) := by
  rw [Hart.setX_rest]
  unfold SameButRetire at h ⊢
  rw [h]

theorem SameButRetire.vloop {H T : Hart} (h : SameButRetire H T) (v : Option VLoop) :
    SameButRetire H { T with vloop := v } := by
  unfold SameButRetire at h ⊢
  rw [h]

theorem SameButRetire.run {H T : Hart} (h : SameButRetire H T) (v : BitVec 12) :
    SameButRetire H { T with chk := { T.chk with run := v } } := by
  unfold SameButRetire at h ⊢
  rw [h]

theorem SameButRetire.broken {H T : Hart} (h : SameButRetire H T) (v : Option (Word × Nat)) :
    SameButRetire H { T with broken := v } := by
  unfold SameButRetire at h ⊢
  rw [h]

theorem SameButRetire.place {H T : Hart} (h : SameButRetire H T) (p : Word) (a : Arrival) (v : Option VLoop) :
    SameButRetire H { T with pc := p, arrival := a, vloop := v } := by
  unfold SameButRetire at h ⊢
  rw [h]

theorem retireCommon_rest (H : Hart) (a b : Bool) : SameButRetire H (retireCommon H a b) := rfl

theorem bodyWord_rest (H : Hart) (v : VLoop) : SameButRetire H (bodyWord H v) := by
  refine (follow_rest H _ _ ?_).vloop _
  split
  · exact loopEval_csr _ _
  · rfl

theorem brokenWord_rest (H : Hart) (b : Word × Nat) (run : BitVec 12) : SameButRetire H (brokenWord H b run) := by
  unfold brokenWord
  dsimp only
  split
  · exact ((follow_rest H _ false (loopEval_csr _ _)).run run).broken none
  · exact follow_rest H _ false (loopEval_csr _ _)

theorem brokenWord_pc (H : Hart) (b : Word × Nat) (run : BitVec 12) : (brokenWord H b run).pc = nextPc H := by
  unfold brokenWord
  dsimp only
  split <;> exact loopEval_next H

theorem brokenWord_regs (H : Hart) (b : Word × Nat) (run : BitVec 12) (q : RFile) (n : Nat) :
    (brokenWord H b run).getReg q n = H.getReg q n := by
  unfold brokenWord
  dsimp only
  split <;> exact getReg_congr rfl rfl rfl rfl q n

theorem retiredHart_rest (s : State) (h : Nat) : SameButRetire (s.hart h) (retiredHart s h) := by
  unfold retiredHart
  dsimp only
  split
  · exact follow_rest _ _ _ (loopEval_csr _ _)
  · split
    · exact brokenWord_rest _ _ _
    · exact follow_rest _ _ _ (loopEval_csr _ _)
  · next v _ =>
    split
    · exact bodyWord_rest _ v
    · split
      · exact (((follow_rest _ _ _ (loopEval_csr _ _)).setX _ _).vloop none).run _
      · exact ((retireCommon_rest _ false false).setX _ _).place _ _ _

theorem retiredHart_regs (s : State) (h : Nat) : SameRegs (s.hart h) (retiredHart s h) := by
  intro q n hn
  unfold retiredHart
  dsimp only
  split
  · exact getReg_congr rfl rfl rfl rfl q n
  · split
    · exact brokenWord_regs _ _ _ q n
    · exact getReg_congr rfl rfl rfl rfl q n
  · next v hv =>
    have hq : (q, n) ≠ (RFile.x, v.reg) := by
      intro h
      cases h
      simp [countsPasses, hv] at hn
    split
    · exact getReg_congr rfl rfl rfl rfl q n
    · split
      · exact (getReg_setX (follow (s.hart h) _ false) q n v.reg _ hq).trans (getReg_congr rfl rfl rfl rfl q n)
      · exact (getReg_setX (retireCommon (s.hart h) false false) q n v.reg _ hq).trans (getReg_congr rfl rfl rfl rfl q n)

theorem retiredHart_pc (s : State) (h : Nat) (hv : (s.hart h).vloop = none) : (retiredHart s h).pc = nextPc (s.hart h) := by
  unfold retiredHart
  dsimp only
  rw [hv]
  split
  · exact loopEval_next _
  · split
    · exact brokenWord_pc _ _ _
    · exact loopEval_next _
  · next h => cases h

/-- Everything that retiring a word in sequence does. -/
theorem retire_retired (s : State) : Retired s (retire s s.cur) := by
  have hme : (retire s s.cur).me = retiredHart s s.cur := State.setHart_me s _
  refine ⟨⟨rfl, rfl, rfl, rfl, rfl, rfl, rfl, rfl, rfl, rfl, rfl, rfl⟩, fun _ => rfl,
    fun h hh => State.setHart_hart_ne _ _ _ hh, ?_, ?_, ?_⟩
  · rw [hme]; exact retiredHart_regs s s.cur
  · rw [hme]; exact retiredHart_rest s s.cur
  · intro hv
    rw [hme]
    exact retiredHart_pc s s.cur hv

/-- Everything that retiring a word to a target does. -/
theorem retireTo_jumped (s : State) (d : Word) (a : Arrival) : Jumped s (retireTo s s.cur d a) d := by
  refine ⟨⟨rfl, rfl, rfl, rfl, rfl, rfl, rfl, rfl, rfl, rfl, rfl, rfl⟩, fun _ => rfl,
    fun h hh => State.modHart_hart_ne _ _ _ hh, ?_, ?_, ?_, ?_⟩
  · intro q n
    simp only [retireTo, State.modHart_cur, State.me_def, State.modHart_hart_same]
    exact getReg_congr rfl rfl rfl rfl q n
  · simp only [retireTo, State.modHart_cur, State.me_def, State.modHart_hart_same]
    rfl
  · simp only [retireTo, State.modHart_cur, State.me_def, State.modHart_hart_same]
    rfl
  · simp only [retireTo, State.modHart_cur, State.me_def, State.modHart_hart_same]

/-- A change of the executing hart, retired. -/
theorem retireWith_retired (s : State) (f : Hart → Hart) : Retired (s.modHart s.cur f) (retireWith s f) :=
  retire_retired (s.modHart s.cur f)

end Sys2Proof.Machine
end

