-- ==== Sys2Proof/Tests/Slice0.lean ====
section
/-! SUPPORT. Tests: words written out from the encodings, ill-formed instructions, the spec's worked cases, single
steps of small machines, and for each obligation states and operands that meet its hypotheses. -/

open Sys2Proof Sys2Proof.Machine
namespace Sys2Proof.Tests

/-! One theorem after the other: side by side they hold too many threads. -/
set_option Elab.async false

/-- Reset with changes to hart 0, the executing hart. -/
def withHart (f : Hart → Hart) : State := State.reset.modHart 0 f
/-- Reset with some X registers of hart 0. -/
def withX (l : SMap Word) : State := withHart fun H => { H with x := l }
/-- The address of an offset in the own scratchpad. -/
def adr (off : Nat) : Word := BitVec.ofNat 64 (0x9000000000000000 + off)
/-- The address of an offset in core c of the own cluster, canonical form. -/
def padAdr (c off : Nat) : Word := BitVec.ofNat 64 (2 ^ 63 + c * 2 ^ 34 + off)

/-- A packet of hart 0 that holds a place of its core, and a network of n of them. -/
def posted (id : Nat) : Packet :=
  { id := id, hart := 0, slot := none, key := 0, body := .reply (2 ^ 63 + 2 ^ 34) false (.posted false) .ack }
def withNet (l : List Packet) : State := { State.reset with net := l, nextId := 100 }

/-- Reset with bytes in the own scratchpad of core 0 and X registers of hart 0. -/
def withPad (off : Nat) (l : List Byte) (r : SMap Word) : State :=
  { withX r with mem := State.reset.mem.writeBytes (2 ^ 63 + off) l }

/-- A launch over cluster 0 of die 0 with four task types, its task in slot 1, and hart 0 running it in U mode. -/
def aLaunch : LaunchRec :=
  { root := {}, types := 0, ntypes := 4, key := 7, tree := 0, fabric := false, dies := 1, clus := 1, groups := 0
    lseq := 0, slot := 1, ring := 0, hostRing := none }
def aTask : Task := { trec := {}, launch := 5, slot := 1, key := 7, frame := 0, streams := 0, cost := 0 }
def inTask (l : SMap Word) : State :=
  { (withX l).modHart 0 (fun H => { H with mode := .U, task := some aTask }) with
    pkg := { State.reset.pkg with launches := [(5, { trec := aLaunch, start := 0 })] } }

/-- Cores 0 and 1 running, and one packet number 5 of hart 0 in the network. -/
def running : State := (State.reset.modCore 0 fun C => { C with isSealed := false }).modCore 1 fun C => { C with isSealed := false }
def pkt (b : Body) : Packet := { posted 5 with body := b }
def onNet (b : Body) : State := { running with net := [pkt b], nextId := 6 }


/-! Words written out bit by bit from the encoding tables (R38 to R66). -/

theorem test_decode_lui_to_lh :
    decode 0xABCDE2B7 = .ok (.lui 5 0xABCDE) ∧
    decode 0x12345317 = .ok (.auipc 6 0x12345) ∧
    decode 0x807FF0EF = .ok (.jal 1 0xffc03) ∧
    decode 0xFFC280E7 = .ok (.jalr 1 5 0xFFC) ∧
    decode 0xBE9405E3 = .ok (.beq 8 9 0xdf5) ∧
    decode 0xBE9415E3 = .ok (.bne 8 9 0xdf5) ∧
    decode 0xBE9445E3 = .ok (.blt 8 9 0xdf5) ∧
    decode 0xBE9455E3 = .ok (.bge 8 9 0xdf5) ∧
    decode 0xBE9465E3 = .ok (.bltu 8 9 0xdf5) ∧
    decode 0xBE9475E3 = .ok (.bgeu 8 9 0xdf5) ∧
    decode 0x7F158503 = .ok (.lb 10 11 0x7F1) ∧
    decode 0x7F159503 = .ok (.lh 10 11 0x7F1) :=
  ⟨rfl, rfl, rfl, rfl, rfl, rfl, rfl, rfl, rfl, rfl, rfl, rfl⟩

theorem test_decode_lw_to_sltiu :
    decode 0x7F15A503 = .ok (.lw 10 11 0x7F1) ∧
    decode 0x7F15B503 = .ok (.ld 10 11 0x7F1) ∧
    decode 0x7F15C503 = .ok (.lbu 10 11 0x7F1) ∧
    decode 0x7F15D503 = .ok (.lhu 10 11 0x7F1) ∧
    decode 0x7F15E503 = .ok (.lwu 10 11 0x7F1) ∧
    decode 0x8AD602A3 = .ok (.sb 12 13 0x8A5) ∧
    decode 0x8AD612A3 = .ok (.sh 12 13 0x8A5) ∧
    decode 0x8AD622A3 = .ok (.sw 12 13 0x8A5) ∧
    decode 0x8AD632A3 = .ok (.sd 12 13 0x8A5) ∧
    decode 0x9C378713 = .ok (.addi 14 15 0x9C3) ∧
    decode 0x9C37A713 = .ok (.slti 14 15 0x9C3) ∧
    decode 0x9C37B713 = .ok (.sltiu 14 15 0x9C3) :=
  ⟨rfl, rfl, rfl, rfl, rfl, rfl, rfl, rfl, rfl, rfl, rfl, rfl⟩

theorem test_decode_xori_to_xor :
    decode 0x9C37C713 = .ok (.xori 14 15 0x9C3) ∧
    decode 0x9C37E713 = .ok (.ori 14 15 0x9C3) ∧
    decode 0x9C37F713 = .ok (.andi 14 15 0x9C3) ∧
    decode 0x02D19113 = .ok (.slli 2 3 45) ∧
    decode 0x02D1D113 = .ok (.srli 2 3 45) ∧
    decode 0x42D1D113 = .ok (.srai 2 3 45) ∧
    decode 0x01288833 = .ok (.add 16 17 18) ∧
    decode 0x41288833 = .ok (.sub 16 17 18) ∧
    decode 0x01289833 = .ok (.sll 16 17 18) ∧
    decode 0x0128A833 = .ok (.slt 16 17 18) ∧
    decode 0x0128B833 = .ok (.sltu 16 17 18) ∧
    decode 0x0128C833 = .ok (.xor 16 17 18) :=
  ⟨rfl, rfl, rfl, rfl, rfl, rfl, rfl, rfl, rfl, rfl, rfl, rfl⟩

theorem test_decode_srl_to_remu :
    decode 0x0128D833 = .ok (.srl 16 17 18) ∧
    decode 0x4128D833 = .ok (.sra 16 17 18) ∧
    decode 0x0128E833 = .ok (.or 16 17 18) ∧
    decode 0x0128F833 = .ok (.and 16 17 18) ∧
    decode 0x03288833 = .ok (.mul 16 17 18) ∧
    decode 0x03289833 = .ok (.mulh 16 17 18) ∧
    decode 0x0328A833 = .ok (.mulhsu 16 17 18) ∧
    decode 0x0328B833 = .ok (.mulhu 16 17 18) ∧
    decode 0x0328C833 = .ok (.div 16 17 18) ∧
    decode 0x0328D833 = .ok (.divu 16 17 18) ∧
    decode 0x0328E833 = .ok (.rem 16 17 18) ∧
    decode 0x0328F833 = .ok (.remu 16 17 18) :=
  ⟨rfl, rfl, rfl, rfl, rfl, rfl, rfl, rfl, rfl, rfl, rfl, rfl⟩

theorem test_decode_addiw_to_divuw :
    decode 0xFFF7871B = .ok (.addiw 14 15 0xFFF) ∧
    decode 0x01D1911B = .ok (.slliw 2 3 29) ∧
    decode 0x01D1D11B = .ok (.srliw 2 3 29) ∧
    decode 0x41D1D11B = .ok (.sraiw 2 3 29) ∧
    decode 0x0128883B = .ok (.addw 16 17 18) ∧
    decode 0x4128883B = .ok (.subw 16 17 18) ∧
    decode 0x0128983B = .ok (.sllw 16 17 18) ∧
    decode 0x0128D83B = .ok (.srlw 16 17 18) ∧
    decode 0x4128D83B = .ok (.sraw 16 17 18) ∧
    decode 0x0328883B = .ok (.mulw 16 17 18) ∧
    decode 0x0328C83B = .ok (.divw 16 17 18) ∧
    decode 0x0328D83B = .ok (.divuw 16 17 18) :=
  ⟨rfl, rfl, rfl, rfl, rfl, rfl, rfl, rfl, rfl, rfl, rfl, rfl⟩

theorem test_decode_remw_to_lrD :
    decode 0x0328E83B = .ok (.remw 16 17 18) ∧
    decode 0x0328F83B = .ok (.remuw 16 17 18) ∧
    decode 0x0F30000F = .ok (.fence 0 15 3 0 0) ∧
    decode 0x8331008F = .ok (.fenceTso 1 2) ∧
    decode 0x0100000F = .ok (.pause) ∧
    decode 0x00000073 = .ok (.ecall) ∧
    decode 0x00100073 = .ok (.ebreak) ∧
    decode 0x30200073 = .ok (.mret) ∧
    decode 0x10200073 = .ok (.sret) ∧
    decode 0x10500073 = .ok (.wfi) ∧
    decode 0x140322AF = .ok (.lrW 5 6 true false) ∧
    decode 0x140332AF = .ok (.lrD 5 6 true false) :=
  ⟨rfl, rfl, rfl, rfl, rfl, rfl, rfl, rfl, rfl, rfl, rfl, rfl⟩

theorem test_decode_scW_to_amoOrD :
    decode 0x1A7322AF = .ok (.scW 5 6 7 false true) ∧
    decode 0x1A7332AF = .ok (.scD 5 6 7 false true) ∧
    decode 0x0A7322AF = .ok (.amoSwapW 5 6 7 false true) ∧
    decode 0x0A7332AF = .ok (.amoSwapD 5 6 7 false true) ∧
    decode 0x027322AF = .ok (.amoAddW 5 6 7 false true) ∧
    decode 0x027332AF = .ok (.amoAddD 5 6 7 false true) ∧
    decode 0x227322AF = .ok (.amoXorW 5 6 7 false true) ∧
    decode 0x227332AF = .ok (.amoXorD 5 6 7 false true) ∧
    decode 0x627322AF = .ok (.amoAndW 5 6 7 false true) ∧
    decode 0x627332AF = .ok (.amoAndD 5 6 7 false true) ∧
    decode 0x427322AF = .ok (.amoOrW 5 6 7 false true) ∧
    decode 0x427332AF = .ok (.amoOrD 5 6 7 false true) :=
  ⟨rfl, rfl, rfl, rfl, rfl, rfl, rfl, rfl, rfl, rfl, rfl, rfl⟩

theorem test_decode_amoMinW_to_fmsubS :
    decode 0x827322AF = .ok (.amoMinW 5 6 7 false true) ∧
    decode 0x827332AF = .ok (.amoMinD 5 6 7 false true) ∧
    decode 0xA27322AF = .ok (.amoMaxW 5 6 7 false true) ∧
    decode 0xA27332AF = .ok (.amoMaxD 5 6 7 false true) ∧
    decode 0xC27322AF = .ok (.amoMinuW 5 6 7 false true) ∧
    decode 0xC27332AF = .ok (.amoMinuD 5 6 7 false true) ∧
    decode 0xE27322AF = .ok (.amoMaxuW 5 6 7 false true) ∧
    decode 0xE27332AF = .ok (.amoMaxuD 5 6 7 false true) ∧
    decode 0x7F15A507 = .ok (.flw 10 11 0x7F1) ∧
    decode 0x8AD622A7 = .ok (.fsw 12 13 0x8A5) ∧
    decode 0x203110C3 = .ok (.fmaddS 1 2 3 4 .rtz) ∧
    decode 0x203110C7 = .ok (.fmsubS 1 2 3 4 .rtz) :=
  ⟨rfl, rfl, rfl, rfl, rfl, rfl, rfl, rfl, rfl, rfl, rfl, rfl⟩

theorem test_decode_fnmsubS_to_fmaxS :
    decode 0x203110CB = .ok (.fnmsubS 1 2 3 4 .rtz) ∧
    decode 0x203110CF = .ok (.fnmaddS 1 2 3 4 .rtz) ∧
    decode 0x003170D3 = .ok (.faddS 1 2 3 .dyn) ∧
    decode 0x083170D3 = .ok (.fsubS 1 2 3 .dyn) ∧
    decode 0x103170D3 = .ok (.fmulS 1 2 3 .dyn) ∧
    decode 0x183170D3 = .ok (.fdivS 1 2 3 .dyn) ∧
    decode 0x580140D3 = .ok (.fsqrtS 1 2 .rmm) ∧
    decode 0x203100D3 = .ok (.fsgnjS 1 2 3) ∧
    decode 0x203110D3 = .ok (.fsgnjnS 1 2 3) ∧
    decode 0x203120D3 = .ok (.fsgnjxS 1 2 3) ∧
    decode 0x283100D3 = .ok (.fminS 1 2 3) ∧
    decode 0x283110D3 = .ok (.fmaxS 1 2 3) :=
  ⟨rfl, rfl, rfl, rfl, rfl, rfl, rfl, rfl, rfl, rfl, rfl, rfl⟩

theorem test_decode_feqS_to_fmvXW :
    decode 0xA03120D3 = .ok (.feqS 1 2 3) ∧
    decode 0xA03110D3 = .ok (.fltS 1 2 3) ∧
    decode 0xA03100D3 = .ok (.fleS 1 2 3) ∧
    decode 0xC00130D3 = .ok (.fcvtWS 1 2 .rup) ∧
    decode 0xC01130D3 = .ok (.fcvtWuS 1 2 .rup) ∧
    decode 0xC02130D3 = .ok (.fcvtLS 1 2 .rup) ∧
    decode 0xC03130D3 = .ok (.fcvtLuS 1 2 .rup) ∧
    decode 0xD00120D3 = .ok (.fcvtSW 1 2 .rdn) ∧
    decode 0xD01120D3 = .ok (.fcvtSWu 1 2 .rdn) ∧
    decode 0xD02120D3 = .ok (.fcvtSL 1 2 .rdn) ∧
    decode 0xD03120D3 = .ok (.fcvtSLu 1 2 .rdn) ∧
    decode 0xE00100D3 = .ok (.fmvXW 1 2) :=
  ⟨rfl, rfl, rfl, rfl, rfl, rfl, rfl, rfl, rfl, rfl, rfl, rfl⟩

theorem test_decode_fclassS_to_vfma :
    decode 0xE00110D3 = .ok (.fclassS 1 2) ∧
    decode 0xF00100D3 = .ok (.fmvWX 1 2) ∧
    decode 0x7C049473 = .ok (.csrrw 8 9 0x7C0) ∧
    decode 0x7C04A473 = .ok (.csrrs 8 9 0x7C0) ∧
    decode 0x7C04B473 = .ok (.csrrc 8 9 0x7C0) ∧
    decode 0x7C04D473 = .ok (.csrrwi 8 9 0x7C0) ∧
    decode 0x7C04E473 = .ok (.csrrsi 8 9 0x7C0) ∧
    decode 0x7C04F473 = .ok (.csrrci 8 9 0x7C0) ∧
    decode 0x0AD54A0B = .ok (.vadd 20 10 13 .f16 5) ∧
    decode 0x1AD54A0B = .ok (.vsub 20 10 13 .f16 5) ∧
    decode 0x2AD54A0B = .ok (.vmul 20 10 13 .f16 5) ∧
    decode 0x3AD54A0B = .ok (.vfma 20 10 13 .f16 5) :=
  ⟨rfl, rfl, rfl, rfl, rfl, rfl, rfl, rfl, rfl, rfl, rfl, rfl⟩

theorem test_decode_vfms_to_vperm :
    decode 0x4AD54A0B = .ok (.vfms 20 10 13 .f16 5) ∧
    decode 0x5AD54A0B = .ok (.vmin 20 10 13 .f16 5) ∧
    decode 0x6AD54A0B = .ok (.vmax 20 10 13 .f16 5) ∧
    decode 0x7AD56A0B = .ok (.vdot4 20 10 13 .i8 5) ∧
    decode 0x8AD54A0B = .ok (.vcmp 4 .lt 10 13 .f16 5) ∧
    decode 0x9AD51A0B = .ok (.vshl 20 10 13 .n32 5) ∧
    decode 0xAAD55A0B = .ok (.vshr 20 10 13 .i16 5) ∧
    decode 0xBAD50A0B = .ok (.vsra 20 10 13 .i32 5) ∧
    decode 0xCAD50A0B = .ok (.vand 20 10 13 5) ∧
    decode 0xCAD51A0B = .ok (.vor 20 10 13 5) ∧
    decode 0xCAD52A0B = .ok (.vxor 20 10 13 5) ∧
    decode 0xCAD55A0B = .ok (.vperm 20 10 13 .w16 5) :=
  ⟨rfl, rfl, rfl, rfl, rfl, rfl, rfl, rfl, rfl, rfl, rfl, rfl⟩

theorem test_decode_vabs_to_vsplat :
    decode 0xDA056A0B = .ok (.vabs 20 10 .i8 5) ∧
    decode 0xDA153A0B = .ok (.vneg 20 10 .bf16 5) ∧
    decode 0xDA254A0B = .ok (.vmov 20 10 .f16 5) ∧
    decode 0xDA354A0B = .ok (.vexp2 20 10 .f16 5) ∧
    decode 0xDA454A0B = .ok (.vlog2 20 10 .f16 5) ∧
    decode 0xDA554A0B = .ok (.vrcp 20 10 .f16 5) ∧
    decode 0xDA654A0B = .ok (.vrsq 20 10 .f16 5) ∧
    decode 0xDA754A0B = .ok (.vrsum 20 10 .f16 5) ∧
    decode 0xDA854A0B = .ok (.vrmax 20 10 .f16 5) ∧
    decode 0xDA954A0B = .ok (.vrmin 20 10 .f16 5) ∧
    decode 0xDAA04A0B = .ok (.vidx 20 .f16 5) ∧
    decode 0xDAB5CA0B = .ok (.vsplat 20 11 .f16 5) :=
  ⟨rfl, rfl, rfl, rfl, rfl, rfl, rfl, rfl, rfl, rfl, rfl, rfl⟩

theorem test_decode_vbcast_to_vlds :
    decode 0xDAC54A0B = .ok (.vbcast 20 10 .f16 5) ∧
    decode 0xEA952A0B = .ok (.vslideDn 20 10 9 .w16 5) ∧
    decode 0xEA953A0B = .ok (.vslideUp 20 10 9 .w16 5) ∧
    decode 0xFB650A0B = .ok (.vcvt 20 10 .sr true true 5) ∧
    decode 0xFB651A0B = .ok (.vquant 20 10 .sr true true 5) ∧
    decode 0xFB652A0B = .ok (.vdeq 20 10 .sr true true 5) ∧
    decode 0xFA05300B = .ok (.tbld 10 5) ∧
    decode 0xF005C00B = .ok (.cbld 11) ∧
    decode 0xF005D00B = .ok (.srseed 11) ∧
    decode 0x06C59A2B = .ok (.vld 20 11 12 3 .w16) ∧
    decode 0x16C59B2B = .ok (.vst 22 11 12 3 .w16) ∧
    decode 0x26C59A2B = .ok (.vlds 20 11 12 3 .w16) :=
  ⟨rfl, rfl, rfl, rfl, rfl, rfl, rfl, rfl, rfl, rfl, rfl, rfl⟩

theorem test_decode_vsts_to_bqput :
    decode 0x36C59B2B = .ok (.vsts 22 11 12 3 .w16) ∧
    decode 0x40058F2B = .ok (.sbindSrc 6 11) ∧
    decode 0x40059F2B = .ok (.sbindDst 6 11) ∧
    decode 0x50000F2B = .ok (.sunbind 6) ∧
    decode 0x66D51A2B = .ok (.vsel 20 10 13 3 .w16) ∧
    decode 0x7062822B = .ok (.mand 4 5 6) ∧
    decode 0x7062922B = .ok (.mor 4 5 6) ∧
    decode 0x7062A22B = .ok (.mxor 4 5 6) ∧
    decode 0x7002B22B = .ok (.mnot 4 5) ∧
    decode 0x7002CAAB = .ok (.mpop 21 5) ∧
    decode 0x80B5802B = .ok (.vloop 11 11) ∧
    decode 0x9005802B = .ok (.bqput 11) :=
  ⟨rfl, rfl, rfl, rfl, rfl, rfl, rfl, rfl, rfl, rfl, rfl, rfl⟩

theorem test_decode_bqget_to_cpy :
    decode 0xA0000AAB = .ok (.bqget 21) ∧
    decode 0x00058ADB = .ok (.ldFeKeep 21 11) ∧
    decode 0x02058ADB = .ok (.ldFeClr 21 11) ∧
    decode 0x04C5805B = .ok (.stFe 11 12) ∧
    decode 0x0605805B = .ok (.fesetEmpty 11) ∧
    decode 0x0805805B = .ok (.fesetFull 11) ∧
    decode 0x0A058ADB = .ok (.feqry 21 11) ∧
    decode 0x10060A5B = .ok (.gathA 20 6) ∧
    decode 0x12D58A5B = .ok (.gathX 20 11 13) ∧
    decode 0x14060B5B = .ok (.scatA 22 6) ∧
    decode 0x16D58B5B = .ok (.scatX 22 11 13) ∧
    decode 0x20C58ADB = .ok (.cpy 21 11 12) :=
  ⟨rfl, rfl, rfl, rfl, rfl, rfl, rfl, rfl, rfl, rfl, rfl, rfl⟩

theorem test_decode_cpyw_to_amoSwapScoped :
    decode 0x22058ADB = .ok (.cpyw 21 11) ∧
    decode 0x1C00105B = .ok (.fenceScoped .pkg .full) ∧
    decode 0x5A059ADB = .ok (.lda 21 11 .pkg .w) ∧
    decode 0x9AC5905B = .ok (.strl 11 12 .pkg .w) ∧
    decode 0xC0C5905B = .ok (.fxadd 11 12) ∧
    decode 0xC2059ADB = .ok (.fxrd 21 11) ∧
    decode 0xC4059ADB = .ok (.fxrdLo 21 11) ∧
    decode 0xC6059ADB = .ok (.fxrdHi 21 11) ∧
    decode 0xC805905B = .ok (.fxclr 11) ∧
    decode 0xCA059ADB = .ok (.rlqry 21 11) ∧
    decode 0x06C5DADB = .ok (.amoAddScoped 21 11 12 .pkg) ∧
    decode 0x16C5DADB = .ok (.amoSwapScoped 21 11 12 .pkg) :=
  ⟨rfl, rfl, rfl, rfl, rfl, rfl, rfl, rfl, rfl, rfl, rfl, rfl⟩

theorem test_decode_amoAndScoped_to_spawnat :
    decode 0x26C5DADB = .ok (.amoAndScoped 21 11 12 .pkg) ∧
    decode 0x36C5DADB = .ok (.amoOrScoped 21 11 12 .pkg) ∧
    decode 0x46C5DADB = .ok (.amoXorScoped 21 11 12 .pkg) ∧
    decode 0x56C5DADB = .ok (.amoMinScoped 21 11 12 .pkg) ∧
    decode 0x66C5DADB = .ok (.amoMaxScoped 21 11 12 .pkg) ∧
    decode 0x76C5DADB = .ok (.amoMinuScoped 21 11 12 .pkg) ∧
    decode 0x86C5DADB = .ok (.amoMaxuScoped 21 11 12 .pkg) ∧
    decode 0x96C5DADB = .ok (.amoCasScoped 21 11 12 .pkg) ∧
    decode 0x0005A05B = .ok (.spawn 11) ∧
    decode 0x0205AADB = .ok (.spawnNb 21 11) ∧
    decode 0x04C5A05B = .ok (.spawnr 11 12) ∧
    decode 0x06C5A05B = .ok (.spawnat 11 12) :=
  ⟨rfl, rfl, rfl, rfl, rfl, rfl, rfl, rfl, rfl, rfl, rfl, rfl⟩

theorem test_decode_tend_to_rpeek :
    decode 0x0805A05B = .ok (.tend 11) ∧
    decode 0x10C5A05B = .ok (.joininit 11 12) ∧
    decode 0x12C5A05B = .ok (.joinadd 11 12) ∧
    decode 0x14C5A05B = .ok (.joinarm 11 12) ∧
    decode 0x20002ADB = .ok (.press 21) ∧
    decode 0x30C5A05B = .ok (.dqpush 11 12) ∧
    decode 0x32002ADB = .ok (.dqpop 21) ∧
    decode 0x3400205B = .ok (.dqsplit) ∧
    decode 0x3605AADB = .ok (.dqspill 21 11) ∧
    decode 0x40C5A05B = .ok (.rpush 11 12) ∧
    decode 0x42C5AADB = .ok (.rpop 21 11 12) ∧
    decode 0x44C5AADB = .ok (.rpeek 21 11 12) :=
  ⟨rfl, rfl, rfl, rfl, rfl, rfl, rfl, rfl, rfl, rfl, rfl, rfl⟩

theorem test_decode_grpbar_to_mstg :
    decode 0x5005A05B = .ok (.grpbar 11) ∧
    decode 0x00003ADB = .ok (.arm 21) ∧
    decode 0x02C5B05B = .ok (.sendw 11 12) ∧
    decode 0x04C5B05B = .ok (.sendh 11 12) ∧
    decode 0x0600305B = .ok (.msgret) ∧
    decode 0x0805BF5B = .ok (.chbind 6 11) ∧
    decode 0x0AC5B05B = .ok (.migrate 11 12) ∧
    decode 0x00C5C05B = .ok (.grpw 11 12) ∧
    decode 0x02C5C05B = .ok (.mcw 11 12) ∧
    decode 0x04C5C05B = .ok (.jkset 11 12) ∧
    decode 0x0605C05B = .ok (.keyrot 11) ∧
    decode 0xB6370A7B = .ok (.mstg 45 17 5 6 5) :=
  ⟨rfl, rfl, rfl, rfl, rfl, rfl, rfl, rfl, rfl, rfl, rfl, rfl⟩

theorem test_decode_mstgAcc_to_odrainAmax :
    decode 0xB6370AFB = .ok (.mstgAcc 45 17 5 6 5) ∧
    decode 0xB6331A7B = .ok (.mxst 45 17 2 6 5) ∧
    decode 0xB6331AFB = .ok (.mxstAcc 45 17 2 6 5) ∧
    decode 0xB6372B7B = .ok (.mchain 45 17 5 6 5 .bf16sr) ∧
    decode 0xB6373B7B = .ok (.mchainAcc 45 17 5 6 5 .bf16sr) ∧
    decode 0x0005C07B = .ok (.mlease 11) ∧
    decode 0x0200407B = .ok (.mrel) ∧
    decode 0x0405CAFB = .ok (.oclaim 21 11) ∧
    decode 0x06C5C07B = .ok (.orel 11 12) ∧
    decode 0x08C5C07B = .ok (.ofill 11 12) ∧
    decode 0x0AC5C07B = .ok (.odrain 11 12) ∧
    decode 0x0CC5C07B = .ok (.odrainAmax 11 12) :=
  ⟨rfl, rfl, rfl, rfl, rfl, rfl, rfl, rfl, rfl, rfl, rfl, rfl⟩

theorem test_decode_mstride_to_codecmt :
    decode 0x0EC5C07B = .ok (.mstride 11 12) ∧
    decode 0x1005C07B = .ok (.maccz 11) ∧
    decode 0x1200407B = .ok (.mwait) ∧
    decode 0x20C5C07B = .ok (.mrgu 11 12) ∧
    decode 0x22C5C07B = .ok (.mrguDz 11 12) ∧
    decode 0x24C5C07B = .ok (.mrgi 11 12) ∧
    decode 0x26C5C07B = .ok (.scnv 11 12) ∧
    decode 0x2805CAFB = .ok (.scnvw 21 11) ∧
    decode 0x4000407B = .ok (.lclr0) ∧
    decode 0x4200407B = .ok (.lclr1) ∧
    decode 0x6152C07B = .ok (.safept 677) ∧
    decode 0x6205CAFB = .ok (.codecmt 21 11) :=
  ⟨rfl, rfl, rfl, rfl, rfl, rfl, rfl, rfl, rfl, rfl, rfl, rfl⟩

theorem test_decode_wfm_to_fmt :
    decode 0x6400407B = .ok (.wfm) ∧
    decode 0x7005C07B = .ok (.cseal 11) ∧
    decode 0x7205C07B = .ok (.crestart 11) ∧
    decode 0xABCA587B = .ok (.sig 0xABC true .jalr) ∧
    decode 0x5665E0FB = .ok (.hloop true 11 2 345) ∧
    decode 0x9A74707B = .ok (.fmt .e4m3 .e5m2 .bf16 .src) :=
  ⟨rfl, rfl, rfl, rfl, rfl, rfl⟩


/-! One ill-formed instruction for each check of `Instr.wf`. -/

theorem test_wf_refuses :
    Instr.wf (.vadd 1 2 4 .i32 0) = false ∧ Instr.wf (.vsub 1 3 5 .i32 0) = false ∧ Instr.wf (.vmul 1 2 2 .f32 0) = false ∧
    Instr.wf (.vmin 1 2 4 .i8 0) = false ∧ Instr.wf (.vmax 1 2 4 .i8 0) = false ∧
    Instr.wf (.vfma 1 2 4 .f32 0) = false ∧ Instr.wf (.vfma 1 2 3 .i32 0) = false ∧ Instr.wf (.vfms 1 2 3 .i8 0) = false ∧
    Instr.wf (.vdot4 1 2 3 .i32 0) = false ∧ Instr.wf (.vdot4 1 2 4 .i8 0) = false ∧ Instr.wf (.vcmp 1 .eq 2 4 .i32 0) = false ∧
    Instr.wf (.vshl 1 2 3 .f32 0) = false ∧ Instr.wf (.vshr 1 2 4 .i32 0) = false ∧ Instr.wf (.vsra 1 2 3 .bf16 0) = false ∧
    Instr.wf (.vand 1 2 4 0) = false ∧ Instr.wf (.vor 1 3 1 0) = false ∧ Instr.wf (.vxor 1 0 0 0) = false ∧ Instr.wf (.vperm 1 2 4 .w8 0) = false ∧
    Instr.wf (.vsel 1 2 4 0 .w8) = false := by decide
theorem test_wf_refuses_more :
    Instr.wf (.vabs 1 2 .n32 0) = false ∧ Instr.wf (.vneg 1 2 .n32 0) = false ∧ Instr.wf (.vexp2 1 2 .i32 0) = false ∧ Instr.wf (.vlog2 1 2 .i16 0) = false ∧
    Instr.wf (.vrcp 1 2 .i8 0) = false ∧ Instr.wf (.vrsq 1 2 .n32 0) = false ∧ Instr.wf (.scatA 4 3) = false ∧ Instr.wf (.scatX 4 1 6) = false ∧
    Instr.wf (.csrrw 1 2 0xC00) = false ∧ Instr.wf (.csrrwi 1 2 0x123) = false ∧ Instr.wf (.csrrs 1 2 0xC00) = false ∧ Instr.wf (.csrrs 1 0 0xC00) = true ∧
    Instr.wf (.csrrc 1 2 0xC00) = false ∧ Instr.wf (.csrrsi 1 2 0xC00) = false ∧ Instr.wf (.csrrci 1 2 0xC00) = false ∧
    Instr.wf (.hloop false 5 2 2) = false ∧ Instr.wf (.fence 8 3 3 0 0) = false ∧ Instr.wf (.fence 0 1 0 0 0) = false := by decide
/-- A word that is nothing, and reserved fields. -/
theorem test_decode_refuses : decode 0 = .error .notInstr ∧ decode 0xFFFFFFFF = .error .notInstr ∧ (∃ e, decode 0x0E44707B = .error e) ∧
    (∃ e, decode 0x00100033 ≠ .error e) := ⟨rfl, rfl, ⟨_, rfl⟩, .notInstr, nofun⟩

/-! The spec's worked cases. -/

/-- R32: worker core 9 of cluster 43 on die 5, offset 0x1_2340; hart 2 of it is hart 23,270, mhartid 0x5AE6. R33: its
endpoint is 0x16B9. R288: the target word of x12 of that hart. -/
theorem test_worked_addresses :
    placeOf State.reset 23270 none 0x8000B5A400012340 = .own 0x12340 ∧ placeOf State.reset 23270 none 0x9000000000012340 = .own 0x12340 ∧
    mhartid State.reset 23270 = 0x5AE6 ∧ epOf State.reset (coreOf 23270) = 0x16B9 ∧
    tgtEp 0xB5CCC = 0x16B9 ∧ tgtHart 0xB5CCC = 2 ∧ tgtReg 0xB5CCC = 12 ∧ tgtHartNo 0xB5CCC = 23270 := by decide
/-- R22: offset 0x1_2340 lies in bank 52, row 18, parity group 6. -/
theorem test_worked_banks : (0x12340 / 16) % 256 = 52 ∧ (0x12340 / 16) / 256 = 18 ∧ groupOf (0x12340 / 16) = 6 := by decide
/-- R70: the ADDI tuple takes the register from 0 to 0x415, the BNE tuple to 0x0E4; the SIG word. -/
theorem test_worked_signature :
    encode (.addi 5 5 1) = [0x00128293] ∧ crcOfWord 0 0x00128293 = 0x415 ∧ encode (.bne 5 6 0xFFC) = [0xFE629CE3] ∧ crcOfWord 0x415 0xFE629CE3 = 0x0E4 ∧
    decode 0x0E40587B = .ok (.sig 0x0E4 false .branch) := ⟨by decide, by decide, by decide, by decide, rfl⟩
/-- R151: 448 in e4m3, 1000 in bf16 and f32, -2^-8 in e4m3. -/
theorem test_worked_patterns :
    rne e4m3F (.fin false 448 0) = 0x7E ∧ rne bf16F (.fin false 1000 0) = 0x447A ∧ rne f32F (.fin false 1000 0) = 0x447A0000 ∧
    rne e4m3F (.fin true 1 (-8)) = 0x82 ∧ e4m3F.dec 0x7F = .nan ∧ e5m2F.dec 0x7C = .inf false := by decide
/-- R155: entry 5 = 0x1234_5678 and index 0x0525 give 4.25, -3.75, 3.25, 2.75, -2.25, 1.75, 1.25 and 0.75. -/
theorem test_worked_lattice :
    (cb2Weights { cb2 := [(5, 0x12345678)] } 0x0525).map (rne f32F) =
      [0x40880000, 0xC0700000, 0x40500000, 0x40300000, 0xC0100000, 0x3FE00000, 0x3FA00000, 0x3F400000] := by decide
/-- R120: a bf16 record of 40 by 3 has 6 images with RA = 1, the second of each row with 8 elements, and 4 with RA = 0. -/
theorem test_worked_images :
    (let r : Shape := { parseShape [] with e0 := 40, e1 := 3, e2 := 1, e3 := 1, ty := 7, ra := true }
     r.images = 6 ∧ (r.imageElems 1).length = 8 ∧ (r.imageElems 5).length = 8 ∧ ({ r with ra := false } : Shape).images = 4) := by decide
/-- R249, R263: a RANGE record of extent 37 with TROWS = 32, CBASE = 32 and CROW = 1 costs 101. -/
theorem test_worked_cost :
    costOf { range := true, ext := 37 } { entry := 0, obj := 0, frame := 0, streams := 0, pull := 0, prio := 0, restart := false, cbase := 32, crow := 1, trows := 32 } = 101 := by decide
/-- Example words of the chapters. -/
theorem test_worked_words :
    decode 0x0400105B = .ok (.fenceScoped .core .full) ∧ decode 0x6002C07B = .ok (.safept 5) ∧ decode 0x379C210B = .ok (.vfma 2 24 25 .f32 3) ∧
    decode 0x000502DB = .ok (.ldFeKeep 5 10) ∧ decode 0x1295025B = .ok (.gathX 4 10 9) ∧ decode 0x168502DB = .ok (.scatX 5 10 8) ∧
    decode 0xC035105B = .ok (.fxadd 10 3) ∧ decode 0xC205125B = .ok (.fxrd 4 10) ∧ decode 0xC40512DB = .ok (.fxrdLo 5 10) ∧
    decode 0xC805105B = .ok (.fxclr 10) := ⟨rfl, rfl, rfl, rfl, rfl, rfl, rfl, rfl, rfl, rfl⟩

/-! One step of small machines. Results by hand. -/

/-- What register n of hart 0 holds after one step on word w from reset with some X registers. -/
noncomputable def xAfter (w : Nat) (l : SMap Word) (n : Nat) : Option Word :=
  match step ((State.reset.withFetchWord 32 w).modHart 0 fun H => { H with x := l }) with
  | .next t => some ((t.hart 0).getX n)
  | _ => none
theorem test_step_addi : xAfter 0x9C378713 [(15, 0)] 14 = some 0xFFFFFFFFFFFFF9C3 := rfl
theorem test_step_sub : xAfter 0x41288833 [(17, 1), (18, 3)] 16 = some 0xFFFFFFFFFFFFFFFE := rfl
theorem test_step_divByZero : xAfter 0x0328C833 [(17, 1)] 16 = some 0xFFFFFFFFFFFFFFFF := rfl
/-- The trap of the illegal word MRET in U mode (R106): cause 2, the mode before, pc at the vector. -/
theorem test_step_trap :
    ∃ t, step ((State.reset.withFetchWord 32 0x30200073).modHart 0 fun H => { H with mode := .U, csr := { H.csr with mtvec := 0x400 } }) = .next t ∧
      (t.hart 0).mode = .M ∧ (t.hart 0).csr.mcause = 2 ∧ (t.hart 0).csr.mepc = 0 ∧ (t.hart 0).pc = 0x400 ∧ Mode.ofCode (bits (t.hart 0).csr.mstatus 11 2) = .U :=
  ⟨_, rfl, by decide, by decide, by decide, by decide, by decide⟩
/-- A store, and a load of what it stored with its sign. -/
theorem test_store_load :
    (∃ t, execSb 6 7 0 (withX [(6, adr 0x1FFFF), (7, 0x1F0)]) = .next t ∧ t.mem.read (2 ^ 63 + 0x1FFFF) = 0xF0 ∧ t.mem.read (2 ^ 63 + 0x1FFFE) = 0) ∧
    (∃ t, execLb 5 6 0 (withPad 0x1FFFF [0xF0] [(6, adr 0x1FFFF)]) = .next t ∧ t.me.getX 5 = 0xFFFFFFFFFFFFFFF0) := ⟨⟨_, rfl, by decide⟩, _, rfl, by decide +kernel⟩
/-- 1 + 2^-24 ties to 1 in f32 and raises inexact (bit 0). -/
theorem test_fadd_tie :
    (∃ t, execFaddS 5 6 7 .rne (withHart fun H => { H with f := [(6, 0x3F800000), (7, 0x33800000)] }) = .next t ∧ t.me.getF 5 = 0x3F800000 ∧ t.me.csr.fflags = 1) :=
  ⟨_, rfl, by decide⟩
/-- The default schedule from reset: no core runs, nothing moves (log 4). -/
theorem test_reset_idles : ∃ t, step State.reset = .next t ∧ t.mem = [] ∧ t.net = [] := ⟨_, rfl, rfl, rfl⟩
/-- The probe of the host. -/
theorem test_table_word : decodeTableWord 32 0x0AD54A0B = some (.vadd 20 10 13 .f16 5) ∧ decodeTableWord 32 0 = none := ⟨rfl, rfl⟩
/-! Witnesses: states and operands that meet the hypotheses of each statement, clause by clause. -/

theorem witness_IntegerResults :
    Spec.intResult (withX [(6, 3), (7, 4)]) (.add 5 6 7) = some (5, 7) ∧ 5 ∉ (withX []).me.armed ∧
    (31 : Nat) ∈ (withHart fun H => { H with armed := [31] }).me.armed := by decide

theorem witness_ControlTransfers :
    5 ∉ (withX [(6, 0x100)]).me.armed ∧
    ((((withX [(6, 0x100)]).x 6 + (0xFFC#12).signExtend 64) &&& ~~~1#64).toNat % 4 = 0) ∧
    ((((withX [(6, 0x102)]).x 6 + (0xFFC#12).signExtend 64) &&& ~~~1#64).toNat % 4 ≠ 0) ∧
    Spec.branchTaken (withX [(6, 1)]) (.bltu 0 6 0x7FF) = some (true, 0xFFE) ∧
    Spec.branchTaken (withX [(6, 1)]) (.beq 0 6 0x800) = some (false, 0xFFFFFFFFFFFFF000) := by decide

theorem witness_OwnLoads :
    Spec.loadForm (withX [(6, adr 0x1FFF8)]) (.ld 31 6 0) = some (31, false, adr 0x1FFF8, 8, true) ∧
    placeNow (withX []) (adr 0x1FFF8) = .own 0x1FFF8 ∧ accessPre (withX []) (adr 0x1FFF8) 8 false true = .ok ∧
    (31 : Nat) ∉ (withX []).me.armed ∧ (load (withX []) (Spec.own (withX []) 0x1FFF8) 8).2.2 = none ∧
    (load ((withX []).setPoi (Spec.own (withX []) 0x1FFF0) true) (Spec.own (withX []) 0x1FFF8) 8).2.2 =
      some (Spec.own (withX []) 0x1FFF8) := by decide

theorem witness_OwnStores :
    Spec.storeForm (withX [(6, adr 0), (7, 0x1FF)]) (.sb 6 7 0) = some (adr 0, [0xFF], none) ∧
    placeNow (withX []) (adr 0) = .own 0 ∧ accessPre (withX []) (adr 0) 1 true true = .ok ∧
    Spec.released (withX []) (.sb 6 7 0) none := ⟨by decide, by decide, by decide, trivial⟩
theorem witness_OwnStores_release :
    Spec.storeForm (withX [(6, adr 8)]) (.strl 6 0 .pkg .d) = some (adr 8, List.replicate 8 0, some 3) ∧
    placeNow (withX []) (adr 8) = .own 8 ∧ accessPre (withX []) (adr 8) 8 true true = .ok ∧
    Spec.released (withX []) (.strl 6 0 .pkg .d) (some 3) := ⟨by decide, by decide, by decide, by
      show releasePre _ _ = _; decide⟩

theorem witness_OwnAmos :
    (∃ A, Spec.amoForm (withX [(6, adr 8), (7, 5)]) (.amoAddD 5 6 7 false true) = some A ∧ A.adr = adr 8 ∧ A.n = 8 ∧
      A.rd = 5 ∧ A.rel = some 3 ∧ A.new 2 = 7) ∧
    placeNow (withX []) (adr 8) = .own 8 ∧ accessPre (withX []) (adr 8) 8 true false = .ok ∧ 5 ∉ (withX []).me.armed ∧
    Spec.released (withX []) (.amoAddD 5 6 7 false true) (some 3) ∧ (load (withX []) (Spec.own (withX []) 8) 8).2.2 = none :=
  ⟨⟨_, rfl, by decide⟩, by decide, by decide, by decide, by show outstanding _ _ _ _ = _; decide, by decide⟩

theorem witness_ReservedAccesses :
    placeNow (withX [(6, adr 16)]) ((withX [(6, adr 16)]).x 6) = .own 16 ∧ 5 ∉ (withX []).me.armed ∧
    outstanding (withX []) 0 3 false = false ∧
    alignPre (adr 16) 8 false = .ok ∧ lockPre (withX []) (adr 16) 8 false = .ok ∧ (load (withX []) (Spec.own (withX []) 16) 8).2.2 = none ∧
    alignPre (adr 16) 4 true = .ok ∧ lockPre (withX []) (adr 16) 4 true = .ok ∧
    (withHart fun H => { H with resv := some (Spec.own (withX []) 16 / 16) }).me.resv = some (Spec.own (withX []) 16 / 16) ∧
    (withX []).me.resv ≠ some (Spec.own (withX []) 16 / 16) := by decide

/-- An address of core 1's scratchpad, which is remote to core 0. -/
theorem pad_1 : placeNow (withX []) (padAdr 1 0) = .pad 1 0 := by decide
theorem witness_RemoteAccesses :
    (∀ off, placeNow (withX []) (padAdr 1 0) ≠ .own off) ∧ (∀ c off, placeNow (withX []) (padAdr 1 0) = .window c off → c ≠ coreOf 0) ∧
    Spec.loadForm (withX [(6, padAdr 1 0)]) (.lw 5 6 0) = some (5, false, padAdr 1 0, 4, true) ∧
    accessPre (withX []) (padAdr 1 0) 4 false true = .ok ∧ 5 ∉ (withX []).me.armed ∧ placesFor (withX []) 0 1 = true ∧
    Spec.storeForm (withX [(6, padAdr 1 0)]) (.sh 6 0 0) = some (padAdr 1 0, [0, 0], none) ∧
    accessPre (withX []) (padAdr 1 0) 2 true true = .ok ∧ Spec.released (withX []) (.sh 6 0 0) none := by
  refine ⟨?_, ?_, by decide, by decide, by decide, by decide, by decide, by decide, trivial⟩ <;> simp [pad_1]
theorem witness_RemoteAccesses_full :
    placesFor (withNet ((List.range 48).map posted)) 0 1 = false ∧ placesFor (withNet ((List.range 47).map posted)) 0 1 = true ∧
    (∀ off, placeNow (withNet ((List.range 48).map posted)) (padAdr 1 0) ≠ .own off) := by
  refine ⟨by decide, by decide, ?_⟩
  simp [show placeNow (withNet ((List.range 48).map posted)) (padAdr 1 0) = .pad 1 0 by decide]

theorem witness_RemoteAccesses_amos :
    (∃ A, Spec.amoForm (withX [(6, padAdr 1 0), (7, 5)]) (.amoAddD 5 6 7 false false) = some A ∧ A.adr = padAdr 1 0 ∧ A.n = 8 ∧ A.rel = none ∧ A.rd = 5) ∧
    (∃ A, Spec.amoForm (withX [(6, padAdr 1 0), (7, 5)]) (.amoCasScoped 5 6 7 .pkg) = some A ∧ A.adr = padAdr 1 0 ∧ A.n = 8 ∧ A.rel = some 3 ∧ A.rd = 5) ∧
    accessPre (withX []) (padAdr 1 0) 8 true false = .ok ∧ Spec.released (withX []) (.amoAddD 5 6 7 false false) none ∧
    Spec.released (withX []) (.amoCasScoped 5 6 7 .pkg) (some 3) ∧ 5 ∉ (withX []).me.armed ∧ 5 ∈ (withHart fun H => { H with armed := [5] }).me.armed ∧
    (withX [(6, padAdr 1 0)]).x 6 = padAdr 1 0 ∧ (padAdr 1 0).toNat % 8 = 0 ∧ (padAdr 1 0).toNat % 4 = 0 :=
  ⟨⟨_, rfl, by decide⟩, ⟨_, rfl, by decide⟩, by decide, trivial, by show releasePre _ _ = _; decide, by decide, by decide, by decide, by decide, by decide⟩

theorem witness_AccessFaults :
    Spec.loadForm (withX [(6, adr 2)]) (.lw 5 6 0) = some (5, false, adr 2, 4, true) ∧ (adr 2).toNat % 4 ≠ 0 ∧
    Spec.storeForm (withX [(6, adr 0x20000)]) (.sb 6 0 0) = some (adr 0x20000, [0], none) ∧
    (adr 0x20000).toNat % 1 = 0 ∧ placeNow (withX []) (adr 0x20000) = .bad := by decide

/-- An address of the own core window. -/
def win (off : Nat) : Word := BitVec.ofNat 64 (0xC000000000000000 + off)
theorem witness_OwnLoads_others :
    5 ∈ (withHart fun H => { H with armed := [5] }).me.armed ∧
    Spec.loadForm (withX [(6, win 0x21A00)]) (.ld 5 6 0) = some (5, false, win 0x21A00, 8, true) ∧
    placeNow (withX []) (win 0x21A00) = .window 0 0x21A00 ∧ accessPre (withX []) (win 0x21A00) 8 false true = .ok ∧
    windowWaits (withX []) 0 0x21A00 = false ∧ 5 ∉ (withX []).me.armed ∧
    placeNow (withHart fun H => { H with cvPend := [{ lfsr := some 5, amax := none, flags := 0, due := 4 }] }) (win 0x24010) = .window 0 0x24010 ∧
    accessPre (withHart fun H => { H with cvPend := [{ lfsr := some 5, amax := none, flags := 0, due := 4 }] }) (win 0x24010) 8 false true = .ok ∧
    windowWaits (withHart fun H => { H with cvPend := [{ lfsr := some 5, amax := none, flags := 0, due := 4 }] }) 0 0x24010 = true ∧
    Spec.loadForm (withX [(6, win 0x11FFC)]) (.flw 5 6 0) = some (5, true, win 0x11FFC, 4, false) ∧
    placeNow (withX []) (win 0x11FFC) = .window 0 0x11FFC ∧ accessPre (withX []) (win 0x11FFC) 4 false true = .ok ∧
    (load (withX []) (windowLoc 0 0x11FFC) 4).2.2 = none := by decide
theorem witness_OwnStores_window :
    Spec.storeForm (withX [(6, win 0x21A00)]) (.sd 6 0 0) = some (win 0x21A00, List.replicate 8 0, none) ∧
    placeNow (withX []) (win 0x21A00) = .window 0 0x21A00 ∧ accessPre (withX []) (win 0x21A00) 8 true true = .ok ∧
    windowWaits (withX []) 0 0x21A00 = false ∧
    Spec.storeForm (withX [(6, win 0x7FFC)]) (.sw 6 0 0) = some (win 0x7FFC, List.replicate 4 0, none) ∧
    placeNow (withX []) (win 0x7FFC) = .window 0 0x7FFC ∧ accessPre (withX []) (win 0x7FFC) 4 true true = .ok := by decide
/-- A poisoned word of own memory, and a form whose destination is armed. -/
theorem witness_OwnAmos_others :
    accessPre ((withX []).setPoi (2 ^ 63) true) (adr 8) 8 true false = .ok ∧
    (load ((withX []).setPoi (2 ^ 63) true) (Spec.own (withX []) 8) 8).2.2 = some (Spec.own (withX []) 8) ∧
    lockPre ((withX []).setPoi (2 ^ 63) true) (adr 8) 8 false = .ok ∧ alignPre (adr 8) 8 false = .ok ∧
    5 ∈ (withHart fun H => { H with armed := [5] }).me.armed ∧ accessPre (withHart fun H => { H with armed := [5] }) (adr 8) 8 true false = .ok ∧
    lockPre (withHart fun H => { H with armed := [5] }) (adr 8) 8 true = .ok := by decide
theorem witness_AccessFaults_window :
    (win 0x9000).toNat % 4 = 0 ∧ placeNow (withX []) (win 0x9000) = .window 0 0x9000 ∧ windowOk (withX []) 0 0 0x9000 4 false = false ∧
    (win 0x10000).toNat % 8 = 0 ∧ placeNow (withX []) (win 0x10000) = .window 0 0x10000 ∧ windowOk (withX []) 0 0 0x10000 8 true = false := by decide

theorem witness_FloatWords :
    (∃ p, Spec.fltResult (withX []) (.faddS 5 6 7 .dyn) = some (5, p)) ∧
    (∃ v, Spec.fltToX (withX []) (.fcvtWS 5 6 .rtz) = some (5, v)) ∧ 5 ∉ (withX []).me.armed := ⟨⟨_, rfl⟩, ⟨_, rfl⟩, by decide⟩

theorem witness_CsrWords :
    (∃ w, Spec.csrForm (withX []) (.csrrw 5 6 0x340) = some (5, 0x340, w)) ∧
    (∃ w, Spec.csrForm (withX []) (.csrrci 5 0 0xC00) = some (5, 0xC00, w)) ∧
    csrMode (withX []) 0 0x340 .M = true ∧ 5 ∉ (withX []).me.armed ∧ csrWaits (withX []) 0 0x340 = false ∧
    csrMode (withX []) 0 0x340 .U = false ∧ (withHart fun H => { H with mode := .U }).me.mode = .U :=
  ⟨⟨_, rfl⟩, ⟨_, rfl⟩, by decide, by decide, by decide, by decide, by decide⟩

theorem witness_FrmWrites :
    (4 : Word).toNat % 8 ≤ 4 ∧ 4 < (7 : Word).toNat % 8 ∧ (0x80 : Word).toNat / 32 % 8 ≤ 4 ∧ 4 < (0xA0 : Word).toNat / 32 % 8 ∧
    (withHart fun H => { H with csr := { H.csr with frm := 4 } }).me.csr.frm.toNat ≤ 4 := by decide

theorem witness_TrapEntry :
    (let H : Hart := {}; (H.mode != .M && (2 : Nat) != 26 && bit H.csr.medeleg 2) = false) ∧
    (let H : Hart := { mode := .U, csr := { medeleg := 0x100 } }; (H.mode != .M && (8 : Nat) != 26 && bit H.csr.medeleg 8) = true) ∧
    (let H : Hart := { mode := .S, csr := { mideleg := 0x10000 } }; (H.mode != .M && (16 : Nat) != 26 && bit H.csr.mideleg 16) = true) := by decide

theorem witness_TrapWords :
    (withX []).me.mode = .M ∧ (withHart fun H => { H with mode := .S }).me.mode ≠ .M ∧
    (withHart fun H => { H with mode := .S }).me.mode ≠ .U ∧ (withHart fun H => { H with mode := .U }).me.mode = .U ∧
    bit (withX []).me.csr.mstatus 21 = false ∧
    bit (withHart fun H => { H with csr := { H.csr with mstatus := 0x200000 } }).me.csr.mstatus 21 = true := by decide

/-- A state with one unacknowledged store of hart 0 in flight. -/
def busy : State := withNet [{ posted 1 with body := .mem (2 ^ 63 + 2 ^ 34) (.store [1] false) (.posted false) (.at_ (2 ^ 63 + 2 ^ 34)) }]
/-- A state with one load of hart 0 in flight. -/
def reading : State := withNet [{ posted 1 with body := .mem (2 ^ 63 + 2 ^ 34) (.load 8) (.held 0) (.at_ (2 ^ 63 + 2 ^ 34)) }]

theorem witness_Fences :
    Spec.fenceForm (.fenceScoped .pkg .rel) = some (3, true, false) ∧ Spec.fenceForm (.fence 0 0x0 0xF 0 0) = some (0, false, false) ∧
    Spec.fenceForm (.fence 0 0x2 0xF 0 0) = some (3, false, true) ∧
    outstanding (withX []) 0 3 false = false ∧ deferredPre (withX []) 0 3 = .ok ∧ outstanding (withX []) 0 3 true = false ∧
    outstanding busy 0 3 false = true ∧ outstanding reading 0 3 true = true ∧
    (let s := withHart fun H => { H with failed := some { id := 1, cause := 7, addr := 1, count := 1, host := false, scope := 3 } }
     outstanding s 0 3 false = false ∧ deferredPre s 0 3 ≠ .ok) := by decide

theorem witness_HardwareLoops :
    (withX [(6, 2)]).x 6 ≠ 0 ∧ (withX []).x 6 = 0 ∧ (withX []).me.vloop = none := by decide

theorem witness_SequencerLoops :
    (withX [(6, 2)]).x 6 ≠ 0 ∧ (withX []).x 6 = 0 ∧
    (let v : VLoop := { pc := 0, len := 2, at_ := 0, reg := 6 }; v.at_ + 1 < v.len ∧
      (withHart fun H => { H with vloop := some v, x := [(6, 2)] }).me.vloop = some v ∧ (withX [(6, 2)]).me.getX v.reg ≠ 1) ∧
    (let v : VLoop := { pc := 0, len := 2, at_ := 1, reg := 6 }; v.at_ + 1 = v.len ∧ (withX [(6, 1)]).me.getX v.reg = 1 ∧
      (RFile.x, 5) ≠ (RFile.x, v.reg)) := by decide

theorem witness_PrefixAndSignature :
    (let s := withX []; (bit s.me.csr.mnstatus 2 && ((s.me.chk.act && (s.me.chk.run != s.me.chk.exp || s.me.chk.last != s.me.chk.endk)) ||
      (s.me.arrival == .indirect && !false))) = true) ∧
    (let s := withX []; (bit s.me.csr.mnstatus 2 && ((s.me.chk.act && (s.me.chk.run != s.me.chk.exp || s.me.chk.last != s.me.chk.endk)) ||
      (s.me.arrival == .indirect && !true))) = false) := by decide

theorem witness_BranchQueue :
    (withX []).me.bq.length < 16 ∧ 16 ≤ (withHart fun H => { H with bq := List.replicate 16 3 }).me.bq.length ∧
    (withHart fun H => { H with bq := [3] }).me.bq = 3 :: [] ∧ 5 ∉ (withX []).me.armed ∧ (withX []).me.bq = [] := by decide

theorem witness_CellsAtHome :
    Spec.cellReady (withX []) (adr 0x1FFF0) 0x1FFF0 true ∧ Spec.cellReady (withX []) (adr 0x1FFF0) 0x1FFF0 false ∧
    (load (withX []) (Spec.own (withX []) 0x1FFF0) 16).2.2 = none ∧ 5 ∉ (withX []).me.armed := by
  refine ⟨⟨?_, ?_, ?_, ?_⟩, ⟨?_, ?_, ?_, ?_⟩, ?_, ?_⟩ <;> decide
/-- A cell with the NaN bit, and one whose sum has left the range of R235. -/
theorem witness_CellsAtHome_marked :
    (2 ^ 127 + 5) / 2 ^ 127 = 1 ∧ (5 : Nat) / 2 ^ 127 = 0 ∧ ((5 : Nat) / 2 ^ 126 % 2 == 0) = true ∧
    ¬ (-(2 ^ 119 : Int) ≤ toSigned 124 (2 ^ 119 % 2 ^ 124) ∧ toSigned 124 (2 ^ 119 % 2 ^ 124) < 2 ^ 119) ∧
    toSigned 124 ((2 ^ 119 - 1) % 2 ^ 124) < 2 ^ 119 := by decide

/-- A cell of core 1, one in virtual memory, and addresses that hold none. -/
theorem witness_CellsAtHome_away :
    cellPre (withX []) (padAdr 1 0x1FFF0) true = .ok ∧ cellPre (withX []) (padAdr 1 0x1FFF0) false = .ok ∧
    placeNow (withX []) (padAdr 1 0x1FFF0) = .pad 1 0x1FFF0 ∧ placesFor (withX []) 0 1 = true ∧ 5 ∉ (withX []).me.armed ∧
    5 ∈ (withHart fun H => { H with armed := [5] }).me.armed ∧ cellPre (withHart fun H => { H with armed := [5] }) (padAdr 1 0) false = .ok ∧
    (adr 8).toNat % 16 ≠ 0 ∧ (adr 0x20000).toNat % 16 = 0 ∧ placeNow (withX []) (adr 0x20000) = .bad := by decide

theorem witness_CellSums :
    f32F.dec (0x7FC00000 : BitVec 32).toNat = .nan ∧ f32F.dec (0xFF800000 : BitVec 32).toNat = .inf true ∧
    f32F.dec (0x3F800000 : BitVec 32).toNat = .fin false 0x800000 (-23) ∧ 0x800000 * 2 ^ ((-23 : Int) + 149).toNat < 2 ^ (59 + 149) := by decide


theorem witness_VectorResults :
    (∃ F, Spec.vecForm (withX []) (.vadd 1 2 3 .i32 0) = some F ∧ F.ready (withX []) ∧ F.w = 32 ∧ 15 < 512 / F.w) ∧
    (∃ F, Spec.vecForm (withHart fun H => { H with pfx := true }) (.vmov 1 2 .pre 0) = some F ∧
      F.ready (withHart fun H => { H with pfx := true })) ∧
    (∃ F, Spec.vecForm (withX []) (.vrsum 31 30 .i8 7) = some F ∧ F.ready (withX [])) := by
  refine ⟨⟨_, rfl, ⟨?_, ?_⟩, ?_, ?_⟩, ⟨_, rfl, ?_, ?_⟩, ⟨_, rfl, ?_, ?_⟩⟩ <;> decide

/-- A source stream on v31 whose first image is a fault, and one with no image yet. -/
def streamFault : State := withHart fun H => { H with streams := [(31, { kind := .src { parseShape [] with e0 := 1, e1 := 1, e2 := 1, e3 := 1 }, buf := [.bad 27 0x40] })] }
def streamEmpty : State := withHart fun H => { H with streams := [(31, { kind := .chIn 0 })] }

theorem witness_VectorTraps :
    (∃ F, Spec.vecForm streamFault (.vand 1 31 2 0) = some F ∧
      Pre.all (F.srcs.map (fun q => srcPre streamFault q.2 q.1) ++ [if F.acc then bothPre streamFault F.vd else dstPre streamFault F.wd F.vd]) = .trap 27 0x40 .none) ∧
    (∃ F w, Spec.vecForm streamEmpty (.vand 1 31 2 0) = some F ∧
      Pre.all (F.srcs.map (fun q => srcPre streamEmpty q.2 q.1) ++ [if F.acc then bothPre streamEmpty F.vd else dstPre streamEmpty F.wd F.vd]) = .wait w) ∧
    typesOf .pre (withX []).me = none := by
  refine ⟨⟨_, rfl, ?_⟩, ⟨_, _, rfl, rfl⟩, ?_⟩ <;> decide

theorem witness_MasksAndSelect :
    typesOf .f32 (withX []).me = some ⟨.f32, .f32, .f32, .plain⟩ ∧ Spec.arith .f32 = true ∧
    srcPre (withX []) (some 32) 2 = .ok ∧ srcPre (withX []) (some 8) 3 = .ok ∧ dstPre (withX []) (some 8) 1 = .ok ∧
    5 ∉ (withX []).me.armed := by decide

/-- A pending prefix. -/
def prefixed (fa fb fd : Fmt) (sm : ScaleMode) : State := withHart fun H => { H with pfx := true, payload := payloadBits fa fb fd sm }

theorem witness_Conversions :
    (∃ F, Spec.cvForm (prefixed .f32 .none .bf16 .plain) (.vcvt 1 2 .sr true true 3) = some F ∧ F.pre = .ok) ∧
    (∃ F, Spec.cvForm (prefixed .f32 .none .e4m3 .dst) (.vquant 1 2 .rne false true 0) = some F ∧ F.pre = .ok) ∧
    (∃ F, Spec.cvForm (prefixed .t4 .none .f32 .src) (.vdeq 2 5 .rtz false false 0) = some F ∧ F.pre = .ok) :=
  ⟨⟨_, rfl, by decide⟩, ⟨_, rfl, by decide⟩, ⟨_, rfl, by decide⟩⟩

/-- Hart 0 with a conversion that retires at cycle 4. -/
def converting : State := withHart fun H => { H with cvPend := [{ lfsr := some 5, amax := none, flags := 0, due := 4 }] }
theorem witness_Conversions_landing :
    0 ∈ hartsOf 0 ∧ (converting.hart 0).cvPend = [{ lfsr := some 5, amax := none, flags := 0, due := 4 }] ∧ 4 ≤ max (converting.core 0).cycle 4 ∧
    (∀ p ∈ (converting.hart 0).cvPend, max (converting.core 0).cycle 3 < p.due) := by decide

theorem witness_ExactNumbers :
    (0x807FFFFF : Nat) < 2 ^ 32 ∧ f32F.dec 0x807FFFFF ≠ .nan ∧ f32F.dec 0x7F800000 ≠ .nan ∧
    Fmt.i8.isInt = true ∧ Fmt.i32.isInt = true := by decide

theorem witness_ConversionTables :
    srcPre (withX []) (some 8) 2 = .ok ∧
    (let s := withX [(6, adr 64)]
     placeNow s (s.x 6) = .own 64 ∧ (s.x 6).toNat % 64 = 0 ∧ poisonPre (readRecord s (s.x 6) 64 1024) (s.x 6) 1024 = .ok ∧
     (s.core (coreOf s.cur)).locks = []) := by decide +kernel

theorem witness_OwnVectorAccesses :
    (∃ F, Spec.vloadForm (withX [(6, adr 64)]) (.vld 3 6 0 0 .w32) = some F ∧ gatherPre (withX [(6, adr 64)]).me [F.reg.toNat] = .ok ∧
      F.act (withX [(6, adr 64)]) ≠ [] ∧ (∀ k ∈ F.act (withX [(6, adr 64)]), placeNow (withX [(6, adr 64)]) (F.adr k) = .own (64 + 4 * k)) ∧
      lanesPre (withX [(6, adr 64)]) (F.lanes (withX [(6, adr 64)])) (F.w / 8) false = .ok ∧ dstPre (withX [(6, adr 64)]) (some F.w) F.reg.toNat = .ok ∧
      placesFor (withX [(6, adr 64)]) 0 0 = true ∧
      (readOwn (withX [(6, adr 64)]) F.w (ownLanes (withX [(6, adr 64)]) (F.lanes (withX [(6, adr 64)])))).2.2 = none) ∧
    (∃ F, Spec.vloadForm (withX [(6, adr 64)]) (.vlds 3 6 0 1 .w8) = some F ∧ gatherPre (withX [(6, adr 64)]).me [F.reg.toNat] = .ok ∧
      F.act (withX [(6, adr 64)]) = []) ∧
    (∃ F, Spec.vstoreForm (withX [(6, adr 64)]) (.vst 3 6 0 0 .w16) = some F ∧ gatherPre (withX [(6, adr 64)]).me [F.reg.toNat] = .ok ∧
      F.act (withX [(6, adr 64)]) ≠ [] ∧ (∀ k ∈ F.act (withX [(6, adr 64)]), placeNow (withX [(6, adr 64)]) (F.adr k) = .own (64 + 2 * k)) ∧
      srcPre (withX [(6, adr 64)]) (some F.w) F.reg.toNat = .ok ∧
      lanesPre (withX [(6, adr 64)]) (F.lanes (withX [(6, adr 64)])) (F.w / 8) true = .ok ∧ placesFor (withX [(6, adr 64)]) 0 0 = true) ∧
    (∃ F, Spec.vstoreForm (withX [(6, adr 64)]) (.vsts 3 6 0 2 .w32) = some F ∧ F.act (withX [(6, adr 64)]) = []) := by
  refine ⟨⟨_, rfl, ?_⟩, ⟨_, rfl, ?_⟩, ⟨_, rfl, ?_⟩, ⟨_, rfl, ?_⟩⟩ <;> decide

/-- Lanes 2 and 3 of a load are in a poisoned granule. -/
def poisonedLanes : State := (withX [(6, adr 56)]).setPoi (2 ^ 63 + 64) true
theorem witness_OwnVectorAccesses_poisoned :
    ∃ F, Spec.vloadForm poisonedLanes (.vld 3 6 0 0 .w32) = some F ∧ gatherPre poisonedLanes.me [F.reg.toNat] = .ok ∧
      (∀ k ∈ F.act poisonedLanes, placeNow poisonedLanes (F.adr k) = .own (56 + 4 * k)) ∧
      lanesPre poisonedLanes (F.lanes poisonedLanes) (F.w / 8) false = .ok ∧ (poisonedLanes.core (coreOf poisonedLanes.cur)).flaws = [] ∧
      2 ∈ F.act poisonedLanes ∧ poisonedAt poisonedLanes (Spec.own poisonedLanes 64) (F.w / 8) ≠ none :=
  ⟨_, rfl, by decide⟩

/-- Sixteen lanes in core 1's scratchpad. -/
def awayLanes : State := withX [(6, padAdr 1 0)]
theorem witness_AwayVectorAccesses :
    (∃ F, Spec.vloadForm awayLanes (.vld 3 6 0 0 .w32) = some F ∧ gatherPre awayLanes.me [F.reg.toNat] = .ok ∧ F.act awayLanes ≠ [] ∧
      (∀ k ∈ F.act awayLanes, placeNow awayLanes (F.adr k) = .pad 1 (4 * k)) ∧
      placesFor awayLanes 0 ((F.act awayLanes).map fun k => (F.adr k).toNat / 64).dedup.length = true ∧
      lanesPre awayLanes (F.lanes awayLanes) (F.w / 8) false = .ok ∧ dstPre awayLanes (some F.w) F.reg.toNat = .ok) ∧
    (∃ F, Spec.vstoreForm awayLanes (.vst 3 6 0 0 .w32) = some F ∧
      lanesPre awayLanes (F.lanes awayLanes) (F.w / 8) true = .ok ∧ srcPre awayLanes (some F.w) F.reg.toNat = .ok) := by
  refine ⟨⟨_, rfl, ?_⟩, ⟨_, rfl, ?_⟩⟩ <;> decide +kernel

/-- Lane 0 in own memory and lane 1 in core 1's scratchpad, with n places of core 0 taken. -/
def mixedLanes (n : Nat) : State := { (withHart fun H => { H with x := [(6, adr 0x40), (7, padAdr 1 0 - adr 0x40)], m := [(1, 3)] }) with
  net := (List.range n).map posted, nextId := 100 }
theorem witness_AwayVectorAccesses_mixed :
    (∃ F, Spec.vloadForm (mixedLanes 47) (.vlds 3 6 7 1 .w32) = some F ∧ gatherPre (mixedLanes 47).me [F.reg.toNat] = .ok ∧
      F.act (mixedLanes 47) = [0, 1] ∧ placeNow (mixedLanes 47) (F.adr 0) = .own 0x40 ∧ placeNow (mixedLanes 47) (F.adr 1) = .pad 1 0 ∧
      lanesPre (mixedLanes 47) (F.lanes (mixedLanes 47)) (F.w / 8) false = .ok ∧ dstPre (mixedLanes 47) (some F.w) F.reg.toNat = .ok ∧
      placesFor (mixedLanes 47) 0 1 = true) ∧
    (∃ F, Spec.vstoreForm (mixedLanes 48) (.vsts 3 6 7 1 .w32) = some F ∧
      lanesPre (mixedLanes 48) (F.lanes (mixedLanes 48)) (F.w / 8) true = .ok ∧ srcPre (mixedLanes 48) (some F.w) F.reg.toNat = .ok ∧
      placesFor (mixedLanes 48) 0 1 = false) := by
  refine ⟨⟨_, rfl, ?_⟩, ⟨_, rfl, ?_⟩⟩ <;> decide +kernel

/-- The same with n places of core 0 taken, and with lanes of a word still to go. -/
def awayFull (n : Nat) : State := { awayLanes with net := (List.range n).map posted, nextId := 100 }
/-- Sixteen addresses of core 1's scratchpad in v4 and v5. -/
def pairLanes : State := withHart fun H =>
  { H with v := [4, 5].map fun r => (r, BitVec.ofNat 512 ((List.range 8).foldl (fun a k => a + (padAdr 1 (64 * k)).toNat * 2 ^ (64 * k)) 0)) }
theorem witness_GatherScatter :
    (∃ F, Spec.lanesForm awayLanes (.gathX 3 6 4) = some F ∧ awayLanes.me.lanes = [] ∧ F.pre = .ok ∧ 16 ≤ 48 - placesUsed awayLanes (coreOf awayLanes.cur)) ∧
    (∃ F, Spec.lanesForm awayLanes (.scatX 3 6 4) = some F ∧ F.pre = .ok) ∧
    (∃ F, Spec.lanesForm (awayFull 40) (.scatX 3 6 4) = some F ∧ (awayFull 40).me.lanes = [] ∧ F.pre = .ok ∧
      0 < 48 - placesUsed (awayFull 40) 0 ∧ 48 - placesUsed (awayFull 40) 0 < 16) ∧
    (∃ F, Spec.lanesForm (awayFull 48) (.gathX 3 6 4) = some F ∧ F.pre = .ok ∧ 48 - placesUsed (awayFull 48) 0 = 0) ∧
    (let l : List (Nat × Word × W32) := [(14, padAdr 1 0, 7), (15, padAdr 1 4, 8)]
     let s := (awayFull 46).modHart 0 fun H => { H with lanes := l }
     let r := (awayFull 47).modHart 0 fun H => { H with lanes := l }
     (∃ F, Spec.lanesForm s (.scatX 3 6 4) = some F) ∧ s.me.lanes ≠ [] ∧ s.me.lanes.length ≤ 48 - placesUsed s 0 ∧
       48 - placesUsed r 0 < r.me.lanes.length) := by
  refine ⟨⟨_, rfl, ?_⟩, ⟨_, rfl, ?_⟩, ⟨_, rfl, ?_⟩, ⟨_, rfl, ?_⟩, ⟨_, rfl⟩, ?_⟩ <;> decide +kernel
/-- The .a forms: the addresses stand in two registers. -/
theorem witness_GatherScatter_pairs :
    (∃ F, Spec.lanesForm pairLanes (.gathA 3 2) = some F ∧ F.pre = .ok) ∧ (∃ F, Spec.lanesForm pairLanes (.scatA 3 2) = some F ∧ F.pre = .ok) := by
  refine ⟨⟨_, rfl, ?_⟩, ⟨_, rfl, ?_⟩⟩ <;> decide +kernel

/-- Hart 0 with copies: one unreported failure, one pending, one done. -/
def copying (l : List Copy) : State := withHart fun H => { H with x := [(6, adr 0), (7, adr 32), (8, 2)], copyCtr := 2, copies := l }

theorem witness_CopiesAndLocks :
    (let s := copying []
     let r := readRecord (readRecord s (s.x 6) 8 32) (s.x 7) 8 32
     5 ∉ s.me.armed ∧ recordPre s (s.x 6) 8 = .ok ∧ recordPre s (s.x 7) 8 = .ok ∧ poisonPre r (s.x 6) 32 = .ok ∧
     poisonPre r (s.x 7) 32 = .ok ∧ queuePre r .copy = .ok ∧ entriesPre r 2 = .ok) ∧
    (let s := copying [⟨1, none, false⟩]; ∃ c ∈ s.me.copies.filter fun c => decide (c.tag ≤ (s.x 8).toNat), c.status = none) ∧
    (let s := copying [⟨1, some 0, false⟩, ⟨3, none, false⟩]
     let due := s.me.copies.filter fun c => decide (c.tag ≤ (s.x 8).toNat)
     (∀ c ∈ due, c.status ≠ none) ∧ (due.filter fun c => !c.reported && c.status != some 0) = [] ∧ (∀ c ∈ s.me.copies, c.tag ≠ 0)) ∧
    (let s := copying [⟨1, some 0, false⟩, ⟨2, some 0x700, false⟩]
     let due := s.me.copies.filter fun c => decide (c.tag ≤ (s.x 8).toNat)
     (∀ c ∈ due, c.status ≠ none) ∧ (due.filter fun c => !c.reported && c.status != some 0) = [⟨2, some 0x700, false⟩]) := by decide

/-- A one-dimensional shape of 16 words of type i32 at 0x9000_0000_0000_0100, in the own scratchpad. -/
def shapeBytes : List Byte :=
  toBytes 8 0x9000000000000100 ++ toBytes 2 16 ++ toBytes 2 1 ++ toBytes 2 1 ++ toBytes 2 1 ++ List.replicate 12 0 ++ toBytes 4 4
def binding (a : Word) : State := withPad 0x40 shapeBytes [(6, adr 0x40), (7, a)]

theorem witness_Bindings :
    unbindPre (binding 0).me 24 = .ok ∧ contextPre (binding 0) 24 = .ok ∧ recordPre (binding 0) ((binding 0).x 6) 8 = .ok ∧
    poisonPre (readRecord (binding 0) ((binding 0).x 6) 8 32) ((binding 0).x 6) 32 = .ok ∧ (parseShape (recordBytes (binding 0) ((binding 0).x 6) 32)).valid = true ∧
    (parseShape (toBytes 8 0 ++ List.replicate 20 0 ++ [13, 0, 0, 0])).valid = false ∧
    bit ((binding 0x8000000000000001).x 7) 63 = true ∧ bits ((binding 0x8000000000000001).x 7) 43 20 = 0 ∧
    bit ((binding 9).x 7) 63 = false ∧ bits ((binding 9).x 7) 16 47 = 0 ∧ tagBound (binding 9).me 24 (bits ((binding 9).x 7) 0 16) = false := by decide

/-- Granule 4 of the own scratchpad, full. -/
def fullCell : State := (withX [(6, adr 0x40)]).setFe (2 ^ 63 + 0x40) true
def emptyCell : State := withX [(6, adr 0x40)]
theorem witness_FullEmptyOperations :
    (placeNow fullCell (fullCell.x 6) = .own 0x40 ∧ isMordant fullCell.cur = false ∧ 5 ∉ fullCell.me.armed ∧ (fullCell.x 6).toNat % 8 = 0 ∧
      lockPre fullCell (fullCell.x 6) 8 false = .ok ∧ lockPre fullCell (fullCell.x 6) 8 true = .ok ∧
      (fullCell.gbits (Spec.own fullCell 0x40)).fe = true ∧ (load fullCell (Spec.own fullCell 0x40) 8).2.2 = none) ∧
    Spec.quiet fullCell (Spec.own fullCell 0x40) ∧
    (placeNow emptyCell (emptyCell.x 6) = .own 0x40 ∧ feRelease emptyCell (emptyCell.x 6) = .ok ∧ granuleLockPre emptyCell (emptyCell.x 6) = .ok ∧
      (emptyCell.gbits (Spec.own emptyCell 0x40)).fe = false ∧ (emptyCell.core 0).feWait.length < 64 ∧ feRelease fullCell (fullCell.x 6) = .ok) :=
  ⟨by decide, fun p h => by simp [show (fullCell.core (coreOfLoc (Spec.own fullCell 0x40))).feWait = [] by decide] at h, by decide⟩
theorem witness_FullEmptyOperations_away :
    (adr 4).toNat % 8 ≠ 0 ∧ fePlace (withX []) (adr 0x20000) = false ∧ (adr 0x20000).toNat % 8 = 0 ∧
    fePlace (withX []) (padAdr 1 8) = true ∧ placeNow (withX []) (padAdr 1 8) = .pad 1 8 ∧ 5 ∉ (withX []).me.armed ∧
    (padAdr 1 8).toNat % 8 = 0 ∧ lockPre (withX []) (padAdr 1 8) 8 true = .ok ∧ lockPre (withX []) (padAdr 1 8) 8 false = .ok ∧
    feRelease (withX []) (padAdr 1 8) = .ok ∧ granuleLockPre (withX []) (padAdr 1 8) = .ok ∧ placesFor (withX []) 0 1 = true := by decide
theorem witness_FullEmptyOperations_full :
    64 ≤ ((State.reset.modCore 0 fun C => { C with feWait := List.replicate 64 (posted 0) }).core 0).feWait.length := by decide

/-- A task of hart 0 with a record buffer of zeros at offset 0x40. -/
def spawner : State := inTask [(6, adr 0x40)]
theorem witness_Spawning :
    (Spec.spawnForm spawner (.spawnNb 5 6) = some (adr 0x40, id, none, some 5)) ∧
    (∃ f, Spec.spawnForm spawner (.spawnr 6 7) = some (adr 0x40, f, none, none)) ∧
    (Spec.spawnForm spawner (.spawnat 6 7) = some (adr 0x40, id, some 0, none)) ∧
    Spec.running spawner aTask { trec := aLaunch, start := 0 } ∧ bufferPre (bufferRead spawner (adr 0x40)) (adr 0x40) = .ok ∧
    recCode spawner aLaunch.ntypes (recordAt spawner (adr 0x40)).1 = none ∧ inRegion aLaunch 0 = true ∧ 5 ∉ spawner.me.armed ∧
    spawner.me.outst < 64 ∧ (spawner.cluster 0).keep.length < 1024 :=
  ⟨rfl, ⟨_, rfl⟩, rfl, ⟨by decide, by decide, by decide⟩, by decide, by decide, by decide, by decide, by decide, by decide⟩
theorem witness_Spawning_full :
    64 ≤ (spawner.modHart 0 fun H => { H with outst := 64 }).me.outst ∧
    1024 ≤ ((spawner.modCluster 0 fun G => { G with keep := List.replicate 1024 { trec := {}, regs := [], launch := 5, slot := 1, key := 7 } }).cluster 0).keep.length :=
  ⟨by decide, by decide +kernel⟩

theorem witness_TaskEnds_ends :
    spawner.me.mode = .U ∧ spawner.me.task = some aTask ∧ spawner.me.deque = [] ∧ unbindAllPre spawner.me = .ok ∧
    endPre (spawner.modHart 0 unbindAll) = .ok ∧ sigEnd (releaseEngine (spawner.modHart 0 unbindAll) 0) = .ok := by decide
/-- Core 0 running, and an exception of some cause from S mode of hart 0 in M mode, with x17 and whether a fault end has begun. -/
def inFirmware (cause : Nat) (x17 : Word) (ending : Bool) : State := (spawner.modCore 0 fun C => { C with isSealed := false }).modHart 0 fun H =>
  { H with mode := .M, fw := true, x := [(17, x17)], ending := ending, csr := { H.csr with mcause := BitVec.ofNat 64 cause, mstatus := 0x800 } }
theorem witness_TaskEnds_calls :
    (let s := inFirmware 9 0x4E45 false; let H := s.hart 0
     isMordant 0 = false ∧ H.fw = true ∧ H.mode = .M ∧ H.free = false ∧ (s.core (coreOf 0)).isSealed = false ∧ coreGone s (coreOf 0) = false ∧
     17 ∉ H.armed ∧ 10 ∉ H.armed ∧ H.csr.mcause.toNat = 9 ∧ Mode.ofCode (bits H.csr.mstatus 11 2) = .S ∧ H.task ≠ none ∧ H.getX 17 = 0x4E45 ∧
     H.ending = false ∧ unbindAllPre H = .ok) ∧
    (let s := inFirmware 9 0x4E45 true; (s.hart 0).ending = true ∧ faultEndReady s 0 = true) ∧
    (let H := (inFirmware 9 3 false).hart 0; H.csr.mcause.toNat = 9 ∧ H.getX 17 ≠ 0x4E45) ∧
    (let H := (inFirmware 2 3 false).hart 0; H.csr.mcause.toNat < 2 ^ 63 ∧ H.csr.mcause.toNat ≠ 8 ∧ H.csr.mcause.toNat ≠ 9 ∧
      Mode.ofCode (bits H.csr.mstatus 11 2) ≠ .M) := by decide
/-- A task at word 4 of a signed object whose live-mask table lies at 0x9000_0000_0000_0100, asked to yield. -/
def yielding : State :=
  (inTask []).modHart 0 (fun H => { H with pc := 16, csr := { H.csr with prip := true, mie := 0x80000 } }) |>.modCore 0 fun C =>
    { C with objs := [{ first := 0, count := 8, id := 0, table := adr 0x100, entries := 2 }] }
theorem witness_TaskEnds_safePoints :
    (let H := spawner.me; (H.mode == .U && H.task.isSome && H.csr.prip && bit H.csr.mie 19 && H.csr.loop0.count == 0 && H.csr.loop1.count == 0) = false) ∧
    sigEnd spawner = .ok ∧
    (let H := yielding.me; (H.mode == .U && H.task.isSome && H.csr.prip && bit H.csr.mie 19 && H.csr.loop0.count == 0 && H.csr.loop1.count == 0) = true ∧
      H.task = some aTask ∧ unbindAllPre H = .ok ∧ H.commit = none ∧ H.held = none) ∧
    (let s1 := readRecord (disarmHart (yielding.modHart 0 fun H => { unbindAll H with dropped := H.dropped ++ H.armed }) 0)
        (maskAddr (disarmHart (yielding.modHart 0 fun H => { unbindAll H with dropped := H.dropped ++ H.armed }) 0) 1) 16 16
     endPre s1 = .ok ∧ poisonPre s1 (maskAddr s1 1) 16 = .ok ∧ (parseMask (recordBytes s1 (maskAddr s1 1) 16)).valid = true ∧
     sigEnd (releaseEngine s1 0) = .ok) := by decide
/-- Group 3 of the launch with the cores of the list. -/
def grouped (l : List Nat) : State :=
  (((inTask [(6, 3), (7, 256)]).modCluster 0 fun G => { G with grpTab := [(5 * 256 + 3, (1, l))] }).modCore 0 fun C => { C with isSealed := false }).modCore 1
    fun C => { C with isSealed := false }
theorem witness_TaskEnds_barriers :
    (let s := grouped [0]
     s.me.mode = .U ∧ s.me.task = some aTask ∧ s.pkg.barriers = [] ∧ outstanding s 0 3 false = false ∧ (s.x 6).toNat ≤ 255 ∧
     0 ∈ (groupOf' s 0 5 3).2 ∧ (∀ k ∈ (groupOf' s 0 5 3).2, k = 0 ∨ (s.core k).isSealed = true ∨ coreGone s k = true) ∧ s.me.vloop = none) ∧
    (let s := grouped [0, 1]
     0 ∈ (groupOf' s 0 5 3).2 ∧ (∃ k ∈ (groupOf' s 0 5 3).2, k ≠ 0 ∧ (s.core k).isSealed = false ∧ coreGone s k = false)) ∧
    (255 < ((grouped []).x 7).toNat ∧ 0 ∉ (groupOf' (grouped []) 0 5 3).2) := by decide
/-- An episode of the group that began with cores 0 and 1, or with core 1 alone. -/
def episode (l m : List Nat) : State := (grouped m).modPkg fun P => { P with barriers := [{ launch := 5, group := 3, members := l, arrived := [], harts := [] }] }
theorem witness_TaskEnds_episodes :
    (let s := episode [0, 1] [1]; let b : Barrier := { launch := 5, group := 3, members := [0, 1], arrived := [], harts := [] }
     s.me.mode = .U ∧ s.me.task = some aTask ∧ s.pkg.barriers = [b] ∧ b.launch = aTask.launch ∧ b.group = (s.x 6).toNat ∧ b.members ≠ [] ∧
     outstanding s 0 3 false = false ∧ 0 ∈ b.members ∧ 0 ∉ b.arrived ∧ 0 ∉ b.harts ∧ (∃ k ∈ b.members, k ≠ 0 ∧ counted s b k = false)) ∧
    (let s := episode [1] [0, 1]; 0 ∉ [1] ∧ 0 ∈ (groupOf' s (cluOf 0) 5 3).2) ∧ (let s := episode [1] [1]; 0 ∉ (groupOf' s (cluOf 0) 5 3).2) := by decide

/-- A counter at offset 0x40, in a task. -/
def counting (k : Counter) (v : Word) : State :=
  { inTask [(6, adr 0x40), (7, v)] with mem := State.reset.mem.writeBytes (2 ^ 63 + 0x40) (counterBytes k) }
def counter (n : Nat) (f : Bool) : Counter := { count := n, stat := 0, arm := false, fired := f, under := false, overf := false, cont := 0 }
theorem witness_JoinWords :
    (let s := counting (counter (2 ^ 32 - 1) false) 1
     placeNow s (s.x 6) = .own 0x40 ∧ isMordant s.cur = false ∧ (s.x 6).toNat % 16 = 0 ∧ lockPre s (s.x 6) 16 true = .ok ∧
     feRelease s (s.x 6) = .ok ∧ counterPoisoned (scrub s (Spec.own s 0x40) 16 false) (Spec.own s 0x40) = false ∧
     2 ^ 32 ≤ (readCounter s (Spec.own s 0x40)).count + (s.x 7).toNat % 2 ^ 32) ∧
    (let s := counting (counter (2 ^ 32 - 2) false) 1
     (readCounter s (Spec.own s 0x40)).count + (s.x 7).toNat % 2 ^ 32 < 2 ^ 32 ∧ (readCounter s (Spec.own s 0x40)).fired = false ∧
     (readCounter s (Spec.own s 0x40)).count ≠ 0) ∧
    (readCounter (counting (counter 0 true) 0) (Spec.own spawner 0x40)).fired = true ∧
    (let s := counting (counter 0 false) 0
     (readCounter s (Spec.own s 0x40)).fired = false ∧ (readCounter s (Spec.own s 0x40)).count = 0 ∧ s.x 7 = 0 ∧ s.me.task = some aTask ∧
     launchOf s 5 = some { trec := aLaunch, start := 0 }) ∧
    (let s := (counting (counter 0 false) 0).setPoi (Spec.own spawner 0x40) true
     counterPoisoned (scrub s (Spec.own s 0x40) 16 false) (Spec.own s 0x40) = true) := by decide

theorem witness_JoinWords_away :
    placeNow (withX []) (padAdr 1 0x10) = .pad 1 0x10 ∧ counterPre (withX []) (padAdr 1 0x10) = .ok ∧ placesFor (withX []) 0 1 = true ∧
    (padAdr 1 8).toNat % 16 ≠ 0 ∧ (0x1000 : Word).toNat % 16 = 0 ∧ (∃ v, placeNow spawner 0x1000 = .virt v) := by
  refine ⟨by decide, by decide, by decide, by decide, by decide, ⟨_, rfl⟩⟩

def ranges (l : List (Nat × Nat)) : State := (inTask [(6, adr 0x40), (7, 1), (8, 65536)]).modHart 0 fun H => { H with deque := l }
theorem witness_DequeWords :
    (Spec.running (ranges []) aTask { trec := aLaunch, start := 0 } ∧ 5 ∉ (ranges []).me.armed) ∧
    (let s := ranges []; (s.x 7).toNat < (s.x 8).toNat ∧ (s.x 8).toNat ≤ 65536 ∧ s.me.deque.length < 16 ∧ (s.x 8).toNat ≤ (s.x 8).toNat) ∧
    (ranges [(1, 2), (3, 9)]).me.deque = [(1, 2)] ++ [(3, 9)] ∧ (ranges [(1, 2), (3, 9)]).me.deque = (1, 2) :: [(3, 9)] ∧ 2 - 1 < 2 ∧
    (let s := ranges [(3, 9)]; 2 ≤ 9 - 3 ∧ recordPre s (s.x 6) 16 = .ok ∧ poisonPre (readRecord s (s.x 6) 16 32) (s.x 6) 32 = .ok ∧
      (recordAt s (s.x 6)).1.carry = false ∧
      recCode s aLaunch.ntypes (recordAt s (s.x 6)).1 = none ∧ (recordAt s (s.x 6)).1.join = 0 ∧ s.me.outst < 64 ∧
      (s.cluster (cluOfHart s.cur)).keep.length < 1024) ∧
    16 ≤ (ranges (List.replicate 16 (3, 9))).me.deque.length :=
  ⟨⟨⟨by decide, by decide, by decide⟩, by decide⟩, by decide, by decide, by decide, by decide, by decide, by decide⟩

/-- A ring of two 64-byte slots at offset 0x200, described at 0x100; PIDX and CIDX; a record buffer at 0x40. -/
def ringState (p c : Nat) (head : List Byte) : State :=
  { inTask [(6, adr 0x100), (7, adr 0x40)] with
    mem := (State.reset.mem.writeBytes (2 ^ 63 + 0x100) (toBytes 8 0x9000000000000200 ++ toBytes 8 1 ++ toBytes 4 p ++ toBytes 4 c ++ toBytes 8 0)).writeBytes
      (2 ^ 63 + 0x200) head }
def ringAt (s : State) : Ring := parseRing (s.mem.readBytes (Spec.own s 0x100) 32)
theorem witness_RingWords_push :
    (let s := ringState 0 0 []; let S := readRecord s (s.x 6) 1 32; let R := readRecord S (s.x 7) 16 32
     s.me.mode ≠ .M ∧ isMordant s.cur = false ∧ placeNow s (s.x 6) = .own 0x100 ∧ (s.x 6).toNat % 32 = 0 ∧
     poisonPre S (s.x 6) 32 = .ok ∧ (ringAt s).kind = 0 ∧ (parseRec (recordBytes s (s.x 7) 32)).carry = false ∧
     pushPre R (ringAt s) (s.x 7) = .ok ∧ (ringAt s).full = false ∧ (ringAt s).cons = 0 ∧
     placesFor s 0 4 = true ∧ placeNow s (BitVec.ofNat 64 ((ringAt s).slot (ringAt s).pidx)) = .own 0x200 ∧
     placeNow s (BitVec.ofNat 64 ((ringAt s).head (ringAt s).pidx)) = .own 0x238 ∧ placeNow s (s.x 6 + 16) = .own 0x110 ∧ outstanding s 0 0 false = false) ∧
    (ringAt (ringState 2 0 [])).full = true ∧
    (let s := { ringState 0 0 [] with net := [{ posted 9 with body := .mem (2 ^ 63) (.store [1] false) (.posted false) (.at_ (2 ^ 63)) }] }
     let S := readRecord s (s.x 6) 1 32
     poisonPre S (s.x 6) 32 = .ok ∧ pushPre (readRecord S (s.x 7) 16 32) (ringAt s) (s.x 7) = .ok ∧ placesFor s 0 4 = true ∧ outstanding s 0 0 false = true) := by decide
theorem witness_RingWords_pop :
    (let s := ringState 0 0 []; let head : Word := BitVec.ofNat 64 ((ringAt s).head (ringAt s).cidx)
     5 ∉ s.me.armed ∧ (ringAt s).valid = true ∧ ringPlace s (BitVec.ofNat 64 ((ringAt s).slot 0)) = true ∧ (ringAt s).cons = 0 ∧
     ¬((ringAt s).kind = 2 ∧ s.me.mode = .U) ∧ recordPre s (s.x 7) 16 = .ok ∧
     placeNow s head = .own 0x238 ∧ poisonPre (readRecord (readRecord s (s.x 6) 1 32) head 1 8) head 8 = .ok ∧
     (s.mem.read (Spec.own s 0x238)).toNat % 2 ≠ (ringAt s).phase (ringAt s).cidx) ∧
    (let s := ringState 1 0 (List.replicate 56 7 ++ [1]); let slot : Word := BitVec.ofNat 64 ((ringAt s).slot (ringAt s).cidx)
     (s.mem.read (Spec.own s 0x238)).toNat % 2 = (ringAt s).phase (ringAt s).cidx ∧ (ringAt s).size = 0 ∧
     placeNow s slot = .own 0x200 ∧
     poisonPre (readRecord (readRecord (readRecord s (s.x 6) 1 32) (BitVec.ofNat 64 ((ringAt s).head (ringAt s).cidx)) 1 8) slot 1 56) slot 56 = .ok ∧
     placeNow s (s.x 7) = .own 0x40 ∧ placeNow s (s.x 6 + 20) = .own 0x114 ∧ placesFor s 0 1 = true) := by decide

/-- A granule of core 16, in cluster 1. -/
def granuleFar : Nat := 2 ^ 63 + 2 ^ 39
/-- A deposit held for x5 of hart 0. -/
def heldFor5 : Packet := { posted 9 with body := .deposit 5 0x77 }
theorem witness_MessageWords_arm :
    (let s := withX []; s.me.commit ≠ some 5 ∧ (∀ p ∈ s.me.pend, ¬(p.file = .x ∧ p.reg = 5)) ∧ 5 ∉ s.me.armed ∧ heldDeposit s 0 5 = none) ∧
    5 ∈ (withHart fun H => { H with armed := [5] }).me.armed ∧
    ¬((withHart fun H => { H with commit := some 5 }).me.commit ≠ some 5) ∧
    heldDeposit ((withX []).modCore 0 fun C => { C with deposits := [heldFor5] }) 0 5 = some heldFor5 ∧ heldFor5.body = .deposit 5 0x77 := by decide
/-- A packet for a core of another cluster waits at the port of its route; one for the own cluster is at hand. -/
theorem witness_MessageWords_routes :
    (let s := withX []; let p : Packet := { id := 0, hart := 0, slot := none, key := 0, body := .deposit (32 * 4 * 1 + 5) 0 }
     destRouter s p (senderRouter s.cur) = senderRouter s.cur) ∧
    (let s := withX []; let b : Body := .deposit granuleFar 0; let p : Packet := { id := 0, hart := 0, slot := none, key := 0, body := b, limit := 0x1000000 }
     destRouter s p (senderRouter s.cur) ≠ senderRouter s.cur ∧ (nextPort s (senderRouter s.cur) (destRouter s p (senderRouter s.cur)) (planeOf b)).isSome) := by decide
/-- A handler header at offset 0x40: one word, no data. -/
def sender : State := withPad 0x40 [1, 0] [(6, adr 0x40), (7, 64), (8, padAdr 1 0), (9, 2 ^ 58)]
theorem witness_MessageWords_send :
    placesFor sender 0 1 = true ∧ (sender.x 8).toNat / 2 ^ 60 = 8 ∧ accessPre sender (sender.x 8) 8 true true = .ok ∧ fePlace sender (sender.x 8) = true ∧
    (sender.x 7).toNat < 2 ^ 58 ∧ ¬((sender.x 9).toNat / 2 ^ 60 = 8 ∨ (sender.x 9).toNat / 2 ^ 60 = 9) ∧ 2 ^ 58 ≤ (sender.x 9).toNat ∧
    recordPre sender (sender.x 6) 16 = .ok ∧ (sender.x 7).toNat % 32 = 0 ∧
    (let h := recordBytes sender (sender.x 6) 16; let size := 16 + 4 * leAt h 0 1 + 8 * leAt h 1 1
     1 ≤ leAt h 0 1 ∧ leAt h 0 1 ≤ 24 ∧ leAt h 1 1 ≤ 20 ∧ leAt h 2 14 = 0 ∧
     poisonPre (readRecord (readRecord sender (sender.x 6) 16 16) (sender.x 6) 16 size) (sender.x 6) size = .ok) ∧
    ¬((sender.x 9).toNat < 2 ^ 58 ∧ (sender.x 9).toNat % 32 = 0) ∧
    leAt (recordBytes (withX [(6, adr 0x40)]) (adr 0x40) 16) 0 1 = 0 := by decide
/-- A handler that interrupted a task, and one that ran on a free hart. -/
def ran (free : Bool) : HandlerRun :=
  { inslot := 2, wasFree := free, pc := 8, x28 := 1, x29 := 2, x30 := 3, x31 := 4, le := true, chk := {}, slot := some 1, key := 7 }
theorem witness_MessageWords_return :
    (withHart fun H => { H with handler := some (ran true) }).me.handler = some (ran true) ∧ (ran true).wasFree = true ∧ (ran false).wasFree = false ∧
    (withX []).me.vloop = none ∧ (withX []).me.handler = none ∧ isMordant (withX []).cur = false ∧ isMordant { State.reset with cur := 32768 }.cur = true := by decide
theorem witness_MessageWords_migrate :
    (let s := inTask [(6, padAdr 1 0), (7, 3), (8, 4)]; let s1 := disarmHart (s.modHart s.cur unbindAll) s.cur
     s.me.mode = .U ∧ s.me.task = some aTask ∧ migrateCore s (s.x 6) = some 1 ∧ s.me.deque = [] ∧ unbindAllPre s.me = .ok ∧
     (s.x 7).toNat < ntypesOf s ∧ ntypesOf s ≤ (s.x 8).toNat ∧ endPre s1 = .ok ∧ s.me.outst < 64 ∧ placesFor s1 s.cur 1 = true ∧
     sigEnd (releaseEngine s1 s.cur) = .ok) := by decide

/-- A member list of two cores at offset 0x40, and one whose second member repeats the first. -/
def groupWriter (b : Nat) : State := { inTask [(6, 3), (7, adr 0x40), (8, 256)] with
  mem := State.reset.mem.writeBytes (2 ^ 63 + 0x40) (toBytes 16 2 ++ toBytes 4 0 ++ toBytes 4 b) }
theorem witness_FabricWords_groups :
    (let s := groupWriter 4; let l := recordBytes s (s.x 7) 24; let ws := (List.range 2).map fun i => leAt l (16 + 4 * i) 4
     Spec.running s aTask { trec := aLaunch, start := 0 } ∧ (s.x 6).toNat ≤ 255 ∧ 255 < (s.x 8).toNat ∧ recordPre s (s.x 7) 16 = .ok ∧
     leAt (recordBytes s (s.x 7) 16) 0 4 = 2 ∧ leAt (recordBytes s (s.x 7) 16) 4 12 = 0 ∧ ownRoom s (s.x 7) 24 = true ∧ poisonPre (grpRead s (s.x 7)) (s.x 7) 24 = .ok ∧
     (∀ i, i < 2 → memberBad s aLaunch 0 5 3 ws i = false) ∧ rewriting s 5 3 = false ∧ outstanding s s.cur 3 false = false) ∧
    (let s := groupWriter 0; let l := recordBytes s (s.x 7) 24; let ws := (List.range 2).map fun i => leAt l (16 + 4 * i) 4
     memberBad s aLaunch 0 5 3 ws 1 = true ∧ ∀ j, j < 1 → memberBad s aLaunch 0 5 3 ws j = false) :=
  ⟨⟨⟨by decide, by decide, by decide⟩, by decide +kernel⟩, by decide +kernel⟩
theorem witness_FabricWords_others :
    (let s := inTask [(6, adr 0x40), (7, 3 + 2 ^ 16 * 0x1FFC0)]
     s.me.mode = .U ∧ s.me.task = some aTask ∧ (s.x 7).toNat = 3 + 2 ^ 16 * 0x1FFC0 ∧ 0x1FFC0 < 2 ^ 17 ∧ 0x1FFC0 % 64 = 0 ∧ recordPre s (s.x 6) 64 = .ok ∧
     lockPre s (s.x 6) 64 false = .ok ∧ poisonPre (readRecord s (s.x 6) 64 64) (s.x 6) 64 = .ok ∧ placesFor s 0 1 = true) ∧
    (let s := withX [(6, 7), (7, 2 ^ 16 + 0xFFFF), (8, BitVec.ofNat 64 (2 ^ 63 + 15 * 2 ^ 10 + 255)), (9, 15), (10, 16)]
     s.me.mode = .M ∧ s.x 6 = BitVec.ofNat 64 7 ∧ (s.x 7).toNat = 2 ^ 16 + 0xFFFF ∧ s.x 8 = BitVec.ofNat 64 (2 ^ 63 + 15 * 2 ^ 10 + 255) ∧
     (s.x 9).toNat < 16 ∧ 16 ≤ (s.x 10).toNat ∧ (portOf s 15).staged = none ∧ (portOf s 15).rotating = none ∧
     (portOf (setPort s 15 { portOf s 15 with staged := some 8 }) 15).staged = some 8) := by decide

/-- The matrix engine leased to a core of cluster 0. -/
def leased (k rem : Nat) (f : Hart → Hart) : State :=
  (withHart f).modCluster 0 fun G => { G with lease := some k, rem := rem }
theorem witness_EngineWords_lease :
    (let s := withX [(6, 64), (7, 65)]; (s.x 6).toNat = 64 ∧ 64 < (s.x 7).toNat ∧ (∀ m, s.me.stalled ≠ some (.lease m)) ∧ isMordant s.cur = false ∧
      (s.cluster 0).lease = none ∧ (s.cluster 0).leaseReq = [] ∧ leaseWaits s 0 0 = []) ∧
    (leased 3 1 id |>.cluster 0).lease ≠ none ∧ (leased 3 1 id |>.cluster 0).lease ≠ some 0 ∧ (leased 0 1 id |>.cluster 0).lease = some 0 :=
  ⟨⟨by decide, by decide, (fun m h => by have q : (none : Option Wait) = some (.lease m) := h; cases q), by decide, by decide, by decide, by decide⟩,
    by decide, by decide, by decide⟩
theorem witness_EngineWords_claim :
    (let s := withX [(6, 128), (7, 129), (8, 0x100)]
     bits (s.x 6) 8 55 = 0 ∧ (s.x 6).toNat % 256 = 128 ∧ mapSize false < (s.x 7).toNat % 256 ∧ bits (s.x 8) 8 55 ≠ 0 ∧ 5 ∉ s.me.armed ∧
     freeRun (mapOf s.me false) 128 128 = some 0) ∧ 128 ≤ (freeUnits (withX []) 0 false).length ∧
    freeRun [(0, 5)] 128 128 = none := ⟨by decide +kernel, by decide +kernel, by decide +kernel⟩
def slotted : State := withHart fun H => { H with x := [(6, 3), (7, 1), (8, 128), (9, 4)], slots := [(3, 9)] }
theorem witness_EngineWords_release :
    mapSize false ≤ (slotted.x 8).toNat ∧ (slotted.x 6).toNat % 2 ^ 63 + (slotted.x 7).toNat ≤ 128 ∧
    SMap.find? (mapOf slotted.me false) 4 = none ∧ (SMap.find? (mapOf slotted.me false) 3).isSome ∧ namedBy slotted 0 3 = false ∧
    namedBy (slotted.modCluster 0 fun G => { G with matQ := [{ hart := 0, slot := none, key := 0, op := .zero 0, uses := [3], slots := [], accs := [], locks := [] }] }) 0 3 = true := by decide
theorem witness_EngineWords_settles :
    holdsLease (leased 0 1 id) = true ∧ ((leased 0 1 id).cluster 0).rem ≤ 1 ∧ 1 < ((leased 0 2 id).cluster 0).rem ∧ holdsLease (withX []) = false ∧
    8 ≤ ((withX [(6, 8)]).x 6).toNat ∧ mappedAcc (leased 0 1 id).me 7 = false ∧
    mappedAcc (leased 0 1 fun H => { H with accs := [(7, 1)] }).me 7 = true ∧
    hasCommands (withX []) 0 = false ∧ (withX []).me.engFail = none ∧
    (withHart fun H => { H with engFail := some (48, 1) }).me.engFail = some (48, 1) := by decide

/-- Every slot and accumulator of hart 0 mapped. -/
def mapped : State := leased 0 9 fun H => { H with
  slots := (List.range 128).map (fun i => (i, i)), accs := (List.range 8).map (fun i => (i, i)), x := [(6, 0), (7, adr 0x40)] }
/-- A record of 4,096 elements of type bf16, and one of none, at offset 0x40. -/
def shaped (e0 : Nat) : State := { mapped with mem := State.reset.mem.writeBytes (2 ^ 63 + 0x40) (
  toBytes 8 0x9000000000000100 ++ toBytes 2 e0 ++ toBytes 2 1 ++ toBytes 2 1 ++ toBytes 2 1 ++ List.replicate 12 0 ++ toBytes 4 7) }
theorem witness_MatrixWords_stages :
    (∃ k, Spec.stageForm mapped (.mstgAcc 0 0 7 0 7) = some k ∧ holdsLease mapped = true ∧ k.pre = .ok) ∧
    (∃ k, Spec.stageForm mapped (.mxst 0 0 3 0 0) = some k ∧ k.pre = .ok) ∧
    (∃ k, Spec.stageForm mapped (.mchain 0 0 0 7 0 .bf16sr) = some k ∧ k.pre = .ok) := by
  refine ⟨⟨_, rfl, ?_, ?_⟩, ⟨_, rfl, ?_⟩, ⟨_, rfl, ?_⟩⟩ <;> decide +kernel
theorem witness_MatrixWords_moves :
    (let s := shaped 4096; let R := readRecord s (s.x 7) 8 32; holdsLease s = true ∧ Spec.fillPre R (s.x 6) (s.x 7) = .ok ∧ Spec.drainPre R (s.x 6) (s.x 7) = .ok) := by
  decide +kernel

/-- A merge descriptor of two empty fibres in i32 at offset 0x40, a completion granule at 0x80. -/
def merging : State := withPad 0x40 (List.replicate 60 0 ++ [4]) [(6, adr 0x40), (7, adr 0x80)]
def granuleAt (v : Nat) (fe : Bool) : State := ({ merging with mem := merging.mem.writeBytes (2 ^ 63 + 0x80) (toBytes 8 v) }).setFe (2 ^ 63 + 0x80) fe
theorem witness_SparseWords :
    (Spec.sparseForm merging (.mrgi 6 7) = some (adr 0x40, adr 0x80, 2, 64) ∧ ownPre16 merging (adr 0x40) 5 = .ok ∧ ownPre16 merging (adr 0x80) 7 = .ok ∧
      placeNow merging (adr 0x80) = .own 0x80 ∧ poisonPre (readRecord merging (adr 0x40) 16 64) (adr 0x40) 64 = .ok ∧ Spec.descOf merging 2 (recordBytes merging (adr 0x40) 64) = true ∧
      Spec.descOf merging 3 (recordBytes merging (adr 0x40) 96) = false ∧ lockPre merging (adr 0x80) 16 true = .ok ∧ trackPre merging.me = .ok ∧
      queuePre merging .merge = .ok ∧ entriesPre merging (Spec.arrsOf 2 (recordBytes merging (adr 0x40) 64)).length = .ok ∧ (merging.core 0).feWait = []) ∧
    (let s := granuleAt 0 false; (s.x 7).toNat % 16 = 0 ∧ placeNow s (s.x 7) = .own 0x80 ∧ (s.gbits (Spec.own s 0x80)).fe = false) ∧
    (let s := granuleAt (2 ^ 63) true; let v := BitVec.ofNat 64 (ofBytes (s.mem.readBytes (Spec.own s 0x80) 8))
     (s.gbits (Spec.own s 0x80)).fe = true ∧ (v.getLsbD 63 && !v.getLsbD 55) = true) ∧
    (let s := granuleAt (2 ^ 63 + 2 ^ 55) true; let v := BitVec.ofNat 64 (ofBytes (s.mem.readBytes (Spec.own s 0x80) 8))
     (v.getLsbD 63 && !v.getLsbD 55) = false) := by decide

/-- A commit descriptor at offset 0x40: one word from word 0. -/
def committing (q : List Commit) : State :=
  ({ withX [(6, adr 0x40)] with mem := (State.reset.mem.writeBytes (2 ^ 63 + 0x40) (toBytes 8 (2 ^ 16))).writeBytes (codeLoc 0 0) (toBytes 4 0x6F) }).modCore 0
    fun C => { C with commits := q }
def aCommit (started : Bool) (dirty : Option Nat) (bad : Option (Nat × Nat)) : Commit :=
  { hart := 0, rd := 5, desc := adr 0x40, started := started, dirty := dirty, bad := bad, count := 1 }
theorem witness_CodeWords_commits :
    (let s := withHart fun H => { H with mode := .S, x := [(6, adr 0x1FFE0)] }
     s.me.mode ≠ .U ∧ placeNow s (s.x 6) = .own 0x1FFE0 ∧ 0x1FFE0 + 32 ≤ padSize (coreOf s.cur) ∧ 5 ∉ s.me.armed ∧ s.me.commit = none) ∧
    (let s := committing [aCommit false none none]
     (s.core 0).commits = aCommit false none none :: [] ∧ (aCommit false none none).started = false ∧
     (let loc := padBase 0 + (descOff s 0 (adr 0x40)).getD 0
      poisonedAt (scrub s loc 32 false) loc 32 = none ∧ poisonedAt (scrub (s.setPoi loc true) loc 32 false) loc 32 ≠ none ∧
      descOk s 0 (s.mem.readBytes loc 32) = true) ∧ descOk s 0 (List.replicate 32 0) = false) ∧
    (let s := (committing [aCommit true none none]).modHart 0 fun H => { H with commit := some 5 }
     (s.core 0).commits = aCommit true none none :: [] ∧ coreOf 0 = 0 ∧ 0 ∈ hartsOf 0 ∧ (s.hart 0).commit = some 5) ∧
    (aCommit true (some 0) none).dirty ≠ none ∧ (aCommit true none (some (0, 1))).bad ≠ none := by decide
theorem witness_CodeWords_restart :
    (let s := committing []; s.me.mode = .M ∧ (s.core 0).isSealed = true ∧ (s.core 0).lostG = none ∧ coreAt (cluOfHart s.cur) 0 = 0 ∧
      coreScan s 0 0 1 false 0 = none) ∧ (coreScan (withX []) 0 0 1 false 0).isSome ∧
    ((State.reset.modCore 0 fun C => { C with isSealed := false }).core 0).isSealed = false := by decide

/-- Hart 0 in U mode with SRI, MAI or LTI pending and enabled (bits 18, 16, 17). -/
def interrupted (n : Nat) : State :=
  (running.modCore 0 fun C => { C with cycle := 1, inbox := if n = 16 then SMap.put [] 28 ⟨0, true, 0, 0, 0, none, 0, 0, 0⟩ else [] }).modHart 0 fun H =>
    { H with mode := .U, csr := { H.csr with mie := 0xF0000, srip := decide (n = 18), stimecmp := if n = 17 then 0 else 5 } }
theorem witness_RegisterSteps_traps :
    dueInterrupt running 0 = none ∧ dueInterrupt (interrupted 18) 0 = some 18 ∧ atBoundary (interrupted 18) 0 = true ∧
    atBoundary ((interrupted 18).modHart 0 fun H => { H with vloop := some ⟨0, 2, 1, 5, []⟩ }) 0 = false ∧
    intrDue (interrupted 18) 0 18 = true ∧ intrDue (interrupted 16) 0 18 = false ∧ intrDue (interrupted 16) 0 16 = true ∧
    intrDue (interrupted 17) 0 16 = false ∧ intrDue (interrupted 17) 0 17 = true ∧
    ownFlaws ((interrupted 18).hart 0) = [] ∧ ownBroken ((interrupted 18).hart 0) = false ∧
    ownBroken (((interrupted 18).modHart 0 fun H => { H with flaws := [(2048, true)] }).hart 0) = true ∧
    (running.core 0).isSealed = false ∧ ((running.modHart 0 fun H => { H with csr := { H.csr with stimecmp := 5 } }).hart 0).csr.stimecmp ≠ -1 := by decide
theorem witness_RegisterSteps_registers :
    csrWaits running 0 0x800 = false ∧ csrPresent 0x340 = true ∧ csrReadOnly 0x340 = false ∧ csrPresent 0xFFF = false ∧ csrReadOnly 0xC00 = true ∧
    blockHas 0 3 0x340 true = true ∧ blockHas 0 4 0x340 false = false ∧ blockHas 8192 1 0x340 false = false ∧ coreGone running 0 = false ∧
    coreGone (running.modCluster 0 fun G => { G with isRetired := true }) 0 = true ∧ csrWaits running (hartAt 0 3) 0x340 = false ∧
    ([1, 2, 3].length ∉ [1, 2, 4, 8]) ∧ 0x7FFC + 4 ≤ 0x8000 ∧ 0x8000 < 0x8000 + 4 ∧ (8703 : Nat) < 8704 := by decide
theorem witness_RegisterSteps_waits :
    csrWaits (running.modCluster 0 fun G => { G with matQ := [{ hart := 0, slot := none, key := 0, op := .drain 0 (parseShape []) 0 false false true .f32 .bf16
                                                                uses := [], slots := [], accs := [], locks := [] }] }) 0 0x800 = true := by decide

theorem comes_of {s : State} {p : Nat} {q : Packet} (h : s.paths = []) (h' : s.net = [q]) (e : q.id = p) : Spec.comes s p q := by
  simp [Spec.comes, atHand, findPkt, h, h', e, SMap.find?]
theorem comes_pkt (b : Body) : Spec.comes (onNet b) 5 (pkt b) := comes_of rfl rfl rfl
theorem inNet_pkt (b : Body) : Spec.inNet (onNet b) 5 (pkt b) := by simp [Spec.inNet, findPkt, onNet, pkt, posted]
def request (op : MemOp) : Body := .mem (2 ^ 63 + 2 ^ 34 + 0x40) op (.held 0) (.at_ (2 ^ 63 + 2 ^ 34 + 0x40))
/-- A drain of hart 0 that has not ended. -/
def draining : State := running.modCluster 0 fun G =>
  { G with matQ := [{ hart := 0, slot := none, key := 0, op := .drain 0 (parseShape []) 0 false false true .f32 .bf16, uses := [], slots := [], accs := [], locks := [] }] }
theorem witness_NetworkSteps_requests :
    Spec.comes (onNet (request (.load 8))) 5 (pkt (request (.load 8))) ∧
    (let s := onNet (request (.load 8)); let q := pkt (request (.load 8)); let loc := 2 ^ 63 + 2 ^ 34 + 0x40
     isFeOp (.load 8) = false ∧ isJoinOp (.load 8) = false ∧ bankBlocked s q = false ∧ relWaits s q = false ∧ drainWaits s loc = false ∧
      refusal s 0 loc 0 = none ∧ refusal (withNet [q]) 0 loc 0 = some 56 ∧ (isPadLoc loc && isWindowLoc loc) = false ∧
      poisonedAt s loc 8 = none ∧ (s.core (coreOfLoc loc)).flaws = []) ∧
    bankBlocked { running with net := [{ posted 4 with body := request (.store [1] false) }, pkt (request (.load 8))] } (pkt (request (.load 8))) = true ∧
    relWaits { running with net := [{ posted 4 with body := request (.store [1] false) }, pkt (request (.relStore [1]))] } (pkt (request (.relStore [1]))) = true ∧
    drainWaits draining (winBase 0 + 0x20000 + 8 * 0x800) = true := ⟨comes_pkt _, by decide +kernel, by decide +kernel, by decide +kernel, by decide +kernel⟩
/-- Hart 0 holding for one part of a load of 4 bytes into x5. -/
def holding (b : Body) : State := (onNet b).modHart 0 fun H => { H with held := some { kind := .load 5 false 4 true, addr := padAdr 1 0, parts := 1 } }
theorem witness_NetworkSteps_replies :
    (∀ v, Spec.comes (holding (.reply (2 ^ 63 + 2 ^ 34) false (.held 0) v)) 5 (pkt (.reply (2 ^ 63 + 2 ^ 34) false (.held 0) v))) ∧
    ((holding (.deposit 0 0)).hart 0).held = some { kind := .load 5 false 4 true, addr := padAdr 1 0, parts := 1 } ∧ (pkt (.deposit 0 0)).hart < 65536 ∧
    (isWorker (coreOf 0) = true → keyHeld (running.core (coreOf 0)) 0 = true) ∧ ¬(isWorker (coreOf 0) = true → keyHeld (running.core (coreOf 0)) 7 = true) ∧
    Spec.comes (onNet (.reply 0 true (.posted false) (.err 31 0 4))) 5 (pkt (.reply 0 true (.posted false) (.err 31 0 4))) ∧
    Spec.comes (onNet (.reply 0 false (.posted true) .ack)) 5 (pkt (.reply 0 false (.posted true) .ack)) ∧
    Spec.comes (onNet (.reply 0 false (.lane 3 15) (.data 9 none))) 5 (pkt (.reply 0 false (.lane 3 15) (.data 9 none))) ∧ streamOf (running.hart 0) 3 = none :=
  ⟨fun v => by simp [Spec.comes, atHand, findPkt, holding, onNet, running, pkt, posted, State.reset, State.modCore, State.setCore, State.modHart, State.setHart, SMap.find?],
    by decide +kernel, by decide +kernel, by decide, by decide, comes_pkt _, comes_pkt _, comes_pkt _, by decide⟩
theorem witness_NetworkSteps_records :
    Spec.comes (onNet (.errorRecord 7 4 2 3 0 0)) 5 (pkt (.errorRecord 7 4 2 3 0 0)) ∧ 7 < 32768 ∧ (running.core (coreOf 7)).isSealed = false ∧
    SMap.find? (running.core (7 / 4)).inbox (28 + 7 % 4) = none ∧ (SMap.find? ((interrupted 16).core 0).inbox 28).isSome :=
  ⟨comes_pkt _, by decide, by decide, by decide, by decide⟩
/-- Two i32 elements at offset 0x100 of the own scratchpad, or of core 1's, bound to v24. -/
def fetching (k : StreamKind) (out : List (Nat × VReg)) (n : Nat) : State :=
  running.modHart 0 fun H => { H with streams := [(24, { kind := k, out := out, buf := List.replicate n (.ok 0) })] }
def twoWords : Shape := { parseShape [] with base := 0x9000000000000100, e0 := 2, e1 := 1, e2 := 1, e3 := 1, ty := 4 }
def farWords : Shape := { twoWords with base := (padAdr 1 0x100).toNat }
/-- The same in another package. -/
def awayWords : Shape := { twoWords with base := 2 ^ 63 + 2 ^ 48 }
theorem witness_NetworkSteps_sources :
    (let s := fetching (.src twoWords) [] 3; let l := twoWords.imageElems 0
     streamOf (s.hart 0) 24 = some { kind := .src twoWords, buf := List.replicate 3 (.ok 0) } ∧ 0 < twoWords.images ∧
     (∀ e ∈ l, ownAt s 0 (twoWords.elem e).1 = some (2 ^ 63 + 0x100 + 4 * e)) ∧ underWay s 0 = []) ∧
    (4 ≤ (List.replicate 4 (Image.ok 0)).length ∧ twoWords.images ≤ 1) ∧
    (let s := fetching (.src farWords) [] 0; let x := (farWords.elem 0).1
     (farWords.imageElems 0).head? = some 0 ∧ elemFault s 0 x farWords.elemBytes = none ∧ ownAt s 0 x = none ∧ placesFor s 0 1 = true ∧
     lineAsked s 0 (tagStream 0 24) 0 (x.toNat / 64) = none ∧ placesFor { s with net := (List.range 48).map posted } 0 1 = false) := by decide +kernel
theorem witness_NetworkSteps_stores :
    (let s := fetching (.dst twoWords) [(0, 7)] 0
     streamOf (s.hart 0) 24 = some { kind := .dst twoWords, out := [(0, 7)] } ∧
     (∀ x ∈ imageBytes twoWords 0 7, ∃ off, placeOf s 0 (slotOf (s.hart 0)) x.1 = .own off ∧ ownBusy s 0 (padBase (coreOf 0) + off) = false) ∧
     underWay s 0 = [] ∧ placesFor s 0 0 = true) := by
  refine ⟨by decide +kernel, ?_, by decide +kernel⟩
  intro x hx
  have e : imageBytes twoWords 0 7 = [(adr 0x100, [7, 0, 0, 0]), (adr 0x104, [0, 0, 0, 0])] := by decide +kernel
  rw [e] at hx
  simp only [List.mem_cons, List.not_mem_nil, or_false] at hx
  obtain rfl | rfl := hx
  · exact ⟨0x100, by decide⟩
  · exact ⟨0x104, by decide⟩

/-- Process slot 1 in a mode, with its root table at host-physical 0x1000. -/
def process (mode : Nat) (f : Die → Die) : State :=
  { running with pkg := { running.pkg with procs := [(1, { pasid := 9, mode := mode, root := 0x1000 })] }, dies := [(0, f {})] }
/-- Sv39 tables with a leaf for page 5: V, R, W, X, U (0x1F) in the last level. -/
def tablesTo (frame : Nat) : State :=
  let m := (State.reset.mem.writeBytes (2 ^ 65 + 0x1000) (toBytes 8 (2 * 2 ^ 10 + 1))).writeBytes (2 ^ 65 + 0x2000) (toBytes 8 (3 * 2 ^ 10 + 1))
  { process 0 id with mem := m.writeBytes (2 ^ 65 + 0x3028) (toBytes 8 (frame * 2 ^ 10 + 0x1F)) }
def tables : State := tablesTo 0x80
theorem witness_StationSteps_translation :
    SMap.find? running.pkg.procs 1 = none ∧ SMap.find? (process 0 id).pkg.procs 1 = some { pasid := 9, mode := 0, root := 0x1000 } ∧
    canonical 0 (2 ^ 38 - 1) = true ∧ canonical 0 (2 ^ 38) = false ∧
    tlbHit ((process 0 fun D => { D with tlb := [⟨5, 1, 5, 0x80, false⟩] }).die 0) 1 0x5008 false = some ⟨5, 1, 5, 0x80, false⟩ ∧
    tlbHit ((process 3 id).die 0) 1 0x5008 true = none ∧ hostUp (process 0 id) = true ∧
    hostUp ((process 0 id).modPkg fun P => { P with cxlDown := [(0, true), (1, true)] }) = false ∧
    walk (process 0 id) 0x5008 true 3 0x1000 = .fault ∧ walk (tables.setPoi (2 ^ 65 + 0x2000) true) 0x5008 true 3 0x1000 = .poison ∧
    walk tables 0x5008 true 3 0x1000 = .leaf (2 ^ 65 + 0x3028) (0x80 * 2 ^ 10 + 0xDF) 0x80 := by decide
def virtualRead (l : Nat) : Packet := { posted 5 with slot := some 1, body := .mem 0x5008 (.load l) (.held 0) .new }
theorem witness_StationSteps_stations :
    (let s := { tables with net := [virtualRead 8] }
     Spec.comes s 5 (virtualRead 8) ∧ bankBlocked s (virtualRead 8) = false ∧ relWaits s (virtualRead 8) = false ∧ lineParked s 0 0x5008 (some 1) = false ∧
     parkedAt (s.die 0) (0x5008 / 4096 % 16) < 256 ∧ (translate s 0 1 0x5008 false).2 = .ok (2 ^ 65 + 0x80008)) ∧
    (translate (process 3 id) 0 1 0x5008 false).2 = .host ∧ (translate running 0 1 0x5008 false).2 = .err 31 ∧ parkedAt ((process 3 id).die 0) 5 < 256 ∧
    (let s := process 3 fun D => { D with parked := List.replicate 256 (5, virtualRead 8) }
     ¬parkedAt (s.die 0) 5 < 256 ∧ lineParked s 0 0x5008 (some 1) = true ∧ lineParked s 0 0x5040 (some 1) = false ∧ ¬tlbHit (s.die 0) 1 0x5040 false ≠ none) ∧
    (let s := process 0 fun D => { D with pri := [(5, 1, 5)], ats := [(6, 1, 6)] }
     (5, 1, 5) ∈ (s.die 0).pri ∧ (5, 1, 6) ∉ (s.die 0).pri ∧ SMap.find? s.pkg.procs 1 = some { pasid := 9, mode := 0, root := 0x1000 } ∧
     (6, 1, 6) ∈ (s.die 0).ats ∧ (∀ e ∈ (s.die 0).parked, ofPage 1 6 e = false)) := by
  refine ⟨⟨by unfold Spec.comes; decide, by decide⟩, by decide, by decide, by decide, by decide +kernel, by decide⟩
def waitingFe (n : Nat) : State := running.modCore 1 fun C => { C with feWait := (List.range n).map fun i => { pkt (request (.feLoad true)) with id := 10 + i } }
theorem witness_StationSteps_fullEmpty :
    (let s := onNet (request (.feLoad true)); let q := pkt (request (.feLoad true)); let loc := 2 ^ 63 + 2 ^ 34 + 0x40
     Spec.comes s 5 q ∧ isFeOp (.feLoad true) = true ∧ bankBlocked s q = false ∧ refusal s q.hart loc q.key = none ∧
     feAt s (some q.hart) loc (.feLoad true) = none ∧ (feAt s (some q.hart) loc (.feStore 9)).isSome ∧ (s.core 1).feWait.length < 64) ∧
    refusal (withNet []) 0 (2 ^ 63 + 2 ^ 34 + 0x40) 0 = some 56 ∧ 64 ≤ ((waitingFe 64).core 1).feWait.length ∧
    waiting (waitingFe 1) (fun r => r.id == 10) = some (1, { pkt (request (.feLoad true)) with id := 10 }) ∧
    waiting (waitingFe 1) (fun r => r.hart == 0) = some (1, { pkt (request (.feLoad true)) with id := 10 }) ∧ dueInterrupt (interrupted 17) 0 = some 17 :=
  ⟨⟨comes_pkt _, by decide⟩, by decide, by decide, by decide, by decide, by decide⟩
def copyOf (n : Nat) : CopyCmd := { hart := 0, slot := none, key := 0, tag := 1, src := twoWords, dst := { twoWords with base := 0x9000000000000200, e0 := n }, locks := [], born := 10 }
/-- A copy at the head of its queue, begun or not. -/
def copyAt (c : CopyCmd) (begun : Bool) : State := running.modCluster 0 fun G => { G with copyQ := [c], copyFrom := if begun then some (running.mem, running.gran) else none }
theorem witness_StationSteps_copies :
    (let s := running.modHart 0 fun H => { H with stalled := some (.queue .copy) }
     (engCores (s.cluster 0) .copy).length + grantsOf (s.cluster 0) .copy < 16 ∧ nextStalled s 0 .copy = some 0) ∧
    (let s := copyAt (copyOf 2) false
     (s.cluster 0).copyQ = copyOf 2 :: [] ∧ (copyOf 2).fill = false ∧ (s.cluster 0).copyFrom = none ∧
     canBegin s (copyOf 2).agent (hullsOf s 0 [(copyOf 2).src, (copyOf 2).dst]) = true) ∧
    (let s := { copyAt (copyOf 2) false with net := [{ posted 5 with body := .mem (2 ^ 63 + 0x100) (.store [1] false) (.posted false) (.at_ (2 ^ 63 + 0x100)) }] }
     canBegin s (copyOf 2).agent (hullsOf s 0 [(copyOf 2).src, (copyOf 2).dst]) = false) ∧
    (let s := copyAt (copyOf 2) true; (s.cluster 0).copyFrom = some (running.mem, running.gran) ∧ (runCopy s (copyOf 2) (running.mem, running.gran)).2.2 = none) ∧
    (let c := { copyOf 2 with dst := awayWords }; (runCopy (copyAt c true) c (running.mem, running.gran)).2.2.isSome) ∧
    copyRecordCode (copyOf 3) = some (0x71, none) ∧
    (let c := { copyOf 2 with src := { twoWords with ty := 13 } }; c.src.valid = false ∧ c.dst.valid = true) := by decide +kernel

def matCmd (op : MatOp) : MatCmd := { hart := 0, slot := none, key := 0, op := op, uses := [], slots := [], accs := [], locks := [], born := 10 }
def engine (op : MatOp) (run : Bool) : State := running.modCluster 0 fun G => { G with matQ := [matCmd op], matRun := run, clearing := [3] }
/-- A fill whose copy place is at the head of the copy engine's queue. -/
def filling : State := (engine (.fill 1 0 twoWords) false).modCluster 0 fun G => { G with copyQ := [{ copyOf 2 with fill := true }] }
/-- A store of hart 0 to the bank of twoWords that is not performed yet. -/
def storeUnderWay (s : State) : State := { s with net := [{ posted 5 with body := .mem (2 ^ 63 + 0x100) (.store [1] false) (.posted false) (.at_ (2 ^ 63 + 0x100)) }] }
theorem witness_EngineSteps_matrix :
    (let G : Cluster := { leaseReq := [(2, 5)] }; G.lease = none ∧ nextLease G = some 2) ∧
    (let G := (leased 0 1 id).cluster 0; G.lease = some 0 ∧ (2, 5) ∈ ({ G with leaseReq := [(2, 5)] } : Cluster).leaseReq ∧ (2 : Nat) ≠ 0) ∧
    ((engine (.zero 1) true).cluster 0).matRun = true ∧ ((engine (.zero 1) true).cluster 0).matQ = [matCmd (.zero 1)] ∧
    ((engine (.zero 1) false).cluster 0).matRun = false ∧ ((engine (.zero 1) false).cluster 0).clearing = [3] ∧
    (∀ a b d, (matCmd (.zero 1)).op ≠ .fill a b d) ∧ (∀ a b d e f k l m, (matCmd (.zero 1)).op ≠ .drain a b d e f k l m) ∧
    (let s := engine (.zero 1) false; canBegin s (matCmd (.zero 1)).agent (hullsOf s 0 (matCmd (.zero 1)).shapes) = true) ∧
    (let c := matCmd (.fill 1 0 twoWords)
     (∃ q l, (filling.cluster 0).copyQ = q :: l ∧ q.fill = true) ∧ canBegin filling c.agent (hullsOf filling 0 c.shapes) = true ∧
     (let s := storeUnderWay filling; canBegin s c.agent (hullsOf s 0 c.shapes) = false) ∧
     (∃ a b d, c.op = .fill a b d) ∧ ∀ q l, ((engine (.fill 1 0 twoWords) false).cluster 0).copyQ = q :: l → q.fill = false) ∧
    (let R := runFill (engine (.fill 1 0 twoWords) true) 0 (matCmd (.fill 1 0 twoWords)) 1 0 twoWords; R.need = none ∧ R.fail = none) ∧
    (let R := runFill (engine (.fill 1 0 awayWords) true) 0 (matCmd (.fill 1 0 awayWords)) 1 0 awayWords; R.need.isSome) ∧
    (let d := { twoWords with base := 0x9000000000000101, e0 := 1 }; let R := runFill (engine (.fill 1 0 d) true) 0 (matCmd (.fill 1 0 d)) 1 0 d; R.need = none ∧ R.fail.isSome) :=
  ⟨by decide, by decide, by decide, by decide, by decide, by decide, fun _ _ _ => nofun, fun _ _ _ _ _ _ _ _ => nofun, by decide,
    ⟨⟨_, _, rfl, rfl⟩, by decide +kernel, by decide +kernel, ⟨_, _, _, rfl⟩, fun _ _ => nofun⟩, by decide +kernel, by decide +kernel, by decide +kernel⟩
def drainTo (base : Nat) : Shape := { twoWords with base := base, e0 := 4096, ty := 7 }
def drained (base : Nat) (skip : W32) : MatOp := .drain 0 (drainTo base) skip false false false .f32 .bf16
/-- A fold whose steps change nothing. -/
theorem fold_id {α β : Type} (f : β → α → β) (b : β) : ∀ l : List α, (∀ a ∈ l, f b a = b) → l.foldl f b = b
  | [], _ => rfl
  | a :: l, h => by rw [List.foldl_cons, h a (by simp)]; exact fold_id f b l fun x hx => h x (by simp [hx])
theorem skipped {c : MatCmd} {u : Nat} {d : Shape} {skip : W32} {m : RMode} {sat : Bool} {fa fd : Fmt} {G : Cluster} {R : EngRun} {k : Nat}
    (h : skip.getLsbD (k / 128) = true) : drainElem c u d skip m sat fa fd G R k = R := by simp [drainElem, h]
theorem last_row {s : State} {c : MatCmd} {d : Shape} {skip : W32} (h : ∀ i, i < 31 → skip.getLsbD i = true) :
    runDrain s 0 c 0 d skip false false .f32 .bf16 = (let s := readAccRows s 0 (SMap.get 0 c.accs 0) ((List.range 32).filter fun r => !skip.getLsbD r)
      (((List.range 128).map fun k => 3968 + k).foldl
      (drainElem c (SMap.get 0 c.accs 0) d skip (if false then .rtz else .rne) false .f32 .bf16 (s.cluster 0)) { st := s }).settled) := by
  have e : List.range 4096 = List.range 3968 ++ (List.range 128).map fun k => 3968 + k := @List.range_add 3968 128
  unfold runDrain
  dsimp only
  rw [e, List.foldl_append, fold_id _ _ (List.range 3968) fun k hk => skipped (h _ (by have := List.mem_range.mp hk; omega))]
/-- A drain of no row, and one of the last row whose last element falls beyond the scratchpad. -/
theorem witness_EngineSteps_drains :
    (let c := drained 0x900000000001E002 0xFFFFFFFF
     let R := runDrain (engine c true) 0 (matCmd c) 0 (drainTo 0x900000000001E002) 0xFFFFFFFF false false .f32 .bf16
     R.need = none ∧ R.fail = none) ∧
    (let c := drained 0x900000000001E002 0x7FFFFFFF
     let R := runDrain (engine c true) 0 (matCmd c) 0 (drainTo 0x900000000001E002) 0x7FFFFFFF false false .f32 .bf16
     R.need = none ∧ R.fail.isSome) := by
  constructor
  · intro c R
    have h : R = _ := last_row (by decide)
    dsimp only at h
    rw [fold_id _ _ _ fun k hk => skipped (by
      obtain ⟨j, hj, rfl⟩ := List.mem_map.mp hk
      have := List.mem_range.mp hj
      rw [show (3968 + j) / 128 = 31 by omega]; decide)] at h
    rw [h]; exact ⟨rfl, rfl⟩
  · intro c R
    have h : R = _ := last_row (by decide)
    rw [h]; decide +kernel
def spCmd : SpCmd := { hart := 0, slot := none, key := 0, kind := 2, desc := List.replicate 60 0 ++ [4, 0, 0, 0], c := adr 0x80, locks := [], born := 10 }
def sparse (c : SpCmd) (run : Bool) : State := running.modCluster 0 fun G => { G with mergeQ := [c], mergeRun := run, convQ := [{ c with kind := 3 }], convRun := run }
/-- A merge whose first fibre, one element of it, is another package's. -/
def farCmd : SpCmd := { spCmd with desc := toBytes 8 (2 ^ 63 + 2 ^ 48) ++ toBytes 8 (2 ^ 63 + 2 ^ 48) ++ List.replicate 32 0 ++ toBytes 4 1 ++ List.replicate 8 0 ++ [4, 0, 0, 0] }
def mayBegin (s : State) (c : SpCmd) : Bool := canBegin s c.agent (c.arrs.map fun a => (a.base, a.bytes))
theorem witness_EngineSteps_sparse :
    (let s := sparse spCmd true
     (s.cluster 0).mergeQ ≠ [] ∧ spRunning (s.cluster 0) .merge = true ∧ spRunning (s.cluster 0) .conv = true ∧ spQueue (s.cluster 0) .merge = spCmd :: [] ∧
     spEngine spCmd.kind = .merge ∧ (runSparse s spCmd).2.1 = none ∧ ((runSparse s spCmd).1.core (coreOf spCmd.hart)).feWait = [] ∧
     (padBase (coreOf 0) + (ownOff s 0 spCmd.c).getD 0) % 16 = 0) ∧
    (∃ w, (runSparse (sparse farCmd true) farCmd).2.1 = some (.need w)) ∧
    (let s := sparse spCmd false
     spRunning (s.cluster 0) .merge = false ∧ mayBegin s spCmd = true ∧ spQueue (s.cluster 0) .conv = { spCmd with kind := 3 } :: [] ∧
     mayBegin s { spCmd with kind := 3 } = true) ∧
    (let c := { spCmd with desc := toBytes 8 0x9000000000000100 ++ List.replicate 40 0 ++ toBytes 4 1 ++ List.replicate 8 0 ++ [4, 0, 0, 0] }
     let s := storeUnderWay (sparse c false); spQueue (s.cluster 0) .merge = c :: [] ∧ mayBegin s c = false) ∧
    (running.core (coreOf 0)).feLimit ≠ 0 ∧
    ((running.modHart 0 fun H => { H with stalled := some .spawn }).hart 0).stalled = some .spawn ∧
    ((running.modCore 0 fun C => { C with feLimit := 0 }).core (coreOf 0)).feLimit = 0 := by
  refine ⟨by decide +kernel, ⟨.far 83010629806669692928 (2 ^ 63 + 2 ^ 48) (.loads [(0, 4, 0)]), ?_⟩, ?_⟩ <;> decide +kernel

/-- The type that every record below names, and a record of home cluster 0 with serial 3. -/
def aType : TypeEnt := { entry := 16, obj := 0, frame := 1, streams := 0, pull := 0, prio := 1, restart := true, cbase := 2, crow := 3, trows := 8 }
def aRec : TaskRec := { ser := 3, join := 0 }
def queued (l : Nat) : QEnt := { trec := aRec, regs := [], launch := 5, slot := 1, key := 7, ent := aType, level := l }
/-- Cluster 0 with the type in its cache, a launch and a packet. -/
def placing (b : Body) (f : Cluster → Cluster) : State :=
  { (onNet b).modCluster 0 (fun G => f { G with types := [((1, 0, 0), aType)] }) with
    pkg := { State.reset.pkg with launches := [(5, { trec := aLaunch, start := 0 })] } }
def arriving : Body := .task aRec [] 5 0 false
theorem placing_net (b : Body) (f : Cluster → Cluster) : Spec.comes (placing b f) 5 (pkt b) := comes_of rfl rfl rfl

/-- A type table in the process's page 5, at offset 0x80000 of HBM. -/
def typed : State := { tablesTo (2 ^ 28 + 0x80) with pkg := { tables.pkg with hdmBase := BitVec.ofNat 64 (2 ^ 40), launches := [(5, { trec := { aLaunch with types := 0x5000 }, start := 0 })], hdmSet := true } }
theorem witness_PlacementSteps_types :
    launchOf typed 5 = some { trec := { aLaunch with types := 0x5000 }, start := 0 } ∧ (3 : Nat) < 4 ∧ 0x5000 + 32 * 3 < 2 ^ 63 ∧
    ((placing arriving id).cluster 0).types.find? (fun x => x.1 == (1, 0, 0)) = some ((1, 0, 0), aType) ∧
    ((typed.cluster 0).types.find? fun x => x.1 == (1, 0x5000, 3)) = none ∧
    (let R := reach typed { hart := 32768, slot := some 1, key := 0, tag := tagTypes } (BitVec.ofNat 64 (0x5000 + 32 * 3)) 32 false
     R.2 = .at_ (2 ^ 64 + 0x80060) ∧ isHostLoc (2 ^ 64 + 0x80060) = false ∧ poisonedAt R.1 (2 ^ 64 + 0x80060) 32 = none) := by decide
theorem witness_PlacementSteps_arrivals :
    (let s := placing arriving id
     Spec.comes s 5 (pkt arriving) ∧ heldBack s (pkt arriving) = false ∧ cluGone s 0 = false ∧ launchOf s 5 = some { trec := aLaunch, start := 0 } ∧
     ¬(isRange aRec = true ∧ aRec.ext = 0 ∧ aRec.hpkg = s.pkg.number % 4096) ∧ typeLookup s 0 5 aRec.ty = (s, .ok aType) ∧ pressure (s.cluster 0) < (s.cluster 0).lSpawn ∧
     decideMove s 0 aRec aType aLaunch false = none ∧ hasRoom (s.cluster 0) aRec = true) ∧
    (typeLookup (placing arriving id) 0 5 9).2 = .bad ∧
    hasRoom { queue := List.replicate 256 (queued 1) } aRec = false :=
  ⟨⟨placing_net _ _, by decide, by decide, by decide, by decide, rfl, by decide, by decide, by decide⟩, rfl, by decide +kernel⟩
/-- Two clusters in the region, this one above its limit and the other near and empty. -/
theorem witness_PlacementSteps_moves :
    (let s := placing arriving fun G => { G with q := 4096, lSpawn := 1, nbrs := [(1, (0, 0))] }
     decideMove s 0 aRec aType { aLaunch with clus := 3 } false).isSome := by decide
theorem witness_PlacementSteps_buffer :
    (let s := placing (.deposit 0 0) fun G => { G with waiting := [pkt arriving] }
     ((s.cluster 0).waiting.find? fun k => match k.body with
        | .task r _ _ _ _ => hasRoom (s.cluster 0) r
        | _ => false) = some (pkt arriving) ∧ typeLookup s 0 5 aRec.ty = (s, .ok aType)) := ⟨by decide, rfl⟩
theorem witness_PlacementSteps_beacons :
    (running.die (dieOf 0)).isFailed = false ∧ Spec.comes (onNet (.beacon 0 1 7 0)) 5 (pkt (.beacon 0 1 7 0)) ∧ (1 : Nat) ∈ peersOf 0 ∧
    peerDown running 0 1 = false := ⟨by decide, comes_pkt _, by decide, by decide⟩

/-- A record in the queue of cluster 0; core 0's hart 0 free. -/
def dispatching : State := (placing (.deposit 0 0) fun G => { G with queue := [queued 1] }).modHart 0 fun H => { H with free := true }
theorem witness_PlacementSteps_dispatch :
    (firstOf (dispatching.cluster 0) = some (queued 1) ∧ cluGone dispatching 0 = false ∧
      (∀ i, i < 16 → settleHead dispatching (coreAt 0 i) = dispatching ∧ arrivalHead dispatching (coreAt 0 i) = none) ∧
      (queued 1).resume = none ∧ isRange (queued 1).trec = false ∧ bestCore dispatching (takers dispatching 0 (queued 1)) = some 0 ∧
      objOk (dispatching.core 0) aType = true) := by decide
/-- A record of level 3 in the queue, and core 0's four harts running tasks. -/
def preempting : State :=
  let s := placing (.deposit 0 0) fun G => { G with queue := [queued 3] }
  [0, 1, 2, 3].foldl (fun s h => s.modHart h fun H => { H with mode := .U, task := some { aTask with prio := h } }) s
theorem witness_PlacementSteps_preempt :
    firstOf (preempting.cluster 0) = some (queued 3) ∧ levelAt (queued 3) ((preempting.cluster 0).dispatches + 1) = 3 ∧ takers preempting 0 (queued 3) = [] ∧
    (∀ i, i < 64 → (preempting.hart (0 * 64 + i)).csr.prip = false ∨ (preempting.hart (0 * 64 + i)).task = none) ∧
    (∃ i, i < 64 ∧ Spec.couldTake preempting 0 (queued 3) (0 * 64 + i)) :=
  ⟨by decide, by decide, by decide, by decide +kernel, 0, by decide, { aTask with prio := 0 }, by decide, by decide, by decide, by decide⟩

/-- A counter at 0x40 of core 0 with count n, in the package's own form of its address. -/
def joining (n : Nat) (b : Body) : State := { placing b (fun G => { G with keep := [{ trec := aRec, regs := [], launch := 5, slot := 1, key := 7 }] }) with
  mem := State.reset.mem.writeBytes (2 ^ 63 + 0x40) (counterBytes (counter n false)) }
theorem joining_net (n : Nat) (b : Body) : Spec.comes (joining n b) 5 (pkt b) := comes_of rfl rfl rfl
def aKey : Key := { pkg := 0, die := 0, clu := 0, ser := 3 }
theorem witness_PlacementSteps_joins :
    Spec.comes (joining 2 (.accepted 3 0 0)) 5 (pkt (.accepted 3 0 0)) ∧ leavesPkg (joining 2 (.accepted 3 0 0)) (.accepted 3 0 0) = false ∧
    cluGone (joining 2 (.accepted 3 0 0)) (0 % 512) = false ∧ ((joining 2 (.accepted 3 0 0)).die (0 / 64)).isFailed = false ∧
    (let b : Body := .accepted 3 0 64; let s := (joining 2 b).modDie 1 fun D => { D with isFailed := true }
     Spec.comes s 5 (pkt b) ∧ leavesPkg s b = false ∧ cluGone s (0 % 512) = false ∧ (s.die (64 / 64)).isFailed = true) ∧
    (let b : Body := .dec (2 ^ 63 + 0x40) 0 aKey 5; let s := joining 2 b; let loc := joinLoc (2 ^ 63 + 0x40)
     Spec.comes s 5 (pkt b) ∧ leavesPkg s b = false ∧ homeErr s (coreOfLoc loc) (pkt b).key = none ∧ (5 : Nat) ≠ s.nextId ∧
     (∀ e ∈ (s.cluster (cluOf (coreOfLoc loc))).window, e.1 ≠ aKey) ∧ (s.cluster (cluOf (coreOfLoc loc))).window.length < 64 ∧
     (s.core (coreOfLoc loc)).flaws = [] ∧ counterPoisoned s loc = false ∧ 1 ≤ (readCounter s loc).count ∧ ((readCounter s loc).count ≠ 1 ∨ (readCounter s loc).arm = false ∨ (readCounter s loc).fired = true)) ∧
    (let G : Cluster := { window := List.replicate 64 ({ aKey with ser := 4 }, true) }; (∀ e ∈ G.window, e.1 ≠ aKey ∧ e.2 = true) ∧ 64 ≤ G.window.length) ∧
    (∃ e ∈ ({ window := [(aKey, false)] } : Cluster).window, e.1 = aKey) :=
  ⟨joining_net _ _, by decide, by decide, by decide, ⟨comes_of rfl rfl rfl, by decide⟩, ⟨joining_net _ _, by decide⟩, by decide +kernel, by decide⟩
theorem witness_PlacementSteps_retention :
    (let b : Body := .release aKey 5; let s := joining 2 b
     Spec.comes s 5 (pkt b) ∧ leavesPkg s b = false ∧ ∃ k, ((s.cluster (homeOf aKey)).keep.find? fun e => e.trec.ser == aKey.ser) = some k ∧ k.issued ≤ k.finished + 1) ∧
    Spec.comes (joining 2 (.unpin aKey 0)) 5 (pkt (.unpin aKey 0)) ∧
    (let b : Body := .lost aKey 5 false; let s := joining 2 b
     Spec.comes s 5 (pkt b) ∧ leavesPkg s b = false ∧ (∃ u, typeLookup (dropPkt s 5) (homeOf aKey) 5 aRec.ty = (u, .ok aType)) ∧ aType.restart = true) ∧
    (let b : Body := .mem 0 (.joinAdd 1) (.held 0) (.at_ (2 ^ 63 + 0x40)); let s := joining 2 b
     Spec.comes s 5 (pkt b) ∧ isJoinOp (.joinAdd 1) = true ∧ bankBlocked s (pkt b) = false ∧ joinWaits s (2 ^ 63 + 0x40) (.joinAdd 1) = false ∧
     refusal s 0 (2 ^ 63 + 0x40) (pkt b).key = none ∧ refusal s 0 (2 ^ 63 + 0x40) 7 ≠ none) :=
  ⟨⟨joining_net _ _, by decide, _, rfl, by decide⟩, joining_net _ _, ⟨joining_net _ _, by decide, ⟨_, rfl⟩, by decide⟩, joining_net _ _, by decide⟩
theorem witness_PlacementSteps_losses :
    (running.die 0).isFailed = false ∧ ((running.modDie 0 fun D => { D with isFailed := true }).die 0).isFailed = true ∧
    (let s := (joining 2 (.deposit 0 0)).modDie 7 fun D => { D with isFailed := true }
     (∃ e ∈ s.dies, e.2.isFailed = true) ∧ ∃ k, ((s.cluster 0).keep.find? fun e => e.trec.ser == 3) = some k ∧ k.accepted = none ∧ k.released = false) :=
  ⟨by decide, by decide, by decide, _, rfl, by decide⟩

/-- A store of hart 0 that is not performed, and after it packet 5. -/
def behindStore (b : Body) : State := { placing b id with net := [{ posted 4 with body := .mem (2 ^ 63 + 0x100) (.store [1] false) (.posted false) (.at_ (2 ^ 63 + 0x100)) }, pkt b] }
/-- A type table in a page of process 1 that no table translates. -/
def pageless : State := { placing arriving (fun G => { G with types := [] }) with
  pkg := { State.reset.pkg with procs := [(1, { pasid := 9, mode := 3, root := 0x1000 })], launches := [(5, { trec := { aLaunch with types := 0x5000 }, start := 0 })] } }
/-- A full retention table. -/
def retaining : List Ret := List.replicate 1024 { trec := aRec, regs := [], launch := 5, slot := 1, key := 7 }
theorem witness_PlacementSteps_waits :
    (Spec.comes (behindStore arriving) 5 (pkt arriving) ∧ heldBack (behindStore arriving) (pkt arriving) = true) ∧
    (∃ v, (typeLookup pageless 0 5 aRec.ty).2 = .host v) ∧
    (let r := { aRec with range := true }; isRange r = true ∧ r.ext = 0 ∧ r.hpkg = State.reset.pkg.number % 4096) ∧
    (let q := { queued 3 with asked := some 3 }; let s := preempting.modHart 3 fun H => { H with csr := { H.csr with prip := true } }
     q.asked = some 3 ∧ (s.hart 3).csr.prip = true ∧ (s.hart 3).task ≠ none) ∧ takers dispatching 0 (queued 1) ≠ [] ∧ levelAt (queued 1) 1 ≠ 3 ∧
    (let k : Ret := { trec := aRec, regs := [], launch := 5, slot := 1, key := 7, issued := 2 }; k.finished + 1 < k.issued) ∧
    (let s := (joining 0 (.deposit 0 0)).modCluster 0 fun G => { G with keep := retaining }
     joinWaits s (2 ^ 63 + 0x40) (.joinArm 9 (some 5)) = true) ∧ refusal (withNet []) 0 (2 ^ 63 + 0x40) 0 = some 56 := by
  refine ⟨⟨by unfold Spec.comes; decide, by decide⟩, ⟨0x5000, rfl⟩, ?_⟩; decide +kernel

/-- A host ring of kind 1 at host-physical 0x1000, its two 128-byte slots at 0x2000, and a launch record of key 7 in the first. -/
def launchRing : List Byte := toBytes 8 0x2000 ++ [1, 1, 1, 1] ++ List.replicate 20 0
def launchSlot (phase : Nat) : List Byte :=
  List.replicate 40 0 ++ toBytes 2 4 ++ toBytes 2 7 ++ toBytes 2 0 ++ [1, 0] ++ toBytes 8 1 ++ List.replicate 64 0 ++ toBytes 8 phase
def ringing (phase : Nat) : State := { running with
  mem := (State.reset.mem.writeBytes (2 ^ 65 + 0x1000) launchRing).writeBytes (2 ^ 65 + 0x2000) (launchSlot phase)
  pkg := { State.reset.pkg with rings := [(0, (0x1000, 1))], procs := [(1, { pasid := 9, mode := 0, root := 0 })] } }
/-- The device has read these bytes. -/
def gives (r : DevRead) (l : List Byte) : Bool := match r with | .ok k p => k == l && !p | _ => false
theorem of_gives {r : DevRead} {l : List Byte} (h : gives r l = true) : r = .ok l false := by
  unfold gives at h
  split at h
  · simp only [Bool.and_eq_true, beq_iff_eq, Bool.not_eq_true'] at h
    rw [h.1, h.2]
  · cases h
theorem witness_LaunchSteps_rings :
    (let s := ringing 1; let d := parseRing launchRing
     SMap.find? s.pkg.rings 0 = some (0x1000, 1) ∧ cluGone s 0 = false ∧ devRead s 0 1 true 1 0x1000 32 = (s, .ok launchRing false) ∧ d.valid = true ∧ d.cons = 1 ∧
     d.kind = 1 ∧ devRead s 0 1 true 2 (d.slot d.cidx) d.slotBytes = (s, .ok (launchSlot 1) false) ∧
     (devWrites s 0 1 true 0 [(0x1000 + 20, toBytes 4 (d.cidx + 1))]).2 = .done ∧
     leAt ((launchSlot 1).drop (d.slotBytes - 8)) 0 1 % 2 = d.phase d.cidx ∧ leAt ((launchSlot 0).drop (d.slotBytes - 8)) 0 1 % 2 ≠ d.phase d.cidx) ∧
    (let b : Body := .ringNote 0x5000 0 (some 1) 7; let s := onNet b
     Spec.comes s 5 (pkt b) ∧ (0 < 65536 → earlierOpen s (pkt b) 4 = false) ∧ ∃ t, takeSlot s 0 1 0x5000 none = (t, false, none) ∧ keepFull (t.cluster 0) = false) :=
  ⟨⟨by decide, by decide, Prod.ext rfl (of_gives (by decide +kernel)), by decide, by decide, by decide, Prod.ext rfl (of_gives (by decide +kernel)), rfl, by decide +kernel, by decide +kernel⟩, comes_pkt _, by decide, _, rfl, by decide⟩
theorem witness_LaunchSteps_launches :
    (let b : Body := .launch aLaunch; let s := onNet b
     Spec.comes s 5 (pkt b) ∧ aLaunch.key ≠ 0 ∧ freePlace s 0 = some 0 ∧ launchFits s aLaunch = true ∧ keepFull (s.cluster 0) = false ∧ aLaunch.groups = 0 ∧ 5 ≠ s.nextId) ∧
    (let b : Body := .launch { aLaunch with key := 0, hostRing := some 0 }; let s := onNet b
     Spec.comes s 5 (pkt b) ∧ ∃ t v, pushCompletion s { aLaunch with key := 0, hostRing := some 0 } (2 ^ 31) 0 = (t, true, v)) :=
  ⟨⟨comes_pkt _, by decide +kernel⟩, comes_pkt _, _, _, rfl⟩
/-- Launch 5 at its tree root, cluster 0, with child 1. -/
def collecting (b : Body) (c : Bool) (kids : List Nat) : State := placing b fun G => { G with launches := [{ handle := 5, collecting := c, kids := kids }] }
theorem witness_LaunchSteps_ends :
    (let b : Body := .launchEnd 5; let s := collecting b false [1]
     Spec.comes s 5 (pkt b) ∧ launchOf s 5 = some { trec := aLaunch, start := 0 } ∧ viewOf s 0 5 = some { handle := 5, kids := [1] } ∧
     kidsLeft s { handle := 5, kids := [1] } = [1]) ∧
    (let b : Body := .collect 5 0; let s := collecting b true []
     Spec.comes s 5 (pkt b) ∧ viewOf s 0 5 = some { handle := 5, collecting := true } ∧ cluGone s 0 = false ∧ mayDone s 0 5 = true) ∧
    Spec.comes (collecting (.done 5 0 1) true [1]) 5 (pkt (.done 5 0 1)) ∧ launchOf running 5 = none ∧
    (let s := { running with pkg := { State.reset.pkg with launches := [(5, { trec := { aLaunch with hostRing := some 0 }, start := 0, pushing := some 1 })] } }
     ∃ L, launchOf s 5 = some L ∧ L.pushing = some 1 ∧ ∃ t v, pushCompletion s L.trec 1 0 = (t, true, v)) :=
  ⟨⟨placing_net _ _, by decide⟩, ⟨placing_net _ _, by decide, by decide, by decide +kernel⟩, placing_net _ _, by decide, _, rfl, rfl, _, _, rfl⟩

/-- A device ring of the process in a page that no table translates. -/
def ringless (b : Body) : State := { onNet b with pkg := { State.reset.pkg with procs := [(1, { pasid := 9, mode := 3, root := 0x1000 })] } }
theorem witness_LaunchSteps_waits :
    (let b : Body := .ringNote 0x5000 0 (some 1) 7; let s := { ringless b with net := [{ posted 4 with body := .mem (2 ^ 63 + 0x100) (.store [1] false) (.posted false) (.at_ (2 ^ 63 + 0x100)) }, pkt b] }
     Spec.comes s 5 (pkt b) ∧ (pkt b).hart < 65536 ∧ earlierOpen s (pkt b) 4 = true) ∧
    (∃ w, (takeSlot (ringless (.deposit 0 0)) 0 1 0x5000 none).2 = (false, some w)) ∧
    (∃ w, (pushCompletion (ringless (.deposit 0 0)) { aLaunch with ring := 0x5000 } (2 ^ 31) 0).2 = (false, some w)) ∧
    freePlace { running with pkg := { State.reset.pkg with launches := (List.range 16).map fun k => (k, { trec := aLaunch, start := 0 }) } } 0 = none := by
  refine ⟨⟨by unfold Spec.comes; decide, by decide⟩, ⟨.page 0x5000, rfl⟩, ⟨.page 0x5000, rfl⟩, by decide +kernel⟩
/-- Register target x5 of hart 0, and the granule at 0x40 of core 1. -/
def granule1 : Nat := 2 ^ 63 + 2 ^ 34 + 0x40
theorem witness_MessageSteps_deposits :
    (let b : Body := .deposit granule1 7; let s := onNet b
     Spec.comes s 5 (pkt b) ∧ bankBlocked s (pkt b) = false ∧ msgBlocked s (pkt b) = false ∧ leavesPkg s b = false ∧ granule1 / 2 ^ 60 = 8 ∧
     refusal s 0 (joinLoc granule1) (pkt b).key = none ∧ (s.core (coreOfLoc (joinLoc granule1))).feWait = []) ∧
    (let b : Body := .deposit 5 7; let s := onNet b
     Spec.comes s 5 (pkt b) ∧ bankBlocked s (pkt b) = false ∧ msgBlocked s (pkt b) = false ∧ leavesPkg s b = false ∧ (5 : Nat) / 2 ^ 60 ≠ 8 ∧ 5 / 2 ^ 60 ≠ 9 ∧
     homeErr s (epCore (tgtEp 5)) 0 = none ∧ stampOk s (epCore (tgtEp 5) * 4 + 5 / 32 % 4) 5 none = true ∧ stampOk s 0 (2 ^ 57 + 5) none = false ∧
     5 ∉ (s.hart 0).armed ∧ (s.core 0).deposits.length < 16) ∧
    homeErr (withNet []) (epCore (tgtEp 5)) 0 = some 56 ∧ 5 ∈ ((running.modHart 0 fun H => { H with armed := [5] }).hart 0).armed ∧
    16 ≤ ((running.modCore 0 fun C => { C with deposits := List.replicate 16 heldFor5 }).core 0).deposits.length ∧
    Spec.heldAt (running.modCore 0 fun C => { C with deposits := [heldFor5] }) 9 = some (0, heldFor5) ∧ (running.core 0).feLimit ≠ 0 ∧
    (let H := (running.modHart 0 fun H => { H with stalled := some (.armed .v 31), streams := [(31, { kind := .chIn 9 })] }).hart 0
     H.stalled = some (.armed .v 31) ∧ stillEmpty H .v 31 = true ∧ stillEmpty (running.hart 0) .v 31 = false ∧ stillEmpty { H with armed := [5] } .x 5 = true) :=
  ⟨⟨comes_pkt _, by decide⟩, ⟨comes_pkt _, by decide⟩, by decide, by decide, by decide, by decide, by decide, by decide⟩

/-- Core 0 with a handler of some words in inbox slot n. -/
def slotted1 (n : Nat) (scanned : Bool) (ws : List W32) : State := { running with
  mem := State.reset.mem.writeBytes (winBase 0 + 0x10000 + 256 * n) ((ws.map fun w => toBytes 4 w.toNat).flatten)
  cores := SMap.put running.cores 0 { running.core 0 with inbox := [(n, ⟨0, scanned, ws.length, 0, 0, none, 0, 0, 0⟩)] } }
def msgretWord : W32 := BitVec.ofNat 32 ((encode .msgret).headD 0).toNat
theorem witness_MessageSteps_handlers :
    (let b : Body := .handler 0 0x40 [msgretWord] [] false; let s := onNet b
     Spec.comes s 5 (pkt b) ∧ msgBlocked s (pkt b) = false ∧ leavesPkg s b = false ∧ homeErr s (epCore (tgtEp 0)) 0 = none ∧ freeSlot (s.core 0) 0 = some 0) ∧
    freeSlot { inbox := (List.range 7).map fun n => (n, ⟨0, false, 1, 0, 0, none, 0, 0, 0⟩) } 0 = none ∧
    Spec.inNet (onNet (.handler 0 0x40 [0] [] true)) 5 (pkt (.handler 0 0x40 [0] [] true)) ∧
    (let s := slotted1 6 false [msgretWord]
     (∃ e, SMap.find? (s.core 0).inbox 6 = some e ∧ e.scanned = false ∧ handlerScan ((List.range e.count).map fun i =>
        BitVec.ofNat 32 (ofBytes (s.mem.readBytes (winBase 0 + 0x10000 + 256 * 6 + 4 * i) 4))) = none)) ∧
    (handlerScan [0]).isSome ∧
    (let s := (slotted1 6 true [msgretWord]).modHart 0 fun H => { H with free := true }
     oldestHandler (s.core 0) (hartIn 0) (s.hart 0).running = some 6 ∧ handlerReady s 0 none = true ∧ mayLeave (s.hart 0) = true ∧ stampOk s 0 0 none = true ∧
     stampOk s 0 (2 ^ 57) none = false) :=
  ⟨⟨comes_pkt _, by decide⟩, by decide, inNet_pkt _, ⟨_, rfl, by decide, by decide⟩, by decide, by decide⟩

/-- Hart 0 with an inbound channel of tag 9 on v30. -/
def listening (b : Body) (n : Nat) : State :=
  (onNet b).modHart 0 fun H => { H with streams := [(30, { kind := .chIn 9, seq := 2, buf := List.replicate n (.ok 0) })] }
def image (seq : Nat) (refused : Bool) : Body := .channel 0 0 9 seq 7 31 refused
theorem listening_net (b : Body) (n : Nat) : Spec.comes (listening b n) 5 (pkt b) := comes_of rfl rfl rfl
theorem witness_MessageSteps_channels :
    (let s := listening (image 2 false) 3
     Spec.comes s 5 (pkt (image 2 false)) ∧ msgBlocked s (pkt (image 2 false)) = false ∧ leavesPkg s (image 2 false) = false ∧ homeErr s (epCore 0) 0 = none ∧
     inboundReg (s.hart 0) 9 = some (30, { kind := .chIn 9, seq := 2, buf := List.replicate 3 (.ok 0) }) ∧ inboundReg (s.hart 0) 8 = none) ∧
    4 ≤ (List.replicate 4 (Image.ok 0)).length ∧ Spec.comes (listening (image 2 true) 0) 5 (pkt (image 2 true)) ∧
    limitOf (listening (image 2 true) 0) (pkt (image 2 true)).hart ≠ 0 ∧
    (∀ q : Packet, q = { pkt (image 2 false) with hart := 4 } → q.hart ≠ 0 ∧
      Spec.comes { running with net := [q] } 5 q) :=
  ⟨⟨listening_net _ _, by decide +kernel⟩, by decide +kernel, listening_net _ _, by decide, fun q h => by
    subst h; exact ⟨by decide, comes_of rfl rfl rfl⟩⟩
def aCtx : Ctx := { trec := aRec, regs := List.replicate 8 0, launch := 5, slot := 1, key := 0, group := none }
theorem witness_MessageSteps_contexts :
    (let b : Body := .context 0 aCtx false; let s := placing b id
     Spec.comes s 5 (pkt b) ∧ heldBack s (pkt b) = false ∧ homeErr s 0 0 = none ∧ typeLookup s (cluOf 0) 5 0 = (s, .ok aType) ∧
     (s.core 0).arrQ.length < 48 ∧ (s.core 0).spill = []) ∧
    findPkt (placing (.context 0 aCtx true) id) 5 = some (pkt (.context 0 aCtx true)) ∧
    (let C : Core := { arrQ := List.replicate 48 aCtx, spill := [aCtx] }; 48 ≤ C.arrQ.length ∧ C.spill.length < 4096 ∧ C.spill = aCtx :: []) ∧
    (refilled running 0 aCtx).2 = false ∧ (refilled (running.setPoi (spillEntry 0 0) true) 0 aCtx).2 = true ∧
    4096 ≤ ({ spill := List.replicate 4096 aCtx } : Core).spill.length :=
  ⟨⟨placing_net _ _, by decide, by decide, rfl, by decide, by decide⟩, rfl, by decide, by decide +kernel, by decide +kernel, by
    show 4096 ≤ (List.replicate 4096 aCtx).length; rw [List.length_replicate]⟩

/-- Both ends of bridge channel 1 in a state, and port 2 with one peer, package 9. -/
def linked (L : Link) : State := { running with links := [(2, L), (3, { L with wire := [(5, [])] }), (258, L)] }
def peered (q : Peer) (P : Port → Port) : State := { running with pkg := { State.reset.pkg with ports := [(2, P { peers := [(9, q)] })] } }
def out (c v n : Nat) : OutPkt := { id := 5, cls := c, vc := v, flits := List.replicate n (List.replicate 64 0) }
theorem witness_LinkSteps_arbitration :
    (SMap.find? ({ prog := [(0, out 0 0 1)] } : Link).prog 0).isSome = true ∧
    (let L : Link := { due := [(1, 4), (2, 1)], queue := [out 2 0 1] }
     (SMap.find? L.prog 0).isSome = false ∧ (SMap.find? L.due 2).isSome = true ∧ hasClass L 2 = true ∧ hasClass L 1 = false) ∧
    (let L : Link := { queue := [out 1 3 1, out 2 0 9] }
     SMap.find? L.due 1 = none ∧ SMap.find? L.due 2 = none ∧ hasClass L 1 = true ∧ hasClass L 0 = false ∧
     (∀ k, k < 3 → ∀ e ∈ L.queue, ¬(e.cls = 1 ∧ e.vc = (SMap.get 3 L.lastVc 1 + 1 + k) % 4)) ∧
     (L.queue.find? fun e => e.cls == 1 && e.vc == (SMap.get 3 L.lastVc 1 + 1 + 3) % 4) = some (out 1 3 1)) ∧
    (∀ c, c < 3 → hasClass {} c = false) ∧
    (let L : Link := { prog := [(2, out 2 1 1)], due := [(2, 4)] }; let s := linked L
     SMap.find? L.prog 2 = some (out 2 1 1) ∧ canSend s 2 = true ∧ chooseClass (linkOf s 2) = some 2 ∧ choosePkt (linkOf s 2) 2 = some (out 2 1 1)) ∧
    (let L : Link := { queue := [out 0 0 2, out 2 0 9], counts := [(2, 47)] }; let s := linked L
     canSend s 2 = true ∧ chooseClass (linkOf s 2) = some 0 ∧ choosePkt (linkOf s 2) 0 = some (out 0 0 2) ∧ hasClass L 2 = true ∧
     (SMap.find? L.due 2).isSome = false ∧ 48 ≤ SMap.get 0 L.counts 2 + 1) ∧
    canSend (linked { up := false }) 2 = false ∧ (16383 : Nat) < 16384 := by decide +kernel
/-- The flit of a control word, as bridge channel 1 carries it. -/
def flitOf (w : Nat) : List Byte := wireFlit running 2 0 (toBytes 8 w ++ List.replicate 64 0)
/-- CLS, NAK, LSEQ, HEAD and TAIL of a flit that bridge channel 1 takes. -/
def taken (L : Link) (w : Nat) : List Nat := match offWire (linked L) 2 with
  | some (_, u) => if (flitOf w).length = 72 ∧ (linkOf u 2).up = true ∧ openFlit u 2 (flitOf w) = some (flitOf w, 0) then
      let k := leAt (flitOf w) 0 8; [k % 4, k / 128 % 2, k / 256 % 4096, k / 16 % 2, k / 32 % 2] else []
  | none => []
theorem witness_LinkSteps_flits :
    offWire running 2 = none ∧ (∃ u, offWire (linked {}) 2 = some (5, u) ∧ (linkOf u 2).up = true ∧ openFlit u 2 (List.replicate 72 0) = none) ∧
    (∃ u, offWire (linked { up := false }) 2 = some (5, u) ∧ (linkOf u 2).up = false) ∧
    taken {} (controlWord 0 0 false false false false 0 3) = [3, 0, 0, 0, 0] ∧ taken {} (controlWord 0 0 true false false false 0 3) = [3, 1, 0, 0, 0] ∧
    taken {} (controlWord 0 1 false false true true 0 0) = [0, 0, 1, 1, 1] ∧ (linkOf (linked {}) 2).rxNext = 0 ∧
    taken {} (controlWord 0 0 false false false true 3 2) = [2, 0, 0, 1, 0] ∧ taken {} (controlWord 0 0 false false true true 3 2) = [2, 0, 0, 1, 1] ∧
    taken {} (controlWord 0 0 false false true false 3 2) = [2, 0, 0, 0, 1] ∧ SMap.find? (linkOf (linked {}) 2).ctxs 11 = none ∧
    taken { ctxs := [(11, [])] } (controlWord 0 0 false false true false 3 2) = [2, 0, 0, 0, 1] ∧ SMap.find? (linkOf (linked { ctxs := [(11, [])] }) 2).ctxs 11 = some [] :=
  ⟨rfl, ⟨_, rfl, by decide +kernel, by decide +kernel⟩, ⟨_, rfl, by decide +kernel⟩, by decide +kernel⟩
theorem witness_LinkSteps_ends :
    (([⟨7, 5, 0, [], true⟩, ⟨8, 5, 1, [], true⟩] : List SentFlit).findIdx? fun f => f.lseq == 8) = some 1 ∧
    isLink 2 = true ∧ isLink 159 = true ∧ isLink 160 = false ∧ isLink 256 = true ∧ isLink 1024 = true ∧
    (linkOf (linked { up := false }) 2).isRetired = false ∧ (linkOf (linked { up := false }) 258).up = false ∧ 256 ≤ 258 ∧ (2 : Nat) < 160 := by decide
theorem kinds : ∀ k : Fin 256, leAt (toBytes 16 (k.val * 2 ^ 104)) 0 16 / 2 ^ 104 % 2 ^ 8 = k.val := by decide +kernel
theorem witness_LinkSteps_sacks : (∃ b, leAt b 0 16 / 2 ^ 104 % 2 ^ 8 = sackKind % 2 ^ 8) ∧ ∃ b, ¬(leAt b 0 16 / 2 ^ 104 % 2 ^ 8 = sackKind % 2 ^ 8) :=
  ⟨⟨_, kinds ⟨sackKind % 2 ^ 8, Nat.mod_lt _ (by decide)⟩⟩, ⟨_, fun h => by
    have := kinds ⟨(sackKind + 1) % 2 ^ 8, Nat.mod_lt _ (by decide)⟩
    have e := h.symm.trans this
    simp only at e; omega⟩⟩
theorem witness_LinkSteps_peers :
    (let s := peered { bitmap := 4, store := [(1, pkt (.deposit 0 0), 7)] } id; let q := peerOf s 2 9
     (∀ c n x y, (pkt (.deposit 0 0)).body ≠ .beacon c n x y) ∧ q.bitmap.getLsbD ((2 % 65536 + 65536 - q.base) % 65536) = true ∧
     q.bitmap.getLsbD ((63 % 65536 + 65536 - q.base) % 65536) = false ∧ 32768 ≤ (32768 % 65536 + 65536 - q.base) % 65536 ∧ q.bitmap ≠ 0 ∧
     (q.store.find? fun x => x.1 == 1 && decide (x.2.2 < 8)) = some (1, pkt (.deposit 0 0), 7)) ∧
    (let s := peered { store := [(1, pkt (.deposit 0 0), 8)] } id
     (∃ x ∈ (peerOf s 2 9).store, 8 ≤ x.2.2) ∧ (peerOf s 2 9).unreachable = false ∧ (peerOf s 2 9).bitmap = 0 ∧ (peerOf s 2 9).base = 0) :=
  ⟨⟨fun _ _ _ _ => nofun, by decide⟩, by decide⟩
def lineOf (off : Nat) : Body := .mcw 1 off (List.replicate 64 3) (5 * 256 + 3) 1
theorem witness_LinkSteps_groups :
    (let b := lineOf 0x1FFC0; let s := onNet b
     Spec.comes s 5 (pkt b) ∧ bankBlocked s (pkt b) = false ∧ homeErr s 1 0 = none ∧ (0x1FFC0 : Nat) < 2 ^ 17 ∧ (0x1FFC0 : Nat) % 64 = 0 ∧ (s.core 1).feWait = []) ∧
    (let b : Body := .group 5 1 3 2 [0]; let s := onNet b
     Spec.comes s 5 (pkt b) ∧ (1 : Nat) ≠ cluOfHart (pkt b).hart ∧ ∀ r ∈ s.net, r.id = 5 ∨ ∀ c w x, r.body ≠ .group 5 c 3 w x) ∧
    (let s := running.modHart 0 fun H => { H with stalled := some (.grpw 5 3 2) }
     (s.hart 0).stalled = some (.grpw 5 3 2) ∧ ∀ r ∈ s.net, (∀ c w x, r.body ≠ .group 5 c 3 w x) ∧ ∀ c o b tag, r.body = .mcw c o b (5 * 256 + 3) tag → tag % 256 = 2) ∧
    (∃ r ∈ (onNet (.group 5 1 3 2 [0])).net, ∃ c w x, r.body = .group 5 c 3 w x) :=
  ⟨⟨comes_pkt _, by decide⟩, ⟨comes_pkt _, by decide, fun r h => Or.inl (by
      have e : (onNet (.group 5 1 3 2 [0])).net = [pkt (.group 5 1 3 2 [0])] := rfl
      rw [e, List.mem_singleton] at h; subst h; rfl)⟩,
    ⟨by decide, fun r h => by have e : (running.modHart 0 fun H => { H with stalled := some (.grpw 5 3 2) }).net = [] := rfl; rw [e] at h; cases h⟩,
    _, List.mem_singleton.mpr rfl, _, _, _, rfl⟩
theorem witness_LinkSteps_keys :
    (let s := { peered {} (fun P => { P with rotating := some false }) with links := [(258, { unacked := [⟨7, 5, 0, [], false⟩, ⟨8, 5, 1, [], true⟩] })] }
     (portOf s 2).rotating = some false ∧ ((linkOf s (256 + 2)).unacked.findIdx? fun f => f.lseq == 7) = some 0 ∧ (portOf s 2).rotating ≠ some true) ∧
    (portOf (peered {} fun P => { P with rotating := some true }) 2).rotating = some true ∧
    ((running.modHart 0 fun H => { H with stalled := some (.keyrotAck 2) }).hart 0).stalled = some (.keyrotAck 2) ∧
    ((running.modHart 0 fun H => { H with stalled := some (.keyrot 2) }).hart 0).stalled = some (.keyrot 2) := by decide

/-- A package with a process slot, a ring and a launch that came from it. -/
def hosted : State := { running with pkg := { State.reset.pkg with
  procs := [(0, { pasid := 9, mode := 3, root := 0 })], rings := [(7, (0x1000, 0))], launches := [(5, { trec := { aLaunch with slot := 0, hostRing := some 7 }, start := 0 })] } }
theorem witness_HostSteps_slots :
    hosted.pkg.rspRing = 0 ∧ (2 ^ 20 ≤ 2 ^ 20 ∧ 3 < 4) ∧ (∃ e ∈ hosted.pkg.procs, e.2.pasid = 9) ∧ (∀ e ∈ hosted.pkg.procs, e.2.pasid ≠ 2 ^ 20 - 1) ∧
    SMap.find? hosted.pkg.procs 1 = none ∧ (∀ j, j < 1 → SMap.find? hosted.pkg.procs j ≠ none) ∧ SMap.find? hosted.pkg.procs 0 ≠ none ∧
    (∃ e ∈ hosted.pkg.launches, e.2.trec.slot = 0) ∧ (∃ e ∈ hosted.pkg.rings, e.2.2 = 0) ∧
    (∀ e ∈ running.pkg.launches, e.2.trec.slot ≠ 0) ∧ (∀ e ∈ running.pkg.rings, e.2.2 ≠ 0) ∧ hostRing (ringing 1) 0x3000 = none ∧
    (∃ e ∈ hosted.pkg.launches, e.2.trec.hostRing = some 7) ∧ SMap.find? hosted.pkg.rings 7 ≠ none := by decide +kernel
theorem witness_HostSteps_rings : ∃ d, hostRing (ringing 1) 0x1000 = some d ∧ d.kind = 1 ∧ d.cons = 1 := ⟨parseRing launchRing, by decide +kernel, by decide, by decide⟩
def allSlots : SMap Proc := (List.range 1024).map fun k => (k, { pasid := k, mode := 3, root := 0 })
theorem find_listed {α : Type} (f : Nat → α) : ∀ (l : List Nat) (k : Nat), k ∈ l → SMap.find? (l.map fun n => (n, f n)) k ≠ none
  | [], _, h => by cases h
  | a :: l, k, h => by
    by_cases e : a = k
    · simp [SMap.find?, e]
    · have := find_listed f l k (by simpa [Ne.symm e] using h)
      simpa [SMap.find?, e] using this
theorem witness_HostSteps_full : ∀ k, k < 1024 → SMap.find? allSlots k ≠ none := fun k h => find_listed _ _ k (List.mem_range.mpr h)
theorem witness_HostSteps_units :
    findLaunch hosted 0 0 0 = some 5 ∧ findLaunch hosted 0 0 1 = none ∧ cluGone hosted 0 = false ∧
    cluGone (hosted.modCluster 0 fun G => { G with isRetired := true }) 0 = true ∧
    (∃ u, devRead running 0 0 true 1025 0x1000 4 = (u, .ok [0, 0, 0, 0] false)) ∧
    (0 < 2 ^ 36 ∧ 2 ^ 36 % 2 ^ 36 = 0 ∧ (2 ^ 40 - 2 ^ 36) + 2 ^ 36 ≤ 2 ^ 40 ∧ (2 ^ 40 - 2 ^ 36) % 64 = 0) ∧
    (running.pkg.launches = [] ∧ running.pkg.rings = [] ∧ running.pkg.chk = none) ∧ ¬(hosted.pkg.launches = []) ∧
    (let s := running.modPkg fun P => { P with chk := some (false, 3, 0x1000, 2 ^ 36, 0) }
     s.mem.wf = true ∧ s.pkg.chk = some (false, 3, 0x1000, 2 ^ 36, 0) ∧ 0 + 2 ^ 36 ≤ 2 ^ 40 ∧ 0x1000 + 2 ^ 36 ≤ 2 ^ 52) :=
  ⟨by decide, by decide, by decide, by decide, ⟨_, rfl⟩, by decide, by decide, by decide, by decide⟩
/-- Firmware of one word, jal x0, 0 or no instruction; the ring's CIDX is written. -/
theorem witness_HostSteps_firmware :
    firmwareFault (loadMordant running 0 (toBytes 4 0x6F)) (8192 + 0) 1 = none ∧ firmwareFault (loadMordant running 0 (toBytes 4 0)) (8192 + 0) 1 ≠ none ∧
    scan { prof := .mordant, words := [0x6F], first := 0, limit := 16384, signed := false, nlive := 0 } = none ∧
    scan { prof := .mordant, words := [0], first := 0, limit := 16384, signed := false, nlive := 0 } ≠ none ∧
    (devWrites running 0 0 true 0 [(0x1000 + 20, toBytes 4 1)]).2 = .done := ⟨by decide +kernel, by decide +kernel, by decide +kernel, by decide +kernel, rfl⟩
/-- A command record of operation 2 and a command ring at 0x1000. -/
def command (op : Nat) (phase : Nat) : List Byte := toBytes 2 op ++ List.replicate 54 0 ++ toBytes 8 phase
def commanding (phase : Nat) : State := { running with
  mem := (State.reset.mem.writeBytes (2 ^ 65 + 0x1000) (toBytes 8 0x2000 ++ [1, 0, 2, 0])).writeBytes (2 ^ 65 + 0x2000) (command 2 phase)
  pkg := { State.reset.pkg with cmdRing := 0x1000 } }
theorem witness_HostSteps_commands :
    (leAt (command 2 1) 2 2 = 0 ∧ leAt (command 2 1) 0 2 = 2 ∧ 9 < leAt (command 10 1) 0 2) ∧
    (let s := commanding 1
     s.pkg.responses = [] ∧ s.pkg.cmdRing ≠ 0 ∧ s.pkg.chk = none ∧
     (∃ d, hostRing s s.pkg.cmdRing.toNat = some d ∧ d.kind = 2 ∧ d.size = 0 ∧ (devRead s 0 0 true 1 (d.slot d.cidx) 64).2 = .ok (command 2 1) false ∧
       leAt (command 2 1) 56 1 % 2 = d.phase d.cidx ∧ leAt (command 2 0) 56 1 % 2 ≠ d.phase d.cidx)) :=
  ⟨by decide, by decide, by decide, by decide, parseRing (toBytes 8 0x2000 ++ [1, 0, 2, 0] ++ List.replicate 20 0), by decide +kernel, by decide, by decide, of_gives (by decide +kernel), by decide, by decide⟩
theorem witness_HostSteps_cxl :
    (let s := running.modPkg fun P => { P with hdmSet := true, hdmBase := 0x10000 }
     SMap.get false s.pkg.cxlDown 1 = false ∧ s.pkg.hdmSet = true ∧ s.pkg.hdmBase.toNat ≤ 0x10000 + 2 ^ 40 - 64 ∧
     0x10000 + 2 ^ 40 - 64 + 64 ≤ s.pkg.hdmBase.toNat + 2 ^ 40 ∧ (0x10000 + 2 ^ 40 - 64) / 64 = (0x10000 + 2 ^ 40 - 64 + 64 - 1) / 64) := by decide
theorem witness_HostSteps_fails :
    (287 : Nat) ∉ (running.core 8191).banks ∧ degraded (running.core 8191) (bankGroup 287) = false ∧ degraded { banks := [287] } (bankGroup 255) = true ∧
    287 ∈ ({ banks := [287] } : Core).banks ∧ (running.cluster 0).isRetired = false ∧
    (peerOf (peered { unreachable := true } id) 2 9).unreachable = true ∧ (peerOf running 2 9).unreachable = false ∧
    (portOf running 2).lanesBad = 0 ∧ 1 ≤ (portOf (peered {} fun P => { P with lanesBad := 1 }) 2).lanesBad := by decide

/-- Word w at pc 0 of hart 0, reached in sequence, with some changes of the hart. -/
def atPc (w : Nat) (f : Hart → Hart) : State := (State.reset.withFetchWord 32 w).modHart 0 fun H => f { H with arrival := .seq }
/-- add x5, x6, x7. -/
theorem witness_StepRunsWord :
    (let s := atPc 0x007302B3 id; let H := s.me
     s.agenda = [] ∧ (hartsOf (coreOf s.cur)).any (fresh s) = true ∧ s.cur = 0 ∧ pick s 0 = 0 ∧ coreRuns s 0 = true ∧ H.free = false ∧ H.held = none ∧
     H.stalled = none ∧ H.lanes = [] ∧ interruptNow s 0 = none ∧ handlerDue s 0 = false ∧ H.arrival = .seq ∧ ownBroken H = false ∧ H.vloop = none ∧ H.flaws = [] ∧
     (s.core 0).turn < 4 ∧ fresh s (hartAt 0 0) = true ∧ soon s (hartAt 0 0) = true ∧ isMordant 0 = false ∧ isMordant 32768 = true) ∧
    (∃ u, fetch (atPc 0x007302B3 id) 0 = (u, .word 0x007302B3 false) ∧ opOf 0x007302B3 = .ok .add ∧ decode 0x007302B3 = .ok (.add 5 6 7) ∧
      (let a := Spec.atWord u 0x007302B3 false; let uses := usesOf .add 0x007302B3 none
       sigStops (a.hart 0) .add 0x007302B3 = false ∧ misfit (a.hart 0) .add 0x007302B3 = false ∧ illegalHere a .add 0x007302B3 = false ∧
       scoreboard (a.hart 0) uses = false ∧ (a.hart 0).flaws = [] ∧ armedRead (a.hart 0) uses = none ∧ metGather (a.hart 0) .add uses = none ∧
       touched (a.hart 0) uses = [])) ∧
    (let s := atPc 0x007302B3 id; s.me.pc = BitVec.ofNat 64 (4 * 0) ∧ 0 < codeWords 0 ∧ SMap.get false (s.core 0).exec 0 = true ∧
      SMap.get false (s.core 0).exec 8191 = false ∧ s.me.prefetch = []) :=
  ⟨by decide, ⟨_, rfl, rfl, rfl, by decide, by decide, by decide, by decide, by decide, by decide, by decide, by decide⟩, by decide⟩
/-- A word after a prefix it does not take; a privileged word in U mode; a word that no instruction has; nothing executable. -/
theorem witness_StepRunsWord_other :
    (∃ u, fetch (atPc 0x007302B3 fun H => { H with pfx := true }) 0 = (u, .word 0x007302B3 false) ∧
      misfit ((Spec.atWord u 0x007302B3 false).hart 0) .add 0x007302B3 = true) ∧
    (∃ u, fetch (atPc 0x30200073 fun H => { H with mode := .U }) 0 = (u, .word 0x30200073 false) ∧ opOf 0x30200073 = .ok .mret ∧
      illegalHere (Spec.atWord u 0x30200073 false) .mret 0x30200073 = true) ∧
    (∃ u, fetch (atPc 0 id) 0 = (u, .word 0 false) ∧ ∀ i, decode 0 ≠ .ok i) ∧
    (∃ u, fetch (atPc 0 fun H => { H with pc := 4 }) 0 = (u, .fault)) ∧
    ({ State.reset with agenda := [.hart 3] } : State).agenda = .hart 3 :: [] ∧ encode (.trapEntry 0) = [] ∧ encode (.add 5 6 7) ≠ [] := by
  refine ⟨⟨_, rfl, by decide⟩, ⟨_, rfl, rfl, by decide⟩, ⟨_, rfl, fun i h => ?_⟩, ⟨_, rfl⟩, rfl, rfl, by decide⟩
  have e : decode 0 = .error .notInstr := rfl
  rw [e] at h; cases h
/-- A signed word whose block has the wrong signature, and a word that touches a result that has not landed. -/
theorem witness_StepRunsWord_stops :
    sigStops { (atPc 0x007302B3 id).me with chk := { act := true, exp := 1, endk := 0, run := 0, last := 0 } } .sig 0 = true := by decide
theorem witness_StepRunsWord_stall :
    (let H := (atPc 0 fun H => { H with pend := [⟨.x, 6, 0, 1, 9⟩] }).me
     (touched H (usesOf .add 0x007302B3 none)) ≠ [] ∧ interlocks H .add = false ∧ sckBit { H.csr with mnstatus := 2 } = true) := by decide
/-- The registers of add x5, x6, x7. -/
def addUses : Uses := usesOf .add 0x007302B3 none
/-- A stored error of x6, of a loop CSR, or of a register that is armed; an armed operand; a gather of its register that failed. -/
theorem witness_StepRunsWord_registers :
    (let H := (atPc 0x007302B3 fun H => { H with flaws := [(16 * regNo .x 6, true)] }).me
     ownBroken H = false ∧ H.flaws ≠ [] ∧ regFlaws H addUses.reads = [(16 * regNo .x 6, true)]) ∧
    (let H := (atPc 0x007302B3 fun H => { H with flaws := [(16 * regNo .x 6, false), (16 * regNo .x 9, true)] }).me
     ownBroken H = false ∧ regFlaws H addUses.reads = [(16 * regNo .x 6, false)]) ∧
    ownBroken (atPc 0x007302B3 fun H => { H with flaws := [(2048, true)] }).me = true ∧
    (let H := (atPc 0x007302B3 fun H => { H with armed := [6], flaws := [(16 * regNo .x 6, true)] }).me
     regFlaws H addUses.reads = [] ∧ armedRead H addUses = some 6) ∧
    scoreboard (atPc 0x007302B3 fun H => { H with gathers := [{ vd := 7, left := 1 }] }).me { more := [(.v, 7)] } = true ∧
    (let H := (atPc 0 fun H => { H with gathers := [{ vd := 7, left := 0, bad := some (3, 24, 0x40) }] }).me
     metGather H .vadd { more := [(.v, 7)] } = some ({ vd := 7, left := 0, bad := some (3, 24, 0x40) }, 24, 0x40) ∧ touched H { more := [(.v, 7)] } = []) := by
  decide
/-- A word in the sequencer queue of a VLOOP; turns of the firmware and of an output port. -/
theorem witness_StepRunsWord_queue :
    (let H := (atPc 0 fun H => { H with vloop := some ⟨0, 1, 0, 5, [0x007302B3]⟩ }).me
     H.vloop.bind (fun q => q.queue[q.at_]?) = some 0x007302B3 ∧ ({ H with vloop := some ⟨0, 2, 1, 5, [0x007302B3]⟩ } : Hart).vloop.bind (fun q => q.queue[q.at_]?) = none) ∧
    ({ State.reset with agenda := [.firmware 3] } : State).agenda = .firmware 3 :: [] ∧ ({ State.reset with agenda := [.port 2] } : State).agenda = .port 2 :: [] ∧
    eligible (atPc 0x007302B3 id) (hartAt 0 0) = true := by decide
theorem witness_EncodeThenDecode :
    Instr.wf (.vadd 20 10 13 .f16 5) = true ∧ (0x0AD54A0B : W32) ∈ encode (.vadd 20 10 13 .f16 5) ∧
    Instr.wf (.fence 0 15 15 31 31) = true ∧ encode (.fence 0 15 15 31 31) ≠ [] := ⟨by decide, by decide, by decide, by decide⟩
theorem witness_DecodeThenEncode : decode 0x0AD54A0B = .ok (.vadd 20 10 13 .f16 5) := rfl
theorem witness_InvStep : Inv (atPc 0x007302B3 id) ∧ ∃ t, step (atPc 0x007302B3 id) = .next t := ⟨by show Memory.wf _ = true; decide, _, rfl⟩

end Sys2Proof.Tests
end

/-! What messages, losses and barriers leave alone. -/

namespace Sys2Proof.Machine
open Sys2Proof

/-- A part of the state that messages, losses of work and barriers leave alone: they change harts, and of cores, clusters and
the package nothing that says what is sealed, retired or configured. -/
structure Bystander {γ : Type} (g : State → γ) : Prop where
  hart    : ∀ s n H, g (State.setHart s n H) = g s
  core    : ∀ s n C, C.isSealed = (s.core n).isSealed → C.isRetired = (s.core n).isRetired → g (State.setCore s n C) = g s
  cluster : ∀ s n G, G.isRetired = (s.cluster n).isRetired → g (State.setCluster s n G) = g s
  wire    : ∀ s net id paths links, g { s with net := net, nextId := id, paths := paths, links := links } = g s
  barrier : ∀ s l, g { s with pkg := { s.pkg with barriers := l } } = g s

theorem bystander_mem : Bystander State.mem :=
  ⟨fun _ _ _ => rfl, fun _ _ _ _ _ => rfl, fun _ _ _ _ => rfl, fun _ _ _ _ _ => rfl, fun _ _ => rfl⟩
theorem bystander_dies : Bystander State.dies :=
  ⟨fun _ _ _ => rfl, fun _ _ _ _ _ => rfl, fun _ _ _ _ => rfl, fun _ _ _ _ _ => rfl, fun _ _ => rfl⟩

namespace Bystander
variable {γ : Type} {g : State → γ} (a : Bystander g)
include a

theorem modHart (s : State) (n : Nat) (f : Hart → Hart) : g (s.modHart n f) = g s := a.hart _ _ _
theorem modCore (s : State) (n : Nat) (f : Core → Core) (hs : (f (s.core n)).isSealed = (s.core n).isSealed)
    (hr : (f (s.core n)).isRetired = (s.core n).isRetired) : g (s.modCore n f) = g s := a.core _ _ _ hs hr
theorem modCluster (s : State) (n : Nat) (f : Cluster → Cluster) (h : (f (s.cluster n)).isRetired = (s.cluster n).isRetired) :
    g (s.modCluster n f) = g s := a.cluster _ _ _ h
theorem net (s : State) (l : List Packet) : g { s with net := l } = g s := a.wire s _ _ _ _

theorem queueOut (s : State) (l e : Nat) (p : Packet) : g (queueOut s l e p) = g s := a.wire s _ _ _ _
theorem stand (s : State) (p : Packet) (r : Nat) : g (stand s p r) = g s := by
  unfold Machine.stand; dsimp only; split
  · exact a.wire s _ _ _ _
  · rw [a.queueOut]; exact a.wire s _ _ _ _
theorem sendFrom (s : State) (r : Nat) (p : Packet) : g (sendFrom s r p) = g s := by
  unfold Machine.sendFrom; rw [a.stand]; exact a.wire s _ _ _ _
theorem sendAs (s : State) (h : Nat) (k : Option Nat) (n : Nat) (b : Body) : g (sendAs s h k n b) = g s := a.sendFrom _ _ _
theorem sendDev (s : State) (c k n : Nat) (b : Body) : g (sendDev s c k n b) = g s := a.sendAs _ _ _ _ _
theorem dropPkt (s : State) (p : Nat) : g (dropPkt s p) = g s := a.wire s _ _ _ _
theorem putBackAt (s : State) (p : Packet) (r : Nat) : g (putBackAt s p r) = g s := by
  unfold Machine.putBackAt; rw [a.stand, a.net]
theorem putPkt (s : State) (p : Packet) : g (putPkt s p) = g s := by
  unfold Machine.putPkt; split
  · rw [a.stand, a.net]
  · rfl

/-! Losses. -/

theorem orStatus (s : State) (c n v : Nat) : g (orStatus s c n v) = g s := by
  unfold Machine.orStatus; exact a.modCluster _ _ _ rfl
theorem signalEnd (s : State) (c : Nat) (r : TaskRec) (n v : Nat) : g (signalEnd s c r n v) = g s := by
  unfold Machine.signalEnd; dsimp only; split
  · exact a.sendDev _ _ _ _ _
  · split
    · rw [a.orStatus, a.sendDev]
    · exact a.sendDev _ _ _ _ _
theorem groupCount (s : State) (p : Nat × Nat) (v : Nat) : g (groupCount s p v) = g s := by
  unfold Machine.groupCount; dsimp only; split
  · rfl
  · split
    · split
      · rw [a.signalEnd]; exact a.modCluster _ _ _ rfl
      · exact a.modCluster _ _ _ rfl
    · exact a.modCluster _ _ _ rfl
theorem abandonGroup (s : State) (p : Nat × Nat) (T : TileGroup) : g (abandonGroup s p T) = g s := by
  unfold Machine.abandonGroup; exact a.modCluster _ _ _ rfl
theorem loseWork (s : State) (c : Nat) (r : TaskRec) (n k j : Nat) (p : Option (Nat × Nat)) (b : Bool) :
    g (loseWork s c r n k j p b) = g s := by
  unfold Machine.loseWork; split
  · exact a.sendDev _ _ _ _ _
  · split
    · rfl
    · split
      · rw [a.sendDev, a.abandonGroup]
      · exact a.groupCount _ _ _
theorem loseCtx (s : State) (c : Nat) (x : Ctx) : g (loseCtx s c x) = g s := by
  unfold Machine.loseCtx; rw [a.loseWork]; exact a.modCluster _ _ _ rfl
theorem dropCost (s : State) (h : Nat) : g (dropCost s h) = g s := by
  unfold Machine.dropCost; split
  · exact a.modCluster _ _ _ rfl
  · rfl
theorem dropFrame (s : State) (h : Nat) : g (dropFrame s h) = g s := by
  unfold Machine.dropFrame; split
  · exact a.modCore _ _ _ rfl rfl
  · rfl
theorem loseTask (s : State) (h : Nat) : g (loseTask s h) = g s := by
  unfold Machine.loseTask; split
  · rfl
  · rw [a.loseWork, a.dropFrame, a.dropCost]
theorem loseResumes (s : State) (c : Nat) : g (loseResumes s c) = g s := by
  unfold Machine.loseResumes; dsimp only
  rw [foldl_keeps g _ fun s q => ?_]
  · exact a.modCluster _ _ _ rfl
  · split
    · exact a.loseWork _ _ _ _ _ _ _ _
    · rfl
theorem mcwFailed (s : State) (p : Packet) (c off tag cause : Nat) : g (mcwFailed s p c off tag cause) = g s := by
  unfold Machine.mcwFailed; split
  · rfl
  · exact a.modHart _ _ _
theorem failPkt (s : State) (p : Packet) (c : Nat) : g (failPkt s p c) = g s := by
  unfold Machine.failPkt
  repeat' split
  all_goals simp only [a.putPkt, a.dropPkt, a.mcwFailed, a.orStatus, a.sendDev]
theorem updKeep (s : State) (c n : Nat) (f : Ret → Ret) : g (updKeep s c n f) = g s := a.modCluster _ _ _ rfl
theorem losePkt (s : State) (p : Packet) : g (losePkt s p) = g s := by
  unfold Machine.losePkt; dsimp only
  repeat' split
  all_goals simp only [a.putBackAt, a.dropPkt, a.mcwFailed, a.updKeep]
theorem refuseWaiters (s : State) (c : Nat) : g (refuseWaiters s c) = g s := by
  unfold Machine.refuseWaiters; dsimp only
  rw [foldl_keeps g _ fun _ _ => a.putBackAt _ _ _]; exact a.modCore _ _ _ rfl rfl
theorem refuseDeposits (s : State) (c : Nat) (f : Packet → Bool) : g (refuseDeposits s c f) = g s := by
  unfold Machine.refuseDeposits; dsimp only
  rw [foldl_keeps g _ fun _ _ => a.putBackAt _ _ _]; exact a.modCore _ _ _ rfl rfl
theorem disarmHart (s : State) (h : Nat) : g (disarmHart s h) = g s := by
  unfold Machine.disarmHart; rw [a.modHart, a.refuseDeposits]
theorem dropCopies (s : State) (c : Nat) : g (dropCopies s c) = g s := by
  refine a.modCluster _ _ _ ?_
  dsimp only
  repeat' split
  all_goals rfl

/-! Barriers. -/

theorem barriersEnd (l : List Barrier) : ∀ s, g (barriersEnd l s) = g s := by
  induction l with
  | nil => intro s; rfl
  | cons b r ih =>
    intro s
    unfold Machine.barriersEnd; dsimp only
    split
    · rw [ih, State.modPkg, a.barrier]
      exact foldl_keeps g _ (fun _ _ => a.hart _ _ _) _ _
    · exact ih s
theorem barrierCheck (s : State) : g (barrierCheck s) = g s := a.barriersEnd _ _

end Bystander

end Sys2Proof.Machine

/-! What is sealed, retired, failed and configured, and what leaves it so: accesses to memory, what the
engines write, and the discarding of their commands. -/

namespace Sys2Proof.Machine
open Sys2Proof

/-- Which cores are sealed or retired, which clusters retired and dies failed, and the package but for its barriers and ports. -/
structure Standing where
  isSealed : Nat → Bool
  coreRetired : Nat → Bool
  cluRetired : Nat → Bool
  dieFailed : Nat → Bool
  pkg : Pkg

/-- The standing of a state. -/
def standing (s : State) : Standing where
  isSealed c := (s.core c).isSealed
  coreRetired c := (s.core c).isRetired
  cluRetired g := (s.cluster g).isRetired
  dieFailed d := (s.die d).isFailed
  pkg := { s.pkg with barriers := [], ports := [] }

theorem standing_setCore (s : State) (n : Nat) (C : Core) (hs : C.isSealed = (s.core n).isSealed)
    (hr : C.isRetired = (s.core n).isRetired) : standing (s.setCore n C) = standing s := by
  have hs' : ∀ c, ((s.setCore n C).core c).isSealed = (s.core c).isSealed := fun c => by
    rw [State.setCore_core]; split
    · next e => rw [e, hs]
    · rfl
  have hr' : ∀ c, ((s.setCore n C).core c).isRetired = (s.core c).isRetired := fun c => by
    rw [State.setCore_core]; split
    · next e => rw [e, hr]
    · rfl
  simp [standing, hs', hr']

theorem standing_setCluster (s : State) (n : Nat) (G : Cluster) (h : G.isRetired = (s.cluster n).isRetired) :
    standing (s.setCluster n G) = standing s := by
  have h' : ∀ c, ((s.setCluster n G).cluster c).isRetired = (s.cluster c).isRetired := fun c => by
    rw [State.setCluster_cluster]; split
    · next e => rw [e, h]
    · rfl
  simp [standing, h']

theorem standing_modDie (s : State) (n : Nat) (f : Die → Die) (h : (f (s.die n)).isFailed = (s.die n).isFailed) :
    standing (s.modDie n f) = standing s := by
  have h' : ∀ c, ((s.modDie n f).die c).isFailed = (s.die c).isFailed := fun c => by
    rw [State.modDie_die]; split
    · next e => rw [e, h]
    · rfl
  simp [standing, h']

theorem bystander_standing : Bystander standing :=
  ⟨fun _ _ _ => rfl, standing_setCore, standing_setCluster, fun _ _ _ _ _ => rfl, fun _ _ => rfl⟩

theorem standing_modCore (s : State) (n : Nat) (f : Core → Core) (hs : (f (s.core n)).isSealed = (s.core n).isSealed)
    (hr : (f (s.core n)).isRetired = (s.core n).isRetired) : standing (s.modCore n f) = standing s := standing_setCore s n _ hs hr
theorem standing_modCluster (s : State) (n : Nat) (f : Cluster → Cluster) (h : (f (s.cluster n)).isRetired = (s.cluster n).isRetired) :
    standing (s.modCluster n f) = standing s := standing_setCluster s n _ h
@[simp] theorem standing_modHart (s : State) (n : Nat) (f : Hart → Hart) : standing (s.modHart n f) = standing s := rfl
@[simp] theorem standing_mem (s : State) (m : Memory) : standing { s with mem := m } = standing s := rfl
@[simp] theorem standing_setPoi (s : State) (l : Nat) (b : Bool) : standing (s.setPoi l b) = standing s := rfl
@[simp] theorem standing_setFe (s : State) (l : Nat) (b : Bool) : standing (s.setFe l b) = standing s := rfl

/-! Accesses to memory. -/

@[simp] theorem standing_rowFix (s : State) (c : Nat) (f : RowFix) : standing (rowFix s c f) = standing s := by
  cases f with
  | corrected k =>
    simp only [rowFix, countCE]
    rw [standing_modCluster _ _ _ rfl, standing_modCore _ _ _ rfl rfl]
  | reported k => exact standing_modCluster _ _ _ rfl
  | gone k => exact standing_modCore _ _ _ rfl rfl
  | poisoned n => rfl
@[simp] theorem standing_scrub (s : State) (l n : Nat) (w : Bool) : standing (scrub s l n w) = standing s := by
  unfold scrub; split
  · exact foldl_keeps standing _ (fun _ _ => foldl_keeps standing _ (fun _ _ => standing_rowFix _ _ _) _ _) _ _
  · rfl
@[simp] theorem standing_poisonWrite (s : State) (l n : Nat) (p : Bool) : standing (poisonWrite s l n p) = standing s := by
  unfold poisonWrite; repeat' split
  · rfl
  · exact foldl_keeps standing _ (fun _ _ => foldl_keeps standing _ (fun _ _ => standing_setPoi _ _ _) _ _) _ _
  · exact foldl_keeps standing _ (fun _ _ => by unfold poisonPad; split <;> exact standing_setPoi _ _ _) _ _
@[simp] theorem standing_loseResv (s : State) (w : Option Nat) (l n : Nat) : standing (loseResv s w l n) = standing s := by
  unfold loseResv; split
  · refine foldl_keeps standing _ (fun _ _ => ?_) _ _
    repeat' split
    all_goals rfl
  · rfl
@[simp] theorem standing_dirtyCode (s : State) (l n : Nat) : standing (dirtyCode s l n) = standing s := by
  unfold dirtyCode; split
  · rfl
  · exact standing_modCore _ _ _ rfl rfl
@[simp] theorem standing_store (s : State) (w : Option Nat) (l : Nat) (b : List Byte) (p : Bool) : standing (store s w l b p) = standing s := by
  unfold store
  rw [standing_dirtyCode, standing_loseResv, standing_poisonWrite, standing_mem, standing_scrub]
@[simp] theorem standing_load (s : State) (l n : Nat) : standing (load s l n).1 = standing s := standing_scrub _ _ _ _

/-! Full-empty waiters. -/

theorem standing_feAt (s : State) (w : Option Nat) (l : Nat) (op : MemOp) (x : State × Reply) (h : feAt s w l op = some x) :
    standing x.1 = standing s := by
  delta feAt at h
  cases op with
  | feLoad clr =>
    have hl := standing_load s l 8
    dsimp only at h
    split at h
    · cases h
    · split at h <;> rw [← Option.some.inj h]
      · exact hl
      · dsimp only
        split
        · rw [standing_loseResv, standing_setFe, hl]
        · exact hl
  | feStore v =>
    dsimp only at h
    split at h
    · cases h
    · rw [← Option.some.inj h, standing_setFe, standing_store]
  | feSet b => rw [← Option.some.inj h, standing_loseResv, standing_setFe]
  | feQuery => rw [← Option.some.inj h]; exact standing_scrub _ _ _ _
  | load | store | loads | stores | amo | fxAdd | fxRead | fxClear | joinInit | joinAdd | relStore | joinArm | mcw => cases h
theorem standing_firstServed (s t : State) (loc : Nat) (q : Packet) (r : Reply) :
    ∀ l : List Packet, firstServed s loc l = some (q, t, r) → standing t = standing s := by
  intro l
  induction l with
  | nil => intro h; cases h
  | cons p l ih =>
    intro h
    unfold firstServed at h
    split at h
    · split at h
      · split at h
        · next hf => cases h; exact standing_feAt _ _ _ _ _ hf
        · exact ih h
      · exact ih h
    · exact ih h
@[simp] theorem standing_serveFe (n : Nat) : ∀ (s : State) (loc : Nat), standing (serveFe n s loc) = standing s := by
  induction n with
  | zero => intros; rfl
  | succ n ih =>
    intro s loc
    unfold serveFe; dsimp only
    split
    · rfl
    · next hf => rw [ih, bystander_standing.putBackAt, standing_modCore _ _ _ rfl rfl, standing_firstServed _ _ _ _ _ _ hf]
@[simp] theorem standing_wakeFe (s : State) (loc : Nat) : standing (wakeFe s loc) = standing s := standing_serveFe _ _ _
@[simp] theorem standing_fillGranules (s : State) (l n : Nat) : standing (fillGranules s l n) = standing s := by
  unfold fillGranules; split
  · refine foldl_keeps standing _ (fun _ _ => ?_) _ _
    split
    · rfl
    · rw [standing_wakeFe, standing_setFe]
  · rfl

/-! Accesses of the engines. -/

@[simp] theorem standing_translate (s : State) (d k a : Nat) (w : Bool) : standing (translate s d k a w).1 = standing s := by
  have leaf (m : Memory) (f : Die → Die) (h : (f (s.die d)).isFailed = (s.die d).isFailed) :
      standing (State.modDie { s with mem := m } d f) = standing s := standing_modDie { s with mem := m } d f h
  unfold translate
  repeat' split
  case h_3 => exact leaf _ _ rfl
  all_goals rfl
@[simp] theorem standing_reach (s : State) (A : Agent) (a : Word) (n : Nat) (w : Bool) : standing (reach s A a n w).1 = standing s := by
  unfold reach; dsimp only
  split
  · rfl
  split
  · rfl
  split
  · rfl
  · rfl
  · rfl
  · split
    · exact standing_modCore _ _ _ rfl rfl
    · rfl
    · split <;> rfl
  · rfl
  · next v _ =>
    split
    · rfl
    · have ht := standing_translate s (dieOfHart A.hart) (A.slot.getD 0) v w
      split <;> next e => rw [e] at ht; exact ht
@[simp] theorem standing_engWrite (s : State) (A : Agent) (r : Reach) (b : List Byte) (p : Bool) (k : Nat) :
    standing (engWrite s A r b p k).1 = standing s := by
  cases r with
  | at_ l => exact standing_store _ _ _ _ _
  | away | fail | need => rfl

end Sys2Proof.Machine

namespace Sys2Proof.Machine
open Sys2Proof

/-! What the sparse engines write. -/

@[simp] theorem standing_writeOut (s : State) (l : List OutElem) : standing (writeOut s l) = standing s := by
  unfold writeOut; dsimp only
  rw [foldl_keeps standing _ fun _ _ => standing_fillGranules _ _ _, foldl_keeps standing _ fun _ _ => ?_,
    foldl_keeps standing _ fun _ _ => standing_store _ _ _ _ _]
  split <;> rfl
@[simp] theorem standing_spTarget (s : State) (A : Agent) (b : Word) (n i k : Nat) :
    standing (spTarget s A b n i k).1 = standing s := by
  have h := standing_reach s A (b + word (i * n)) n true
  unfold spTarget
  split <;> next e => rw [e] at h; exact h
theorem standing_writePtrs (A : Agent) (d : ConvDesc) (b : Bool) (l : List (List (Nat × Nat))) :
    ∀ (s : State) (e : Option SpStop), standing (writePtrs A d b l s e).1 = standing s := by
  induction l with
  | nil => intros; rfl
  | cons g r ih =>
    intro s e
    unfold writePtrs
    extract_lets i l go
    have hgo : ∀ s x, standing (go s x).1 = standing s := by
      intro s x
      cases x with
      | fail c a n => exact ih _ _
      | need w =>
        simp only [go]
        split
        · exact (ih _ _).trans (bystander_standing.sendAs _ _ _ _ _)
        · rfl
    have ht := standing_spTarget s A d.optr 4 i 6
    split <;> rename_i e1 <;> rw [e1] at ht
    · exact (hgo _ _).trans ht
    · split
      · exact (hgo _ _).trans ht
      · exact (ih _ _).trans ((standing_writeOut _ _).trans ht)
@[simp] theorem standing_endSparse (s : State) (g : Nat) (c : SpCmd) (n r : Nat) (p : Bool) :
    standing (endSparse s g c n r p) = standing s := by
  unfold endSparse; dsimp only
  rw [standing_wakeFe, standing_setFe, standing_store, standing_modHart, standing_modCore _ _ _ rfl rfl, standing_modCluster]
  unfold spPop; split <;> rfl
@[simp] theorem standing_writeSome (s : State) (c : SpCmd) : standing (writeSome s c) = standing s := by
  unfold writeSome; dsimp only
  rw [standing_writeOut]; rfl

end Sys2Proof.Machine

/-! Engine commands are discarded, and a core is sealed. -/

namespace Sys2Proof
/-- What a change of every listed value leaves alone is read as before. -/
theorem SMap.get_map_keeps {α β : Type} (g : α → β) (d : α) (f : Nat × α → α) (h : ∀ x, g (f x) = g x.2) (k : Nat) :
    ∀ m : SMap α, g (SMap.get d (m.map fun x => (x.1, f x)) k) = g (SMap.get d m k)
  | [] => rfl
  | (j, v) :: r => by
    by_cases e : j = k
    · simp [SMap.get, e, h]
    · simpa [SMap.get, e] using SMap.get_map_keeps g d f h k r
end Sys2Proof

namespace Sys2Proof.Machine
open Sys2Proof

/-! Commands of the engines are discarded. -/

@[simp] theorem standing_dropSparseOf (s : State) (g : Nat) (p : Nat → Bool) : standing (dropSparseOf s g p) = standing s := by
  unfold dropSparseOf
  extract_lets G mine s1 s2 s3
  have h1 : standing s1 = standing s := by
    simp only [s1]; split
    · split
      · exact standing_writeSome _ _
      · rfl
    · rfl
  have h2 : standing s2 = standing s := by
    simp only [s2]; split
    · split
      · rw [standing_endSparse, standing_writePtrs]
        exact (standing_writeSome _ _).trans h1
      · exact h1
    · exact h1
  rw [foldl_keeps standing _ fun _ _ => standing_modCore _ _ _ rfl rfl]
  exact (standing_modCluster _ _ _ rfl).trans h2
@[simp] theorem standing_discardOf (s : State) (g : Nat) (p : Nat → Bool) : standing (discardOf s g p) = standing s := by
  unfold discardOf; dsimp only
  rw [foldl_keeps standing _ fun _ _ => standing_modCore _ _ _ rfl rfl]
  exact standing_modCluster _ _ _ rfl
@[simp] theorem standing_wipe (s : State) (g : Nat) (b : Bool) (u : Nat) : standing (wipe s g b u) = standing s := by
  unfold wipe; dsimp only
  rw [standing_modCluster _ _ _ rfl]
  split
  · exact standing_modCluster _ _ _ rfl
  · unfold wipeSlot; exact standing_modCluster s g (fun G => cleanSlot G u) rfl
@[simp] theorem standing_unmap (s : State) (h : Nat) (b : Bool) (l : List Nat) : standing (unmap s h b l) = standing s := by
  unfold unmap; dsimp only
  rw [standing_modHart]
  exact foldl_keeps standing _ (fun _ _ => standing_wipe _ _ _ _) _ _
@[simp] theorem standing_unmapAll (s : State) (h : Nat) : standing (unmapAll s h) = standing s := by simp [unmapAll]
theorem endLease_isRetired (G : Cluster) : (endLease G).isRetired = G.isRetired := by unfold endLease; split <;> rfl
@[simp] theorem standing_dropMatrix (s : State) (c : Nat) : standing (dropMatrix s c) = standing s := by
  unfold dropMatrix; dsimp only
  rw [standing_modCluster, foldl_keeps standing _ fun _ _ => standing_unmapAll _ _, standing_discardOf]
  split
  · rw [endLease_isRetired]
  · rfl
@[simp] theorem standing_faultEndStart (s : State) (h : Nat) : standing (faultEndStart s h) = standing s := by
  unfold faultEndStart discardEngine releaseEngine; dsimp only
  rw [standing_modHart, standing_unmapAll, standing_dropSparseOf, standing_discardOf, bystander_standing.disarmHart, standing_modHart]

/-! The seal of a core. -/

@[simp] theorem standing_orphanAll (s : State) (c : Nat) : standing (orphanAll s c) = standing s := by
  have h1 (k : Nat) : ((orphanAll s c).core k).isSealed = (s.core k).isSealed := SMap.get_map_keeps Core.isSealed {} _ (by intro _; rfl) k s.cores
  have h2 (k : Nat) : ((orphanAll s c).core k).isRetired = (s.core k).isRetired := SMap.get_map_keeps Core.isRetired {} _ (by intro _; rfl) k s.cores
  have h3 (k : Nat) : ((orphanAll s c).die k).isFailed = (s.die k).isFailed := SMap.get_map_keeps Die.isFailed {} _ (by intro _; rfl) k s.dies
  simp only [standing, h1, h2, h3]
  rfl

/-- The standing once core c is sealed: each live launch is told. -/
def Standing.sealed (S : Standing) (c : Nat) : Standing :=
  { S with
    isSealed := fun k => decide (k = c) || S.isSealed k
    pkg := { S.pkg with launches := S.pkg.launches.map fun e =>
      (e.1, if e.2.contained.contains c then e.2 else { e.2 with contained := e.2.contained ++ [c] }) } }

theorem standing_mapLaunches (s : State) (b : Pkg → List Barrier) (f : Nat × Launch → Nat × Launch) :
    standing (s.modPkg fun P => { P with barriers := b P, launches := P.launches.map f }) =
      { standing s with pkg := { (standing s).pkg with launches := (standing s).pkg.launches.map f } } := rfl
theorem standing_sealed_of {s t : State} {c : Nat} (h : standing t = standing s) (f : Core → Core) (hs : ∀ C, (f C).isSealed = true)
    (hr : ∀ C, (f C).isRetired = C.isRetired) :
    standing (t.modCore c f) = { standing s with isSealed := fun k => decide (k = c) || (standing s).isSealed k } := by
  rw [← h]
  have h1 : ∀ k, ((t.modCore c f).core k).isSealed = (decide (k = c) || (t.core k).isSealed) := fun k => by
    rw [State.modCore_core]; split
    · next e => simp [e, hs]
    · next e => simp [e]
  have h2 : ∀ k, ((t.modCore c f).core k).isRetired = (t.core k).isRetired := fun k => by
    rw [State.modCore_core]; split
    · next e => rw [e, hr]
    · rfl
  simp [standing, h1, h2]

theorem standing_sealCore (s : State) (c : Nat) :
    standing (sealCore s c) = if (s.core c).isSealed then standing s else (standing s).sealed c := by
  unfold sealCore; dsimp only
  split
  · rfl
  · rw [bystander_standing.barrierCheck, standing_orphanAll]
    generalize hT : State.modCore _ c _ = T
    have h : standing T = { standing s with isSealed := fun k => decide (k = c) || (standing s).isSealed k } := by
      rw [← hT]
      refine standing_sealed_of ?_ _ (fun _ => rfl) fun _ => rfl
      rw [foldl_keeps standing _ fun _ _ => standing_modHart _ _ _, foldl_keeps standing _ fun _ _ => bystander_standing.loseCtx _ _ _,
        bystander_standing.loseResumes, foldl_keeps standing _ fun _ _ => bystander_standing.loseTask _ _, bystander_standing.dropCopies,
        dropSparse, standing_dropSparseOf, standing_dropMatrix, bystander_standing.refuseDeposits, bystander_standing.refuseWaiters]
    rw [standing_mapLaunches, standing_modCluster, h] <;> rfl

end Sys2Proof.Machine

namespace Sys2Proof.Machine
open Sys2Proof

/-! Seals and retirements only add to what is sealed, retired and recorded. -/

/-- What the package holds besides the units' own matters: barriers, ports, launches and the record of retirements. -/
def pkgConfig (P : Pkg) : Pkg := { P with barriers := [], ports := [], launches := [], nv := [] }

/-- t is s but for cores that are sealed, cores and clusters that are retired, and records of retirements, each of which t has
besides those of s. -/
structure Worn (s t : State) : Prop where
  isSealed : ∀ c, (s.core c).isSealed = true → (t.core c).isSealed = true
  coreRetired : ∀ c, (s.core c).isRetired = true → (t.core c).isRetired = true
  cluRetired : ∀ g, (s.cluster g).isRetired = true → (t.cluster g).isRetired = true
  dieFailed : ∀ d, (t.die d).isFailed = (s.die d).isFailed
  nv : ∀ e ∈ s.pkg.nv, e ∈ t.pkg.nv
  config : pkgConfig t.pkg = pkgConfig s.pkg

namespace Worn

theorem refl (s : State) : Worn s s := ⟨fun _ h => h, fun _ h => h, fun _ h => h, fun _ => rfl, fun _ h => h, rfl⟩
theorem trans {s t u : State} (h : Worn s t) (k : Worn t u) : Worn s u :=
  ⟨fun c e => k.isSealed c (h.isSealed c e), fun c e => k.coreRetired c (h.coreRetired c e), fun g e => k.cluRetired g (h.cluRetired g e),
    fun d => (k.dieFailed d).trans (h.dieFailed d), fun e he => k.nv e (h.nv e he), k.config.trans h.config⟩

end Worn

section
variable {s t : State} (h : standing t = standing s)
include h

theorem isSealed_of_standing (c : Nat) : (t.core c).isSealed = (s.core c).isSealed := congrFun (congrArg Standing.isSealed h) c
theorem coreRetired_of_standing (c : Nat) : (t.core c).isRetired = (s.core c).isRetired := congrFun (congrArg Standing.coreRetired h) c
theorem cluRetired_of_standing (c : Nat) : (t.cluster c).isRetired = (s.cluster c).isRetired := congrFun (congrArg Standing.cluRetired h) c
theorem dieFailed_of_standing (d : Nat) : (t.die d).isFailed = (s.die d).isFailed := congrFun (congrArg Standing.dieFailed h) d
/-- What the package holds besides barriers and ports. -/
theorem pkg_of_standing {α : Type} (f : Pkg → α) (hf : ∀ P, f P = f { P with barriers := [], ports := [] }) : f t.pkg = f s.pkg := by
  rw [hf, hf s.pkg]; exact congrArg (fun S => f S.pkg) h
theorem Worn.of_standing : Worn s t :=
  ⟨fun c e => (isSealed_of_standing h c).trans e, fun c e => (coreRetired_of_standing h c).trans e,
    fun g e => (cluRetired_of_standing h g).trans e, dieFailed_of_standing h,
    fun _ he => (pkg_of_standing h Pkg.nv fun _ => rfl) ▸ he, pkg_of_standing h pkgConfig fun _ => rfl⟩

end

/-- What every step of a fold adds to, the fold adds to. -/
theorem Worn.foldl {α : Type} (f : State → α → State) (h : ∀ s a, Worn s (f s a)) (l : List α) : ∀ s, Worn s (l.foldl f s) := by
  induction l with
  | nil => exact Worn.refl
  | cons a r ih => exact fun s => (h s a).trans (ih _)

theorem isSealed_sealCore (s : State) (c k : Nat) :
    ((sealCore s c).core k).isSealed = (decide (k = c) || (s.core k).isSealed) := by
  have h := congrFun (congrArg Standing.isSealed (standing_sealCore s c)) k
  split at h
  · next e =>
    refine h.trans ?_
    by_cases hk : k = c
    · subst hk; simp [standing, e]
    · simp [hk, standing]
  · exact h
theorem Worn.sealCore (s : State) (c : Nat) : Worn s (sealCore s c) := by
  have h := standing_sealCore s c
  split at h
  · exact Worn.of_standing h
  · exact ⟨fun k e => by rw [isSealed_sealCore, e, Bool.or_true],
      fun k e => (congrFun (congrArg Standing.coreRetired h) k).trans e,
      fun k e => (congrFun (congrArg Standing.cluRetired h) k).trans e,
      fun k => congrFun (congrArg Standing.dieFailed h) k,
      fun e he => (congrArg (fun S => S.pkg.nv) h : _ = s.pkg.nv) ▸ he,
      congrArg (fun S => pkgConfig S.pkg) h⟩
theorem Worn.record (s : State) (k u : Nat) : Worn s (record s k u) :=
  ⟨fun _ h => h, fun _ h => h, fun _ h => h, fun _ => rfl, fun e h => by
    unfold Machine.record; dsimp only [State.modPkg]; split
    · exact h
    · exact List.mem_append_left _ h, rfl⟩
theorem mem_nv_record (s : State) (k u : Nat) : (k, u) ∈ (record s k u).pkg.nv := by
  unfold Machine.record; dsimp only [State.modPkg]; split
  · next h => simpa using h
  · exact List.mem_append_right _ (List.mem_singleton.mpr rfl)

theorem Worn.modCore (s : State) (c : Nat) (f : Core → Core) (hs : (s.core c).isSealed = true → (f (s.core c)).isSealed = true)
    (hr : (s.core c).isRetired = true → (f (s.core c)).isRetired = true) : Worn s (s.modCore c f) :=
  ⟨fun k e => by
      rw [State.modCore_core]; split
      · next h => exact hs (h ▸ e)
      · exact e, fun k e => by
      rw [State.modCore_core]; split
      · next h => exact hr (h ▸ e)
      · exact e, fun _ h => h, fun _ => rfl, fun _ h => h, rfl⟩
theorem Worn.modCluster (s : State) (g : Nat) (f : Cluster → Cluster) (hr : (s.cluster g).isRetired = true → (f (s.cluster g)).isRetired = true) :
    Worn s (s.modCluster g f) :=
  ⟨fun _ h => h, fun _ h => h, fun k e => by
      rw [State.modCluster_cluster]; split
      · next h => exact hr (h ▸ e)
      · exact e, fun _ => rfl, fun _ h => h, rfl⟩

theorem Worn.retireCluster (s : State) (g : Nat) : Worn s (retireCluster s g) := by
  unfold Machine.retireCluster; dsimp only
  split
  · exact Worn.refl s
  · refine Worn.trans (Worn.foldl _ Worn.sealCore (coresOf g) s) (Worn.trans ?_ (Worn.of_standing (bystander_standing.barrierCheck _)))
    refine Worn.trans (Worn.trans (Worn.of_standing ?_) (Worn.record _ 2 g)) (Worn.modCluster _ g _ fun _ => rfl)
    rw [foldl_keeps standing _ fun s p => ?_, foldl_keeps standing _ fun s e => ?_, foldl_keeps standing _ fun s e => ?_]
    · split
      · rfl
      · exact bystander_standing.loseWork _ _ _ _ _ _ _ _
    · split
      · exact bystander_standing.sendDev _ _ _ _ _
      · rfl
    · split
      · exact bystander_standing.loseWork _ _ _ _ _ _ _ _
      · rfl
theorem Worn.clusterRule (s : State) (g : Nat) : Worn s (clusterRule s g) := by
  unfold Machine.clusterRule; split
  · exact Worn.retireCluster s g
  · exact Worn.refl s
theorem Worn.retireCore (s : State) (c : Nat) : Worn s (retireCore s c) :=
  (((Worn.sealCore s c).trans (Worn.modCore _ c _ id fun _ => rfl)).trans (Worn.record _ 1 c)).trans (Worn.clusterRule _ _)
theorem isRetired_retireCore (s : State) (c : Nat) : ((retireCore s c).core c).isRetired = true :=
  (Worn.clusterRule _ _).coreRetired c ((Worn.record _ 1 c).coreRetired c (by rw [State.modCore_core_same]))

/-- A contained core is sealed. -/
theorem isSealed_containCore (s : State) (c : Nat) : ((containCore s c).core c).isSealed = true := by
  have hm : ((State.modCore (sealCore s c) c fun C => { C with seals := C.seals + 1 }).core c).isSealed = true := by
    rw [State.modCore_core_same]; simp [isSealed_sealCore]
  unfold containCore; dsimp only
  split
  · assumption
  split
  · exact hm
  split
  · exact (Worn.retireCore _ c).isSealed c hm
  · exact hm
theorem isSealed_hardSeal (s : State) (c : Nat) : ((hardSeal s c).core c).isSealed = true := by
  unfold hardSeal; rw [State.modCore_core_same]; exact isSealed_containCore s c

end Sys2Proof.Machine

/-! Interrupts, the timer, registers and core windows. -/

namespace Sys2Proof
/-- What is left of a map when a key is taken off. -/
theorem SMap.mem_del {α : Type} (k : Nat) (e : Nat × α) : ∀ m : SMap α, e ∈ SMap.del m k ↔ e ∈ m ∧ e.1 ≠ k
  | [] => by simp [SMap.del]
  | (j, v) :: r => by
    have ih := SMap.mem_del k e r
    by_cases h : j = k
    · subst h
      simp only [SMap.del, if_true, ih, List.mem_cons]
      exact ⟨fun ⟨h, n⟩ => ⟨.inr h, n⟩, fun ⟨h, n⟩ => ⟨h.resolve_left fun q => n (q ▸ rfl), n⟩⟩
    · simp only [SMap.del, h, if_false, ih, List.mem_cons]
      exact ⟨fun q => q.elim (fun q => ⟨.inl q, q ▸ h⟩) fun ⟨q, n⟩ => ⟨.inr q, n⟩, fun ⟨q, n⟩ => q.imp id fun q => ⟨q, n⟩⟩
/-- What is left of a map when keys are taken off. -/
theorem SMap.mem_foldl_del {α : Type} (e : Nat × α) (l : List Nat) :
    ∀ m : SMap α, e ∈ l.foldl SMap.del m ↔ e ∈ m ∧ e.1 ∉ l := by
  induction l with
  | nil => simp
  | cons k r ih => intro m; rw [List.foldl_cons, ih, SMap.mem_del]; simp [and_assoc]
/-- A key that is taken off reads as the default, another as before. -/
theorem SMap.get_foldl_del {α : Type} (d : α) (k : Nat) (l : List Nat) :
    ∀ m : SMap α, SMap.get d (l.foldl SMap.del m) k = if k ∈ l then d else SMap.get d m k := by
  induction l with
  | nil => simp
  | cons j r ih =>
    intro m
    rw [List.foldl_cons, ih]
    by_cases hj : k = j
    · subst hj; simp
    · simp [hj, SMap.get_del_ne d m hj]
end Sys2Proof

namespace Sys2Proof.Machine
open Sys2Proof

/-! Interrupts at a boundary. -/

theorem exec_trapEntry (h : Nat) (s : State) : exec (.trapEntry h) s = execTrapEntry h s := rfl
theorem execTrapEntry_none {s : State} {h : Nat} (hd : dueInterrupt s h = none) : execTrapEntry h s = .next s := by
  simp [execTrapEntry, hd]
theorem execTrapEntry_some {s : State} {h n : Nat} (hd : dueInterrupt s h = some n) :
    execTrapEntry h s = .next (if atBoundary s h then takeInterrupt s h n else s) := by simp [execTrapEntry, hd]

/-- Withdrawing a request for the lease changes clusters only. -/
theorem withdrawLease_keeps {γ : Type} (g : State → γ) (hg : ∀ s n f, g (State.modCluster s n f) = g s) (s : State) (h : Nat) :
    g (withdrawLease s h) = g s := by
  unfold withdrawLease; dsimp only
  split
  · split
    · exact hg _ _ _
    · rfl
  · rfl

theorem repairRegs_flaws (l : List Nat) : ∀ H : Hart, (repairRegs H l).flaws = l.foldl SMap.del H.flaws := by
  induction l with
  | nil => intro H; rfl
  | cons k r ih => intro H; exact ih (repairReg H k)
/-- Once a hart's own state is repaired, what errors it stores are of its registers. -/
theorem interrupted_flaws (H : Hart) : ((interrupted H).flaws.all fun e => e.1 < 2048) = true := by
  have hf : (interrupted H).flaws = (repairOwn H).flaws := by unfold interrupted; dsimp only; split <;> rfl
  rw [hf, repairOwn, repairRegs_flaws, List.all_eq_true]
  intro e he
  obtain ⟨hm, hn⟩ := (SMap.mem_foldl_del e _ _).1 he
  by_contra hlt
  exact hn (List.mem_map_of_mem (List.mem_filter.2 ⟨hm, by simpa using hlt⟩))
/-- Where no error is stored, an interrupt leaves the hart at the word it goes on from: a VLOOP's own, between its passes. -/
theorem interrupted_of_sound {H : Hart} (h : ownFlaws H = []) {p : Word} (hv : ∀ w, H.vloop = some w → p = w.pc)
    (hn : H.vloop = none → p = H.pc) : interrupted H = { H with pc := p } := by
  have hr : repairOwn H = H := by rw [repairOwn, h]; rfl
  unfold interrupted
  rw [hr]
  dsimp only
  split
  · next w e => rw [hv w e]
  · next e => rw [hn e]

/-- What an interrupt does where no error of the hart's own state seals the core. -/
theorem takeInterrupt_hart {s : State} {h n : Nat} (hb : ownBroken (s.hart h) = false) :
    (takeInterrupt s h n).hart h = enterTrap (interrupted (s.hart h)) true n 0 := by
  unfold takeInterrupt
  rw [if_neg (by simp [hb]), takeTrap_hart, State.modHart_hart_same, withdrawLease_keeps (fun s => s.hart h) (fun _ _ _ => rfl)]
theorem takeInterrupt_frame {s : State} {h n : Nat} (hb : ownBroken (s.hart h) = false) :
    (∀ k, k ≠ h → (takeInterrupt s h n).hart k = s.hart k) ∧ (takeInterrupt s h n).mem = s.mem ∧
      (takeInterrupt s h n).net = s.net ∧ (takeInterrupt s h n).cores = s.cores := by
  unfold takeInterrupt
  rw [if_neg (by simp [hb])]
  refine ⟨fun k hk => ?_, withdrawLease_keeps State.mem (fun _ _ _ => rfl) s h, withdrawLease_keeps State.net (fun _ _ _ => rfl) s h,
    withdrawLease_keeps State.cores (fun _ _ _ => rfl) s h⟩
  rw [takeTrap_hart_ne _ _ _ _ hk, State.modHart_hart_ne _ _ _ hk]
  exact withdrawLease_keeps (fun s => s.hart k) (fun _ _ _ => rfl) s h
theorem takeInterrupt_broken {s : State} {h n : Nat} (hb : ownBroken (s.hart h) = true) :
    ((takeInterrupt s h n).core (coreOf h)).isSealed = true := by
  unfold takeInterrupt; rw [if_pos hb]; exact isSealed_hardSeal s _

/-- R104: SRI before MAI before LTI. -/
theorem dueInterrupt_order (s : State) (h : Nat) :
    (intrDue s h 18 = true → dueInterrupt s h = some 18) ∧
    (intrDue s h 18 = false → intrDue s h 16 = true → dueInterrupt s h = some 16) ∧
    (intrDue s h 18 = false → intrDue s h 16 = false → intrDue s h 17 = true → dueInterrupt s h = some 17) := by
  refine ⟨fun a => ?_, fun a b => ?_, fun a b c => ?_⟩ <;> simp [dueInterrupt, List.find?, *]

/-! The timer. -/

theorem landCv_stimecmp (l : List CvPend) : ∀ H : Hart, (landCv l H).csr.stimecmp = H.csr.stimecmp := by
  induction l with
  | nil => intro H; rfl
  | cons p r ih => intro H; exact ih _
theorem advance_core (s : State) (c t k : Nat) :
    (advance s c t).core k = if k = c then { s.core c with cycle := max (s.core c).cycle t } else s.core k := by
  unfold advance; dsimp only
  rw [foldl_keeps (fun s => s.core k) _ fun s h => by split <;> rfl, State.modCore_core]
theorem advance_stimecmp (s : State) (c t h : Nat) : ((advance s c t).hart h).csr.stimecmp = (s.hart h).csr.stimecmp := by
  unfold advance; dsimp only
  refine foldl_keeps (fun s => (s.hart h).csr.stimecmp) _ (fun s k => ?_) _ _
  split
  · rfl
  · rw [State.modHart_hart]; split
    · next e => rw [e]; exact landCv_stimecmp _ _
    · rfl
theorem exec_localTimer (h : Nat) (s : State) : exec (.localTimer h) s =
    .next (if (s.core (coreOf h)).isSealed || decide ((s.hart h).csr.stimecmp.toNat + 1 = 2 ^ 64) then s
      else advance s (coreOf h) ((s.hart h).csr.stimecmp.toNat + 1)) := rfl
theorem toNat_succ_eq_iff (v : Word) : v.toNat + 1 = 2 ^ 64 ↔ v = -1 := by
  rw [← BitVec.toNat_inj, show (-1 : Word).toNat = 2 ^ 64 - 1 from rfl]; omega
/-- R110: the count passes the comparand and LTIP is set. -/
theorem localTimer_passes {s : State} {h : Nat} (hs : (s.core (coreOf h)).isSealed = false) (ht : (s.hart h).csr.stimecmp ≠ -1) :
    ∃ t, exec (.localTimer h) s = .next t ∧ ltip t h = true ∧ t = advance s (coreOf h) ((s.hart h).csr.stimecmp.toNat + 1) ∧
      (t.core (coreOf h)).cycle = max (s.core (coreOf h)).cycle ((s.hart h).csr.stimecmp.toNat + 1) := by
  refine ⟨_, (exec_localTimer h s).trans ?_, ?_, rfl, ?_⟩
  · rw [hs, decide_eq_false (mt (toNat_succ_eq_iff _).1 ht), Bool.or_false, if_neg Bool.false_ne_true]
  · simp only [ltip, advance_stimecmp, advance_core, if_true, decide_eq_true_eq]; omega
  · rw [advance_core, if_pos rfl]
theorem localTimer_rests {s : State} {h : Nat} (hs : (s.core (coreOf h)).isSealed = true ∨ (s.hart h).csr.stimecmp = -1) :
    exec (.localTimer h) s = .next s := by
  rw [exec_localTimer, if_pos]
  rcases hs with hs | hs
  · rw [hs, Bool.true_or]
  · rw [decide_eq_true ((toNat_succ_eq_iff _).2 hs), Bool.or_true]
theorem stimecmpWrite_hart (s : State) (h : Nat) (v : Word) : ∃ t, exec (.stimecmpWrite h v) s = .next t ∧
    Spec.OnlyHart s t h { s.hart h with csr := { (s.hart h).csr with stimecmp := v } } ∧
    (ltip t h = true ↔ v.toNat < (s.core (coreOf h)).cycle) := by
  refine ⟨_, rfl, rfl, ?_⟩
  show ltip (modCsr s h fun C => { C with stimecmp := v }) h = true ↔ _
  simp [ltip, modCsr]

/-! Registers that the saffron controller writes. -/

theorem csrWrite_lfsr (s : State) (h : Nat) (v : Word) :
    csrWrite s h 0x802 v = s.modHart h fun H => { H with lfsr := if Spec.low v = 0 then 1 else Spec.low v } := rfl
theorem cvamaxKeep_eq (v : Word) : cvamaxKeep v = BitVec.ofNat 32 (min (v.toNat % 2 ^ 31) 0x7F800000) := by
  unfold cvamaxKeep; dsimp only; congr 1; split <;> omega
theorem exec_cvamaxAccess (h : Nat) (n : BitVec 12) (w : Option Word) (s : State) :
    exec (.cvamaxAccess h n w) s = execCvamaxAccess h n w s := rfl
/-- cvamax, cvamax_flags and srseed are the CSRs of CVAMAX_ACCESS. -/
theorem execCvamaxAccess_eq {n : BitVec 12} (hn : n ∈ [0x800, 0x801, 0x802#12]) (s : State) (h : Nat) (w : Option Word) :
    execCvamaxAccess h n w s = if csrWaits s h n.toNat then .next (passTime s (coreOf h)) else
      .next (w.elim (latched s (.inr (csrRead s h n.toNat))) (csrWrite s h n.toNat)) := by
  have hr : (!decide (0x800 ≤ n.toNat ∧ n.toNat ≤ 0x802)) = false := by
    simp only [List.mem_cons, List.not_mem_nil, or_false] at hn
    rcases hn with rfl | rfl | rfl <;> rfl
  unfold execCvamaxAccess; dsimp only
  rw [hr]
  cases w <;> rfl
/-- R164: what a write to one of them leaves. -/
theorem csrWrite_cvamax {n : BitVec 12} (hn : n ∈ [0x800, 0x801, 0x802#12]) (s : State) (h : Nat) (v : Word) :
    csrWrite s h n.toNat v = s.modHart h fun H =>
      if n = 0x800 then { H with csr := { H.csr with cvamax := BitVec.ofNat 32 (min (v.toNat % 2 ^ 31) 0x7F800000) } }
      else if n = 0x801 then { H with csr := { H.csr with cvflags := BitVec.ofNat 3 v.toNat } }
      else { H with lfsr := if Spec.low v = 0 then 1 else Spec.low v } := by
  simp only [List.mem_cons, List.not_mem_nil, or_false] at hn
  rcases hn with rfl | rfl | rfl
  · simp only [if_true]
    rw [← cvamaxKeep_eq]; rfl
  · rfl
  · rfl

/-! REGISTER_WRITE and the core window. -/

theorem exec_registerWrite (h : Nat) (n : BitVec 12) (v : Word) (s : State) :
    exec (.registerWrite h n v) s = execRegisterWrite h n v s := rfl
/-- A register of a hart. -/
theorem execRegisterWrite_hart {h : Nat} (hh : h ≠ 65535) (n : BitVec 12) (v : Word) (s : State) :
    execRegisterWrite h n v s = .next (if !csrPresent n.toNat || csrReadOnly n.toNat then s
      else if csrWaits s h n.toNat then passTime s (coreOf h) else csrWrite s h n.toNat v) := if_neg hh
/-- A register of BAR0. -/
theorem execRegisterWrite_bar (n : BitVec 12) (v : Word) (s : State) :
    execRegisterWrite 65535 n v s = .next (barWrite s n.toNat v) := by
  unfold execRegisterWrite; exact if_pos rfl

theorem exec_windowCsrAccess (c a : Nat) (w : Option Word) (s : State) :
    exec (.windowCsrAccess c a w) s = execWindowCsrAccess c a w s := rfl
theorem execWindowCsrAccess_misaligned {k : Nat} (hk : k % 8 ≠ 0) (c : Nat) (w : Option Word) (s : State) :
    execWindowCsrAccess c k w s = .next (latched s (.inl (if w.isSome then 6 else 4))) := if_pos hk
/-- R28: register n of block i stands at 0x20000 + 0x8000 i + 8 n of the window. -/
theorem execWindowCsrAccess_at {n : Nat} (hn : n < 4096) (c i : Nat) (w : Option Word) (s : State) :
    execWindowCsrAccess c (0x20000 + 0x8000 * i + 8 * n) w s =
      if blockHas c i n w.isSome = false then .next (latched s (.inl (if w.isSome then 7 else 5)))
      else if coreGone s c then .next (latched s (.inl 56))
      else if csrWaits s (hartAt c i) n then .next (passTime s c)
      else .next (w.elim (latched s (.inr (csrRead s (hartAt c i) n))) (csrWrite s (hartAt c i) n)) := by
  have h8 : (0x20000 + 0x8000 * i + 8 * n) % 8 = 0 := by omega
  have hi : (0x20000 + 0x8000 * i + 8 * n - 0x20000) / 0x8000 = i := by omega
  have hnn : (0x20000 + 0x8000 * i + 8 * n) % 0x8000 / 8 = n := by omega
  have hlt : decide (0x20000 + 0x8000 * i + 8 * n < 0x20000) = false := decide_eq_false (by omega)
  unfold execWindowCsrAccess; dsimp only
  rw [if_neg (not_not.2 h8), hi, hnn, hlt, Bool.false_or]
  cases w <;> simp only [Bool.not_eq_true', Option.elim]

/-! A write to code through the window. -/

theorem exec_windowImemWrite (c off : Nat) (l : List Byte) (s : State) :
    exec (.windowImemWrite c off l) s = execWindowImemWrite c off l s := rfl
theorem windowCode_eq (c : Nat) : windowCode c = if c < 8192 then 0x8000 else 0x10000 := by simp [windowCode, isWorker]
theorem execWindowImemWrite_misaligned {off : Nat} {l : List Byte} (h : l.length ∉ [1, 2, 4, 8] ∨ off % l.length ≠ 0) (c : Nat) (s : State) :
    execWindowImemWrite c off l s = .next (latched s (.inl 6)) := by
  unfold execWindowImemWrite; dsimp only
  rw [if_pos]
  simpa [or_comm] using h
theorem execWindowImemWrite_aligned {off : Nat} {l : List Byte} (hn : l.length ∈ [1, 2, 4, 8]) (ho : off % l.length = 0) (c : Nat) (s : State) :
    execWindowImemWrite c off l s = if windowCode c < off + l.length then .next (latched s (.inl 7))
      else if coreGone s c then .next (latched s (.inl 56)) else .next (store s none (windowLoc c off) l false) := by
  unfold execWindowImemWrite; dsimp only
  rw [if_neg]
  simp [ho, hn]

/-- The window shows a core's code at its code location. -/
theorem windowLoc_eq_codeLoc (c off : Nat) : windowLoc c off = codeLoc c 0 + off := by
  unfold windowLoc codeLoc
  by_cases h : c < 8192 <;> simp [isWorker, h]
/-- A code byte belongs to its core, and to the word it lies in. -/
theorem codeIndex_codeLoc {c off : Nat} (hc : c < 8704) (ho : off < if c < 8192 then 0x8000 else 0x10000) :
    coreOfLoc (codeLoc c 0 + off) = c ∧ codeIndex (codeLoc c 0 + off) = some (off / 4) ∧ (codeLoc c 0 + off) % 4 = off % 4 := by
  by_cases h : c < 8192
  · rw [if_pos h] at ho
    have hl : codeLoc c 0 + off = 2 ^ 63 + c / 1024 * 2 ^ 45 + c / 16 % 64 * 2 ^ 39 + c % 16 * 2 ^ 34 + 2 ^ 33 + off := by
      simp only [codeLoc, winBase, padBase, if_pos h]; omega
    have hcore : coreOfLoc (codeLoc c 0 + off) = c := by
      rw [hl]; unfold coreOfLoc; dsimp only; rw [if_neg (by omega)]; omega
    refine ⟨hcore, ?_, by rw [hl]; omega⟩
    have hpad : isPadLoc (codeLoc c 0 + off) = true := by
      rw [hl]; simp only [isPadLoc, Bool.and_eq_true, decide_eq_true_eq]; omega
    have hwin : isWindowLoc (codeLoc c 0 + off) = true := by
      rw [hl]; simp only [isWindowLoc, beq_iff_eq]; omega
    have hmod : (codeLoc c 0 + off) % 2 ^ 20 = off := by rw [hl]; omega
    unfold codeIndex
    rw [hpad, hcore, hwin, hmod]
    simp [isWorker, h, ho]
  · rw [if_neg h] at ho
    have hl : codeLoc c 0 + off = 2 ^ 63 + (c - 8192) / 64 * 2 ^ 45 + (c - 8192) % 64 * 2 ^ 39 + 16 * 2 ^ 34 + off := by
      simp only [codeLoc, padBase, if_neg h]; omega
    have hcore : coreOfLoc (codeLoc c 0 + off) = c := by
      rw [hl]; unfold coreOfLoc; dsimp only; rw [if_pos (by omega)]; omega
    refine ⟨hcore, ?_, by rw [hl]; omega⟩
    have hpad : isPadLoc (codeLoc c 0 + off) = true := by
      rw [hl]; simp only [isPadLoc, Bool.and_eq_true, decide_eq_true_eq]; omega
    have hwin : isWindowLoc (codeLoc c 0 + off) = false := by
      rw [hl]; simp only [isWindowLoc, beq_eq_false_iff_ne]; omega
    have hmod : (codeLoc c 0 + off) % 2 ^ 17 = off := by rw [hl]; omega
    unfold codeIndex
    rw [hpad, hcore, hwin, hmod]
    simp [isWorker, h]

/-- The code words a write of n bytes at code byte off touches. -/
theorem mem_codeWords (off n i : Nat) :
    i ∈ (List.range ((off % 4 + n + 3) / 4)).map (fun k => off / 4 + k) ↔ off / 4 ≤ i ∧ 4 * i < off + n := by
  simp only [List.mem_map, List.mem_range]
  constructor
  · rintro ⟨k, hk, rfl⟩; omega
  · rintro ⟨h1, h2⟩; exact ⟨i - off / 4, by omega, by omega⟩

/-- Error handling, poison and reservations leave the executable words. -/
theorem rowFix_exec (s : State) (c k : Nat) (f : RowFix) : ((rowFix s c f).core k).exec = (s.core k).exec := by
  have hmod : ∀ g : Core → Core, (g (s.core c)).exec = (s.core c).exec → ((s.modCore c g).core k).exec = (s.core k).exec := fun g hg => by
    rw [State.modCore_core]; split
    · next e => rw [e, hg]
    · rfl
  cases f with
  | corrected r => exact hmod (fun C => { C with ce := min 255 (C.ce + 1), flaws := SMap.del C.flaws r }) rfl
  | reported r => rfl
  | gone r => exact hmod (fun C => { C with flaws := SMap.del C.flaws r }) rfl
  | poisoned n => rfl
theorem scrub_exec (s : State) (l n k : Nat) (w : Bool) : ((scrub s l n w).core k).exec = (s.core k).exec := by
  unfold scrub; split
  · exact foldl_keeps (fun s => (s.core k).exec) _ (fun _ _ => foldl_keeps (fun s => (s.core k).exec) _ (fun _ _ => rowFix_exec _ _ _ _) _ _) _ _
  · rfl
theorem poisonWrite_core (s : State) (l n k : Nat) (p : Bool) : (poisonWrite s l n p).core k = s.core k := by
  unfold poisonWrite; repeat' split
  · rfl
  · exact foldl_keeps (fun s => s.core k) _ (fun s _ => foldl_keeps (fun s => s.core k) (fun s g => s.setPoi g _) (fun _ _ => rfl) _ s) _ _
  · exact foldl_keeps (fun s => s.core k) _ (fun _ _ => by unfold poisonPad; split <;> rfl) _ _
theorem loseResv_core (s : State) (w : Option Nat) (l n k : Nat) : (loseResv s w l n).core k = s.core k := by
  unfold loseResv; split
  · refine foldl_keeps (fun s => s.core k) _ (fun _ _ => ?_) _ _
    repeat' split
    all_goals rfl
  · rfl
/-- R27, R30: the words that a store to code touches, and no others, are no longer executable. -/
theorem store_exec (s : State) (w : Option Nat) {c off : Nat} (l : List Byte) (p : Bool) (hc : c < 8704)
    (ho : off < if c < 8192 then 0x8000 else 0x10000) (i : Nat) :
    SMap.get false ((store s w (codeLoc c 0 + off) l p).core c).exec i =
      if off / 4 ≤ i ∧ 4 * i < off + l.length then false else SMap.get false (s.core c).exec i := by
  obtain ⟨hcore, hidx, hmod⟩ := codeIndex_codeLoc hc ho
  unfold store dirtyCode; dsimp only
  rw [hidx, hcore, hmod]
  dsimp only
  rw [State.modCore_core, if_pos rfl]
  dsimp only
  rw [SMap.get_foldl_del, loseResv_core, poisonWrite_core]
  simp only [mem_codeWords]
  split
  · rfl
  · exact congrArg (fun m => SMap.get false m i) (scrub_exec s _ _ c true)

/-- Settles O45, clause by clause: an interrupt is due or not and finds the hart's own state sound or broken; the accesses go by the
form of their address. -/
theorem registerSteps : Obligations.RegisterSteps := by
  intro s h v
  have hsound : ownFlaws (s.hart h) = [] → ownBroken (s.hart h) = false := fun hf => by rw [ownBroken, hf]; rfl
  obtain ⟨hsri, hmai, hlti⟩ := dueInterrupt_order s h
  refine ⟨fun hd => (exec_trapEntry h s).trans (execTrapEntry_none hd), fun n hd => ⟨fun ha => ?_, fun ha hf => ?_, fun ha hb => ?_, fun ha hb => ?_⟩,
    hsri, hmai, hlti, localTimer_passes, localTimer_rests, stimecmpWrite_hart s h v, ⟨_, rfl, csrWrite_lfsr s h v⟩, fun n hn => ⟨fun hw w => ?_, fun hw => ?_⟩,
    fun n hh => ?_, (exec_registerWrite _ _ _ _).trans (execRegisterWrite_bar _ _ _), (exec_registerWrite _ _ _ _).trans (execRegisterWrite_bar _ _ _),
    fun n hn => ?_, fun c i n wr hn => ?_, fun c off l => ?_⟩
  · rw [exec_trapEntry, execTrapEntry_some hd, ha, if_neg Bool.false_ne_true]
  · rw [exec_trapEntry, execTrapEntry_some hd, if_pos ha]
    obtain ⟨hk, hmem, hnet, hcores⟩ := takeInterrupt_frame (n := n) (hsound hf)
    exact ⟨_, rfl, (takeInterrupt_hart (hsound hf)).trans
      (congrArg (enterTrap · true n 0) (interrupted_of_sound hf (fun w e => by rw [e]) fun e => by rw [e])), hk, hmem, hnet, hcores⟩
  · rw [exec_trapEntry, execTrapEntry_some hd, if_pos ha]
    exact ⟨_, rfl, takeInterrupt_hart hb, interrupted_flaws _⟩
  · rw [exec_trapEntry, execTrapEntry_some hd, if_pos ha]
    exact ⟨_, rfl, takeInterrupt_broken hb⟩
  · rw [exec_cvamaxAccess, execCvamaxAccess_eq hn, if_pos hw]
  · rw [exec_cvamaxAccess, exec_cvamaxAccess, execCvamaxAccess_eq hn, execCvamaxAccess_eq hn, hw, if_neg Bool.false_ne_true, if_neg Bool.false_ne_true]
    exact ⟨rfl, congrArg _ (csrWrite_cvamax hn s h v)⟩
  · rw [exec_registerWrite, execRegisterWrite_hart hh]
    refine ⟨fun hp hr hw => ?_, fun hp hr hw => ?_, fun hx => ?_⟩
    · simp [hp, hr, hw]
    · simp [hp, hr, hw]
    · rcases hx with hx | hx <;> simp [hx]
  · rw [exec_registerWrite, execRegisterWrite_bar]
    simp only [List.mem_cons, List.not_mem_nil, or_false] at hn
    rcases hn with rfl | rfl | rfl <;> rfl
  · dsimp only
    refine ⟨fun k hk => (exec_windowCsrAccess _ _ _ _).trans (execWindowCsrAccess_misaligned hk _ _ _), ?_, ?_⟩ <;>
      rw [exec_windowCsrAccess, execWindowCsrAccess_at hn]
    · exact fun hb => if_pos hb
    · intro hb
      rw [if_neg (by simp [hb])]
      refine ⟨fun hg => if_pos hg, fun hg hw => ?_, fun hg hw => ?_⟩ <;> rw [hg, hw, if_neg Bool.false_ne_true]
      · rfl
      · exact ⟨fun e => by subst e; rfl, fun w e => by subst e; rfl⟩
  · dsimp only
    refine ⟨fun hx => (exec_windowImemWrite _ _ _ _).trans (execWindowImemWrite_misaligned hx _ _), ?_⟩
    rw [exec_windowImemWrite, ← windowCode_eq]
    refine ⟨fun hn ho hsz => ?_, fun hn ho hsz hg => ?_, fun hn ho hsz hg hc => ?_⟩ <;> rw [execWindowImemWrite_aligned hn ho]
    · exact if_pos hsz
    · rw [if_neg (by omega), if_pos hg]; rfl
    · have hlen : 0 < l.length := List.length_pos_iff.2 fun e => by simp [e] at hn
      have hoff : off < if c < 8192 then 0x8000 else 0x10000 := by rw [← windowCode_eq]; omega
      rw [if_neg (by omega), hg, if_neg Bool.false_ne_true, windowLoc_eq_codeLoc]
      refine ⟨_, rfl, store_mem _ _ _ _ _, fun i h1 h2 => ?_, fun i hi => ?_⟩ <;> rw [store_exec s none l false hc hoff]
      · rw [if_pos ⟨h1, h2⟩]
      · rw [if_neg (by omega)]

end Sys2Proof.Machine

/-! The host's commands: answers, process slots and host work rings. -/

namespace Sys2Proof

theorem SMap.find?_eq_none_of_del {α : Type} (k : Nat) : ∀ m : SMap α, SMap.find? (SMap.del m k) k = none
  | [] => rfl
  | (j, v) :: r => by
    by_cases h : j = k
    · simp [SMap.del, h, SMap.find?_eq_none_of_del k r]
    · simp [SMap.del, SMap.find?, h, SMap.find?_eq_none_of_del k r]

/-- The first number of a range that a test picks. -/
theorem find?_range_eq {n k : Nat} {p : Nat → Bool} (hk : k < n) (hp : p k = true) (hlt : ∀ j, j < k → p j = false) :
    (List.range n).find? p = some k := by
  rw [List.find?_range_eq_some]
  exact ⟨hp, List.mem_range.2 hk, fun j hj => by simp [hlt j hj]⟩

end Sys2Proof

namespace Sys2Proof.Machine
open Sys2Proof

/-- What a fold's step for each element of a list brings about and every other step keeps holds at the end, with an invariant of
the steps. -/
theorem foldl_settles {I : State → Prop} {P : Nat → State → Prop} {f : State → Nat → State} {l : List Nat}
    (hI : ∀ s, ∀ k ∈ l, I s → I (f s k)) (hP : ∀ s, ∀ k ∈ l, I s → P k (f s k))
    (hk : ∀ s, ∀ j ∈ l, ∀ k, j ≠ k → I s → P k s → P k (f s j)) :
    ∀ s, I s → I (l.foldl f s) ∧ ∀ k, k ∈ l ∨ P k s → P k (l.foldl f s) := by
  induction l with
  | nil => exact fun s hs => ⟨hs, fun k h => h.resolve_left List.not_mem_nil⟩
  | cons j r ih =>
    intro s hs
    obtain ⟨h1, h2⟩ := ih (fun s k hr => hI s k (List.mem_cons_of_mem j hr)) (fun s k hr => hP s k (List.mem_cons_of_mem j hr))
      (fun s i hr => hk s i (List.mem_cons_of_mem j hr)) (f s j) (hI s j List.mem_cons_self hs)
    refine ⟨h1, fun k h => h2 k ?_⟩
    by_cases hj : j = k
    · exact .inr (hj ▸ hP s j List.mem_cons_self hs)
    · rcases h with h | h
      · exact .inl ((List.mem_cons.1 h).resolve_left (Ne.symm hj))
      · exact .inr (hk s j List.mem_cons_self k hj hs h)

/-! Answers. -/

theorem flushResponses_noRing {s : State} (h : s.pkg.rspRing = 0) (l : List (List Byte)) :
    flushResponses l s = s.modPkg fun P => { P with responses := l } := by
  cases l with
  | nil => rfl
  | cons r rest =>
    have hp : pushResponse s r = none := by
      unfold pushResponse; dsimp only; rw [h]; rfl
    simp only [flushResponses, hp]
/-- Without a response ring a response waits in the package (R415). -/
theorem respond_eq_answered {s : State} (h : s.pkg.rspRing = 0) (tag st : Nat) (res : List Nat) :
    respond s tag st res = Spec.answered s tag st res := flushResponses_noRing h _
theorem closeCmd_now {tag : Nat} {A : Answer} (hl : A.later = false) (h : A.st.pkg.rspRing = 0) :
    closeCmd tag A = Spec.answered A.st tag A.status A.results := by
  unfold closeCmd; rw [hl, if_neg Bool.false_ne_true, respond_eq_answered h]

/-! R417: ATTACH. -/

theorem exec_attach (tag pasid mode root : Nat) (s : State) :
    exec (.attach tag pasid mode root) s = .next (closeCmd tag (cmdAttach s pasid mode root)) := rfl
theorem cmdAttach_bad {s : State} {pasid mode : Nat} (root : Nat)
    (h : 2 ^ 20 ≤ pasid ∨ 3 < mode ∨ ∃ e ∈ s.pkg.procs, e.2.pasid = pasid) : cmdAttach s pasid mode root = { st := s, status := 1 } := by
  unfold cmdAttach
  by_cases h1 : 2 ^ 20 ≤ pasid ∨ 3 < mode
  · rw [if_pos h1]; rfl
  · obtain ⟨e, he, hp⟩ : ∃ e ∈ s.pkg.procs, e.2.pasid = pasid := by tauto
    rw [if_neg h1, if_pos]
    · rfl
    · exact List.any_eq_true.2 ⟨e, he, beq_iff_eq.2 hp⟩
theorem cmdAttach_good {s : State} {pasid mode : Nat} (root : Nat) (h1 : pasid < 2 ^ 20) (h2 : mode ≤ 3)
    (h3 : ∀ e ∈ s.pkg.procs, e.2.pasid ≠ pasid) : cmdAttach s pasid mode root =
      ((List.range 1024).find? fun k => (SMap.find? s.pkg.procs k).isNone).elim { st := s, status := 2 } fun k =>
        { st := s.modPkg fun P => { P with procs := SMap.put P.procs k { pasid := pasid, mode := mode, root := root } }
          status := 0, results := [k] } := by
  have hf : (s.pkg.procs.any fun e => e.2.pasid == pasid) = false := by
    rw [List.any_eq_false]; exact fun e he => by simpa using h3 e he
  unfold cmdAttach
  rw [if_neg (by omega), if_neg fun h => Bool.false_ne_true (hf.symm.trans h)]
  cases (List.range 1024).find? fun k => (SMap.find? s.pkg.procs k).isNone <;> rfl

/-! R418: DETACH. -/

theorem exec_detach (tag slot : Nat) (s : State) : exec (.detach tag slot) s = .next (closeCmd tag (cmdDetach s slot)) := rfl
theorem slotLaunched_iff (s : State) (slot : Nat) : slotLaunched s slot = true ↔ ∃ e ∈ s.pkg.launches, e.2.trec.slot = slot := by
  simp [slotLaunched]
theorem slotBound_iff (s : State) (slot : Nat) : (s.pkg.rings.any fun e => e.2.2 == slot) = true ↔ ∃ e ∈ s.pkg.rings, e.2.2 = slot := by
  simp
/-- What a die parks and asks for is all of it that a refusal of a page changes. -/
theorem refusePage_keeps {γ : Type} {g : State → γ} (a : Bystander g)
    (hd : ∀ s d (P : Die → List (Nat × Packet)) (A : Die → List ((Nat × Nat) × Nat × Nat)),
      g (State.modDie s d fun D => { D with parked := P D, asks := A D }) = g s) (s : State) (d slot page : Nat) :
    g (refusePage s d slot page) = g s := by
  unfold refusePage; dsimp only
  rw [foldl_keeps g _ fun s e => by rw [a.failPkt, a.net], foldl_keeps g _ fun s e => a.modCluster _ _ _ rfl]
  exact hd _ _ (fun D : Die => D.parked.filter fun e => !ofPage slot page e) fun D : Die => D.asks.filter fun x => x.1 != (slot, page)
theorem detachDie_keeps {γ : Type} {g : State → γ} (a : Bystander g)
    (hd : ∀ s d (f : Die → Die), (∀ D, (f D).isFailed = D.isFailed) → g (State.modDie s d f) = g s) (slot : Nat) (s : State) (d : Nat) :
    g (detachDie slot s d) = g s := by
  unfold detachDie; dsimp only
  rw [hd]
  · exact foldl_keeps g _ (fun s p => refusePage_keeps a (fun s d P A => hd s d _ fun _ => rfl) s d slot p) _ _
  · exact fun _ => rfl
/-- R418: a die drops the translations of the slot. -/
theorem detachDie_tlb (slot : Nat) (s : State) (d k : Nat) :
    ((detachDie slot s d).die k).tlb = if k = d then (s.die k).tlb.filter fun t => t.slot != slot else (s.die k).tlb := by
  have a : Bystander fun s => (s.die k).tlb :=
    ⟨fun _ _ _ => rfl, fun _ _ _ _ _ => rfl, fun _ _ _ _ => rfl, fun _ _ _ _ _ => rfl, fun _ _ => rfl⟩
  have hk : ∀ l : List Nat, ∀ u, ((l.foldl (fun s p => refusePage s d slot p) u).die k).tlb = (u.die k).tlb := fun l =>
    foldl_keeps (fun s => (s.die k).tlb) _ (fun s p => refusePage_keeps a (fun s j P A => by
      rw [State.modDie_die]; split
      · next e => rw [e]
      · rfl) s d slot p) l
  unfold detachDie; dsimp only
  rw [State.modDie_die]
  split
  · next e => subst e; dsimp only; rw [hk]
  · exact hk _ _
theorem cmdDetach_dead {s : State} {slot : Nat} (h : SMap.find? s.pkg.procs slot = none) : cmdDetach s slot = { st := s, status := 1 } := by
  unfold cmdDetach; rw [h]; rfl
theorem cmdDetach_busy {s : State} {slot : Nat} (h : SMap.find? s.pkg.procs slot ≠ none)
    (hb : (∃ e ∈ s.pkg.launches, e.2.trec.slot = slot) ∨ (∃ e ∈ s.pkg.rings, e.2.2 = slot)) : cmdDetach s slot = { st := s, status := 3 } := by
  unfold cmdDetach
  rw [if_neg (by simpa using h), if_pos]
  · rfl
  · rw [Bool.or_eq_true]; exact hb.imp (slotLaunched_iff s slot).2 (slotBound_iff s slot).2
theorem cmdDetach_idle {s : State} {slot : Nat} (h : SMap.find? s.pkg.procs slot ≠ none) (hl : ∀ e ∈ s.pkg.launches, e.2.trec.slot ≠ slot)
    (hr : ∀ e ∈ s.pkg.rings, e.2.2 ≠ slot) : cmdDetach s slot =
      { st := ((List.range 8).foldl (detachDie slot) s).modPkg fun P => { P with procs := SMap.del P.procs slot }, status := 0 } := by
  unfold cmdDetach
  rw [if_neg (by simpa using h), if_neg]
  · rfl
  · rw [Bool.or_eq_true]
    rintro (hb | hb)
    · obtain ⟨e, he, hs⟩ := (slotLaunched_iff s slot).1 hb; exact hl e he hs
    · obtain ⟨e, he, hs⟩ := (slotBound_iff s slot).1 hb; exact hr e he hs
theorem detachDies_tlb (slot : Nat) (s : State) {d : Nat} (hd : d < 8) :
    ∀ e ∈ (((List.range 8).foldl (detachDie slot) s).die d).tlb, e.slot ≠ slot :=
  (foldl_settles (I := fun _ => True) (P := fun d s => ∀ e ∈ (s.die d).tlb, e.slot ≠ slot) (fun _ _ _ _ => trivial)
    (fun s k _ _ e he => by rw [detachDie_tlb, if_pos rfl] at he; simpa using (List.mem_filter.1 he).2)
    (fun s j _ k hj _ hk e he => by rw [detachDie_tlb, if_neg (Ne.symm hj)] at he; exact hk e he) s trivial).2 d (.inl (List.mem_range.2 hd))
theorem detachDies_standing (slot : Nat) (s : State) : standing ((List.range 8).foldl (detachDie slot) s) = standing s :=
  foldl_keeps standing _ (detachDie_keeps bystander_standing (fun s d f h => standing_modDie s d f (h _)) slot) _ s
theorem detachDies_mem (slot : Nat) (s : State) : ((List.range 8).foldl (detachDie slot) s).mem = s.mem :=
  foldl_keeps State.mem _ (detachDie_keeps bystander_mem (fun _ _ _ _ => rfl) slot) _ s
/-- R418: what a DETACH that is carried out leaves. -/
theorem detach_idle {s : State} (tag : Nat) {slot : Nat} (h0 : s.pkg.rspRing = 0) (h : SMap.find? s.pkg.procs slot ≠ none)
    (hl : ∀ e ∈ s.pkg.launches, e.2.trec.slot ≠ slot) (hr : ∀ e ∈ s.pkg.rings, e.2.2 ≠ slot) :
    ∃ t, exec (.detach tag slot) s = .next t ∧ SMap.find? t.pkg.procs slot = none ∧
      t.pkg.responses = s.pkg.responses ++ [responseBytes tag 0 []] ∧ t.mem = s.mem ∧ ∀ d, d < 8 → ∀ e ∈ (t.die d).tlb, e.slot ≠ slot := by
  have hstand := detachDies_standing slot s
  have hmem := detachDies_mem slot s
  have htlb := fun d => detachDies_tlb slot s (d := d)
  have hclose := cmdDetach_idle h hl hr
  generalize (List.range 8).foldl (detachDie slot) s = u at hstand hmem htlb hclose
  have hrsp : u.pkg.rspRing = 0 := (pkg_of_standing hstand Pkg.rspRing fun _ => rfl).trans h0
  have hresp : u.pkg.responses = s.pkg.responses := pkg_of_standing hstand Pkg.responses fun _ => rfl
  refine ⟨_, exec_detach tag slot s, ?_⟩
  rw [hclose, closeCmd_now rfl hrsp]
  exact ⟨SMap.find?_eq_none_of_del slot _, congrArg (· ++ [responseBytes tag 0 []]) hresp, hmem, htlb⟩

/-! R419: RINGBIND. -/

theorem exec_ringbind (tag n slot desc : Nat) (s : State) :
    exec (.ringbind tag n slot desc) s = .next (closeCmd tag (cmdRingbind s n slot desc)) := rfl
theorem ringLaunched_iff (s : State) (n : Nat) : ringLaunched s n = true ↔ ∃ e ∈ s.pkg.launches, e.2.trec.hostRing = some n := by
  simp [ringLaunched]
theorem cmdRingbind_bad {s : State} {n slot desc : Nat}
    (h : 32768 ≤ n ∨ SMap.find? s.pkg.procs slot = none ∨ hostRing s desc = none) : cmdRingbind s n slot desc = { st := s, status := 1 } := by
  unfold cmdRingbind; dsimp only
  rw [if_pos]
  · rfl
  · rcases h with h | h | h
    · exact .inl h
    · exact .inr (.inl (by rw [h]; rfl))
    · exact .inr (.inr (by rw [h]))
theorem cmdRingbind_good {s : State} {n slot desc : Nat} (h1 : n < 32768) (h2 : SMap.find? s.pkg.procs slot ≠ none)
    (h3 : ∃ d, hostRing s desc = some d ∧ d.kind = 1 ∧ d.cons = 1) : cmdRingbind s n slot desc =
      if (SMap.find? s.pkg.rings n).isSome && ringLaunched s n then { st := s, status := 3 }
      else { st := s.modPkg fun P => { P with rings := SMap.put P.rings n (desc, slot) }, status := 0 } := by
  obtain ⟨d, hd, hk, hc⟩ := h3
  unfold cmdRingbind; dsimp only
  rw [hd, if_neg]
  · rfl
  · dsimp only
    rw [hk, hc]
    simp [h2]; omega

/-- R417 to R419. -/
theorem slotCommands : Spec.slotCommands := by
  intro s tag h0
  refine ⟨fun pasid mode root => ⟨fun hb => ?_, fun h1 h2 h3 => ⟨fun k hk hn hlt => ?_, fun hfull => ?_⟩⟩,
    fun slot => ⟨fun hd => ?_, fun hl => ⟨fun hb => ?_, fun h1 h2 => detach_idle tag h0 hl h1 h2⟩⟩,
    fun n slot desc => ⟨fun hb => ?_, fun h1 h2 h3 => ⟨fun hs hl => ?_, fun hs => ?_⟩⟩⟩
  · rw [exec_attach, cmdAttach_bad root hb, closeCmd_now rfl h0]
  · have hfirst : (List.range 1024).find? (fun k => (SMap.find? s.pkg.procs k).isNone) = some k :=
      find?_range_eq hk (by rw [hn]; rfl) fun j hj => by simpa [← Option.ne_none_iff_isSome] using hlt j hj
    rw [exec_attach, cmdAttach_good root h1 h2 h3, hfirst]
    exact congrArg _ (closeCmd_now rfl h0)
  · have hnone : (List.range 1024).find? (fun k => (SMap.find? s.pkg.procs k).isNone) = none := by
      rw [List.find?_eq_none]
      exact fun k hk => by simpa using hfull k (List.mem_range.1 hk)
    rw [exec_attach, cmdAttach_good root h1 h2 h3, hnone]
    exact congrArg _ (closeCmd_now rfl h0)
  · rw [exec_detach, cmdDetach_dead hd, closeCmd_now rfl h0]
  · rw [exec_detach, cmdDetach_busy hl hb, closeCmd_now rfl h0]
  · rw [exec_ringbind, cmdRingbind_bad hb, closeCmd_now rfl h0]
  · rw [exec_ringbind, cmdRingbind_good h1 h2 h3, (ringLaunched_iff s n).2 hl, Option.isSome_iff_ne_none.2 hs]
    exact congrArg _ (closeCmd_now rfl h0)
  · rw [exec_ringbind, cmdRingbind_good h1 h2 h3, if_neg]
    · exact congrArg _ (closeCmd_now rfl h0)
    · rw [Bool.and_eq_true]
      rintro ⟨h4, h5⟩
      rcases hs with hs | hs
      · rw [hs] at h4; exact Bool.false_ne_true h4
      · obtain ⟨e, he, hr⟩ := (ringLaunched_iff s n).1 h5; exact hs e he hr

end Sys2Proof.Machine

/-! The saffron controller's other work: SPDM, CXL, units that fail, and the command ring. -/

namespace Sys2Proof.Machine
open Sys2Proof

/-- R424: each reply carries its code. -/
theorem spdmAnswers : Spec.spdmAnswers := fun _ =>
  ⟨⟨_, rfl⟩, ⟨_, rfl⟩, fun _ => ⟨_, rfl⟩, ⟨_, rfl⟩, fun _ _ _ => ⟨_, rfl⟩, fun _ => ⟨_, rfl⟩, fun _ _ => ⟨_, rfl⟩⟩

/-! R413: accesses of the host to the HDM range. -/

/-- A write that is none to a core's memory ends no reservation. -/
theorem store_harts {s : State} {l : Nat} (h : isPadLoc l = false) (w : Option Nat) (b : List Byte) (p : Bool) :
    (store s w l b p).harts = s.harts := by
  have hd : ∀ t n, (dirtyCode t l n).harts = t.harts := fun t n => by unfold dirtyCode; split <;> rfl
  have hl : ∀ t n, loseResv t w l n = t := fun t n => by unfold loseResv; rw [h, if_neg Bool.false_ne_true]
  have hp : ∀ t n, (poisonWrite t l n p).harts = t.harts := fun t n => by
    unfold poisonWrite; repeat' split
    · rfl
    · exact foldl_keeps State.harts _ (fun s _ => foldl_keeps State.harts (fun s g => s.setPoi g _) (fun _ _ => rfl) _ s) _ _
    · exact foldl_keeps State.harts _ (fun _ _ => by unfold poisonPad; split <;> rfl) _ _
  unfold store; dsimp only
  rw [hd, hl, hp]; exact scrub_harts s l _ true

/-- An access of n bytes that is served: through a port that is up, within the HDM range and within a line. -/
def HdmOpen (s : State) (port addr n : Nat) : Prop :=
  port < 2 ∧ SMap.get false s.pkg.cxlDown port = false ∧ s.pkg.hdmSet = true ∧ s.pkg.hdmBase.toNat ≤ addr ∧
    addr + n ≤ s.pkg.hdmBase.toNat + 2 ^ 40 ∧ 0 < n ∧ addr / 64 = (addr + n - 1) / 64

theorem exec_cxlMemAccess (port addr n : Nat) (w : Option (List Byte)) (s : State) :
    exec (.cxlMemAccess port addr n w) s = execCxlMemAccess port addr n w s := rfl
/-- The test of the step is that the access is not served. -/
theorem hdmShut_iff (s : State) (port addr n : Nat) :
    (decide (2 ≤ port) || SMap.get false s.pkg.cxlDown port || !s.pkg.hdmSet ||
      !decide (s.pkg.hdmBase.toNat ≤ addr ∧ addr + n ≤ s.pkg.hdmBase.toNat + 2 ^ 40) || n == 0 || addr / 64 != (addr + n - 1) / 64) = true ↔
      ¬HdmOpen s port addr n := by
  unfold HdmOpen
  generalize SMap.get false s.pkg.cxlDown port = down
  generalize s.pkg.hdmSet = set
  cases down
  · cases set
    · simp
    · simp; omega
  · simp
theorem execCxlMemAccess_read (s : State) (port addr n : Nat) :
    (HdmOpen s port addr n → execCxlMemAccess port addr n none s = .next (s.modPkg fun P =>
      { P with cxlData := s.mem.readBytes (2 ^ 64 + (addr - s.pkg.hdmBase.toNat)) n
               cxlPoison := (poisonedAt s (2 ^ 64 + (addr - s.pkg.hdmBase.toNat)) n).isSome })) ∧
    (¬HdmOpen s port addr n → execCxlMemAccess port addr n none s = .next s) :=
  ⟨fun h => if_neg (mt (hdmShut_iff s port addr n).1 (not_not.2 h)), fun h => if_pos ((hdmShut_iff s port addr n).2 h)⟩
theorem execCxlMemAccess_write (s : State) (port addr n : Nat) (l : List Byte) :
    (HdmOpen s port addr l.length → execCxlMemAccess port addr n (some l) s =
      .next (store s none (2 ^ 64 + (addr - s.pkg.hdmBase.toNat)) l false)) ∧
    (¬HdmOpen s port addr l.length → execCxlMemAccess port addr n (some l) s = .next s) :=
  ⟨fun h => if_neg (mt (hdmShut_iff s port addr l.length).1 (not_not.2 h)), fun h => if_pos ((hdmShut_iff s port addr l.length).2 h)⟩

theorem exec_cxlPortDown (port : Nat) (up : Bool) (s : State) : exec (.cxlPortDown port up) s =
    .next (if port < 2 then s.modPkg fun P => { P with cxlDown := SMap.set false P.cxlDown port (!up) } else s) := rfl

/-- R180, R413, R414. -/
theorem cxlSteps : Spec.cxlSteps := by
  intro s port addr
  refine ⟨fun n => ⟨fun h => ?_, fun h => ?_⟩, fun n l => ⟨fun h => ?_, fun h => ?_⟩, fun up hp => ?_, rfl⟩
  · exact ⟨_, (exec_cxlMemAccess _ _ _ _ _).trans ((execCxlMemAccess_read s port addr n).1 h), rfl, rfl, rfl, rfl⟩
  · exact (exec_cxlMemAccess _ _ _ _ _).trans ((execCxlMemAccess_read s port addr n).2 h)
  · obtain ⟨-, -, -, hlo, hhi, -, -⟩ := id h
    have hpad : isPadLoc (2 ^ 64 + (addr - s.pkg.hdmBase.toNat)) = false := by
      simp only [isPadLoc, Bool.and_eq_false_iff, decide_eq_false_iff_not]; omega
    exact ⟨_, (exec_cxlMemAccess _ _ _ _ _).trans ((execCxlMemAccess_write s port addr n l).1 h), store_mem _ _ _ _ _,
      store_harts hpad _ _ _, store_net _ _ _ _ _⟩
  · exact (exec_cxlMemAccess _ _ _ _ _).trans ((execCxlMemAccess_write s port addr n l).2 h)
  · rw [exec_cxlPortDown, if_pos hp]
    exact ⟨_, rfl, SMap.get_set_same _ _ _ _, rfl⟩

/-! R415: command records. -/

theorem runCommand_reserved {l : List Byte} (h : leAt l 2 2 ≠ 0) (s : State) :
    runCommand s l = closeCmd (leAt l 4 4) { st := s, status := 1 } := by
  unfold runCommand; dsimp only; rw [if_pos h]; rfl
theorem runCommand_unknown {l : List Byte} (h : leAt l 0 2 = 0 ∨ 9 < leAt l 0 2) (s : State) :
    runCommand s l = closeCmd (leAt l 4 4) { st := s, status := 1 } := by
  by_cases h0 : leAt l 2 2 = 0
  · unfold runCommand; dsimp only
    rw [if_neg (not_not.2 h0)]
    rcases h with h | h
    · rw [h]; rfl
    · obtain ⟨k, hk⟩ : ∃ k, leAt l 0 2 = k + 10 := ⟨leAt l 0 2 - 10, by omega⟩
      rw [hk]; rfl
  · exact runCommand_reserved h0 s
/-- What a record of a known OP runs. -/
theorem runCommand_op {l : List Byte} (h0 : leAt l 2 2 = 0) {op : Nat} (h : leAt l 0 2 = op) (s : State) :
    let tag := leAt l 4 4
    let a := fun i => leAt l (8 + 8 * i) 8
    (op = 1 → runCommand s l = closeCmd tag (cmdAttach s (a 0) (a 1) (a 2))) ∧ (op = 2 → runCommand s l = closeCmd tag (cmdDetach s (a 0))) ∧
    (op = 3 → runCommand s l = closeCmd tag (cmdRingbind s (a 0) (a 1) (a 2))) ∧
    (op = 4 → runCommand s l = closeCmd tag (cmdEndlaunch s (a 0) (a 1) (a 2))) ∧
    (op = 5 → runCommand s l = closeCmd tag (cmdRetire s (a 0) (a 1))) ∧
    (op = 6 → runCommand s l = closeCmd tag (cmdReload s (a 0) (a 1) (a 2) (a 3))) ∧
    (op = 7 → runCommand s l = closeCmd tag (cmdChk s false tag (a 0) (a 1) (a 2))) ∧
    (op = 8 → runCommand s l = closeCmd tag (cmdChk s true tag (a 0) (a 1) (a 2))) ∧
    (op = 9 → runCommand s l = closeCmd tag (cmdCounters s (a 0) (a 1) (a 2))) := by
  unfold runCommand; dsimp only
  rw [if_neg (not_not.2 h0), h]
  refine ⟨?_, ?_, ?_, ?_, ?_, ?_, ?_, ?_, ?_⟩ <;> rintro rfl <;> rfl

/-! R414: the command ring. -/

theorem exec_cmdRingPoll (s : State) : exec .cmdRingPoll s = execCmdRingPoll s := rfl
/-- With no response waiting there is none to push. -/
theorem flushResponses_idle {s : State} (h : s.pkg.responses = []) : flushResponses s.pkg.responses s = s := by
  rw [h]; show { s with pkg := { s.pkg with responses := [] } } = s; rw [← h]
theorem execCmdRingPoll_idle {s : State} (hr : s.pkg.responses = []) (h : s.pkg.cmdRing = 0 ∨ s.pkg.chk ≠ none) :
    execCmdRingPoll s = .next s := by
  unfold execCmdRingPoll; dsimp only
  rw [flushResponses_idle hr, if_pos]
  rcases h with h | h
  · rw [h]; rfl
  · simp [Option.isSome_iff_ne_none.2 h]
theorem execCmdRingPoll_reads {s u : State} {d : Ring} {l : List Byte} (hr : s.pkg.responses = []) (hc : s.pkg.cmdRing ≠ 0)
    (hk : s.pkg.chk = none) (hd : hostRing s s.pkg.cmdRing.toNat = some d) (h2 : d.kind = 2) (h0 : d.size = 0)
    (hl : devRead s 0 0 true 1 (d.slot d.cidx) 64 = (u, .ok l false)) :
    (leAt l 56 1 % 2 ≠ d.phase d.cidx → execCmdRingPoll s = .next s) ∧
    (leAt l 56 1 % 2 = d.phase d.cidx → ∀ t, devWrites s 0 0 true 0 [(s.pkg.cmdRing.toNat + 20, toBytes 4 (d.cidx + 1))] = (t, .done) →
      execCmdRingPoll s = .next (runCommand t l)) := by
  have hne : s.pkg.cmdRing.toNat ≠ 0 := fun h => hc (BitVec.eq_of_toNat_eq h)
  unfold execCmdRingPoll; dsimp only
  rw [flushResponses_idle hr, if_neg (by simp [hne, hr, hk]), hd]
  dsimp only
  rw [if_neg (by simp [h2, h0]), hl]
  refine ⟨fun h => ?_, fun h t ht => ?_⟩
  · exact congrArg _ (if_neg h)
  · exact congrArg _ ((if_pos h).trans (by rw [ht]))

/-- R414, R415. -/
theorem commandRecords : Spec.commandRecords := by
  intro s l
  refine ⟨fun h0 => ?_, fun hr h => ?_, fun v => rfl, fun hr => ⟨fun h => ?_, fun d u hc hk hd h2 hs hl => ?_⟩⟩
  · obtain ⟨h1, h2, h3, h4, h5, h6, h7, h8, h9⟩ := runCommand_op h0 rfl s
    exact ⟨fun h => congrArg _ (h1 h).symm, fun h => congrArg _ (h2 h).symm, fun h => congrArg _ (h3 h).symm, fun h => congrArg _ (h4 h).symm,
      fun h => congrArg _ (h5 h).symm, fun h => congrArg _ (h6 h).symm, fun h => congrArg _ (h7 h).symm, fun h => congrArg _ (h8 h).symm,
      fun h => congrArg _ (h9 h).symm⟩
  · rcases h with h | h
    · rw [runCommand_reserved h, closeCmd_now rfl hr]
    · rw [runCommand_unknown h, closeCmd_now rfl hr]
  · rw [exec_cmdRingPoll, execCmdRingPoll_idle hr h]
  · rw [exec_cmdRingPoll]
    exact execCmdRingPoll_reads hr hc hk hd h2 hs hl

end Sys2Proof.Machine

/-! Droop, retirements and ports. -/

namespace Sys2Proof.Machine
open Sys2Proof

theorem exec_droopStretch (g : Nat) (half : Bool) (s : State) : exec (.droopStretch g half) s =
    .next (s.modCluster g fun G => { G with stretch := if half then 2 else max 1 G.stretch, stretches := min 0xFFFFFFFF (G.stretches + 1) }) := rfl

/-! R412: a die fails. -/

/-- A part of the package that is not its barriers. -/
theorem bystander_pkg {γ : Type} (f : Pkg → γ) (hf : ∀ P l, f { P with barriers := l } = f P) : Bystander fun s => f s.pkg :=
  ⟨fun _ _ _ => rfl, fun _ _ _ _ _ => rfl, fun _ _ _ _ => rfl, fun _ _ _ _ _ => rfl, fun s l => hf s.pkg l⟩
/-- The losses of a die that fails leave what messages and barriers leave. -/
theorem failDie_keeps {γ : Type} {g : State → γ} (a : Bystander g)
    (hg : ∀ s cores ports, g { s with cores := cores, pkg := { s.pkg with ports := ports } } = g s) {s : State} {d : Nat}
    (h : (s.die d).isFailed = false) :
    g (failDie s d) = g ((record s 3 d).modDie d fun D => { D with isFailed := true, parked := [], asks := [] }) := by
  unfold failDie; dsimp only
  rw [h, if_neg Bool.false_ne_true, a.barrierCheck, foldl_keeps g _ fun _ _ => a.losePkt _ _]
  exact hg _ _ _
theorem failDie_failed {s : State} {d : Nat} (h : (s.die d).isFailed = true) : failDie s d = s := by unfold failDie; rw [if_pos h]
/-- A failed die is failed, and recorded if it was not before. -/
theorem failDie_isFailed (s : State) (d : Nat) : ((failDie s d).die d).isFailed = true := by
  by_cases h : (s.die d).isFailed = true
  · rw [failDie_failed h]; exact h
  · have hd : (failDie s d).dies = _ := failDie_keeps bystander_dies (fun _ _ _ => rfl) (Bool.eq_false_of_not_eq_true h)
    unfold State.die
    rw [hd]
    exact congrArg Die.isFailed (SMap.get_put_same _ _ _ _)
theorem mem_nv_failDie {s : State} {d : Nat} (h : (s.die d).isFailed = false) : (3, d) ∈ (failDie s d).pkg.nv := by
  have hn : (failDie s d).pkg.nv = _ := failDie_keeps (bystander_pkg Pkg.nv fun _ _ => rfl) (fun _ _ _ => rfl) h
  rw [hn]; exact mem_nv_record s 3 d
theorem failDie_mem (s : State) (d : Nat) : (failDie s d).mem = s.mem := by
  by_cases h : (s.die d).isFailed = true
  · rw [failDie_failed h]
  · exact failDie_keeps bystander_mem (fun _ _ _ => rfl) (Bool.eq_false_of_not_eq_true h)
theorem failDie_rspRing (s : State) (d : Nat) : (failDie s d).pkg.rspRing = s.pkg.rspRing := by
  by_cases h : (s.die d).isFailed = true
  · rw [failDie_failed h]
  · exact failDie_keeps (bystander_pkg Pkg.rspRing fun _ _ => rfl) (fun _ _ _ => rfl) (Bool.eq_false_of_not_eq_true h)
theorem exec_saffronWatchdog (d : Nat) (s : State) : exec (.saffronWatchdog d) s = .next (if d < 8 then failDie s d else s) := rfl

/-! R189: a bank is retired. -/

theorem exec_bankRetire {c : Nat} (hc : c < 8192) (b : Nat) (s : State) : exec (.bankRetire c b) s = .next (retireBank s c b) :=
  congrArg _ (if_pos (decide_eq_true hc))
theorem retireBank_again {s : State} {c b : Nat} (h : b ∈ (s.core c).banks) : retireBank s c b = s := by
  unfold retireBank; dsimp only; rw [if_pos]; simp [h]
theorem retireBank_spare {s : State} {c b : Nat} (hb : b < 288) (h : b ∉ (s.core c).banks) (hg : degraded (s.core c) (bankGroup b) = false) :
    retireBank s c b = record (s.modCore c fun C => { C with banks := C.banks ++ [b] }) 0 (bankUnit c b) := by
  unfold retireBank; dsimp only; rw [if_neg (by simp [h, hb]), hg, if_neg Bool.false_ne_true]
/-- The second bank of a group seals the core. -/
theorem retireBank_second {s : State} {c b : Nat} (hb : b < 288) (h : b ∉ (s.core c).banks) (hg : degraded (s.core c) (bankGroup b) = true) :
    ∃ u, retireBank s c b = hardSeal u c := by
  unfold retireBank; dsimp only; rw [if_neg (by simp [h, hb]), hg, if_pos rfl]
  exact ⟨_, rfl⟩

/-! R412: a cluster is retired. -/

theorem barriersEnd_clusters (l : List Barrier) : ∀ s, (barriersEnd l s).clusters = s.clusters := by
  induction l with
  | nil => intro s; rfl
  | cons b r ih =>
    intro s
    unfold barriersEnd; dsimp only
    split
    · rw [ih]; exact foldl_keeps State.clusters (fun s h => retire s h) (fun _ _ => rfl) _ _
    · exact ih s
theorem barrierCheck_cluster (s : State) (g : Nat) : (barrierCheck s).cluster g = s.cluster g := by
  unfold State.cluster barrierCheck; rw [barriersEnd_clusters]
theorem exec_clusterFailure (g : Nat) (s : State) : exec (.clusterFailure g) s = .next (retireCluster s g) := rfl
theorem retireCluster_retired {s : State} {g : Nat} (h : (s.cluster g).isRetired = true) : retireCluster s g = s := by
  unfold retireCluster; rw [if_pos h]
/-- The last steps of a cluster's retirement: the record, the mark, and the barriers. -/
theorem retireCluster_ends {s : State} {g : Nat} (h : (s.cluster g).isRetired = false) : ∃ u, retireCluster s g =
    barrierCheck ((record u 2 g).modCluster g fun G => { G with isRetired := true, q := 0, queue := [], groups := [], waiting := [] }) := by
  unfold retireCluster
  rw [h, if_neg Bool.false_ne_true]
  exact ⟨_, rfl⟩
theorem retireCluster_cluster {s : State} {g : Nat} (h : (s.cluster g).isRetired = false) :
    ((retireCluster s g).cluster g).isRetired = true ∧ ((retireCluster s g).cluster g).queue = [] ∧ (2, g) ∈ (retireCluster s g).pkg.nv := by
  obtain ⟨u, hu⟩ := retireCluster_ends h
  have hnv : (barrierCheck ((record u 2 g).modCluster g fun G => { G with isRetired := true, q := 0, queue := [], groups := [], waiting := [] })).pkg.nv =
    (record u 2 g).pkg.nv := (bystander_pkg Pkg.nv fun _ _ => rfl).barrierCheck _
  rw [hu, barrierCheck_cluster, State.modCluster_cluster_same, hnv]
  exact ⟨rfl, rfl, mem_nv_record u 2 g⟩

/-! Ports and peers. -/

theorem portOf_setPort (s : State) (k j : Nat) (P : Port) : portOf (setPort s k P) j = if j = k then P else portOf s j :=
  SMap.get_put _ _ _ _ _
theorem peerOf_setPeer (s : State) (k n : Nat) (q : Peer) : peerOf (setPeer s k n q) k n = q := by
  unfold peerOf setPeer; dsimp only
  rw [portOf_setPort, if_pos rfl]
  exact SMap.get_put_same _ _ _ _
theorem portOf_record (s : State) (k u j : Nat) : portOf (record s k u) j = portOf s j := rfl
/-- R412: a retired port is recorded; its state is as before. -/
theorem portOf_retirePort (s : State) (k j : Nat) : portOf (retirePort s k) j = portOf s j := rfl
theorem nv_retirePort (s : State) (k : Nat) : (retirePort s k).pkg.nv = (record s 5 k).pkg.nv := rfl
theorem exec_keyStaging (k n : Nat) (s : State) : exec (.keyStaging k n) s =
    .next (if k < 16 then setPort s k { portOf s k with staged := some n } else s) := rfl
theorem exec_fabricPeerReset (k n : Nat) (s : State) : exec (.fabricPeerReset k n) s =
    .next (if (peerOf s k n).unreachable then setPeer s k n {} else s) := rfl
theorem exec_spaustLaneFailure (k : Nat) (s : State) : exec (.spaustLaneFailure k) s = execSpaustLaneFailure k s := rfl
/-- R412: a second lane that fails takes the port down. -/
theorem spaustLaneFailure_port (s : State) (k : Nat) : ∃ t, exec (.spaustLaneFailure k) s = .next t ∧
    (portOf t k).lanesBad = (portOf s k).lanesBad + 1 ∧ (6, k) ∈ t.pkg.nv ∧
    ((portOf s k).lanesBad = 0 → (portOf t k).down = (portOf s k).down) ∧
    (1 ≤ (portOf s k).lanesBad → (portOf t k).down = true ∧ (5, k) ∈ t.pkg.nv) := by
  rw [exec_spaustLaneFailure]
  unfold execSpaustLaneFailure; dsimp only
  set P : Port := { portOf s k with
    lanesBad := (portOf s k).lanesBad + 1, down := (portOf s k).down || decide (2 ≤ (portOf s k).lanesBad + 1) } with hP
  have hport : portOf (record (setPort s k P) 6 k) k = P := by rw [portOf_record, portOf_setPort, if_pos rfl]
  have h6 : (6, k) ∈ (record (setPort s k P) 6 k).pkg.nv := mem_nv_record _ 6 k
  by_cases h : 2 ≤ (portOf s k).lanesBad + 1
  · rw [if_pos h]
    refine ⟨_, rfl, ?_, ?_, fun h0 => by omega, fun _ => ⟨?_, ?_⟩⟩
    · rw [portOf_retirePort, hport]
    · rw [nv_retirePort]; exact (Worn.record _ 5 k).nv _ h6
    · rw [portOf_retirePort, hport, hP]; dsimp only; rw [decide_eq_true h, Bool.or_true]
    · rw [nv_retirePort]; exact mem_nv_record _ 5 k
  · rw [if_neg h]
    refine ⟨_, rfl, ?_, h6, fun _ => ?_, fun h1 => by omega⟩
    · rw [hport]
    · rw [hport, hP]; dsimp only; rw [decide_eq_false h, Bool.or_false]

/-- R389, R398, R412, R423. -/
theorem unitSteps : Spec.unitSteps := by
  intro s
  refine ⟨fun g half => ⟨_, exec_droopStretch g half s, ?_⟩, fun g => rfl, fun d hd => ?_, fun c b hc hb hn => ⟨fun hg => ?_, fun hg => ?_⟩,
    fun c b hc hb => ?_, fun g => ⟨fun h => ?_, fun h => ?_⟩, fun k n hk => ?_, fun k n => ⟨fun h => ?_, fun h => ?_⟩, spaustLaneFailure_port s⟩
  · rw [State.modCluster_cluster_same]
    exact ⟨rfl, rfl, fun k hk => State.modCluster_cluster_ne _ _ _ hk⟩
  · rw [exec_saffronWatchdog, if_pos hd]
    exact ⟨_, rfl, failDie_isFailed s d, mem_nv_failDie, failDie_mem s d⟩
  · rw [exec_bankRetire hc, retireBank_spare hb hn hg]
    exact ⟨_, rfl, congrArg Core.banks (State.modCore_core_same (s := s) _ fun C => { C with banks := C.banks ++ [b] }), mem_nv_record _ 0 _, rfl, rfl⟩
  · obtain ⟨u, hu⟩ := retireBank_second hb hn hg
    rw [exec_bankRetire hc, hu]
    exact ⟨_, rfl, isSealed_hardSeal u c⟩
  · rw [exec_bankRetire hc, retireBank_again hb]
  · rw [exec_clusterFailure, retireCluster_retired h]
  · rw [exec_clusterFailure]
    exact ⟨_, rfl, retireCluster_cluster h⟩
  · rw [exec_keyStaging, if_pos hk]
    exact ⟨_, rfl, by rw [portOf_setPort, if_pos rfl], fun j hj => by rw [portOf_setPort, if_neg hj], rfl, rfl⟩
  · rw [exec_fabricPeerReset, if_pos h]
    exact ⟨_, rfl, peerOf_setPeer s k n {}⟩
  · rw [exec_fabricPeerReset, h, if_neg Bool.false_ne_true]

end Sys2Proof.Machine

/-! Launch ends, retirements, firmware loads, checkpoints and counters. -/

namespace Sys2Proof

namespace SMap
variable {α : Type}

theorem get_foldl_put (d v : α) (f : Nat → Nat) (l : List Nat) {i : Nat} :
    ∀ m : SMap α, (i ∈ l ∨ get d m (f i) = v) → get d (l.foldl (fun m j => put m (f j) v) m) (f i) = v := by
  induction l with
  | nil => exact fun m h => h.resolve_left List.not_mem_nil
  | cons j r ih =>
    intro m h
    refine ih _ ?_
    by_cases hf : f i = f j
    · exact .inr (by rw [hf, get_put_same])
    · refine h.imp (fun h => (List.mem_cons.1 h).resolve_left fun e => hf (congrArg f e)) fun h => ?_
      rw [get_put_ne _ _ _ hf, h]
/-- A map of which a test keeps some keys. -/
theorem get_filter (d : α) (p : Nat → Bool) (k : Nat) : ∀ m : SMap α, get d (List.filter (fun x => p x.1) m) k = if p k then get d m k else d
  | [] => by simp [get]
  | (j, v) :: r => by
    have ih := get_filter d p k r
    by_cases hj : j = k
    · subst hj
      cases hp : p j
      · simpa [hp] using ih
      · simp [hp, get]
    · cases hp : p j <;> simp [hp, get, hj, ih]
theorem get_of_not_listed (d : α) {k : Nat} : ∀ {m : SMap α}, k ∉ m.map Prod.fst → get d m k = d
  | [], _ => rfl
  | (j, v) :: r, h => by
    simp only [List.map_cons, List.mem_cons, not_or] at h
    simp only [get, if_neg (Ne.symm h.1)]
    exact get_of_not_listed d h.2
/-- A map in canonical form lists no key twice. -/
theorem nodup_of_canon [DecidableEq α] {d : α} : ∀ {m : SMap α} {lo : Option Nat}, canon d lo m = true →
    (∀ k ∈ m.map Prod.fst, above lo k) ∧ (m.map Prod.fst).Nodup
  | [], _, _ => by simp
  | (j, v) :: r, lo, h => by
    obtain ⟨h1, -, h3⟩ := canon_cons.1 h
    obtain ⟨ha, hn⟩ := nodup_of_canon h3
    have hgt : ∀ k ∈ r.map Prod.fst, j < k := fun k hk => ha k hk j rfl
    rw [List.map_cons, List.nodup_cons]
    refine ⟨fun k hk => ?_, fun hj => Nat.lt_irrefl j (hgt j hj), hn⟩
    rcases List.mem_cons.1 hk with rfl | hk
    · exact h1
    · exact fun b hb => Nat.lt_trans (h1 b hb) (hgt k hk)

end SMap
end Sys2Proof

namespace Sys2Proof.Machine
open Sys2Proof

/-! R420: the end of a launch. -/

theorem standing_killLaunch (s : State) (n : Nat) : standing (killLaunch s n) = standing s := by
  have hmap : ∀ s : State, standing { s with
      clusters := s.clusters.map (fun (x : Nat × Cluster) => (x.1, killCluster n x.2))
      cores := s.cores.map (fun (x : Nat × Core) => (x.1, killCore n (resumeFrames s n x.1) x.2)) } = standing s := fun s => by
    have h1 (k : Nat) := SMap.get_map_keeps (α := Core) Core.isSealed {} (fun x : Nat × Core => killCore n (resumeFrames s n x.1) x.2) (fun _ => rfl) k s.cores
    have h2 (k : Nat) := SMap.get_map_keeps (α := Core) Core.isRetired {} (fun x : Nat × Core => killCore n (resumeFrames s n x.1) x.2) (fun _ => rfl) k s.cores
    have h3 (k : Nat) := SMap.get_map_keeps (α := Cluster) Cluster.isRetired {} (fun x : Nat × Cluster => killCluster n x.2) (fun _ => rfl) k s.clusters
    simp only [standing, State.core, State.cluster, h1, h2, h3]
    rfl
  unfold killLaunch; dsimp only
  rw [foldl_keeps standing _ standing_faultEndStart, hmap, foldl_keeps standing _ fun _ _ => bystander_standing.dropPkt _ _,
    foldl_keeps standing _ fun _ _ => standing_modHart _ _ _,
    foldl_keeps standing (killArrived n) fun _ _ => standing_modCluster _ _ _ rfl]
theorem exec_endlaunch (tag slot root lseq : Nat) (s : State) :
    exec (.endlaunch tag slot root lseq) s = .next (closeCmd tag (cmdEndlaunch s slot root lseq)) := rfl
/-- A launch that is found is listed. -/
theorem launchOf_findLaunch {s : State} {slot root lseq n : Nat} (h : findLaunch s slot root lseq = some n) : ∃ L, launchOf s n = some L := by
  have hmem : ∀ m : SMap Launch, ∀ L, (n, L) ∈ m → ∃ K, SMap.find? m n = some K := by
    intro m
    induction m with
    | nil => simp
    | cons e r ih =>
      obtain ⟨j, v⟩ := e
      intro L hL
      by_cases hj : j = n
      · exact ⟨v, by simp [SMap.find?, hj]⟩
      · simp only [SMap.find?, if_neg hj]
        exact ih L ((List.mem_cons.1 hL).resolve_left fun e => hj (congrArg Prod.fst e).symm)
  obtain ⟨e, he, rfl⟩ := Option.map_eq_some_iff.1 h
  exact hmem _ e.2 (List.mem_of_find?_eq_some he)
/-- R420: a launch that is ended is marked, and with it nothing of the package's settings changes. -/
theorem standing_endLaunchNow {s : State} {n : Nat} {L : Launch} (h : launchOf s n = some L) : standing (endLaunchNow s n) =
    standing (s.modPkg fun P => { P with launches := SMap.put P.launches n { L with killed := true } }) := by
  unfold endLaunchNow
  rw [h]
  exact (bystander_standing.sendDev _ _ _ _ _).trans (standing_killLaunch _ n)
theorem endlaunch_found {s : State} (tag : Nat) {slot root lseq n : Nat} (h0 : s.pkg.rspRing = 0) (h : findLaunch s slot root lseq = some n) :
    ∃ t L, exec (.endlaunch tag slot root lseq) s = .next t ∧ launchOf t n = some L ∧ L.killed = true ∧
      t.pkg.responses = s.pkg.responses ++ [responseBytes tag 0 []] := by
  obtain ⟨L, hL⟩ := launchOf_findLaunch h
  have hstand := standing_endLaunchNow hL
  have hcmd : cmdEndlaunch s slot root lseq = { st := endLaunchNow s n, status := 0 } := by unfold cmdEndlaunch; rw [h]; rfl
  generalize endLaunchNow s n = u at hstand hcmd
  have hrsp : u.pkg.rspRing = 0 := (pkg_of_standing hstand Pkg.rspRing fun _ => rfl).trans h0
  have hresp : u.pkg.responses = s.pkg.responses := pkg_of_standing hstand Pkg.responses fun _ => rfl
  have hl : u.pkg.launches = SMap.put s.pkg.launches n { L with killed := true } := pkg_of_standing hstand Pkg.launches fun _ => rfl
  refine ⟨_, { L with killed := true }, exec_endlaunch tag slot root lseq s, ?_⟩
  rw [hcmd, closeCmd_now rfl hrsp]
  refine ⟨?_, rfl, congrArg (· ++ [responseBytes tag 0 []]) hresp⟩
  show SMap.find? u.pkg.launches n = _
  rw [hl, SMap.find?_put_same]

/-! R412: RETIRE. -/

theorem exec_retire (tag kind u : Nat) (s : State) : exec (.retire tag kind u) s = .next (closeCmd tag (cmdRetire s kind u)) := rfl
theorem cmdRetire_bad (s : State) {kind u : Nat} (h : 5 < kind ∨ (kind = 1 ∧ 8192 ≤ u) ∨ (kind = 2 ∧ 512 ≤ u) ∨ (kind = 3 ∧ 8 ≤ u) ∨
    (kind = 4 ∧ 80 ≤ u) ∨ (kind = 5 ∧ 16 ≤ u)) : cmdRetire s kind u = { st := s, status := 1 } := by
  rcases h with h | ⟨rfl, h⟩ | ⟨rfl, h⟩ | ⟨rfl, h⟩ | ⟨rfl, h⟩ | ⟨rfl, h⟩
  · obtain ⟨k, rfl⟩ : ∃ k, kind = k + 6 := ⟨kind - 6, by omega⟩
    rfl
  all_goals exact if_neg (Nat.not_lt.2 h)
theorem cmdRetire_die (s : State) {u : Nat} (h : u < 8) : cmdRetire s 3 u = { st := failDie s u, status := 0 } := if_pos h
theorem cmdRetire_port (s : State) {u : Nat} (h : u < 16) :
    cmdRetire s 5 u = { st := retirePort (setPort s u { portOf s u with down := true }) u, status := 0 } := if_pos h

/-! R412, R424: RELOAD. -/

theorem exec_reload (tag die clu addr len : Nat) (s : State) :
    exec (.reload tag die clu addr len) s = .next (closeCmd tag (cmdReload s die clu addr len)) := rfl
theorem cmdReload_bad (s : State) {die clu len : Nat} (addr : Nat) (h : 8 ≤ die ∨ 64 ≤ clu ∨ len = 0 ∨ 65536 < len ∨ len % 4 ≠ 0) :
    cmdReload s die clu addr len = { st := s, status := 1 } := if_pos h
theorem cmdReload_gone {s : State} {die clu len : Nat} (addr : Nat) (h : ¬(8 ≤ die ∨ 64 ≤ clu ∨ len = 0 ∨ 65536 < len ∨ len % 4 ≠ 0))
    (hg : cluGone s (die * 64 + clu) = true) : cmdReload s die clu addr len = { st := s, status := 3 } := (if_neg h).trans (if_pos hg)
theorem cmdReload_read {s u : State} {die clu len addr : Nat} {l : List Byte} (h : ¬(8 ≤ die ∨ 64 ≤ clu ∨ len = 0 ∨ 65536 < len ∨ len % 4 ≠ 0))
    (hg : cluGone s (die * 64 + clu) = false) (hr : devRead s (die * 64 + clu) 0 true 1025 addr len = (u, .ok l false)) :
    cmdReload s die clu addr len = (startMordant s (die * 64 + clu) l).elim { st := s, status := 1 } fun t =>
      { st := t.modPkg fun P => { P with measured := SMap.put P.measured 2 (Config.sha384 l), reloads := P.reloads + 1 }, status := 0 } := by
  unfold cmdReload
  rw [if_neg h, hg, if_neg Bool.false_ne_true, hr]
  dsimp only
  cases startMordant s (die * 64 + clu) l <;> rfl

/-- The Mordant core of cluster g with n words of unsigned firmware, at reset. -/
def freshMordant (s : State) (g n : Nat) : Core := setExec { isSealed := false, cycle := (s.core (8192 + g)).cycle } 0 n false
theorem freshMordant_exec (s : State) (g : Nat) {n i : Nat} (h : i < n) : SMap.get false (freshMordant s g n).exec i = true := by
  have := SMap.get_foldl_put false true (fun i => 0 + i) (List.range n) (i := i) [] (.inl (List.mem_range.2 h))
  rwa [Nat.zero_add] at this
/-- The state after firmware that the scanner admits has been started on the Mordant core of cluster g. -/
def mordantStarted (s : State) (g : Nat) (l : List Byte) : State :=
  ((loadMordant s g l).setCore (8192 + g) (freshMordant s g (l.length / 4))).setHart (32768 + g) {}
theorem startMordant_eq (s : State) (g : Nat) (l : List Byte) : startMordant s g l =
    if (firmwareFault (loadMordant s g l) (8192 + g) (l.length / 4)).isSome then none else some (mordantStarted s g l) := by
  have hh : hartAt (mordantCore g) 0 = 32768 + g := by unfold hartAt mordantCore; rw [if_neg (by omega)]; omega
  unfold startMordant; dsimp only
  rw [hh]; rfl
theorem startMordant_admitted {s : State} {g : Nat} {l : List Byte}
    (h : firmwareFault (loadMordant s g l) (8192 + g) (l.length / 4) = none) : startMordant s g l = some (mordantStarted s g l) := by
  rw [startMordant_eq, h]; rfl
theorem startMordant_refused {s : State} {g : Nat} {l : List Byte}
    (h : firmwareFault (loadMordant s g l) (8192 + g) (l.length / 4) ≠ none) : startMordant s g l = none := by
  rw [startMordant_eq, Option.isSome_iff_ne_none.2 h]; rfl
theorem mordantStarted_core (s : State) (g : Nat) (l : List Byte) (k : Nat) :
    (mordantStarted s g l).core k = if k = 8192 + g then freshMordant s g (l.length / 4) else s.core k := SMap.get_put _ _ _ _ _
theorem mordantStarted_hart (s : State) (g : Nat) (l : List Byte) (h : Nat) :
    (mordantStarted s g l).hart h = if h = 32768 + g then {} else s.hart h := SMap.get_put _ _ _ _ _
theorem loadMordant_mem (s : State) (g : Nat) (l : List Byte) : (loadMordant s g l).mem =
    Memory.writeBytes (s.mem.filter fun x => decide (x.1 < padBase (8192 + g) ∨ padBase (8192 + g) + padSize (8192 + g) ≤ x.1)) (padBase (8192 + g)) l := rfl
theorem loadMordant_read (s : State) (g : Nat) (l : List Byte) {i : Nat} (h : i < l.length) :
    (loadMordant s g l).mem.read (padBase (8192 + g) + i) = l.getD i 0 := by
  rw [loadMordant_mem, Memory.read_writeBytes_inside l _ _ _ h, List.getD_eq_getElem?_getD, List.getElem?_eq_getElem h]; rfl

/-! R421: CHKPT and RESTORE. -/

theorem exec_chkpt (tag base len off : Nat) (s : State) : exec (.chkpt tag base len off) s = .next (closeCmd tag (cmdChk s false tag base len off)) := rfl
theorem exec_restore (tag base len off : Nat) (s : State) : exec (.restore tag base len off) s = .next (closeCmd tag (cmdChk s true tag base len off)) := rfl
theorem chkArgs_iff (base len off : Nat) :
    chkArgs base len off = true ↔ 0 < len ∧ len % 2 ^ 36 = 0 ∧ off + len ≤ 2 ^ 40 ∧ off % 64 = 0 ∧ base % 64 = 0 := by
  simp only [chkArgs, Bool.and_eq_true, decide_eq_true_eq, beq_iff_eq, and_assoc]
theorem chkIdle_iff (s : State) : chkIdle s = true ↔ s.pkg.launches = [] ∧ s.pkg.rings = [] ∧ s.pkg.chk = none := by
  simp only [chkIdle, Bool.and_eq_true, List.isEmpty_iff, Option.isNone_iff_eq_none, and_assoc]
theorem cmdChk_bad {base len off : Nat} (h : ¬chkArgs base len off = true) (s : State) (r : Bool) (tag : Nat) :
    cmdChk s r tag base len off = { st := s, status := 1 } := if_pos (by simpa using h)
theorem cmdChk_busy {s : State} {base len off : Nat} (h : chkArgs base len off = true) (hi : ¬chkIdle s = true) (r : Bool) (tag : Nat) :
    cmdChk s r tag base len off = { st := s, status := 3 } := (if_neg (by simp [h])).trans (if_pos (by simpa using hi))
theorem cmdChk_begins {s : State} {base len off : Nat} (h : chkArgs base len off = true) (hi : chkIdle s = true) (r : Bool) (tag : Nat) :
    cmdChk s r tag base len off = { st := s.modPkg fun P => { P with chk := some (r, tag, base, len, off) }, status := 0, later := true } :=
  (if_neg (by simp [h])).trans (if_neg (by simp [hi]))

/-- One byte of a copy: it goes to the place of its number in the source. -/
def copyByte (src : Nat → Option Nat) (place : Nat → Nat) (m : Memory) (x : Nat × Byte) : Memory :=
  match src x.1 with
  | some i => m.write (place i) x.2
  | none => m
/-- A copy puts byte j of its source at place j of its destination, where no other byte is placed there. -/
theorem foldl_copyByte_read {src : Nat → Option Nat} {place : Nat → Nat} {a j : Nat} (hsrc : src a = some j)
    (hinj : ∀ k i, src k = some i → k ≠ a → place i ≠ place j) :
    ∀ m m0 : Memory, (m.map Prod.fst).Nodup →
      Memory.read (m.foldl (copyByte src place) m0) (place j) = if a ∈ m.map Prod.fst then m.read a else m0.read (place j)
  | [], _, _ => rfl
  | (k, v) :: r, m0, hn => by
    obtain ⟨hk, hr⟩ := List.nodup_cons.1 hn
    rw [List.foldl_cons, foldl_copyByte_read hsrc hinj r _ hr]
    by_cases e : k = a
    · subst e
      have hv : Memory.read ((k, v) :: r) k = v := by simp [Memory.read, SMap.get]
      rw [if_neg hk, if_pos (by simp), hv]
      unfold copyByte; dsimp only; rw [hsrc]
      exact Memory.read_write_same _ _ _
    · have hread : Memory.read ((k, v) :: r) a = Memory.read r a := by simp [Memory.read, SMap.get, e]
      have hm : (copyByte src place m0 (k, v)).read (place j) = m0.read (place j) := by
        unfold copyByte; dsimp only; split
        · next i hi => exact Memory.read_write_ne _ _ (Ne.symm (hinj k i hi e))
        · rfl
      have hmem : a ∈ ((k, v) :: r).map Prod.fst ↔ a ∈ r.map Prod.fst := by simp [Ne.symm e]
      simp only [hmem, hread, hm]
theorem copySpan_mem (s : State) (src dst : Nat → Option Nat) (place : Nat → Nat) : (copySpan s src dst place).mem =
    s.mem.foldl (copyByte src place) (s.mem.filter fun x => (dst x.1).isNone) := rfl
/-- Byte j of the source is at its place after a copy. -/
theorem copySpan_read {s : State} (hwf : s.mem.wf = true) {src dst : Nat → Option Nat} {place : Nat → Nat} {a j : Nat} (hsrc : src a = some j)
    (hinj : ∀ k i, src k = some i → k ≠ a → place i ≠ place j) (hdst : dst (place j) ≠ none) :
    (copySpan s src dst place).mem.read (place j) = s.mem.read a := by
  rw [copySpan_mem, foldl_copyByte_read hsrc hinj _ _ (SMap.nodup_of_canon hwf).2]
  split
  · rfl
  · next h =>
    have h0 : Memory.read (s.mem.filter fun x => (dst x.1).isNone) (place j) = Memory.blank := by
      unfold Memory.read
      rw [SMap.get_filter _ fun k => (dst k).isNone, if_neg (by simpa using hdst)]
    rw [h0]; exact (SMap.get_of_not_listed _ h).symm

theorem devOffset_eq_some {off len loc i : Nat} : devOffset off len loc = some i ↔ loc = hbmLoc (off + i) ∧ i < len := by
  unfold devOffset hbmLoc
  split
  · next h => rw [Option.some.injEq]; omega
  · next h => simp only [false_iff, reduceCtorEq]; omega
theorem hbmLoc_inj {p q : Nat} (h : hbmLoc p = hbmLoc q) : p = q := by unfold hbmLoc at h; omega
/-- Where a host physical address stands: in the HDM window or in host memory. -/
theorem physLoc_cases (s : State) (p : Nat) :
    (s.pkg.hdmSet = true ∧ s.pkg.hdmBase.toNat ≤ p ∧ p < s.pkg.hdmBase.toNat + 2 ^ 40 ∧ physLoc s p = 2 ^ 64 + (p - s.pkg.hdmBase.toNat)) ∨
      physLoc s p = 2 ^ 65 + p := by
  unfold physLoc; dsimp only
  split
  · next h => exact .inl ⟨h.1, h.2.1, h.2.2, rfl⟩
  · exact .inr rfl
theorem physLoc_inj {s : State} {p q : Nat} (h : physLoc s p = physLoc s q) : p = q := by
  rcases physLoc_cases s p with ⟨-, hp1, hp2, hp⟩ | hp <;> rcases physLoc_cases s q with ⟨-, hq1, hq2, hq⟩ | hq <;> omega
theorem physLoc_of_hostOffset {s : State} {base len loc i : Nat} (h : hostOffset s base len loc = some i) :
    loc = physLoc s (base + i) ∧ i < len := by
  unfold hostOffset at h; dsimp only at h
  split at h
  · next a _ =>
    split at h
    · next hc =>
      obtain ⟨h1, h2, h3⟩ := hc
      obtain rfl := Option.some.inj h
      rw [Nat.add_sub_cancel' h2]
      exact ⟨h1.symm, by omega⟩
    · cases h
  · cases h
theorem hostOffset_physLoc (s : State) {base len i : Nat} (hi : i < len) (hb : base + len ≤ 2 ^ 52) :
    hostOffset s base len (physLoc s (base + i)) = some i := by
  have ha : (if isHostLoc (physLoc s (base + i)) then some (physLoc s (base + i) - 2 ^ 65)
      else if isHbmLoc (physLoc s (base + i)) ∧ s.pkg.hdmSet then some (physLoc s (base + i) - 2 ^ 64 + s.pkg.hdmBase.toNat) else none) =
        some (base + i) := by
    rcases physLoc_cases s (base + i) with ⟨hs, h1, h2, hp⟩ | hp <;> rw [hp]
    · have hhost : isHostLoc (2 ^ 64 + (base + i - s.pkg.hdmBase.toNat)) = false := by
        simp only [isHostLoc, Bool.and_eq_false_iff, decide_eq_false_iff_not]; omega
      have hhbm : isHbmLoc (2 ^ 64 + (base + i - s.pkg.hdmBase.toNat)) = true := by
        simp only [isHbmLoc, Bool.and_eq_true, decide_eq_true_eq]; omega
      rw [hhost, hhbm, hs, if_neg Bool.false_ne_true, if_pos ⟨rfl, rfl⟩, Option.some.injEq]; omega
    · have hhost : isHostLoc (2 ^ 65 + (base + i)) = true := by
        simp only [isHostLoc, Bool.and_eq_true, decide_eq_true_eq]; omega
      rw [hhost, if_pos rfl, Option.some.injEq]; omega
  unfold hostOffset; dsimp only
  rw [ha]
  exact (if_pos ⟨rfl, by omega, by omega⟩).trans (congrArg some (by omega))

/-- R421: a checkpoint copies device memory to the host's buffer. -/
theorem copyDevice_saves {s : State} (hwf : s.mem.wf = true) {base len off i : Nat} (hb : base + len ≤ 2 ^ 52) (hi : i < len) :
    (copyDevice s false base len off).mem.read (physLoc s (base + i)) = s.mem.read (hbmLoc (off + i)) := by
  refine copySpan_read hwf (place := fun i => physLoc s (base + i)) (devOffset_eq_some.2 ⟨rfl, hi⟩) (fun k n hk hne he => hne ?_) ?_
  · have hn : base + n = base + i := physLoc_inj he
    rw [(devOffset_eq_some.1 hk).1, show n = i by omega]
  · rw [hostOffset_physLoc s hi hb]; exact Option.some_ne_none i
/-- R421: a restore copies the host's buffer to device memory. -/
theorem copyDevice_restores {s : State} (hwf : s.mem.wf = true) {base len off i : Nat} (hb : base + len ≤ 2 ^ 52) (hi : i < len) :
    (copyDevice s true base len off).mem.read (hbmLoc (off + i)) = s.mem.read (physLoc s (base + i)) := by
  refine copySpan_read hwf (place := fun i => hbmLoc (off + i)) (hostOffset_physLoc s hi hb) (fun k n hk hne he => hne ?_) ?_
  · have hn : off + n = off + i := hbmLoc_inj he
    rw [(physLoc_of_hostOffset hk).1, show n = i by omega]
  · rw [devOffset_eq_some.2 ⟨rfl, hi⟩]; exact Option.some_ne_none i
theorem copyDevice_pkg (s : State) (r : Bool) (base len off : Nat) : (copyDevice s r base len off).pkg = s.pkg := by
  unfold copyDevice; split <;> rfl
theorem exec_chkptCompletion (s : State) : exec .chkptCompletion s = execChkptCompletion s := rfl
theorem chkptCompletion_answers {s : State} {r : Bool} {tag base len off : Nat} (h0 : s.pkg.rspRing = 0) (h : s.pkg.chk = some (r, tag, base, len, off)) :
    exec .chkptCompletion s = .next (Spec.answered ((copyDevice s r base len off).modPkg fun P => { P with chk := none }) tag 0 [len]) := by
  rw [exec_chkptCompletion]
  unfold execChkptCompletion
  rw [h]
  dsimp only
  rw [respond_eq_answered]
  · rfl
  · exact (congrArg Pkg.rspRing (copyDevice_pkg s r base len off)).trans h0

/-! R416: COUNTERS. -/

theorem exec_counters (tag die clu buf : Nat) (s : State) :
    exec (.counters tag die clu buf) s = .next (closeCmd tag (cmdCounters s die clu buf)) := rfl
theorem cmdCounters_bad (s : State) {die clu buf : Nat} (h : 8 ≤ die ∨ 64 ≤ clu ∨ buf % 64 ≠ 0) :
    cmdCounters s die clu buf = { st := s, status := 1 } := if_pos h
theorem cmdCounters_gone {s : State} {die clu buf : Nat} (h : ¬(8 ≤ die ∨ 64 ≤ clu ∨ buf % 64 ≠ 0)) (hg : cluGone s (die * 64 + clu) = true) :
    cmdCounters s die clu buf = { st := s, status := 3 } := (if_neg h).trans (if_pos hg)
theorem cmdCounters_reads {s : State} {die clu buf : Nat} (h : ¬(8 ≤ die ∨ 64 ≤ clu ∨ buf % 64 ≠ 0)) (hg : cluGone s (die * 64 + clu) = false) :
    cmdCounters s die clu buf = { st := (devWrites s 0 0 true 0 ((List.range 16).map fun i =>
      (buf + 64 * i, ((countersBlock s (die * 64 + clu)).drop (64 * i)).take 64))).1, status := 0, results := [1024] } :=
  (if_neg h).trans (if_neg (by simp [hg]))
theorem standing_devReach (s : State) (g slot : Nat) (host : Bool) (a n : Nat) (w : Bool) : standing (devReach s g slot host a n w).1 = standing s := by
  unfold devReach
  split
  · rfl
  split
  · rfl
  · exact standing_reach _ _ _ _ _
theorem standing_devWrites (g slot : Nat) (host : Bool) (l : List (Nat × List Byte)) :
    ∀ k s, standing (devWrites s g slot host k l).1 = standing s := by
  induction l with
  | nil => intro k s; rfl
  | cons e r ih =>
    intro k s
    have hw : standing (engWrite (devReach s g slot host e.1 1 true).1 (ringAgent g slot) (devReach s g slot host e.1 1 true).2 e.2 false k).1 =
      standing s := (standing_engWrite _ _ _ _ _ _).trans (standing_devReach _ _ _ _ _ _ _)
    unfold devWrites; dsimp only
    split
    · next h => rw [h] at hw; exact (ih _ _).trans hw
    · next h => rw [h] at hw; exact hw
    · next h => rw [h] at hw; exact hw

/-- R412, R424: what a RELOAD that the scanner admits leaves. -/
theorem reload_admitted {s u : State} (tag : Nat) {die clu addr len : Nat} {l : List Byte} (h0 : s.pkg.rspRing = 0)
    (h : ¬(8 ≤ die ∨ 64 ≤ clu ∨ len = 0 ∨ 65536 < len ∨ len % 4 ≠ 0)) (hg : cluGone s (die * 64 + clu) = false)
    (hr : devRead s (die * 64 + clu) 0 true 1025 addr len = (u, .ok l false))
    (hf : firmwareFault (loadMordant s (die * 64 + clu) l) (8192 + (die * 64 + clu)) (l.length / 4) = none) :
    ∃ t, exec (.reload tag die clu addr len) s = .next t ∧
      (∀ i, i < l.length / 4 → SMap.get false (t.core (8192 + (die * 64 + clu))).exec i = true) ∧
      (∀ i, i < l.length → t.mem.read (padBase (8192 + (die * 64 + clu)) + i) = l.getD i 0) ∧ t.pkg.reloads = s.pkg.reloads + 1 ∧
      SMap.get [] t.pkg.measured 2 = Config.sha384 l ∧ (t.core (8192 + (die * 64 + clu))).isSealed = false ∧
      (t.core (8192 + (die * 64 + clu))).cycle = (s.core (8192 + (die * 64 + clu))).cycle ∧ t.hart (32768 + (die * 64 + clu)) = {} := by
  have hcmd := (cmdReload_read h hg hr).trans (congrArg (Option.elim · _ _) (startMordant_admitted hf))
  generalize die * 64 + clu = g at hcmd
  have hcore := mordantStarted_core s g l (8192 + g)
  rw [if_pos rfl] at hcore
  have hhart := mordantStarted_hart s g l (32768 + g)
  rw [if_pos rfl] at hhart
  refine ⟨_, exec_reload tag die clu addr len s, ?_⟩
  rw [hcmd, Option.elim_some, closeCmd_now rfl (by exact h0)]
  refine ⟨fun i hi => ?_, fun i hi => loadMordant_read s g l hi, rfl, SMap.get_put_same _ _ _ _, congrArg Core.isSealed hcore,
    (congrArg Core.cycle hcore).trans rfl, hhart⟩
  exact (congrArg (fun C : Core => SMap.get false C.exec i) hcore).trans (freshMordant_exec s g hi)

/-- R412, R416, R420, R421, R424. -/
theorem unitCommands : Spec.unitCommands := by
  intro s tag h0
  refine ⟨fun slot root lseq => ⟨fun h => ?_, fun n h => endlaunch_found tag h0 h⟩, fun u hu => ?_, fun u hu => ?_, fun kind u h => ?_,
    fun die clu addr len => ⟨fun h => ?_, fun h1 h2 h3 h4 h5 => ⟨fun hg => ?_, fun u l hg hr hf => ?_, fun u l hg hr hf => ?_⟩⟩,
    fun base len off => ⟨fun h => ⟨?_, ?_⟩, fun h hq => ⟨?_, ?_⟩, fun h hq => ⟨?_, ?_⟩⟩, fun h => ?_,
    fun base len off hwf ho hb => ⟨fun h => ?_, fun h => ?_⟩,
    fun die clu buf => ⟨fun h => ?_, fun h1 h2 h3 hg => ?_, fun h1 h2 h3 hg => ?_⟩⟩
  · have hcmd : cmdEndlaunch s slot root lseq = { st := s, status := 1 } := by unfold cmdEndlaunch; rw [h]; rfl
    rw [exec_endlaunch, hcmd, closeCmd_now rfl h0]
  · rw [exec_retire, cmdRetire_port s hu, closeCmd_now rfl (by exact h0)]
    refine ⟨_, rfl, ?_, ?_⟩
    · exact congrArg Port.down ((portOf_setPort s u u { portOf s u with down := true }).trans (if_pos rfl))
    · exact mem_nv_record _ 5 u
  · rw [exec_retire, cmdRetire_die s hu, closeCmd_now rfl ((failDie_rspRing s u).trans h0)]
    exact ⟨_, rfl, failDie_isFailed s u, mem_nv_failDie⟩
  · rw [exec_retire, cmdRetire_bad s h, closeCmd_now rfl h0]
  · rw [exec_reload, cmdReload_bad s addr h, closeCmd_now rfl h0]
  · rw [exec_reload, cmdReload_gone addr (by omega) hg, closeCmd_now rfl h0]
  · rw [exec_reload, cmdReload_read (by omega) hg hr, startMordant_refused hf]
    exact congrArg _ (closeCmd_now rfl h0)
  · exact reload_admitted tag h0 (by omega) hg hr hf
  · rw [exec_chkpt, cmdChk_bad (mt (chkArgs_iff base len off).1 h), closeCmd_now rfl h0]
  · rw [exec_restore, cmdChk_bad (mt (chkArgs_iff base len off).1 h), closeCmd_now rfl h0]
  · rw [exec_chkpt, cmdChk_busy ((chkArgs_iff base len off).2 h) (mt (chkIdle_iff s).1 hq), closeCmd_now rfl h0]
  · rw [exec_restore, cmdChk_busy ((chkArgs_iff base len off).2 h) (mt (chkIdle_iff s).1 hq), closeCmd_now rfl h0]
  · rw [exec_chkpt, cmdChk_begins ((chkArgs_iff base len off).2 h) ((chkIdle_iff s).2 hq)]; rfl
  · rw [exec_restore, cmdChk_begins ((chkArgs_iff base len off).2 h) ((chkIdle_iff s).2 hq)]; rfl
  · rw [exec_chkptCompletion]; unfold execChkptCompletion; rw [h]
  · rw [chkptCompletion_answers h0 h]
    exact ⟨_, rfl, rfl, by rw [← copyDevice_pkg s false base len off]; rfl, fun i hi => copyDevice_saves hwf hb hi⟩
  · rw [chkptCompletion_answers h0 h]
    exact ⟨_, rfl, rfl, by rw [← copyDevice_pkg s true base len off]; rfl, fun i hi => copyDevice_restores hwf hb hi⟩
  · rw [exec_counters, cmdCounters_bad s h, closeCmd_now rfl h0]
  · rw [exec_counters, cmdCounters_gone (by omega) hg, closeCmd_now rfl h0]
  · rw [exec_counters, cmdCounters_reads (by omega) hg, closeCmd_now rfl]
    · exact ⟨_, rfl, rfl⟩
    · exact (pkg_of_standing (standing_devWrites 0 0 true _ 0 s) Pkg.rspRing fun _ => rfl).trans h0

end Sys2Proof.Machine

/-! A package that is idle: nothing is under way in it, and seals and retirements then touch only what they name. -/

namespace Sys2Proof

/-- What the value of a key and the default satisfy, the value satisfies once the map's values are replaced by such. -/
theorem SMap.get_map_of {α : Type} (P : α → Prop) (d : α) (hd : P d) (f : Nat × α → α) (hf : ∀ x, P x.2 → P (f x)) (k : Nat) :
    ∀ m : SMap α, P (SMap.get d m k) → P (SMap.get d (m.map fun x => (x.1, f x)) k)
  | [], _ => hd
  | (j, v) :: r, h => by
    by_cases e : j = k
    · simp only [SMap.get, List.map_cons, if_pos e] at h ⊢
      exact hf (j, v) h
    · simp only [SMap.get, List.map_cons, if_neg e] at h ⊢
      exact SMap.get_map_of P d hd f hf k r h

end Sys2Proof

namespace Sys2Proof.Machine
open Sys2Proof

/-- A hart with no task and no unit of the engines; a core, a cluster with nothing queued. -/
def idleHart (H : Hart) : Prop := H.task = none ∧ H.slots = [] ∧ H.accs = []
def idleCore (C : Core) : Prop := C.feWait = [] ∧ C.deposits = [] ∧ C.arrQ = [] ∧ C.spill = []
def idleCluster (G : Cluster) : Prop := G.queue = [] ∧ G.groups = [] ∧ G.waiting = [] ∧ G.matQ = [] ∧ G.mergeQ = [] ∧ G.convQ = []

/-- Nothing is under way in the package, as at bring-up. -/
structure Idle (s : State) : Prop where
  net : s.net = []
  barriers : s.pkg.barriers = []
  launches : s.pkg.launches = []
  hart : ∀ h, idleHart (s.hart h)
  core : ∀ c, idleCore (s.core c)
  cluster : ∀ g, idleCluster (s.cluster g)

/-- t is an idle package that differs from s, as far as memory, harts, executable words and seals go, in cores of p only. -/
structure Hush (p : Nat → Prop) (s t : State) : Prop where
  idle : Idle t
  mem : t.mem = s.mem
  hart : ∀ k, ¬p k → ∀ h ∈ hartsOf k, t.hart h = s.hart h
  exec : ∀ k, (t.core k).exec = (s.core k).exec
  isSealed : ∀ k, ¬p k → (t.core k).isSealed = (s.core k).isSealed

/-- Each hart is of one core. -/
theorem hartsOf_inj {h c k : Nat} (hc : h ∈ hartsOf c) (hk : h ∈ hartsOf k) : c = k := by
  unfold hartsOf at hc hk
  split at hc <;> split at hk <;> simp only [List.mem_cons, List.not_mem_nil, or_false] at hc hk <;> omega

namespace Hush
variable {p : Nat → Prop} {s t u : State}

theorem refl (hs : Idle s) : Hush p s s := ⟨hs, rfl, fun _ _ _ _ => rfl, fun _ => rfl, fun _ _ => rfl⟩
theorem trans (h : Hush p s t) (k : Hush p t u) : Hush p s u :=
  ⟨k.idle, k.mem.trans h.mem, fun c hc i hi => (k.hart c hc i hi).trans (h.hart c hc i hi), fun c => (k.exec c).trans (h.exec c),
    fun c hc => (k.isSealed c hc).trans (h.isSealed c hc)⟩
theorem mono {q : Nat → Prop} (hpq : ∀ k, p k → q k) (h : Hush p s t) : Hush q s t :=
  ⟨h.idle, h.mem, fun c hc => h.hart c fun hp => hc (hpq c hp), h.exec, fun c hc => h.isSealed c fun hp => hc (hpq c hp)⟩
theorem foldl {α : Type} {f : State → α → State} {l : List α} (hf : ∀ s, Idle s → ∀ a ∈ l, Hush p s (f s a)) :
    ∀ s, Idle s → Hush p s (l.foldl f s) := by
  induction l with
  | nil => exact fun s hs => refl hs
  | cons a r ih =>
    intro s hs
    have h := hf s hs a List.mem_cons_self
    exact h.trans (ih (fun s hs b hb => hf s hs b (List.mem_cons_of_mem a hb)) _ h.idle)

theorem modHart (hs : Idle s) {n c : Nat} (hn : n ∈ hartsOf c) (hc : p c) {f : Hart → Hart} (hf : ∀ H, idleHart H → idleHart (f H)) :
    Hush p s (s.modHart n f) := by
  refine ⟨⟨hs.net, hs.barriers, hs.launches, fun h => ?_, hs.core, hs.cluster⟩, rfl, fun k hk h hh => ?_, fun _ => rfl, fun _ _ => rfl⟩
  · rw [State.modHart_hart]; split
    · exact hf _ (hs.hart n)
    · exact hs.hart h
  · rw [State.modHart_hart, if_neg]
    rintro rfl
    exact hk (hartsOf_inj hn hh ▸ hc)
theorem modCore (hs : Idle s) {n : Nat} {f : Core → Core} (hf : ∀ C, idleCore C → idleCore (f C)) (he : ∀ C, (f C).exec = C.exec)
    (hp : p n ∨ ∀ C, (f C).isSealed = C.isSealed) : Hush p s (s.modCore n f) := by
  refine ⟨⟨hs.net, hs.barriers, hs.launches, hs.hart, fun c => ?_, hs.cluster⟩, rfl, fun _ _ _ _ => rfl, fun k => ?_, fun k hk => ?_⟩ <;>
    rw [State.modCore_core] <;> split
  · exact hf _ (hs.core n)
  · exact hs.core c
  · next e => rw [e, he]
  · rfl
  · next e => rw [e]; exact (hp.resolve_left (e ▸ hk)) _
  · rfl
theorem modCluster (hs : Idle s) (n : Nat) {f : Cluster → Cluster} (hf : ∀ G, idleCluster G → idleCluster (f G)) : Hush p s (s.modCluster n f) := by
  refine ⟨⟨hs.net, hs.barriers, hs.launches, hs.hart, hs.core, fun g => ?_⟩, rfl, fun _ _ _ _ => rfl, fun _ => rfl, fun _ _ => rfl⟩
  rw [State.modCluster_cluster]; split
  · exact hf _ (hs.cluster n)
  · exact hs.cluster g
theorem modPkg (hs : Idle s) {f : Pkg → Pkg} (hb : (f s.pkg).barriers = []) (hl : (f s.pkg).launches = []) : Hush p s (s.modPkg f) :=
  ⟨⟨hs.net, hb, hl, hs.hart, hs.core, hs.cluster⟩, rfl, fun _ _ _ _ => rfl, fun _ => rfl, fun _ _ => rfl⟩

/-! The parts of a seal. -/

theorem refuseWaiters (hs : Idle s) (c : Nat) : Hush p s (refuseWaiters s c) := by
  unfold Machine.refuseWaiters; dsimp only
  rw [(hs.core c).1, List.foldl_nil]
  exact modCore hs (fun C h => ⟨rfl, h.2⟩) (fun _ => rfl) (.inr fun _ => rfl)
theorem refuseDeposits (hs : Idle s) (c : Nat) (q : Packet → Bool) : Hush p s (refuseDeposits s c q) := by
  unfold Machine.refuseDeposits; dsimp only
  rw [(hs.core c).2.1, List.filter_nil, List.foldl_nil]
  exact modCore hs (fun C h => ⟨h.1, by rw [h.2.1, List.filter_nil], h.2.2⟩) (fun _ => rfl) (.inr fun _ => rfl)
theorem discardOf (hs : Idle s) (g : Nat) (q : Nat → Bool) : Hush p s (discardOf s g q) := by
  obtain ⟨-, -, -, hm, -, -⟩ := hs.cluster g
  unfold Machine.discardOf; dsimp only
  rw [hm, List.filter_nil, List.foldl_nil]
  refine modCluster hs g fun G h => ?_
  obtain ⟨h1, h2, h3, h4, h5, h6⟩ := h
  exact ⟨h1, h2, h3, by rw [h4, List.filter_nil], h5, h6⟩
theorem unmap (hs : Idle s) {h c : Nat} (hh : h ∈ hartsOf c) (hc : p c) (acc : Bool) : Hush p s (unmap s h acc []) := by
  unfold Machine.unmap
  exact modHart hs hh hc fun H hi => by
    obtain ⟨h1, h2, h3⟩ := hi
    cases acc
    · exact ⟨h1, (hs.hart h).2.1, h3⟩
    · exact ⟨h1, h2, (hs.hart h).2.2⟩
theorem unmapAll (hs : Idle s) {h c : Nat} (hh : h ∈ hartsOf c) (hc : p c) : Hush p s (unmapAll s h) := by
  have h1 : Hush p s (Machine.unmap s h false []) := unmap hs hh hc false
  unfold Machine.unmapAll; dsimp only
  rw [(hs.hart h).2.1, List.map_nil, (h1.idle.hart h).2.2, List.map_nil]
  exact h1.trans (unmap h1.idle hh hc true)
theorem dropMatrix (hs : Idle s) {c : Nat} (hc : p c) : Hush p s (dropMatrix s c) := by
  unfold Machine.dropMatrix; dsimp only
  have h1 : Hush p s _ := discardOf hs (cluOf c) fun h => coreOf h == c
  have h2 := h1.trans (foldl (f := fun s h => Machine.unmapAll s h) (fun s hs h hh => unmapAll hs hh hc) _ h1.idle)
  refine h2.trans (modCluster h2.idle _ fun G h => ?_)
  split
  · unfold endLease; split <;> exact h
  · exact h
theorem dropSparse (hs : Idle s) (c : Nat) : Hush p s (dropSparse s c) := by
  obtain ⟨-, -, -, -, hm, hv⟩ := hs.cluster (cluOf c)
  unfold Machine.dropSparse dropSparseOf; dsimp only
  simp only [hm, hv, List.append_nil, List.filter_nil, List.foldl_nil]
  generalize (s.cluster (cluOf c)).mergeRun = a
  generalize (s.cluster (cluOf c)).convRun = b
  cases a <;> cases b <;> refine modCluster hs _ fun G h => ?_
  all_goals
    obtain ⟨h1, h2, h3, h4, h5, h6⟩ := h
    exact ⟨h1, h2, h3, h4, by simp [h5], by simp [h6]⟩
theorem dropCopies (hs : Idle s) (c : Nat) : Hush p s (dropCopies s c) := by
  refine modCluster hs _ fun G h => ?_
  dsimp only
  split <;> split <;> exact h
theorem loseTask (hs : Idle s) (h : Nat) : Machine.loseTask s h = s := by
  unfold Machine.loseTask; rw [(hs.hart h).1]
theorem loseResumes (hs : Idle s) (c : Nat) : Hush p s (loseResumes s c) := by
  unfold Machine.loseResumes; dsimp only
  rw [(hs.cluster (cluOf c)).1, List.filter_nil, List.foldl_nil]
  exact modCluster hs _ fun G h => ⟨by simp [h.1], h.2⟩
theorem sealHarts (hs : Idle s) {c : Nat} (hc : p c) : Hush p s ((hartsOf c).foldl (fun s h => s.modHart h sealHart) s) :=
  foldl (fun _ hs _ hh => modHart (f := sealHart) hs hh hc fun _ hi => ⟨rfl, hi.2⟩) s hs
theorem barrierCheck (hs : Idle s) : Machine.barrierCheck s = s := by
  unfold Machine.barrierCheck; rw [hs.barriers]; rfl
theorem orphanAll (hs : Idle s) (c : Nat) : Hush p s (orphanAll s c) := by
  have hexec : ∀ k, ((Machine.orphanAll s c).core k).exec = (s.core k).exec := fun k =>
    SMap.get_map_keeps Core.exec {} _ (by intro _; rfl) k s.cores
  have hseal : ∀ k, ((Machine.orphanAll s c).core k).isSealed = (s.core k).isSealed := fun k =>
    SMap.get_map_keeps Core.isSealed {} _ (by intro _; rfl) k s.cores
  refine ⟨⟨?_, hs.barriers, hs.launches, hs.hart, fun k => ?_, hs.cluster⟩, rfl, fun _ _ _ _ => rfl, hexec, fun k _ => hseal k⟩
  · unfold Machine.orphanAll; dsimp only
    show orphans c _ s.net = []
    rw [hs.net]; rfl
  · refine SMap.get_map_of idleCore {} ⟨rfl, rfl, rfl, rfl⟩ _ (fun x hx => ?_) k s.cores (hs.core k)
    obtain ⟨h1, h2, h3, h4⟩ := hx
    refine ⟨?_, ?_, h3, h4⟩
    · show (if x.1 = c then x.2.feWait else List.filter _ x.2.feWait) = []
      rw [h1]; simp
    · show (if x.1 = c then x.2.deposits else List.map _ x.2.deposits) = []
      rw [h2]; simp

/-- A seal in an idle package touches its core. -/
theorem sealCore (hs : Idle s) (c : Nat) : Hush (· = c) s (sealCore s c) := by
  unfold Machine.sealCore; dsimp only
  split
  · exact refl hs
  have h1 : Hush (· = c) s (Machine.refuseDeposits (Machine.refuseWaiters s c) c fun _ => true) :=
    (refuseWaiters hs c).trans (refuseDeposits (refuseWaiters (p := (· = c)) hs c).idle c _)
  have h2 := h1.trans (dropMatrix h1.idle (c := c) rfl)
  have h3 := h2.trans (dropSparse h2.idle c)
  have h4 := h3.trans (dropCopies h3.idle c)
  have h5 := h4.trans (foldl (l := hartsOf c) (f := fun s h => Machine.loseTask s h) (fun s hs h _ => by rw [loseTask hs]; exact refl hs) _ h4.idle)
  have h6 := h5.trans (loseResumes h5.idle c)
  obtain ⟨-, -, ha, hp⟩ := hs.core c
  rw [ha, hp, List.append_nil, List.foldl_nil]
  have h7 := h6.trans (sealHarts h6.idle (c := c) rfl)
  have h8 := h7.trans (modCore h7.idle (n := c) (f := fun C =>
    { C with isSealed := true, inbox := [], locks := [], arrQ := [], spill := [], frames := [], commits := [], streak := 0 })
    (fun C h => ⟨h.1, h.2.1, rfl, rfl⟩) (fun _ => rfl) (.inl rfl))
  have h9 := h8.trans (modCluster h8.idle (cluOf c) (f := fun G =>
    { G with keep := G.keep.map fun k => match k.hart with
        | some h => if coreOf h = c then { k with hart := none } else k
        | none => k }) fun _ h => h)
  have h10 := h9.trans (modPkg h9.idle (f := fun P =>
    { P with
      barriers := P.barriers.map fun b => { b with harts := b.harts.filter fun h => coreOf h != c }
      launches := P.launches.map fun (n, L) => (n, if L.contained.contains c then L else { L with contained := L.contained ++ [c] }) })
    (congrArg (List.map _) h9.idle.barriers) (congrArg (List.map _) h9.idle.launches))
  have h11 := h10.trans (orphanAll h10.idle c)
  have he := barrierCheck h11.idle
  rw [← he] at h11
  exact h11

end Hush
end Sys2Proof.Machine

/-! Bring-up (R425): its steps up to the release of the cores. -/

namespace Sys2Proof.Machine
open Sys2Proof

theorem mem_coresOf {g k : Nat} : k ∈ coresOf g ↔ g * 16 ≤ k ∧ k < g * 16 + 16 := by
  simp only [coresOf, coreAt, List.mem_map, List.mem_range]
  exact ⟨by rintro ⟨i, hi, rfl⟩; omega, fun h => ⟨k - g * 16, by omega, by omega⟩⟩

namespace Hush
variable {s : State}

theorem record {p : Nat → Prop} (hs : Idle s) (k u : Nat) : Hush p s (record s k u) := modPkg hs hs.barriers hs.launches
/-- The retirement of a cluster in an idle package touches its worker cores. -/
theorem retireCluster (hs : Idle s) (g : Nat) : Hush (· ∈ coresOf g) s (retireCluster s g) := by
  unfold Machine.retireCluster; dsimp only
  split
  · exact refl hs
  have h1 : Hush (· ∈ coresOf g) s ((coresOf g).foldl Machine.sealCore s) :=
    foldl (fun s hs c hc => (sealCore hs c).mono fun _ hk => hk ▸ hc) s hs
  obtain ⟨hq, ht, hw, -, -, -⟩ := h1.idle.cluster g
  rw [hq, List.foldl_nil, ht, List.foldl_nil, hw, List.foldl_nil]
  have h2 := h1.trans (record h1.idle 2 g)
  have h3 := h2.trans (modCluster h2.idle g (f := fun G => { G with isRetired := true, q := 0, queue := [], groups := [], waiting := [] })
    fun G h => ⟨rfl, rfl, rfl, h.2.2.2⟩)
  have he := barrierCheck h3.idle
  rw [← he] at h3
  exact h3
theorem clusterRule (hs : Idle s) (g : Nat) : Hush (· ∈ coresOf g) s (clusterRule s g) := by
  unfold Machine.clusterRule; split
  · exact retireCluster hs g
  · exact refl hs
theorem retireAlone (hs : Idle s) (c : Nat) : Hush (· = c) s (Machine.record ((Machine.sealCore s c).modCore c fun C => { C with isRetired := true }) 1 c) := by
  have h1 := sealCore hs c
  have h2 := h1.trans (modCore h1.idle (n := c) (f := fun C => { C with isRetired := true }) (fun _ h => h) (fun _ => rfl) (.inl rfl))
  exact h2.trans (record h2.idle 1 c)
/-- The retirement of a core in an idle package touches cores of its cluster. -/
theorem retireCore (hs : Idle s) (c : Nat) : Hush (fun k => k = c ∨ k ∈ coresOf (cluOf c)) s (retireCore s c) :=
  ((retireAlone hs c).mono fun _ => .inl).trans ((clusterRule (retireAlone hs c).idle _).mono fun _ => .inr)

end Hush

theorem isRetired_retireCluster (s : State) (g : Nat) : ((retireCluster s g).cluster g).isRetired = true := by
  by_cases h : (s.cluster g).isRetired = true
  · rw [retireCluster_retired h]; exact h
  · exact (retireCluster_cluster (Bool.eq_false_of_not_eq_true h)).1
/-- It touches that core alone, where it does not retire the cluster. -/
theorem hush_retireCore_alone {s : State} (hs : Idle s) {c : Nat} (h : ((retireCore s c).cluster (cluOf c)).isRetired = false) :
    Hush (· = c) s (retireCore s c) := by
  have h1 := Hush.retireAlone hs c
  unfold retireCore clusterRule at h ⊢
  split at h
  · rw [isRetired_retireCluster] at h; cases h
  · next hc => rw [if_neg hc]; exact h1

/-! The state of a package at bring-up. -/

/-- A state of the package at bring-up, as it has come from state A: idle, with the host's memory, the package's settings and its
records, and no Mordant core of a failed die released. -/
structure Booting (A s : State) : Prop where
  idle : Idle s
  host : ∀ a, 2 ^ 65 ≤ a → a < 2 ^ 66 → s.mem.read a = A.mem.read a
  config : pkgConfig s.pkg = pkgConfig A.pkg
  nv : ∀ e ∈ A.pkg.nv, e ∈ s.pkg.nv
  mordant : ∀ g, (s.core (8192 + g)).isSealed = true ∨ (s.die (dieOf g)).isFailed = false

theorem Booting.worn {A s t : State} (h : Booting A s) (w : Worn s t) (hi : Idle t)
    (hm : ∀ a, 2 ^ 65 ≤ a → a < 2 ^ 66 → t.mem.read a = s.mem.read a) : Booting A t where
  idle := hi
  host a h1 h2 := (hm a h1 h2).trans (h.host a h1 h2)
  config := w.config.trans h.config
  nv e he := w.nv e (h.nv e he)
  mordant g := (h.mordant g).imp (w.isSealed _) fun hd => (w.dieFailed _).trans hd
theorem Booting.hush {A s t : State} {p : Nat → Prop} (h : Booting A s) (w : Worn s t) (hh : Hush p s t) : Booting A t :=
  h.worn w hh.idle fun a _ _ => congrArg (Memory.read · a) hh.mem

/-! The records of retirements. -/

theorem Hush.modDie {p : Nat → Prop} {s : State} (hs : Idle s) (d : Nat) (f : Die → Die) : Hush p s (s.modDie d f) :=
  ⟨⟨hs.net, hs.barriers, hs.launches, hs.hart, hs.core, hs.cluster⟩, rfl, fun _ _ _ _ => rfl, fun _ => rfl, fun _ _ => rfl⟩
theorem Hush.setLink {p : Nat → Prop} {s : State} (hs : Idle s) (l : Nat) (L : Link) : Hush p s (setLink s l L) :=
  ⟨⟨hs.net, hs.barriers, hs.launches, hs.hart, hs.core, hs.cluster⟩, rfl, fun _ _ _ _ => rfl, fun _ => rfl, fun _ _ => rfl⟩
theorem Hush.setPort {p : Nat → Prop} {s : State} (hs : Idle s) (k : Nat) (P : Port) : Hush p s (setPort s k P) :=
  modPkg hs hs.barriers hs.launches
/-- A record touches no core but to say what of it is retired. -/
theorem Hush.applyRecord {s : State} (hs : Idle s) (e : Nat × Nat) : Hush (fun _ => False) s (applyRecord s e) := by
  unfold Machine.applyRecord
  split
  · exact modCore hs (fun _ h => h) (fun _ => rfl) (.inr fun _ => rfl)
  · exact modCore hs (fun _ h => h) (fun _ => rfl) (.inr fun _ => rfl)
  · exact modCluster hs _ fun _ h => h
  · exact modDie hs _ _
  · have h1 : Hush (fun _ => False) s _ := setLink hs (2 * e.2) { up := false, isRetired := true }
    exact h1.trans (setLink h1.idle _ _)
  · exact setPort hs _ _
  · exact setPort hs _ _
theorem applyRecord_config (s : State) (e : Nat × Nat) : pkgConfig (applyRecord s e).pkg = pkgConfig s.pkg := by
  unfold applyRecord; split <;> rfl
theorem applyRecord_nv (s : State) (e : Nat × Nat) : (applyRecord s e).pkg.nv = s.pkg.nv := by
  unfold applyRecord; split <;> rfl
/-- Before a core is released every core is sealed. -/
theorem booting_applyRecords {A s : State} (l : List (Nat × Nat)) (h : Booting A s) (hc : ∀ c, (s.core c).isSealed = true) :
    Booting A (l.foldl applyRecord s) ∧ ∀ c, ((l.foldl applyRecord s).core c).isSealed = true := by
  have hh := Hush.foldl (f := applyRecord) (l := l) (fun s hs e _ => Hush.applyRecord hs e) s h.idle
  have hsealed : ∀ c, ((l.foldl applyRecord s).core c).isSealed = true := fun c => (hh.isSealed c id).trans (hc c)
  refine ⟨⟨hh.idle, fun a h1 h2 => ?_, ?_, ?_, fun g => .inl (hsealed _)⟩, hsealed⟩
  · rw [hh.mem]; exact h.host a h1 h2
  · exact (foldl_keeps (fun s => pkgConfig s.pkg) applyRecord applyRecord_config l s).trans h.config
  · rw [foldl_keeps (fun s => s.pkg.nv) applyRecord applyRecord_nv l s]; exact h.nv

/-! Route tables and keys. -/

theorem standing_loadTables (s : State) : standing (loadTables s) = standing s := by
  unfold loadTables; dsimp only
  rw [foldl_keeps standing _ fun s k => ?_, foldl_keeps standing _ fun s d => standing_modDie _ _ _ rfl]
  split <;> rfl
theorem Hush.loadTables {s : State} (hs : Idle s) : Hush (fun _ => False) s (loadTables s) := by
  unfold Machine.loadTables; dsimp only
  have h1 := foldl (p := fun _ => False) (f := fun s d => s.modDie d fun D => { D with routes := Config.routes d }) (l := List.range 8)
    (fun s hs d _ => modDie hs d _) s hs
  refine h1.trans (foldl (fun s hs k _ => ?_) _ h1.idle)
  split
  · exact setPort hs _ _
  · exact refl hs
theorem Worn.loadTables (s : State) : Worn s (loadTables s) := Worn.of_standing (standing_loadTables s)

end Sys2Proof.Machine

/-! Bring-up: firmware, and the release of the Mordant cores. -/

namespace Sys2Proof.Machine
open Sys2Proof

theorem toBytes_length (n : Nat) : ∀ v, (toBytes n v).length = n := by
  induction n with
  | zero => exact fun _ => rfl
  | succ n ih => exact fun v => by rw [toBytes, List.length_cons, ih]
/-- The bytes of a number give it back as far as they reach (R3). -/
theorem ofBytes_toBytes (n : Nat) : ∀ v, ofBytes (toBytes n v) = v % 256 ^ n := by
  induction n with
  | zero => exact fun v => by simp [toBytes, ofBytes, Nat.mod_one]
  | succ n ih =>
    intro v
    rw [toBytes, ofBytes, ih, Nat.pow_succ', Nat.mod_mul, BitVec.toNat_ofNat]
theorem w32_ofBytes_toBytes (w : BitVec 32) : w32 (ofBytes (toBytes 4 w.toNat)) = w := by
  have hlt : w.toNat % 256 ^ 4 = w.toNat := Nat.mod_eq_of_lt w.isLt
  rw [ofBytes_toBytes, hlt]
  exact BitVec.eq_of_toNat_eq (by rw [w32, BitVec.toNat_ofNat, Nat.mod_eq_of_lt w.isLt])

theorem firmwareBytes_cons (w : BitVec 32) (r : List (BitVec 32)) : firmwareBytes (w :: r) = toBytes 4 w.toNat ++ firmwareBytes r := rfl
theorem firmwareBytes_length : ∀ l : List (BitVec 32), (firmwareBytes l).length = 4 * l.length
  | [] => rfl
  | w :: r => by rw [firmwareBytes_cons, List.length_append, toBytes_length, firmwareBytes_length r, List.length_cons]; omega
/-- The first words of an image are its first bytes. -/
theorem firmwareBytes_take (n : Nat) : ∀ l : List (BitVec 32), (firmwareBytes l).take (4 * n) = firmwareBytes (l.take n) := by
  induction n with
  | zero => exact fun l => by simp [firmwareBytes]
  | succ n ih =>
    intro l
    cases l with
    | nil => simp [firmwareBytes]
    | cons w r =>
      have h4 : 4 * (n + 1) = (toBytes 4 w.toNat).length + 4 * n := by rw [toBytes_length]; omega
      rw [List.take_succ_cons, firmwareBytes_cons, firmwareBytes_cons, h4, List.take_length_add_append, ih]

theorem writeBytes_append (l k : List Byte) : ∀ (m : Memory) (a : Nat), m.writeBytes a (l ++ k) = (m.writeBytes a l).writeBytes (a + l.length) k := by
  induction l with
  | nil => exact fun _ _ => rfl
  | cons b r ih =>
    intro m a
    rw [List.cons_append, Memory.writeBytes, Memory.writeBytes, ih, List.length_cons, Nat.add_assoc, Nat.add_comm 1]
/-- The words read where an image was written are its words. -/
theorem firmware_words : ∀ (l : List (BitVec 32)) (m : Memory) (a : Nat),
    ((List.range l.length).map fun i => w32 (ofBytes ((m.writeBytes a (firmwareBytes l)).readBytes (a + 4 * i) 4))) = l
  | [], _, _ => rfl
  | w :: r, m, a => by
    rw [firmwareBytes_cons, writeBytes_append, toBytes_length, List.length_cons, List.range_succ_eq_map, List.map_cons, List.map_map]
    congr 1
    · rw [Memory.readBytes_congr 4 _ (m.writeBytes a (toBytes 4 w.toNat)) _ fun c h1 h2 =>
        Memory.read_writeBytes_outside _ _ _ _ (.inl (by omega))]
      have h := Memory.readBytes_writeBytes (toBytes 4 w.toNat) m a
      rw [toBytes_length] at h
      rw [Nat.mul_zero, Nat.add_zero, h, w32_ofBytes_toBytes]
    · have ih := firmware_words r (m.writeBytes a (toBytes 4 w.toNat)) (a + 4)
      have hi : ∀ i, a + 4 * Nat.succ i = a + 4 + 4 * i := fun i => by omega
      simpa only [Function.comp_def, hi] using ih

/-- The scanner sees the words of the image that was loaded. -/
theorem firmwareFault_loadMordant (s : State) (g : Nat) (words : List (BitVec 32)) :
    firmwareFault (loadMordant s g (firmwareBytes words)) (8192 + g) words.length = none ↔
      scan { prof := .mordant, words := words, first := 0, limit := 16384, signed := false, nlive := 0 } = none := by
  have hw : isWorker (8192 + g) = false := decide_eq_false (by omega)
  have hl : codeWords (8192 + g) = 16384 := if_neg (by omega)
  have hloc : ∀ i, codeLoc (8192 + g) (0 + i) = padBase (8192 + g) + 4 * i := fun i => by
    rw [Nat.zero_add]; exact if_neg (by omega)
  have hr : codeRange (loadMordant s g (firmwareBytes words)) (8192 + g) 0 words.length = words := by
    unfold codeRange State.loadN
    simp only [hloc, loadMordant_mem]
    exact firmware_words words _ _
  unfold firmwareFault coreScan
  rw [Option.map_eq_none_iff, hw, hl, hr]
  rfl

/-! The release of a Mordant core. -/

/-- The part of its firmware that a Mordant core loads, and that the scanner admits it. -/
def mordantClean (words : List (BitVec 32)) : Prop :=
  scan { prof := .mordant, words := words, first := 0, limit := 16384, signed := false, nlive := 0 } = none

theorem releaseMordant_gone {s : State} {g : Nat} (m : List Byte) (h : cluGone s g = true) : releaseMordant m s g = s := if_pos h
theorem firmwareBytes_words (words : List (BitVec 32)) : (firmwareBytes words).length / 4 = words.length := by
  rw [firmwareBytes_length]; omega
theorem releaseMordant_clean {s : State} {g : Nat} {words : List (BitVec 32)} (hg : cluGone s g = false) (hc : mordantClean words) :
    releaseMordant (firmwareBytes words) s g = mordantStarted s g (firmwareBytes words) := by
  unfold releaseMordant
  rw [hg, if_neg Bool.false_ne_true, startMordant_admitted]
  · rfl
  · rw [firmwareBytes_words]; exact (firmwareFault_loadMordant s g words).2 hc
theorem releaseMordant_refused {words : List (BitVec 32)} (hc : ¬mordantClean words) (s : State) (g : Nat) :
    releaseMordant (firmwareBytes words) s g = s := by
  unfold releaseMordant
  split
  · rfl
  · rw [startMordant_refused]
    · rfl
    · rw [firmwareBytes_words]; exact mt (firmwareFault_loadMordant s g words).1 hc

theorem loadMordant_outside (s : State) {g : Nat} (hg : g < 512) {l : List Byte} (hl : l.length ≤ 65536) {a : Nat} (h : 2 ^ 64 ≤ a) :
    (loadMordant s g l).mem.read a = s.mem.read a := by
  have hb : padBase (8192 + g) + 65536 ≤ 2 ^ 64 := by unfold padBase; rw [if_neg (by omega)]; omega
  have hs : padSize (8192 + g) = 65536 := if_neg (by omega)
  rw [loadMordant_mem, Memory.read_writeBytes_outside _ _ _ _ (.inr (by omega))]
  unfold Memory.read
  rw [SMap.get_filter _ fun k => decide (k < padBase (8192 + g) ∨ padBase (8192 + g) + padSize (8192 + g) ≤ k), if_pos]
  simp only [decide_eq_true_eq]; omega
theorem Idle.mordantStarted {s : State} (hs : Idle s) (g : Nat) (l : List Byte) : Idle (mordantStarted s g l) where
  net := hs.net
  barriers := hs.barriers
  launches := hs.launches
  hart h := by
    rw [mordantStarted_hart]; split
    · exact ⟨rfl, rfl, rfl⟩
    · exact hs.hart h
  core c := by
    rw [mordantStarted_core]; split
    · exact ⟨rfl, rfl, rfl, rfl⟩
    · exact hs.core c
  cluster := hs.cluster
theorem cluGone_false {s : State} {g : Nat} : cluGone s g = false ↔ (s.cluster g).isRetired = false ∧ (s.die (dieOf g)).isFailed = false := by
  simp [cluGone]
theorem Booting.releaseMordant {A s : State} (h : Booting A s) {words : List (BitVec 32)} (hw : words.length ≤ 16384) {g : Nat} (hg : g < 512) :
    Booting A (releaseMordant (firmwareBytes words) s g) := by
  by_cases hc : mordantClean words
  · by_cases hgone : cluGone s g = true
    · rw [releaseMordant_gone _ hgone]; exact h
    have hlive := Bool.eq_false_of_not_eq_true hgone
    rw [releaseMordant_clean hlive hc]
    refine ⟨h.idle.mordantStarted g _, fun a h1 h2 => ?_, h.config, h.nv, fun k => ?_⟩
    · exact (loadMordant_outside s hg (by rw [firmwareBytes_length]; omega) (by omega)).trans (h.host a h1 h2)
    · rw [mordantStarted_core]
      split
      · next e => exact .inr ((show k = g by omega) ▸ (cluGone_false.1 hlive).2)
      · exact h.mordant k
  · rw [releaseMordant_refused hc]; exact h

/-- What the release leaves of the Mordant core of a cluster that takes part. -/
def mordantReleased (words : List (BitVec 32)) (g : Nat) (s : State) : Prop :=
  cluGone s g = false →
    (mordantClean words → (s.core (8192 + g)).isSealed = false ∧ s.hart (32768 + g) = {} ∧
      ∀ i, i < words.length → SMap.get false (s.core (8192 + g)).exec i = true) ∧
    (¬mordantClean words → (s.core (8192 + g)).isSealed = true)

theorem cluGone_releaseMordant (words : List (BitVec 32)) (s : State) (j g : Nat) :
    cluGone (releaseMordant (firmwareBytes words) s j) g = cluGone s g := by
  by_cases hc : mordantClean words
  · by_cases hgone : cluGone s j = true
    · rw [releaseMordant_gone _ hgone]
    · rw [releaseMordant_clean (Bool.eq_false_of_not_eq_true hgone) hc]; rfl
  · rw [releaseMordant_refused hc]
/-- Every Mordant core that takes part is released. -/
theorem releaseMordants {A s : State} (h : Booting A s) (hc : ∀ c, (s.core c).isSealed = true) {words : List (BitVec 32)} (hw : words.length ≤ 16384) :
    Booting A ((List.range 512).foldl (releaseMordant (firmwareBytes words)) s) ∧
      ∀ g, g < 512 → mordantReleased words g ((List.range 512).foldl (releaseMordant (firmwareBytes words)) s) := by
  have hset := foldl_settles (f := releaseMordant (firmwareBytes words)) (l := List.range 512)
    (I := fun s => Booting A s ∧ (¬mordantClean words → ∀ c, (s.core c).isSealed = true)) (P := mordantReleased words)
    (fun s g hg hs => ⟨hs.1.releaseMordant hw (List.mem_range.1 hg), fun hn => by rw [releaseMordant_refused hn]; exact hs.2 hn⟩)
    (fun s g _ hs hgone => by
      rw [cluGone_releaseMordant] at hgone
      refine ⟨fun hcl => ?_, fun hn => ?_⟩
      · rw [releaseMordant_clean hgone hcl, mordantStarted_core, mordantStarted_hart, if_pos rfl, if_pos rfl]
        exact ⟨rfl, rfl, fun i hi => freshMordant_exec s g (by rw [firmwareBytes_words]; exact hi)⟩
      · rw [releaseMordant_refused hn]; exact hs.2 hn _)
    (fun s j _ g hj _ hs hgone => by
      rw [cluGone_releaseMordant] at hgone
      obtain ⟨h1, h2⟩ := hs hgone
      by_cases hcl : mordantClean words
      · by_cases hjg : cluGone s j = true
        · rw [releaseMordant_gone _ hjg]; exact ⟨h1, h2⟩
        · rw [releaseMordant_clean (Bool.eq_false_of_not_eq_true hjg) hcl, mordantStarted_core, mordantStarted_hart,
            if_neg (by omega), if_neg (by omega)]
          exact ⟨h1, h2⟩
      · rw [releaseMordant_refused hcl]; exact ⟨h1, h2⟩)
    s ⟨h, fun _ => hc⟩
  exact ⟨hset.1.1, fun g hg => hset.2 g (.inl (List.mem_range.2 hg))⟩

end Sys2Proof.Machine

/-! Bring-up: the start of the worker cores, and the whole of it. -/

namespace Sys2Proof.Machine
open Sys2Proof

/-- Harts that are changed one after another, by a change that done twice is the same. -/
theorem foldl_modHart_hart {f : Hart → Hart} (hf : ∀ H, f (f H) = f H) (k : Nat) (l : List Nat) :
    ∀ s : State, ((l.foldl (fun s h => s.modHart h f) s).hart k) = if k ∈ l then f (s.hart k) else s.hart k := by
  induction l with
  | nil => exact fun s => rfl
  | cons j r ih =>
    intro s
    rw [List.foldl_cons, ih, State.modHart_hart]
    by_cases hj : k = j
    · subst hj; simp [hf]
    · simp [hj]

/-- A worker core's instruction memory with the image in it. -/
def withImage (image : List Byte) (s : State) (c : Nat) : State := { s with mem := s.mem.writeBytes (winBase c) (image.take 0x8000) }
/-- A worker core that has been started on an image. -/
def workerStarted (image : List Byte) (s : State) (c : Nat) : State :=
  (hartsOf c).foldl delegate (restartCore (withImage image s c) c (image.length / 4))
theorem startWorker_cases (image : List Byte) (s : State) (c : Nat) :
    (startWorker image s c = s ∧ ((s.core c).isRetired = true ∨ coreGone s c = true)) ∨
      startWorker image s c = retireCore (withImage image s c) c ∨
      (startWorker image s c = workerStarted image s c ∧ (s.core c).isRetired = false) := by
  unfold startWorker
  split
  · next h => exact .inl ⟨rfl, by simpa using h⟩
  · next h =>
    dsimp only
    split
    · exact .inr (.inl rfl)
    · exact .inr (.inr ⟨rfl, by simp at h; exact h.1⟩)

/-- What the hart firmware leaves in a hart at bring-up. -/
def delegated (H : Hart) : Hart := { H with csr := { H.csr with medeleg := 0x01FF0000FB0001FF, mideleg := 0x70000 } }
theorem workerStarted_hart (image : List Byte) (s : State) (c h : Nat) :
    (workerStarted image s c).hart h = if h ∈ hartsOf c then delegated {} else s.hart h := by
  have hd := foldl_modHart_hart (f := delegated) (fun _ => rfl) h (hartsOf c) (restartCore (withImage image s c) c (image.length / 4))
  have hr : (restartCore (withImage image s c) c (image.length / 4)).hart h = if h ∈ hartsOf c then {} else s.hart h :=
    foldl_modHart_hart (f := fun _ => {}) (fun _ => rfl) h (hartsOf c) _
  refine Eq.trans hd ?_
  rw [hr]
  split <;> rfl
/-- A worker core at reset with n words of firmware admitted: unsealed unless it is retired. -/
def startedCore (C : Core) (n : Nat) : Core :=
  acceptObj { isSealed := C.isRetired, banks := C.banks, members := C.members, isRetired := C.isRetired, seals := C.seals }
    { first := 0, count := n, id := 0, table := 0, entries := 0 } false
theorem idleCore_startedCore (C : Core) (n : Nat) : idleCore (startedCore C n) := ⟨rfl, rfl, rfl, rfl⟩
/-- What the start of a core does besides setting its harts. -/
theorem workerStarted_rest {γ : Type} (g : State → γ) (hg : ∀ s h H, g (State.setHart s h H) = g s) (image : List Byte) (s : State) (c : Nat) :
    g (workerStarted image s c) = g ((wipeMem (withImage image s c) (padBase c) (2 ^ 17)).setCore c (startedCore (s.core c) (image.length / 4))) := by
  unfold workerStarted restartCore
  rw [foldl_keeps g delegate (fun s h => hg s h _)]
  exact foldl_keeps g (fun s h => s.setHart h {}) (fun s h => hg s h _) _ _
theorem workerStarted_core (image : List Byte) (s : State) (c k : Nat) :
    (workerStarted image s c).core k = if k = c then startedCore (s.core c) (image.length / 4) else s.core k :=
  (workerStarted_rest (fun s => s.core k) (fun _ _ _ => rfl) image s c).trans (SMap.get_put _ _ _ _ _)
theorem workerStarted_coreGone (image : List Byte) (s : State) (c k : Nat) : coreGone (workerStarted image s c) k = coreGone s k :=
  workerStarted_rest (fun s => coreGone s k) (fun _ _ _ => rfl) image s c

/-- An image is written below the locations of the host. -/
theorem withImage_outside (image : List Byte) (s : State) {c a : Nat} (hc : c < 8192) (ha : 2 ^ 64 ≤ a) :
    (withImage image s c).mem.read a = s.mem.read a := by
  have hb : winBase c + 0x8000 ≤ 2 ^ 64 := by unfold winBase padBase; rw [if_pos hc]; omega
  have hl : (image.take 0x8000).length ≤ 0x8000 := by rw [List.length_take]; omega
  exact Memory.read_writeBytes_outside _ _ _ _ (.inr (by omega))
theorem workerStarted_outside (image : List Byte) (s : State) {c a : Nat} (hc : c < 8192) (ha : 2 ^ 64 ≤ a) :
    (workerStarted image s c).mem.read a = s.mem.read a := by
  have hb : padBase c + 2 ^ 17 ≤ 2 ^ 64 := by unfold padBase; rw [if_pos hc]; omega
  rw [workerStarted_rest State.mem (fun _ _ _ => rfl)]
  refine Eq.trans ?_ (withImage_outside image s hc ha)
  show Memory.read ((withImage image s c).mem.filter fun x => decide (x.1 < padBase c ∨ padBase c + 2 ^ 17 ≤ x.1)) a = _
  unfold Memory.read
  rw [SMap.get_filter _ fun k => decide (k < padBase c ∨ padBase c + 2 ^ 17 ≤ k), if_pos]
  simp only [decide_eq_true_eq]; omega
theorem Idle.workerStarted {s : State} (hs : Idle s) (image : List Byte) (c : Nat) : Idle (workerStarted image s c) where
  net := (workerStarted_rest State.net (fun _ _ _ => rfl) image s c).trans hs.net
  barriers := (workerStarted_rest (fun s => s.pkg.barriers) (fun _ _ _ => rfl) image s c).trans hs.barriers
  launches := (workerStarted_rest (fun s => s.pkg.launches) (fun _ _ _ => rfl) image s c).trans hs.launches
  hart h := by
    rw [workerStarted_hart]; split
    · exact ⟨rfl, rfl, rfl⟩
    · exact hs.hart h
  core k := by
    rw [workerStarted_core]; split
    · exact idleCore_startedCore _ _
    · exact hs.core k
  cluster g := by
    rw [workerStarted_rest (fun s => s.cluster g) (fun _ _ _ => rfl)]; exact hs.cluster g

theorem Booting.withImage {A s : State} (h : Booting A s) (image : List Byte) {c : Nat} (hc : c < 8192) : Booting A (withImage image s c) :=
  h.worn (Worn.of_standing rfl) ⟨h.idle.net, h.idle.barriers, h.idle.launches, h.idle.hart, h.idle.core, h.idle.cluster⟩
    fun _ h1 _ => withImage_outside image s hc (by omega)
theorem Booting.retireCore {A s : State} (h : Booting A s) (c : Nat) : Booting A (retireCore s c) :=
  h.hush (Worn.retireCore s c) (Hush.retireCore h.idle c)
theorem Booting.workerStarted {A s : State} (h : Booting A s) (image : List Byte) {c : Nat} (hc : c < 8192) : Booting A (workerStarted image s c) where
  idle := h.idle.workerStarted image c
  host a h1 h2 := (workerStarted_outside image s hc (by omega)).trans (h.host a h1 h2)
  config := (workerStarted_rest (fun s => pkgConfig s.pkg) (fun _ _ _ => rfl) image s c).trans h.config
  nv e he := by rw [workerStarted_rest (fun s => s.pkg.nv) fun _ _ _ => rfl]; exact h.nv e he
  mordant g := by
    rw [workerStarted_core, if_neg (by omega), workerStarted_rest (fun s => (s.die (dieOf g)).isFailed) fun _ _ _ => rfl]
    exact h.mordant g
theorem Booting.startWorker {A s : State} (h : Booting A s) (image : List Byte) {c : Nat} (hc : c < 8192) : Booting A (startWorker image s c) := by
  rcases startWorker_cases image s c with ⟨e, -⟩ | e | ⟨e, -⟩ <;> rw [e]
  · exact h
  · exact (h.withImage image hc).retireCore c
  · exact h.workerStarted image hc

/-- A cluster that takes part did so before its package's units were worn. -/
theorem Worn.cluGone {s t : State} (w : Worn s t) {g : Nat} (h : cluGone t g = false) : Machine.cluGone s g = false := by
  obtain ⟨hr, hd⟩ := cluGone_false.1 h
  refine cluGone_false.2 ⟨Bool.eq_false_of_not_eq_true fun e => ?_, (w.dieFailed _).symm.trans hd⟩
  rw [w.cluRetired g e] at hr
  cases hr

/-- A Mordant core is as it was after a step of a worker core. -/
theorem mordantReleased_startWorker {A s : State} (h : Booting A s) (image : List Byte) {c : Nat} (hc : c < 8192) {words : List (BitVec 32)} {g : Nat}
    (hg : mordantReleased words g s) : mordantReleased words g (startWorker image s c) := by
  have hh : 32768 + g ∈ hartsOf (8192 + g) := by unfold hartsOf; rw [if_neg (by omega)]; simp
  rcases startWorker_cases image s c with ⟨e, -⟩ | e | ⟨e, -⟩ <;> rw [e]
  · exact hg
  · intro hgone
    have hb := (h.withImage image hc).idle
    have hw := Worn.retireCore (Machine.withImage image s c) c
    have hu := Hush.retireCore hb c
    have hp : ¬(8192 + g = c ∨ 8192 + g ∈ coresOf (cluOf c)) := by
      rw [mem_coresOf]; unfold cluOf; rw [if_pos hc]; omega
    have hlive : cluGone s g = false := hw.cluGone hgone
    rw [hu.isSealed _ hp, hu.exec, hu.hart _ hp _ hh]
    exact hg hlive
  · intro hgone
    have hnot : 32768 + g ∉ hartsOf c := fun hm => by have := hartsOf_inj hh hm; omega
    rw [workerStarted_core, workerStarted_hart, if_neg (by omega), if_neg hnot]
    exact hg ((workerStarted_rest (fun s => cluGone s g) (fun _ _ _ => rfl) image s c).symm.trans hgone)

/-- What bring-up leaves of a worker core whose cluster takes part: it is retired, or its harts begin with the hart firmware. -/
def workerReady (c : Nat) (s : State) : Prop :=
  coreGone s c = false → (s.core c).isRetired = true ∨
    ((s.core c).isSealed = false ∧ ∀ h ∈ hartsOf c, s.hart h = delegated {})
theorem workerReady_self {s : State} (image : List Byte) (c : Nat) : workerReady c (startWorker image s c) := by
  intro hgone
  rcases startWorker_cases image s c with ⟨e, h⟩ | e | ⟨e, h⟩ <;> rw [e] at hgone ⊢
  · exact .inl (h.resolve_right fun hg => by rw [hgone] at hg; cases hg)
  · exact .inl (isRetired_retireCore _ c)
  · rw [workerStarted_core, if_pos rfl]
    exact .inr ⟨h, fun k hk => by rw [workerStarted_hart, if_pos hk]⟩
theorem workerReady_other {A s : State} (h : Booting A s) (image : List Byte) {j c : Nat} (hj : j < 8192) (hne : j ≠ c) (hc : workerReady c s) :
    workerReady c (startWorker image s j) := by
  intro hgone
  rcases startWorker_cases image s j with ⟨e, -⟩ | e | ⟨e, -⟩ <;> rw [e] at hgone ⊢
  · exact hc hgone
  · have hb := (h.withImage image hj).idle
    have hw := Worn.retireCore (Machine.withImage image s j) j
    have hlive : coreGone s c = false := hw.cluGone hgone
    obtain ⟨hr, -⟩ := cluGone_false.1 hgone
    obtain ⟨p, hu, hp⟩ : ∃ p, Hush p (Machine.withImage image s j) (retireCore (Machine.withImage image s j) j) ∧ ¬p c := by
      by_cases hg : cluOf c = cluOf j
      · exact ⟨_, hush_retireCore_alone hb (hg ▸ hr), fun h => hne h.symm⟩
      · refine ⟨_, Hush.retireCore hb j, fun h => ?_⟩
        rcases h with h | h
        · exact hne h.symm
        · rw [mem_coresOf] at h
          unfold cluOf at hg h
          rw [if_pos hj] at hg h
          rw [if_pos (by omega)] at hg
          omega
    refine (hc hlive).imp (fun h => hw.coreRetired c h) fun ⟨h1, h2⟩ => ⟨(hu.isSealed c hp).trans h1, fun k hk => ?_⟩
    rw [hu.hart c hp k hk]; exact h2 k hk
  · rw [workerStarted_coreGone] at hgone
    rw [workerStarted_core, if_neg (Ne.symm hne)]
    refine (hc hgone).imp id fun ⟨h1, h2⟩ => ⟨h1, fun k hk => ?_⟩
    rw [workerStarted_hart, if_neg fun hm => hne (hartsOf_inj hm hk)]
    exact h2 k hk

/-- The whole of bring-up's last stage. -/
theorem startWorkers {A s : State} (h : Booting A s) {words : List (BitVec 32)} (hm : ∀ g, g < 512 → mordantReleased words g s) (image : List Byte) :
    Booting A ((List.range 8192).foldl (startWorker image) s) ∧
      (∀ g, g < 512 → mordantReleased words g ((List.range 8192).foldl (startWorker image) s)) ∧
      ∀ c, c < 8192 → workerReady c ((List.range 8192).foldl (startWorker image) s) := by
  have hset := foldl_settles (f := startWorker image) (l := List.range 8192)
    (I := fun s => Booting A s ∧ ∀ g, g < 512 → mordantReleased words g s) (P := workerReady)
    (fun s c hc hs => ⟨hs.1.startWorker image (List.mem_range.1 hc), fun g hg =>
      mordantReleased_startWorker hs.1 image (List.mem_range.1 hc) (hs.2 g hg)⟩)
    (fun s c _ _ => workerReady_self image c)
    (fun s j hj c hne hs hc => workerReady_other hs.1 image (List.mem_range.1 hj) hne hc) s ⟨h, hm⟩
  exact ⟨hset.1.1, hset.1.2, fun c hc => hset.2 c (.inl (List.mem_range.2 hc))⟩

/-! R425. -/

/-- The package as a reset leaves it, its number and its measurements taken. -/
def resetPackage (n : Nat) (m w : List Byte) (s : State) : State :=
  (afterReset s).modPkg fun P =>
    { P with number := n % 4096
             measured := [(1, Config.sha384 Config.stage2), (2, Config.sha384 m), (3, Config.sha384 w), (4, Config.sha384 Config.tables)] }
/-- The states after its records, its cluster rule and its tables; after the Mordant cores; after the worker cores. -/
def bootTables (A : State) : State := loadTables ((List.range 512).foldl clusterRule (A.pkg.nv.foldl applyRecord A))
def bootMordants (m : List Byte) (A : State) : State := (List.range 512).foldl (releaseMordant m) (bootTables A)
def bootWorkers (m w : List Byte) (A : State) : State := (List.range 8192).foldl (startWorker w) (bootMordants m A)
/-- The package says whether a Mordant core has started. -/
def poweredState (t : State) : Nat := if (List.range 512).all fun g => (t.core (mordantCore g)).isSealed then 2 else 1
def powered (t : State) : State := t.modPkg fun P => { P with state := poweredState t }
theorem exec_powerOn (n : Nat) (mw hw : List (BitVec 32)) (s : State) : exec (.powerOn n mw hw) s =
    .next (powered (bootWorkers ((firmwareBytes mw).take 65536) (firmwareBytes hw) (resetPackage n ((firmwareBytes mw).take 65536) (firmwareBytes hw) s))) :=
  rfl
theorem powered_rest {γ : Type*} (g : State → γ) (hg : ∀ s k, g (State.modPkg s fun P => { P with state := k }) = g s) (t : State) :
    g (powered t) = g t := hg t (poweredState t)
theorem powered_state (t : State) : ((powered t).pkg.state = 2 ↔ ∀ g, g < 512 → (t.core (8192 + g)).isSealed = true) ∧
    ((powered t).pkg.state = 1 ∨ (powered t).pkg.state = 2) := by
  have hall : ((List.range 512).all fun g => (t.core (mordantCore g)).isSealed) = true ↔ ∀ g, g < 512 → (t.core (8192 + g)).isSealed = true := by
    simp only [List.all_eq_true, List.mem_range, mordantCore]
  have hs : (powered t).pkg.state = poweredState t := by simp only [powered, State.modPkg]
  rw [hs, ← hall, poweredState]
  split
  · next h => exact ⟨⟨fun _ => h, fun _ => rfl⟩, .inr rfl⟩
  · next h => exact ⟨⟨fun e => absurd e (by decide), fun e => absurd e h⟩, .inl rfl⟩

theorem resetPackage_host (n : Nat) (m w : List Byte) (s : State) {a : Nat} (h1 : 2 ^ 65 ≤ a) (h2 : a < 2 ^ 66) :
    (resetPackage n m w s).mem.read a = s.mem.read a := by
  show Memory.read (s.mem.filter fun x => isHostLoc x.1) a = _
  unfold Memory.read
  rw [SMap.get_filter _ isHostLoc, if_pos]
  simp only [isHostLoc, Bool.and_eq_true, decide_eq_true_eq]; exact ⟨h1, h2⟩
theorem resetPackage_number (n : Nat) (m w : List Byte) (s : State) : (resetPackage n m w s).pkg.number = n % 4096 := rfl
theorem resetPackage_nv (n : Nat) (m w : List Byte) (s : State) : (resetPackage n m w s).pkg.nv = s.pkg.nv := rfl
theorem resetPackage_unbound (n : Nat) (m w : List Byte) (s : State) :
    (resetPackage n m w s).pkg.procs = [] ∧ (resetPackage n m w s).pkg.rings = [] ∧ (resetPackage n m w s).pkg.cmdRing = 0 := ⟨rfl, rfl, rfl⟩
theorem booting_resetPackage (n : Nat) (m w : List Byte) (s : State) : Booting (resetPackage n m w s) (resetPackage n m w s) where
  idle := ⟨rfl, rfl, rfl, fun _ => ⟨rfl, rfl, rfl⟩, fun _ => ⟨rfl, rfl, rfl, rfl⟩, fun _ => ⟨rfl, rfl, rfl, rfl, rfl, rfl⟩⟩
  host _ _ _ := rfl
  config := rfl
  nv _ he := he
  mordant _ := .inl rfl
theorem booting_bootTables {A : State} (h : Booting A A) (hc : ∀ c, (A.core c).isSealed = true) :
    Booting A (bootTables A) ∧ ∀ c, ((bootTables A).core c).isSealed = true := by
  obtain ⟨h1, hc1⟩ := booting_applyRecords A.pkg.nv h hc
  unfold bootTables
  generalize A.pkg.nv.foldl applyRecord A = B at h1 hc1
  have hw := Worn.foldl clusterRule Worn.clusterRule (List.range 512) B
  have hh := Hush.foldl (p := fun _ => True) (f := clusterRule) (l := List.range 512) (fun s hs g _ => (Hush.clusterRule hs g).mono fun _ _ => trivial) B h1.idle
  have h2 : Booting A _ := h1.hush hw hh
  exact ⟨h2.hush (Worn.loadTables _) (Hush.loadTables h2.idle), fun c => (Worn.loadTables _).isSealed c (hw.isSealed c (hc1 c))⟩

theorem pkgConfig_eq {P Q : Pkg} {γ : Type} (f : Pkg → γ) (h : pkgConfig P = pkgConfig Q)
    (hf : ∀ P, f P = f { P with barriers := [], ports := [], launches := [], nv := [] }) : f P = f Q := by
  rw [hf P, hf Q]; exact congrArg f h
/-- Bring-up from the package's reset: the invariant holds to its end, and every core is released as its firmware admits. -/
theorem booted (n : Nat) {words : List (BitVec 32)} (hl : words.length ≤ 16384) (w : List Byte) (s : State) :
    let A := resetPackage n (firmwareBytes words) w s
    let t := bootWorkers (firmwareBytes words) w A
    Booting A t ∧ (∀ g, g < 512 → mordantReleased words g t) ∧ ∀ c, c < 8192 → workerReady c t := by
  obtain ⟨h1, hc⟩ := booting_bootTables (booting_resetPackage n (firmwareBytes words) w s) fun _ => rfl
  obtain ⟨h2, hm⟩ := releaseMordants h1 hc hl
  exact startWorkers h2 hm w
/-- R10, R403, R410, R412, R425. -/
theorem bringUp : Spec.bringUp := by
  intro s n mw hw words clean
  have hm : (firmwareBytes mw).take 65536 = firmwareBytes words := firmwareBytes_take 16384 mw
  have hl : words.length ≤ 16384 := by rw [List.length_take]; omega
  obtain ⟨hb, hmord, hwork⟩ := booted n hl (firmwareBytes hw) s
  have hexec := exec_powerOn n mw hw s
  rw [hm] at hexec
  have hhost := fun a h1 h2 => (hb.host a h1 h2).trans (resetPackage_host n (firmwareBytes words) (firmwareBytes hw) s h1 h2)
  obtain ⟨hp, hr, hc⟩ := resetPackage_unbound n (firmwareBytes words) (firmwareBytes hw) s
  have hnumber := (pkgConfig_eq Pkg.number hb.config fun _ => rfl).trans (resetPackage_number n (firmwareBytes words) (firmwareBytes hw) s)
  have hprocs := (pkgConfig_eq Pkg.procs hb.config fun _ => rfl).trans hp
  have hrings := (pkgConfig_eq Pkg.rings hb.config fun _ => rfl).trans hr
  have hring := (pkgConfig_eq Pkg.cmdRing hb.config fun _ => rfl).trans hc
  have hnv := hb.nv
  rw [resetPackage_nv] at hnv
  have hdead := hb.mordant
  have hidle := hb.idle
  generalize bootWorkers (firmwareBytes words) (firmwareBytes hw) (resetPackage n (firmwareBytes words) (firmwareBytes hw) s) = T at *
  obtain ⟨hstate, hstates⟩ := powered_state T
  have hcore := powered_rest State.core (fun _ _ => rfl) T
  refine ⟨powered T, hexec, (powered_rest (fun s => s.pkg.number) (fun _ _ => rfl) T).trans hnumber,
    (powered_rest State.net (fun _ _ => rfl) T).trans hidle.net, (powered_rest (fun s => s.pkg.procs) (fun _ _ => rfl) T).trans hprocs,
    (powered_rest (fun s => s.pkg.launches) (fun _ _ => rfl) T).trans hidle.launches,
    (powered_rest (fun s => s.pkg.rings) (fun _ _ => rfl) T).trans hrings, (powered_rest (fun s => s.pkg.cmdRing) (fun _ _ => rfl) T).trans hring,
    fun e he => ?_, ?_, hstates, fun hd => hstate.2 fun g hg => (hdead g).resolve_right fun h => ?_,
    fun a h1 h2 => (powered_rest (fun s => s.mem.read a) (fun _ _ => rfl) T).trans (hhost a h1 h2),
    fun g hg => (powered_rest (mordantReleased words g) (fun _ _ => rfl) T).mpr (hmord g hg), fun c hc hgone => ?_⟩
  · rw [powered_rest (fun s => s.pkg.nv) fun _ _ => rfl]; exact hnv e he
  · rw [hcore]; exact hstate
  · have hf := hd (dieOf g) (by unfold dieOf; omega)
    rw [powered_rest (fun s => (s.die (dieOf g)).isFailed) fun _ _ => rfl, h] at hf
    cases hf
  · have hready : workerReady c (powered T) := (powered_rest (workerReady c) (fun _ _ => rfl) T).mpr (hwork c hc)
    refine (hready hgone).imp id fun ⟨hs, hh⟩ => ⟨hs, fun i hi => ?_⟩
    have hmem : 4 * c + i ∈ hartsOf c := by
      unfold hartsOf
      rw [if_pos hc]
      simp only [List.mem_cons, List.not_mem_nil, or_false]
      omega
    rw [hh _ hmem]
    exact ⟨rfl, rfl, rfl⟩

/-- Settles O53, part by part: the commands that bind and unbind, those of units, their records, the CXL side, SPDM, the units
that fail, and bring-up. -/
theorem hostSteps : Obligations.HostSteps :=
  ⟨slotCommands, unitCommands, commandRecords, cxlSteps, spdmAnswers, unitSteps, bringUp⟩

end Sys2Proof.Machine

/-! The canonical form of memory (log 3): what every step keeps. One lemma a function of the model that returns a state, in the order
of the model; a function that writes no byte of memory keeps it by definition. -/

namespace Sys2Proof.Machine
open Sys2Proof

/-- An outcome whose next state, if it has one, holds the invariant. -/
def Keeps : Host.Outcome State Fault Refusal → Prop
  | .next t => Inv t
  | _ => True
theorem keeps_next {t : State} : Keeps (.next t) ↔ Inv t := Iff.rfl
theorem keeps_ite {p : Prop} [Decidable p] {a b : Host.Outcome State Fault Refusal} (ha : Keeps a) (hb : Keeps b) : Keeps (if p then a else b) := by
  split
  · exact ha
  · exact hb
theorem inv_mk (a b c d e m g n i p l ag cu fr) : Inv ⟨a, b, c, d, e, m, g, n, i, p, l, ag, cu, fr⟩ ↔ Memory.wf m = true := Iff.rfl
theorem wf_mem_iff (s : State) : Memory.wf s.mem = true ↔ Inv s := Iff.rfl
theorem inv_of_mem {s t : State} (e : t.mem = s.mem) (h : Inv s) : Inv t := by
  rw [← wf_mem_iff, e]; exact h
/-- A fold keeps the invariant of the state in its accumulator when its function does. -/
theorem foldl_inv_of {α β : Type} {g : β → State} {f : β → α → β} (hf : ∀ b a, Inv (g b) → Inv (g (f b a))) (l : List α) {b : β} (h : Inv (g b)) :
    Inv (g (l.foldl f b)) := List.foldlRecOn (motive := fun b => Inv (g b)) l f h fun b hb a _ => hf b a hb
theorem foldl_inv {α : Type} {f : State → α → State} (hf : ∀ s a, Inv s → Inv (f s a)) (l : List α) {s : State} (h : Inv s) :
    Inv (l.foldl f s) := foldl_inv_of (g := id) hf l h
theorem inv_fst {α : Type} {x : SpRun × α} {R : SpRun} {a : α} (e : x = (R, a)) (hx : Inv x.1.st) : Inv R.st := by subst e; exact hx

section
variable {s : State} (h : Inv s)
include h

/-! Parts of the state. -/

theorem inv_setHart (k H) : Inv (State.setHart s k H) := h
theorem inv_modHart (k) (f : Hart → Hart) : Inv (State.modHart s k f) := h
theorem inv_setCore (c C) : Inv (State.setCore s c C) := h
theorem inv_modCore (c) (f : Core → Core) : Inv (State.modCore s c f) := h
theorem inv_setCluster (g G) : Inv (State.setCluster s g G) := h
theorem inv_modCluster (g) (f : Cluster → Cluster) : Inv (State.modCluster s g f) := h
theorem inv_modDie (d) (f : Die → Die) : Inv (State.modDie s d f) := h
theorem inv_modPkg (f : Pkg → Pkg) : Inv (State.modPkg s f) := h
theorem inv_draw : Inv (State.draw s).2 := h

/-! The network. -/

theorem inv_setLink (l L) : Inv (setLink s l L) := h
theorem inv_queueOut (l eseq p) : Inv (queueOut s l eseq p) := h
theorem inv_stand (p r) : Inv (stand s p r) := by unfold stand; grind only [inv_mk, wf_mem_iff, inv_queueOut]

/-! The operations every meaning is built from. -/

theorem inv_setFe (loc b) : Inv (State.setFe s loc b) := h
theorem inv_setPoi (loc b) : Inv (State.setPoi s loc b) := h
theorem inv_poisonWrite (loc n p) : Inv (poisonWrite s loc n p) := inv_of_mem (aside_mem.poisonWrite s loc n p) h
theorem inv_loseResv (wr loc n) : Inv (loseResv s wr loc n) := inv_of_mem (aside_mem.loseResv s wr loc n) h
theorem inv_scrub (loc n write) : Inv (scrub s loc n write) := inv_of_mem (scrub_mem s loc n write) h
theorem inv_store (wr loc bytes poison) : Inv (store s wr loc bytes poison) := wf_store h wr loc bytes poison
theorem inv_load (loc n) : Inv (load s loc n).1 := wf_load h loc n
theorem inv_amoAt (wr loc op n v cmp) : Inv (amoAt s wr loc op n v cmp).1 := by unfold amoAt; grind only [inv_load, inv_store]
theorem inv_clearPoison (loc) : Inv (clearPoison s loc) := by
  unfold clearPoison
  split
  · exact inv_setPoi h _ _
  · exact foldl_inv (fun s k h => inv_setPoi h _ _) _ h
theorem inv_cellAt (wr loc op) : Inv (cellAt s wr loc op).1 := by
  have hl := inv_load h loc 16
  unfold cellAt
  cases op
  case fxAdd =>
    dsimp only
    split
    · exact hl
    · exact inv_store hl _ _ _ _
  case fxClear => exact inv_clearPoison (inv_store h _ _ _ _) loc
  all_goals exact hl
theorem inv_feAt (wr loc op) : ∀ p, feAt s wr loc op = some p → Inv p.1 := by
  intro p hp
  have hl := inv_load h loc 8
  have hq := inv_scrub h (loc / 16 * 16) 16 false
  have hs := fun bytes => inv_store h wr loc bytes false
  unfold feAt at hp
  cases op
  case feLoad => grind only [inv_loseResv, inv_setFe]
  case feStore => grind only [inv_setFe]
  case feSet => grind only [inv_loseResv, inv_setFe]
  case feQuery => cases hp; exact hq
  all_goals cases hp
theorem inv_sendFrom (r p) : Inv (sendFrom s r p) := by unfold sendFrom; grind only [inv_stand, inv_mk, wf_mem_iff]
theorem inv_send (k b) : Inv (send s k b) := by unfold send; grind only [inv_sendFrom]
theorem inv_sendAs (k slot key b) : Inv (sendAs s k slot key b) := by unfold sendAs; grind only [inv_sendFrom]
theorem inv_dropPkt (p) : Inv (dropPkt s p) := h
theorem inv_putPkt (q) : Inv (putPkt s q) := by unfold putPkt; grind only [inv_stand, inv_mk, wf_mem_iff]
theorem inv_setBody (p b) : Inv (setBody s p b) := by unfold setBody; grind only [inv_putPkt]
theorem inv_putBackAt (p r) : Inv (putBackAt s p r) := by unfold putBackAt; grind only [inv_stand, inv_mk, wf_mem_iff]
theorem inv_advance (c t) : Inv (advance s c t) :=
  foldl_inv (fun s k h => by split; exacts [h, inv_modHart h k _]) _ (inv_modCore h c _)
theorem inv_passTime (c) : Inv (passTime s c) := by unfold passTime; grind only [inv_advance]
theorem inv_retire (k) : Inv (retire s k) := h
theorem inv_retireTo (k dest a) : Inv (retireTo s k dest a) := h
theorem inv_takeTrap (k intr cause tval) : Inv (takeTrap s k intr cause tval) := h
theorem keeps_finish (p) {t : State} (ht : Inv t) : Keeps (finish s p t) := by
  unfold finish; split
  · exact ht
  · exact inv_takeTrap (inv_modHart h s.cur _) _ _ _ _
  · exact inv_modHart h s.cur _
theorem inv_retireWith (f : Hart → Hart) : Inv (retireWith s f) := h
theorem inv_retireX (rd v) : Inv (retireX s rd v) := h

/-! Base instructions. -/

theorem keeps_alu (rd v) : Keeps (alu rd v s) := by unfold alu; grind only [keeps_finish, inv_retireX]
theorem inv_jumpTo (rd dest a) : Inv (jumpTo rd dest a s) := h
theorem keeps_branch (taken off) : Keeps (branch taken off s) := by
  unfold branch
  grind only [keeps_finish, inv_retireTo, inv_retire]

/-! Control and status registers. -/

theorem inv_modCsr (k) (f : Csrs → Csrs) : Inv (modCsr s k f) := h
theorem inv_csrWrite (k n v) : Inv (csrWrite s k n v) := by
  unfold csrWrite
  grind only [inv_modCsr, inv_modHart, inv_modCore, inv_modCluster]

/-! A hart's accesses to memory. -/

theorem inv_windowRead (t off n) : Inv (windowRead s t off n).1 := by unfold windowRead; grind only [inv_load]
theorem inv_windowWrite (k t off bytes) : Inv (windowWrite s k t off bytes) := by
  unfold windowWrite
  grind only [inv_csrWrite, inv_store]
theorem inv_sendHeld (kind a op) : Inv (sendHeld s kind a op) := by unfold sendHeld; grind only [inv_send, inv_modHart]
theorem inv_sendPosted (a op) : Inv (sendPosted s a op) := by unfold sendPosted; grind only [inv_retire, inv_send]
theorem keeps_landNow (kind a v) : Keeps (landNow s kind a v) := by unfold landNow; grind only [keeps_finish, inv_retireWith]
theorem keeps_sendChecked (p kind a op read) : Keeps (sendChecked s p kind a op read) := by
  unfold sendChecked
  grind only [keeps_finish, inv_sendHeld]
theorem keeps_loadInstr (p rd kind a n op) : Keeps (loadInstr p rd kind a n op s) := by
  unfold loadInstr
  grind only [keeps_finish, keeps_sendChecked, inv_load, keeps_landNow, inv_windowRead]
theorem keeps_storeInstr (p a bytes) : Keeps (storeInstr p a bytes s) := by
  unfold storeInstr
  grind only [keeps_finish, inv_sendPosted, inv_retire, inv_store, inv_windowWrite]
theorem keeps_amoInstr (p q rd kind a op n v cmp) : Keeps (amoInstr p q rd kind a op n v cmp s) := by
  unfold amoInstr
  grind only [keeps_finish, keeps_sendChecked, inv_amoAt, keeps_landNow, inv_load]
theorem keeps_loadX (rd rs1 imm n signed) : Keeps (loadX rd rs1 imm n signed s) := by unfold loadX; grind only [keeps_loadInstr]
theorem keeps_storeX (rs1 rs2 imm n) : Keeps (storeX rs1 rs2 imm n s) := by unfold storeX; grind only [keeps_storeInstr]
theorem keeps_loadReserved (rd rs1 n rl) : Keeps (loadReserved rd rs1 n rl s) := by
  unfold loadReserved
  grind only [keeps_finish, inv_load, inv_retireWith]
theorem keeps_storeCond (rd rs1 rs2 n rl) : Keeps (storeCond rd rs1 rs2 n rl s) := by
  unfold storeCond
  grind only [keeps_finish, inv_retireWith, inv_store]
theorem keeps_baseAmo (op rd rs1 rs2 n rl) : Keeps (baseAmo op rd rs1 rs2 n rl s) := by
  unfold baseAmo
  grind only [keeps_amoInstr]

/-! Acquire, release, scoped AMOs and fixed-point cells. -/

theorem keeps_scopedAmo (op sc rd rs1 rs2 cmp) : Keeps (scopedAmo op sc rd rs1 rs2 cmp s) := by
  unfold scopedAmo
  grind only [keeps_amoInstr]
theorem keeps_cellWrite (a op) : Keeps (cellWrite a op s) := by
  unfold cellWrite
  grind only [keeps_finish, inv_sendPosted, inv_retire, inv_cellAt]
theorem keeps_cellRead (armed rd form a) : Keeps (cellRead armed rd form a s) := by
  unfold cellRead
  grind only [keeps_finish, keeps_sendChecked, inv_cellAt, keeps_landNow]

/-! Streams and lines. -/

theorem inv_storeSegs (wr line segs) : Inv (storeSegs s wr line segs) := by
  unfold storeSegs
  have hs : ∀ f : State → Nat × List Byte → State, f = (fun s x => store s wr (line + x.1) x.2 false) → Inv (segs.foldl f s) := by
    rintro _ rfl
    exact foldl_inv (fun s x h => inv_store h _ _ _ _) segs h
  dsimp only
  split_ifs
  · exact foldl_inv (fun s o h => inv_setPoi h _ _) _ (hs _ rfl)
  · exact hs _ rfl
  · exact foldl_inv (fun s o h => by split_ifs; exacts [inv_setPoi h _ _, h]) _ (hs _ rfl)
theorem inv_loadSegs (line segs) : Inv (loadSegs s line segs).1 := by
  induction segs generalizing s with
  | nil => exact h
  | cons e r ih => exact ih (inv_load h _ _)
theorem inv_vwriteAt (k r v) : Inv (vwriteAt s k r v) := by unfold vwriteAt; grind only [inv_modHart, inv_send]
theorem inv_vwrite (r v) : Inv (vwrite s r v) := by unfold vwrite; grind only [inv_vwriteAt]
theorem inv_vretire (s0 srcs L sc regs) : Inv (vretire s0 s srcs L sc regs) := h

/-! Vector arithmetic. -/

theorem keeps_typed0 (t) {k : Payload → Host.Outcome State Fault Refusal} (hk : ∀ p, Keeps (k p)) : Keeps (typed0 t s k) := by
  unfold typed0
  split
  · exact hk _
  · exact keeps_finish h _ h
theorem keeps_vbin (wS wD vd vs1 vs2 L sc) (g : VReg → VReg → VReg) : Keeps (vbin wS wD vd vs1 vs2 L sc g s) := by
  unfold vbin
  grind only [keeps_finish, inv_vretire, inv_vwrite]
theorem keeps_vacc (wS vd vs1 vs2 L sc) (g : VReg → VReg → VReg → VReg) : Keeps (vacc wS vd vs1 vs2 L sc g s) := by
  unfold vacc
  grind only [keeps_finish, inv_vretire, inv_vwrite]
theorem keeps_vun (wS wD vd vs1 L sc) (g : VReg → VReg) : Keeps (vun wS wD vd vs1 L sc g s) := by
  unfold vun
  grind only [keeps_finish, inv_vretire, inv_vwrite]
theorem keeps_vgen (w vd L sc v) : Keeps (vgen w vd L sc v s) := by
  unfold vgen
  grind only [keeps_finish, inv_vretire, inv_vwrite]
theorem keeps_execVcmp (md cc vs1 vs2 t sc) : Keeps (execVcmp md cc vs1 vs2 t sc s) :=
  keeps_typed0 h _ fun _ => keeps_finish h _ (inv_vretire (inv_modHart h _ _) _ _ _ _ _)
theorem keeps_execVsplat (vd rs1 t sc) : Keeps (execVsplat vd rs1 t sc s) := keeps_typed0 h _ fun _ => keeps_vgen h _ _ _ _ _

/-! Vector memory and stream bindings. -/

theorem inv_readOwn (w l) : Inv (readOwn s w l).1 := by
  induction l generalizing s with
  | nil => exact h
  | cons e r ih => exact ih (inv_load h _ _)
theorem keeps_vectorLoad (vd rs1 rs2 mk w strided) : Keeps (vectorLoad vd rs1 rs2 mk w strided s) := by
  unfold vectorLoad
  have hr := inv_readOwn h w (ownLanes s (activeLanes s.me w mk (laneAddr s rs1 rs2 w strided)))
  dsimp only
  split
  · exact keeps_finish h _ (inv_retire h _)
  · split
    · split
      · exact keeps_finish hr _ (inv_retire (inv_vwrite hr _ _) _)
      · exact keeps_finish h _ (foldl_inv (fun s x h => inv_send h _ _) _ (inv_modHart hr _ _))
    · exact keeps_finish h _ h
theorem keeps_vectorStore (vs3 rs1 rs2 mk w strided) : Keeps (vectorStore vs3 rs1 rs2 mk w strided s) := by
  unfold vectorStore
  dsimp only
  split
  · exact keeps_finish h _ (inv_retire h _)
  · exact keeps_finish h _ (inv_retireWith (foldl_inv (fun s x h => inv_send h _ _) _ (foldl_inv (fun s x h => inv_storeSegs h _ _ _) _ h)) _)
theorem inv_readRecord (a align n) : Inv (readRecord s a align n) := by unfold readRecord; grind only [inv_scrub]
theorem keeps_sbind (v rs1) (mk : Shape → StreamKind) : Keeps (sbind v rs1 mk s) := by
  unfold sbind
  grind only [inv_readRecord, keeps_finish, inv_retireWith]
theorem keeps_execVsel (vd vs1 vs2 mk w) : Keeps (execVsel vd vs1 vs2 mk w s) := by
  unfold execVsel
  grind only [keeps_finish, inv_retireWith, inv_vwrite]

/-! Conversions. -/

theorem keeps_execVcvt (vd vs1 rm sat amax sc) : Keeps (execVcvt vd vs1 rm sat amax sc s) :=
  keeps_typed0 h _ fun _ => keeps_finish h _ (inv_vretire (inv_modHart (inv_vwrite h _ _) _ _) _ _ _ _ _)
theorem keeps_execVquant (vd vs1 rm sat amax sc) : Keeps (execVquant vd vs1 rm sat amax sc s) :=
  keeps_typed0 h _ fun _ => keeps_finish h _ (inv_vretire (inv_modHart (inv_vwrite h _ _) _ _) _ _ _ _ _)
theorem keeps_execVdeq (vd vs1 rm sat amax sc) : Keeps (execVdeq vd vs1 rm sat amax sc s) := by
  refine keeps_typed0 h _ fun _ => keeps_finish h _ (inv_vretire (inv_modHart ?_ _ _) _ _ _ _ _)
  split
  · exact inv_modHart h _ _
  · exact inv_vwrite h _ _
theorem keeps_execTbld (vs1 sc) : Keeps (execTbld vs1 sc s) := by
  unfold execTbld
  grind only [inv_modHart, keeps_finish, inv_vretire]
theorem keeps_execCbld (rs1) : Keeps (execCbld rs1 s) := by
  unfold execCbld
  grind only [keeps_finish, inv_retireWith, inv_readRecord]

/-! Full-empty operations, gathers and copies. -/

theorem inv_firstServed (loc l) : ∀ p, firstServed s loc l = some p → Inv p.2.1 := by
  induction l with
  | nil => intro p hp; cases hp
  | cons q r ih =>
    intro p hp
    unfold firstServed at hp
    split at hp
    · next op _ l _ =>
      have hf := inv_feAt h (some q.hart) l op
      grind only
    · exact ih p hp
theorem inv_serveFe (n loc) : Inv (serveFe n s loc) := by
  induction n generalizing s with
  | zero => exact h
  | succ n ih =>
    unfold serveFe
    dsimp only
    split
    · exact h
    · next e => exact ih (inv_putBackAt (inv_modCore (inv_firstServed h _ _ _ e) _ _) _ _)
theorem inv_wakeFe (loc) : Inv (wakeFe s loc) := by unfold wakeFe; grind only [inv_serveFe]
theorem keeps_feJoin (kind a loc op) : Keeps (feJoin s kind a loc op) := by
  unfold feJoin
  grind only [keeps_finish, inv_modCore, inv_modHart, inv_mk, wf_mem_iff]
theorem keeps_feInstr (p kind a op) : Keeps (feInstr p kind a op s) := by
  unfold feInstr
  have hf := fun loc => inv_feAt h (some s.cur) loc op
  grind only [keeps_feJoin, keeps_landNow, inv_wakeFe, keeps_finish, inv_retire, inv_sendPosted, inv_sendHeld]
theorem keeps_feLoad (rd rs1 clr) : Keeps (feLoad rd rs1 clr s) := by unfold feLoad; grind only [keeps_feInstr]
theorem keeps_feSetInstr (rs1 full) : Keeps (feSetInstr rs1 full s) := by unfold feSetInstr; grind only [keeps_feInstr]
theorem keeps_execFeqry (rd rs1) : Keeps (execFeqry rd rs1 s) := by unfold execFeqry; grind only [keeps_feInstr]
theorem inv_sendLanes (body : Nat × Word × W32 → Body) (l) : Inv (sendLanes body l s) := by
  induction l generalizing s with
  | nil => exact inv_retire h _
  | cons e r ih =>
    unfold sendLanes
    split
    · exact ih (inv_send h _ _)
    · exact inv_modHart h _ _
theorem keeps_laneInstr (p) (start : Hart → Hart) (body : Nat × Word × W32 → Body) (l) : Keeps (laneInstr p start body l s) := by
  unfold laneInstr
  grind only [keeps_finish, inv_sendLanes, inv_modHart, keeps_next]
theorem keeps_gather (vd srcs) (addr : Nat → Word) : Keeps (gather vd srcs addr s) := by
  unfold gather
  grind only [keeps_laneInstr]
theorem keeps_scatter (vs3 srcs) (addr : Nat → Word) : Keeps (scatter vs3 srcs addr s) := by
  unfold scatter
  grind only [keeps_laneInstr]
theorem inv_regLocks (ls) : Inv (regLocks s ls).1 := h
theorem keeps_execCpy (rd rs1 rs2) : Keeps (execCpy rd rs1 rs2 s) := by
  unfold execCpy
  grind only [inv_regLocks, inv_modCluster, keeps_finish, inv_retireWith, inv_readRecord]

/-! Translation and the copy engine. -/

theorem inv_translate (d slot a write) : Inv (translate s d slot a write).1 := by
  have hw : ∀ loc e, Inv { s with mem := s.mem.writeBytes loc (toBytes 8 e) } := fun loc e => Memory.wf_writeBytes _ h loc
  unfold translate
  grind only [inv_modDie]
theorem inv_askPage (d slot a) : Inv (askPage s d slot a) := h
theorem inv_askHost (g slot a tag) : Inv (askHost s g slot a tag) := by unfold askHost; grind only [inv_modDie, inv_askPage]
theorem inv_countDrop (c) : Inv (countDrop s c) := h
theorem inv_reach (A a n write) : Inv (reach s A a n write).1 := by unfold reach; grind only [inv_countDrop, inv_translate]
theorem inv_fillGranules (loc n) : Inv (fillGranules s loc n) := by
  unfold fillGranules
  split
  · exact foldl_inv (fun s g h => by split; exacts [h, inv_wakeFe (inv_setFe h _ _) _]) _ h
  · exact h
theorem inv_engRead (A r n) : Inv (engRead s A r n).1 := by unfold engRead; grind only [inv_load]
theorem inv_engWrite (A r bytes poison k) : Inv (engWrite s A r bytes poison k).1 := by unfold engWrite; grind only [inv_store]
theorem inv_pastReads : Inv (pastReads s) := h
theorem inv_settleUnits (m) : Inv (settleUnits s m) := by
  refine foldl_inv (fun s e h => inv_fillGranules ?_ _ _) _ h
  split
  · exact inv_poisonWrite h _ _ _
  · exact h
omit h in
theorem inv_EngRun_settled {R : EngRun} (hR : Inv R.st) : Inv (EngRun.settled R).st := by
  unfold EngRun.settled
  grind only [inv_settleUnits]
theorem inv_readElem (A r k) (view : State → Reach → State) : Inv (readElem s A r k view).1 := by
  unfold readElem
  grind only [inv_reach, inv_engRead]
theorem inv_writeElem (A r k v p) : Inv (writeElem s A r k v p).1 := by
  unfold writeElem
  grind only [inv_reach, inv_engRead, inv_engWrite]
theorem inv_engAsk (A k) : Inv (engAsk s A k) := by unfold engAsk; grind only [inv_askHost, inv_modCluster, inv_sendAs]
omit h in
theorem inv_copyElem (A src dst before) {R : EngRun} (hR : Inv R.st) (k) : Inv (copyElem A src dst before R k).st := by
  unfold copyElem
  grind only [inv_draw, inv_readElem, inv_writeElem]
theorem inv_runCopy (c before) : Inv (runCopy s c before).1 := by
  unfold runCopy
  split
  · exact h
  · exact inv_draw h
  · exact inv_EngRun_settled (foldl_inv_of (g := EngRun.st) (fun R k hR => inv_copyElem _ _ _ _ hR k) _ h)
theorem inv_endCopy (g c status) : Inv (endCopy s g c status) := h
theorem keeps_execCopyCompletion (clu) : Keeps (execCopyCompletion clu s) := by
  unfold execCopyCompletion
  grind only [keeps_next, inv_modCluster, inv_runCopy, inv_endCopy, inv_engAsk]
theorem keeps_execEngineQueueGrant (clu eng) : Keeps (execEngineQueueGrant clu eng s) := by
  unfold execEngineQueueGrant
  grind only [inv_modCluster, keeps_next]

/-! The matrix engine. -/

theorem inv_grantLease (g k) : Inv (grantLease s g k) :=
  foldl_inv (f := fun s (e : Nat × Nat) => retire s e.1) (fun _ e h => inv_retire h e.1) _ (inv_modCluster h g _)
theorem keeps_execMlease (rs1) : Keeps (execMlease rs1 s) := by
  unfold execMlease
  grind only [keeps_finish, keeps_next, inv_modCluster, inv_modHart, inv_grantLease]
theorem keeps_execMrel : Keeps (execMrel s) := by unfold execMrel; grind only [keeps_finish, inv_retire, inv_modCluster]
theorem inv_withdrawLease (k) : Inv (withdrawLease s k) := by unfold withdrawLease; grind only [inv_modCluster]
theorem keeps_execLeaseGrant (clu) : Keeps (execLeaseGrant clu s) := by
  unfold execLeaseGrant
  grind only [keeps_next, inv_grantLease]
theorem keeps_execLeaseIdleTimeout (clu) : Keeps (execLeaseIdleTimeout clu s) := by
  unfold execLeaseIdleTimeout
  grind only [keeps_next, inv_modCluster]
theorem keeps_execOclaim (rd rs1) : Keeps (execOclaim rd rs1 s) := by
  unfold execOclaim
  grind only [keeps_finish, inv_retireWith, inv_retireX]
theorem inv_wipeSlot (g u) : Inv (wipeSlot s g u) := wf_filter h _
theorem inv_wipe (g acc u) : Inv (wipe s g acc u) := by unfold wipe; grind only [inv_modCluster, inv_wipeSlot]
theorem inv_unmap (k acc ns) : Inv (unmap s k acc ns) :=
  inv_modHart (foldl_inv (fun _ u h => inv_wipe h _ acc u) _ h) k _
theorem inv_unmapAll (k) : Inv (unmapAll s k) := by unfold unmapAll; grind only [inv_unmap]
theorem inv_releaseEngine (k) : Inv (releaseEngine s k) := by unfold releaseEngine; grind only [inv_modHart, inv_unmapAll]
theorem inv_accept (op uses locks fill) : Inv (accept s op uses locks fill) := h
theorem inv_stageRetire (op uses sc) : Inv (stageRetire s op uses sc) := h
theorem keeps_stageCmd (sx sw ac ms sc acc) : Keeps (stageCmd sx sw ac ms sc acc s) := by
  unfold stageCmd
  grind only [keeps_finish, inv_stageRetire]
theorem keeps_crossCmd (sx sw ac ms sc acc) : Keeps (crossCmd sx sw ac ms sc acc s) := by
  unfold crossCmd
  grind only [keeps_finish, inv_stageRetire]
theorem keeps_chainCmd (sx sw ac ms sc cf acc) : Keeps (chainCmd sx sw ac ms sc cf acc s) := by
  unfold chainCmd
  grind only [keeps_finish, inv_stageRetire, inv_modHart]
theorem keeps_execMaccz (rs1) : Keeps (execMaccz rs1 s) := by unfold execMaccz; grind only [keeps_finish, inv_retire, inv_accept]
theorem keeps_execOfill (rs1 rs2) : Keeps (execOfill rs1 rs2 s) := by
  unfold execOfill
  grind only [inv_regLocks, keeps_finish, inv_retire, inv_accept, inv_readRecord]
theorem keeps_drainCmd (rs1 rs2 amax) : Keeps (drainCmd rs1 rs2 amax s) := by
  unfold drainCmd
  grind only [inv_regLocks, keeps_finish, inv_retire, inv_accept, inv_readRecord]
theorem inv_readOperand (g c lo n) : Inv (readOperand s g c lo n) :=
  foldl_inv (fun _ _ h => inv_setPoi h _ true) _ (inv_setCluster h g _)
theorem inv_readAccRow (g u r) : Inv (readAccRow s g u r) := h
theorem inv_readAccRows (g u rows) : Inv (readAccRows s g u rows) := foldl_inv (fun _ r h => inv_readAccRow h g u r) rows h
theorem inv_readTile (g c slot fa blk rows) : Inv (readTile s g c slot fa blk rows) := by
  refine foldl_inv (fun s r h => ?_) rows h
  have h1 := inv_readOperand h g c (slot * 8192 + 128 * r * (fa.width / 8)) (128 * (fa.width / 8))
  dsimp only
  split
  · exact inv_readOperand h1 _ _ _ _
  · exact h1
theorem inv_readAreas (g c l) : Inv (readAreas s g c l) := foldl_inv (fun _ _ h => inv_readOperand h g c _ _) l h
theorem inv_readStage (g c) : Inv (readStage s g c) := by
  unfold readStage
  grind only [inv_readAreas, inv_readTile, inv_readAccRows]
theorem inv_runStage (g c) : Inv (runStage s g c) := by unfold runStage; grind only [inv_readStage, inv_modCluster]
theorem inv_fillPut (g c r lo k v) : Inv (fillPut s g c r lo k v) := by
  unfold fillPut
  split
  · exact Memory.wf_writeBytes _ h _
  · exact List.foldlRecOn (motive := fun m => Memory.wf m = true) _ _ h fun m hm e _ => Memory.wf_write hm _ _
omit h in
theorem inv_fillElem (g c r lo before n0) {acc : EngRun × List Nat} (hR : Inv acc.1.st) (k) :
    Inv (fillElem g c r lo before n0 acc k).1.st := by
  unfold fillElem
  obtain ⟨R, bad⟩ := acc
  have hd := inv_draw hR
  have hr := inv_readElem hd c.agent r k fun s t => oldOrNew s before n0 t
  grind only [inv_fillPut]
theorem inv_fillPoison (g c lo done hi bad) : Inv (fillPoison s g c lo done hi bad) := by
  unfold fillPoison
  split
  · exact h
  · refine foldl_inv (fun s k h => inv_setPoi ?_ _ _) _ h
    split
    · exact inv_setCluster h _ _
    · exact inv_readOperand h _ _ _ _
theorem inv_runFill (g c slot off r) : Inv (runFill s g c slot off r).st := by
  have hf := foldl_inv_of (g := fun p : EngRun × List Nat => p.1.st)
    (fun p k hp => inv_fillElem g c r (fillSpan slot off r).1 (((s.cluster g).fillFrom).getD (s.mem, s.gran)) s.free hp k)
    (List.range r.count) (b := ({ st := pastReads s }, [])) (inv_pastReads h)
  exact inv_fillPoison hf _ _ _ _ _ _
omit h in
theorem inv_drainElem (c u dst skip mode sat fa fd G) {R : EngRun} (hR : Inv R.st) (k) : Inv (drainElem c u dst skip mode sat fa fd G R k).st := by
  unfold drainElem
  grind only [inv_draw, inv_writeElem]
theorem inv_runDrain (g c a dst skip rtz sat fa fd) : Inv (runDrain s g c a dst skip rtz sat fa fd).st := by
  unfold runDrain
  generalize List.range 4096 = l
  exact inv_EngRun_settled (foldl_inv_of (g := EngRun.st) (fun R k hR => inv_drainElem _ _ _ _ _ _ _ _ _ hR k) _ (inv_readAccRows h _ _ _))
theorem inv_drainNote (g c a skip rtz sat amax fa fd) : Inv (drainNote s g c a skip rtz sat amax fa fd) := h
theorem inv_endCommand (g c) : Inv (endCommand s g c) := h
theorem keeps_execEngineCommandStart (clu) : Keeps (execEngineCommandStart clu s) := by
  unfold execEngineCommandStart
  grind only [keeps_next, inv_modCluster]
theorem keeps_execEngineCommandCompletion (clu) : Keeps (execEngineCommandCompletion clu s) := by
  unfold execEngineCommandCompletion
  grind only [keeps_next, inv_endCommand, inv_runStage, inv_runFill, inv_engAsk]
theorem keeps_execDrainCompletion (clu) : Keeps (execDrainCompletion clu s) := by
  obtain ⟨run, hrun, hr⟩ : ∃ run, @runDrain = run ∧ ∀ c a dst skip rtz sat fa fd, Inv (run s clu c a dst skip rtz sat fa fd).st :=
    ⟨_, rfl, inv_runDrain h clu⟩
  unfold execDrainCompletion
  rw [hrun]
  split
  · exact h
  · split
    · dsimp only
      split
      · exact inv_engAsk h _ _
      · exact h
      · exact inv_endCommand (inv_drainNote (hr _ _ _ _ _ _ _ _) _ _ _ _ _ _ _ _ _) _ _
    · exact h
theorem inv_discardOf (g) (p : Nat → Bool) : Inv (discardOf s g p) :=
  foldl_inv (fun _ _ h => inv_modCore h _ _) _ (inv_modCluster h g _)
theorem keeps_execEngineCommandFailure (clu) : Keeps (execEngineCommandFailure clu s) := by
  unfold execEngineCommandFailure
  split
  · exact h
  · next c _ =>
    dsimp only
    split
    · exact inv_engAsk h _ _
    · exact h
    · refine inv_discardOf (inv_modHart (inv_endCommand ?_ _ _) _ _) _ _
      split
      · exact inv_runFill h _ _ _ _ _
      · exact inv_runDrain h _ _ _ _ _ _ _ _ _
      · exact h
theorem inv_dropMatrix (core) : Inv (dropMatrix s core) :=
  inv_modCluster (foldl_inv (fun _ k h => inv_unmapAll h k) _ (inv_discardOf h _ _)) _ _

/-! The sparse engines. -/

theorem keeps_sparseCmd (kind rs1 rs2 n) (arrs : List Byte → List Arr) (ok : List Byte → Bool) : Keeps (sparseCmd kind rs1 rs2 n arrs ok s) := by
  unfold sparseCmd
  grind only [inv_regLocks, inv_modCluster, inv_wakeFe, inv_setFe, inv_store, keeps_finish, inv_retireWith, inv_readRecord]
theorem keeps_execMrgu (rs1 rs2) : Keeps (execMrgu rs1 rs2 s) := by unfold execMrgu; grind only [keeps_sparseCmd]
theorem keeps_execMrguDz (rs1 rs2) : Keeps (execMrguDz rs1 rs2 s) := by unfold execMrguDz; grind only [keeps_sparseCmd]
theorem keeps_execMrgi (rs1 rs2) : Keeps (execMrgi rs1 rs2 s) := by unfold execMrgi; grind only [keeps_sparseCmd]
theorem keeps_execScnv (rs1 rs2) : Keeps (execScnv rs1 rs2 s) := by unfold execScnv; grind only [keeps_sparseCmd]
theorem keeps_execScnvw (rd rs1) : Keeps (execScnvw rd rs1 s) := by
  unfold execScnvw
  grind only [keeps_finish, inv_retireWith, inv_scrub, inv_store]
theorem keeps_execScnvwTimeout (k) : Keeps (execScnvwTimeout k s) := by
  unfold execScnvwTimeout
  grind only [keeps_next, inv_takeTrap]
theorem inv_writeOut (l) : Inv (writeOut s l) := by
  refine foldl_inv (fun s e h => inv_fillGranules h _ _) _ (foldl_inv (fun s e h => ?_) _ (foldl_inv (fun s e h => inv_store h _ _ _ _) _ h))
  dsimp only
  split
  · exact inv_setPoi h _ _
  · exact h
omit h in
theorem inv_spRead {R : SpRun} (hR : Inv R.st) (A base n i arr) : Inv (spRead R A base n i arr).1.st := by
  unfold spRead
  grind only [inv_reach, inv_engRead]
omit h in
theorem inv_spIndex {R : SpRun} (hR : Inv R.st) (A base i arr) : Inv (spIndex R A base i arr).1.st := by
  unfold spIndex
  grind only [inv_spRead]
omit h in
theorem inv_spAscend {R : SpRun} (hR : Inv R.st) (A base i arr prev) : Inv (spAscend R A base i arr prev).1.st := by
  unfold spAscend
  grind only [inv_spIndex]
theorem inv_spTarget (A base n i arr) : Inv (spTarget s A base n i arr).1 := by unfold spTarget; grind only [inv_reach]
omit h in
theorem inv_emit {R : SpRun} (hR : Inv R.st) (A oidx oval z cap index v p) : ∀ q, emit R A oidx oval z cap index v p = .ok q → Inv q.st := by
  unfold emit
  grind only [inv_spTarget]
omit h in
theorem inv_mergeWalk (A d kind f fuel i j pa pb) {R : SpRun} (hR : Inv R.st) : Inv (mergeWalk A d kind f fuel i j pa pb R).1.st := by
  induction fuel generalizing i j pa pb R with
  | zero => exact hR
  | succ fuel ih =>
    unfold mergeWalk
    extract_lets z
    split
    next R1 a e1 =>
    have h1 : Inv R1.st := by
      have ha := inv_spAscend hR A d.aidx i 0 pa
      grind only
    split
    · exact h1
    split
    next R2 b e2 =>
    have h2 : Inv R2.st := by
      have hb := inv_spAscend h1 A d.bidx j 2 pb
      grind only
    split
    · exact h2
    extract_lets takeA takeB i' j' pa' pb' idx
    split
    · exact h2
    split
    · exact ih _ _ _ _ h2
    split
    next R3 va e3 =>
    have h3 : Inv R3.st := by
      have ha := inv_spRead h2 A d.aval z i 1
      grind only
    split
    · exact h3
    split
    next R4 vb e4 =>
    have h4 : Inv R4.st := by
      have hb := inv_spRead h3 A d.bval z j 3
      grind only
    split
    · exact h4
    split
    · exact ih _ _ _ _ h4
    extract_lets both v
    split
    · exact ih _ _ _ _ h4
    split
    · exact h4
    · next e => exact ih _ _ _ _ (inv_emit h4 _ _ _ _ _ _ _ _ _ e)
omit h in
theorem inv_denseWalk (A d f fuel n) {R : SpRun} (hR : Inv R.st) : Inv (denseWalk A d f fuel n R).1.st := by
  induction fuel generalizing n R with
  | zero => exact hR
  | succ fuel ih =>
    have hr := fun base z i arr => inv_spRead hR A base z i arr
    have he := fun {Q : SpRun} (hQ : Inv Q.st) z i v p => inv_emit hQ A d.oidx d.oval z d.ocap i v p
    unfold denseWalk
    grind only
omit h in
theorem inv_coordWalk (A d f fuel n prev) {R : SpRun} (hR : Inv R.st) : Inv (coordWalk A d f fuel n prev R).1.st := by
  induction fuel generalizing n prev R with
  | zero => exact hR
  | succ fuel ih =>
    unfold coordWalk
    dsimp only
    split
    · next e1 => exact inv_fst e1 (inv_spIndex hR _ _ _ _)
    next e1 =>
    have h1 := inv_fst e1 (inv_spIndex hR _ _ _ _)
    split
    · next e2 => exact inv_fst e2 (inv_spIndex h1 _ _ _ _)
    next e2 =>
    have h2 := inv_fst e2 (inv_spIndex h1 _ _ _ _)
    split_ifs
    · exact h2
    · exact h2
    · exact h2
    split
    · next e3 => exact inv_fst e3 (inv_spRead h2 _ _ _ _ _)
    next e3 =>
    have h3 := inv_fst e3 (inv_spRead h2 _ _ _ _ _)
    split
    · exact h3
    · next R e =>
      have h4 : Inv R.st := inv_emit h3 _ _ _ _ _ _ _ _ _ e
      exact ih _ _ h4
theorem inv_writePtrs (A d posted l e) : Inv (writePtrs A d posted l s e).1 := by
  induction l generalizing s e with
  | nil => exact h
  | cons g r ih =>
    have ht := inv_spTarget h A d.optr 4 ((g.map fun (i, _) => i).headD 0) 6
    unfold writePtrs
    grind only [inv_sendAs, inv_writeOut]
theorem inv_walkSparse (c) : Inv (walkSparse s c).1.st := by
  unfold walkSparse
  grind only [inv_pastReads, inv_denseWalk, inv_coordWalk, inv_mergeWalk]
theorem inv_runSparse (c) : Inv (runSparse s c).1 := by
  unfold runSparse
  grind only [inv_walkSparse, inv_writePtrs, inv_writeOut, inv_draw]
theorem inv_endSparse (g c status result poison) : Inv (endSparse s g c status result poison) := by
  unfold endSparse
  grind only [inv_modCluster, inv_modCore, inv_modHart, inv_store, inv_wakeFe, inv_setFe]
theorem keeps_execSparseCommandStart (clu eng) : Keeps (execSparseCommandStart clu eng s) := by
  unfold execSparseCommandStart
  grind only [keeps_next, inv_modCluster]
theorem keeps_execSparseCommandCompletion (clu eng) : Keeps (execSparseCommandCompletion clu eng s) := by
  unfold execSparseCommandCompletion
  grind only [keeps_next, inv_runSparse, inv_endSparse, inv_engAsk]
theorem inv_writeSome (c) : Inv (writeSome s c) := by unfold writeSome; grind only [inv_writeOut, inv_pastReads]
theorem inv_dropSparseOf (g) (p : Nat → Bool) : Inv (dropSparseOf s g p) := by
  refine foldl_inv (fun s c h => inv_modCore h _ _) _ (inv_modCluster ?_ g _)
  grind only [inv_writeSome, inv_draw, inv_writePtrs, inv_endSparse]
theorem inv_dropSparse (core) : Inv (dropSparse s core) := by unfold dropSparse; grind only [inv_dropSparseOf]

/-! Ports and packets that cannot be served. -/

theorem inv_orStatus (g n v) : Inv (orStatus s g n v) := h
theorem inv_sendDev (g slot key b) : Inv (sendDev s g slot key b) := by unfold sendDev; grind only [inv_sendAs]
theorem inv_mcwFailed (p c off tag cause) : Inv (mcwFailed s p c off tag cause) := by unfold mcwFailed; grind only [inv_modHart]
theorem inv_failPkt (p cause) : Inv (failPkt s p cause) := by
  unfold failPkt
  grind only [inv_dropPkt, inv_putPkt, inv_mcwFailed, inv_orStatus, inv_sendDev]
theorem inv_setPort (k P) : Inv (setPort s k P) := h
theorem inv_sendFlit (l o) : Inv (sendFlit s l o) := by
  unfold sendFlit
  extract_lets L flit n L2 s1
  have h1 : Inv s1 := inv_setLink h l _
  split
  · exact inv_setPort h1 _ _
  · exact h1
theorem inv_portTurn (l) : Inv (portTurn l s) := by
  unfold portTurn
  split
  · split
    · exact h
    · next o r _ =>
      have h1 := inv_setLink h l { linkOf s l with queue := r }
      dsimp only
      split
      · split
        · exact inv_dropPkt h1 _
        · exact inv_failPkt h1 _ _
      · exact h1
  · split
    · split
      · exact inv_sendFlit h l _
      · exact h
    · exact h
theorem inv_gatewayOver (n k p) : Inv (gatewayOver s n k p) := by
  unfold gatewayOver
  grind only [inv_failPkt, inv_setPort, inv_queueOut, inv_dropPkt]
theorem inv_gatewayTo (d k p) : Inv (gatewayTo s d k p) := by unfold gatewayTo; grind only [inv_failPkt, inv_gatewayOver]
theorem inv_gatewaySend (p) : Inv (gatewaySend s p) := by unfold gatewaySend; grind only [inv_gatewayTo]

/-! Task records and counters. -/

theorem inv_signalEnd (g r n status) : Inv (signalEnd s g r n status) := by
  unfold signalEnd
  grind only [inv_sendDev, inv_orStatus]
theorem inv_spawnRec (g k r regs n slot key target) : Inv (spawnRec s g k r regs n slot key target) := by
  unfold spawnRec
  grind only [inv_sendAs, inv_modCluster, inv_modHart]
theorem inv_groupCount (k status) : Inv (groupCount s k status) := by
  unfold groupCount
  grind only [inv_modCluster, inv_signalEnd]
theorem inv_endRecord (g r group n status) : Inv (endRecord s g r group n status) := by
  unfold endRecord
  grind only [inv_groupCount, inv_signalEnd]
theorem inv_writeCounter (wr loc c) : Inv (writeCounter s wr loc c) := by unfold writeCounter; grind only [inv_store]
theorem inv_contScrub (c cont) : Inv (contScrub s c cont) := by unfold contScrub; grind only [inv_scrub]
theorem inv_fire (wr loc n q) : Inv (fire s wr loc n q) := by
  unfold fire
  grind only [inv_writeCounter, inv_sendDev, inv_contScrub, inv_spawnRec, inv_orStatus]
theorem inv_joinAt (wr loc op) : Inv (joinAt s wr loc op).1 := by
  unfold joinAt
  grind only [inv_scrub, inv_writeCounter, inv_fire]

/-! Remote requests and replies. -/

theorem inv_refuse (p loc cause) : Inv (refuse s p loc cause) := by unfold refuse; grind only [inv_failPkt, inv_countDrop]
theorem inv_performMem (k loc op) : Inv (performMem s k loc op).1 := by
  unfold performMem
  cases op <;> grind only [inv_windowRead, inv_load, inv_loadSegs, inv_windowWrite, inv_store, inv_storeSegs, inv_amoAt, inv_cellAt, inv_joinAt]
theorem inv_answer (p r) : Inv (answer s p r) := by unfold answer; grind only [inv_putPkt]
theorem inv_serveMem (p loc op) : Inv (serveMem s p loc op) := by
  unfold serveMem
  grind only [inv_refuse, inv_performMem, inv_answer]
theorem keeps_execRemoteRequest (p) : Keeps (execRemoteRequest p s) := by
  unfold execRemoteRequest
  grind only [keeps_next, inv_passTime, inv_serveMem, inv_gatewaySend]
theorem keeps_execJoinOpArrival (p) : Keeps (execJoinOpArrival p s) := by
  unfold execJoinOpArrival
  grind only [keeps_next, inv_serveMem, inv_gatewaySend]
theorem inv_landHeld (n k) : Inv (landHeld s n k) := by
  unfold landHeld
  grind only [inv_takeTrap, inv_modHart, inv_retire, inv_vwriteAt, inv_setHart, inv_spawnRec]
theorem inv_replyHeld (k a part host r) : Inv (replyHeld s k a part host r) := by
  unfold replyHeld
  grind only [inv_landHeld, inv_modHart]
theorem inv_replyLane (k a vd lane host r) : Inv (replyLane s k a vd lane host r) := by
  unfold replyLane
  grind only [inv_setHart, inv_vwriteAt]
theorem inv_chAnswered (p r) : Inv (chAnswered s p r) := by unfold chAnswered; grind only [inv_modHart]
theorem inv_replyUnit (g tag id r) : Inv (replyUnit s g tag id r) := h
theorem inv_replyPosted (p addr host k) : Inv (replyPosted s p addr host k) := by unfold replyPosted; grind only [inv_modHart]
theorem inv_landAt (p a host sink r) : Inv (landAt s p a host sink r) := by
  unfold landAt
  grind only [inv_replyUnit, inv_replyHeld, inv_replyLane, inv_replyPosted, inv_draw, inv_chAnswered]
theorem inv_landReply (p) : Inv (landReply s p) := by
  unfold landReply
  grind only [inv_gatewayTo, inv_dropPkt, inv_countDrop, inv_landAt]
theorem keeps_landIf (p) (f : Sink → Reply → Bool) : Keeps (landIf s p f) := by
  unfold landIf
  grind only [keeps_next, inv_landReply]
theorem keeps_execReplyLanding (p) : Keeps (execReplyLanding p s) := by unfold execReplyLanding; grind only [keeps_landIf]
theorem keeps_execStoreAck (p) : Keeps (execStoreAck p s) := by unfold execStoreAck; grind only [keeps_landIf]
theorem inv_writeErrRec (k kind reason idx target image) : Inv (writeErrRec s k kind reason idx target image) := by
  unfold writeErrRec
  have hw : ∀ a l, Inv { s with mem := s.mem.writeBytes a l } := fun a l => Memory.wf_writeBytes l h a
  dsimp only
  split
  · exact h
  · split
    · exact hw _ _
    · exact inv_modCore (hw _ _) _ _
theorem keeps_execErrorReply (p) : Keeps (execErrorReply p s) := by
  unfold execErrorReply
  grind only [keeps_landIf, keeps_next, inv_gatewayTo, inv_writeErrRec, inv_dropPkt]
theorem keeps_execGatherLaneReply (p) : Keeps (execGatherLaneReply p s) := by
  unfold execGatherLaneReply
  grind only [keeps_landIf]
theorem inv_parkPkt (d a p) : Inv (parkPkt s d a p) := h
theorem keeps_execVirtualAccess (p) : Keeps (execVirtualAccess p s) := by
  unfold execVirtualAccess
  grind only [keeps_next, inv_parkPkt, inv_translate, inv_setBody, inv_failPkt]
theorem inv_retryParked (d l) : Inv (retryParked d l s) := by
  induction l generalizing s with
  | nil => exact h
  | cons e r ih =>
    unfold retryParked
    dsimp only
    split
    · next a op sink _ _ =>
      have ht := inv_translate h d (e.2.slot.getD 0) a (!readsOnly op)
      generalize translate s d (e.2.slot.getD 0) a (!readsOnly op) = T at ht ⊢
      split
      · exact ih (inv_askPage (inv_modDie h _ _) _ _ _)
      · next t loc =>
        refine ih ?_
        have hn : Inv { t with net := t.net ++ [{ e.2 with body := .mem a op sink (.at_ loc) }] } := ht
        split
        · exact inv_serveMem hn _ _ _
        · exact inv_failPkt hn _ _
      · next t c => exact ih (inv_failPkt (s := { t with net := t.net ++ [e.2] }) ht _ _)
    · exact ih h
theorem inv_retryPage (d slot page) : Inv (retryPage s d slot page) := by
  unfold retryPage
  grind only [inv_retryParked, inv_modDie]
theorem inv_refusePage (d slot page) : Inv (refusePage s d slot page) :=
  foldl_inv (fun s e h => inv_failPkt (s := { s with net := s.net ++ [e.2] }) h _ _) _
    (foldl_inv (fun _ _ h => inv_modCluster h _ _) _ (inv_modDie h d _))
theorem keeps_execPriResponse (die station slot page success) : Keeps (execPriResponse die station slot page success s) := by
  unfold execPriResponse
  grind only [keeps_next, inv_modDie, inv_refusePage, inv_retryPage]
theorem keeps_execAtsCompletion (die station slot page frame writable) : Keeps (execAtsCompletion die station slot page frame writable s) := by
  unfold execAtsCompletion
  grind only [keeps_next, inv_modDie, inv_retryParked]
theorem keeps_execAtsInvalidation (slot page) : Keeps (execAtsInvalidation slot page s) := by
  unfold execAtsInvalidation
  grind only [keeps_next, inv_mk, wf_mem_iff]
theorem keeps_execFeRequest (k) : Keeps (execFeRequest k s) := by
  unfold execFeRequest
  split
  · next q _ =>
    split
    · next op _ wh _ =>
      split
      · exact h
      · split
        · simp only [keeps_next]
          split
          · exact inv_gatewaySend h q
          · exact h
        · dsimp only
          split
          · exact inv_refuse h q _ _
          · split
            · next e => exact inv_wakeFe (inv_answer (inv_feAt h _ _ _ _ e) _ _) _
            · split
              · exact inv_failPkt h q 28
              · exact inv_modCore (inv_dropPkt h _) _ _
    · exact h
  · exact h
theorem inv_unwait (c q) : Inv (unwait s c q) := h
theorem keeps_execFeTimeout (p) : Keeps (execFeTimeout p s) := by
  unfold execFeTimeout
  grind only [keeps_next, inv_failPkt, inv_unwait, inv_mk, wf_mem_iff]
theorem keeps_execFeWithdraw (k) : Keeps (execFeWithdraw k s) := by
  unfold execFeWithdraw
  grind only [keeps_next, inv_modHart, inv_unwait]
theorem inv_askLine (k tag n line l) : Inv (askLine s k tag n line l) := by
  unfold askLine
  grind only [inv_modCluster, inv_send]
omit h in
theorem inv_imageLane (i tag born r) {R : ImgRun} (hR : Inv R.st) (ik) : Inv (imageLane i tag born r R ik).st := by
  unfold imageLane
  split
  next a up _ =>
  extract_lets good
  split
  · exact hR
  split
  · exact hR
  · next loc _ _ =>
    have hl := inv_load hR loc r.elemBytes
    split
    · next e => rw [e] at hl; exact hl
    · next e => rw [e] at hl; exact hl
  · split
    · split
      · exact hR
      · exact hR
    · exact hR
    · exact hR
theorem keeps_execStreamImageFetch (i v) : Keeps (execStreamImageFetch i v s) := by
  unfold execStreamImageFetch
  split
  · split
    · split
      · exact h
      · extract_lets l n tag addrs away
        split
        · show Inv (if _ then _ else _)
          split
          · exact inv_askLine h _ _ _ _ _
          · exact h
        · split
          · exact h
          · exact inv_modHart (inv_modCluster (foldl_inv_of (g := ImgRun.st) (fun R k hR => inv_imageLane _ _ _ _ hR k) _ h) _ _) _ _
    · exact h
  · exact h
theorem keeps_execStreamImageStore (k v) : Keeps (execStreamImageStore k v s) := by
  unfold execStreamImageStore
  dsimp only
  split
  · split
    · split
      · exact h
      · exact foldl_inv (fun s x h => inv_send h _ _) _ (foldl_inv (fun s x h => inv_store h _ _ _ _) _ (inv_modHart h _ _))
    · exact h
  · exact h

/-! Tasks. -/

theorem inv_bufferRead (a) : Inv (bufferRead s a) := by unfold bufferRead; grind only [inv_readRecord]
theorem inv_taskRead (a) : Inv (taskRead s a) := by unfold taskRead; grind only [inv_bufferRead]
theorem inv_spawnHere (r regs target) : Inv (spawnHere s r regs target) := by unfold spawnHere; grind only [inv_spawnRec]
theorem keeps_execSpawn (rs1) : Keeps (execSpawn rs1 s) := by
  unfold execSpawn
  grind only [inv_taskRead, keeps_finish, inv_retire, inv_spawnHere]
theorem keeps_execSpawnNb (rd rs1) : Keeps (execSpawnNb rd rs1 s) := by
  unfold execSpawnNb
  grind only [inv_taskRead, keeps_finish, inv_retireX, inv_spawnHere]
theorem keeps_execSpawnr (rs1 rs2) : Keeps (execSpawnr rs1 rs2 s) := by
  unfold execSpawnr
  grind only [inv_taskRead, keeps_finish, inv_retire, inv_spawnHere]
theorem keeps_execSpawnat (rs1 rs2) : Keeps (execSpawnat rs1 rs2 s) := by
  unfold execSpawnat
  grind only [inv_taskRead, keeps_finish, inv_retire, inv_spawnHere]
theorem keeps_execSpawnWaitTimeout (k) : Keeps (execSpawnWaitTimeout k s) := by
  unfold execSpawnWaitTimeout
  grind only [keeps_next, inv_takeTrap]
theorem inv_refuseDeposits (c) (p : Packet → Bool) : Inv (refuseDeposits s c p) :=
  foldl_inv (fun _ _ h => inv_putBackAt h _ _) _ (inv_modCore h c _)
theorem inv_disarmHart (k) : Inv (disarmHart s k) := by unfold disarmHart; grind only [inv_modHart, inv_refuseDeposits]
theorem keeps_endWork (more) {t : State → State} (ht : ∀ s, Inv s → Inv (t s)) : Keeps (endWork s more t) := by
  unfold endWork
  have h1 := inv_releaseEngine h s.cur
  split
  · exact keeps_finish h1 _ (ht _ h1)
  · exact keeps_finish h _ h
theorem inv_dropCost (k) : Inv (dropCost s k) := by unfold dropCost; grind only [inv_modCluster]
theorem inv_dropFrame (k) : Inv (dropFrame s k) := by unfold dropFrame; grind only [inv_modCore]
theorem inv_leaveBarriers (k) : Inv (leaveBarriers s k) := h
theorem inv_leaveTask (k) : Inv (leaveTask s k) := by
  unfold leaveTask
  grind only [inv_modHart, inv_leaveBarriers, inv_dropFrame, inv_dropCost]
theorem inv_endTask (status) : Inv (endTask s status) := by
  unfold endTask
  grind only [inv_leaveTask, inv_disarmHart, inv_retire, inv_endRecord, inv_orStatus]
theorem keeps_execTend (rs1) : Keeps (execTend rs1 s) := by
  unfold execTend
  dsimp only
  split
  · exact keeps_endWork (inv_modHart h _ _) _ fun t ht => inv_endTask ht _
  · exact keeps_finish h _ h
theorem keeps_joinInstr (a op) : Keeps (joinInstr a op s) := by
  unfold joinInstr
  grind only [keeps_finish, inv_sendPosted, inv_joinAt, inv_retire]
theorem keeps_execDqpop (rd) : Keeps (execDqpop rd s) := by
  unfold execDqpop
  grind only [keeps_finish, inv_retireWith, inv_retireX]
theorem keeps_execDqsplit : Keeps (execDqsplit s) := by unfold execDqsplit; grind only [keeps_finish, inv_retire, inv_retireWith]
theorem inv_spillNow (rd b r t) : Inv (spillNow s rd b r t) := by unfold spillNow; grind only [inv_spawnHere, inv_retireWith]
theorem keeps_spillJoin (rd b r t) : Keeps (spillJoin s rd b r t) := by
  unfold spillJoin
  grind only [keeps_finish, inv_sendHeld, inv_joinAt, inv_spillNow]
theorem keeps_execDqspill (rd rs1) : Keeps (execDqspill rd rs1 s) := by
  unfold execDqspill
  grind only [keeps_finish, inv_retireX, inv_readRecord, inv_spillNow, keeps_spillJoin]
theorem keeps_withRead (q) {k : List Byte → Host.Outcome State Fault Refusal} (hk : ∀ l, Keeps (k l)) : Keeps (withRead s q k) := by
  unfold withRead
  split
  · exact hk _
  · exact keeps_finish h _ h
  · exact keeps_finish h _ h
  · exact keeps_finish h _ (inv_sendHeld h _ _ _)
theorem inv_ringSend (a op) : Inv (ringSend s a op) := by unfold ringSend; grind only [inv_send]
theorem inv_ringStore (a l) : Inv (ringStore s a l) := by unfold ringStore; grind only [inv_store]
theorem inv_ringWrite (now a l) : Inv (ringWrite s now a l) := by unfold ringWrite; grind only [inv_ringStore, inv_ringSend]
theorem inv_pushWrites (g d l) : Inv (pushWrites s g d l) := by
  have hf := foldl_inv (f := fun (s : State) (x : List Byte × Nat) => ringSend s (word (d.slot d.pidx) + word x.2) (.stores [(0, x.1)]))
    (fun s x h => inv_ringSend h _ _) ((pieces 3 l).zip [0, 64]) h
  unfold pushWrites
  grind only [inv_ringStore, inv_ringWrite, inv_send]
theorem keeps_execRpush (rs1 rs2) : Keeps (execRpush rs1 rs2 s) := by
  unfold execRpush
  dsimp only
  split
  · have h1 := inv_readRecord h (s.x rs1) 1 32
    refine keeps_withRead h1 _ fun l => ?_
    have h2 := fun a n k => inv_readRecord h1 a n k
    split
    · split
      · exact keeps_finish (h2 _ _ _) _ (inv_modHart (h2 _ _ _) _ _)
      · exact keeps_finish (h2 _ _ _) _ (inv_retire (inv_pushWrites (h2 _ _ _) _ _ _) _)
    · exact keeps_finish (h2 _ _ _) _ (h2 _ _ _)
  · exact keeps_finish h _ h
theorem keeps_execRingWaitTimeout (k) : Keeps (execRingWaitTimeout k s) := by
  unfold execRingWaitTimeout
  grind only [keeps_next, inv_takeTrap]
theorem keeps_ringTake (rd rs1 rs2 pop) : Keeps (ringTake rd rs1 rs2 pop s) := by
  unfold ringTake
  dsimp only
  split
  · have h1 := inv_readRecord h (s.x rs1) 1 32
    refine keeps_withRead h1 _ fun l => ?_
    split
    · refine keeps_withRead (inv_readRecord h1 _ _ _) _ fun l2 => ?_
      split
      · exact keeps_finish (inv_readRecord h1 _ _ _) _ (inv_retireX (inv_readRecord h1 _ _ _) _ _)
      · have h2 := inv_readRecord (inv_readRecord h1 (word ((parseRing l).head (parseRing l).cidx)) 1 8)
          (word ((parseRing l).slot (parseRing l).cidx)) 1 ((parseRing l).slotBytes - 8)
        refine keeps_withRead h2 _ fun b => keeps_finish h2 _ (inv_retireX ?_ _ _)
        have h3 := inv_ringStore h2 (s.x rs2) b
        split
        · exact h3
        · split
          · exact inv_ringStore h3 _ _
          · exact inv_ringSend h3 _ _
    · exact keeps_finish h1 _ h1
  · exact keeps_finish h _ h
theorem inv_barriersEnd (l) : Inv (barriersEnd l s) := by
  induction l generalizing s with
  | nil => exact h
  | cons b r ih =>
    unfold barriersEnd
    split
    · exact ih (inv_modPkg (foldl_inv (fun s k h => inv_retire h k) _ h) _)
    · exact ih h
theorem inv_barrierCheck : Inv (barrierCheck s) := by unfold barrierCheck; grind only [inv_barriersEnd]
theorem inv_barrierJoin (n q) : Inv (barrierJoin s n q) := by
  unfold barrierJoin
  grind only [inv_barrierCheck, inv_modHart, inv_mk, wf_mem_iff]
theorem keeps_execGrpbar (rs1) : Keeps (execGrpbar rs1 s) := by
  unfold execGrpbar
  grind only [keeps_finish, inv_retire, inv_modPkg, inv_barrierJoin]
theorem inv_preempt (k e) : Inv (preempt s k e) := by
  unfold preempt
  grind only [inv_store, inv_modCluster, inv_modHart, inv_leaveBarriers]
theorem keeps_execSafept (k) : Keeps (execSafept k s) := by
  unfold execSafept
  extract_lets H s1 a s2 e
  have h2 : Inv s2 := inv_readRecord (inv_disarmHart (inv_modHart h _ _) _) _ _ _
  split
  · split
    · split
      · exact keeps_endWork h2 _ fun t ht => inv_preempt ht _ _
      · exact keeps_finish h2 _ h2
    · exact keeps_finish h _ h
  · exact keeps_finish h _ (inv_retire h _)
theorem inv_discardEngine (k) : Inv (discardEngine s k) := inv_releaseEngine (inv_dropSparseOf (inv_discardOf h _ _) _ _) _
theorem inv_faultEndStart (k) : Inv (faultEndStart s k) := inv_discardEngine (inv_disarmHart (inv_modHart h _ _) _) _
theorem inv_faultEndFinish (k why) : Inv (faultEndFinish s k why) := by
  unfold faultEndFinish
  split
  · exact h
  · exact inv_orStatus (inv_endRecord (inv_modCluster (inv_leaveTask h _) _ _) _ _ _ _ _) _ _ _

/-! Placement and dispatch. -/

theorem inv_typeLookup (g n ty) : Inv (typeLookup s g n ty).1 := by unfold typeLookup; grind only [inv_reach, inv_modCluster]
theorem inv_typeAsk (g n v) : Inv (typeAsk s g n v) := by unfold typeAsk; grind only [inv_askHost]
theorem keeps_execTypeEntryRead (clu handle ty) : Keeps (execTypeEntryRead clu handle ty s) := by
  unfold execTypeEntryRead
  grind only [inv_typeLookup, keeps_next, inv_typeAsk]
theorem inv_recompute (g) : Inv (recompute s g) := h
theorem keeps_execBeaconInterval (clu) : Keeps (execBeaconInterval clu s) := by
  unfold execBeaconInterval
  split
  · exact h
  · exact foldl_inv (fun s p h => inv_sendAs h _ _ _ _) _ (inv_recompute (inv_modCluster h _ _) _)
theorem keeps_execBeacon (p) : Keeps (execBeacon p s) := by
  unfold execBeacon
  grind only [keeps_next, inv_queueOut, inv_dropPkt, inv_recompute, inv_modCluster]
theorem inv_acceptRec (g r regs n slot key e) : Inv (acceptRec s g r regs n slot key e) := by
  unfold acceptRec
  grind only [inv_modCluster, inv_sendDev]
theorem inv_loseRec (g r n slot key final) : Inv (loseRec s g r n slot key final) := by unfold loseRec; grind only [inv_sendDev]
theorem inv_finishEmpty (r n) : Inv (finishEmpty s r n) := by
  unfold finishEmpty
  grind only [inv_modCluster, inv_signalEnd, inv_modHart]
theorem keeps_execTaskRecordArrival (k) : Keeps (execTaskRecordArrival k s) := by
  unfold execTaskRecordArrival
  split
  · next q _ =>
    split
    · next r regs n clu direct _ =>
      have hl := inv_typeLookup h clu n r.ty
      split
      · exact h
      split
      · exact inv_gatewayOver h _ _ _
      split
      · exact inv_dropPkt h _
      split
      · exact inv_loseRec (inv_dropPkt h _) _ _ _ _ _ _
      split
      · exact inv_dropPkt h _
      split
      · exact inv_finishEmpty (inv_dropPkt h _) _ _
      generalize typeLookup s clu n r.ty = T at hl ⊢
      split
      · exact inv_typeAsk h _ _ _
      · exact inv_loseRec (inv_dropPkt hl _) _ _ _ _ _ _
      · split
        · exact inv_setBody hl _ _
        · split
          · exact inv_acceptRec (inv_dropPkt hl _) _ _ _ _ _ _ _
          · exact inv_modCluster (inv_dropPkt hl _) _ _
    · exact h
  · exact h
theorem keeps_execTaskBufferAccept (clu) : Keeps (execTaskBufferAccept clu s) := by
  unfold execTaskBufferAccept
  grind only [keeps_next, inv_typeLookup, inv_modCluster, inv_loseRec, inv_typeAsk, inv_acceptRec]
theorem inv_abandonGroup (k T) : Inv (abandonGroup s k T) := h
theorem inv_loseWork (g r n slot jk group final) : Inv (loseWork s g r n slot jk group final) := by
  unfold loseWork
  grind only [inv_sendDev, inv_abandonGroup, inv_groupCount]
theorem inv_loseCtx (g x) : Inv (loseCtx s g x) := by unfold loseCtx; grind only [inv_loseWork, inv_modCluster]
theorem inv_loseResume (c T) : Inv (loseResume s c T) := by
  unfold loseResume
  grind only [inv_modCluster, inv_loseWork, inv_modCore]
theorem keeps_atHome (p) {f : Packet → State → State} (hf : ∀ q, Inv (f q s)) : Keeps (atHome s p f) := by
  unfold atHome
  split
  · next q _ =>
    simp only [keeps_next]
    split
    · exact inv_gatewaySend h q
    · exact hf q
  · exact h
theorem inv_enterTask (k whole regs T e first) : Inv (enterTask s k whole regs T e first) := by
  unfold enterTask
  grind only [inv_modHart, inv_modCore, inv_store, inv_takeTrap]
theorem inv_resumeTask (k T regs armed) : Inv (resumeTask s k T regs armed) := by
  unfold resumeTask
  grind only [inv_scrub, inv_loseResume, inv_modHart]
theorem inv_countStart (k T) : Inv (countStart s k T).1 := h
theorem inv_startEntry (g q c) : Inv (startEntry s g q c) := by
  unfold startEntry
  grind only [inv_modCluster, inv_modCore, inv_countStart, inv_resumeTask, inv_enterTask]
theorem inv_settleHead (c) : Inv (settleHead s c) := by
  unfold settleHead
  grind only [inv_typeLookup, inv_typeAsk, inv_modCluster, inv_modCore, inv_loseWork]
theorem inv_startArrival (c x e) : Inv (startArrival s c x e) := by
  unfold startArrival
  grind only [inv_modCore, inv_countStart, inv_enterTask]
theorem keeps_execDispatch (clu) : Keeps (execDispatch clu s) := by
  unfold execDispatch
  split
  · exact h
  · have hs := foldl_inv (fun s c h => inv_settleHead h c) ((List.range 16).map fun i => coreAt clu i) h
    have hd := inv_draw hs
    dsimp only
    split
    · split
      · exact inv_startArrival hd _ _ _
      · exact hd
    · exact inv_startEntry hd _ _ _
    · exact hd
theorem inv_requestOn (g k order) : Inv (requestOn s g k order) := h
theorem keeps_execPreemptionRequest (clu) : Keeps (execPreemptionRequest clu s) := by
  unfold execPreemptionRequest
  grind only [keeps_next, inv_requestOn]
theorem inv_applyDec (ctr st key n slot jk) : ∀ t, applyDec s ctr st key n slot jk = some t → Inv t := by
  intro t ht
  unfold applyDec at ht
  have hs := fun G => inv_scrub (inv_setCluster h (cluOf (coreOfLoc (joinLoc ctr))) G) (joinLoc ctr) 16 false
  dsimp only at ht
  split at ht
  · cases ht; exact inv_sendDev h _ _ _ _
  · split at ht
    · cases ht
    · split_ifs at ht
      · cases ht; exact inv_sendDev (inv_orStatus (hs _) _ _ _) _ _ _ _
      · cases ht; exact inv_sendDev (inv_writeCounter (hs _) _ _ _) _ _ _ _
      · cases ht; exact inv_sendDev (inv_fire (hs _) _ _ _ _) _ _ _ _
      · cases ht; exact inv_sendDev (inv_writeCounter (hs _) _ _ _) _ _ _ _
theorem keeps_execDec (p) : Keeps (execDec p s) := by
  refine keeps_atHome h p fun q => ?_
  split
  · dsimp only
    split
    · refine inv_failPkt ?_ _ _
      split
      · exact inv_countDrop h _
      · exact h
    · split
      · next e => exact inv_dropPkt (inv_applyDec h _ _ _ _ _ _ _ e) _
      · exact h
  · exact h
theorem inv_settleKeep (g ser) : Inv (settleKeep s g ser) := by unfold settleKeep; grind only [inv_modCluster, inv_sendDev]
theorem keeps_execRelease (p) : Keeps (execRelease p s) := by
  refine keeps_atHome h p fun q => ?_
  split
  · exact inv_settleKeep (inv_modCluster (inv_dropPkt h _) _ _) _ _
  · exact h
theorem keeps_execUnpin (p) : Keeps (execUnpin p s) := by
  refine keeps_atHome h p fun q => ?_
  split
  · exact inv_modCluster (inv_dropPkt h _) _ _
  · exact h
theorem inv_updKeep (g ser) (f : Ret → Ret) : Inv (updKeep s g ser f) := h
theorem inv_loseKept (g ser final) : Inv (loseKept s g ser final) := by
  unfold loseKept
  grind only [inv_settleKeep, inv_updKeep, inv_orStatus, inv_signalEnd, inv_typeLookup, inv_sendAs, inv_sendDev, inv_typeAsk]
theorem keeps_execLost (p) : Keeps (execLost p s) := by
  refine keeps_atHome h p fun q => ?_
  split
  · exact inv_loseKept (inv_dropPkt h _) _ _ _
  · exact h
theorem inv_noteAccepted (g ser k) : Inv (noteAccepted s g ser k) := by
  unfold noteAccepted
  grind only [inv_modCluster, inv_modHart]
theorem keeps_execAcceptanceNotice (p) : Keeps (execAcceptanceNotice p s) := by
  refine keeps_atHome h p fun q => ?_
  split
  · next ser home by_ _ =>
    have h1 := inv_dropPkt h p
    have h2 := inv_noteAccepted h1 (home % 512) ser by_
    dsimp only
    split
    · exact h1
    · split
      · exact inv_loseKept h2 _ _ _
      · exact h2
  · exact h
theorem keeps_execDieFailureNotice (die) : Keeps (execDieFailureNotice die s) := by
  unfold execDieFailureNotice
  split
  · exact h
  · refine foldl_inv (fun s e h => ?_) _ (foldl_inv (fun s e h => inv_loseKept h _ _ _) _ h)
    dsimp only
    split
    · exact inv_orStatus h _ _ _
    · exact h
theorem keeps_execAcceptanceTimeout (clu ser) : Keeps (execAcceptanceTimeout clu ser s) := by
  unfold execAcceptanceTimeout
  grind only [keeps_next, inv_loseKept]

/-! Launches and rings. -/

theorem inv_devReach (g slot host a n write) : Inv (devReach s g slot host a n write).1 := by
  unfold devReach
  grind only [inv_reach]
theorem inv_devRead (g slot host k a n) : Inv (devRead s g slot host k a n).1 := by
  induction k generalizing s a n with
  | zero => exact h
  | succ k ih =>
    unfold devRead
    have hd := fun m => inv_devReach h g slot host a m false
    have he := fun {s : State} (h : Inv s) r m => inv_engRead h (ringAgent g slot) r m
    grind only
theorem inv_devWrites (g slot host k l) : Inv (devWrites s g slot host k l).1 := by
  induction l generalizing s k with
  | nil => exact h
  | cons e r ih =>
    unfold devWrites
    have hd := inv_devReach h g slot host e.1 1 true
    have he := fun {s : State} (h : Inv s) r => inv_engWrite h (ringAgent g slot) r e.2 false k
    grind only
theorem inv_devAsk (g slot n) : Inv (devAsk s g slot n) := by unfold devAsk; grind only [inv_engAsk]
theorem inv_devDone (g) : Inv (devDone s g) := h
theorem inv_takeTask (g l bad handle) : Inv (takeTask s g l bad handle) := by
  unfold takeTask
  grind only [inv_spawnRec, inv_loseKept, inv_mk, wf_mem_iff]
theorem inv_takeSlot (g slot desc host) : Inv (takeSlot s g slot desc host).1 := by
  unfold takeSlot
  grind only [inv_devRead, inv_devWrites, inv_takeTask, inv_sendAs]
theorem inv_serveRing (g slot desc host) {idle : State → State} (hi : ∀ s, Inv s → Inv (idle s)) : Inv (serveRing s g slot desc host idle) := by
  unfold serveRing
  have ht := inv_takeSlot h g slot desc host
  grind only [inv_devDone, inv_devAsk]
theorem keeps_execRingNotify (p) : Keeps (execRingNotify p s) := by
  unfold execRingNotify
  grind only [keeps_next, inv_dropPkt, inv_serveRing]
theorem keeps_execHostRingPoll (n) : Keeps (execHostRingPoll n s) := by
  unfold execHostRingPoll
  split
  · show Inv (if _ then _ else _)
    split
    · exact h
    · exact inv_serveRing h _ _ _ _ fun _ h => h
  · exact h
theorem inv_installLaunch (L n gs) : Inv (installLaunch s L n gs) := by
  unfold installLaunch
  extract_lets tab s1 s2 start s3 s4
  have h1 : Inv s1 := foldl_inv (fun s g h => inv_modCluster h g _) _ h
  have h2 : Inv s2 := foldl_inv (fun s c h => inv_modCore h c _) _ h1
  have h3 : Inv s3 := inv_modPkg h2 _
  have h4 : Inv s4 := by
    dsimp only [s4]
    split
    · exact inv_orStatus h3 _ _ _
    · exact h3
  exact inv_spawnRec h4 _ _ _ _ _ _ _ _
theorem inv_unseenCycles : Inv (unseenCycles s).2 := h
theorem inv_pushCompletion (L status counted) : Inv (pushCompletion s L status counted).1 := by
  unfold pushCompletion
  grind only [inv_unseenCycles, inv_devRead, inv_devWrites]
theorem inv_retireLaunch (n) : Inv (retireLaunch s n) := by
  unfold retireLaunch
  split
  · exact h
  · extract_lets s1 s2 s3
    have h1 : Inv s1 := foldl_inv (fun s g h => inv_modCluster h g _) _ h
    have h2 : Inv s2 := foldl_inv (fun s c h => inv_modCore h c _) _ h1
    clear_value s2
    exact h2
theorem inv_tryPush (n) : Inv (tryPush s n) := by
  unfold tryPush
  grind only [inv_pushCompletion, inv_retireLaunch, inv_devDone, inv_devAsk]
theorem keeps_execLaunchStart (k) : Keeps (execLaunchStart k s) := by
  unfold execLaunchStart
  split
  · next q _ =>
    split
    · next L _ =>
      extract_lets refuseNow
      have hr : ∀ s, Inv s → Inv (refuseNow s) := fun s h => by
        have hp := inv_pushCompletion h L statLost 0
        dsimp only [refuseNow]
        split
        · next e => exact inv_dropPkt (inv_devDone (by rwa [e] at hp) _) _
        · exact inv_devAsk h _ _ _
        · next e => exact inv_devDone (by rwa [e] at hp) _
      clear_value refuseNow
      split
      · exact hr s h
      split
      · exact h
      generalize (!launchFits s L || keepFull (s.cluster L.tree)) = full
      split
      · exact h
      split
      · exact inv_dropPkt (inv_installLaunch h _ _ _) _
      have h1 := inv_devRead h L.tree L.slot false 64 L.groups 4096
      split
      · next t hl e1 =>
        rw [e1] at h1
        have h2 := inv_devRead h1 L.tree L.slot false 4200 L.groups (groupBytes hl)
        split
        · next e2 =>
          rw [e2] at h2
          split
          · exact inv_dropPkt (inv_installLaunch (inv_devDone h2 _) _ _ _) _
          · exact hr _ h2
        · next e2 => rw [e2] at h2; exact inv_devAsk h2 _ _ _
        · next e2 => rw [e2] at h2; exact hr _ h2
      · next e1 => rw [e1] at h1; exact inv_devAsk h1 _ _ _
      · next e1 => rw [e1] at h1; exact hr _ h1
    · exact h
  · exact h
theorem inv_collectAt (g n) : Inv (collectAt s g n) := by
  unfold collectAt
  split
  · split
    · exact h
    · exact foldl_inv (fun s k h => inv_sendDev h _ _ _ _) _ (inv_modCluster h _ _)
  · exact h
theorem inv_reap (n) : Inv (reap s n) := by
  refine foldl_inv (fun s e h => ?_) _ h
  dsimp only
  split
  · split
    · exact inv_leaveTask h _
    · exact h
  · exact h
theorem inv_setPushing (n st) : Inv (setPushing s n st) := h
theorem keeps_execLaunchEndNotice (p) : Keeps (execLaunchEndNotice p s) := by
  unfold execLaunchEndNotice
  grind only [keeps_next, inv_dropPkt, inv_reap, inv_tryPush, inv_setPushing, inv_collectAt, inv_modPkg, inv_modCluster]
theorem keeps_execCollect (p) : Keeps (execCollect p s) := by
  unfold execCollect
  grind only [keeps_next, inv_dropPkt, inv_collectAt, inv_sendDev, inv_modCluster]
theorem keeps_execDone (p) : Keeps (execDone p s) := by unfold execDone; grind only [keeps_next, inv_modCluster, inv_dropPkt]
theorem inv_killArrived (n x) : Inv (killArrived n s x) := h
theorem inv_killLaunch (n) : Inv (killLaunch s n) := by
  unfold killLaunch
  extract_lets s1 s2 s3 s4 hs
  have h1 : Inv s1 := foldl_inv (fun s c h => inv_killArrived h n c) _ h
  have h2 : Inv s2 := foldl_inv (fun s k h => inv_modHart h k _) _ h1
  have h3 : Inv s3 := foldl_inv (fun s p h => inv_dropPkt h _) _ h2
  have h4 : Inv s4 := h3
  exact foldl_inv (fun s k h => inv_faultEndStart h k) _ h4
theorem inv_endLaunchNow (n) : Inv (endLaunchNow s n) := by
  unfold endLaunchNow
  grind only [inv_killLaunch, inv_modPkg, inv_sendDev]

/-! Messages and migration. -/

theorem inv_armReg (k r) : Inv (armReg s k r) := by unfold armReg; grind only [inv_modCore, inv_putBackAt, inv_modHart]
theorem keeps_execArm (rd) : Keeps (execArm rd s) := by unfold execArm; grind only [keeps_finish, inv_retire, inv_armReg]
theorem inv_depositGranule (p loc v) : Inv (depositGranule s p loc v) := by
  unfold depositGranule
  grind only [inv_refuse, inv_setFe, inv_store, inv_wakeFe, inv_putPkt]
theorem inv_depositReg (p t v) : Inv (depositReg s p t v) := by
  unfold depositReg
  grind only [inv_failPkt, inv_countDrop, inv_putPkt, inv_modHart, inv_modCore, inv_dropPkt]
theorem keeps_execDepositArrival (p) : Keeps (execDepositArrival p s) := by
  unfold execDepositArrival
  grind only [keeps_next, inv_gatewaySend, inv_depositGranule, inv_depositReg]
theorem keeps_execDepositHoldTimeout (p) : Keeps (execDepositHoldTimeout p s) := by
  unfold execDepositHoldTimeout
  grind only [keeps_next, inv_putBackAt, inv_modCore]
theorem keeps_execArmedReadTimeout (k) : Keeps (execArmedReadTimeout k s) := by
  unfold execArmedReadTimeout
  grind only [keeps_next, inv_takeTrap]
theorem keeps_execSendh (rs1 rs2) : Keeps (execSendh rs1 rs2 s) := by
  unfold execSendh
  grind only [keeps_finish, inv_send, inv_retire, inv_readRecord]
theorem inv_writeSlot (c n l) : Inv (writeSlot s c n l) := Memory.wf_writeBytes l h _
theorem keeps_execHandlerMessageArrival (p) : Keeps (execHandlerMessageArrival p s) := by
  unfold execHandlerMessageArrival
  grind only [keeps_next, inv_gatewaySend, inv_failPkt, inv_countDrop, inv_setBody, inv_modCore, inv_writeSlot, inv_putPkt]
theorem keeps_execHandlerResend (p) : Keeps (execHandlerResend p s) := by
  unfold execHandlerResend
  grind only [keeps_next, inv_setBody]
theorem keeps_execHandlerResendTimeout (p) : Keeps (execHandlerResendTimeout p s) := by
  unfold execHandlerResendTimeout
  grind only [keeps_next, inv_writeErrRec, inv_dropPkt]
theorem inv_sendErrRec (c e kind reason idx) : Inv (sendErrRec s c e kind reason idx) := by
  unfold sendErrRec
  grind only [inv_sendFrom]
theorem inv_freeInSlot (c n) : Inv (freeInSlot s c n) := h
theorem inv_enterHandler (k n e) : Inv (enterHandler s k n e) := h
theorem keeps_execHandlerEntry (k) : Keeps (execHandlerEntry k s) := by
  unfold execHandlerEntry
  grind only [keeps_next, inv_sendErrRec, inv_freeInSlot, inv_enterHandler, inv_withdrawLease]
theorem keeps_execMsgret : Keeps (execMsgret s) := by
  unfold execMsgret
  grind only [inv_retire, keeps_finish, inv_modHart, inv_freeInSlot]
theorem keeps_execChannelPacketArrival (p) : Keeps (execChannelPacketArrival p s) := by
  unfold execChannelPacketArrival
  grind only [keeps_next, inv_gatewaySend, inv_failPkt, inv_countDrop, inv_modHart, inv_putPkt, inv_setBody]
theorem keeps_execChannelImageTimeout (p) : Keeps (execChannelImageTimeout p s) := by
  unfold execChannelImageTimeout
  grind only [keeps_next, inv_failPkt]
theorem inv_migrateNow (c ty) : Inv (migrateNow s c ty) := by
  unfold migrateNow
  grind only [inv_modHart, inv_leaveTask, inv_retire, inv_sendAs]
theorem keeps_execMigrate (rs1 rs2) : Keeps (execMigrate rs1 rs2 s) := by
  unfold execMigrate
  dsimp only
  split
  · exact keeps_endWork (inv_disarmHart (inv_modHart h _ _) _) _ fun t ht => inv_migrateNow ht _ _
  · exact keeps_finish h _ h
theorem inv_ctxDone (k) : Inv (ctxDone s k) := by unfold ctxDone; grind only [inv_modHart]
theorem inv_landCtx (c x spilled) : Inv (landCtx s c x spilled) := by unfold landCtx; grind only [inv_modCore, inv_store]
theorem keeps_execContextArrival (p) : Keeps (execContextArrival p s) := by
  unfold execContextArrival
  grind only [keeps_next, inv_ctxDone, inv_dropPkt, inv_loseWork, inv_countDrop, inv_typeLookup, inv_typeAsk, inv_setBody, inv_modCluster,
    inv_landCtx, inv_sendDev]
theorem keeps_execContextResend (p) : Keeps (execContextResend p s) := by
  unfold execContextResend
  grind only [keeps_next, inv_setBody]
theorem keeps_execSpillRefill (c) : Keeps (execSpillRefill c s) := by
  unfold execSpillRefill
  split
  · exact h
  · split
    · exact h
    · simp only [keeps_next]
      split
      · exact inv_loseCtx (inv_modCore h _ _) _ _
      · exact inv_modCore (inv_modCore h _ _) _ _

/-! Code and channels. -/

theorem keeps_execCodecmt (rd rs1) : Keeps (execCodecmt rd rs1 s) := by
  unfold execCodecmt
  grind only [inv_retireWith, keeps_finish, inv_modCore]
theorem inv_endCommit (c q v) : Inv (endCommit s c q v) := h
theorem keeps_execCodeScanStart (c) : Keeps (execCodeScanStart c s) := by
  unfold execCodeScanStart
  grind only [keeps_next, inv_scrub, inv_endCommit, inv_modCore]
theorem keeps_execCodecmtCompletion (c) : Keeps (execCodecmtCompletion c s) := by
  unfold execCodecmtCompletion
  split
  · exact h
  · split
    · exact h
    · refine foldl_inv (fun s k h => inv_modHart h k _) _ (inv_endCommit ?_ _ _ _)
      split
      · exact h
      · exact h
      · exact inv_modCore h _ _
theorem keeps_execHandlerScan (c slot) : Keeps (execHandlerScan c slot s) := by
  unfold execHandlerScan
  grind only [keeps_next, inv_modCore, inv_sendErrRec, inv_freeInSlot]

/-! Seals, retirements and failures. -/

theorem inv_orphanAll (c) : Inv (orphanAll s c) := h
theorem inv_refuseWaiters (c) : Inv (refuseWaiters s c) := foldl_inv (fun _ _ h => inv_putBackAt h _ _) _ (inv_modCore h c _)
theorem inv_loseTask (k) : Inv (loseTask s k) := by unfold loseTask; grind only [inv_loseWork, inv_dropFrame, inv_dropCost]
theorem inv_loseResumes (c) : Inv (loseResumes s c) := by
  refine foldl_inv (fun s q h => ?_) _ (inv_modCluster h _ _)
  split
  · exact inv_loseWork h _ _ _ _ _ _ _
  · exact h
theorem inv_dropCopies (c) : Inv (dropCopies s c) := h
theorem inv_sealCore (c) : Inv (sealCore s c) := by
  unfold sealCore
  split
  · exact h
  · extract_lets g harts C s1 s2 s3 s4 s5 s6 s7 s8
    have h1 : Inv s1 := inv_refuseDeposits (inv_refuseWaiters h c) c _
    have h2 : Inv s2 := inv_dropCopies (inv_dropSparse (inv_dropMatrix h1 c) c) c
    have h3 : Inv s3 := inv_loseResumes (foldl_inv (fun s k h => inv_loseTask h k) _ h2) c
    have h4 : Inv s4 := foldl_inv (fun s x h => inv_loseCtx h g x) _ h3
    have h5 : Inv s5 := foldl_inv (fun s k h => inv_modHart h k _) _ h4
    exact inv_barrierCheck (inv_orphanAll (inv_modPkg (inv_modCluster (inv_modCore h5 c _) g _) _) c)
theorem inv_wipeMem (lo n) : Inv (wipeMem s lo n) := wf_wipeMem h lo n
theorem inv_restartCore (c n) : Inv (restartCore s c n) :=
  foldl_inv (f := fun s k => State.setHart s k {}) (fun _ _ h => h) _ (inv_setCore (inv_wipeMem h _ _) c _)
theorem inv_record (kind unit) : Inv (record s kind unit) := h
theorem inv_poisonGroup (c G) : Inv (poisonGroup s c G) := foldl_inv (fun _ _ h => inv_setPoi h _ true) _ h
theorem inv_retireCluster (g) : Inv (retireCluster s g) := by
  unfold retireCluster
  split
  · exact h
  · extract_lets s1 q tiles s2 s3 w s4
    have h1 : Inv s1 := foldl_inv (fun s c h => inv_sealCore h c) _ h
    have h2 : Inv s2 := foldl_inv (fun s e h => by split; exacts [h, inv_loseWork h _ _ _ _ _ _ _]) _ h1
    have h3 : Inv s3 := foldl_inv (fun s e h => by dsimp only; split; exacts [inv_sendDev h _ _ _ _, h]) _ h2
    have h4 : Inv s4 := foldl_inv (fun s p h => by split; exacts [inv_loseWork h _ _ _ _ _ _ _, h]) _ h3
    exact inv_barrierCheck (inv_modCluster (inv_record h4 2 g) g _)
theorem inv_clusterRule (g) : Inv (clusterRule s g) := by unfold clusterRule; grind only [inv_retireCluster]
theorem inv_retireCore (c) : Inv (retireCore s c) := by
  unfold retireCore
  grind only [inv_clusterRule, inv_record, inv_modCore, inv_sealCore]
theorem inv_containCore (c) : Inv (containCore s c) := by
  unfold containCore
  grind only [inv_modCore, inv_sealCore, inv_draw, inv_retireCore]
theorem inv_hardSeal (c) : Inv (hardSeal s c) := by unfold hardSeal; grind only [inv_modCore, inv_containCore]
theorem inv_retireBank (c b) : Inv (retireBank s c b) := by
  unfold retireBank
  extract_lets C lost s1
  have h1 : Inv s1 := inv_record (inv_modCore h c _) 0 (bankUnit c b)
  clear_value lost s1
  split
  · exact h
  split
  · exact inv_hardSeal (inv_modCore (inv_poisonGroup h1 _ _) _ _) _
  · exact h1
theorem keeps_execBankRetire (c bank) : Keeps (execBankRetire c bank s) := by
  unfold execBankRetire
  grind only [keeps_next, inv_retireBank]
theorem inv_losePkt (p) : Inv (losePkt s p) := by
  unfold losePkt
  grind only [inv_dropPkt, inv_putBackAt, inv_mcwFailed, inv_updKeep]
theorem inv_failDie (d) : Inv (failDie s d) := by
  unfold failDie
  split
  · exact h
  · extract_lets l s1 P s2
    have h2 : Inv s2 := inv_record h 3 d
    exact inv_barrierCheck (foldl_inv (fun s p h => inv_losePkt h p) _ h2)
theorem keeps_execSaffronWatchdog (die) : Keeps (execSaffronWatchdog die s) := by
  unfold execSaffronWatchdog
  grind only [keeps_next, inv_failDie]

/-! The fabric and its gateways. -/

theorem inv_grpRead (a) : Inv (grpRead s a) := by unfold grpRead; grind only [inv_readRecord]
theorem inv_grpwSend (T L q members) : Inv (grpwSend s T L q members) :=
  foldl_inv (fun _ _ h => inv_sendAs h _ _ _ _) _ (inv_modHart (inv_retire h _) _ _)
theorem keeps_execGrpw (rs1 rs2) : Keeps (execGrpw rs1 rs2 s) := by
  unfold execGrpw
  grind only [keeps_finish, inv_grpwSend, inv_grpRead]
theorem keeps_execGroupInstall (p) : Keeps (execGroupInstall p s) := by
  unfold execGroupInstall
  grind only [keeps_next, inv_modCluster, inv_dropPkt]
theorem keeps_execGrpwCompletion (k) : Keeps (execGrpwCompletion k s) := by
  unfold execGrpwCompletion
  grind only [keeps_next, inv_modHart]
theorem inv_mcwSend (T q o b) : Inv (mcwSend s T q o b) := foldl_inv (fun _ _ h => inv_send h _ _) _ h
theorem keeps_execMcw (rs1 rs2) : Keeps (execMcw rs1 rs2 s) := by
  unfold execMcw
  grind only [keeps_finish, inv_mcwSend, inv_retire, inv_readRecord]
theorem keeps_execMcwCopyArrival (p) : Keeps (execMcwCopyArrival p s) := by
  unfold execMcwCopyArrival
  grind only [keeps_next, inv_failPkt, inv_countDrop, inv_fillGranules, inv_store, inv_dropPkt]
theorem keeps_execJkset (rs1 rs2) : Keeps (execJkset rs1 rs2 s) := by
  unfold execJkset
  extract_lets t k gate ok u n
  refine keeps_finish h _ ?_
  have hu : Inv u := inv_retire h _
  clear_value u gate
  split
  · exact inv_setPort hu _ _
  · exact inv_modCore hu _ _
theorem keeps_execKeyrot (rs1) : Keeps (execKeyrot rs1 s) := by
  unfold execKeyrot
  grind only [inv_modHart, inv_retire, inv_setLink, keeps_finish, inv_setPort]
theorem inv_endRotation (k) : Inv (endRotation s k) := h
theorem keeps_execKeyrotCompletion (port) : Keeps (execKeyrotCompletion port s) := by
  unfold execKeyrotCompletion
  grind only [keeps_next, inv_endRotation]
theorem keeps_execKeyrotTimeout (k) : Keeps (execKeyrotTimeout k s) := by
  unfold execKeyrotTimeout
  grind only [keeps_next, inv_takeTrap]
theorem keeps_execKeyStaging (port key) : Keeps (execKeyStaging port key s) := by
  show Inv (if port < 16 then _ else _)
  split
  · exact inv_setPort h _ _
  · exact h
theorem inv_setPeer (k n q) : Inv (setPeer s k n q) := h
theorem inv_sendSack (k n) : Inv (sendSack s k n) := h
theorem inv_takeSack (k n base m) : Inv (takeSack s k n base m) := h
theorem inv_answerHome (k o host r) : Inv (answerHome s k o host r) := by unfold answerHome; grind only [inv_putBackAt]
theorem inv_deliverIn (k n src shart key slot p) : Inv (deliverIn s k n src shart key slot p) := by
  unfold deliverIn
  grind only [inv_setPort, inv_sendFrom, inv_answerHome, inv_setPeer]
theorem inv_gatewayTake (k eseq bytes) : Inv (gatewayTake s k eseq bytes) := by
  unfold gatewayTake
  grind only [inv_takeSack, inv_deliverIn, inv_setPeer, inv_sendSack]
theorem keeps_execSackTimer (port peer) : Keeps (execSackTimer port peer s) := by
  unfold execSackTimer
  grind only [keeps_next, inv_sendSack]
theorem keeps_execE2eResend (port eseq) : Keeps (execE2eResend port eseq s) := by
  unfold execE2eResend
  grind only [keeps_next, inv_setPeer, inv_queueOut]
theorem inv_retirePort (port) : Inv (retirePort s port) := h
theorem keeps_execPeerUnreachable (port peer) : Keeps (execPeerUnreachable port peer s) := by
  unfold execPeerUnreachable
  extract_lets q stored s1 s2 s3
  have h3 : Inv s3 := by
    refine foldl_inv (fun s p h => ?_) _ (inv_modPkg (inv_setPeer h port peer _) _)
    split
    · exact h
    · exact inv_failPkt (s := { s with net := s.net ++ [p] }) h _ _
  clear_value s3
  exact keeps_ite h (inv_retirePort h3 _)
theorem keeps_execFabricPeerReset (port peer) : Keeps (execFabricPeerReset port peer s) := by
  show Inv (if _ then _ else _)
  split
  · exact inv_setPeer h _ _ _
  · exact h
theorem keeps_execSpaustLaneFailure (port) : Keeps (execSpaustLaneFailure port s) := by
  unfold execSpaustLaneFailure
  extract_lets P n s1
  have h1 : Inv s1 := inv_record (inv_setPort h port _) 6 port
  clear_value s1
  rw [keeps_next]
  split
  · exact inv_retirePort h1 port
  · exact h1
theorem inv_replay (l n) : Inv (replay s l n) := by unfold replay; grind only [inv_setLink]
theorem inv_noteFresh (l acked) : Inv (noteFresh s l acked) := by unfold noteFresh; grind only [inv_setPort]
theorem inv_ackUpTo (l n) : Inv (ackUpTo s l n) := by unfold ackUpTo; grind only [inv_noteFresh, inv_setLink]
theorem inv_sendControl (l nak) : Inv (sendControl s l nak) := h
theorem inv_dropEnd (l) : Inv (dropEnd s l) := by
  unfold dropEnd
  dsimp only
  split
  · exact inv_setLink h _ _
  · refine foldl_inv (fun s p h => ?_) _ (inv_setLink h _ _)
    split
    · exact inv_failPkt h _ _
    · exact inv_stand h _ _
theorem inv_dieRule (l) : Inv (dieRule s l) := by
  unfold dieRule
  split
  · exact h
  · refine foldl_inv (fun s d h => ?_) _ h
    split
    · exact inv_failDie h d
    · exact h
theorem inv_dropLink (l) : Inv (dropLink s l) := by unfold dropLink; grind only [inv_dieRule, inv_dropEnd]
theorem inv_arriveAt (l id) : Inv (arriveAt s l id) := by unfold arriveAt; grind only [inv_losePkt, inv_stand]
theorem inv_joinContext (l w id payload) : Inv (joinContext s l w id payload) := by
  unfold joinContext
  grind only [inv_dropLink, inv_setLink, inv_gatewayTake, inv_arriveAt]
theorem inv_offWire (l) : ∀ p, offWire s l = some p → Inv p.2 := by unfold offWire; grind only [inv_setLink]
theorem keeps_execFlitReceive (l flit) : Keeps (execFlitReceive l flit s) := by
  unfold execFlitReceive
  split
  · exact h
  · next id t e =>
    have ht : Inv t := inv_offWire h l _ e
    extract_lets L
    refine keeps_ite ht ?_
    split
    · exact inv_sendControl ht l true
    · next f g _ =>
      extract_lets w ack s1 s2 L2 s3 P s4
      have h1 : Inv s1 := inv_ackUpTo ht l ack
      have h2 : Inv s2 := by
        dsimp only [s2]
        split
        · exact inv_replay h1 _ _
        · exact h1
      have h4 : Inv s4 := by
        dsimp only [s4]
        split
        · exact inv_setPort (inv_setLink h2 _ _) _ _
        · exact inv_setLink h2 _ _
      exact keeps_ite h2 (keeps_ite (inv_sendControl h2 l true) (inv_joinContext h4 _ _ _ _))
theorem keeps_execNak (l lseq) : Keeps (execNak l lseq s) := by unfold execNak; grind only [keeps_next, inv_replay, inv_ackUpTo]
theorem keeps_execLinkControlFlit (l) : Keeps (execLinkControlFlit l s) := by
  unfold execLinkControlFlit
  grind only [keeps_next, inv_sendControl]
theorem keeps_execLinkDrop (l) : Keeps (execLinkDrop l s) := by unfold execLinkDrop; grind only [keeps_next, inv_dropLink]
theorem inv_raiseEnd (l) : Inv (raiseEnd s l) := h
theorem keeps_execLinkRetrained (l) : Keeps (execLinkRetrained l s) := by
  unfold execLinkRetrained
  grind only [keeps_next, inv_draw, inv_setPort, inv_raiseEnd, inv_endRotation]
theorem inv_retireEnd (l) : Inv (retireEnd s l) := by
  refine foldl_inv (fun s o h => ?_) _ (inv_setLink h l _)
  split
  · exact inv_stand h _ _
  · exact h
theorem inv_retireChannel (c) : Inv (retireChannel s c) := by
  unfold retireChannel
  grind only [inv_dropLink, inv_setLink, inv_dieRule, inv_retireEnd, inv_record]
theorem keeps_execRetrainTimeout (l) : Keeps (execRetrainTimeout l s) := by
  unfold execRetrainTimeout
  grind only [keeps_next, inv_retireChannel]

/-! Single precision. -/

theorem keeps_fpuX (rd v fl) : Keeps (fpuX rd v fl s) := by unfold fpuX; grind only [keeps_finish, inv_retireWith]

/-! Registers from outside, timers and firmware. -/

theorem inv_takeInterrupt (k n) : Inv (takeInterrupt s k n) := by
  unfold takeInterrupt
  grind only [inv_hardSeal, inv_takeTrap, inv_modHart, inv_withdrawLease]
theorem keeps_execTrapEntry (k) : Keeps (execTrapEntry k s) := by
  unfold execTrapEntry
  grind only [keeps_next, inv_takeInterrupt]
theorem keeps_execLocalTimer (k) : Keeps (execLocalTimer k s) := by unfold execLocalTimer; grind only [keeps_next, inv_advance]
theorem inv_latched (v) : Inv (latched s v) := h
theorem keeps_execCvamaxAccess (k csr wr) : Keeps (execCvamaxAccess k csr wr s) := by
  unfold execCvamaxAccess
  grind only [keeps_next, inv_passTime, inv_csrWrite, inv_latched]
theorem inv_barWrite (off v) : Inv (barWrite s off v) := by unfold barWrite; grind only [inv_modPkg]
theorem keeps_execRegisterWrite (k csr v) : Keeps (execRegisterWrite k csr v s) := by
  unfold execRegisterWrite
  grind only [keeps_next, inv_barWrite, inv_passTime, inv_csrWrite]
theorem keeps_execWindowCsrAccess (c addr wr) : Keeps (execWindowCsrAccess c addr wr s) := by
  unfold execWindowCsrAccess
  grind only [keeps_next, inv_latched, inv_passTime, inv_csrWrite]
theorem keeps_execWindowImemWrite (c off bytes) : Keeps (execWindowImemWrite c off bytes s) := by
  unfold execWindowImemWrite
  grind only [keeps_next, inv_latched, inv_store]
theorem inv_faultEnd (k) : Inv (faultEnd s k) := by
  have h1 := inv_faultEndStart h k
  unfold faultEnd
  grind only [inv_faultEndFinish]
theorem inv_firmwareTurn (k) : Inv (firmwareTurn k s) := by
  have h1 := inv_faultEnd h k
  unfold firmwareTurn
  grind only [inv_modHart, inv_containCore]

/-! The host. -/

theorem inv_pushResponse (r) : ∀ t, pushResponse s r = some t → Inv t := by unfold pushResponse; grind only [inv_devWrites]
theorem inv_flushResponses (l) : Inv (flushResponses l s) := by
  induction l generalizing s with
  | nil => exact inv_modPkg h _
  | cons r rest ih =>
    unfold flushResponses
    split
    · next e => exact ih (inv_pushResponse h _ _ e)
    · exact inv_modPkg h _
theorem inv_respond (tag status results) : Inv (respond s tag status results) := by
  unfold respond
  grind only [inv_flushResponses]
theorem inv_cmdAttach (pasid mode root) : Inv (cmdAttach s pasid mode root).st := by unfold cmdAttach; grind only [inv_modPkg]
theorem inv_detachDie (slot d) : Inv (detachDie slot s d) :=
  inv_modDie (foldl_inv (fun _ p h => inv_refusePage h d slot p) _ h) d _
theorem inv_cmdDetach (slot) : Inv (cmdDetach s slot).st := by
  have h1 := foldl_inv (fun s d h => inv_detachDie h slot d) (List.range 8) h
  unfold cmdDetach
  grind only [inv_modPkg]
theorem inv_cmdRingbind (n slot desc) : Inv (cmdRingbind s n slot desc).st := by unfold cmdRingbind; grind only [inv_modPkg]
theorem inv_cmdEndlaunch (slot root lseq) : Inv (cmdEndlaunch s slot root lseq).st := by
  unfold cmdEndlaunch
  grind only [inv_endLaunchNow]
theorem inv_cmdRetire (kind unit) : Inv (cmdRetire s kind unit).st := by
  unfold cmdRetire
  grind only [inv_retireBank, inv_retireCore, inv_retireCluster, inv_failDie, inv_retireChannel, inv_retirePort, inv_setPort]
theorem inv_loadMordant (g image) : Inv (loadMordant s g image) := Memory.wf_writeBytes image (inv_wipeMem h _ _) _
theorem inv_startMordant (g image) : ∀ t, startMordant s g image = some t → Inv t := by
  unfold startMordant
  grind only [inv_loadMordant, inv_setHart, inv_setCore]
theorem inv_cmdReload (die clu addr len) : Inv (cmdReload s die clu addr len).st := by
  unfold cmdReload
  grind only [inv_modPkg, inv_startMordant]
theorem inv_cmdChk (isRestore tag base len off) : Inv (cmdChk s isRestore tag base len off).st := by
  unfold cmdChk
  grind only [inv_modPkg]
theorem inv_copySpan (src dst : Nat → Option Nat) (place : Nat → Nat) : Inv (copySpan s src dst place) := by
  refine List.foldlRecOn (motive := fun m => Memory.wf m = true) _ _ (wf_filter h _) fun m hm x _ => ?_
  split
  · exact Memory.wf_write hm _ _
  · exact hm
theorem inv_copyDevice (isRestore base len off) : Inv (copyDevice s isRestore base len off) := by
  unfold copyDevice
  split
  · exact inv_copySpan h _ _ _
  · exact inv_copySpan h _ _ _
theorem inv_cmdCounters (die clu buf) : Inv (cmdCounters s die clu buf).st := by unfold cmdCounters; grind only [inv_devWrites]
omit h in
theorem inv_closeCmd (tag) {A : Answer} (hA : Inv A.st) : Inv (closeCmd tag A) := by unfold closeCmd; grind only [inv_respond]
theorem keeps_execChkptCompletion : Keeps (execChkptCompletion s) := by
  unfold execChkptCompletion
  split
  · exact inv_respond (inv_modPkg (inv_copyDevice h _ _ _ _) _) _ _ _
  · exact h
theorem inv_runCommand (l) : Inv (runCommand s l) := by
  refine inv_closeCmd _ ?_
  dsimp only
  split
  · exact h
  split
  · exact inv_cmdAttach h _ _ _
  · exact inv_cmdDetach h _
  · exact inv_cmdRingbind h _ _ _
  · exact inv_cmdEndlaunch h _ _ _
  · exact inv_cmdRetire h _ _
  · exact inv_cmdReload h _ _ _ _
  · exact inv_cmdChk h _ _ _ _ _
  · exact inv_cmdChk h _ _ _ _ _
  · exact inv_cmdCounters h _ _ _
  · exact h
theorem keeps_execCmdRingPoll : Keeps (execCmdRingPoll s) := by
  have h1 := inv_flushResponses h s.pkg.responses
  have hw := fun l => inv_devWrites h1 0 0 true 0 l
  unfold execCmdRingPoll
  grind only [keeps_next, inv_runCommand]
theorem keeps_execCxlMemAccess (port addr len wr) : Keeps (execCxlMemAccess port addr len wr s) := by
  unfold execCxlMemAccess
  grind only [keeps_next, inv_store, inv_modPkg]
theorem keeps_execCxlPortDown (port up) : Keeps (execCxlPortDown port up s) := by
  show Inv (if port < 2 then _ else _)
  split
  · exact inv_modPkg h _
  · exact h
theorem inv_afterReset : Inv (afterReset s) := wf_filter h _
theorem inv_applyRecord (e) : Inv (applyRecord s e) := by
  unfold applyRecord
  grind only [inv_setPort, inv_modCore, inv_modCluster, inv_modDie, inv_setLink]
theorem inv_delegate (k) : Inv (delegate s k) := h
theorem inv_startWorker (image c) : Inv (startWorker image s c) := by
  unfold startWorker
  split
  · exact h
  · extract_lets s1 n
    have h1 : Inv s1 := Memory.wf_writeBytes _ h _
    split
    · exact inv_retireCore h1 c
    · exact foldl_inv (fun s k h => inv_delegate h k) _ (inv_restartCore h1 c n)
theorem inv_releaseMordant (image : List Byte) (g) : Inv (releaseMordant image s g) := by
  unfold releaseMordant
  split
  · exact h
  · cases e : startMordant s g image with
    | none => exact h
    | some t => exact inv_startMordant h g image t e
theorem inv_loadTables : Inv (loadTables s) := by
  refine foldl_inv (fun s k h => ?_) _ (foldl_inv (fun s d h => inv_modDie h d _) _ h)
  split
  · exact inv_setPort h k _
  · exact h
theorem keeps_execPowerOn (pkg mordantFw hartFw) : Keeps (execPowerOn pkg mordantFw hartFw s) := by
  unfold execPowerOn
  extract_lets m w s1 s2 s3 s4 s5
  have h2 : Inv s2 := inv_modPkg (inv_afterReset h) _
  have h3 : Inv s3 := inv_loadTables (foldl_inv (fun s g h => inv_clusterRule h g) _ (foldl_inv (fun s e h => inv_applyRecord h e) _ h2))
  have h4 : Inv s4 := foldl_inv (fun s g h => inv_releaseMordant h m g) _ h3
  have h5 : Inv s5 := foldl_inv (fun s c h => inv_startWorker h w c) _ h4
  exact inv_modPkg h5 _

/-! Bring-up and the package. -/

theorem keeps_csrInstr (rd n) (wr : Option (Word → Word)) : Keeps (csrInstr rd n wr s) := by
  unfold csrInstr
  grind only [keeps_finish, inv_retireWith, inv_csrWrite]
theorem keeps_execCsrrw (rd rs1 csr) : Keeps (execCsrrw rd rs1 csr s) := by unfold execCsrrw; grind only [keeps_csrInstr]
theorem keeps_execCsrrwi (rd uimm csr) : Keeps (execCsrrwi rd uimm csr s) := by unfold execCsrrwi; grind only [keeps_csrInstr]
theorem keeps_execMret : Keeps (execMret s) := by unfold execMret; grind only [keeps_finish, inv_modHart]
theorem keeps_execSret : Keeps (execSret s) := by unfold execSret; grind only [keeps_finish, inv_modHart]
theorem inv_retireWait (w) : Inv (retireWait s w) := h
theorem keeps_execHloop (level rs1 soff eoff) : Keeps (execHloop level rs1 soff eoff s) := by
  unfold execHloop
  grind only [keeps_finish, inv_modHart, inv_retireTo, inv_retire]
theorem keeps_execBqget (rd) : Keeps (execBqget rd s) := by unfold execBqget; grind only [keeps_finish, inv_retireWith]

/-! Every instruction and agent step. -/

theorem keeps_exec (i) : Keeps (exec i s) := by
  cases i with
  | lui | auipc | addi | slti | sltiu | xori | ori | andi | slli | srli | srai | add | sub | sll | slt | sltu | xor
   | srl | sra | or | and | addiw | slliw | srliw | sraiw | addw | subw | sllw | srlw | sraw | mul | mulh | mulhsu
   | mulhu | div | divu | rem | remu | mulw | divw | divuw | remw | remuw => exact keeps_alu h _ _
  | jal | jalr => exact keeps_finish h _ (inv_jumpTo h _ _ _)
  | beq | bne | blt | bge | bltu | bgeu => exact keeps_branch h _ _
  | lb | lh | lw | ld | lbu | lhu | lwu => exact keeps_loadX h _ _ _ _ _
  | sb | sh | sw | sd => exact keeps_storeX h _ _ _ _
  | fence | fenceTso | fenceScoped | mwait => exact keeps_finish h _ (inv_retire h _)
  | pause | ecall | ebreak | fmaddS | fmsubS | fnmsubS | fnmaddS | faddS | fsubS | fmulS | fdivS | fsqrtS | fsgnjS
   | fsgnjnS | fsgnjxS | fminS | fmaxS | fcvtSW | fcvtSWu | fcvtSL | fcvtSLu | fmvWX | srseed | mand | mor | mxor
   | mnot | vloop | lclr0 | lclr1 | wfm | fmt | stimecmpWrite | srseedWrite | neighbourSilence | channelResend
   | slotClearDone | sack | droopStretch | droopRecover | cmdringWrite | getVersion | getCapabilities
   | negotiateAlgorithms | getDigests | getCertificate | challenge | getMeasurements | hdmDecoderSet => exact h
  | lrW | lrD => exact keeps_loadReserved h _ _ _ _
  | scW | scD => exact keeps_storeCond h _ _ _ _ _
  | amoSwapW | amoSwapD | amoAddW | amoAddD | amoXorW | amoXorD | amoAndW | amoAndD | amoOrW | amoOrD | amoMinW
   | amoMinD | amoMaxW | amoMaxD | amoMinuW | amoMinuD | amoMaxuW | amoMaxuD => exact keeps_baseAmo h _ _ _ _ _ _
  | flw | lda => exact keeps_loadInstr h _ _ _ _ _ _
  | fsw | strl => exact keeps_storeInstr h _ _ _
  | fcvtWS | fcvtWuS | fcvtLS | fcvtLuS | fmvXW | feqS | fltS | fleS | fclassS => exact keeps_fpuX h _ _ _
  | csrrw => exact keeps_execCsrrw h _ _ _
  | csrrs | csrrc | csrrsi | csrrci => exact keeps_csrInstr h _ _ _
  | csrrwi => exact keeps_execCsrrwi h _ _ _
  | mret => exact keeps_execMret h
  | sret => exact keeps_execSret h
  | wfi => exact keeps_finish h _ (inv_retireWait h _)
  | vadd | vsub | vmul | vmin | vmax | vshl | vshr | vsra =>
    exact keeps_typed0 h _ fun _ => keeps_vbin h _ _ _ _ _ _ _ _
  | vfma | vfms | vdot4 => exact keeps_typed0 h _ fun _ => keeps_vacc h _ _ _ _ _ _ _
  | vcmp => exact keeps_execVcmp h _ _ _ _ _ _
  | vand | vor | vxor | vperm => exact keeps_vbin h _ _ _ _ _ _ _ _
  | vabs | vneg | vmov | vexp2 | vlog2 | vrcp | vrsq | vrsum | vrmax | vrmin | vbcast =>
    exact keeps_typed0 h _ fun _ => keeps_vun h _ _ _ _ _ _ _
  | vidx => exact keeps_typed0 h _ fun _ => keeps_vgen h _ _ _ _ _
  | vsplat => exact keeps_execVsplat h _ _ _ _
  | vslideDn | vslideUp => exact keeps_vun h _ _ _ _ _ _ _
  | vcvt => exact keeps_execVcvt h _ _ _ _ _ _
  | vquant => exact keeps_execVquant h _ _ _ _ _ _
  | vdeq => exact keeps_execVdeq h _ _ _ _ _ _
  | tbld => exact keeps_execTbld h _ _
  | cbld => exact keeps_execCbld h _
  | vld | vlds => exact keeps_vectorLoad h _ _ _ _ _ _
  | vst | vsts => exact keeps_vectorStore h _ _ _ _ _ _
  | sbindSrc | sbindDst => exact keeps_sbind h _ _ _
  | sunbind | bqput | cpyw | dqpush | chbind | sig => exact keeps_finish h _ (inv_retireWith h _)
  | vsel => exact keeps_execVsel h _ _ _ _ _
  | mpop | rlqry | press => exact keeps_finish h _ (inv_retireX h _ _)
  | bqget => exact keeps_execBqget h _
  | ldFeKeep | ldFeClr => exact keeps_feLoad h _ _ _
  | stFe => exact keeps_feInstr h _ _ _ _
  | fesetEmpty | fesetFull => exact keeps_feSetInstr h _ _
  | feqry => exact keeps_execFeqry h _ _
  | gathA | gathX => exact keeps_gather h _ _ _
  | scatA | scatX => exact keeps_scatter h _ _ _
  | cpy => exact keeps_execCpy h _ _ _
  | fxadd | fxclr => exact keeps_cellWrite h _ _
  | fxrd | fxrdLo | fxrdHi => exact keeps_cellRead h _ _ _ _
  | amoAddScoped | amoSwapScoped | amoAndScoped | amoOrScoped | amoXorScoped | amoMinScoped | amoMaxScoped
   | amoMinuScoped | amoMaxuScoped | amoCasScoped => exact keeps_scopedAmo h _ _ _ _ _ _
  | spawn => exact keeps_execSpawn h _
  | spawnNb => exact keeps_execSpawnNb h _ _
  | spawnr => exact keeps_execSpawnr h _ _
  | spawnat => exact keeps_execSpawnat h _ _
  | tend => exact keeps_execTend h _
  | joininit | joinadd | joinarm => exact keeps_joinInstr h _ _
  | dqpop => exact keeps_execDqpop h _
  | dqsplit => exact keeps_execDqsplit h
  | dqspill => exact keeps_execDqspill h _ _
  | rpush => exact keeps_execRpush h _ _
  | rpop | rpeek => exact keeps_ringTake h _ _ _ _
  | grpbar => exact keeps_execGrpbar h _
  | arm => exact keeps_execArm h _
  | sendw => exact keeps_finish h _ (inv_send (inv_retire h _) _ _)
  | sendh => exact keeps_execSendh h _ _
  | msgret => exact keeps_execMsgret h
  | migrate => exact keeps_execMigrate h _ _
  | grpw => exact keeps_execGrpw h _ _
  | mcw => exact keeps_execMcw h _ _
  | jkset => exact keeps_execJkset h _ _
  | keyrot => exact keeps_execKeyrot h _
  | mstg | mstgAcc => exact keeps_stageCmd h _ _ _ _ _ _
  | mxst | mxstAcc => exact keeps_crossCmd h _ _ _ _ _ _
  | mchain | mchainAcc => exact keeps_chainCmd h _ _ _ _ _ _ _
  | mlease => exact keeps_execMlease h _
  | mrel => exact keeps_execMrel h
  | oclaim => exact keeps_execOclaim h _ _
  | orel => exact keeps_finish h _ (inv_retire (inv_unmap h _ _ _) _)
  | ofill => exact keeps_execOfill h _ _
  | odrain | odrainAmax => exact keeps_drainCmd h _ _ _
  | mstride => exact keeps_finish h _ (inv_retire (inv_csrWrite h _ _ _) _)
  | maccz => exact keeps_execMaccz h _
  | mrgu => exact keeps_execMrgu h _ _
  | mrguDz => exact keeps_execMrguDz h _ _
  | mrgi => exact keeps_execMrgi h _ _
  | scnv => exact keeps_execScnv h _ _
  | scnvw => exact keeps_execScnvw h _ _
  | safept => exact keeps_execSafept h _
  | codecmt => exact keeps_execCodecmt h _ _
  | cseal => exact keeps_finish h _ (inv_containCore (inv_retire h _) _)
  | crestart => exact keeps_finish h _ (inv_restartCore (inv_retire h _) _ _)
  | hloop => exact keeps_execHloop h _ _ _ _
  | trapEntry => exact keeps_execTrapEntry h _
  | localTimer => exact keeps_execLocalTimer h _
  | cvamaxAccess => exact keeps_execCvamaxAccess h _ _ _
  | registerWrite => exact keeps_execRegisterWrite h _ _ _
  | windowCsrAccess => exact keeps_execWindowCsrAccess h _ _ _
  | windowImemWrite => exact keeps_execWindowImemWrite h _ _ _
  | codeScanStart => exact keeps_execCodeScanStart h _
  | codecmtCompletion => exact keeps_execCodecmtCompletion h _
  | streamImageFetch => exact keeps_execStreamImageFetch h _ _
  | streamImageStore => exact keeps_execStreamImageStore h _ _
  | remoteRequest => exact keeps_execRemoteRequest h _
  | replyLanding | storeAck | gatherLaneReply => exact keeps_landIf h _ _
  | errorReply => exact keeps_execErrorReply h _
  | virtualAccess => exact keeps_execVirtualAccess h _
  | priResponse => exact keeps_execPriResponse h _ _ _ _ _
  | atsCompletion => exact keeps_execAtsCompletion h _ _ _ _ _ _
  | atsInvalidation => exact keeps_execAtsInvalidation h _ _
  | feRequest => exact keeps_execFeRequest h _
  | feTimeout => exact keeps_execFeTimeout h _
  | feWithdraw => exact keeps_execFeWithdraw h _
  | engineQueueGrant => exact keeps_execEngineQueueGrant h _ _
  | copyCompletion => exact keeps_execCopyCompletion h _
  | typeEntryRead => exact keeps_execTypeEntryRead h _ _ _
  | taskRecordArrival => exact keeps_execTaskRecordArrival h _
  | taskBufferAccept => exact keeps_execTaskBufferAccept h _
  | acceptanceNotice => exact keeps_execAcceptanceNotice h _
  | beaconInterval => exact keeps_execBeaconInterval h _
  | beacon => exact keeps_execBeacon h _
  | preemptionRequest => exact keeps_execPreemptionRequest h _
  | dec => exact keeps_execDec h _
  | joinOpArrival => exact keeps_execJoinOpArrival h _
  | release => exact keeps_execRelease h _
  | unpin => exact keeps_execUnpin h _
  | lost => exact keeps_execLost h _
  | dieFailureNotice => exact keeps_execDieFailureNotice h _
  | acceptanceTimeout => exact keeps_execAcceptanceTimeout h _ _
  | ringNotify => exact keeps_execRingNotify h _
  | hostRingPoll => exact keeps_execHostRingPoll h _
  | launchStart => exact keeps_execLaunchStart h _
  | launchEndNotice => exact keeps_execLaunchEndNotice h _
  | collect => exact keeps_execCollect h _
  | done => exact keeps_execDone h _
  | completionRingRetry => exact inv_tryPush h _
  | depositArrival => exact keeps_execDepositArrival h _
  | depositHoldTimeout => exact keeps_execDepositHoldTimeout h _
  | armedReadTimeout => exact keeps_execArmedReadTimeout h _
  | handlerMessageArrival => exact keeps_execHandlerMessageArrival h _
  | handlerResend => exact keeps_execHandlerResend h _
  | handlerResendTimeout => exact keeps_execHandlerResendTimeout h _
  | handlerScan => exact keeps_execHandlerScan h _ _
  | handlerEntry => exact keeps_execHandlerEntry h _
  | channelPacketArrival => exact keeps_execChannelPacketArrival h _
  | channelImageTimeout => exact keeps_execChannelImageTimeout h _
  | contextArrival => exact keeps_execContextArrival h _
  | contextResend => exact keeps_execContextResend h _
  | spillRefill => exact keeps_execSpillRefill h _
  | leaseGrant => exact keeps_execLeaseGrant h _
  | leaseIdleTimeout => exact keeps_execLeaseIdleTimeout h _
  | engineCommandStart => exact keeps_execEngineCommandStart h _
  | engineCommandCompletion => exact keeps_execEngineCommandCompletion h _
  | drainCompletion => exact keeps_execDrainCompletion h _
  | engineCommandFailure => exact keeps_execEngineCommandFailure h _
  | sparseCommandStart => exact keeps_execSparseCommandStart h _ _
  | sparseCommandCompletion => exact keeps_execSparseCommandCompletion h _ _
  | scnvwTimeout => exact keeps_execScnvwTimeout h _
  | spawnWaitTimeout => exact keeps_execSpawnWaitTimeout h _
  | ringWaitTimeout => exact keeps_execRingWaitTimeout h _
  | flitReceive => exact keeps_execFlitReceive h _ _
  | nak => exact keeps_execNak h _ _
  | linkControlFlit => exact keeps_execLinkControlFlit h _
  | linkDrop => exact keeps_execLinkDrop h _
  | linkRetrained => exact keeps_execLinkRetrained h _
  | retrainTimeout => exact keeps_execRetrainTimeout h _
  | gatewayPacketArrival => exact inv_gatewayTake h _ _ _
  | sackTimer => exact keeps_execSackTimer h _ _
  | e2eResend => exact keeps_execE2eResend h _ _
  | peerUnreachable => exact keeps_execPeerUnreachable h _ _
  | mcwCopyArrival => exact keeps_execMcwCopyArrival h _
  | groupInstall => exact keeps_execGroupInstall h _
  | grpwCompletion => exact keeps_execGrpwCompletion h _
  | keyrotCompletion => exact keeps_execKeyrotCompletion h _
  | keyrotTimeout => exact keeps_execKeyrotTimeout h _
  | saffronWatchdog => exact keeps_execSaffronWatchdog h _
  | bankRetire => exact keeps_execBankRetire h _ _
  | powerOn => exact keeps_execPowerOn h _ _ _
  | cxlMemAccess => exact keeps_execCxlMemAccess h _ _ _ _
  | cmdRingPoll => exact keeps_execCmdRingPoll h
  | attach => exact inv_closeCmd _ (inv_cmdAttach h _ _ _)
  | detach => exact inv_closeCmd _ (inv_cmdDetach h _)
  | ringbind => exact inv_closeCmd _ (inv_cmdRingbind h _ _ _)
  | endlaunch => exact inv_closeCmd _ (inv_cmdEndlaunch h _ _ _)
  | retire => exact inv_closeCmd _ (inv_cmdRetire h _ _)
  | reload => exact inv_closeCmd _ (inv_cmdReload h _ _ _ _)
  | chkpt | restore => exact inv_closeCmd _ (inv_cmdChk h _ _ _ _ _)
  | counters => exact inv_closeCmd _ (inv_cmdCounters h _ _ _)
  | cxlPortDown => exact keeps_execCxlPortDown h _ _
  | keyStaging => exact keeps_execKeyStaging h _ _
  | fabricPeerReset => exact keeps_execFabricPeerReset h _ _
  | clusterFailure => exact inv_retireCluster h _
  | spaustLaneFailure => exact keeps_execSpaustLaneFailure h _
  | chkptCompletion => exact keeps_execChkptCompletion h
  | dispatch clu => exact keeps_execDispatch h clu

/-! Issue. -/

theorem inv_fetchCode (k n) : Inv (fetchCode s k n).1 := by
  unfold fetchCode
  dsimp only
  split
  · exact h
  · split
    · exact h
    · exact inv_draw h
theorem inv_fetch (k) : Inv (fetch s k).1 := by
  unfold fetch
  extract_lets H c p
  split
  · exact inv_fetchCode h _ _
  · split
    · exact h
    · extract_lets off count
      split
      · exact h
      · exact h
theorem inv_tick (k) : Inv (tick s k) := by
  unfold tick
  extract_lets c t u
  have hu : Inv u := inv_modHart (inv_advance h c t) k _
  exact hu

/-! Deliveries and turns. -/

theorem keeps_execEarly (i u l) : Keeps (execEarly s i u l) := by
  have he := keeps_exec (inv_modHart (inv_draw h) s.cur fun H => earlyView s.draw.1 0 l H) i
  unfold execEarly
  dsimp only
  split
  · next e => rw [e] at he; exact he
  · trivial
  · trivial
theorem keeps_meet (op w i) : Keeps (meet s op w i) := by
  unfold meet
  extract_lets k H u bad s1 s2 l
  have h1 : Inv s1 := by
    dsimp only [s1]
    split
    · exact inv_modHart h _ _
    · exact h
  have h2 : Inv s2 := by
    dsimp only [s2]
    split
    · exact inv_tick h1 _
    · exact h1
  refine keeps_ite (keeps_exec (inv_tick h _) i) (keeps_ite (keeps_exec h i) (keeps_ite (keeps_finish h _ h)
    (keeps_ite (keeps_exec h i) (keeps_ite (keeps_finish h _ h) (keeps_ite (inv_hardSeal h _) ?_)))))
  clear_value bad l s2
  cases bad with
  | cons e r => exact inv_modHart h _ _
  | nil =>
    dsimp only
    split
    · exact keeps_finish h2 _ h2
    · exact keeps_ite (keeps_finish h2 _ h2) (keeps_finish h2 _ h2)
    · split
      · exact keeps_exec h2 i
      · exact keeps_ite (keeps_finish h2 _ h2) (keeps_execEarly h2 _ _ _)
theorem keeps_issueWord (w sg) : Keeps (issueWord s w sg) := by
  unfold issueWord
  split
  · next op i _ _ =>
    have h1 := inv_modHart h s.cur fun H => { H with ir := w, irSigned := sg }
    dsimp only
    split
    · exact keeps_finish h1 _ h1
    · exact keeps_meet (inv_modHart h1 _ _) _ _ _
    · exact keeps_meet h1 _ _ _
  · trivial
theorem keeps_issuePc : Keeps (issuePc s) := by
  have hf := inv_fetch h s.cur
  unfold issuePc
  split
  · exact keeps_issueWord h _ _
  · split
    · next t w sg e =>
      rw [e] at hf
      have ht : Inv t := hf
      refine keeps_issueWord ?_ _ _
      split
      · exact inv_modHart ht _ _
      · exact ht
    · next t e =>
      rw [e] at hf
      have ht : Inv t := hf
      split
      · exact keeps_finish ht _ ht
      · exact keeps_finish ht _ ht
theorem keeps_issueOwn : Keeps (issueOwn s) := by
  unfold issueOwn
  split
  · exact inv_hardSeal h _
  · refine keeps_issuePc ?_
    split
    · exact h
    · exact inv_modHart h _ _
theorem keeps_issue : Keeps (issue s) := by
  unfold issue
  dsimp only
  split
  · exact inv_takeInterrupt h _ _
  · refine keeps_ite (keeps_execHandlerEntry h _) (keeps_ite (keeps_execFeWithdraw h _) (keeps_ite (keeps_issueOwn h) h))
theorem keeps_issueAt (n) : Keeps (issueAt s n) := by
  unfold issueAt
  extract_lets k c
  refine keeps_issue ?_
  show Inv (if _ then _ else _)
  split
  · exact h
  · exact inv_modCore h _ _
theorem keeps_deliver (p) : Keeps (deliver s p) := by
  unfold deliver
  cases p.body with
  | mem a op sink wh =>
    exact keeps_ite (keeps_ite (keeps_execVirtualAccess h _) (keeps_execFeRequest h _))
      (keeps_ite (keeps_execJoinOpArrival h _) (keeps_ite (keeps_execVirtualAccess h _) (keeps_execRemoteRequest h _)))
  | reply hh a sink r =>
    refine keeps_ite (keeps_execErrorReply h _) ?_
    cases sink
    case held | unit => exact keeps_execReplyLanding h _
    case posted | chan | stream => exact keeps_execStoreAck h _
    case lane => exact keeps_execGatherLaneReply h _
  | task => exact keeps_execTaskRecordArrival h _
  | accepted => exact keeps_execAcceptanceNotice h _
  | dec => exact keeps_execDec h _
  | release => exact keeps_execRelease h _
  | unpin => exact keeps_execUnpin h _
  | lost => exact keeps_execLost h _
  | ringNote => exact keeps_execRingNotify h _
  | launch => exact keeps_execLaunchStart h _
  | launchEnd => exact keeps_execLaunchEndNotice h _
  | collect => exact keeps_execCollect h _
  | done => exact keeps_execDone h _
  | deposit => exact keeps_execDepositArrival h _
  | handler => exact keeps_execHandlerMessageArrival h _
  | errorRecord => exact keeps_execErrorReply h _
  | channel => exact keeps_execChannelPacketArrival h _
  | context => exact keeps_execContextArrival h _
  | beacon => exact keeps_execBeacon h _
  | group => exact keeps_execGroupInstall h _
  | mcw => exact keeps_execMcwCopyArrival h _
omit h in
theorem inv_moved {o} (ho : Keeps o) : ∀ t, moved s o = some t → Inv t := by
  intro t ht
  cases o with
  | next u =>
    unfold moved at ht
    dsimp only at ht
    split at ht
    · cases ht
    · cases ht; exact ho
  | fault => cases ht
  | refused => cases ht
theorem inv_deliverFirst (l) : ∀ t, deliverFirst s l = some t → Inv t := by
  intro t ht
  obtain ⟨p, -, hp⟩ := List.exists_of_findSome?_eq_some ht
  exact inv_moved (keeps_deliver h p) t hp
theorem inv_linkTurn (l L) : ∀ t, linkTurn s l L = some t → Inv t := by
  intro t ht
  unfold linkTurn at ht
  split at ht
  · split at ht
    · cases ht
    · exact inv_moved (keeps_execFlitReceive h _ _) t ht
  · cases ht
theorem inv_portStep (l L) : ∀ t, portStep s l L = some t → Inv t := by
  intro t ht
  unfold portStep at ht
  split at ht
  · exact inv_moved (keeps_execLinkControlFlit h _) t ht
  · exact inv_moved (o := .next (portTurn l s)) (inv_portTurn h l) t ht
theorem inv_linkStep : ∀ t, linkStep s = some t → Inv t := by
  intro t ht
  rcases (Option.orElse_eq_some _ _ _).mp ht with ht | ⟨-, ht⟩
  · obtain ⟨e, -, he⟩ := List.exists_of_findSome?_eq_some ht
    exact inv_linkTurn h _ _ t he
  · obtain ⟨e, -, he⟩ := List.exists_of_findSome?_eq_some ht
    exact inv_portStep h _ _ t he
theorem keeps_idle : Keeps (idle s) := by
  unfold idle
  refine keeps_ite (keeps_issueAt h _) ?_
  split
  · next t e =>
    rcases (Option.orElse_eq_some _ _ _).mp e with e | ⟨-, e⟩
    · exact inv_deliverFirst h _ t e
    · exact inv_linkStep h t e
  · exact keeps_issueAt h _
theorem keeps_takeTurn (n) : Keeps (takeTurn s n) := by
  cases n with
  | hart k => exact keeps_issueAt h k
  | step i => exact keeps_ite (keeps_exec h i) h
  | firmware k => exact inv_firmwareTurn h k
  | port l => exact inv_portTurn h l

/-- Every step, of whichever agent, keeps the invariant. -/
theorem keeps_step : Keeps (step s) := by
  unfold step
  split
  · next t r _ => exact keeps_takeTurn (s := { s with agenda := r }) h t
  · exact keeps_idle h

end

/-- Settles O60, by a lemma for each function of the model that returns a state. -/
theorem invStep : Obligations.InvStep := by
  intro s t h e
  have hs := keeps_step h
  rw [e] at hs
  exact hs

end Sys2Proof.Machine

namespace Sys2Proof.Machine
open Sys2Proof

/-! Reset (R414): an entry that the reset state does not list has its default values. -/

theorem csrRead_reset_loop (h : Nat) : ∀ n, n < 6 → csrRead State.reset h (0x810 + n) = 0 := by
  intro n hn
  interval_cases n <;> rfl
theorem csrRead_reset_stride (h : Nat) : ∀ n, n < 8 → csrRead State.reset h (0x820 + n) = 0x700FFFFFFFF := by
  intro n hn
  interval_cases n <;> rfl
theorem bankstat_reset (c : Nat) : bankstat (State.reset.core c) = 0 := by
  have hc : State.reset.core c = {} := rfl
  rw [hc]; decide
theorem csrRead_reset_mnstatus (h : Nat) : csrRead State.reset h 0x7C0 = 0x74 := by
  have hr : csrRead State.reset h 0x7C0 = setBit (({} : Csrs).mnstatus &&& 0xFF7E) 0 ({} : Hart).pfx := rfl
  rw [hr]; decide

/-- Settles O58: every part is the default of an entry that is not listed. -/
theorem resetState : Obligations.ResetState := by
  refine ⟨fun c => ⟨rfl, rfl, rfl, rfl, rfl, rfl, bankstat_reset c, rfl, rfl⟩,
    fun h _ => ⟨rfl, rfl, csrRead_reset_mnstatus h, rfl, rfl, rfl, rfl, rfl, csrRead_reset_loop h, csrRead_reset_stride h, rfl, rfl, rfl, rfl, rfl⟩,
    fun c off _ _ => ⟨rfl, rfl, rfl⟩, fun g => ⟨rfl, rfl, rfl, rfl⟩, rfl, rfl, rfl, rfl, rfl, rfl, rfl, rfl⟩

end Sys2Proof.Machine

namespace Sys2Proof.Machine
open Sys2Proof

/-! The turn of a hart: what its word comes to (R59, R60, R61, R65, R69, R102, R105). -/

theorem advance_cur (s : State) (c t : Nat) : (advance s c t).cur = s.cur := by
  unfold advance
  exact foldl_keeps State.cur _ (fun _ _ => by split <;> rfl) _ _

theorem tick_cur (s : State) (h : Nat) : (tick s h).cur = s.cur := advance_cur _ _ _

/-- The state in which a word of the operation `op`, using `u`, meets its operands: after the results it waits for and in its
cycle of issue. -/
def atIssue (a : State) (op : Op) (u : Uses) : State :=
  let b := if interlocks a.me op then a.modHart a.cur fun H => holdFor H (touched H u) else a
  if costsCycle op then tick b a.cur else b

theorem atIssue_cur (a : State) (op : Op) (u : Uses) : (atIssue a op u).cur = a.cur := by
  unfold atIssue
  extract_lets b
  have hb : b.cur = a.cur := by unfold b; split <;> rfl
  split
  · rw [tick_cur, hb]
  · exact hb

/-- The end of `meet`: the word reads an armed register, meets a failed gather, or touches unlanded results, or has its
meaning (R203, R292, R60). -/
def meetOperands (b : State) (op : Op) (i : Instr) (u : Uses) : Host.Outcome State Fault Refusal :=
  let l := touched b.me u
  match armedRead b.me u, metGather b.me op u with
  | some n, _ => finish b (.wait (.armed .x n)) b
  | none, some (g, c, a) => if l.isEmpty || !sckBit b.me.csr then finish b (.trap c a (.gather g.vd)) b else finish b (.trap 25 (stallTval (l.headD ⟨.x, 0, 0, 0, 0⟩))) b
  | none, none =>
    match l with
    | [] => exec i b
    | p :: _ => if sckBit b.me.csr then finish b (.trap 25 (stallTval p)) b else execEarly b i u l

theorem meetOperands_armed {b : State} {op : Op} {i : Instr} {u : Uses} {n : Nat} (ha : armedRead b.me u = some n) :
    meetOperands b op i u = .next (b.modHart b.cur fun H => { H with stalled := some (.armed .x n) }) := by
  unfold meetOperands
  simp only [ha]
  rfl

theorem meetOperands_gather {b : State} {op : Op} {i : Instr} {u : Uses} {g : Gather} {cause : Nat} {tval : Word}
    (ha : armedRead b.me u = none) (hg : metGather b.me op u = some (g, cause, tval)) (ht : touched b.me u = []) :
    meetOperands b op i u = .next (takeTrap (b.modHart b.cur fun H => fixUp H (.gather g.vd)) b.cur false cause tval) := by
  unfold meetOperands
  simp only [ha, hg, ht]
  rfl

theorem meetOperands_landed {b : State} {op : Op} {i : Instr} {u : Uses}
    (ha : armedRead b.me u = none) (hg : metGather b.me op u = none) (ht : touched b.me u = []) :
    meetOperands b op i u = exec i b := by
  unfold meetOperands
  simp only [ha, hg, ht]

theorem meetOperands_unlanded {b : State} {op : Op} {i : Instr} {u : Uses} {p : Pending} {l : List Pending}
    (ha : armedRead b.me u = none) (hg : metGather b.me op u = none) (ht : touched b.me u = p :: l) (hs : sckBit b.me.csr = true) :
    meetOperands b op i u = .next (takeTrap b b.cur false 25 (stallTval p)) := by
  unfold meetOperands
  simp only [ha, hg, ht, hs, if_true]
  exact finish_trap_none b b 25 _

/-- The stored errors of the registers a word reads, as `meet` looks for them. -/
def wordFlaws (a : State) (op : Op) (w : W32) (u : Uses) : SMap Bool :=
  if a.me.flaws = [] then [] else regFlaws a.me (u.reads ++ extraReads a op w.toNat)

/-- `meet` where the word is not at the lanes of a gather or scatter, in named parts. -/
theorem meet_eq (a : State) (op : Op) (w : W32) (i : Instr) (hl : a.me.lanes = []) :
    meet a op w i =
      let u := usesOf op w.toNat (if a.me.pfx then payloadOf a.me.payload else none)
      let flaws := wordFlaws a op w u
      if sigStops a.me op w.toNat then exec i a
      else if misfit a.me op w.toNat then finish a (.trap 2 (tvalOf 2 (w.setWidth 64)) .prefix_) a
      else if illegalHere a op w.toNat then exec i a
      else if scoreboard a.me u then finish a (.wait .issue) a
      else if flaws.any fun e => e.2 then .next (hardSeal a (coreOf a.cur))
      else match flaws with
        | _ :: _ => .next (a.modHart a.cur fun H => repairRegs H (flaws.map fun e => e.1))
        | [] => meetOperands (atIssue a op u) op i u := by
  have he : (!a.me.lanes.isEmpty) = false := by rw [hl]; rfl
  have hf : ∀ u : Uses, (if a.me.flaws.isEmpty then [] else regFlaws a.me (u.reads ++ extraReads a op w.toNat)) = wordFlaws a op w u := by
    intro u
    unfold wordFlaws
    cases a.me.flaws <;> rfl
  unfold meet
  simp only [he, hf, Bool.false_eq_true, if_false]
  rfl

theorem meet_comesTo (a : State) (op : Op) (w : W32) (i : Instr) (hl : a.me.lanes = []) :
    Spec.comesTo a op w i (meet a op w i) := by
  unfold Spec.comesTo
  extract_lets h H uses flaws b₀ b
  have hcur : b.cur = h := atIssue_cur a op uses
  have hm := meet_eq a op w i hl
  change _ = if sigStops H op w.toNat then exec i a
      else if misfit H op w.toNat then finish a (.trap 2 (tvalOf 2 (w.setWidth 64)) .prefix_) a
      else if illegalHere a op w.toNat then exec i a
      else if scoreboard H uses then finish a (.wait .issue) a
      else if flaws.any fun e => e.2 then .next (hardSeal a (coreOf h))
      else match flaws with
        | _ :: _ => .next (a.modHart h fun H => repairRegs H (flaws.map fun e => e.1))
        | [] => meetOperands b op i uses at hm
  rw [hm]
  clear hm
  clear_value b flaws uses
  refine ⟨fun hs => by rw [if_pos hs], fun hs hmis => ?_, fun hs hmis => ?_⟩
  · rw [if_neg (by simp [hs]), if_pos hmis]
    refine ⟨_, rfl, ?_, ?_, fun k hk => ?_⟩
    · rw [takeTrap_hart]; rfl
    · rfl
    · rw [takeTrap_hart_ne _ _ _ _ hk, State.modHart_hart_ne _ _ _ hk]
  rw [if_neg (by simp [hs]), if_neg (by simp [hmis])]
  refine ⟨fun hi => by rw [if_pos hi], fun hi => ?_⟩
  rw [if_neg (by simp [hi])]
  refine ⟨fun hb => by rw [if_pos hb]; rfl, fun hb => ?_⟩
  rw [if_neg (by simp [hb])]
  refine ⟨fun f hf hbad => by rw [if_pos (List.any_eq_true.2 ⟨f, hf, hbad⟩)], fun hne hall => ?_, fun hf => ?_⟩
  · have hany : (flaws.any fun e => e.2) = false := List.any_eq_false.2 fun f hf => by simp [hall f hf]
    rw [hany]
    cases flaws with
    | nil => exact absurd rfl hne
    | cons f r => rfl
  · subst hf
    refine ⟨fun n ha => ?_, fun g cause tval ha hg ht => ?_, fun ha hg => ⟨fun ht => ?_, fun p l ht hs => ?_⟩⟩
    · exact (meetOperands_armed ha).trans (by rw [hcur])
    · exact (meetOperands_gather ha hg ht).trans (by rw [hcur])
    · exact meetOperands_landed ha hg ht
    · exact (meetOperands_unlanded ha hg ht hs).trans (by rw [hcur])

/-! The turn: the hart's own word, from the queue or by a fetch (R17, R29, R69). -/

theorem landing_seq {H : Hart} (ha : H.arrival = .seq) (sg isSig : Bool) : landing H sg isSig = .plain := by
  unfold landing
  rw [ha]; rfl

/-- A word reached in sequence is met without a signature check (R69). -/
theorem issueWord_comesTo {s : State} {w : W32} {op : Op} {i : Instr} (sg : Bool) (ha : s.me.arrival = .seq) (hl : s.me.lanes = [])
    (ho : opOf w = .ok op) (hd : decode w = .ok i) : Spec.comesTo (Spec.atWord s w sg) op w i (issueWord s w sg) := by
  have hme : (Spec.atWord s w sg).me = { s.me with ir := w, irSigned := sg } := State.modHart_me s _
  have hp : landing (Spec.atWord s w sg).me sg (op == .sig) = .plain := landing_seq (by rw [hme]; exact ha) _ _
  have hm : issueWord s w sg = meet (Spec.atWord s w sg) op w i := by
    unfold issueWord
    simp only [ho, hd]
    change (match landing (Spec.atWord s w sg).me sg (op == .sig) with
      | .mismatch => _
      | .leave => _
      | .plain => meet (Spec.atWord s w sg) op w i) = _
    rw [hp]
  rw [hm]
  exact meet_comesTo _ op w i (by rw [hme]; exact hl)

theorem issueWord_undecoded {s : State} {w : W32} (sg : Bool) (hd : ∀ i, decode w ≠ .ok i) : issueWord s w sg = .fault (.badWord w) := by
  unfold issueWord
  split
  · next hi => exact absurd hi (hd _)
  · rfl

/-- A word of a VLOOP body that is fetched enters the queue. -/
def enqueued (u : State) (w : W32) : State := if u.me.vloop.isSome then u.modHart u.cur fun H => enqueue H w else u

theorem enqueued_me (u : State) (w : W32) : (enqueued u w).me.arrival = u.me.arrival ∧ (enqueued u w).me.lanes = u.me.lanes := by
  unfold enqueued
  split
  · rw [State.modHart_me]; exact ⟨rfl, rfl⟩
  · exact ⟨rfl, rfl⟩

theorem fetchCode_me (s : State) (n : Nat) : (fetchCode s s.cur n).1.cur = s.cur ∧
    (fetchCode s s.cur n).1.me.arrival = s.me.arrival ∧ (fetchCode s s.cur n).1.me.lanes = s.me.lanes := by
  unfold fetchCode
  extract_lets c C H sg
  split
  · rw [State.setHart_me]; exact ⟨rfl, rfl, rfl⟩
  · split <;> exact ⟨rfl, rfl, rfl⟩

/-- A fetch changes neither the executing hart's arrival nor its lanes. -/
theorem fetch_me (s : State) : (fetch s s.cur).1.cur = s.cur ∧
    (fetch s s.cur).1.me.arrival = s.me.arrival ∧ (fetch s s.cur).1.me.lanes = s.me.lanes := by
  unfold fetch
  extract_lets H c p
  split
  · exact fetchCode_me s _
  · split
    · exact ⟨rfl, rfl, rfl⟩
    · extract_lets off count
      split <;> exact ⟨rfl, rfl, rfl⟩

theorem issuePc_queued {v : State} {w : W32} (hl : v.me.lanes = []) (hq : (v.me.vloop.bind fun q => q.queue[q.at_]?) = some w) :
    issuePc v = issueWord v w v.me.irSigned := by
  have : queuedWord v.me = some w := by unfold queuedWord; rw [hl]; exact hq
  unfold issuePc
  rw [this]

theorem queuedWord_none {H : Hart} (hl : H.lanes = []) (hq : (H.vloop.bind fun q => q.queue[q.at_]?) = none) : queuedWord H = none := by
  unfold queuedWord; rw [hl]; exact hq

theorem issuePc_word {v u : State} {w : W32} {sg : Bool} (hl : v.me.lanes = []) (hq : (v.me.vloop.bind fun q => q.queue[q.at_]?) = none)
    (hf : fetch v v.cur = (u, .word w sg)) : issuePc v = issueWord (enqueued u w) w sg := by
  unfold issuePc
  rw [queuedWord_none hl hq, hf]
  rfl

theorem issuePc_fault {v u : State} (hl : v.me.lanes = []) (hq : (v.me.vloop.bind fun q => q.queue[q.at_]?) = none)
    (ha : v.me.arrival = .seq) (hf : fetch v v.cur = (u, .fault)) : issuePc v = .next (takeTrap u v.cur false 1 (tvalOf 1 (u.hart v.cur).pc)) := by
  obtain ⟨hc, hu, -⟩ := fetch_me v
  rw [hf] at hc hu
  unfold issuePc
  rw [queuedWord_none hl hq, hf]
  change (match landing u.me false false with | .mismatch => _ | _ => _) = _
  rw [landing_seq (hu.trans ha)]
  refine (finish_trap_none u u 1 _).trans ?_
  rw [State.me_def, show u.cur = v.cur from hc]

/-- What repairing the stored errors of a hart's own registers leaves of it. -/
theorem repairRegs_rest (l : List Nat) : ∀ H : Hart, (repairRegs H l).arrival = H.arrival ∧ (repairRegs H l).lanes = H.lanes := by
  induction l with
  | nil => exact fun _ => ⟨rfl, rfl⟩
  | cons k l ih => exact fun H => ih (repairReg H k)

/-- The executing hart's turn is its word's, where nothing comes before it. -/
theorem issue_eq_issueOwn {s : State} (hr : coreRuns s s.cur = true) (hfree : s.me.free = false) (hheld : s.me.held = none)
    (hst : s.me.stalled = none) (hl : s.me.lanes = []) (hi : interruptNow s s.cur = none) (hh : handlerDue s s.cur = false) :
    issue s = issueOwn s := by
  have hw : waitFault s = false := by unfold waitFault; rw [hst]; rfl
  have hres : resumes s s.cur = true := by
    unfold resumes
    rw [← State.me_def, hst]
    unfold mayLeave
    rw [hl, hst]; rfl
  have hm : mayIssue s s.cur = true := by
    unfold mayIssue
    rw [hr, ← State.me_def, hfree, hheld, hres]; rfl
  unfold issue
  simp only [hw, hi, hh, hm, ← State.me_def, hheld, Bool.false_eq_true, if_false, if_true, Option.isSome_none]

theorem issue_runsWord (s : State) : Spec.runsWord s (issue s) := by
  unfold Spec.runsWord
  extract_lets h H v
  intro hr hfree hheld hst hl hi hh
  rw [issue_eq_issueOwn hr hfree hheld hst hl hi hh]
  have hv : (if s.me.flaws.isEmpty then s else s.modHart s.cur repairOwn) = v := by
    unfold v
    cases s.me.flaws <;> rfl
  have hcur : v.cur = h := by unfold v; split <;> rfl
  have hme : v.me.arrival = H.arrival ∧ v.me.lanes = H.lanes := by
    unfold v
    split
    · exact ⟨rfl, rfl⟩
    · rw [State.modHart_me]; exact repairRegs_rest _ _
  unfold issueOwn
  rw [hv]
  clear_value v
  obtain ⟨harr, hlan⟩ := hme
  rw [hl] at hlan
  refine ⟨fun hb => by rw [if_pos hb], fun hb hseq => ?_⟩
  rw [if_neg (by simp [show ownBroken s.me = false from hb])]
  rw [hseq] at harr
  refine ⟨fun w op i hq ho hd => ?_, fun hq => ⟨fun u w sg hf => ?_, fun u hf => ?_⟩⟩
  · rw [issuePc_queued hlan hq]
    exact issueWord_comesTo _ harr hlan ho hd
  · rw [← hcur] at hf
    rw [issuePc_word hlan hq hf]
    obtain ⟨-, hua, hul⟩ := fetch_me v
    rw [hf] at hua hul
    obtain ⟨hea, hel⟩ := enqueued_me u w
    exact ⟨fun op i ho hd => issueWord_comesTo sg (hea.trans (hua.trans harr)) (hel.trans (hul.trans hlan)) ho hd, issueWord_undecoded sg⟩
  · rw [← hcur] at hf ⊢
    exact issuePc_fault hlan hq harr hf

/-- The turn of a core goes to the hart that is next there. -/
theorem issueAt_eq (s : State) (h : Nat) : issueAt s h = issue (Spec.atTurn s (pick s h)) := rfl

/-! Which hart is next (R17). -/

theorem hartAt_turn {h t : Nat} (hm : isMordant h = false) : hartAt (coreOf h) t = 4 * (h / 4) + t := by
  have : h < 32768 := by simpa [isMordant] using hm
  unfold hartAt coreOf
  rw [if_pos this, if_pos (by omega)]
  omega

theorem pick_mordant {s : State} {h : Nat} (hm : isMordant h = true) : pick s h = h := by
  unfold pick; rw [if_pos hm]

theorem pick_turn {s : State} {h : Nat} (hm : isMordant h = false) (hf : fresh s (hartAt (coreOf h) (s.core (coreOf h)).turn) = true)
    (hs : soon s (hartAt (coreOf h) (s.core (coreOf h)).turn) = true) : pick s h = hartAt (coreOf h) (s.core (coreOf h)).turn := by
  unfold pick
  simp only [hm, hf, hs, Bool.false_eq_true, if_false, Bool.and_self, if_true]

theorem eligible_of_fresh {s : State} {h : Nat} (hf : fresh s h = true) : eligible s h = true := by
  unfold fresh at hf
  exact (Bool.and_eq_true _ _ ▸ hf).1

/-- The harts of a worker core after the one that had the turn, in round-robin order. -/
def afterTurn (c t : Nat) : List Nat := (List.range 4).map fun i => hartAt c ((t + 1 + i) % 4)

theorem mem_afterTurn {c t k : Nat} : k ∈ afterTurn c t ↔ ∃ j, j < 4 ∧ k = hartAt c j := by
  unfold afterTurn
  simp only [List.mem_map, List.mem_range]
  constructor
  · rintro ⟨i, -, rfl⟩
    exact ⟨_, Nat.mod_lt _ (by omega), rfl⟩
  · rintro ⟨j, hj, rfl⟩
    exact ⟨(j + 7 - t % 4) % 4, Nat.mod_lt _ (by omega), by congr 1; omega⟩

theorem pick_next {s : State} {h : Nat} (hm : isMordant h = false) (ht : (s.core (coreOf h)).turn < 4) {i : Nat} (hi : i < 4)
    (he : eligible s (hartAt (coreOf h) i) = true) :
    eligible s (pick s h) = true ∧ ∃ j, j < 4 ∧ pick s h = hartAt (coreOf h) j := by
  by_cases hf : (fresh s (hartAt (coreOf h) (s.core (coreOf h)).turn) && soon s (hartAt (coreOf h) (s.core (coreOf h)).turn)) = true
  · obtain ⟨hf, hs⟩ := Bool.and_eq_true_iff.1 hf
    rw [pick_turn hm hf hs]
    exact ⟨eligible_of_fresh hf, _, ht, rfl⟩
  · have hp : pick s h = (((afterTurn (coreOf h) (s.core (coreOf h)).turn).find? fun k => eligible s k && soon s k) <|>
        (afterTurn (coreOf h) (s.core (coreOf h)).turn).find? (eligible s)).getD h := by
      unfold pick
      simp only [hm, hf, Bool.false_eq_true, if_false]
      rfl
    rw [hp, ← mem_afterTurn (t := (s.core (coreOf h)).turn)]
    cases h1 : (afterTurn (coreOf h) (s.core (coreOf h)).turn).find? fun k => eligible s k && soon s k with
    | some k => exact ⟨(Bool.and_eq_true_iff.1 (List.find?_some (p := fun k => eligible s k && soon s k) h1)).1, List.mem_of_find?_eq_some h1⟩
    | none =>
      cases h2 : (afterTurn (coreOf h) (s.core (coreOf h)).turn).find? (eligible s) with
      | some k => exact ⟨List.find?_some h2, List.mem_of_find?_eq_some h2⟩
      | none => exact absurd he (List.find?_eq_none.1 h2 _ (mem_afterTurn.2 ⟨i, hi, rfl⟩))

/-! The fetch (R29, R30, R72). -/

theorem codeWords_le (c : Nat) : codeWords c ≤ 16384 := by unfold codeWords; split <;> omega

theorem fetch_code {s : State} {h n : Nat} (hpc : (s.hart h).pc = BitVec.ofNat 64 (4 * n)) (hn : n < codeWords (coreOf h)) :
    fetch s h = fetchCode s h n := by
  have hle := codeWords_le (coreOf h)
  have hp : (s.hart h).pc.toNat / 4 = n := by
    rw [hpc, BitVec.toNat_ofNat, Nat.mod_eq_of_lt (by omega)]; omega
  unfold fetch
  simp only [hp, hn, if_true]

theorem fetchCode_executable {s : State} {h n : Nat} (hx : SMap.get false (s.core (coreOf h)).exec n = true) :
    fetchCode s h n = (s.setHart h { s.hart h with prefetch := refill s (coreOf h) (s.core (coreOf h)) (s.hart h) n },
      .word (codeWord s (coreOf h) n) (SMap.get false (s.core (coreOf h)).signed n)) := by
  unfold fetchCode
  simp only [hx, if_true]

theorem fetchCode_unlisted {s : State} {h n : Nat} (hx : SMap.get false (s.core (coreOf h)).exec n = false)
    (hp : (s.hart h).prefetch = []) : fetchCode s h n = (s, .fault) := by
  unfold fetchCode
  simp only [hx, hp, Bool.false_eq_true, if_false, List.find?_nil]

theorem step_idle {s : State} (ha : s.agenda = []) (hf : (hartsOf (coreOf s.cur)).any (fresh s) = true) :
    step s = issueAt s s.cur := by
  unfold step
  rw [ha]
  change idle s = _
  unfold idle
  rw [if_pos hf]

theorem step_turn {s : State} {t : Turn} {r : List Turn} (ha : s.agenda = t :: r) : step s = takeTurn { s with agenda := r } t := by
  unfold step
  rw [ha]

theorem step_agent {s : State} {i : Instr} {r : List Turn} (ha : s.agenda = .step i :: r) :
    (encode i = [] → step s = exec i { s with agenda := r }) ∧ (encode i ≠ [] → step s = .next { s with agenda := r }) := by
  rw [step_turn ha]
  exact ⟨fun h => if_pos (List.isEmpty_iff.2 h), fun h => if_neg (mt List.isEmpty_iff.1 h)⟩

/-- Settles O57: a turn goes to the hart that is next, whose word is fetched or taken from the queue and met in the order of R105. -/
theorem stepRunsWord : Obligations.StepRunsWord := by
  refine ⟨fun s ha hf => ?_, fun s k r ha => ?_, fun s h => ⟨pick_mordant, fun hm ht => ⟨pick_turn hm, fun i hi => pick_next hm ht hi⟩⟩,
    fun s => ⟨fun n hpc hn hx => ?_, fun n hn hx hh hp hpc => ?_, fun i r => step_agent, fun k r ha => step_turn ha, fun l r ha => step_turn ha⟩⟩
  · rw [step_idle ha hf, issueAt_eq]
    exact issue_runsWord _
  · rw [step_turn ha]
    exact issue_runsWord _
  · refine ⟨_, (fetch_code hpc hn).trans (fetchCode_executable hx), rfl, rfl, rfl, fun k hk => State.setHart_hart_ne _ _ _ hk, _, State.setHart_hart_same _ _ _⟩
  · have hc : coreOf s.cur < 8192 := by unfold coreOf; rw [if_pos hh]; omega
    rw [fetch_code hpc (by unfold codeWords; rw [if_pos hc]; exact hn), fetchCode_unlisted hx hp]

end Sys2Proof.Machine

namespace Sys2Proof.Machine
open Sys2Proof

/-! Jumps and branches (R29, R39, R96). -/

theorem armedW_ok_iff (s : State) (rd : BitVec 5) : armedW s rd = .ok ↔ rd.toNat ∉ s.me.armed := by
  simp [armedW]

theorem armedW_armed {s : State} {rd : BitVec 5} (h : rd.toNat ∈ s.me.armed) : armedW s rd = .trap 30 (BitVec.ofNat 64 rd.toNat) := by
  simp [armedW, need, h, word]

/-- A linking jump: the link is written, then control goes to the target. -/
theorem jumpTo_jumped (rd : BitVec 5) (dest : Word) (a : Arrival) (s : State) :
    Jumped (s.modHart s.cur fun H => H.setX rd.toNat (H.pc + 4)) (jumpTo rd dest a s) dest := retireTo_jumped _ _ _

/-- An offset in halfwords, as the model shifts it and as the base specification writes it. -/
theorem signExtend_shiftLeft_one {n : Nat} (hn : 0 < n) (v : BitVec n) : v.signExtend 64 <<< 1 = (v ++ 0#1).signExtend 64 := by
  apply BitVec.eq_of_getLsbD_eq
  intro i hi
  rw [BitVec.getLsbD_signExtend, BitVec.getLsbD_shiftLeft, BitVec.getLsbD_signExtend, BitVec.getLsbD_append, BitVec.msb_append]
  cases i with
  | zero => simp
  | succ i =>
    have hi' : i < 64 := by omega
    have hn' : n ≠ 0 := by omega
    simp [hi', hn']

/-- The word an address lies in, and the byte of it. -/
theorem toNat_mod_four (t : Word) : t.toNat % 4 = (t.getLsbD 0).toNat + 2 * (t.getLsbD 1).toNat := by
  simp only [BitVec.getLsbD, Nat.testBit_eq_decide_div_mod_eq]
  by_cases h0 : t.toNat / 2 ^ 0 % 2 = 1 <;> by_cases h1 : t.toNat / 2 ^ 1 % 2 = 1 <;> simp only [h0, h1, decide_true, decide_false, Bool.toNat_true, Bool.toNat_false] <;> omega

/-- A JALR target, whose bit 0 is clear, is a multiple of 4 where its bit 1 is clear. -/
theorem jalr_aligned_iff (v : Word) : (v &&& ~~~1#64).toNat % 4 = 0 ↔ bit (v &&& ~~~1#64) 1 = false := by
  have h0 : (v &&& ~~~1#64).getLsbD 0 = false := by simp
  rw [toNat_mod_four, h0, bit]
  cases (v &&& ~~~1#64).getLsbD 1 <;> decide

theorem jumps : Spec.jumps := by
  intro s rd rs1 off imm hrd
  extract_lets target linked
  have ha : armedW s rd = .ok := (armedW_ok_iff s rd).2 hrd
  have hjalr : exec (.jalr rd rs1 imm) s = finish s (.all [need (!bit target 1) 0 target, armedW s rd]) (jumpTo rd target .indirect s) := rfl
  refine ⟨⟨_, ?_, jumpTo_jumped rd _ .direct s⟩, fun ht => ⟨_, ?_, jumpTo_jumped rd target .indirect s⟩, fun ht => ?_⟩
  · rw [← signExtend_shiftLeft_one (by omega)]
    change finish s (armedW s rd) (jumpTo rd (s.me.pc + offJ off) .direct s) = _
    rw [ha]; rfl
  · rw [hjalr, (jalr_aligned_iff _).1 ht, ha]; rfl
  · have hb : bit target 1 = true := Bool.eq_true_of_not_eq_false (mt (jalr_aligned_iff _).2 ht)
    rw [hjalr, hb]
    exact finish_trap_none s _ 0 target

/-- A branch, taken or not. -/
theorem branch_spec (taken : Bool) (off : BitVec 12) (s : State) :
    ∃ t, branch taken off s = .next t ∧ (if taken then Jumped s t (s.me.pc + (off ++ 0#1).signExtend 64) else Retired s t) := by
  rw [← signExtend_shiftLeft_one (by omega)]
  cases taken with
  | true => exact ⟨_, rfl, retireTo_jumped s _ .direct⟩
  | false => exact ⟨_, rfl, retire_retired s⟩

theorem branches : Spec.branches := by
  intro i s taken off h
  unfold Spec.branchTaken at h
  split at h <;> simp only [Option.some.injEq, Prod.mk.injEq, reduceCtorEq] at h
  all_goals obtain ⟨rfl, rfl⟩ := h
  case h_1 a b off => exact branch_spec _ off s
  case h_2 a b off => exact branch_spec _ off s
  case h_3 a b off => exact branch_spec _ off s
  case h_4 a b off =>
    rw [show decide ((s.x b).toInt ≤ (s.x a).toInt) = !(s.x a).slt (s.x b) by simp [BitVec.slt, ← decide_not]]
    exact branch_spec _ off s
  case h_5 a b off => exact branch_spec _ off s
  case h_6 a b off =>
    rw [show decide ((s.x b).toNat ≤ (s.x a).toNat) = !(s.x a).ult (s.x b) by simp [BitVec.ult, ← decide_not]]
    exact branch_spec _ off s

/-- Settles O3: each form ends in its retirement to a target or in sequence, whose effects `retireTo_jumped` and `retire_retired` say. -/
theorem controlTransfers : Obligations.ControlTransfers := ⟨jumps, branches⟩



/-! Base loads and stores: the two operations behind their forms (R88, R89, R226). -/

/-- A load form, by its destination, file, address, size and extension, is one operation of the model. -/
theorem exec_loadForm {i : Instr} {s : State} {rd : BitVec 5} {fp : Bool} {a : Word} {n : Nat} {signed : Bool}
    (h : Spec.loadForm s i = some (rd, fp, a, n, signed)) :
    exec i s = loadInstr (accessPre s a n false true) (if fp then none else some rd) (.load rd.toNat fp n signed) a n (.load n) s := by
  unfold Spec.loadForm at h
  split at h <;> simp only [Option.some.injEq, Prod.mk.injEq, reduceCtorEq] at h
  all_goals
    obtain ⟨rfl, rfl, rfl, rfl, rfl⟩ := h
    rfl

/-- The sizes of the load forms: a double word is of the integer file, and signed. -/
theorem loadForm_size {i : Instr} {s : State} {rd : BitVec 5} {fp : Bool} {a : Word} {n : Nat} {signed : Bool}
    (h : Spec.loadForm s i = some (rd, fp, a, n, signed)) :
    (n = 1 ∨ n = 2 ∨ n = 4 ∨ n = 8) ∧ (fp = true → n = 4) ∧ (n = 8 → signed = true) := by
  unfold Spec.loadForm at h
  split at h <;> simp only [Option.some.injEq, Prod.mk.injEq, reduceCtorEq] at h
  case h_9 rd' a' sc wd =>
    obtain ⟨rfl, rfl, rfl, rfl, rfl⟩ := h
    cases wd <;> decide
  all_goals
    obtain ⟨rfl, rfl, rfl, rfl, rfl⟩ := h
    decide

/-- A store form is one operation of the model, whose checks are those of the access and then those of its release part. -/
theorem exec_storeForm {i : Instr} {s : State} {a : Word} {bytes : List Byte} {rel : Option Nat}
    (h : Spec.storeForm s i = some (a, bytes, rel)) :
    ∃ q, exec i s = storeInstr (.seq (accessPre s a bytes.length true true) q) a bytes s ∧ (Spec.released s i rel → q = .ok) := by
  have hok : ∀ p : Pre, Pre.seq p .ok = p := fun p => by cases p <;> rfl
  unfold Spec.storeForm at h
  split at h <;> simp only [Option.some.injEq, Prod.mk.injEq, reduceCtorEq] at h
  all_goals obtain ⟨rfl, rfl, rfl⟩ := h
  case h_6 a' b' sc wd => exact ⟨releasePre s sc.code, by rw [toBytes_length]; rfl, id⟩
  all_goals exact ⟨.ok, by rw [hok, toBytes_length]; rfl, fun _ => rfl⟩

/-! Addresses that fault (R88). -/

theorem accessPre_misaligned {s : State} {a : Word} {n : Nat} {write win : Bool} (h : a.toNat % n ≠ 0) :
    accessPre s a n write win = .trap (if write then 6 else 4) a := by
  have ha : alignPre a n write = .trap (if write then 6 else 4) a := by simp [alignPre, need, h]
  unfold accessPre
  rw [Pre.all, ha]; rfl

/-- No place is there for the access. -/
theorem accessPre_noSpace {s : State} {a : Word} {n : Nat} {write win : Bool} (h : a.toNat % n = 0)
    (hp : placeNow s a = .bad ∨ ∃ t off, placeNow s a = .window t off ∧ windowOk s s.cur t off n write = false) :
    accessPre s a n write win = .trap (if write then 7 else 5) a := by
  have ha : alignPre a n write = .ok := by simp [alignPre, h]
  have hs : spacePre s a n write win = .trap (if write then 7 else 5) a := by
    unfold spacePre
    rcases hp with hp | ⟨t, off, hp, hw⟩
    · rw [hp]; rfl
    · rw [hp]; simp [hw, need]
  unfold accessPre
  rw [Pre.all, ha, Pre.seq, Pre.all, hs]; rfl

theorem loadInstr_trap (rd : Option (BitVec 5)) (kind : HeldKind) (a : Word) (n : Nat) (op : MemOp) (s : State) (c : Nat) (v : Word) :
    loadInstr (.trap c v) rd kind a n op s = .next (takeTrap s s.cur false c v) := finish_trap_none s s c v
theorem storeInstr_trap (q : Pre) (a : Word) (bytes : List Byte) (s : State) (c : Nat) (v : Word) :
    storeInstr (.seq (.trap c v) q) a bytes s = .next (takeTrap s s.cur false c v) := finish_trap_none s s c v

/-- Settles O9: the checks of R88 come before the access, and the first that fails decides. -/
theorem accessFaults : Obligations.AccessFaults := by
  intro i s a
  refine ⟨fun rd fp n signed h => ?_, fun bytes rel h => ?_⟩
  · rw [exec_loadForm h]
    refine ⟨fun hm => ?_, fun hm hp => ?_, fun c off hm hp hw => ?_⟩
    · rw [accessPre_misaligned hm]; exact loadInstr_trap _ _ _ _ _ _ _ _
    · rw [accessPre_noSpace hm (.inl hp)]; exact loadInstr_trap _ _ _ _ _ _ _ _
    · rw [accessPre_noSpace hm (.inr ⟨c, off, hp, hw⟩)]; exact loadInstr_trap _ _ _ _ _ _ _ _
  · obtain ⟨q, he, -⟩ := exec_storeForm h
    rw [he]
    refine ⟨fun hm => ?_, fun hm hp => ?_, fun c off hm hp hw => ?_⟩
    · rw [accessPre_misaligned hm]; exact storeInstr_trap _ _ _ _ _ _
    · rw [accessPre_noSpace hm (.inl hp)]; exact storeInstr_trap _ _ _ _ _ _
    · rw [accessPre_noSpace hm (.inr ⟨c, off, hp, hw⟩)]; exact storeInstr_trap _ _ _ _ _ _


/-! Loads that the own core serves (R27, R39, R89, R164). -/

theorem ofBytes_lt (l : List Byte) : ofBytes l < 2 ^ (8 * l.length) := by
  induction l with
  | nil => simp [ofBytes]
  | cons b r ih =>
    have hb := b.isLt
    rw [ofBytes, List.length_cons, show 8 * (r.length + 1) = 8 * r.length + 8 by omega, pow_add]
    omega

theorem loadN_lt (s : State) (loc n : Nat) : s.loadN loc n < 2 ^ (8 * n) := by
  have h := ofBytes_lt (s.mem.readBytes loc n)
  rwa [Memory.readBytes_length] at h

/-- The number a load gives is the one that stands there. -/
theorem load_value (s : State) (loc n : Nat) : (load s loc n).2.1 = ofBytes (s.mem.readBytes loc n) := by
  change ofBytes ((scrub s loc n false).mem.readBytes loc n) = _
  rw [scrub_mem]

@[simp] theorem load_hart (s : State) (loc n h : Nat) : (load s loc n).1.hart h = s.hart h := by
  change (scrub s loc n false).hart h = s.hart h
  rw [State.hart, scrub_harts]; rfl

/-- A loaded number, as it stands in a vector-wide reply, extends as R39 says. -/
theorem loadValue_extended {n v : Nat} (signed : Bool) (hn : n = 1 ∨ n = 2 ∨ n = 4 ∨ n = 8) (hv : v < 2 ^ (8 * n)) :
    loadValue n signed (BitVec.ofNat 512 v).toNat = Spec.extended n signed v := by
  have hw : (BitVec.ofNat 512 v).toNat % 2 ^ (8 * n) = v := by
    rw [BitVec.toNat_ofNat]
    rcases hn with rfl | rfl | rfl | rfl <;> omega
  unfold loadValue Spec.extended toSigned
  rw [hw]
  cases signed with
  | false => rfl
  | true =>
    by_cases hs : v < 2 ^ (8 * n - 1)
    · rw [if_pos rfl, if_pos hs, if_neg (by simpa using hs)]
      exact BitVec.ofInt_natCast 64 v
    · rw [if_pos rfl, if_neg hs, if_pos (by simpa using hs)]
      rfl

/-- What a load writes to its destination. -/
def loaded (rd : BitVec 5) (fp : Bool) (n : Nat) (signed : Bool) (v : Nat) (H : Hart) : Hart :=
  if fp then H.setF rd.toNat (BitVec.ofNat 32 v) else H.setX rd.toNat (Spec.extended n signed v)

/-- A loaded number lands at once. -/
theorem landNow_load {s : State} {rd : BitVec 5} {fp : Bool} {a : Word} {n v : Nat} {signed : Bool}
    (hn : n = 1 ∨ n = 2 ∨ n = 4 ∨ n = 8) (hv : v < 2 ^ (8 * n)) :
    landNow s (.load rd.toNat fp n signed) a v = .next (retireWith s (loaded rd fp n signed v)) := by
  have hf : (BitVec.ofNat 512 v).setWidth 32 = BitVec.ofNat 32 v := by simp [BitVec.setWidth_ofNat_of_le]
  have hl : land (.load rd.toNat fp n signed) 0 (BitVec.ofNat 512 v) s.me = .ok (loaded rd fp n signed v s.me) := by
    unfold loaded
    rw [← hf, ← loadValue_extended signed hn hv]; rfl
  unfold landNow
  rw [hl]; rfl

/-- What an access served by the own core comes to: the poison it meets, an armed destination, or the number. -/
def nearLoad (s : State) (rd : Option (BitVec 5)) (kind : HeldKind) (a : Word) (r : State × Nat × Option Nat) : Host.Outcome State Fault Refusal :=
  match r, armedD s rd with
  | (s1, _, some _), _ => finish s1 (.trap 27 a) s1
  | (s1, v, none), .ok => landNow s1 kind a v
  | (s1, _, none), q => finish s1 q s1

theorem nearLoad_poisoned {s : State} {rd : Option (BitVec 5)} {kind : HeldKind} {a : Word} {r : State × Nat × Option Nat} {b : Nat}
    (hb : r.2.2 = some b) (hc : r.1.cur = s.cur) : nearLoad s rd kind a r = .next (takeTrap r.1 s.cur false 27 a) := by
  obtain ⟨s1, v, p⟩ := r
  cases hb
  exact (finish_trap_none s1 s1 27 a).trans (by rw [show s1.cur = s.cur from hc])

theorem nearLoad_armed {s : State} {rd : BitVec 5} {kind : HeldKind} {a : Word} {r : State × Nat × Option Nat}
    (hb : r.2.2 = none) (hrd : rd.toNat ∈ s.me.armed) (hc : r.1.cur = s.cur) :
    nearLoad s (some rd) kind a r = .next (takeTrap r.1 s.cur false 30 (BitVec.ofNat 64 rd.toNat)) := by
  obtain ⟨s1, v, p⟩ := r
  cases hb
  unfold nearLoad
  rw [show armedD s (some rd) = _ from armedW_armed hrd]
  exact (finish_trap_none s1 s1 30 _).trans (by rw [show s1.cur = s.cur from hc])

theorem nearLoad_lands {s : State} {rd : BitVec 5} {fp : Bool} {a : Word} {n : Nat} {signed : Bool} {r : State × Nat × Option Nat}
    (hn : n = 1 ∨ n = 2 ∨ n = 4 ∨ n = 8) (hv : r.2.1 < 2 ^ (8 * n)) (hb : r.2.2 = none) (hrd : fp = false → rd.toNat ∉ s.me.armed) (hc : r.1.cur = s.cur) :
    ∃ t, nearLoad s (if fp then none else some rd) (.load rd.toNat fp n signed) a r = .next t ∧
      Retired (r.1.modHart s.cur (loaded rd fp n signed r.2.1)) t := by
  obtain ⟨s1, v, p⟩ := r
  cases hb
  have ha : armedD s (if fp then none else some rd) = .ok := by
    cases fp with
    | true => rfl
    | false => exact (armedW_ok_iff s rd).2 (hrd rfl)
  refine ⟨retireWith s1 (loaded rd fp n signed v), ?_, ?_⟩
  · unfold nearLoad
    rw [ha]
    exact landNow_load hn hv
  · rw [← hc]; exact retireWith_retired s1 _

theorem loadInstr_own {s : State} {a : Word} {off : Nat} (hp : placeNow s a = .own off) (rd : Option (BitVec 5)) (kind : HeldKind) (n : Nat) (op : MemOp) :
    loadInstr .ok rd kind a n op s = nearLoad s rd kind a (load s (Spec.own s off) n) := by
  unfold loadInstr
  rw [hp]; rfl

theorem loadInstr_window {s : State} {a : Word} {off : Nat} (hp : placeNow s a = .window (coreOf s.cur) off) (rd : Option (BitVec 5)) (kind : HeldKind) (n : Nat) (op : MemOp) :
    loadInstr .ok rd kind a n op s = if windowWaits s (coreOf s.cur) off then .next (s.modHart s.cur fun H => { H with stalled := some .issue })
      else nearLoad s rd kind a (windowRead s (coreOf s.cur) off n) := by
  have ho : ownWindow s (coreOf s.cur) = true := by simp [ownWindow]
  unfold loadInstr
  rw [hp]
  simp only [ho, if_true]
  rfl

theorem memoryLoads : Spec.memoryLoads := by
  intro i s rd fp a n off signed h hp hpre r
  have hn := (loadForm_size h).1
  have hc : r.1.cur = s.cur := load_cur _ _ _
  have he : exec i s = nearLoad s (if fp then none else some rd) (.load rd.toNat fp n signed) a r := by
    rw [exec_loadForm h, hpre, loadInstr_own hp]
  rw [he]
  refine ⟨fun b => by rw [load_mem], load_hart s _ n, load_value s _ n, fun hb hrd => ?_, fun hb hfp hrd => ?_, fun b hb => nearLoad_poisoned hb hc⟩
  · exact nearLoad_lands hn (by rw [load_value]; exact loadN_lt s _ n) hb hrd hc
  · subst hfp
    exact nearLoad_armed hb hrd hc

/-- The checks of R88 leave only assigned places of the window. -/
theorem windowOk_of_accessPre {s : State} {a : Word} {n t off : Nat} {write win : Bool} (h : accessPre s a n write win = .ok)
    (hp : placeNow s a = .window t off) : a.toNat % n = 0 ∧ windowOk s s.cur t off n write = true := by
  simp only [accessPre, Pre.all_cons_ok_iff, alignPre, spacePre, need_ok_iff, hp, Bool.and_eq_true, beq_iff_eq] at h
  exact ⟨h.1, h.2.1.2⟩

theorem eight_of_guard {p : Prop} [Decidable p] {n : Nat} {b : Bool} (h : (if p then n == 8 && b else false) = true) : n = 8 := by
  by_cases hp : p
  · rw [if_pos hp, Bool.and_eq_true, beq_iff_eq] at h
    exact h.1
  · rw [if_neg hp] at h
    exact absurd h Bool.false_ne_true

/-- CSRs are accessed by double words. -/
theorem windowOk_csr {s : State} {h t off n : Nat} {write : Bool} (hw : windowOk s h t off n write = true) (ho : 0x20000 ≤ off) : n = 8 := by
  have h1 : ¬ off < 0x8000 := by omega
  have h2 : ¬ (0x10000 ≤ off ∧ off < 0x12000) := by omega
  have h3 : ¬ off < 0x10000 := by omega
  unfold windowOk at hw
  simp only [h1, h2, h3, if_false] at hw
  split at hw
  · exact eight_of_guard hw
  · exact eight_of_guard hw

theorem windowRead_csr {s : State} {t off : Nat} (ho : 0x20000 ≤ off) (n : Nat) :
    windowRead s t off n = (s, (csrRead s (hartAt t ((off - 0x20000) / 0x8000)) (off % 0x8000 / 8)).toNat, none) := if_pos (decide_eq_true ho)
theorem windowRead_memory {s : State} {t off : Nat} (ho : off < 0x20000) (n : Nat) : windowRead s t off n = load s (windowLoc t off) n :=
  if_neg (by simp [isCsrOff]; omega)

/-- A double word loads as it is. -/
theorem extended_double (w : Word) : Spec.extended 8 true w.toNat = w := by
  unfold Spec.extended
  apply BitVec.eq_of_toNat_eq
  have := w.isLt
  split
  · rw [BitVec.toNat_ofInt]; omega
  · simp

theorem loaded_double (rd : BitVec 5) (w : Word) : loaded rd false 8 true w.toNat = fun H => H.setX rd.toNat w := by
  funext H
  exact congrArg (H.setX rd.toNat) (extended_double w)

theorem windowLoads : Spec.windowLoads := by
  intro i s rd fp a n off signed c h hp hpre hrd
  obtain ⟨hn, hfp4, hsigned⟩ := loadForm_size h
  have he := exec_loadForm h
  rw [hpre, loadInstr_window hp] at he
  rw [he]
  refine ⟨fun hw => if_pos hw, fun hw => ?_⟩
  rw [if_neg (by rw [show windowWaits s (coreOf s.cur) off = false from hw]; exact Bool.false_ne_true)]
  refine ⟨fun ho => ?_, fun ho => ?_⟩
  · have h8 : n = 8 := windowOk_csr (windowOk_of_accessPre hpre hp).2 ho
    subst h8
    have hfp : fp = false := by cases fp with
      | false => rfl
      | true => exact absurd (hfp4 rfl) (by decide)
    subst hfp
    rw [hsigned rfl, windowRead_csr ho]
    rw [← loaded_double]
    exact ⟨rfl, nearLoad_lands hn (BitVec.isLt _) rfl hrd rfl⟩
  · intro r
    rw [windowRead_memory ho]
    exact ⟨load_value s _ n, fun hb => nearLoad_lands hn (by rw [load_value]; exact loadN_lt s _ n) hb hrd (load_cur _ _ _)⟩

/-- Settles O4: own memory by `load`, the window by `windowRead`; both land as `nearLoad` says. -/
theorem ownLoads : Obligations.OwnLoads := ⟨memoryLoads, windowLoads⟩


/-! Stores that the own core serves (R27, R30, R89, R91, R164). -/

/-- Hart 33280 is no hart of the package, which has 33,280 (R4); its core would be 8704, whose code locations are those of core
8192. Word 0 of its code is executable, and x6 is the window's address of that word. -/
def beyondHart : State :=
  (({ State.reset with cur := 33280 }).modCore 8704 fun C => { C with exec := [(0, true)] }).modHart 33280 fun H =>
    H.setX 6 0xC000000000000000

/-- What the store of a byte leaves of the executable words of core 8704. -/
def beyondExec : Host.Outcome State Fault Refusal → Bool
  | .next t => SMap.get false (t.core 8704).exec 0
  | _ => false

theorem beyondExec_store : beyondExec (exec (.sb 6 0 0) beyondHart) = true := by decide

/-- Refutes O5: the statement binds no hart number, and the store of hart 33280, which no package has, to word 0 of its core
8704 takes the executable mark from core 8192, whose location that is. -/
theorem not_ownStores : ¬ Obligations.OwnStores := by
  rintro ⟨-, hw⟩
  obtain ⟨-, h⟩ := hw (.sb 6 0 0) beyondHart 0xC000000000000000 [0] none 0 (by decide) (by decide) (by decide) trivial
  obtain ⟨-, h⟩ := h (by decide)
  obtain ⟨u, t, he, hr, -, -, hx, -⟩ := h (by decide)
  have ht : SMap.get false (u.core 8704).exec 0 = true := by
    have h1 := beyondExec_store
    rw [he] at h1
    rw [State.core, ← hr.device.cores]
    exact h1
  have hf : SMap.get false (u.core 8704).exec 0 = false := hx 0 (by decide) (by decide)
  exact absurd (ht.symm.trans hf) (by decide)

end Sys2Proof.Machine

namespace Sys2Proof.Machine
open Sys2Proof

/-! What holds of these stores: own memory for every hart, the window for every hart of the package. -/

/-- `t` is `s` but for reservations, and the hart that writes keeps its own. -/
def LosesResv (wr : Option Nat) (s t : State) : Prop :=
  ∀ h, t.hart h = { s.hart h with resv := (t.hart h).resv } ∧ (wr = some h → t.hart h = s.hart h)

theorem LosesResv.of_harts {wr : Option Nat} {s t : State} (h : t.harts = s.harts) : LosesResv wr s t := fun k => by
  have hk : t.hart k = s.hart k := by rw [State.hart, h]; rfl
  exact ⟨by rw [hk], fun _ => hk⟩
theorem LosesResv.trans {wr : Option Nat} {s t u : State} (h1 : LosesResv wr s t) (h2 : LosesResv wr t u) : LosesResv wr s u := fun k => by
  obtain ⟨a1, b1⟩ := h1 k
  obtain ⟨a2, b2⟩ := h2 k
  exact ⟨by rw [a2, a1], fun hk => (b2 hk).trans (b1 hk)⟩
theorem LosesResv.foldl {α : Type} {wr : Option Nat} {f : State → α → State} (hf : ∀ s a, LosesResv wr s (f s a)) (l : List α) :
    ∀ s, LosesResv wr s (l.foldl f s) := by
  induction l with
  | nil => exact fun s => .of_harts rfl
  | cons a l ih => exact fun s => (hf s a).trans (ih _)

theorem losesResv_loseResv (s : State) (wr : Option Nat) (loc n : Nat) : LosesResv wr s (loseResv s wr loc n) := by
  unfold loseResv
  split
  · refine LosesResv.foldl (fun s k => ?_) _ _
    split
    · exact .of_harts rfl
    · next hne =>
      split
      · split
        · intro h
          by_cases hk : h = k
          · subst hk
            rw [State.modHart_hart_same]
            exact ⟨rfl, fun e => absurd e hne⟩
          · rw [State.modHart_hart_ne _ _ _ hk]
            exact ⟨rfl, fun _ => rfl⟩
        · exact .of_harts rfl
      · exact .of_harts rfl
  · exact .of_harts rfl

theorem poisonWrite_harts (s : State) (l n : Nat) (p : Bool) : (poisonWrite s l n p).harts = s.harts := by
  unfold poisonWrite
  split
  · rfl
  · split
    · exact foldl_keeps State.harts _ (fun s _ => foldl_keeps State.harts (fun s g => s.setPoi g _) (fun _ _ => rfl) _ s) _ _
    · exact foldl_keeps State.harts _ (fun _ _ => by unfold poisonPad; split <;> rfl) _ _

/-- R91: of the harts a store changes only reservations, and not the writer's own. -/
theorem losesResv_store (s : State) (wr : Option Nat) (loc : Nat) (bytes : List Byte) (p : Bool) : LosesResv wr s (store s wr loc bytes p) := by
  have hd : ∀ (t : State) (n : Nat), (dirtyCode t loc n).harts = t.harts := fun t n => by unfold dirtyCode; split <;> rfl
  unfold store
  extract_lets n s1 s2
  have h2 : (poisonWrite s2 loc n p).harts = s.harts := (poisonWrite_harts _ _ _ _).trans (scrub_harts _ _ _ _)
  exact ((LosesResv.of_harts h2).trans (losesResv_loseResv _ wr loc n)).trans (.of_harts (hd _ _))

theorem store_me (s : State) (loc : Nat) (bytes : List Byte) (p : Bool) : (store s (some s.cur) loc bytes p).me = s.me := by
  rw [State.me, store_cur]
  exact (losesResv_store s (some s.cur) loc bytes p s.cur).2 rfl

theorem retire_store (s : State) (loc : Nat) (bytes : List Byte) (p : Bool) :
    Retired (store s (some s.cur) loc bytes p) (retire (store s (some s.cur) loc bytes p) s.cur) := by
  have h := retire_retired (store s (some s.cur) loc bytes p)
  rwa [store_cur] at h

theorem storeInstr_own {s : State} {a : Word} {off : Nat} (hp : placeNow s a = .own off) (bytes : List Byte) :
    storeInstr .ok a bytes s = .next (retire (store s (some s.cur) (Spec.own s off) bytes false) s.cur) := by
  unfold storeInstr
  rw [hp]; rfl

theorem storeInstr_window {s : State} {a : Word} {off : Nat} (hp : placeNow s a = .window (coreOf s.cur) off) (bytes : List Byte) :
    storeInstr .ok a bytes s = if windowWaits s (coreOf s.cur) off then .next (s.modHart s.cur fun H => { H with stalled := some .issue })
      else .next (retire (windowWrite s s.cur (coreOf s.cur) off bytes) s.cur) := by
  have ho : ownWindow s (coreOf s.cur) = true := by simp [ownWindow]
  unfold storeInstr
  rw [hp]
  simp only [ho, if_true]
  rfl

/-- The half of O5 that is about own memory holds. -/
theorem memoryStores : Spec.memoryStores := by
  intro i s a bytes rel off h hp hpre hrel
  obtain ⟨q, he, hq⟩ := exec_storeForm h
  rw [hpre, hq hrel, Pre.seq, storeInstr_own hp] at he
  refine ⟨store s (some s.cur) (Spec.own s off) bytes false, _, he, retire_store _ _ _ _, ?_, fun k => store_outside s _ _ _ _ k,
    store_me s _ _ _, fun k => (losesResv_store s _ _ _ _ k).1, store_net _ _ _ _ _, store_pkg _ _ _ _ _, store_dies _ _ _ _ _⟩
  rw [store_mem]; exact Memory.readBytes_writeBytes _ _ _

/-- Where stores may go in a core's window: its code, and its CSRs. -/
theorem windowOk_write {s : State} {h t off n : Nat} (hw : windowOk s h t off n true = true) (ho : off < 0x20000) :
    off < if t < 8192 then 0x8000 else 0x10000 := by
  have h2 : ¬ (0x20000 ≤ off ∧ off < 0x40000) := by omega
  have h3 : ¬ (0x20000 ≤ off ∧ off < 0x28000) := by omega
  unfold windowOk at hw
  simp only [h2, h3, if_false, isWorker, decide_eq_true_eq, Bool.not_true, ite_self] at hw
  by_cases ht : t < 8192
  · rw [if_pos ht] at hw ⊢
    by_contra hx
    exact absurd hw (by rw [if_neg hx]; exact Bool.false_ne_true)
  · rw [if_neg ht] at hw ⊢
    by_contra hx
    exact absurd hw (by rw [if_neg hx]; exact Bool.false_ne_true)

/-- The other half of O5 for a hart of the package (R4): the store goes to its own core's code. -/
theorem windowStores_of_device {i : Instr} {s : State} {a : Word} {bytes : List Byte} {rel : Option Nat} {off : Nat} (hcur : s.cur < 33280)
    (h : Spec.storeForm s i = some (a, bytes, rel)) (hp : placeNow s a = .window (coreOf s.cur) off)
    (hpre : accessPre s a bytes.length true true = .ok) (hrel : Spec.released s i rel)
    (hw : windowWaits s (coreOf s.cur) off = false) (ho : off < 0x20000) :
    ∃ u t : State, exec i s = .next t ∧ Retired u t ∧
      u.mem.readBytes (windowLoc (coreOf s.cur) off) bytes.length = bytes ∧ SameOutside s u (windowLoc (coreOf s.cur) off) bytes.length ∧
      (∀ k, off / 4 ≤ k → 4 * k < off + bytes.length → SMap.get false (u.core (coreOf s.cur)).exec k = false) ∧ u.me = s.me ∧ u.net = s.net := by
  obtain ⟨q, he, hq⟩ := exec_storeForm h
  rw [hpre, hq hrel, Pre.seq, storeInstr_window hp, hw, if_neg Bool.false_ne_true] at he
  have hs : windowWrite s s.cur (coreOf s.cur) off bytes = store s (some s.cur) (windowLoc (coreOf s.cur) off) bytes false :=
    if_neg (by rw [isCsrOff, decide_eq_true_eq]; omega)
  rw [hs] at he
  have hc : coreOf s.cur < 8704 := by unfold coreOf; split <;> omega
  refine ⟨store s (some s.cur) (windowLoc (coreOf s.cur) off) bytes false, _, he, retire_store _ _ _ _, ?_, fun k => store_outside s _ _ _ _ k,
    fun k h1 h2 => ?_, store_me s _ _ _, store_net _ _ _ _ _⟩
  · rw [store_mem]; exact Memory.readBytes_writeBytes _ _ _
  · rw [windowLoc_eq_codeLoc, store_exec s _ bytes false hc (windowOk_write (windowOk_of_accessPre hpre hp).2 ho), if_pos ⟨h1, h2⟩]

end Sys2Proof.Machine

namespace Sys2Proof.Machine
open Sys2Proof

/-! Messages and migration (R15, R35, R288 to R304, R311): the clauses of O39 that hold, and the one that does not.

Sending (R15, R35). -/

theorem find?_del_same {α : Type} (m : SMap α) (k : Nat) : SMap.find? (SMap.del m k) k = none := by
  induction m with
  | nil => rfl
  | cons p r ih =>
    obtain ⟨j, w⟩ := p
    by_cases h : j = k <;> simp [SMap.del, SMap.find?, h, ih]

/-- A packet at a router takes its place: among paths and the ports of links nothing else changes. -/
theorem stand_eq (s : State) (p : Packet) (r : Nat) : ∃ paths links, stand s p r = { s with paths := paths, links := links } := by
  unfold stand
  extract_lets t
  split
  · exact ⟨_, s.links, rfl⟩
  · exact ⟨_, _, rfl⟩

theorem stand_here {s : State} {p : Packet} {r : Nat} (h : destRouter s p r = r) :
    SMap.find? (stand s p r).paths p.id = none ∧ (stand s p r).links = s.links := by
  unfold stand
  rw [h, if_pos rfl]
  exact ⟨find?_del_same _ _, rfl⟩

theorem stand_port {s : State} {p : Packet} {r l : Nat} (h : destRouter s p r ≠ r) (hl : nextPort s r (destRouter s p r) (planeOf p.body) = some l) :
    SMap.find? (stand s p r).paths p.id = some l ∧ ∀ k, k ≠ l → linkOf (stand s p r) k = linkOf s k := by
  unfold stand
  rw [if_neg h, hl]
  exact ⟨SMap.find?_put_same _ _ _, fun k hk => SMap.get_put_ne _ _ _ hk⟩

/-- Routes do not depend on the packets in flight. -/
theorem destRouter_net (s : State) (l : List Packet) (n : Nat) (p : Packet) (r : Nat) :
    destRouter { s with net := l, nextId := n } p r = destRouter s p r := rfl

theorem sendingAdds : Spec.sendingAdds := by
  intro s slot key b p q
  refine ⟨?_, ?_, fun r => ⟨fun h => ?_, fun h hr => ?_⟩⟩
  · exact stand_eq { s with net := s.net ++ [p], nextId := s.nextId + 1 } p (senderRouter s.cur)
  · exact stand_eq { s with net := s.net ++ [q], nextId := s.nextId + 1 } q (senderRouter s.cur)
  · exact stand_here (s := { s with net := s.net ++ [q], nextId := s.nextId + 1 }) (p := q) h
  · exact stand_port (s := { s with net := s.net ++ [q], nextId := s.nextId + 1 }) (p := q) h hr

/-! ARM (R292, R294). -/

theorem retire_hart_ne (s : State) {k : Nat} (h : k ≠ s.cur) : (retire s s.cur).hart k = s.hart k := (retire_retired s).others k h

theorem retire_armed (s : State) : ((retire s s.cur).hart s.cur).armed = s.me.armed := by
  have h : (retire s s.cur).me.armed = s.me.armed := by rw [(retire_retired s).rest]
  exact h

/-- Retirement keeps the armed registers, and does not look at them. -/
theorem SameButRetire.armed {H T : Hart} (h : SameButRetire H T) (l : List Nat) : SameButRetire { H with armed := l } { T with armed := l } := by
  unfold SameButRetire at h ⊢
  rw [h]
  rfl

theorem retired_arm (s : State) (r : Nat) :
    Retired (s.modHart s.cur fun H => { H with armed := H.armed ++ [r] })
      ((retire s s.cur).modHart s.cur fun H => { H with armed := H.armed ++ [r] }) := by
  obtain ⟨hdev, hmem, hoth, hregs, hrest, hpc⟩ := retire_retired s
  have hS : (s.modHart s.cur fun H => { H with armed := H.armed ++ [r] }).me = { s.me with armed := s.me.armed ++ [r] } := State.modHart_me s _
  have hT : ((retire s s.cur).modHart s.cur fun H => { H with armed := H.armed ++ [r] }).me =
      { (retire s s.cur).me with armed := s.me.armed ++ [r] } := by
    refine (State.modHart_me (retire s s.cur) _).trans ?_
    rw [show (retire s s.cur).me.armed = s.me.armed from retire_armed s]
  refine ⟨⟨hdev.cores, hdev.clusters, hdev.dies, hdev.pkg, hdev.gran, hdev.net, hdev.nextId, hdev.paths, hdev.links, hdev.agenda, hdev.cur, hdev.free⟩,
    hmem, fun k hk => ?_, ?_, ?_, ?_⟩
  · have hk' : k ≠ s.cur := hk
    rw [State.modHart_hart_ne _ _ _ hk', State.modHart_hart_ne _ _ _ hk']
    exact hoth k hk'
  · rw [hS, hT]
    exact fun q n hn => hregs q n hn
  · rw [hS, hT]
    exact hrest.armed _
  · rw [hS, hT]
    exact hpc

/-- No result and no commit is on its way to a register. -/
theorem arm_ready_iff (H : Hart) (r : Nat) :
    (H.commit != some r && !H.pend.any fun p => p.file == .x && p.reg == r) = true ↔
      H.commit ≠ some r ∧ ∀ p ∈ H.pend, ¬(p.file = .x ∧ p.reg = r) := by
  simp

theorem exec_arm {s : State} {rd : BitVec 5} (h0 : rd.toNat ≠ 0) :
    exec (.arm rd) s = finish s (ready (s.me.commit != some rd.toNat && !s.me.pend.any fun p => p.file == .x && p.reg == rd.toNat))
      (armReg (retire s s.cur) s.cur rd.toNat) := if_neg h0

theorem exec_arm_clear {s : State} {rd : BitVec 5} (h0 : rd.toNat ≠ 0)
    (hc : s.me.commit ≠ some rd.toNat ∧ ∀ p ∈ s.me.pend, ¬(p.file = .x ∧ p.reg = rd.toNat)) :
    exec (.arm rd) s = .next (armReg (retire s s.cur) s.cur rd.toNat) := by
  rw [exec_arm h0, (arm_ready_iff s.me rd.toNat).2 hc]; rfl

theorem armReg_armed {s : State} {h r : Nat} (ha : r ∈ (s.hart h).armed) : armReg s h r = s := by
  unfold armReg
  rw [if_pos (List.contains_iff_mem.2 ha)]

theorem armReg_arms {s : State} {h r : Nat} (ha : r ∉ (s.hart h).armed) (hd : heldDeposit s h r = none) :
    armReg s h r = s.modHart h fun H => { H with armed := H.armed ++ [r] } := by
  unfold armReg
  rw [if_neg (mt List.contains_iff_mem.1 ha), hd]

/-- R294: the oldest held deposit lands, and its acknowledgement goes back. -/
theorem armReg_takes {s : State} {h r : Nat} {p : Packet} {n : Nat} {v : Word} (ha : r ∉ (s.hart h).armed)
    (hd : heldDeposit s h r = some p) (hp : p.body = .deposit n v) :
    armReg s h r = putBackAt ((s.modCore (coreOf h) fun C => { C with deposits := C.deposits.filter fun q => q.id != p.id }).modHart h
      fun H => landX H r v) (ackOf p) (cluOfHart h) := by
  unfold armReg
  rw [if_neg (mt List.contains_iff_mem.1 ha), hd]
  simp only [hp]

@[simp] theorem putBackAt_harts (s : State) (p : Packet) (r : Nat) : (putBackAt s p r).harts = s.harts := stand_harts _ _ _
@[simp] theorem putBackAt_cores (s : State) (p : Packet) (r : Nat) : (putBackAt s p r).cores = s.cores := stand_cores _ _ _
@[simp] theorem putBackAt_mem (s : State) (p : Packet) (r : Nat) : (putBackAt s p r).mem = s.mem := stand_mem _ _ _
@[simp] theorem putBackAt_cur (s : State) (p : Packet) (r : Nat) : (putBackAt s p r).cur = s.cur := stand_cur _ _ _
@[simp] theorem putBackAt_net (s : State) (p : Packet) (r : Nat) : (putBackAt s p r).net = s.net ++ [p] := stand_net _ _ _
@[simp] theorem putBackAt_hart (s : State) (p : Packet) (r k : Nat) : (putBackAt s p r).hart k = s.hart k := by
  rw [State.hart, putBackAt_harts]; rfl
@[simp] theorem putBackAt_core (s : State) (p : Packet) (r k : Nat) : (putBackAt s p r).core k = s.core k := by
  rw [State.core, putBackAt_cores]; rfl

theorem landX_armed (H : Hart) (r : Nat) (v : Word) : (landX H r v).armed = H.armed := by
  unfold landX
  rw [Hart.setX_rest]

theorem arming : Spec.arming := by
  intro s rd r clear
  refine ⟨fun h => ?_, fun h0 hc => ?_, fun h0 hc ha => ⟨fun hd => ?_, fun p n v hd hp => ?_⟩⟩
  · rcases h with h0 | ⟨hc, ha⟩
    · exact ⟨_, if_pos h0, retire_retired s⟩
    · by_cases h0 : rd.toNat = 0
      · exact ⟨_, if_pos h0, retire_retired s⟩
      · rw [exec_arm_clear h0 hc, armReg_armed (by rw [retire_armed]; exact ha)]
        exact ⟨_, rfl, retire_retired s⟩
  · rw [exec_arm h0, Bool.eq_false_iff.2 (mt (arm_ready_iff s.me rd.toNat).1 hc)]; rfl
  · rw [exec_arm_clear h0 hc, armReg_arms (s := retire s s.cur) (by rw [retire_armed]; exact ha) hd]
    exact ⟨_, rfl, retired_arm s _⟩
  · rw [exec_arm_clear h0 hc, armReg_takes (s := retire s s.cur) (by rw [retire_armed]; exact ha) hd hp]
    have hme : ((putBackAt (((retire s s.cur).modCore (coreOf s.cur) fun C => { C with deposits := C.deposits.filter fun q => q.id != p.id }).modHart s.cur
        fun H => landX H rd.toNat v) (ackOf p) (cluOfHart s.cur))).me = landX (retire s s.cur).me rd.toNat v := by
      rw [State.me, putBackAt_hart, putBackAt_cur]
      exact State.modHart_hart_same _ _ _
    refine ⟨_, rfl, ?_, ?_, putBackAt_net _ _ _, ?_, fun a => by rw [putBackAt_mem]; rfl, fun k hk => ?_⟩
    · rw [hme]; exact Hart.getX_setX_same _ h0 v
    · rw [hme, landX_armed]; exact retire_armed s
    · rw [putBackAt_core, State.modHart_core, State.modCore_core_same]; rfl
    · rw [putBackAt_hart, State.modHart_hart_ne _ _ _ hk]
      exact retire_hart_ne s hk

/-! MSGRET (R303, R304). -/

theorem bit_setBit (w : Word) (n : Nat) (hn : n < 64) (b : Bool) : bit (setBit w n b) n = b := by
  unfold setBit bit
  cases b <;> simp [hn]

theorem landX_getX (H : Hart) (r k : Nat) (v : Word) : (landX H r v).getX k = (H.setX r v).getX k := rfl
theorem landX_getReg {q : RFile} (hq : q ≠ .x) (H : Hart) (r k : Nat) (v : Word) : (landX H r v).getReg q k = H.getReg q k :=
  getReg_setX H q k r v fun e => hq (congrArg Prod.fst e)

/-- The four registers a handler's entry takes have their values again; the others stay. -/
theorem handlerRegs_restored (H : Hart) (a b c d : Word) :
    let T := landX (landX (landX (landX H 28 a) 29 b) 30 c) 31 d
    T.getX 28 = a ∧ T.getX 29 = b ∧ T.getX 30 = c ∧ T.getX 31 = d ∧ (∀ n, n < 28 → T.getX n = H.getX n) ∧
      ∀ q, q ≠ .x → ∀ n, T.getReg q n = H.getReg q n := by
  intro T
  have key : ∀ k, T.getX k = if k = 31 then d else if k = 30 then c else if k = 29 then b else if k = 28 then a else H.getX k := by
    intro k
    simp only [T, landX_getX, Hart.getX_setX]
    simp
  refine ⟨by simp [key], by simp [key], by simp [key], by simp [key], fun n hn => ?_, fun q hq n => ?_⟩
  · rw [key, if_neg (by omega), if_neg (by omega), if_neg (by omega), if_neg (by omega)]
  · simp only [T, landX_getReg hq]

/-- The registers MSGRET leaves: none on a hart that was free, else those of the interrupted work. -/
theorem leaveHandler_regs (H : Hart) (r : HandlerRun) :
    (r.wasFree = true → (leaveHandler H r).free = true ∧ ∀ n, (leaveHandler H r).getX n = 0) ∧
    (r.wasFree = false → (leaveHandler H r).getX 28 = r.x28 ∧ (leaveHandler H r).getX 29 = r.x29 ∧ (leaveHandler H r).getX 30 = r.x30 ∧
      (leaveHandler H r).getX 31 = r.x31 ∧ (∀ n, n < 28 → (leaveHandler H r).getX n = H.getX n) ∧
      ∀ q, q ≠ .x → ∀ n, (leaveHandler H r).getReg q n = H.getReg q n) := by
  refine ⟨fun hf => ?_, fun hf => ?_⟩
  · unfold leaveHandler
    rw [hf]
    refine ⟨rfl, fun n => ?_⟩
    cases n <;> rfl
  · obtain ⟨h28, h29, h30, h31, hlow, hreg⟩ := handlerRegs_restored H r.x28 r.x29 r.x30 r.x31
    unfold leaveHandler
    rw [hf]
    refine ⟨h28, h29, h30, h31, hlow, fun q hq n => (getReg_congr ?_ ?_ ?_ ?_ q n).trans (hreg q hq n)⟩ <;> rfl

/-- Leaving a handler restores where the interrupted work stood. -/
theorem leaveHandler_place (H : Hart) (r : HandlerRun) :
    (leaveHandler H r).handler = none ∧ (leaveHandler H r).pc = r.pc ∧ (leaveHandler H r).chk = r.chk ∧ leBit (leaveHandler H r).csr = r.le := by
  unfold leaveHandler
  exact ⟨rfl, rfl, rfl, bit_setBit _ 4 (by decide) _⟩

theorem getX_of_getReg {H T : Hart} {n : Nat} (h : T.getReg .x n = H.getReg .x n) : T.getX n = H.getX n := by
  have h64 := congrArg (BitVec.setWidth 64) h
  simpa [Hart.getReg] using h64

theorem returns : Spec.returns := by
  intro s c
  refine ⟨fun r hr hv => ?_, fun hr hm => ?_, fun hr hm => ?_⟩
  · have he : exec .msgret s = .next ((freeInSlot (retire s s.cur) c r.inslot).modHart s.cur fun H => leaveHandler H r) := by
      change execMsgret s = _
      unfold execMsgret
      simp only [hr]
      rfl
    have hme : ((freeInSlot (retire s s.cur) c r.inslot).modHart s.cur fun H => leaveHandler H r).me = leaveHandler (retire s s.cur).me r :=
      State.modHart_hart_same _ _ _
    have hregs : ∀ q n, (retire s s.cur).me.getReg q n = s.me.getReg q n := fun q n =>
      (retire_retired s).regs q n (by simp [countsPasses, hv])
    obtain ⟨hh, hpc, hchk, hle⟩ := leaveHandler_place (retire s s.cur).me r
    obtain ⟨hfree, hbusy⟩ := leaveHandler_regs (retire s s.cur).me r
    refine ⟨_, he, by rw [hme, hh], by rw [hme, hpc], by rw [hme, hchk], by rw [hme, hle], ?_, fun _ => rfl, fun k hk => ?_, rfl,
      fun hf => by rw [hme]; exact hfree hf, fun hf => ?_⟩
    · rw [State.modHart_core, freeInSlot, State.modCore_core_same]
      exact find?_del_same _ _
    · rw [State.modHart_hart_ne _ _ _ hk]
      exact retire_hart_ne s hk
    · rw [hme]
      obtain ⟨h28, h29, h30, h31, hlow, hreg⟩ := hbusy hf
      exact ⟨h28, h29, h30, h31, fun n hn => (hlow n hn).trans (getX_of_getReg (hregs .x n)), fun q hq n => (hreg q hq n).trans (hregs q n)⟩
  · refine ⟨_, ?_, retire_retired s⟩
    change execMsgret s = _
    unfold execMsgret
    simp only [hr, hm]
    rfl
  · refine ⟨_, ?_, retire_retired s⟩
    change execMsgret s = _
    unfold execMsgret
    simp only [hr, hm]
    rfl

/-! MIGRATE (R311): what of its hart the steps before its end leave, and the context that it sends. -/

theorem unbindAll_rest (H : Hart) : ∃ v st, unbindAll H = { H with v := v, streams := st, bq := [] } := by
  have key : ∀ (l : SMap Stream) (H : Hart), ∃ v st, l.foldl (fun H e => unbind H e.1) H = { H with v := v, streams := st } := by
    intro l
    induction l with
    | nil => exact fun H => ⟨H.v, H.streams, rfl⟩
    | cons e l ih =>
      intro H
      obtain ⟨v, st, h⟩ := ih (unbind H e.1)
      exact ⟨v, st, h⟩
  obtain ⟨v, st, h⟩ := key H.streams H
  refine ⟨v, st, ?_⟩
  change { H.streams.foldl (fun H e => unbind H e.1) H with bq := [] } = _
  rw [h]

theorem landX_rest (H : Hart) (n : Nat) (w : Word) : ∃ x fl, landX H n w = { H with x := x, flaws := fl } := by
  unfold landX
  rw [Hart.setX_rest]
  exact ⟨_, _, rfl⟩

/-- Disarming clears the armed registers and leaves the others. -/
theorem disarm_rest (H : Hart) : ∃ x fl, disarm H = { H with x := x, flaws := fl, armed := [] } := by
  have key : ∀ (l : List Nat) (H : Hart), ∃ x fl, l.foldl (fun H n => landX H n 0) H = { H with x := x, flaws := fl } := by
    intro l
    induction l with
    | nil => exact fun H => ⟨H.x, H.flaws, rfl⟩
    | cons n l ih =>
      intro H
      obtain ⟨x, fl, h⟩ := ih (landX H n 0)
      obtain ⟨x', fl', h'⟩ := landX_rest H n 0
      exact ⟨x, fl, by rw [List.foldl_cons, h, h']⟩
  obtain ⟨x, fl, h⟩ := key H.armed H
  exact ⟨x, fl, by rw [disarm, h]⟩

theorem disarm_getX (H : Hart) (k : Nat) : (disarm H).getX k = if k ∈ H.armed then 0 else H.getX k := by
  have key : ∀ (l : List Nat) (H : Hart), (l.foldl (fun H n => landX H n 0) H).getX k = if k ∈ l then 0 else H.getX k := by
    intro l
    induction l with
    | nil => intro H; rfl
    | cons n l ih =>
      intro H
      rw [List.foldl_cons, ih, landX_getX, Hart.getX_setX]
      by_cases hl : k ∈ l
      · simp [hl]
      · by_cases hn : k = n
        · subst hn
          by_cases h0 : k = 0
          · subst h0; simp
          · simp [h0]
        · simp [hl, hn]
  exact key H.armed H

theorem refuseDeposits_harts (s : State) (c : Nat) (p : Packet → Bool) : (refuseDeposits s c p).harts = s.harts ∧ (refuseDeposits s c p).cur = s.cur :=
  ⟨foldl_keeps State.harts _ (fun _ _ => putBackAt_harts _ _ _) _ _, foldl_keeps State.cur _ (fun _ _ => putBackAt_cur _ _ _) _ _⟩

theorem disarmHart_cur (s : State) (h : Nat) : (disarmHart s h).cur = s.cur := (refuseDeposits_harts _ _ _).2
theorem disarmHart_hart (s : State) (h : Nat) : (disarmHart s h).hart h = disarm (s.hart h) := by
  unfold disarmHart
  rw [State.modHart_hart_same, State.hart, (refuseDeposits_harts _ _ _).1]; rfl

theorem wipe_harts (s : State) (g : Nat) (acc : Bool) (u : Nat) : (wipe s g acc u).harts = s.harts ∧ (wipe s g acc u).cur = s.cur := by
  unfold wipe
  cases acc <;> exact ⟨rfl, rfl⟩

theorem unmap_hart (s : State) (h : Nat) (acc : Bool) (l : List Nat) :
    (∃ m, (unmap s h acc l).hart h = withMap (s.hart h) acc m) ∧ (unmap s h acc l).cur = s.cur := by
  unfold unmap
  extract_lets m s1
  have hharts : s1.harts = s.harts := foldl_keeps State.harts _ (fun _ _ => (wipe_harts _ _ _ _).1) _ _
  have hcur : s1.cur = s.cur := foldl_keeps State.cur _ (fun _ _ => (wipe_harts _ _ _ _).2) _ _
  refine ⟨⟨l.foldl (fun m n => SMap.del m n) m, ?_⟩, hcur⟩
  rw [State.modHart_hart_same, State.hart, hharts]; rfl

theorem unmapAll_hart (s : State) (h : Nat) :
    (∃ sl ac, (unmapAll s h).hart h = { s.hart h with slots := sl, accs := ac }) ∧ (unmapAll s h).cur = s.cur := by
  unfold unmapAll
  extract_lets s1
  obtain ⟨⟨m1, h1⟩, c1⟩ : (∃ m, s1.hart h = withMap (s.hart h) false m) ∧ s1.cur = s.cur := unmap_hart s h false _
  obtain ⟨⟨m2, h2⟩, c2⟩ := unmap_hart s1 h true ((s1.hart h).accs.map fun e => e.1)
  exact ⟨⟨m1, m2, by rw [h2, h1]; rfl⟩, c2.trans c1⟩

/-- What giving back the engine state leaves of the hart. -/
theorem releaseEngine_hart (s : State) (h : Nat) :
    (∃ sl ac, (releaseEngine s h).hart h = { s.hart h with slots := sl, accs := ac, csr := { (s.hart h).csr with mstr := [] } }) ∧
      (releaseEngine s h).cur = s.cur := by
  obtain ⟨⟨sl, ac, hh⟩, hc⟩ := unmapAll_hart s h
  refine ⟨⟨sl, ac, ?_⟩, hc⟩
  unfold releaseEngine
  rw [State.modHart_hart_same, hh]

theorem leaveTask_hart (s : State) (h : Nat) : (leaveTask s h).hart h = freeHart (s.hart h) ∧ (leaveTask s h).cur = s.cur := by
  have hc : (dropCost s h).harts = s.harts ∧ (dropCost s h).cur = s.cur := by unfold dropCost; split <;> exact ⟨rfl, rfl⟩
  have hf : (dropFrame (dropCost s h) h).harts = s.harts ∧ (dropFrame (dropCost s h) h).cur = s.cur := by
    unfold dropFrame; split <;> exact hc
  unfold leaveTask
  refine ⟨?_, hf.2⟩
  rw [State.modHart_hart_same]
  change freeHart ((dropFrame (dropCost s h) h).hart h) = _
  rw [State.hart, hf.1]; rfl

theorem sendAs_net (s : State) (h : Nat) (slot : Option Nat) (key : Nat) (b : Body) : (sendAs s h slot key b).net =
    s.net ++ [{ id := s.nextId, hart := h, slot := slot, key := key, body := b, imgs := imagesNow (s.hart h) }] := stand_net _ _ _

/-- The context a task migrates as. -/
def migrant (T : Task) (H : Hart) (ty : Nat) : Ctx :=
  { trec := { T.trec with ty := ty, prio := 0, carry := true, range := false, b := 0, ext := 0 }
    regs := (List.range 8).map fun i => H.getX (10 + i), launch := T.launch, slot := T.slot, key := T.key, group := T.group }

theorem migrateNow_sends {s : State} {T : Task} (hT : s.me.task = some T) (c ty : Nat) :
    (migrateNow s c ty).me = { freeHart (retire s s.cur).me with outst := s.me.outst + 1 } ∧
      ∃ p, (migrateNow s c ty).net.getLast? = some p ∧ p.hart = s.cur ∧ p.slot = some T.slot ∧ p.key = T.key ∧
        p.body = .context c (migrant T s.me ty) false := by
  obtain ⟨hl, hc⟩ := leaveTask_hart (retire s s.cur) s.cur
  have ho : (retire s s.cur).me.outst = s.me.outst := by rw [(retire_retired s).rest]
  have hm : migrateNow s c ty = sendAs ((leaveTask (retire s s.cur) s.cur).modHart s.cur fun H => { H with outst := H.outst + 1 }) s.cur
      (some T.slot) T.key (.context c (migrant T s.me ty) false) := by
    unfold migrateNow
    simp only [hT]
    rfl
  rw [hm]
  refine ⟨?_, _, by rw [sendAs_net]; exact List.getLast?_concat, rfl, rfl, rfl, rfl⟩
  have hme : (sendAs ((leaveTask (retire s s.cur) s.cur).modHart s.cur fun H => { H with outst := H.outst + 1 }) s.cur
      (some T.slot) T.key (.context c (migrant T s.me ty) false)).me =
      ((leaveTask (retire s s.cur) s.cur).modHart s.cur fun H => { H with outst := H.outst + 1 }).me := by
    rw [State.me, State.hart, sendAs, sendFrom, stand_harts, stand_cur]; rfl
  rw [hme, State.me, State.modHart_cur, hc]
  refine (State.modHart_hart_same _ _ _).trans ?_
  rw [hl, ← ho]
  rfl

theorem endWork_ends {s : State} {more : Pre} {f : State → State} (he : endPre s = .ok) (hm : more = .ok)
    (hs : sigEnd (releaseEngine s s.cur) = .ok) : endWork s more f = .next (f (releaseEngine s s.cur)) := by
  unfold endWork
  rw [he, hm]
  simp only [Pre.seq, hs]
  rfl

/-- The state in which MIGRATE's hart waits for the end of its work: every stream unbound, every register disarmed. -/
def unboundState (s : State) : State := disarmHart (s.modHart s.cur unbindAll) s.cur

theorem unboundState_cur (s : State) : (unboundState s).cur = s.cur := disarmHart_cur _ _
theorem unboundState_me (s : State) : (unboundState s).me = disarm (unbindAll s.me) := by
  rw [State.me, unboundState_cur]
  refine (disarmHart_hart _ _).trans ?_
  rw [State.modHart_hart_same]; rfl

/-- What of a hart the steps before its task's end keep. -/
theorem unbound_rest (H : Hart) : (disarm (unbindAll H)).task = H.task ∧ (disarm (unbindAll H)).outst = H.outst ∧
    (disarm (unbindAll H)).armed = [] ∧ ∀ k, (disarm (unbindAll H)).getX k = if k ∈ H.armed then 0 else H.getX k := by
  obtain ⟨v, st, hu⟩ := unbindAll_rest H
  refine ⟨?_, ?_, ?_, fun k => ?_⟩
  · obtain ⟨x, fl, hd⟩ := disarm_rest (unbindAll H)
    rw [hd, hu]
  · obtain ⟨x, fl, hd⟩ := disarm_rest (unbindAll H)
    rw [hd, hu]
  · obtain ⟨x, fl, hd⟩ := disarm_rest (unbindAll H)
    rw [hd]
  · rw [disarm_getX, hu]; rfl

/-- The hart from which MIGRATE takes the context. -/
theorem released_me (s : State) :
    let u := releaseEngine (unboundState s) s.cur
    u.cur = s.cur ∧ u.me.task = s.me.task ∧ u.me.outst = s.me.outst ∧ u.me.armed = [] ∧ ∀ k, u.me.getX k = if k ∈ s.me.armed then 0 else s.me.getX k := by
  intro u
  obtain ⟨⟨sl, ac, hh⟩, hc⟩ := releaseEngine_hart (unboundState s) s.cur
  have hcur : u.cur = s.cur := hc.trans (unboundState_cur s)
  have hme : u.me = { (unboundState s).me with slots := sl, accs := ac, csr := { (unboundState s).me.csr with mstr := [] } } := by
    rw [State.me, hcur]
    refine hh.trans ?_
    rw [State.me, unboundState_cur]
  rw [unboundState_me] at hme
  obtain ⟨htask, hout, harm, hx⟩ := unbound_rest s.me
  exact ⟨hcur, (congrArg Hart.task hme).trans htask, (congrArg Hart.outst hme).trans hout, (congrArg Hart.armed hme).trans harm,
    fun k => (congrArg (fun H => Hart.getX H k) hme).trans (hx k)⟩

theorem execMigrate_type {s : State} {a b : BitVec 5} (hlegal : taskLegal s = .ok) (hplace : (migrateCore s (s.x a)).isSome = true)
    (hty : ntypesOf s ≤ (s.x b).toNat) : execMigrate a b s = .next (takeTrap s s.cur false 52 1) := by
  have hn : need (migrateCore s (s.x a)).isSome 5 (s.x a) = .ok := (need_ok_iff _ _ _).2 hplace
  unfold execMigrate
  simp only [Pre.all, hlegal, hn, Pre.seq]
  rw [if_neg (Nat.not_lt.2 hty)]
  exact finish_trap_none s s 52 1

theorem execMigrate_now {s : State} {a b : BitVec 5} {c : Nat} (hlegal : taskLegal s = .ok) (hcore : migrateCore s (s.x a) = some c)
    (hty : (s.x b).toNat < ntypesOf s) (hdeque : s.me.deque = []) (hun : unbindAllPre s.me = .ok) (hend : endPre (unboundState s) = .ok)
    (hout : s.me.outst < 64) (hpl : placesFor (unboundState s) s.cur 1 = true) (hsig : sigEnd (releaseEngine (unboundState s) s.cur) = .ok) :
    execMigrate a b s = .next (migrateNow (releaseEngine (unboundState s) s.cur) c (s.x b).toNat) := by
  have hn : need (migrateCore s (s.x a)).isSome 5 (s.x a) = .ok := by rw [hcore]; rfl
  have hfull : outFull (unboundState s).me = false := by
    rw [unboundState_me, outFull, (unbound_rest s.me).2.1]
    exact decide_eq_false (Nat.not_le.2 hout)
  have hmore : ready (!outFull (unboundState s).me && placesFor (unboundState s) (unboundState s).cur 1) = .ok := by
    rw [hfull, unboundState_cur, hpl]; rfl
  have hall : Pre.all [taskLegal s, need (migrateCore s (s.x a)).isSome 5 (s.x a), (if (s.x b).toNat < ntypesOf s then .ok else spawnBad 1),
      (if s.me.deque.isEmpty then .ok else dequeBad 4), unbindAllPre s.me] = .ok := by
    rw [hlegal, hn, if_pos hty, hdeque, hun]; rfl
  have hw := endWork_ends (f := fun u => migrateNow u ((migrateCore s (s.x a)).getD 0) (s.x b).toNat) hend hmore (by rw [unboundState_cur]; exact hsig)
  unfold execMigrate
  simp only [hall]
  refine hw.trans ?_
  rw [unboundState_cur, hcore]; rfl

theorem migration : Spec.migration := by
  intro s a b T c ty hmode htask hcore hdeque hun s1
  have hlegal : taskLegal s = .ok := by simp [taskLegal, legal, hmode, htask]
  refine ⟨fun hty => execMigrate_type hlegal (by rw [hcore]; rfl) hty, fun hty hend hout hpl hsig => ?_⟩
  have he := execMigrate_now hlegal hcore hty hdeque hun hend hout hpl hsig
  obtain ⟨hucur, hutask, huout, huarm, hux⟩ := released_me s
  clear_value s1
  generalize releaseEngine (unboundState s) s.cur = u at he hucur hutask huout huarm hux
  obtain ⟨hme, p, hp, hph, hps, hpk, hpb⟩ := migrateNow_sends (hutask.trans htask) c (s.x b).toNat
  refine ⟨_, p, _, he, congrArg Hart.task hme, congrArg Hart.free hme, (congrArg Hart.armed hme).trans ((retire_armed u).trans huarm),
    (congrArg Hart.outst hme).trans (congrArg (· + 1) huout), hp, hph.trans hucur, hps, hpk, hpb, rfl, List.map_congr_left fun i _ => hux (10 + i), rfl, rfl⟩

/-! SENDW and SENDH (R288, R293, R299). -/

/-- What a retirement and the sending of one packet are, in the terms of the statement. -/
theorem tells_retire (s : State) (b : Body) : send (retire s s.cur) s.cur b = Spec.tells (retire s s.cur) [b] := rfl

theorem exec_sendw (s : State) (a b : BitVec 5) : exec (.sendw a b) s =
    finish s (.seq (if (s.x a).toNat / 2 ^ 60 = 8 ∨ (s.x a).toNat / 2 ^ 60 = 9 then .seq (accessPre s (s.x a) 8 true true) (need (fePlace s (s.x a)) 7 (s.x a))
      else need (decide ((s.x a).toNat < 2 ^ 58)) 7 (s.x a)) (ready (placesFor s s.cur 1)))
      (Spec.tells (retire s s.cur) [.deposit (s.x a).toNat (s.x b)]) := rfl

/-- The clauses of O39 about SENDW. -/
theorem sendw_sends (s : State) (a b : BitVec 5) (hp : placesFor s s.cur 1 = true) :
    let n := (s.x a).toNat
    let granule := n / 2 ^ 60 = 8 ∨ n / 2 ^ 60 = 9
    let one := ∃ u, exec (.sendw a b) s = .next (Spec.tells u [.deposit n (s.x b)]) ∧ Retired s u
    (granule → accessPre s (s.x a) 8 true true = .ok → fePlace s (s.x a) = true → one) ∧ (n < 2 ^ 58 → one) ∧
      (¬granule → 2 ^ 58 ≤ n → exec (.sendw a b) s = .next (takeTrap s s.cur false 7 (s.x a))) := by
  intro n granule one
  have he := exec_sendw s a b
  rw [hp] at he
  refine ⟨fun hg ha hf => ⟨_, ?_, retire_retired s⟩, fun hn => ⟨_, ?_, retire_retired s⟩, fun hg hn => ?_⟩
  · rw [he, if_pos hg, ha, hf]; rfl
  · have hn58 : (s.x a).toNat < 2 ^ 58 := hn
    rw [he, if_neg (by omega), decide_eq_true hn58]; rfl
  · rw [he, if_neg hg, decide_eq_false (Nat.not_lt.2 hn)]
    exact finish_trap_none s _ 7 _

/-- Reading a record changes rows of the own scratchpad only. -/
theorem readRecord_rest (s : State) (a : Word) (align n : Nat) :
    Spec.OnlyRows s (readRecord s a align n) ∧ (readRecord s a align n).pkg = s.pkg := by
  have hid : Spec.OnlyRows s s ∧ s.pkg = s.pkg := ⟨⟨fun _ => rfl, rfl, rfl, rfl⟩, rfl⟩
  unfold readRecord
  split
  · split
    · exact hid
    · exact ⟨⟨fun x => by rw [scrub_mem], scrub_harts _ _ _ _, scrub_net _ _ _ _, scrub_cur _ _ _ _⟩, scrub_pkg _ _ _ _⟩
  · exact hid

theorem OnlyRows.trans {s t u : State} (h : Spec.OnlyRows s t) (k : Spec.OnlyRows t u) : Spec.OnlyRows s u :=
  ⟨fun x => (k.1 x).trans (h.1 x), k.2.1.trans h.2.1, k.2.2.1.trans h.2.2.1, k.2.2.2.trans h.2.2.2⟩

section
variable {s t : State} (h : Spec.OnlyRows s t) (hp : t.pkg = s.pkg)
include h hp

theorem OnlyRows.placeNow_eq (a : Word) : placeNow t a = placeNow s a := by
  obtain ⟨-, hh, -, hc⟩ := h
  have hme : t.me = s.me := by rw [State.me, State.hart, hh, hc]; rfl
  unfold placeNow placeOf
  rw [hme, hc, hp]

omit hp in
theorem OnlyRows.x_eq (b : BitVec 5) : t.x b = s.x b := by
  obtain ⟨-, hh, -, hc⟩ := h
  unfold State.x
  rw [State.me, State.hart, hh, hc]; rfl

theorem OnlyRows.recordPre_eq (a : Word) (align : Nat) : recordPre t a align = recordPre s a align := by
  unfold recordPre
  rw [OnlyRows.placeNow_eq h hp]

theorem OnlyRows.recordBytes_eq (a : Word) (n : Nat) : recordBytes t a n = recordBytes s a n := by
  unfold recordBytes ownLoc
  rw [OnlyRows.placeNow_eq h hp, h.2.2.2]
  split
  · exact Memory.readBytes_congr _ _ _ _ fun c _ _ => h.1 c
  · rfl

end

/-- The state in which SENDH has read what it looks at: the header where the target is one, the image where the header is good. -/
def sendhRead (s : State) (a : Word) (target header : Bool) (size : Nat) : State :=
  let H := if target then readRecord s a 16 16 else s
  if target && header then readRecord H a 16 size else H

theorem sendhRead_rest (s : State) (a : Word) (target header : Bool) (size : Nat) :
    Spec.OnlyRows s (sendhRead s a target header size) ∧ (sendhRead s a target header size).pkg = s.pkg := by
  obtain ⟨h1, p1⟩ := readRecord_rest s a 16 16
  obtain ⟨h2, p2⟩ := readRecord_rest (readRecord s a 16 16) a 16 size
  cases target with
  | false => exact ⟨⟨fun _ => rfl, rfl, rfl, rfl⟩, rfl⟩
  | true =>
    cases header with
    | false => exact ⟨h1, p1⟩
    | true => exact ⟨OnlyRows.trans h1 h2, p2.trans p1⟩

theorem exec_sendh (s : State) (a b : BitVec 5) :
    let l := recordBytes s (s.x a) 16
    let count := leAt l 0 1
    let dlen := leAt l 1 1
    let size := 16 + 4 * count + 8 * dlen
    let img := recordBytes s (s.x a) size
    let target := decide ((s.x b).toNat < 2 ^ 58) && tgtReg (s.x b).toNat == 0
    let header := decide (1 ≤ count ∧ count ≤ 24 ∧ dlen ≤ 20) && leAt l 2 14 == 0
    let R := sendhRead s (s.x a) target header size
    exec (.sendh a b) s = finish R (.all [recordPre s (s.x a) 16, need target 7 (R.x b), need header 5 (s.x a), poisonPre R (s.x a) size,
        ready (placesFor R R.cur 1)])
      (Spec.tells (retire R R.cur) [.handler (s.x b).toNat (s.x a).toNat (wordsAt (img.drop 16) count) ((img.drop (16 + 4 * count)).take (8 * dlen)) false]) := by
  intro l count dlen size img target header R
  have hH : recordBytes (if target then readRecord s (s.x a) 16 16 else s) (s.x a) 16 = l := by
    cases target with
    | false => rfl
    | true => exact OnlyRows.recordBytes_eq (readRecord_rest s _ 16 16).1 (readRecord_rest s _ 16 16).2 _ _
  obtain ⟨hR, hp⟩ := sendhRead_rest s (s.x a) target header size
  rw [← OnlyRows.recordPre_eq hR hp, show img = recordBytes R (s.x a) size from (OnlyRows.recordBytes_eq hR hp _ _).symm]
  change execSendh a b s = _
  unfold execSendh
  extract_lets a' t to_ s1
  have h1 : recordBytes s1 a' 16 = l := hH
  rw [h1]
  rfl

/-- The clauses of O39 about SENDH, where the places are counted after the reads of the header and the image. -/
theorem sendh_sends (s : State) (a b : BitVec 5) (hpre : recordPre s (s.x a) 16 = .ok) :
    let m := (s.x b).toNat
    let H := readRecord s (s.x a) 16 16
    let h := recordBytes s (s.x a) 16
    let count := leAt h 0 1
    let dlen := leAt h 1 1
    let size := 16 + 4 * count + 8 * dlen
    let img := recordBytes s (s.x a) size
    let target := m < 2 ^ 58 ∧ m % 32 = 0
    let header := 1 ≤ count ∧ count ≤ 24 ∧ dlen ≤ 20 ∧ leAt h 2 14 = 0
    let R := readRecord H (s.x a) 16 size
    Spec.OnlyRows s R ∧
    (target → header → poisonPre R (s.x a) size = .ok → placesFor R s.cur 1 = true → ∃ u, Retired R u ∧ exec (.sendh a b) s = .next (Spec.tells u
      [.handler m (s.x a).toNat (wordsAt (img.drop 16) count) ((img.drop (16 + 4 * count)).take (8 * dlen)) false])) ∧
    (¬target → exec (.sendh a b) s = .next (takeTrap s s.cur false 7 (s.x b))) ∧
    (target → ¬header → exec (.sendh a b) s = .next (takeTrap H s.cur false 5 (s.x a))) := by
  intro m H h count dlen size img target header R
  have he := exec_sendh s a b
  extract_lets target' header' R' at he
  obtain ⟨hR, -⟩ := sendhRead_rest s (s.x a) target' header' size
  have ht : target' = decide target := Bool.eq_iff_iff.2 (by simp [target', target, m, tgtReg])
  have hh : header' = decide header := Bool.eq_iff_iff.2 (by simp [header', header, and_assoc])
  have hx : R'.x b = s.x b := OnlyRows.x_eq hR b
  have hc : R'.cur = s.cur := hR.2.2.2
  rw [hpre, hx] at he
  refine ⟨OnlyRows.trans (readRecord_rest s _ 16 16).1 (readRecord_rest H _ 16 size).1, fun h1 h2 hpo hpl => ?_, fun h1 => ?_, fun h1 h2 => ?_⟩
  · have hRR : R' = R := by
      have hread : R' = sendhRead s (s.x a) true true size := by
        simp only [R', ht, hh, decide_eq_true h1, decide_eq_true h2]
      exact hread
    rw [hRR] at he hc
    refine ⟨retire R R.cur, retire_retired R, ?_⟩
    have hpo' : poisonPre R (s.x a) size = .ok := hpo
    rw [he, ht, hh, decide_eq_true h1, decide_eq_true h2, hpo', hc, hpl]
    rfl
  · rw [he, ht, decide_eq_false h1]
    have hRs : R' = s := by
      simp only [R', ht, decide_eq_false h1]; rfl
    rw [hRs]
    exact finish_trap_none s _ 7 _
  · rw [he, ht, hh, decide_eq_true h1, decide_eq_false h2]
    have hRH : R' = H := by
      simp only [R', ht, hh, decide_eq_true h1, decide_eq_false h2]; rfl
    rw [hRH] at hc ⊢
    rw [← hc]
    exact finish_trap_none H _ 5 _

/-! SENDH counts its core's places after its reads, which may correct a stored error. -/

/-- A packet of hart 0 that holds a place of its core. -/
def placeHolder (id : Nat) : Packet :=
  { id := id, hart := 0, slot := none, key := 0, body := .reply (2 ^ 63 + 2 ^ 34) false (.posted false) .ack }

/-- Core 0 with 25 packets of its own held as deposits, and a correctable error stored in the row of the granule at 0x40. -/
def depositCore : Core := { deposits := (List.range 25).map placeHolder, flaws := [(4, false)] }

/-- A handler image of one word at 0x40, on a core that the list of cores names after core 5: a map that is not in its
canonical order. -/
def misordered : State :=
  { State.reset with
    mem := State.reset.mem.writeBytes (2 ^ 63 + 0x40) [1, 0]
    cores := [(5, {}), (0, depositCore)]
    harts := [(0, { x := [(6, 0x9000000000000040), (7, 64)] })] }

/-- What the word comes to: the packets in flight, where it has a next state. -/
def packetsAfter : Host.Outcome State Fault Refusal → Nat
  | .next t => t.net.length
  | _ => 0

/-- The write of the row's correction names core 0 a second time, so that its 25 packets count twice; SENDH then waits. -/
theorem packetsAfter_sendh : packetsAfter (exec (.sendh 6 7) misordered) = 0 := by decide

/-- The state has a place free by the statement's count, and none by the model's. -/
theorem not_sends : ¬ Spec.sends := by
  intro h
  obtain ⟨-, -, -, h⟩ := h misordered 6 7 (by decide)
  obtain ⟨-, h, -⟩ := h (by decide)
  obtain ⟨u, -, he⟩ := h (by decide) (by decide) (by decide)
  have h0 := packetsAfter_sendh
  rw [he] at h0
  simp [packetsAfter, Spec.tells] at h0

/-- Refutes O39 in its clause of SENDH: the places it is sure of are those before the reads of header and image. Where the list of
cores is out of order, the correction of a stored error in those reads lists the core again, and its packets count twice. -/
theorem not_messageWords : ¬ Obligations.MessageWords := by
  rintro ⟨-, -, h, -⟩
  exact not_sends h

end Sys2Proof.Machine

namespace Sys2Proof.Laws.RoundTrip
open Sys2Proof

/-- The words of every instruction decode to it; a step of the device's other agents, in the last arm, has no word. -/
theorem roundTrip : ∀ i, Statement i
  | .lui .. => lui _ _ | .auipc .. => auipc _ _ | .jal .. => jal _ _ | .jalr .. => jalr _ _ _ | .beq .. => beq _ _ _ | .bne .. => bne _ _ _
  | .blt .. => blt _ _ _ | .bge .. => bge _ _ _ | .bltu .. => bltu _ _ _ | .bgeu .. => bgeu _ _ _ | .lb .. => lb _ _ _ | .lh .. => lh _ _ _
  | .lw .. => lw _ _ _ | .ld .. => ld _ _ _ | .lbu .. => lbu _ _ _ | .lhu .. => lhu _ _ _ | .lwu .. => lwu _ _ _ | .sb .. => sb _ _ _ | .sh .. => sh _ _ _
  | .sw .. => sw _ _ _ | .sd .. => sd _ _ _ | .addi .. => addi _ _ _ | .slti .. => slti _ _ _ | .sltiu .. => sltiu _ _ _ | .xori .. => xori _ _ _
  | .ori .. => ori _ _ _ | .andi .. => andi _ _ _ | .slli .. => slli _ _ _ | .srli .. => srli _ _ _ | .srai .. => srai _ _ _ | .add .. => add _ _ _
  | .sub .. => sub _ _ _ | .sll .. => sll _ _ _ | .slt .. => slt _ _ _ | .sltu .. => sltu _ _ _ | .xor .. => xor _ _ _ | .srl .. => srl _ _ _
  | .sra .. => sra _ _ _ | .or .. => or _ _ _ | .and .. => and _ _ _ | .addiw .. => addiw _ _ _ | .slliw .. => slliw _ _ _ | .srliw .. => srliw _ _ _
  | .sraiw .. => sraiw _ _ _ | .addw .. => addw _ _ _ | .subw .. => subw _ _ _ | .sllw .. => sllw _ _ _ | .srlw .. => srlw _ _ _ | .sraw .. => sraw _ _ _
  | .fence .. => fence _ _ _ _ _ | .fenceTso .. => fenceTso _ _ | .pause => pause | .ecall => ecall | .ebreak => ebreak | .mul .. => mul _ _ _
  | .mulh .. => mulh _ _ _ | .mulhsu .. => mulhsu _ _ _ | .mulhu .. => mulhu _ _ _ | .div .. => div _ _ _ | .divu .. => divu _ _ _ | .rem .. => rem _ _ _
  | .remu .. => remu _ _ _ | .mulw .. => mulw _ _ _ | .divw .. => divw _ _ _ | .divuw .. => divuw _ _ _ | .remw .. => remw _ _ _ | .remuw .. => remuw _ _ _
  | .lrW .. => lrW _ _ _ _ | .lrD .. => lrD _ _ _ _ | .scW .. => scW _ _ _ _ _ | .scD .. => scD _ _ _ _ _ | .amoSwapW .. => amoSwapW _ _ _ _ _
  | .amoSwapD .. => amoSwapD _ _ _ _ _ | .amoAddW .. => amoAddW _ _ _ _ _ | .amoAddD .. => amoAddD _ _ _ _ _ | .amoXorW .. => amoXorW _ _ _ _ _
  | .amoXorD .. => amoXorD _ _ _ _ _ | .amoAndW .. => amoAndW _ _ _ _ _ | .amoAndD .. => amoAndD _ _ _ _ _ | .amoOrW .. => amoOrW _ _ _ _ _
  | .amoOrD .. => amoOrD _ _ _ _ _ | .amoMinW .. => amoMinW _ _ _ _ _ | .amoMinD .. => amoMinD _ _ _ _ _ | .amoMaxW .. => amoMaxW _ _ _ _ _
  | .amoMaxD .. => amoMaxD _ _ _ _ _ | .amoMinuW .. => amoMinuW _ _ _ _ _ | .amoMinuD .. => amoMinuD _ _ _ _ _ | .amoMaxuW .. => amoMaxuW _ _ _ _ _
  | .amoMaxuD .. => amoMaxuD _ _ _ _ _ | .flw .. => flw _ _ _ | .fsw .. => fsw _ _ _ | .fmaddS .. => fmaddS _ _ _ _ _ | .fmsubS .. => fmsubS _ _ _ _ _
  | .fnmsubS .. => fnmsubS _ _ _ _ _ | .fnmaddS .. => fnmaddS _ _ _ _ _ | .faddS .. => faddS _ _ _ _ | .fsubS .. => fsubS _ _ _ _ | .fmulS .. => fmulS _ _ _ _
  | .fdivS .. => fdivS _ _ _ _ | .fsqrtS .. => fsqrtS _ _ _ | .fsgnjS .. => fsgnjS _ _ _ | .fsgnjnS .. => fsgnjnS _ _ _ | .fsgnjxS .. => fsgnjxS _ _ _
  | .fminS .. => fminS _ _ _ | .fmaxS .. => fmaxS _ _ _ | .fcvtWS .. => fcvtWS _ _ _ | .fcvtWuS .. => fcvtWuS _ _ _ | .fcvtLS .. => fcvtLS _ _ _
  | .fcvtLuS .. => fcvtLuS _ _ _ | .fcvtSW .. => fcvtSW _ _ _ | .fcvtSWu .. => fcvtSWu _ _ _ | .fcvtSL .. => fcvtSL _ _ _ | .fcvtSLu .. => fcvtSLu _ _ _
  | .fmvXW .. => fmvXW _ _ | .fmvWX .. => fmvWX _ _ | .feqS .. => feqS _ _ _ | .fltS .. => fltS _ _ _ | .fleS .. => fleS _ _ _ | .fclassS .. => fclassS _ _
  | .csrrw .. => csrrw _ _ _ | .csrrs .. => csrrs _ _ _ | .csrrc .. => csrrc _ _ _ | .csrrwi .. => csrrwi _ _ _ | .csrrsi .. => csrrsi _ _ _
  | .csrrci .. => csrrci _ _ _ | .mret => mret | .sret => sret | .wfi => wfi | .vadd .. => vadd _ _ _ _ _ | .vsub .. => vsub _ _ _ _ _
  | .vmul .. => vmul _ _ _ _ _ | .vfma .. => vfma _ _ _ _ _ | .vfms .. => vfms _ _ _ _ _ | .vmin .. => vmin _ _ _ _ _ | .vmax .. => vmax _ _ _ _ _
  | .vdot4 .. => vdot4 _ _ _ _ _ | .vcmp .. => vcmp _ _ _ _ _ _ | .vshl .. => vshl _ _ _ _ _ | .vshr .. => vshr _ _ _ _ _ | .vsra .. => vsra _ _ _ _ _
  | .vand .. => vand _ _ _ _ | .vor .. => vor _ _ _ _ | .vxor .. => vxor _ _ _ _ | .vperm .. => vperm _ _ _ _ _ | .vabs .. => vabs _ _ _ _
  | .vneg .. => vneg _ _ _ _ | .vmov .. => vmov _ _ _ _ | .vexp2 .. => vexp2 _ _ _ _ | .vlog2 .. => vlog2 _ _ _ _ | .vrcp .. => vrcp _ _ _ _
  | .vrsq .. => vrsq _ _ _ _ | .vrsum .. => vrsum _ _ _ _ | .vrmax .. => vrmax _ _ _ _ | .vrmin .. => vrmin _ _ _ _ | .vidx .. => vidx _ _ _
  | .vsplat .. => vsplat _ _ _ _ | .vbcast .. => vbcast _ _ _ _ | .vslideDn .. => vslideDn _ _ _ _ _ | .vslideUp .. => vslideUp _ _ _ _ _
  | .vcvt .. => vcvt _ _ _ _ _ _ | .vquant .. => vquant _ _ _ _ _ _ | .vdeq .. => vdeq _ _ _ _ _ _ | .tbld .. => tbld _ _ | .cbld .. => cbld _
  | .srseed .. => srseed _ | .vld .. => vld _ _ _ _ _ | .vst .. => vst _ _ _ _ _ | .vlds .. => vlds _ _ _ _ _ | .vsts .. => vsts _ _ _ _ _
  | .sbindSrc .. => sbindSrc _ _ | .sbindDst .. => sbindDst _ _ | .sunbind .. => sunbind _ | .vsel .. => vsel _ _ _ _ _ | .mand .. => mand _ _ _
  | .mor .. => mor _ _ _ | .mxor .. => mxor _ _ _ | .mnot .. => mnot _ _ | .mpop .. => mpop _ _ | .vloop .. => vloop _ _ | .bqput .. => bqput _
  | .bqget .. => bqget _ | .ldFeKeep .. => ldFeKeep _ _ | .ldFeClr .. => ldFeClr _ _ | .stFe .. => stFe _ _ | .fesetEmpty .. => fesetEmpty _
  | .fesetFull .. => fesetFull _ | .feqry .. => feqry _ _ | .gathA .. => gathA _ _ | .gathX .. => gathX _ _ _ | .scatA .. => scatA _ _
  | .scatX .. => scatX _ _ _ | .cpy .. => cpy _ _ _ | .cpyw .. => cpyw _ _ | .fenceScoped .. => fenceScoped _ _ | .lda .. => lda _ _ _ _
  | .strl .. => strl _ _ _ _ | .fxadd .. => fxadd _ _ | .fxrd .. => fxrd _ _ | .fxrdLo .. => fxrdLo _ _ | .fxrdHi .. => fxrdHi _ _ | .fxclr .. => fxclr _
  | .rlqry .. => rlqry _ _ | .amoAddScoped .. => amoAddScoped _ _ _ _ | .amoSwapScoped .. => amoSwapScoped _ _ _ _ | .amoAndScoped .. => amoAndScoped _ _ _ _
  | .amoOrScoped .. => amoOrScoped _ _ _ _ | .amoXorScoped .. => amoXorScoped _ _ _ _ | .amoMinScoped .. => amoMinScoped _ _ _ _
  | .amoMaxScoped .. => amoMaxScoped _ _ _ _ | .amoMinuScoped .. => amoMinuScoped _ _ _ _ | .amoMaxuScoped .. => amoMaxuScoped _ _ _ _
  | .amoCasScoped .. => amoCasScoped _ _ _ _ | .spawn .. => spawn _ | .spawnNb .. => spawnNb _ _ | .spawnr .. => spawnr _ _ | .spawnat .. => spawnat _ _
  | .tend .. => tend _ | .joininit .. => joininit _ _ | .joinadd .. => joinadd _ _ | .joinarm .. => joinarm _ _ | .press .. => press _
  | .dqpush .. => dqpush _ _ | .dqpop .. => dqpop _ | .dqsplit => dqsplit | .dqspill .. => dqspill _ _ | .rpush .. => rpush _ _ | .rpop .. => rpop _ _ _
  | .rpeek .. => rpeek _ _ _ | .grpbar .. => grpbar _ | .arm .. => arm _ | .sendw .. => sendw _ _ | .sendh .. => sendh _ _ | .msgret => msgret
  | .chbind .. => chbind _ _ | .migrate .. => migrate _ _ | .grpw .. => grpw _ _ | .mcw .. => mcw _ _ | .jkset .. => jkset _ _ | .keyrot .. => keyrot _
  | .mstg .. => mstg _ _ _ _ _ | .mstgAcc .. => mstgAcc _ _ _ _ _ | .mxst .. => mxst _ _ _ _ _ | .mxstAcc .. => mxstAcc _ _ _ _ _
  | .mchain .. => mchain _ _ _ _ _ _ | .mchainAcc .. => mchainAcc _ _ _ _ _ _ | .mlease .. => mlease _ | .mrel => mrel | .oclaim .. => oclaim _ _
  | .orel .. => orel _ _ | .ofill .. => ofill _ _ | .odrain .. => odrain _ _ | .odrainAmax .. => odrainAmax _ _ | .mstride .. => mstride _ _
  | .maccz .. => maccz _ | .mwait => mwait | .mrgu .. => mrgu _ _ | .mrguDz .. => mrguDz _ _ | .mrgi .. => mrgi _ _ | .scnv .. => scnv _ _
  | .scnvw .. => scnvw _ _ | .lclr0 => lclr0 | .lclr1 => lclr1 | .safept .. => safept _ | .codecmt .. => codecmt _ _ | .wfm => wfm | .cseal .. => cseal _
  | .crestart .. => crestart _ | .sig .. => sig _ _ _ | .hloop .. => hloop _ _ _ _ | .fmt .. => fmt _ _ _ _
  | .trapEntry .. | .localTimer .. | .stimecmpWrite .. | .srseedWrite .. | .cvamaxAccess .. | .registerWrite .. | .windowCsrAccess .. | .windowImemWrite ..
  | .codeScanStart .. | .codecmtCompletion .. | .streamImageFetch .. | .streamImageStore .. | .remoteRequest .. | .replyLanding .. | .storeAck ..
  | .errorReply .. | .gatherLaneReply .. | .virtualAccess .. | .priResponse .. | .atsCompletion .. | .atsInvalidation .. | .feRequest .. | .feTimeout ..
  | .feWithdraw .. | .engineQueueGrant .. | .copyCompletion .. | .typeEntryRead .. | .taskRecordArrival .. | .taskBufferAccept .. | .acceptanceNotice ..
  | .beaconInterval .. | .beacon .. | .neighbourSilence .. | .dispatch .. | .preemptionRequest .. | .dec .. | .joinOpArrival .. | .release .. | .unpin ..
  | .lost .. | .dieFailureNotice .. | .acceptanceTimeout .. | .ringNotify .. | .hostRingPoll .. | .launchStart .. | .launchEndNotice .. | .collect ..
  | .done .. | .completionRingRetry .. | .depositArrival .. | .depositHoldTimeout .. | .armedReadTimeout .. | .handlerMessageArrival .. | .handlerResend ..
  | .handlerResendTimeout .. | .handlerScan .. | .handlerEntry .. | .channelPacketArrival .. | .channelResend .. | .channelImageTimeout ..
  | .contextArrival .. | .contextResend .. | .spillRefill .. | .leaseGrant .. | .leaseIdleTimeout .. | .engineCommandStart .. | .engineCommandCompletion ..
  | .drainCompletion .. | .engineCommandFailure .. | .slotClearDone .. | .sparseCommandStart .. | .sparseCommandCompletion .. | .scnvwTimeout ..
  | .spawnWaitTimeout .. | .ringWaitTimeout .. | .flitReceive .. | .nak .. | .linkControlFlit .. | .linkDrop .. | .linkRetrained .. | .retrainTimeout ..
  | .gatewayPacketArrival .. | .sack .. | .sackTimer .. | .e2eResend .. | .peerUnreachable .. | .mcwCopyArrival .. | .groupInstall .. | .grpwCompletion ..
  | .keyrotCompletion .. | .keyrotTimeout .. | .droopStretch .. | .droopRecover .. | .saffronWatchdog .. | .bankRetire .. | .powerOn .. | .cxlMemAccess ..
  | .cmdringWrite .. | .cmdRingPoll | .attach .. | .detach .. | .ringbind .. | .endlaunch .. | .retire .. | .reload .. | .chkpt .. | .restore ..
  | .counters .. | .getVersion | .getCapabilities | .negotiateAlgorithms .. | .getDigests | .getCertificate .. | .challenge .. | .getMeasurements ..
  | .cxlPortDown .. | .keyStaging .. | .fabricPeerReset .. | .clusterFailure .. | .spaustLaneFailure .. | .chkptCompletion | .hdmDecoderSet .. => of_none rfl

/-- Settles O55, by the word of each instruction. -/
theorem encodeThenDecode : Obligations.EncodeThenDecode := by
  unfold Obligations.EncodeThenDecode
  exact fun i w hwf hw => roundTrip i hwf w hw

end Sys2Proof.Laws.RoundTrip

namespace Sys2Proof.Laws.Recode
open Sys2Proof

/-! A word that decodes is written again by the encoder (R38 to R66), one lemma for each table of the decoder. -/

theorem when?_eq_some {c : Bool} {k op : Op} : when? c k = some op ↔ c = true ∧ k = op := by
  unfold when?
  split
  case isTrue h => simp [h]
  case isFalse h => simp [h]

/-! Fields. -/

theorem fld_lt (n lo k : Nat) : fld n lo k < 2 ^ k := Nat.mod_lt _ (Nat.two_pow_pos k)

@[simp] theorem toNat_ofNat_fld (n lo k : Nat) : (BitVec.ofNat k (fld n lo k)).toNat = fld n lo k := by
  rw [BitVec.toNat_ofNat, Nat.mod_eq_of_lt (fld_lt n lo k)]

@[simp] theorem toNat_r5_fld (n lo : Nat) : (r5 (fld n lo 5)).toNat = fld n lo 5 := toNat_ofNat_fld n lo 5

@[simp] theorem toNat_flag (n lo : Nat) : (fld n lo 1 == 1).toNat = fld n lo 1 := by
  have h : fld n lo 1 < 2 := fld_lt n lo 1
  obtain h | h : fld n lo 1 = 0 ∨ fld n lo 1 = 1 := by omega
  all_goals rw [h]; rfl

/-- The value of an accepted code has that code. -/
theorem code_getD {α : Type} {o : Option α} {code : α → Nat} {c : Nat} (hc : ∀ t, o = some t → code t = c) (ho : o.isSome = true) (d : α) :
    code (o.getD d) = c := by
  cases o with
  | none => cases ho
  | some t => exact hc t rfl

theorem vtype_code {c : Nat} : (VType.ofCode c).isSome = true → ∀ d, ((VType.ofCode c).getD d).code = c := by
  refine code_getD fun t h => ?_
  unfold VType.ofCode at h
  split at h <;> cases h <;> rfl
theorem fmt_code {c : Nat} : (Fmt.ofCode c).isSome = true → ∀ d, ((Fmt.ofCode c).getD d).code = c := by
  refine code_getD fun t h => ?_
  unfold Fmt.ofCode at h
  split at h <;> cases h <;> rfl
theorem scaleMode_code {c : Nat} : (ScaleMode.ofCode c).isSome = true → ∀ d, ((ScaleMode.ofCode c).getD d).code = c := by
  refine code_getD fun t h => ?_
  unfold ScaleMode.ofCode at h
  split at h <;> cases h <;> rfl
theorem scope_code {c : Nat} : (Scope.ofCode c).isSome = true → ∀ d, ((Scope.ofCode c).getD d).code = c := by
  refine code_getD fun t h => ?_
  unfold Scope.ofCode at h
  split at h <;> cases h <;> rfl
theorem fkind_code {c : Nat} : (FKind.ofCode c).isSome = true → ∀ d, ((FKind.ofCode c).getD d).code = c := by
  refine code_getD fun t h => ?_
  unfold FKind.ofCode at h
  split at h <;> cases h <;> rfl
theorem memW_code {c : Nat} : (MemW.ofCode c).isSome = true → ∀ t, ((MemW.ofCode c).getD t).code = c := by
  refine code_getD fun t h => ?_
  unfold MemW.ofCode at h
  split at h <;> cases h <;> rfl
theorem vwidth_code {c : Nat} : (VWidth.ofCode c).isSome = true → ∀ d, ((VWidth.ofCode c).getD d).code = c := by
  refine code_getD fun t h => ?_
  unfold VWidth.ofCode at h
  split at h <;> cases h <;> rfl
theorem rm_code {c : Nat} : (Rm.ofCode c).isSome = true → ∀ d, ((Rm.ofCode c).getD d).code = c := by
  refine code_getD fun t h => ?_
  unfold Rm.ofCode at h
  split at h <;> cases h <;> rfl
theorem cvRm_code {c : Nat} : (CvRm.ofCode c).isSome = true → ∀ d, ((CvRm.ofCode c).getD d).code = c := by
  refine code_getD fun t h => ?_
  unfold CvRm.ofCode at h
  split at h <;> cases h <;> rfl
theorem chainFmt_code {c : Nat} : (ChainFmt.ofCode c).isSome = true → ∀ d, ((ChainFmt.ofCode c).getD d).code = c := by
  refine code_getD fun t h => ?_
  unfold ChainFmt.ofCode at h
  split at h <;> cases h <;> rfl
theorem endKind_code {c : Nat} : (EndKind.ofCode c).isSome = true → ∀ d, ((EndKind.ofCode c).getD d).code = c := by
  refine code_getD fun t h => ?_
  unfold EndKind.ofCode at h
  split at h <;> cases h <;> rfl
/-- Every 2-bit condition code is one. -/
theorem cc_code {c : Nat} (hc : c < 4) (d : Cc) : ((Cc.ofCode c).getD d).code = c := by
  obtain rfl | rfl | rfl | rfl : c = 0 ∨ c = 1 ∨ c = 2 ∨ c = 3 := by omega
  all_goals rfl

theorem vwidth_lt {c : Nat} (h : (VWidth.ofCode c).isSome = true) : c < 3 := by
  have := VWidth.code_lt ((VWidth.ofCode c).getD .w8)
  rwa [vwidth_code h] at this

/-! The encoder's layouts: a word is written from its own fields. -/

section
variable {w : W32}

theorem w32_eq {k : Nat} (h : k = w.toNat) : [w32 k] = [w] := by
  rw [h, w32, BitVec.ofNat_toNat, BitVec.setWidth_eq]

theorem encR_eq {m f7 b a f3 d : Nat} (h : m = fld w.toNat 0 7 ∧ f7 = fld w.toNat 25 7 ∧ b = fld w.toNat 20 5 ∧ a = fld w.toNat 15 5 ∧
    f3 = fld w.toNat 12 3 ∧ d = fld w.toNat 7 5) : [encR m f7 b a f3 d] = [w] := by
  have hw := w.isLt
  obtain ⟨rfl, rfl, rfl, rfl, rfl, rfl⟩ := h
  refine w32_eq ?_
  simp only [fld]
  omega

theorem encI_eq {m imm a f3 d : Nat} (h : m = fld w.toNat 0 7 ∧ imm = fld w.toNat 20 12 ∧ a = fld w.toNat 15 5 ∧ f3 = fld w.toNat 12 3 ∧
    d = fld w.toNat 7 5) : [encI m imm a f3 d] = [w] := by
  have hw := w.isLt
  obtain ⟨rfl, rfl, rfl, rfl, rfl⟩ := h
  refine w32_eq ?_
  simp only [fld]
  omega

theorem encS_eq {m b a f3 : Nat} (h : m = fld w.toNat 0 7 ∧ b = fld w.toNat 20 5 ∧ a = fld w.toNat 15 5 ∧ f3 = fld w.toNat 12 3) :
    [encS m (BitVec.ofNat 12 (fld w.toNat 25 7 * 32 + fld w.toNat 7 5)).toNat b a f3] = [w] := by
  have h7 : fld w.toNat 25 7 < 128 := fld_lt _ _ _
  have hd : fld w.toNat 7 5 < 32 := fld_lt _ _ _
  have hi : (BitVec.ofNat 12 (fld w.toNat 25 7 * 32 + fld w.toNat 7 5)).toNat = fld w.toNat 25 7 * 32 + fld w.toNat 7 5 := by
    rw [BitVec.toNat_ofNat]; omega
  obtain ⟨rfl, rfl, rfl, rfl⟩ := h
  rw [hi]
  exact encR_eq ⟨rfl, by omega, rfl, rfl, rfl, by omega⟩

theorem encB_eq {b a f3 : Nat} (h : 0x63 = fld w.toNat 0 7 ∧ b = fld w.toNat 20 5 ∧ a = fld w.toNat 15 5 ∧ f3 = fld w.toNat 12 3) :
    [encB (BitVec.ofNat 12 (fld w.toNat 31 1 * 2048 + fld w.toNat 7 1 * 1024 + fld w.toNat 25 6 * 16 + fld w.toNat 8 4)).toNat b a f3] = [w] := by
  have h31 : fld w.toNat 31 1 < 2 := fld_lt _ _ _
  have h7 : fld w.toNat 7 1 < 2 := fld_lt _ _ _
  have h25 : fld w.toNat 25 6 < 64 := fld_lt _ _ _
  have h8 : fld w.toNat 8 4 < 16 := fld_lt _ _ _
  have e25 : fld w.toNat 25 7 = fld w.toNat 31 1 * 64 + fld w.toNat 25 6 := fld_cat w.toNat 25 6 1
  have e7 : fld w.toNat 7 5 = fld w.toNat 8 4 * 2 + fld w.toNat 7 1 := fld_cat w.toNat 7 1 4
  obtain ⟨hm, rfl, rfl, rfl⟩ := h
  rw [BitVec.toNat_ofNat, Nat.mod_eq_of_lt (by omega)]
  generalize fld w.toNat 31 1 = s, fld w.toNat 7 1 = t, fld w.toNat 25 6 = u, fld w.toNat 8 4 = v at *
  have d1 : (s * 2048 + t * 1024 + u * 16 + v) / 2048 = s := by omega
  have d2 : (s * 2048 + t * 1024 + u * 16 + v) / 16 = s * 128 + t * 64 + u := by omega
  have d2' : (s * 128 + t * 64 + u) % 64 = u := by omega
  have d3 : (s * 2048 + t * 1024 + u * 16 + v) % 16 = v := by omega
  have d4 : (s * 2048 + t * 1024 + u * 16 + v) / 1024 % 2 = t := by omega
  exact encR_eq ⟨hm, by rw [d1, d2, d2', e25], rfl, rfl, rfl, by rw [d3, d4, e7]⟩

theorem encU_eq {m imm d : Nat} (h : m = fld w.toNat 0 7 ∧ imm = fld w.toNat 12 20 ∧ d = fld w.toNat 7 5) : [encU m imm d] = [w] := by
  have hw := w.isLt
  obtain ⟨rfl, rfl, rfl⟩ := h
  refine w32_eq ?_
  simp only [fld]
  omega

theorem encV_eq {m f4 c b a f3 d : Nat} (h : m = fld w.toNat 0 7 ∧ f4 = fld w.toNat 28 4 ∧ c = fld w.toNat 25 3 ∧ b = fld w.toNat 20 5 ∧
    a = fld w.toNat 15 5 ∧ f3 = fld w.toNat 12 3 ∧ d = fld w.toNat 7 5) : [encV m f4 c b a f3 d] = [w] := by
  obtain ⟨hm, rfl, rfl, h⟩ := h
  exact encR_eq ⟨hm, (fld_cat w.toNat 25 3 4).symm, h⟩

theorem encM_eq {f3 sx sw ac ms c cf : Nat} (h : 0x7B = fld w.toNat 0 7 ∧ f3 = fld w.toNat 12 3 ∧ sx = fld w.toNat 26 6 ∧ sw = fld w.toNat 21 5 ∧
    ac = fld w.toNat 18 3 ∧ ms = fld w.toNat 15 3 ∧ c = fld w.toNat 9 3 ∧ cf = fld w.toNat 7 2) : [encM f3 sx sw ac ms c cf] = [w] := by
  have hw := w.isLt
  obtain ⟨hm, rfl, rfl, rfl, rfl, rfl, rfl, rfl⟩ := h
  refine w32_eq ?_
  rw [hm]
  simp only [fld]
  omega

/-- AMO words: funct5, aq and rl (R39). -/
theorem encA_eq {m f5 b a f3 d : Nat} (h : m = fld w.toNat 0 7 ∧ f5 = fld w.toNat 27 5 ∧ b = fld w.toNat 20 5 ∧ a = fld w.toNat 15 5 ∧
    f3 = fld w.toNat 12 3 ∧ d = fld w.toNat 7 5) :
    [encR m (f5 * 4 + (fld w.toNat 26 1 == 1).toNat * 2 + (fld w.toNat 25 1 == 1).toNat) b a f3 d] = [w] := by
  obtain ⟨hm, rfl, h⟩ := h
  have h1 : fld w.toNat 25 7 = fld w.toNat 27 5 * 4 + fld w.toNat 25 2 := fld_cat w.toNat 25 2 5
  have h2 : fld w.toNat 25 2 = fld w.toNat 26 1 * 2 + fld w.toNat 25 1 := fld_cat w.toNat 25 1 1
  rw [toNat_flag, toNat_flag]
  exact encR_eq ⟨hm, by omega, h⟩

end

/-! The tables of the decoder. -/

section
variable {w : W32} {op : Op}

theorem load_recodes (hm : fld w.toNat 0 7 = 0x03) (h : decLoad (fld w.toNat 12 3) = some op) : encode (build w.toNat op) = [w] := by
  unfold decLoad at h
  split at h <;> cases h
  all_goals exact encI_eq (by simp [-BitVec.toNat_ofNat, *])

theorem store_recodes (hm : fld w.toNat 0 7 = 0x23) (h : decStore (fld w.toNat 12 3) = some op) : encode (build w.toNat op) = [w] := by
  unfold decStore at h
  split at h <;> cases h
  all_goals exact encS_eq (by simp [-BitVec.toNat_ofNat, *])

theorem branch_recodes (hm : fld w.toNat 0 7 = 0x63) (h : decBranch (fld w.toNat 12 3) = some op) : encode (build w.toNat op) = [w] := by
  unfold decBranch at h
  split at h <;> cases h
  all_goals exact encB_eq (by simp [-BitVec.toNat_ofNat, *])

theorem op_recodes (hm : fld w.toNat 0 7 = 0x33) (h : decOp (fld w.toNat 25 7) (fld w.toNat 12 3) = some op) : encode (build w.toNat op) = [w] := by
  unfold decOp at h
  split at h <;> cases h
  all_goals exact encR_eq (by simp [-BitVec.toNat_ofNat, *])

theorem op32_recodes (hm : fld w.toNat 0 7 = 0x3B) (h : decOp32 (fld w.toNat 25 7) (fld w.toNat 12 3) = some op) : encode (build w.toNat op) = [w] := by
  unfold decOp32 at h
  split at h <;> cases h
  all_goals exact encR_eq (by simp [-BitVec.toNat_ofNat, *])

theorem imm_eq_of_div {n k : Nat} (h : fld n 20 12 / 64 = k) : k * 64 + fld n 20 6 = fld n 20 12 := by
  simp only [fld] at h ⊢; omega
theorem imm_eq_of_div32 {n k : Nat} (h : fld n 20 12 / 32 = k) : k * 32 + fld n 20 5 = fld n 20 12 := by
  simp only [fld] at h ⊢; omega

theorem opImm_recodes (hm : fld w.toNat 0 7 = 0x13) (h : decOpImm (fld w.toNat 20 12) (fld w.toNat 12 3) = some op) : encode (build w.toNat op) = [w] := by
  unfold decOpImm at h
  split at h
  case h_2 =>
    obtain ⟨h0, rfl⟩ := when?_eq_some.1 h
    have hi := imm_eq_of_div (beq_iff_eq.1 h0)
    exact encI_eq (by simp [-BitVec.toNat_ofNat, *]; omega)
  case h_6 =>
    split at h
    case isTrue h0 =>
      cases h
      have hi := imm_eq_of_div (beq_iff_eq.1 h0)
      exact encI_eq (by simp [-BitVec.toNat_ofNat, *]; omega)
    case isFalse =>
      obtain ⟨h0, rfl⟩ := when?_eq_some.1 h
      have hi := imm_eq_of_div (beq_iff_eq.1 h0)
      exact encI_eq (by simp [-BitVec.toNat_ofNat, *])
  all_goals cases h
  all_goals exact encI_eq (by simp [-BitVec.toNat_ofNat, *])

theorem opImm32_recodes (hm : fld w.toNat 0 7 = 0x1B) (h : decOpImm32 (fld w.toNat 20 12) (fld w.toNat 12 3) = some op) : encode (build w.toNat op) = [w] := by
  unfold decOpImm32 at h
  split at h
  case h_1 =>
    cases h
    exact encI_eq (by simp [-BitVec.toNat_ofNat, *])
  case h_2 =>
    obtain ⟨h0, rfl⟩ := when?_eq_some.1 h
    have hi := imm_eq_of_div32 (beq_iff_eq.1 h0)
    exact encI_eq (by simp [-BitVec.toNat_ofNat, *]; omega)
  case h_3 =>
    split at h
    case isTrue h0 =>
      cases h
      have hi := imm_eq_of_div32 (beq_iff_eq.1 h0)
      exact encI_eq (by simp [-BitVec.toNat_ofNat, *]; omega)
    case isFalse =>
      obtain ⟨h0, rfl⟩ := when?_eq_some.1 h
      have hi := imm_eq_of_div32 (beq_iff_eq.1 h0)
      exact encI_eq (by simp [-BitVec.toNat_ofNat, *])
  case h_4 => cases h

theorem fence_recodes (hm : fld w.toNat 0 7 = 0x0F) (h : decFence (fld w.toNat 20 12) (fld w.toNat 15 5) (fld w.toNat 12 3) (fld w.toNat 7 5) = some op) :
    encode (build w.toNat op) = [w] := by
  have h8 : fld w.toNat 20 12 = fld w.toNat 24 8 * 16 + fld w.toNat 20 4 := fld_cat w.toNat 20 4 8
  have h4 : fld w.toNat 24 8 = fld w.toNat 28 4 * 16 + fld w.toNat 24 4 := fld_cat w.toNat 24 4 4
  unfold decFence at h
  split at h
  case isTrue => cases h
  case isFalse h3 =>
    have h3 : fld w.toNat 12 3 = 0 := by simpa using h3
    split at h
    case isTrue hp =>
      cases h
      simp only [Bool.and_eq_true, beq_iff_eq] at hp
      exact encI_eq ⟨hm.symm, hp.1.1.symm, hp.1.2.symm, h3.symm, hp.2.symm⟩
    case isFalse =>
      split at h
      case isTrue ht =>
        cases h
        exact encI_eq ⟨hm.symm, (beq_iff_eq.1 ht).symm, toNat_r5_fld _ _, h3.symm, toNat_r5_fld _ _⟩
      case isFalse =>
        cases h
        refine encI_eq ⟨hm.symm, ?_, toNat_r5_fld _ _, h3.symm, toNat_r5_fld _ _⟩
        rw [toNat_ofNat_fld, toNat_ofNat_fld, toNat_ofNat_fld]
        omega

theorem system_recodes (hm : fld w.toNat 0 7 = 0x73) (h : decSystem (fld w.toNat 20 12) (fld w.toNat 15 5) (fld w.toNat 12 3) (fld w.toNat 7 5) = some op) :
    encode (build w.toNat op) = [w] := by
  unfold decSystem at h
  split at h
  case h_1 h3 =>
    split at h
    case isTrue => cases h
    case isFalse hz =>
      simp only [Bool.or_eq_true, bne_iff_ne, not_or, not_not] at hz
      split at h <;> cases h
      all_goals exact encI_eq (by simp [-BitVec.toNat_ofNat, *])
  case h_8 => cases h
  all_goals
    obtain ⟨-, rfl⟩ := when?_eq_some.1 h
    exact encI_eq (by simp [-BitVec.toNat_ofNat, *])

theorem amo_recodes (hm : fld w.toNat 0 7 = 0x2F) (h : decAmo (fld w.toNat 27 5) (fld w.toNat 20 5) (fld w.toNat 12 3) = some op) :
    encode (build w.toNat op) = [w] := by
  unfold decAmo at h
  split at h
  case h_1 | h_12 =>
    obtain ⟨h0, rfl⟩ := when?_eq_some.1 h
    exact encA_eq (by simp_all [-BitVec.toNat_ofNat])
  all_goals cases h
  all_goals exact encA_eq (by simp [-BitVec.toNat_ofNat, *])

/-- Words with a rounding mode in funct3 (R39, R40). -/
theorem rounded_eq_some {c : Nat} {k op : Op} (h : rounded c k = some op) : (∀ d, ((Rm.ofCode c).getD d).code = c) ∧ k = op :=
  ⟨rm_code (when?_eq_some.1 h).1, (when?_eq_some.1 h).2⟩

theorem fma_recodes {major : Nat} (hm : fld w.toNat 0 7 = major) (h : decFma major (fld w.toNat 25 2) (fld w.toNat 12 3) = some op) :
    encode (build w.toNat op) = [w] := by
  have h7 : fld w.toNat 25 7 = fld w.toNat 27 5 * 4 + fld w.toNat 25 2 := fld_cat w.toNat 25 2 5
  unfold decFma at h
  split at h
  case isTrue => cases h
  case isFalse hz =>
    simp only [bne_iff_ne, not_not] at hz
    split at h
    case h_5 => cases h
    all_goals
      obtain ⟨hr, rfl⟩ := rounded_eq_some h
      exact encR_eq (by simp [-BitVec.toNat_ofNat, *])

theorem fp_recodes (hm : fld w.toNat 0 7 = 0x53) (h : decFp (fld w.toNat 25 7) (fld w.toNat 20 5) (fld w.toNat 12 3) = some op) :
    encode (build w.toNat op) = [w] := by
  unfold decFp at h
  split at h
  case h_1 | h_2 | h_3 | h_4 =>
    obtain ⟨hr, rfl⟩ := rounded_eq_some h
    exact encR_eq (by simp [-BitVec.toNat_ofNat, *])
  case h_5 =>
    split at h
    case isTrue hb =>
      obtain ⟨hr, rfl⟩ := rounded_eq_some h
      exact encR_eq (by simp_all [-BitVec.toNat_ofNat])
    case isFalse => cases h
  case h_6 | h_7 | h_11 =>
    split at h <;> cases h
    all_goals exact encR_eq (by simp [-BitVec.toNat_ofNat, *])
  case h_8 | h_9 =>
    split at h
    case h_5 => cases h
    all_goals
      obtain ⟨hr, rfl⟩ := rounded_eq_some h
      exact encR_eq (by simp [-BitVec.toNat_ofNat, *])
  case h_10 =>
    split at h
    case isTrue => cases h
    case isFalse hb =>
      simp only [bne_iff_ne, not_not] at hb
      split at h <;> cases h
      all_goals exact encR_eq (by simp [-BitVec.toNat_ofNat, *])
  case h_12 =>
    obtain ⟨h0, rfl⟩ := when?_eq_some.1 h
    exact encR_eq (by simp_all [-BitVec.toNat_ofNat])
  case h_13 => cases h

/-! custom-0 (R47, R48). -/

/-- Words with a type in funct3 (R47). -/
theorem typed_eq_some {c : Nat} {ok : VType → Bool} {k op : Op} (h : typed c ok k = some op) : (∀ d, ((VType.ofCode c).getD d).code = c) ∧ k = op := by
  unfold typed at h
  split at h
  case h_1 ht => exact ⟨vtype_code (by rw [ht]; rfl), (when?_eq_some.1 h).2⟩
  case h_2 => cases h

theorem unary_recodes (hm : fld w.toNat 0 7 = 0x0B) (h4 : fld w.toNat 28 4 = 13)
    (h : decUnary (fld w.toNat 20 5) (fld w.toNat 15 5) (fld w.toNat 12 3) = some op) : encode (build w.toNat op) = [w] := by
  unfold decUnary at h
  split at h
  case h_11 =>
    split at h
    case isTrue ha =>
      obtain ⟨ht, rfl⟩ := typed_eq_some h
      exact encV_eq (by simp_all [-BitVec.toNat_ofNat])
    case isFalse => cases h
  case h_14 => cases h
  all_goals
    obtain ⟨ht, rfl⟩ := typed_eq_some h
    exact encV_eq (by simp [-BitVec.toNat_ofNat, *])

/-- rs2 of a conversion word: its mode, sat and amax (R48). -/
theorem conv_parts {n : Nat} (hb : fld n 20 5 % 2 = 0) : fld n 20 5 / 8 = fld n 23 2 ∧ fld n 23 2 * 8 + fld n 22 1 * 4 + fld n 21 1 * 2 = fld n 20 5 := by
  simp only [fld] at hb ⊢; omega

theorem conv_recodes (hm : fld w.toNat 0 7 = 0x0B) (h4 : fld w.toNat 28 4 = 15)
    (h : decConv (fld w.toNat 25 3) (fld w.toNat 20 5) (fld w.toNat 12 3) (fld w.toNat 7 5) = some op) : encode (build w.toNat op) = [w] := by
  unfold decConv at h
  split at h
  case h_1 | h_2 | h_3 =>
    split at h
    case isTrue hb =>
      obtain ⟨hr, rfl⟩ := when?_eq_some.1 h
      obtain ⟨h8, hp⟩ := conv_parts (beq_iff_eq.1 hb)
      rw [h8] at hr
      exact encV_eq (by simp [-BitVec.toNat_ofNat, *, cvRm_code hr])
    case isFalse => cases h
  case h_7 => cases h
  all_goals
    obtain ⟨h0, rfl⟩ := when?_eq_some.1 h
    exact encV_eq (by simp_all [-BitVec.toNat_ofNat])

/-- A lane width in funct3 (R49) is one in its two low bits. -/
theorem widthed_eq_some {n : Nat} {k op : Op} (h : widthed (fld n 12 3) k = some op) : (∀ d, ((VWidth.ofCode (fld n 12 2)).getD d).code = fld n 12 3) ∧ k = op := by
  obtain ⟨hs, rfl⟩ := when?_eq_some.1 h
  have hlt := vwidth_lt hs
  have he : fld n 12 2 = fld n 12 3 := by simp only [fld] at hlt ⊢; omega
  rw [he]
  exact ⟨vwidth_code hs, rfl⟩

/-- A lane width in the two high bits of funct3 (R48). -/
theorem slide_eq_some {n : Nat} {k op : Op} (h : widthed (fld n 12 3 / 2) k = some op) : (∀ d, ((VWidth.ofCode (fld n 13 2)).getD d).code = fld n 12 3 / 2) ∧ k = op := by
  obtain ⟨hs, rfl⟩ := when?_eq_some.1 h
  have he : fld n 13 2 = fld n 12 3 / 2 := by simp only [fld]; omega
  rw [he]
  exact ⟨vwidth_code hs, rfl⟩

/-- VPERM's funct3 is 4 and its lane width (R48). -/
theorem perm_code {n : Nat} (h4 : 4 ≤ fld n 12 3) (h6 : fld n 12 3 ≤ 6) (d : VWidth) : 4 + ((VWidth.ofCode (fld n 12 2)).getD d).code = fld n 12 3 := by
  have he : fld n 12 2 = fld n 12 3 - 4 := by simp only [fld] at h4 h6 ⊢; omega
  obtain h | h | h : fld n 12 3 = 4 ∨ fld n 12 3 = 5 ∨ fld n 12 3 = 6 := by omega
  all_goals rw [he, h]; rfl

theorem custom0_recodes (hm : fld w.toNat 0 7 = 0x0B)
    (h : decCustom0 (fld w.toNat 28 4) (fld w.toNat 25 3) (fld w.toNat 20 5) (fld w.toNat 15 5) (fld w.toNat 12 3) (fld w.toNat 7 5) = some op) :
    encode (build w.toNat op) = [w] := by
  unfold decCustom0 at h
  split at h
  case h_9 =>
    obtain ⟨ht, rfl⟩ := typed_eq_some h
    have hd : fld w.toNat 10 2 * 8 + fld w.toNat 7 3 = fld w.toNat 7 5 := (fld_cat w.toNat 7 3 2).symm
    have hc := cc_code (fld_lt w.toNat 10 2)
    exact encV_eq (by simp [-BitVec.toNat_ofNat, *])
  case h_13 =>
    split at h <;> cases h
    case h_4 | h_5 | h_6 =>
      exact encV_eq ⟨hm.symm, by simp [*], toNat_ofNat_fld _ _ _, toNat_r5_fld _ _, toNat_r5_fld _ _, perm_code (by omega) (by omega) _, toNat_r5_fld _ _⟩
    all_goals exact encV_eq (by simp [-BitVec.toNat_ofNat, *])
  case h_14 h4 => exact unary_recodes hm h4 h
  case h_15 =>
    split at h
    case isTrue hb =>
      obtain ⟨hw, rfl⟩ := slide_eq_some h
      have := beq_iff_eq.1 hb
      exact encV_eq (by simp [-BitVec.toNat_ofNat, *]; omega)
    case isFalse hb =>
      obtain ⟨hw, rfl⟩ := slide_eq_some h
      have := mt beq_iff_eq.2 hb
      exact encV_eq (by simp [-BitVec.toNat_ofNat, *]; omega)
  case h_16 h4 => exact conv_recodes hm h4 h
  case h_17 => cases h
  all_goals
    obtain ⟨ht, rfl⟩ := typed_eq_some h
    exact encV_eq (by simp [-BitVec.toNat_ofNat, *])

/-! custom-1 (R49). -/

/-- The low bits of a register field whose high bits are given: v24 to v31, and m0 to m7. -/
theorem fld_eq_of_div8 {n lo k : Nat} (h : fld n lo 5 / 8 = k) : fld n lo 5 = k * 8 + fld n lo 3 := by
  rw [← h, show fld n lo 3 = fld n lo 5 % 8 from fld_in n lo 0 3 5 (by decide) |>.trans (by simp)]
  omega

theorem fld_eq_of_div16 {n lo : Nat} (h : fld n lo 5 / 16 = 0) : fld n lo 5 = fld n lo 4 := by
  rw [show fld n lo 4 = fld n lo 5 % 16 from fld_in n lo 0 4 5 (by decide) |>.trans (by simp)]
  omega

theorem custom1_recodes (hm : fld w.toNat 0 7 = 0x2B)
    (h : decCustom1 (fld w.toNat 28 4) (fld w.toNat 25 3) (fld w.toNat 20 5) (fld w.toNat 15 5) (fld w.toNat 12 3) (fld w.toNat 7 5) = some op) :
    encode (build w.toNat op) = [w] := by
  unfold decCustom1 at h
  split at h
  case h_1 | h_2 | h_3 | h_4 | h_7 =>
    obtain ⟨hw, rfl⟩ := widthed_eq_some h
    exact encV_eq (by simp [-BitVec.toNat_ofNat, *])
  case h_5 =>
    split at h
    case isTrue h0 =>
      simp only [Bool.and_eq_true, beq_iff_eq] at h0
      have hd := fld_eq_of_div8 h0.2
      split at h <;> cases h
      all_goals exact encV_eq (by simp [-BitVec.toNat_ofNat, *])
    case isFalse => cases h
  case h_6 =>
    obtain ⟨h0, rfl⟩ := when?_eq_some.1 h
    simp only [Bool.and_eq_true, beq_iff_eq] at h0
    have hd := fld_eq_of_div8 h0.2
    exact encV_eq (by simp [-BitVec.toNat_ofNat, *])
  case h_8 =>
    split at h
    case isTrue h0 =>
      simp only [Bool.and_eq_true, beq_iff_eq] at h0
      obtain ⟨⟨hk, ha⟩, hb⟩ := h0
      have ha := fld_eq_of_div8 ha
      have hb := fld_eq_of_div8 hb
      split at h
      case h_6 => cases h
      case h_5 =>
        obtain ⟨h0, rfl⟩ := when?_eq_some.1 h
        exact encV_eq (by simp_all [-BitVec.toNat_ofNat])
      case h_4 =>
        clear hb
        obtain ⟨h0, rfl⟩ := when?_eq_some.1 h
        simp only [Bool.and_eq_true, beq_iff_eq] at h0
        have hd := fld_eq_of_div8 h0.1
        exact encV_eq (by simp [-BitVec.toNat_ofNat, *])
      all_goals
        obtain ⟨h0, rfl⟩ := when?_eq_some.1 h
        have hd := fld_eq_of_div8 (beq_iff_eq.1 h0)
        exact encV_eq (by simp_all [-BitVec.toNat_ofNat])
    case isFalse => cases h
  case h_9 =>
    obtain ⟨h0, rfl⟩ := when?_eq_some.1 h
    simp only [Bool.and_eq_true, beq_iff_eq] at h0
    have hb := fld_eq_of_div16 h0.2
    exact encV_eq (by simp [-BitVec.toNat_ofNat, *])
  case h_12 => cases h
  all_goals
    obtain ⟨h0, rfl⟩ := when?_eq_some.1 h
    exact encV_eq (by simp_all [-BitVec.toNat_ofNat])

/-! custom-2 (R50 to R53). -/

/-- An even register field holds a register pair's number (R50). -/
theorem pair_of_even {n : Nat} (h : fld n 15 5 % 2 = 0) : fld n 15 5 = fld n 16 4 * 2 := by
  simp only [fld] at h ⊢; omega

theorem mem_recodes (hm : fld w.toNat 0 7 = 0x5B) (h3 : fld w.toNat 12 3 = 0)
    (h : decMem (fld w.toNat 25 7) (fld w.toNat 20 5) (fld w.toNat 15 5) (fld w.toNat 7 5) = some op) : encode (build w.toNat op) = [w] := by
  unfold decMem at h
  split at h
  case h_7 | h_9 =>
    obtain ⟨h0, rfl⟩ := when?_eq_some.1 h
    simp only [Bool.and_eq_true, beq_iff_eq] at h0
    have ha := pair_of_even h0.2
    exact encR_eq (by simp [-BitVec.toNat_ofNat, *])
  case h_8 | h_10 | h_11 =>
    cases h
    exact encR_eq (by simp [-BitVec.toNat_ofNat, *])
  case h_13 => cases h
  all_goals
    obtain ⟨h0, rfl⟩ := when?_eq_some.1 h
    exact encR_eq (by simp_all [-BitVec.toNat_ofNat])

/-- The scope and the kind or width in funct7 of an ordering word (R51). -/
theorem ord_parts {n k : Nat} (h : fld n 25 7 / 32 = k) : fld n 25 7 / 4 % 8 = fld n 27 3 ∧ fld n 25 7 % 4 = fld n 25 2 ∧
    k * 32 + fld n 27 3 * 4 + fld n 25 2 = fld n 25 7 := by
  simp only [fld] at h ⊢; omega

theorem ord_recodes (hm : fld w.toNat 0 7 = 0x5B) (h3 : fld w.toNat 12 3 = 1)
    (h : decOrd (fld w.toNat 25 7) (fld w.toNat 20 5) (fld w.toNat 15 5) (fld w.toNat 7 5) = some op) : encode (build w.toNat op) = [w] := by
  unfold decOrd at h
  split at h
  case h_1 h5 =>
    obtain ⟨e1, e2, hp⟩ := ord_parts h5
    split at h
    case isTrue hz =>
      simp only [Bool.and_eq_true, beq_iff_eq] at hz
      obtain ⟨h0, rfl⟩ := when?_eq_some.1 h
      rw [e1, e2, Bool.and_eq_true] at h0
      refine encR_eq ?_
      rw [scope_code h0.1, fkind_code h0.2]
      simp [*]; omega
    case isFalse => cases h
  case h_2 h5 =>
    obtain ⟨e1, e2, hp⟩ := ord_parts h5
    split at h
    case isTrue hz =>
      obtain ⟨h0, rfl⟩ := when?_eq_some.1 h
      rw [e1, e2, Bool.and_eq_true] at h0
      refine encR_eq ?_
      rw [scope_code h0.1, memW_code h0.2]
      simp_all
    case isFalse => cases h
  case h_3 h5 =>
    obtain ⟨e1, e2, hp⟩ := ord_parts h5
    split at h
    case isTrue hz =>
      obtain ⟨h0, rfl⟩ := when?_eq_some.1 h
      rw [e1, e2, Bool.and_eq_true] at h0
      refine encR_eq ?_
      rw [scope_code h0.1, memW_code h0.2]
      simp_all
    case isFalse => cases h
  case h_4 =>
    split at h
    case h_7 => cases h
    all_goals
      obtain ⟨h0, rfl⟩ := when?_eq_some.1 h
      exact encR_eq (by simp_all)
  case h_5 => cases h

theorem scoped_recodes (hm : fld w.toNat 0 7 = 0x5B) (h3 : fld w.toNat 12 3 = 5) (h : decScoped (fld w.toNat 25 7) = some op) :
    encode (build w.toNat op) = [w] := by
  have e8 : fld w.toNat 25 7 % 8 = fld w.toNat 25 3 := (fld_in w.toNat 25 0 3 7 (by decide) |>.trans (by simp)).symm
  have hp : fld w.toNat 25 7 / 8 * 8 + fld w.toNat 25 3 = fld w.toNat 25 7 := by omega
  unfold decScoped at h
  split at h
  case isTrue => cases h
  case isFalse hs =>
    rw [e8, Option.isNone_iff_eq_none, ← ne_eq, ← Option.isSome_iff_ne_none] at hs
    have hc := scope_code hs
    split at h <;> cases h
    all_goals exact encR_eq (by simp_all)

theorem task_recodes (hm : fld w.toNat 0 7 = 0x5B) (h3 : fld w.toNat 12 3 = 2)
    (h : decTask (fld w.toNat 25 7) (fld w.toNat 20 5) (fld w.toNat 15 5) (fld w.toNat 7 5) = some op) : encode (build w.toNat op) = [w] := by
  unfold decTask at h
  split at h
  case h_15 | h_16 =>
    cases h
    exact encR_eq (by simp [*])
  case h_18 => cases h
  all_goals
    obtain ⟨h0, rfl⟩ := when?_eq_some.1 h
    exact encR_eq (by simp_all)

theorem msg_recodes (hm : fld w.toNat 0 7 = 0x5B) (h3 : fld w.toNat 12 3 = 3)
    (h : decMsg (fld w.toNat 25 7) (fld w.toNat 20 5) (fld w.toNat 15 5) (fld w.toNat 7 5) = some op) : encode (build w.toNat op) = [w] := by
  unfold decMsg at h
  split at h
  case h_6 => cases h
  all_goals
    obtain ⟨h0, rfl⟩ := when?_eq_some.1 h
    exact encR_eq (by simp_all)

theorem fab_recodes (hm : fld w.toNat 0 7 = 0x5B) (h3 : fld w.toNat 12 3 = 4)
    (h : decFab (fld w.toNat 25 7) (fld w.toNat 20 5) (fld w.toNat 7 5) = some op) : encode (build w.toNat op) = [w] := by
  unfold decFab at h
  split at h
  case h_5 => cases h
  all_goals
    obtain ⟨h0, rfl⟩ := when?_eq_some.1 h
    exact encR_eq (by simp_all)

theorem custom2_recodes (hm : fld w.toNat 0 7 = 0x5B)
    (h : decCustom2 (fld w.toNat 25 7) (fld w.toNat 20 5) (fld w.toNat 15 5) (fld w.toNat 12 3) (fld w.toNat 7 5) = some op) :
    encode (build w.toNat op) = [w] := by
  unfold decCustom2 at h
  split at h
  case h_1 h3 => exact mem_recodes hm h3 h
  case h_2 h3 => exact ord_recodes hm h3 h
  case h_3 h3 => exact task_recodes hm h3 h
  case h_4 h3 => exact msg_recodes hm h3 h
  case h_5 h3 => exact fab_recodes hm h3 h
  case h_6 h3 => exact scoped_recodes hm h3 h
  case h_7 => cases h

theorem chbind_recodes (hm : fld w.toNat 0 7 = 0x5B) (h3 : fld w.toNat 12 3 = 3) (h7 : fld w.toNat 25 7 = 4)
    (h : when? (fld w.toNat 20 5 == 0 && fld w.toNat 7 5 / 8 == 3) .chbind = some op) : encode (build w.toNat op) = [w] := by
  obtain ⟨h0, rfl⟩ := when?_eq_some.1 h
  simp only [Bool.and_eq_true, beq_iff_eq] at h0
  have hd := fld_eq_of_div8 h0.2
  exact encR_eq (by simp [-BitVec.toNat_ofNat, *])

/-! custom-3 (R54 to R57, R62, R66). -/

theorem mat_recodes (hm : fld w.toNat 0 7 = 0x7B) (h3 : fld w.toNat 12 3 = 4)
    (h : decMat (fld w.toNat 25 7) (fld w.toNat 20 5) (fld w.toNat 15 5) (fld w.toNat 7 5) = some op) : encode (build w.toNat op) = [w] := by
  unfold decMat at h
  split at h
  case h_22 => cases h
  all_goals
    obtain ⟨h0, rfl⟩ := when?_eq_some.1 h
    exact encR_eq (by simp_all)

theorem custom3_recodes (hm : fld w.toNat 0 7 = 0x7B) (h : decCustom3 w.toNat = some op) : encode (build w.toNat op) = [w] := by
  have hw := w.isLt
  unfold decCustom3 at h
  split at h
  case h_1 =>
    split at h <;> cases h
    all_goals exact encM_eq (by simp [-BitVec.toNat_ofNat, *])
  case h_2 =>
    split at h
    case isTrue hz =>
      have hp : fld w.toNat 18 3 = fld w.toNat 19 2 * 2 + fld w.toNat 18 1 := fld_cat w.toNat 18 1 2
      split at h <;> cases h
      all_goals exact encM_eq (by simp_all [-BitVec.toNat_ofNat])
    case isFalse => cases h
  case h_3 | h_4 =>
    obtain ⟨h0, rfl⟩ := when?_eq_some.1 h
    have hc := chainFmt_code h0
    exact encM_eq (by simp [-BitVec.toNat_ofNat, *])
  case h_5 h3 =>
    split at h
    case isTrue h7 =>
      obtain ⟨h0, rfl⟩ := when?_eq_some.1 h
      simp only [beq_iff_eq] at h7 h0
      refine w32_eq ?_
      rw [toNat_ofNat_fld]
      simp only [fld] at *
      omega
    case isFalse => exact mat_recodes hm h3 h
  case h_6 h3 =>
    split at h
    case isTrue hz =>
      obtain ⟨h0, rfl⟩ := when?_eq_some.1 h
      have hk := endKind_code h0 .plain
      simp only [Bool.and_eq_true, beq_iff_eq] at hz
      refine w32_eq ?_
      rw [toNat_ofNat_fld, toNat_flag, hk]
      clear hk h0 h
      simp only [fld] at *
      omega
    case isFalse => cases h
  case h_7 h3 =>
    obtain ⟨h0, rfl⟩ := when?_eq_some.1 h
    simp only [beq_iff_eq] at h0
    refine w32_eq ?_
    rw [toNat_ofNat_fld, toNat_ofNat_fld, toNat_r5_fld, toNat_flag]
    clear h
    simp only [fld] at *
    omega
  case h_8 => cases h

/-! Every word. -/

theorem jal_recodes (hm : fld w.toNat 0 7 = 0x6F) : encode (build w.toNat .jal) = [w] := by
  have h31 : fld w.toNat 31 1 < 2 := fld_lt _ _ _
  have h12 : fld w.toNat 12 8 < 256 := fld_lt _ _ _
  have h20 : fld w.toNat 20 1 < 2 := fld_lt _ _ _
  have h21 : fld w.toNat 21 10 < 1024 := fld_lt _ _ _
  have hw : w.toNat = fld w.toNat 0 7 + fld w.toNat 7 5 * 2 ^ 7 + fld w.toNat 12 8 * 2 ^ 12 + fld w.toNat 20 1 * 2 ^ 20 + fld w.toNat 21 10 * 2 ^ 21 + fld w.toNat 31 1 * 2 ^ 31 := by
    have hw := w.isLt
    simp only [fld]
    omega
  refine w32_eq ?_
  rw [toNat_r5_fld, BitVec.toNat_ofNat, Nat.mod_eq_of_lt (b := 2 ^ 20) (by omega)]
  rw [hm] at hw
  generalize fld w.toNat 7 5 = d at *
  generalize fld w.toNat 31 1 = s, fld w.toNat 12 8 = t, fld w.toNat 20 1 = u, fld w.toNat 21 10 = v at *
  have d4 : (s * 524288 + t * 2048 + u * 1024 + v) % 1024 = v := by omega
  have d1 : (s * 524288 + t * 2048 + u * 1024 + v) / 524288 = s := by omega
  have d2 : (s * 524288 + t * 2048 + u * 1024 + v) / 2048 = s * 256 + t := by omega
  have d2' : (s * 256 + t) % 256 = t := by clear d1 d2 d4; omega
  have d3 : (s * 524288 + t * 2048 + u * 1024 + v) / 1024 % 2 = u := by omega
  rw [d1, d3, d4, d2, d2', hw]

theorem major_recodes (h : decMajor w.toNat = some op) : encode (build w.toNat op) = [w] := by
  unfold decMajor at h
  dsimp only at h
  split at h
  case h_1 hm => exact load_recodes hm h
  case h_2 hm =>
    obtain ⟨h0, rfl⟩ := when?_eq_some.1 h
    have h3 := beq_iff_eq.1 h0
    exact encI_eq (by simp [-BitVec.toNat_ofNat, *])
  case h_3 hm => exact custom0_recodes hm h
  case h_4 hm => exact fence_recodes hm h
  case h_5 hm => exact opImm_recodes hm h
  case h_6 hm =>
    cases h
    exact encU_eq (by simp [-BitVec.toNat_ofNat, *])
  case h_7 hm => exact opImm32_recodes hm h
  case h_8 hm => exact store_recodes hm h
  case h_9 hm =>
    obtain ⟨h0, rfl⟩ := when?_eq_some.1 h
    have h3 := beq_iff_eq.1 h0
    exact encS_eq (by simp [-BitVec.toNat_ofNat, *])
  case h_10 hm => exact custom1_recodes hm h
  case h_11 hm => exact amo_recodes hm h
  case h_12 hm => exact op_recodes hm h
  case h_13 hm =>
    cases h
    exact encU_eq (by simp [-BitVec.toNat_ofNat, *])
  case h_14 hm => exact op32_recodes hm h
  case h_15 hm | h_16 hm | h_17 hm | h_18 hm => exact fma_recodes hm h
  case h_19 hm => exact fp_recodes hm h
  case h_20 hm =>
    split at h
    case isTrue h3 =>
      simp only [Bool.and_eq_true, beq_iff_eq] at h3
      exact chbind_recodes hm h3.1 h3.2 h
    case isFalse => exact custom2_recodes hm h
  case h_21 hm => exact branch_recodes hm h
  case h_22 hm =>
    obtain ⟨h0, rfl⟩ := when?_eq_some.1 h
    have h3 := beq_iff_eq.1 h0
    exact encI_eq (by simp [-BitVec.toNat_ofNat, *])
  case h_23 hm =>
    cases h
    exact jal_recodes hm
  case h_24 hm => exact system_recodes hm h
  case h_25 hm => exact custom3_recodes hm h
  case h_26 => cases h

theorem fmt_recodes (hm : fld w.toNat 0 7 = 0x7B) (h3 : fld w.toNat 12 3 = 7) (h : decFmt w.toNat = .ok op) : encode (build w.toNat op) = [w] := by
  unfold decFmt at h
  split at h
  case h_1 ha hb hd hs =>
    split at h
    case isTrue hz =>
      cases h
      simp only [Bool.and_eq_true, beq_iff_eq] at hz
      have hw := w.isLt
      refine w32_eq ?_
      rw [fmt_code (Option.isSome_of_mem ha), fmt_code (Option.isSome_of_mem hb), fmt_code (Option.isSome_of_mem hd), scaleMode_code (Option.isSome_of_mem hs)]
      clear ha hb hd hs
      simp only [fld] at *
      omega
    case isFalse => cases h
  case h_2 => cases h

theorem opOf_recodes (h : opOf w = .ok op) : encode (build w.toNat op) = [w] := by
  unfold opOf at h
  split at h
  case isTrue hf =>
    simp only [Bool.and_eq_true, beq_iff_eq] at hf
    exact fmt_recodes hf.1 hf.2 h
  case isFalse =>
    split at h
    case h_1 hd =>
      cases h
      exact major_recodes hd
    case h_2 => cases h

theorem decode_recodes {i : Instr} (h : decode w = .ok i) : encode i = [w] := by
  unfold decode at h
  split at h
  case h_1 ho =>
    cases h
    exact opOf_recodes ho
  case h_2 => cases h

end

/-- Settles O56: each table of the decoder admits a word only with every fixed bit of its encoding, so the encoder writes the word again from its fields. -/
theorem decodeThenEncode : Obligations.DecodeThenEncode := by
  unfold Obligations.DecodeThenEncode
  exact fun _ _ h => decode_recodes h

end Sys2Proof.Laws.Recode

namespace Sys2Proof.Machine
open Sys2Proof

/-- Settles O54: the decoder evaluates each word. -/
theorem decodeSamples : Obligations.DecodeSamples := by
  unfold Obligations.DecodeSamples
  exact ⟨rfl, rfl, rfl, rfl, rfl, rfl, rfl, rfl, rfl, rfl, rfl, rfl, rfl, rfl, rfl⟩

end Sys2Proof.Machine

namespace Sys2Proof.Machine
open Sys2Proof

/-! Integer computational instructions (R39, R93): the model's words as the numbers of the base specification. -/

theorem immU_eq_append (imm : BitVec 20) : immU imm = Spec.sx (imm ++ 0#12) := by
  unfold immU Spec.sx
  ext i hi
  simp only [BitVec.getElem_shiftLeft, BitVec.getElem_signExtend, BitVec.msb_append]
  grind

theorem boolW_slt (a b : Word) : boolW (a.slt b) = Spec.flag (a.toInt < b.toInt) := by
  simp [boolW, Spec.flag, BitVec.slt]

theorem boolW_slt_imm12 (a : Word) (imm : BitVec 12) : boolW (a.slt (imm12 imm)) = Spec.flag (a.toInt < imm.toInt) := by
  rw [boolW_slt, imm12, BitVec.toInt_signExtend_of_le (by decide)]

theorem boolW_ult (a b : Word) : boolW (a.ult b) = Spec.flag (a.toNat < b.toNat) := by
  simp [boolW, Spec.flag, BitVec.ult]

theorem ushiftRight_eq_ofNat {w : Nat} (a : BitVec w) (n : Nat) : a >>> n = BitVec.ofNat w (a.toNat / 2 ^ n) := by
  apply BitVec.eq_of_toNat_eq
  rw [BitVec.toNat_ushiftRight, BitVec.toNat_ofNat, Nat.shiftRight_eq_div_pow, Nat.mod_eq_of_lt (Nat.lt_of_le_of_lt (Nat.div_le_self _ _) a.isLt)]

theorem sshiftRight_eq_ofInt {w : Nat} (a : BitVec w) (n : Nat) : a.sshiftRight n = BitVec.ofInt w (a.toInt / 2 ^ n) := by
  rw [BitVec.sshiftRight, Int.shiftRight_eq_div_pow]
  norm_cast

theorem ofInt_neg_one (w : Nat) : BitVec.ofInt w (-1) = BitVec.allOnes w := by
  rw [BitVec.ofInt_neg, BitVec.ofInt_ofNat]
  exact BitVec.neg_one_eq_allOnes

theorem divS_eq_quotS {w : Nat} (a b : BitVec w) : divS a b = Spec.quotS a b := by
  unfold divS Spec.quotS
  split
  case isTrue => exact (ofInt_neg_one w).symm
  case isFalse => rw [← BitVec.toInt_inj, BitVec.toInt_sdiv, BitVec.toInt_ofInt]

theorem remS_eq_restS {w : Nat} (a b : BitVec w) : remS a b = Spec.restS a b := by
  unfold remS Spec.restS
  split
  case isTrue => rfl
  case isFalse => rw [← BitVec.toInt_srem, BitVec.ofInt_toInt]

theorem divU_eq_quotU {w : Nat} (a b : BitVec w) : divU a b = Spec.quotU a b := by
  unfold divU Spec.quotU
  split
  case isTrue => exact (ofInt_neg_one w).symm
  case isFalse => rw [← BitVec.toNat_udiv, BitVec.ofNat_toNat, BitVec.setWidth_eq]; rfl

theorem remU_eq_restU {w : Nat} (a b : BitVec w) : remU a b = Spec.restU a b := by
  unfold remU Spec.restU
  split
  case isTrue => rfl
  case isFalse => rw [← BitVec.toNat_umod, BitVec.ofNat_toNat, BitVec.setWidth_eq]; rfl

theorem low_add (a b : Word) : Spec.low (a + b) = lo32 a + lo32 b := BitVec.setWidth_add a b (by decide)
theorem low_mul (a b : Word) : Spec.low (a * b) = lo32 a * lo32 b := BitVec.setWidth_mul a b (by decide)
theorem low_sub (a b : Word) : Spec.low (a - b) = lo32 a - lo32 b := by
  unfold Spec.low lo32
  bv_omega

/-- Every form is one write of its result. -/
theorem exec_of_intResult {i : Instr} {s : State} {rd : BitVec 5} {v : Word} (h : Spec.intResult s i = some (rd, v)) : exec i s = alu rd v s := by
  unfold Spec.intResult at h
  split at h
  case h_44 => cases h
  all_goals
    cases h
    refine congrArg (fun v => alu _ v s) ?_
  case h_1.refl => exact immU_eq_append _
  case h_2.refl => exact congrArg (s.me.pc + ·) (immU_eq_append _)
  case h_4.refl => exact boolW_slt_imm12 _ _
  case h_15.refl => exact boolW_slt _ _
  case h_5.refl | h_16.refl => exact boolW_ult _ _
  case h_10.refl | h_18.refl => exact ushiftRight_eq_ofNat _ _
  case h_11.refl | h_19.refl => exact sshiftRight_eq_ofInt _ _
  case h_24.refl | h_29.refl => exact congrArg Spec.sx (ushiftRight_eq_ofNat _ _)
  case h_25.refl | h_30.refl => exact congrArg Spec.sx (sshiftRight_eq_ofInt _ _)
  case h_26.refl => exact congrArg Spec.sx (low_add _ _).symm
  case h_27.refl => exact congrArg Spec.sx (low_sub _ _).symm
  case h_39.refl => exact congrArg Spec.sx (low_mul _ _).symm
  case h_35.refl => exact divS_eq_quotS _ _
  case h_36.refl => exact divU_eq_quotU _ _
  case h_37.refl => exact remS_eq_restS _ _
  case h_38.refl => exact remU_eq_restU _ _
  case h_40.refl => exact congrArg Spec.sx (divS_eq_quotS _ _)
  case h_41.refl => exact congrArg Spec.sx (divU_eq_quotU _ _)
  case h_42.refl => exact congrArg Spec.sx (remS_eq_restS _ _)
  case h_43.refl => exact congrArg Spec.sx (remU_eq_restU _ _)
  all_goals rfl

/-- An integer result is written, unless its destination is armed. -/
theorem alu_retired (rd : BitVec 5) (v : Word) (s : State) (h : rd.toNat ∉ s.me.armed) :
    ∃ t, alu rd v s = .next t ∧ Retired (s.modHart s.cur fun H => H.setX rd.toNat v) t :=
  ⟨retireX s rd v, by rw [alu, (armedW_ok_iff s rd).2 h, finish_ok], retireWith_retired s _⟩

theorem alu_armed (rd : BitVec 5) (v : Word) (s : State) (h : rd.toNat ∈ s.me.armed) :
    alu rd v s = .next (takeTrap s s.cur false 30 (BitVec.ofNat 64 rd.toNat)) := by
  rw [alu, armedW_armed h, finish_trap_none]

/-- Settles O2: every form is one write of its result, and the results are the numbers of the base specification. -/
theorem integerResults : Obligations.IntegerResults := by
  unfold Obligations.IntegerResults
  intro i s rd v h
  rw [exec_of_intResult h]
  exact ⟨alu_retired rd v s, alu_armed rd v s⟩

end Sys2Proof.Machine

namespace Sys2Proof.Machine
open Sys2Proof

/-! AMOs on own memory (R221, R231, R233). -/

/-- The bytes of the number they make are the bytes (R3). -/
theorem toBytes_ofBytes : ∀ l : List Byte, toBytes l.length (ofBytes l) = l
  | [] => rfl
  | b :: r => by
    have hb := b.isLt
    have hn : BitVec.ofNat 8 (b.toNat + 256 * ofBytes r) = b := BitVec.eq_of_toNat_eq (by rw [BitVec.toNat_ofNat]; omega)
    have hr : (b.toNat + 256 * ofBytes r) / 256 = ofBytes r := by omega
    rw [ofBytes, List.length_cons, toBytes, hn, hr, toBytes_ofBytes r]

/-- What an AMO form is in the model: one operation, with checks of its release part that hold once it is released. -/
structure IsAmo (s : State) (i : Instr) (A : Spec.Amo) (p q : Pre) (op : Nat) (v : Word) (cmp : Option Word) : Prop where
  exec_eq : exec i s = amoInstr (.seq (accessPre s A.adr A.n true false) p) q A.rd (.amo A.rd.toNat A.n) A.adr op A.n v cmp s
  release : Spec.released s i A.rel → p = .ok ∧ q = .ok
  size    : A.n = 4 ∨ A.n = 8
  new_eq  : ∀ old, amoNew op A.n old v.toNat = A.new old
  cmp_eq  : A.cmp = cmp.map fun c => c.toNat % 2 ^ (8 * A.n)

/-- A base release part waits for the accesses within package scope (R231). -/
theorem rlPre_ok {s : State} {rl : Bool} (h : rl = true → outstanding s s.cur 3 false = false) : rlPre s rl = .ok := by
  cases rl with
  | false => rfl
  | true => simp [rlPre, h rfl]

theorem isAmo_base {s : State} {i : Instr} {rd a b : BitVec 5} {rl : Bool} {op n : Nat} {new : Nat → Nat} (he : exec i s = baseAmo op rd a b n rl s)
    (hrel : Spec.released s i (Spec.relOf rl) → rl = true → outstanding s s.cur 3 false = false) (hn : n = 4 ∨ n = 8)
    (hnew : ∀ old, amoNew op n old (s.x b).toNat = new old) :
    ∃ p q op v cmp, IsAmo s i ⟨rd, s.x a, n, new, none, Spec.relOf rl⟩ p q op v cmp :=
  ⟨rlPre s rl, .ok, op, s.x b, none, he, fun h => ⟨rlPre_ok (hrel h), rfl⟩, hn, hnew, rfl⟩

theorem isAmo_scoped {s : State} {i : Instr} {rd a b : BitVec 5} {sc : Scope} {op : Nat} {cmp : Option Word} {c : Option Nat} {new : Nat → Nat}
    (he : exec i s = scopedAmo op sc rd a b cmp s) (hrel : Spec.released s i (some sc.code) → releasePre s sc.code = .ok)
    (hnew : ∀ old, amoNew op 8 old (s.x b).toNat = new old) (hc : c = cmp.map fun c => c.toNat % 2 ^ (8 * 8)) :
    ∃ p q op v cmp, IsAmo s i ⟨rd, s.x a, 8, new, c, some sc.code⟩ p q op v cmp :=
  ⟨_, _, op, s.x b, cmp, he, fun h => (Pre.seq_ok_iff _ _).1 (hrel h), .inr rfl, hnew, hc⟩

/-- A double word is its own low 64 bits. -/
theorem mod_double (w : Word) : w.toNat % 2 ^ (8 * 8) = w.toNat := Nat.mod_eq_of_lt w.isLt

theorem isAmo_of_form {s : State} {i : Instr} {A : Spec.Amo} (h : Spec.amoForm s i = some A) : ∃ p q op v cmp, IsAmo s i A p q op v cmp := by
  unfold Spec.amoForm at h
  split at h
  case h_29 => cases h
  all_goals cases h
  case h_1 | h_3 | h_5 | h_7 | h_9 | h_11 | h_13 | h_15 | h_17 => exact isAmo_base rfl (fun h hrl => by subst hrl; exact h) (.inl rfl) fun _ => rfl
  case h_2 | h_4 | h_6 | h_8 | h_10 | h_12 | h_14 | h_16 | h_18 =>
    exact isAmo_base rfl (fun h hrl => by subst hrl; exact h) (.inr rfl) fun _ => by simp only [amoNew, mod_double]; rfl
  case h_28 => exact isAmo_scoped (cmp := some _) rfl id (fun _ => by simp only [amoNew, mod_double]; rfl) (congrArg some (mod_double _).symm)
  all_goals exact isAmo_scoped rfl id (fun _ => by simp only [amoNew, mod_double]; rfl) rfl

theorem amoAt_poisoned {s : State} {wr : Option Nat} {loc op n b : Nat} {v : Word} {cmp : Option Word} (h : (load s loc n).2.2 = some b) :
    amoAt s wr loc op n v cmp = ((load s loc n).1, .data 0 (some (0, b - loc))) := by
  unfold amoAt
  rw [show load s loc n = ((load s loc n).1, (load s loc n).2.1, some b) by rw [← h]]

/-- t is s after an AMO of n bytes at loc that leaves `bytes` there: of the harts only reservations of others end (R91). -/
structure AmoDone (s t : State) (loc n : Nat) (bytes : List Byte) : Prop where
  bytes_eq : t.mem.readBytes loc n = bytes
  outside  : SameOutside s t loc n
  cur_eq   : t.cur = s.cur
  me_eq    : t.me = s.me
  net_eq   : t.net = s.net
  harts    : ∀ h, t.hart h = { s.hart h with resv := (t.hart h).resv }

/-- An AMO that writes (R221). -/
theorem amoDone_store (s : State) (loc n x : Nat) : AmoDone s (store (load s loc n).1 (some s.cur) loc (toBytes n x) false) loc n (toBytes n x) where
  bytes_eq := by
    have h := Memory.readBytes_writeBytes (toBytes n x) (load s loc n).1.mem loc
    rwa [toBytes_length, ← store_mem _ (some s.cur) loc _ false] at h
  outside k hk := by
    rw [store_outside _ _ _ _ _ k (by rwa [toBytes_length]), load_mem]
  cur_eq := by rw [store_cur, load_cur]
  me_eq := by
    have h := store_me (load s loc n).1 loc (toBytes n x) false
    rwa [load_cur, load_me] at h
  net_eq := by rw [store_net, load_net]
  harts h := by
    have := (losesResv_store (load s loc n).1 (some s.cur) loc (toBytes n x) false h).1
    rwa [load_hart] at this

/-- A CAS that does not write (R233). -/
theorem amoDone_load (s : State) (loc n : Nat) : AmoDone s (load s loc n).1 loc n (toBytes n (ofBytes (s.mem.readBytes loc n))) where
  bytes_eq := by
    have h := toBytes_ofBytes (s.mem.readBytes loc n)
    rw [Memory.readBytes_length] at h
    rw [load_mem, h]
  outside k _ := by rw [load_mem]
  cur_eq := load_cur _ _ _
  me_eq := load_me _ _ _
  net_eq := load_net _ _ _
  harts h := by rw [load_hart]

/-- Whether an AMO stores: a CAS compares first (R233). -/
def amoStores (cmp : Option Nat) (old : Nat) : Bool :=
  match cmp with
  | some c => decide (c = old)
  | none => true

/-- An AMO that meets no poison gives the old value, and stores the new one if the old one is the one it compares with. -/
theorem amoAt_good {s : State} {loc op n : Nat} {v : Word} {cmp : Option Word} (h : (load s loc n).2.2 = none) :
    let old := ofBytes (s.mem.readBytes loc n)
    let stored := amoStores (cmp.map fun c => c.toNat % 2 ^ (8 * n)) old
    ∃ u, amoAt s (some s.cur) loc op n v cmp = (u, .data (BitVec.ofNat 512 old) none) ∧
      AmoDone s u loc n (toBytes n (if stored then amoNew op n old v.toNat else old)) := by
  intro old stored
  have hl : load s loc n = ((load s loc n).1, old, none) := by rw [← h, ← show _ = old from load_value s loc n]
  unfold amoAt
  rw [hl]
  cases cmp with
  | none => exact ⟨_, rfl, amoDone_store s loc n _⟩
  | some c =>
    by_cases hc : c.toNat % 2 ^ (8 * n) = old
    · have hs : stored = true := decide_eq_true hc
      rw [hs]
      exact ⟨_, by simp [hc], amoDone_store s loc n _⟩
    · have hs : stored = false := decide_eq_false hc
      rw [hs]
      exact ⟨_, by simp [hc], amoDone_load s loc n⟩

theorem ownLoc_eq (s : State) (off : Nat) : ownLoc s off = Spec.own s off := rfl

theorem landNow_amo {s : State} {rd : BitVec 5} {a : Word} {n v : Nat} (hn : n = 4 ∨ n = 8) (hv : v < 2 ^ (8 * n)) :
    landNow s (.amo rd.toNat n) a (BitVec.ofNat 512 v).toNat = .next (retireWith s fun H => H.setX rd.toNat (Spec.extended n true v)) := by
  have hx := loadValue_extended true (show n = 1 ∨ n = 2 ∨ n = 4 ∨ n = 8 by omega) hv
  have hl : land (.amo rd.toNat n) 0 (BitVec.ofNat 512 (BitVec.ofNat 512 v).toNat) s.me = .ok (s.me.setX rd.toNat (Spec.extended n true v)) := by
    rw [BitVec.ofNat_toNat, BitVec.setWidth_eq, ← hx]; rfl
  unfold landNow
  rw [hl]; rfl

section
variable {s : State} {rd : BitVec 5} {a : Word} {op n off : Nat} {v : Word} {cmp : Option Word} (hp : placeNow s a = .own off)
include hp

theorem amoInstr_poisoned {b : Nat} (h : (load s (Spec.own s off) n).2.2 = some b) (q : Pre) :
    amoInstr .ok q rd (.amo rd.toNat n) a op n v cmp s = .next (takeTrap (load s (Spec.own s off) n).1 s.cur false 27 a) := by
  unfold amoInstr
  rw [hp]
  dsimp only [ownLoc_eq]
  rw [amoAt_poisoned h]
  dsimp only
  rw [finish_trap_none, load_cur]

theorem amoInstr_armed (h : (load s (Spec.own s off) n).2.2 = none) (hrd : rd.toNat ∈ s.me.armed) :
    amoInstr .ok .ok rd (.amo rd.toNat n) a op n v cmp s =
      .next (takeTrap (load s (Spec.own s off) n).1 s.cur false 30 (BitVec.ofNat 64 rd.toNat)) := by
  obtain ⟨u, hu, -⟩ := amoAt_good (op := op) (v := v) (cmp := cmp) h
  unfold amoInstr
  rw [hp]
  dsimp only [ownLoc_eq]
  rw [Pre.seq, armedW_armed hrd]
  rw [hu]
  dsimp only
  rw [finish_trap_none, load_cur]

theorem amoInstr_lands (hn : n = 4 ∨ n = 8) (h : (load s (Spec.own s off) n).2.2 = none) (hrd : rd.toNat ∉ s.me.armed) :
    let old := ofBytes (s.mem.readBytes (Spec.own s off) n)
    let stored := amoStores (cmp.map fun c => c.toNat % 2 ^ (8 * n)) old
    ∃ u, amoInstr .ok .ok rd (.amo rd.toNat n) a op n v cmp s = .next (retireWith u fun H => H.setX rd.toNat (Spec.extended n true old)) ∧
      AmoDone s u (Spec.own s off) n (toBytes n (if stored then amoNew op n old v.toNat else old)) := by
  intro old stored
  obtain ⟨u, hu, hd⟩ := amoAt_good (op := op) (v := v) (cmp := cmp) h
  refine ⟨u, ?_, hd⟩
  unfold amoInstr
  rw [hp]
  dsimp only [ownLoc_eq]
  rw [Pre.seq, (armedW_ok_iff s rd).2 hrd]
  rw [hu]
  exact landNow_amo hn (loadN_lt s _ n)

end

/-- Settles O6: every AMO form is one operation of the model, which on own memory loads, stores and lands at once. -/
theorem ownAmos : Obligations.OwnAmos := by
  unfold Obligations.OwnAmos
  intro i s A off hA hp hpre hrel r old stored
  obtain ⟨p, q, op, v, cmp, he, hr, hn, hnew, hcmp⟩ := isAmo_of_form hA
  obtain ⟨rfl, rfl⟩ := hr hrel
  rw [hpre] at he
  change exec i s = amoInstr .ok .ok A.rd _ A.adr op A.n v cmp s at he
  rw [he]
  refine ⟨fun hb hrd => ?_, fun hb hrd => amoInstr_armed hp hb hrd, fun b hb => amoInstr_poisoned hp hb _⟩
  obtain ⟨u, hu, hd⟩ := amoInstr_lands (op := op) (v := v) (cmp := cmp) hp hn hb hrd
  rw [← hcmp, hnew] at hd
  refine ⟨u, _, hu, ?_, hd.bytes_eq, hd.outside, hd.me_eq, hd.net_eq, hd.harts⟩
  rw [← hd.cur_eq]
  exact retireWith_retired u _

end Sys2Proof.Machine

namespace Sys2Proof.Machine
open Sys2Proof

/-! LR and SC on own memory (R91). -/

theorem ownPre_own {s : State} {a : Word} {off : Nat} (hp : placeNow s a = .own off) (c : Nat) : ownPre s a c = .ok := by
  rw [ownPre, hp, need_ok_iff]

theorem loadValue_own {n v : Nat} (hn : n = 4 ∨ n = 8) (hv : v < 2 ^ (8 * n)) : loadValue n true v = Spec.extended n true v := by
  have hw : (BitVec.ofNat 512 v).toNat = v := by
    rw [BitVec.toNat_ofNat]
    rcases hn with rfl | rfl <;> omega
  rw [← loadValue_extended true (by omega) hv, hw]

section
variable {s : State} {rd a b : BitVec 5} {n off : Nat} {rl : Bool} (hp : placeNow s (s.x a) = .own off)
include hp

/-- An LR past its checks is the load and what comes of it. -/
theorem loadReserved_own (hrl : rlPre s rl = .ok) (ha : alignPre (s.x a) n false = .ok) (hl : lockPre s (s.x a) n false = .ok) :
    loadReserved rd a n rl s =
      let r := load s (Spec.own s off) n
      finish r.1 (.all [need r.2.2.isNone 27 (s.x a), armedW s rd])
        (retireWith r.1 fun H => { H.setX rd.toNat (loadValue n true r.2.1) with resv := some (Spec.own s off / 16) }) := by
  have hpre : Pre.all [alignPre (s.x a) n false, ownPre s (s.x a) 5, lockPre s (s.x a) n false, rlPre s rl] = .ok := by
    rw [ha, ownPre_own hp, hl, hrl]; rfl
  unfold loadReserved
  dsimp only
  rw [hpre, hp]
  rfl

theorem loadReserved_poisoned (hrl : rlPre s rl = .ok) (ha : alignPre (s.x a) n false = .ok) (hl : lockPre s (s.x a) n false = .ok) {x : Nat}
    (hx : (load s (Spec.own s off) n).2.2 = some x) :
    loadReserved rd a n rl s = .next (takeTrap (load s (Spec.own s off) n).1 s.cur false 27 (s.x a)) := by
  rw [loadReserved_own hp hrl ha hl]
  dsimp only
  rw [hx]
  exact (finish_trap_none _ _ 27 _).trans (by rw [load_cur])

theorem loadReserved_armed (hrl : rlPre s rl = .ok) (ha : alignPre (s.x a) n false = .ok) (hl : lockPre s (s.x a) n false = .ok)
    (hx : (load s (Spec.own s off) n).2.2 = none) (hrd : rd.toNat ∈ s.me.armed) :
    loadReserved rd a n rl s = .next (takeTrap (load s (Spec.own s off) n).1 s.cur false 30 (BitVec.ofNat 64 rd.toNat)) := by
  rw [loadReserved_own hp hrl ha hl]
  dsimp only
  rw [hx, armedW_armed hrd]
  exact (finish_trap_none _ _ 30 _).trans (by rw [load_cur])

theorem loadReserved_lands (hn : n = 4 ∨ n = 8) (hrl : rlPre s rl = .ok) (ha : alignPre (s.x a) n false = .ok) (hl : lockPre s (s.x a) n false = .ok)
    (hx : (load s (Spec.own s off) n).2.2 = none) (hrd : rd.toNat ∉ s.me.armed) :
    ∃ t, loadReserved rd a n rl s = .next t ∧ Retired ((load s (Spec.own s off) n).1.modHart s.cur fun H =>
      { H.setX rd.toNat (Spec.extended n true (ofBytes (s.mem.readBytes (Spec.own s off) n))) with resv := some (Spec.own s off / 16) }) t := by
  have hv : loadValue n true (load s (Spec.own s off) n).2.1 = Spec.extended n true (ofBytes (s.mem.readBytes (Spec.own s off) n)) := by
    rw [load_value]
    exact loadValue_own hn (loadN_lt s _ n)
  rw [loadReserved_own hp hrl ha hl]
  dsimp only
  rw [hx, (armedW_ok_iff s rd).2 hrd, hv]
  have h := retireWith_retired (load s (Spec.own s off) n).1 fun H =>
    { H.setX rd.toNat (Spec.extended n true (ofBytes (s.mem.readBytes (Spec.own s off) n))) with resv := some (Spec.own s off / 16) }
  rw [load_cur] at h
  exact ⟨_, rfl, h⟩

theorem storeCond_armed (ha : alignPre (s.x a) n true = .ok) (hl : lockPre s (s.x a) n true = .ok) (hrd : rd.toNat ∈ s.me.armed) :
    storeCond rd a b n rl s = .next (takeTrap s s.cur false 30 (BitVec.ofNat 64 rd.toNat)) := by
  have hpre : Pre.all [alignPre (s.x a) n true, ownPre s (s.x a) 7, lockPre s (s.x a) n true, armedW s rd, rlPre s rl]
      = .trap 30 (BitVec.ofNat 64 rd.toNat) := by
    rw [ha, ownPre_own hp, hl, armedW_armed hrd]; rfl
  unfold storeCond
  dsimp only
  rw [hpre]
  exact finish_trap_none _ _ 30 _

/-- An SC past its checks stores if it still has its reservation. -/
theorem storeCond_own (hrl : rlPre s rl = .ok) (ha : alignPre (s.x a) n true = .ok) (hl : lockPre s (s.x a) n true = .ok) (hrd : rd.toNat ∉ s.me.armed) :
    storeCond rd a b n rl s =
      let ok := s.me.resv == some (Spec.own s off / 16)
      .next (retireWith (if ok then store s (some s.cur) (Spec.own s off) (toBytes n (s.x b).toNat) false else s) fun H =>
        { H.setX rd.toNat (boolW (!ok)) with resv := none }) := by
  have hpre : Pre.all [alignPre (s.x a) n true, ownPre s (s.x a) 7, lockPre s (s.x a) n true, armedW s rd, rlPre s rl] = .ok := by
    rw [ha, ownPre_own hp, hl, (armedW_ok_iff s rd).2 hrd, hrl]; rfl
  unfold storeCond
  dsimp only
  rw [hpre, hp]
  rfl

theorem storeCond_stores (hrl : rlPre s rl = .ok) (ha : alignPre (s.x a) n true = .ok) (hl : lockPre s (s.x a) n true = .ok) (hrd : rd.toNat ∉ s.me.armed)
    (hr : s.me.resv = some (Spec.own s off / 16)) :
    ∃ u t : State, storeCond rd a b n rl s = .next t ∧ Retired (u.modHart s.cur fun H => { H.setX rd.toNat 0 with resv := none }) t ∧
      u.mem.readBytes (Spec.own s off) n = toBytes n (s.x b).toNat ∧ SameOutside s u (Spec.own s off) n ∧ u.me = s.me ∧ u.net = s.net := by
  have hok : (s.me.resv == some (Spec.own s off / 16)) = true := beq_iff_eq.2 hr
  have hb := Memory.readBytes_writeBytes (toBytes n (s.x b).toNat) s.mem (Spec.own s off)
  rw [toBytes_length] at hb
  have h := retireWith_retired (store s (some s.cur) (Spec.own s off) (toBytes n (s.x b).toNat) false) fun H => { H.setX rd.toNat 0 with resv := none }
  rw [store_cur] at h
  rw [storeCond_own hp hrl ha hl hrd]
  dsimp only
  rw [hok]
  exact ⟨_, _, rfl, h, by rwa [store_mem], fun k hk => store_outside s _ _ _ _ k (by rwa [toBytes_length]), store_me s _ _ _, store_net _ _ _ _ _⟩

theorem storeCond_fails (hrl : rlPre s rl = .ok) (ha : alignPre (s.x a) n true = .ok) (hl : lockPre s (s.x a) n true = .ok) (hrd : rd.toNat ∉ s.me.armed)
    (hr : s.me.resv ≠ some (Spec.own s off / 16)) :
    ∃ t, storeCond rd a b n rl s = .next t ∧ Retired (s.modHart s.cur fun H => { H.setX rd.toNat 1 with resv := none }) t := by
  have hok : (s.me.resv == some (Spec.own s off / 16)) = false := beq_eq_false_iff_ne.2 hr
  rw [storeCond_own hp hrl ha hl hrd]
  dsimp only
  rw [hok]
  exact ⟨_, rfl, retireWith_retired s _⟩

end

/-- The two widths of LR and SC are one operation each. -/
theorem exec_lr (rd a : BitVec 5) (aq rl wide : Bool) (s : State) :
    exec (if wide then .lrD rd a aq rl else .lrW rd a aq rl) s = loadReserved rd a (if wide then 8 else 4) rl s := by
  cases wide <;> rfl
theorem exec_sc (rd a b : BitVec 5) (aq rl wide : Bool) (s : State) :
    exec (if wide then .scD rd a b aq rl else .scW rd a b aq rl) s = storeCond rd a b (if wide then 8 else 4) rl s := by
  cases wide <;> rfl

/-- Settles O7: LR by its load, SC by whether its reservation stands. -/
theorem reservedAccesses : Obligations.ReservedAccesses := by
  unfold Obligations.ReservedAccesses
  intro s rd a b aq rl off wide n lr sc loc armed hp hout
  have hn : n = 4 ∨ n = 8 := by cases wide <;> decide
  have hrl := rlPre_ok hout
  rw [show exec lr s = loadReserved rd a n rl s from exec_lr rd a aq rl wide s, show exec sc s = storeCond rd a b n rl s from exec_sc rd a b aq rl wide s]
  refine ⟨fun ha hl => ⟨loadReserved_lands hp hn hrl ha hl, loadReserved_armed hp hrl ha hl, fun x => loadReserved_poisoned hp hrl ha hl⟩,
    fun hrd ha hl => storeCond_armed hp ha hl hrd, fun hrd ha hl => ⟨storeCond_stores hp hrl ha hl hrd, storeCond_fails hp hrl ha hl hrd⟩⟩

end Sys2Proof.Machine

namespace Sys2Proof.Machine
open Sys2Proof

/-! F instructions (R39, R41, R92). -/

/-- Sign injection takes bit 31 of a pattern of 32 bits. -/
theorem sign_of_pattern (v : W32) : v.toNat / 2 ^ 31 % 2 = v.toNat / 2 ^ 31 := by
  have := v.isLt
  omega

theorem fSgnj_eq (a b : W32) : fSgnj 0 a.toNat b.toNat = a.toNat % 2 ^ 31 + b.toNat / 2 ^ 31 * 2 ^ 31 :=
  congrArg (fun b => a.toNat % 2 ^ 31 + b * 2 ^ 31) (sign_of_pattern b)
theorem fSgnjn_eq (a b : W32) : fSgnj 1 a.toNat b.toNat = a.toNat % 2 ^ 31 + (1 - b.toNat / 2 ^ 31) * 2 ^ 31 :=
  congrArg (fun b => a.toNat % 2 ^ 31 + (1 - b) * 2 ^ 31) (sign_of_pattern b)

/-- A form with an F destination is one write of its result and flags. -/
theorem exec_of_fltResult {i : Instr} {s : State} {r : BitVec 5 × Nat × Nat} (h : Spec.fltResult s i = some r) : exec i s = fpu r.1 r.2 s := by
  unfold Spec.fltResult at h
  split at h
  case h_20 => cases h
  case h_10 rd a b =>
    cases h
    exact congrArg (fun p => fpu rd (p, 0) s) (fSgnj_eq _ _)
  case h_11 rd a b =>
    cases h
    exact congrArg (fun p => fpu rd (p, 0) s) (fSgnjn_eq _ _)
  all_goals
    cases h
    rfl

/-- A form with an X destination is one write of its result and flags. -/
theorem exec_of_fltToX {i : Instr} {s : State} {r : BitVec 5 × Word × Nat} (h : Spec.fltToX s i = some r) : exec i s = fpuX r.1 r.2.1 r.2.2 s := by
  unfold Spec.fltToX at h
  split at h
  case h_10 => cases h
  all_goals
    cases h
    rfl

theorem setFx_eq (H : Hart) (n : Nat) (v : Word) (fl : Nat) :
    setFx H n v fl = { H.setX n v with csr := { H.csr with fflags := H.csr.fflags ||| BitVec.ofNat 5 fl } } := by
  unfold setFx accrue Hart.setX
  split <;> rfl

theorem floatResults : Spec.floatResults := by
  intro i s rd p fl h
  exact ⟨_, exec_of_fltResult h, retireWith_retired s fun H => setFlt H rd.toNat (p, fl)⟩

theorem floatToInteger : Spec.floatToInteger := by
  intro i s rd v fl h hrd
  refine ⟨_, (exec_of_fltToX h).trans (by rw [fpuX, (armedW_ok_iff s rd).2 hrd, finish_ok]), ?_⟩
  simp only [← setFx_eq]
  exact retireWith_retired s fun H => setFx H rd.toNat v fl

/-- Settles O10, by the destination's file. -/
theorem floatWords : Obligations.FloatWords := ⟨floatResults, floatToInteger⟩

end Sys2Proof.Machine

namespace Sys2Proof.Machine
open Sys2Proof

/-! Zicsr words (R41, R42, R85). -/

@[simp] theorem modCsr_cur (s : State) (h : Nat) (f : Csrs → Csrs) : (modCsr s h f).cur = s.cur := rfl

@[simp] theorem csrWrite_cur (s : State) (h n : Nat) (v : Word) : (csrWrite s h n v).cur = s.cur := by
  unfold csrWrite
  split
  case h_43 => split <;> rfl
  all_goals rfl

/-- The two branches of R42: the mode admits the word, or it is illegal. -/
theorem legal_true (s : State) : legal s true = .ok := rfl
theorem legal_false (s : State) : legal s false = .trap 2 (tvalOf 2 (s.me.ir.setWidth 64)) := rfl

/-- Every Zicsr form is one access. -/
theorem exec_of_csrForm {i : Instr} {s : State} {rd : BitVec 5} {n : Nat} {w : Option (Word → Word)} (h : Spec.csrForm s i = some (rd, n, w)) :
    exec i s = csrInstr rd n w s := by
  unfold Spec.csrForm at h
  split at h
  case h_7 => cases h
  all_goals
    cases h
    rfl

theorem csrInstr_retires {s : State} {rd : BitVec 5} {n : Nat} (hm : csrMode s s.cur n s.me.mode = true) (hrd : rd.toNat ∉ s.me.armed)
    (hw : csrWaits s s.cur n = false) (w : Option (Word → Word)) :
    ∃ t, csrInstr rd n w s = .next t ∧ Retired
      ((match w with
        | some f => csrWrite s s.cur n (f (csrRead s s.cur n))
        | none => s).modHart s.cur fun H => H.setX rd.toNat (csrRead s s.cur n)) t := by
  have hpre : Pre.all [legal s (csrMode s s.cur n s.me.mode), armedW s rd, ready (!csrWaits s s.cur n)] = .ok := by
    rw [hm, legal_true, (armedW_ok_iff s rd).2 hrd, hw]; rfl
  unfold csrInstr
  rw [hpre]
  cases w with
  | none => exact ⟨_, rfl, retireWith_retired s _⟩
  | some f =>
    have h := retireWith_retired (csrWrite s s.cur n (f (csrRead s s.cur n))) fun H => H.setX rd.toNat (csrRead s s.cur n)
    rw [csrWrite_cur] at h
    exact ⟨_, rfl, h⟩

theorem csrInstr_illegal {s : State} {n : Nat} (hm : csrMode s s.cur n s.me.mode = false) (rd : BitVec 5) (w : Option (Word → Word)) :
    csrInstr rd n w s = .next (takeTrap s s.cur false 2 (tvalOf 2 (s.me.ir.setWidth 64))) := by
  unfold csrInstr
  rw [hm, legal_false]
  exact finish_trap_none _ _ _ _

/-- Settles O11: every form is one access, by whether the mode admits it. -/
theorem csrWords : Obligations.CsrWords := by
  unfold Obligations.CsrWords
  intro i s rd n w h
  rw [exec_of_csrForm h]
  exact ⟨fun hm hrd hw => csrInstr_retires hm hrd hw w, fun hm => csrInstr_illegal hm rd w⟩

/-! The rounding mode (R41). -/

theorem modCsr_csr (s : State) (h : Nat) (f : Csrs → Csrs) : ((modCsr s h f).hart h).csr = f (s.hart h).csr := by
  rw [modCsr, State.modHart_hart_same]

theorem csrWrite_frm (s : State) (h : Nat) (v : Word) :
    ((csrWrite s h 2 v).hart h).csr.frm = if v.toNat % 8 ≤ 4 then v.setWidth 3 else (s.hart h).csr.frm := by
  change ((modCsr s h fun C => if v.toNat % 8 ≤ 4 then { C with frm := v.setWidth 3 } else C).hart h).csr.frm = _
  rw [modCsr_csr]
  split <;> rfl

theorem csrWrite_fcsr_frm (s : State) (h : Nat) (v : Word) :
    ((csrWrite s h 3 v).hart h).csr.frm = if bits v 5 3 ≤ 4 then BitVec.ofNat 3 (bits v 5 3) else (s.hart h).csr.frm := by
  change ((modCsr s h fun C => if bits v 5 3 ≤ 4 then { C with fflags := v.setWidth 5, frm := BitVec.ofNat 3 (bits v 5 3) }
    else { C with fflags := v.setWidth 5 }).hart h).csr.frm = _
  rw [modCsr_csr]
  split <;> rfl

theorem modCsr_frm {s : State} {h : Nat} {f : Csrs → Csrs} (hf : ∀ C, (f C).frm = C.frm) : ((modCsr s h f).hart h).csr.frm = (s.hart h).csr.frm := by
  rw [modCsr_csr, hf]

/-- Only frm and fcsr hold the rounding mode. -/
theorem csrWrite_other_frm (s : State) (h : Nat) {n : Nat} (v : Word) (h2 : n ≠ 2) (h3 : n ≠ 3) :
    ((csrWrite s h n v).hart h).csr.frm = (s.hart h).csr.frm := by
  unfold csrWrite
  split
  case h_2 => exact absurd rfl h2
  case h_3 => exact absurd rfl h3
  case h_6 => exact modCsr_frm fun C => by split <;> rfl
  case h_27 => rw [State.modHart_hart_same]
  case h_37 | h_38 | h_39 | h_40 | h_41 | h_42 => rfl
  case h_43 =>
    split
    · exact modCsr_frm fun _ => rfl
    · rfl
  all_goals exact modCsr_frm fun _ => rfl

theorem bits_frm (v : Word) : bits v 5 3 = v.toNat / 32 % 8 := by
  simp [bits]

/-- A mode of 0 to 4 is its place among the rounding modes. -/
theorem frmMode_place {n : Nat} (h : n ≤ 4) : ([.rne, .rtz, .rdn, .rup, .rmm] : List RMode)[n]? = some (frmMode n) := by
  obtain rfl | rfl | rfl | rfl | rfl : n = 0 ∨ n = 1 ∨ n = 2 ∨ n = 3 ∨ n = 4 := by omega
  all_goals rfl

/-- Settles O12, by the CSR that is written. -/
theorem frmWrites : Obligations.FrmWrites := by
  unfold Obligations.FrmWrites
  intro s h v f
  have k2 : (f 2 v).toNat = if v.toNat % 8 ≤ 4 then v.toNat % 8 else (s.hart h).csr.frm.toNat := by
    rw [show f 2 v = _ from csrWrite_frm s h v, apply_ite BitVec.toNat, BitVec.toNat_setWidth]
  have k3 : (f 3 v).toNat = if v.toNat / 32 % 8 ≤ 4 then v.toNat / 32 % 8 else (s.hart h).csr.frm.toNat := by
    rw [show f 3 v = _ from csrWrite_fcsr_frm s h v, apply_ite BitVec.toNat, BitVec.toNat_ofNat, bits_frm, Nat.mod_mod]
  have kn : ∀ n, n ≠ 2 → n ≠ 3 → f n v = (s.hart h).csr.frm := fun n => csrWrite_other_frm s h v
  refine ⟨fun hv => by rw [k2, if_pos hv], fun hv => ?_, fun hv => by rw [k3, if_pos hv], fun hv => ?_, kn, ?_, fun hs => ⟨fun n => ?_, frmMode_place hs⟩⟩
  · exact (csrWrite_frm s h v).trans (if_neg (by omega))
  · exact (csrWrite_fcsr_frm s h v).trans (if_neg (by rw [bits_frm]; omega))
  · exact Nat.zero_le 4
  · by_cases h2 : n = 2
    · subst h2
      rw [k2]
      split <;> omega
    · by_cases h3 : n = 3
      · subst h3
        rw [k3]
        split <;> omega
      · rw [kn n h2 h3]
        exact hs

end Sys2Proof.Machine

namespace Sys2Proof.Machine
open Sys2Proof

/-! Bits of a word that is written bit by bit. -/

theorem bit_setBit_ne (w : Word) {n k : Nat} (h : k ≠ n) (b : Bool) : bit (setBit w n b) k = bit w k := by
  have hs : (1#64 <<< n).getLsbD k = false := by
    rw [BitVec.getLsbD_shiftLeft, BitVec.getLsbD_one]
    by_cases hk : k < n
    · simp [hk]
    · simp [show k - n ≠ 0 by omega]
  unfold bit setBit
  cases b with
  | true => rw [if_pos rfl, BitVec.getLsbD_or, hs, Bool.or_false]
  | false =>
    rw [if_neg Bool.false_ne_true, BitVec.getLsbD_and, BitVec.getLsbD_not, hs]
    by_cases hk : k < 64
    · simp [hk]
    · simp [BitVec.getLsbD_of_ge w k (by omega)]

/-- Bit k of a word with bit n written. -/
theorem bit_setBit_ite (w : Word) (n k : Nat) (hn : n < 64) (b : Bool) : bit (setBit w n b) k = if k = n then b else bit w k := by
  split
  case isTrue h => rw [h, bit_setBit w n hn]
  case isFalse h => exact bit_setBit_ne w h b

theorem bits_one (w : Word) (lo : Nat) : bits w lo 1 = (bit w lo).toNat := by
  rw [bit, ← BitVec.testBit_toNat, Nat.toNat_testBit]
  rfl
theorem bits_two (w : Word) (lo : Nat) : bits w lo 2 = (bit w lo).toNat + 2 * (bit w (lo + 1)).toNat := by
  rw [← bits_one, ← bits_one]
  simp only [bits]
  rw [Nat.pow_succ 2 lo, ← Nat.div_div_eq_div_mul]
  omega

/-! Trap entry (R104, R106). -/

/-- Conversions that land change the LFSR, the cvamax and the cvflags (R164). -/
theorem landCv_eq (l : List CvPend) : ∀ H : Hart, ∃ x a f, landCv l H = { H with lfsr := x, csr := { H.csr with cvamax := a, cvflags := f } } := by
  induction l with
  | nil => exact fun H => ⟨_, _, _, rfl⟩
  | cons p r ih =>
    intro H
    obtain ⟨x, a, f, h⟩ := ih { H with
      lfsr := p.lfsr.getD H.lfsr
      csr := { H.csr with
        cvamax := (match p.amax with | some a => if H.csr.cvamax.ult a then a else H.csr.cvamax | none => H.csr.cvamax)
        cvflags := H.csr.cvflags ||| p.flags } }
    exact ⟨x, a, f, h⟩

theorem mode_ofCode_code (m : Mode) : Mode.ofCode ((m.code % 2 == 1).toNat + 2 * (m.code / 2 == 1).toNat) = m := by
  cases m <;> rfl

/-- mstatus on entry into M: MPIE, MIE and MPP. -/
theorem mstatusEnterM_bits (w : Word) (m : Mode) :
    bit (mstatusEnterM w m) 7 = bit w 3 ∧ bit (mstatusEnterM w m) 3 = false ∧ Mode.ofCode (bits (mstatusEnterM w m) 11 2) = m ∧
    ∀ k, k ∉ [3, 7, 11, 12] → bit (mstatusEnterM w m) k = bit w k := by
  refine ⟨by simp [mstatusEnterM, bit_setBit_ite], by simp [mstatusEnterM, bit_setBit_ite], ?_, fun k hk => ?_⟩
  · rw [bits_two, ← mode_ofCode_code m]
    simp [mstatusEnterM, bit_setBit_ite, mode_ofCode_code]
  · simp only [List.mem_cons, List.not_mem_nil, or_false, not_or] at hk
    simp [mstatusEnterM, bit_setBit_ite, hk]

/-- mstatus on entry into S: SPIE, SIE and SPP. -/
theorem mstatusEnterS_bits (w : Word) (m : Mode) :
    bit (mstatusEnterS w m) 5 = bit w 1 ∧ bit (mstatusEnterS w m) 1 = false ∧ bit (mstatusEnterS w m) 8 = decide (m = .S) ∧
    ∀ k, k ∉ [1, 5, 8] → bit (mstatusEnterS w m) k = bit w k := by
  refine ⟨by simp [mstatusEnterS, bit_setBit_ite], by simp [mstatusEnterS, bit_setBit_ite], ?_, fun k hk => ?_⟩
  · cases m <;> simp [mstatusEnterS, bit_setBit_ite]
  · simp only [List.mem_cons, List.not_mem_nil, or_false, not_or] at hk
    simp [mstatusEnterS, bit_setBit_ite, hk]

/-- LE moves to bit n, 5 or 6, and ends (R106). -/
theorem loopEnable_saved (w : Word) {n : Nat} (hn : n < 64) (h4 : n ≠ 4) :
    bit (setBit (setBit w n (bit w 4)) 4 false) n = bit w 4 ∧ bit (setBit (setBit w n (bit w 4)) 4 false) 4 = false ∧
    ∀ k, k ∉ [4, n] → bit (setBit (setBit w n (bit w 4)) 4 false) k = bit w k := by
  refine ⟨by rw [bit_setBit_ne _ h4, bit_setBit _ n hn], bit_setBit _ 4 (by decide) _, fun k hk => ?_⟩
  simp only [List.mem_cons, List.not_mem_nil, or_false, not_or] at hk
  rw [bit_setBit_ne _ hk.1, bit_setBit_ne _ hk.2]

theorem goesToS_eq (H : Hart) (intr : Bool) (cause : Nat) :
    goesToS H intr cause = (H.mode != .M && cause != 26 && bit (if intr then H.csr.mideleg else H.csr.medeleg) cause) := by
  cases intr <;> rfl

theorem savedChk_eq (H : Hart) (intr : Bool) (cause : Nat) :
    savedChk H intr cause = if (!intr && (cause == 3 || cause == 8 || cause == 9 || cause == 11)) = true
      then { H.chk with last := 4, run := if H.irSigned && H.chk.act then crcOfWord H.chk.run H.ir else H.chk.run } else H.chk := by
  unfold savedChk
  simp [or_assoc]

section
variable {H : Hart} {intr : Bool} {cause : Nat} (tval : Word)

/-- The hart after trap entry into M: conversions that land leave all that the entry saves. -/
theorem enterTrap_M (h : goesToS H intr cause = false) :
    (enterTrap H intr cause tval).mode = .M ∧ (enterTrap H intr cause tval).pc = vectorTarget H.csr.mtvec intr cause ∧
    (enterTrap H intr cause tval).fw = true ∧
    (enterTrap H intr cause tval).csr = { (landCv H.cvPend H).csr with
      mepc := H.pc &&& ~~~3#64, mcause := word ((if intr then 2 ^ 63 else 0) + cause), mtval := tval
      mxsave := packSave { H with chk := savedChk H intr cause }, mstatus := mstatusEnterM H.csr.mstatus H.mode
      mnstatus := setBit (setBit H.csr.mnstatus 5 (bit H.csr.mnstatus 4)) 4 false } := by
  obtain ⟨x, a, f, hL⟩ := landCv_eq H.cvPend H
  have hS : goesToS { H with lfsr := x, csr := { H.csr with cvamax := a, cvflags := f } } intr cause = false := h
  unfold enterTrap
  rw [hL]
  dsimp only
  rw [hS]
  exact ⟨rfl, rfl, rfl, rfl⟩

theorem enterTrap_S (h : goesToS H intr cause = true) :
    (enterTrap H intr cause tval).mode = .S ∧ (enterTrap H intr cause tval).pc = vectorTarget H.csr.stvec intr cause ∧
    (enterTrap H intr cause tval).fw = false ∧
    (enterTrap H intr cause tval).csr = { (landCv H.cvPend H).csr with
      sepc := H.pc &&& ~~~3#64, scause := word ((if intr then 2 ^ 63 else 0) + cause), stval := tval
      sxsave := packSave { H with chk := savedChk H intr cause }, mstatus := mstatusEnterS H.csr.mstatus H.mode
      mnstatus := setBit (setBit H.csr.mnstatus 6 (bit H.csr.mnstatus 4)) 4 false } := by
  obtain ⟨x, a, f, hL⟩ := landCv_eq H.cvPend H
  have hS : goesToS { H with lfsr := x, csr := { H.csr with cvamax := a, cvflags := f } } intr cause = true := h
  unfold enterTrap
  rw [hL]
  dsimp only
  rw [hS]
  exact ⟨rfl, rfl, rfl, rfl⟩

/-- What a hart keeps on trap entry, and what ends. -/
theorem enterTrap_rest : let T := enterTrap H intr cause tval
    T = { landCv H.cvPend H with
      csr := T.csr, mode := T.mode, pc := T.pc, pfx := false, chk := { H.chk with act := false }
      arrival := .indirect, pend := [], cvPend := [], resv := none, prefetch := [], vloop := none, held := none
      fetched := [], stalled := none, ending := false, fw := T.fw
      broken := (match H.vloop with | some v => if intr then H.broken else some (v.pc, v.len) | none => H.broken) } := by
  obtain ⟨x, a, f, hL⟩ := landCv_eq H.cvPend H
  unfold enterTrap
  rw [hL] <;> rfl

end

/-- Settles O13, by the mode that is entered. -/
theorem trapEntry : Obligations.TrapEntry := by
  unfold Obligations.TrapEntry
  intro H intr cause tval T toS code ends K save L
  have hto : goesToS H intr cause = toS := goesToS_eq H intr cause
  have hsave : packSave { H with chk := savedChk H intr cause } = save := by rw [savedChk_eq]
  refine ⟨fun h => ?_, fun h => ?_, ?_, ?_⟩
  · obtain ⟨hmode, hpc, -, hcsr⟩ := enterTrap_M tval (hto.trans h)
    obtain ⟨m7, m3, mpp, mk⟩ := mstatusEnterM_bits H.csr.mstatus H.mode
    obtain ⟨n5, n4, nk⟩ := loopEnable_saved H.csr.mnstatus (n := 5) (by decide) (by decide)
    rw [hsave] at hcsr
    rw [show T.csr = _ from hcsr]
    exact ⟨hmode, rfl, rfl, rfl, rfl, hpc, m7, m3, mpp, mk, n5, n4, nk, rfl⟩
  · obtain ⟨hmode, hpc, -, hcsr⟩ := enterTrap_S tval (hto.trans h)
    obtain ⟨m5, m1, m8, mk⟩ := mstatusEnterS_bits H.csr.mstatus H.mode
    obtain ⟨n6, n4, nk⟩ := loopEnable_saved H.csr.mnstatus (n := 6) (by decide) (by decide)
    rw [hsave] at hcsr
    rw [show T.csr = _ from hcsr]
    exact ⟨hmode, rfl, rfl, rfl, rfl, hpc, m5, m1, m8, mk, n6, n4, nk, rfl⟩
  · obtain ⟨x, a, f, hL⟩ := landCv_eq H.cvPend H
    rw [show L = _ from hL]
  · have hfw : T.fw = !toS := by
      cases h : toS with
      | false => exact (enterTrap_M tval (hto.trans h)).2.2.1
      | true => exact (enterTrap_S tval (hto.trans h)).2.2.1
    rw [← hfw]
    exact enterTrap_rest tval

end Sys2Proof.Machine

namespace Sys2Proof.Machine
open Sys2Proof

/-! Trap returns, EBREAK and the waits (R107, R109). -/

/-- mstatus after MRET: MIE, MPIE and MPP. -/
theorem mretStatus_bits (w : Word) :
    bit (mretStatus w).1 3 = bit w 7 ∧ bit (mretStatus w).1 7 = true ∧ bits (mretStatus w).1 11 2 = 0 ∧
    ∀ k, k ∉ [3, 7, 11, 12] → bit (mretStatus w).1 k = bit w k := by
  refine ⟨by simp [mretStatus, bit_setBit_ite], by simp [mretStatus, bit_setBit_ite], ?_, fun k hk => ?_⟩
  · rw [bits_two]
    simp [mretStatus, bit_setBit_ite]
  · simp only [List.mem_cons, List.not_mem_nil, or_false, not_or] at hk
    simp [mretStatus, bit_setBit_ite, hk]

/-- mstatus after SRET: SIE, SPIE and SPP. -/
theorem sretStatus_bits (w : Word) :
    bit (sretStatus w).1 1 = bit w 5 ∧ bit (sretStatus w).1 5 = true ∧ bit (sretStatus w).1 8 = false ∧
    ∀ k, k ∉ [1, 5, 8] → bit (sretStatus w).1 k = bit w k := by
  refine ⟨by simp [sretStatus, bit_setBit_ite], by simp [sretStatus, bit_setBit_ite], by simp [sretStatus, bit_setBit_ite], fun k hk => ?_⟩
  simp only [List.mem_cons, List.not_mem_nil, or_false, not_or] at hk
  simp [sretStatus, bit_setBit_ite, hk]

/-- LE returns from bit n, 5 or 6, which becomes 1 (R107). -/
theorem loopEnable_restored (w : Word) {n : Nat} (hn : n < 64) (h4 : n ≠ 4) :
    bit (setBit (setBit w 4 (bit w n)) n true) 4 = bit w n ∧ bit (setBit (setBit w 4 (bit w n)) n true) n = true ∧
    ∀ k, k ∉ [4, n] → bit (setBit (setBit w 4 (bit w n)) n true) k = bit w k := by
  refine ⟨by rw [bit_setBit_ne _ h4.symm, bit_setBit _ 4 (by decide)], bit_setBit _ n hn _, fun k hk => ?_⟩
  simp only [List.mem_cons, List.not_mem_nil, or_false, not_or] at hk
  rw [bit_setBit_ne _ hk.2, bit_setBit_ne _ hk.1]

theorem exec_mret_M {s : State} (h : s.me.mode = .M) : exec .mret s = .next (s.setHart s.cur (leaveTrap s.me true)) := by
  change finish s (legal s (s.me.mode == .M)) _ = _
  rw [h]; rfl
theorem exec_mret_illegal {s : State} (h : s.me.mode ≠ .M) : exec .mret s = .next (takeTrap s s.cur false 2 (tvalOf 2 (s.me.ir.setWidth 64))) := by
  change finish s (legal s (s.me.mode == .M)) _ = _
  rw [beq_eq_false_iff_ne.2 h]
  exact finish_trap_none _ _ _ _
theorem exec_sret_SM {s : State} (h : s.me.mode ≠ .U) : exec .sret s = .next (s.setHart s.cur (leaveTrap s.me false)) := by
  change finish s (legal s (s.me.mode != .U)) _ = _
  rw [bne_iff_ne.2 h]; rfl
theorem exec_sret_illegal {s : State} (h : s.me.mode = .U) : exec .sret s = .next (takeTrap s s.cur false 2 (tvalOf 2 (s.me.ir.setWidth 64))) := by
  change finish s (legal s (s.me.mode != .U)) _ = _
  rw [h]
  exact finish_trap_none _ _ _ _

theorem trapReturns : Spec.trapReturns := by
  intro s H illegal
  refine ⟨exec_mret_illegal, exec_sret_illegal, fun h => ⟨leaveTrap H true, exec_mret_M h, ?_⟩, fun h => ⟨leaveTrap H false, exec_sret_SM h, ?_⟩⟩
  · obtain ⟨m3, m7, mpp, mk⟩ := mretStatus_bits H.csr.mstatus
    obtain ⟨n4, n5, nk⟩ := loopEnable_restored H.csr.mnstatus (n := 5) (by decide) (by decide)
    exact ⟨rfl, rfl, rfl, rfl, rfl, m3, m7, mpp, mk, n4, n5, nk, rfl⟩
  · obtain ⟨m1, m5, m8, mk⟩ := sretStatus_bits H.csr.mstatus
    obtain ⟨n4, n6, nk⟩ := loopEnable_restored H.csr.mnstatus (n := 6) (by decide) (by decide)
    exact ⟨rfl, rfl, rfl, rfl, rfl, m1, m5, m8, mk, n4, n6, nk, rfl⟩

/-- WFI where the mode lets it wait (R109). -/
theorem exec_wfi_waits {s : State} (h : s.me.mode = .M ∨ (s.me.mode = .S ∧ bit s.me.csr.mstatus 21 = false)) :
    exec .wfi s = .next (retireWait s .wfi) := by
  have hl : (match s.me.mode with | .U => false | .S => !bit s.me.csr.mstatus 21 | .M => true) = true := by
    obtain h | ⟨h, hb⟩ := h
    · rw [h]
    · rw [h, hb]; rfl
  exact (congrArg (fun b => finish s (legal s b) (retireWait s .wfi)) hl).trans rfl

theorem exec_wfi_illegal {s : State} (h : s.me.mode = .U ∨ (s.me.mode = .S ∧ bit s.me.csr.mstatus 21 = true)) :
    exec .wfi s = .next (takeTrap s s.cur false 2 (tvalOf 2 (s.me.ir.setWidth 64))) := by
  have hl : (match s.me.mode with | .U => false | .S => !bit s.me.csr.mstatus 21 | .M => true) = false := by
    obtain h | ⟨h, hb⟩ := h
    · rw [h]
    · rw [h, hb]; rfl
  exact (congrArg (fun b => finish s (legal s b) (retireWait s .wfi)) hl).trans (finish_trap_none _ _ _ _)

theorem waitsAndBreak : Spec.waitsAndBreak := fun s =>
  ⟨finish_trap_none s s 3 _, ⟨_, rfl, retire_retired s⟩, fun h => ⟨_, exec_wfi_waits h, retire_retired s⟩, exec_wfi_illegal⟩

/-- Settles O14, by the mode the word stands in. -/
theorem trapWords : Obligations.TrapWords := ⟨trapReturns, waitsAndBreak⟩

end Sys2Proof.Machine

namespace Sys2Proof.Machine
open Sys2Proof

/-! FMT and SIG (R62, R64, R69, R70). -/

theorem payloadOf_of_fields {p : BitVec 25} {fa fb fd : Fmt} {sm : ScaleMode} (ha : fld p.toNat 21 4 = fa.code) (hb : fld p.toNat 17 4 = fb.code)
    (hd : fld p.toNat 13 4 = fd.code) (hm : fld p.toNat 11 2 = sm.code) : payloadOf p = some ⟨fa, fb, fd, sm⟩ := by
  unfold payloadOf
  dsimp only
  rw [ha, hb, hd, hm, Fmt.ofCode_code, Fmt.ofCode_code, Fmt.ofCode_code, ScaleMode.ofCode_code]

/-- The fields of a payload's number (R62). -/
theorem payload_fields {a b c d n : Nat} (hn : n = a * 2 ^ 21 + b * 2 ^ 17 + c * 2 ^ 13 + d * 2 ^ 11 + 0xE0) (ha : a < 16) (hb : b < 16) (hc : c < 16)
    (hd : d < 4) : fld n 21 4 = a ∧ fld n 17 4 = b ∧ fld n 13 4 = c ∧ fld n 11 2 = d := by
  simp only [fld]
  omega

theorem payloadBits_toNat (fa fb fd : Fmt) (sm : ScaleMode) :
    (payloadBits fa fb fd sm).toNat = fa.code * 2 ^ 21 + fb.code * 2 ^ 17 + fd.code * 2 ^ 13 + sm.code * 2 ^ 11 + 0xE0 := by
  have ha := Fmt.code_lt fa
  have hb := Fmt.code_lt fb
  have hd := Fmt.code_lt fd
  have hm := ScaleMode.code_lt sm
  rw [payloadBits, BitVec.toNat_ofNat, Nat.mod_eq_of_lt]
  omega

/-- The payload that an FMT word leaves holds the formats of the word. -/
theorem payloadOf_payloadBits (fa fb fd : Fmt) (sm : ScaleMode) : payloadOf (payloadBits fa fb fd sm) = some ⟨fa, fb, fd, sm⟩ := by
  obtain ⟨ha, hb, hd, hm⟩ := payload_fields (payloadBits_toNat fa fb fd sm) (Fmt.code_lt fa) (Fmt.code_lt fb) (Fmt.code_lt fd) (ScaleMode.code_lt sm)
  exact payloadOf_of_fields ha hb hd hm

theorem prefixWord : Spec.prefixWord := fun s fa fb fd sm =>
  ⟨retire s s.cur, payloadBits fa fb fd sm, retire_retired s, payloadOf_payloadBits fa fb fd sm, rfl⟩

/-- SIG as its check and its effect. -/
theorem exec_sig (crc : BitVec 12) (e : Bool) (k : EndKind) (s : State) : exec (.sig crc e k) s =
    finish s (need (!(sigBit s.me.csr && (sigBad s.me.chk || (s.me.arrival == .indirect && !e)))) 26 (sigTval s.me.chk s.me.chk.run s.me.chk.last))
      (retireWith s fun H => { H with chk := { H.chk with exp := crc, endk := BitVec.ofNat 3 k.code, run := 0, act := true } }) := rfl

theorem signatureWord : Spec.signatureWord := by
  intro s crc e k K bad
  rw [exec_sig]
  refine ⟨fun h => ?_, fun h => ?_⟩
  · rw [show (sigBit s.me.csr && (sigBad s.me.chk || (s.me.arrival == .indirect && !e))) = true from h]
    exact finish_trap_none _ _ _ _
  · rw [show (sigBit s.me.csr && (sigBad s.me.chk || (s.me.arrival == .indirect && !e))) = false from h]
    exact ⟨_, rfl, retireWith_retired s _⟩

/-- Settles O18. -/
theorem prefixAndSignature : Obligations.PrefixAndSignature := ⟨prefixWord, signatureWord⟩

end Sys2Proof.Machine

namespace Sys2Proof.Machine
open Sys2Proof

/-! Custom-0 words that stop (R65, R123 to R126, R149). -/

/-- The operand checks of a custom-0 word: its sources in turn, then its destination. -/
def formChecks (s : State) (F : Spec.VecForm) : Pre :=
  .all (F.srcs.map (fun q => srcPre s q.2 q.1) ++ [if F.acc then bothPre s F.vd else dstPre s F.wd F.vd])

theorem Pre.all_single (p : Pre) : Pre.all [p] = p := by
  cases p <;> rfl

theorem wBits_eq (w : VWidth) : Spec.wBits w = VWidth.bits w := by
  cases w <;> rfl

/-- A typed word past its formats. -/
theorem typed0_of_onType {t : VType} {s : State} {ok : Payload → Bool} {f : Payload → Spec.VecForm} {F : Spec.VecForm} {k : Payload → Host.Outcome State Fault Refusal}
    (h : Spec.onType t s ok f = some F) (hk : ∀ p, ∃ u, k p = finish s (formChecks s (f p)) u) : ∃ u, typed0 t s k = finish s (formChecks s F) u := by
  unfold Spec.onType at h
  obtain ⟨p, hp, hf⟩ := Option.bind_eq_some_iff.1 h
  split at hf
  · cases hf
    unfold typed0
    rw [hp]
    exact hk p
  · cases hf

/-- A word without a vector source meets its destination's check alone. -/
theorem vgen_finish (s : State) (w : Nat) (d : BitVec 5) (L : Nat) (sc : BitVec 3) (v : VReg) :
    ∃ u, vgen w d L sc v s = finish s (.all [dstPre s (some w) d.toNat]) u := ⟨_, by rw [Pre.all_single]; rfl⟩

/-- Every custom-0 form of the table ends in its checks. -/
theorem exec_of_vecForm {i : Instr} {s : State} {F : Spec.VecForm} (h : Spec.vecForm s i = some F) : ∃ u, exec i s = finish s (formChecks s F) u := by
  unfold Spec.vecForm at h
  split at h
  case h_12 | h_13 | h_14 =>
    cases h
    exact ⟨_, rfl⟩
  case h_15 | h_29 | h_30 =>
    cases h
    simp only [wBits_eq]
    exact ⟨_, rfl⟩
  case h_26 | h_27 => exact typed0_of_onType h fun p => vgen_finish _ _ _ _ _ _
  case h_31 => cases h
  all_goals exact typed0_of_onType h fun p => ⟨_, rfl⟩

theorem vectorStops : Spec.vectorStops := by
  intro i s F h p
  obtain ⟨u, hu⟩ := exec_of_vecForm h
  rw [hu]
  refine ⟨fun c a hp => ?_, fun w hp => ?_⟩
  · rw [show formChecks s F = _ from hp, finish_trap_none]
  · rw [show formChecks s F = _ from hp, finish_wait]

theorem typed0_illegal {t : VType} {s : State} (h : typesOf t s.me = none) (k : Payload → Host.Outcome State Fault Refusal) :
    typed0 t s k = .next (takeTrap (s.modHart s.cur fun H => { H with pfx := false }) s.cur false 2 (tvalOf 2 (s.me.ir.setWidth 64))) := by
  unfold typed0
  rw [h]
  exact finish_trap _ _ _ _ _

theorem prefixNeeded : Spec.prefixNeeded := by
  intro s d a b sc i h hi
  simp only [List.mem_cons, List.not_mem_nil, or_false] at hi
  rcases hi with rfl | rfl | rfl | rfl | rfl | rfl | rfl | rfl | rfl | rfl | rfl | rfl | rfl | rfl | rfl | rfl | rfl
  all_goals exact typed0_illegal h _

/-- Settles O23: each word ends in its checks, or has no formats. -/
theorem vectorTraps : Obligations.VectorTraps := ⟨vectorStops, prefixNeeded⟩

end Sys2Proof.Machine

namespace Sys2Proof.Machine
open Sys2Proof

/-! The answers of the hart firmware (R403 to R406). -/

/-- The firmware of a worker hart answers an exception to M mode while its core runs. -/
structure Answers (s : State) (h : Nat) : Prop where
  worker : isMordant h = false
  fw : (s.hart h).fw = true
  mode : (s.hart h).mode = .M
  free : (s.hart h).free = false
  runs : (s.core (coreOf h)).isSealed = false
  here : coreGone s (coreOf h) = false

section
variable {s : State} {h : Nat}

/-- A cause below 2^63 is that of an exception. -/
theorem bit_63_of_lt {w : Word} (hw : w.toNat < 2 ^ 63) : bit w 63 = false := by
  rw [bit, ← BitVec.testBit_toNat, Nat.testBit_lt_two_pow hw]

/-- The firmware's turn, where it is one to answer. -/
theorem firmwareTurn_eq (A : Answers s h) (hbit : bit (s.hart h).csr.mcause 63 = false) :
    firmwareTurn h s =
      if (s.hart h).csr.mcause == 8 || (s.hart h).csr.mcause == 9 then
        if (s.hart h).armed.contains 17 || (asksEnd (s.hart h) && (s.hart h).armed.contains 10) then s
        else if asksEnd (s.hart h) then faultEnd s h else s.modHart h answerEcall
      else if fatalTrap (s.hart h) then containCore s (coreOf h) else s := by
  unfold firmwareTurn
  dsimp only
  rw [A.worker, A.fw, A.mode, A.free, A.runs, A.here, hbit]
  rfl

theorem firmwareTurn_call (A : Answers s h) (hc : (s.hart h).csr.mcause = 8 ∨ (s.hart h).csr.mcause = 9) (h17 : 17 ∉ (s.hart h).armed)
    (h10 : 10 ∉ (s.hart h).armed) :
    firmwareTurn h s = if asksEnd (s.hart h) then faultEnd s h else s.modHart h answerEcall := by
  have hbit : bit (s.hart h).csr.mcause 63 = false := by obtain e | e := hc <;> rw [e] <;> decide
  rw [firmwareTurn_eq A hbit, if_pos (by simpa using hc), if_neg (by simp [h17, h10])]

theorem firmwareTurn_fatal (A : Answers s h) (hlt : (s.hart h).csr.mcause.toNat < 2 ^ 63) (h8 : (s.hart h).csr.mcause ≠ 8)
    (h9 : (s.hart h).csr.mcause ≠ 9) (hf : fatalTrap (s.hart h) = true) : firmwareTurn h s = containCore s (coreOf h) := by
  rw [firmwareTurn_eq A (bit_63_of_lt hlt), if_neg (by simpa using ⟨h8, h9⟩), if_pos hf]

theorem asksEnd_iff (H : Hart) : asksEnd H = true ↔
    H.csr.mcause = 9 ∧ Mode.ofCode (bits H.csr.mstatus 11 2) = .S ∧ H.task ≠ none ∧ H.getX 17 = 0x4E45 := by
  simp [asksEnd, Option.isSome_iff_ne_none, and_assoc]

theorem fatalTrap_of {H : Hart} (hf : Mode.ofCode (bits H.csr.mstatus 11 2) ≠ .M ∨ H.csr.mcause = 26) : fatalTrap H = true := by
  obtain hm | hc := hf
  · cases hk : Mode.ofCode (bits H.csr.mstatus 11 2)
    case M => exact absurd hk hm
    all_goals simp [fatalTrap, hk]
  · simp [fatalTrap, hc]

/-- What the answer to an environment call leaves of a hart. -/
theorem answerEcall_eq {H : Hart} (h10 : 10 ∉ H.armed) :
    (answerEcall H).getX 10 = -1 ∧ (∀ n, n ≠ 10 → (answerEcall H).getX n = H.getX n) ∧ (answerEcall H).pc = H.csr.mepc + 4 ∧
    (answerEcall H).mode = Mode.ofCode (bits H.csr.mstatus 11 2) := by
  have hx (n : Nat) : (answerEcall H).getX n = (landX H 10 (-1)).getX n := by
    simp only [answerEcall, if_neg (show ¬ H.armed.contains 10 = true by simpa using h10)]
    rfl
  obtain ⟨x, fl, e⟩ := landX_rest H 10 (-1)
  refine ⟨?_, fun n hn => ?_, ?_, ?_⟩
  · rw [hx, landX_getX]; exact Hart.getX_setX_same H (by decide) _
  · rw [hx, landX_getX]; exact Hart.getX_setX_ne H hn _
  all_goals
    simp only [answerEcall, if_neg (show ¬ H.armed.contains 10 = true by simpa using h10), e]
    rfl

theorem faultEnd_starts (he : (s.hart h).ending = false) (hu : unbindAllPre (s.hart h) = .ok) : faultEnd s h = faultEndStart s h := by
  simp [faultEnd, he, hu]
theorem faultEnd_finishes (he : (s.hart h).ending = true) (hr : faultEndReady s h = true) :
    faultEnd s h = faultEndFinish s h (((s.hart h).getX 10).toNat, (s.hart h).csr.mepc, (s.hart h).csr.mtval) := by
  simp [faultEnd, he, hr]

end

theorem firmwareAnswers : Spec.firmwareAnswers := by
  intro s h H cause from_ hw hfw hmode hfree hruns hhere h17 h10 fatal
  have A : Answers s h := ⟨hw, hfw, hmode, hfree, hruns, hhere⟩
  have hcause (k : Word) : cause = k.toNat ↔ H.csr.mcause = k := BitVec.toNat_inj
  have hasks : asksEnd H = true ↔ fatal := by
    rw [asksEnd_iff, ← hcause 9]; rfl
  have hturn : fatal → firmwareTurn h s = faultEnd s h := fun hf => by
    rw [firmwareTurn_call A (Or.inr ((hcause 9).1 hf.1)) h17 h10, if_pos (hasks.2 hf)]
  refine ⟨fun hc hf => ?_, fun hf he hu => ?_, fun hf he hr => ?_, fun hlt h8 h9 hf => ?_⟩
  · obtain ⟨hx10, hxn, hpc, hm⟩ := answerEcall_eq h10
    refine ⟨answerEcall H, ?_, hx10, hxn, hpc, hm⟩
    rw [firmwareTurn_call A (hc.imp (hcause 8).1 (hcause 9).1) h17 h10, if_neg fun e => hf (hasks.1 e)]
    rfl
  · rw [hturn hf, faultEnd_starts he hu]
  · rw [hturn hf, faultEnd_finishes he hr]
  · exact firmwareTurn_fatal A hlt (fun e => h8 ((hcause 8).2 e)) (fun e => h9 ((hcause 9).2 e))
      (fatalTrap_of (hf.imp_right (hcause 26).1))

theorem environmentCalls : Spec.environmentCalls := fun s => finish_trap_none s s _ 0

end Sys2Proof.Machine

namespace Sys2Proof.Machine
open Sys2Proof

/-! Group barriers (R286, R393). -/

/-- The executing hart waits at the barrier of group q of launch n, and the package's barriers are l. -/
def atBarrier (s : State) (n q : Nat) (l : List Barrier) : State :=
  (s.modPkg fun P => { P with barriers := l }).modHart s.cur fun H => { H with stalled := some (.barrier n q) }

/-- The episode of group q of launch n that the executing hart's core begins. -/
def newEpisode (s : State) (n q : Nat) : Barrier :=
  { launch := n, group := q, members := (groupOf' s (cluOf (coreOf s.cur)) n q).2, arrived := [coreOf s.cur], harts := [s.cur] }

theorem counted_iff (s : State) (b : Barrier) (k : Nat) : counted s b k = true ↔
    k ∈ b.arrived ∨ (s.core k).isSealed = true ∨ coreGone s k = true ∨ ∃ L, launchOf s b.launch = some L ∧ k ∈ L.contained := by
  unfold counted
  cases launchOf s b.launch <;> simp [or_assoc]

section
variable {s : State} {a : BitVec 5} {T : Task}

theorem execGrpbar_joins (hmode : s.me.mode = .U) (htask : s.me.task = some T) (hb : ∀ b ∈ s.pkg.barriers, b.members ≠ []) :
    exec (.grpbar a) s = finish s (.all [memberPre s T.launch (s.x a).toNat (s.x a), ready (!outstanding s s.cur 3 false)])
      (barrierJoin s T.launch (s.x a).toNat) := by
  have hlegal : taskLegal s = .ok := by simp [taskLegal, legal, hmode, htask]
  have hpassed : (s.pkg.barriers.any fun b => b.launch == T.launch && b.group == (s.x a).toNat && b.members.isEmpty && b.harts.contains s.cur) = false :=
    List.any_eq_false.2 fun b hm => by simp [hb b hm]
  change execGrpbar a s = _
  unfold execGrpbar
  simp only [hlegal, htask, hpassed]
  rfl

theorem finish_joins (hout : outstanding s s.cur 3 false = false) {p : Pre} {t : State} (hp : p = .ok) :
    finish s (.all [p, ready (!outstanding s s.cur 3 false)]) t = .next t := by
  rw [hp, hout]; rfl
theorem finish_fails {p q : Pre} {c : Nat} {v : Word} {t : State} (hp : p = .trap c v) :
    finish s (.all [p, q]) t = .next (takeTrap s s.cur false c v) := by
  rw [hp]; exact finish_trap_none _ _ _ _

end

/-- A barrier whose members are not all in holds its harts. -/
theorem barrierCheck_holds {s : State} {b : Barrier} (hb : s.pkg.barriers = [b]) (ho : barrierOver s b = false) : barrierCheck s = s := by
  rw [barrierCheck, hb]
  unfold barriersEnd
  rw [ho]
  rfl

/-- The last member lets its hart, the one that waits there, go on. -/
theorem barrierCheck_ends {s : State} {b : Barrier} {n q : Nat} (hb : s.pkg.barriers = [b]) (ho : barrierOver s b = true)
    (hh : b.harts = [s.cur]) (hw : s.me.stalled = some (.barrier n q)) :
    barrierCheck s = (retire s s.cur).modPkg fun P => { P with barriers := [] } := by
  have hwait : (s.hart s.cur).stalled = some (.barrier n q) := hw
  have hp : (retire s s.cur).pkg.barriers = [b] := hb
  rw [barrierCheck, hb]
  unfold barriersEnd
  simp only [ho, hh, hwait, List.filter_cons, List.filter_nil, Bool.not_true, if_true, Bool.false_eq_true, if_false,
    List.foldl_cons, List.foldl_nil, barriersEnd, List.isEmpty_nil, List.append_nil]
  simp [State.modPkg, hp]

section
variable {s : State} {n q : Nat}

theorem barrierJoin_begins (hb : s.pkg.barriers = []) :
    barrierJoin s n q = barrierCheck (atBarrier s n q [newEpisode s n q]) := by
  unfold barrierJoin
  simp only [hb]
  rfl

theorem barrierJoin_arrives {b : Barrier} (hb : s.pkg.barriers = [b]) (hn : b.launch = n) (hq : b.group = q) (hm : b.members ≠ [])
    (hc : coreOf s.cur ∉ b.arrived) (hh : s.cur ∉ b.harts) : barrierJoin s n q =
      barrierCheck (atBarrier s n q [{ b with arrived := b.arrived ++ [coreOf s.cur], harts := b.harts ++ [s.cur] }]) := by
  unfold barrierJoin
  simp [hb, hn, hq, hm, hc, hh, atBarrier, State.modPkg]

theorem atBarrier_me (s : State) (n q : Nat) (l : List Barrier) : (atBarrier s n q l).me = { s.me with stalled := some (.barrier n q) } :=
  State.modHart_hart_same _ _ _

/-- The episode is not over while a member is to come. -/
theorem barrierOver_false {b : Barrier} (h : ∃ k ∈ b.members, counted s b k = false) : barrierOver s b = false := by
  obtain ⟨k, hk, hc⟩ := h
  have : b.members.all (counted s b) = false := List.all_eq_false.2 ⟨k, hk, by simp [hc]⟩
  simp [barrierOver, this]
theorem barrierOver_true {b : Barrier} (hm : b.members ≠ []) (h : ∀ k ∈ b.members, counted s b k = true) : barrierOver s b = true := by
  simpa [barrierOver, hm] using h

theorem memberPre_none {a : Word} (hb : s.pkg.barriers = []) :
    memberPre s n q a = need (decide (q ≤ 255) && (groupOf' s (cluOf (coreOf s.cur)) n q).2.contains (coreOf s.cur)) 5 a := by
  unfold memberPre
  simp [hb]
theorem memberPre_some {a : Word} {b : Barrier} (hb : s.pkg.barriers = [b]) (hn : b.launch = n) (hq : b.group = q) (hm : b.members ≠ []) :
    memberPre s n q a = if b.members.contains (coreOf s.cur) then .ok
      else .seq (need (decide (q ≤ 255) && (groupOf' s (cluOf (coreOf s.cur)) n q).2.contains (coreOf s.cur)) 5 a) (.wait .issue) := by
  unfold memberPre
  simp [hb, hn, hq, hm]

/-- A hart of a core the group has passes its check; another's fails it. -/
theorem need_member {a : Word} {M : List Nat} {c : Nat} (hq : q ≤ 255) (hc : c ∈ M) : need (decide (q ≤ 255) && M.contains c) 5 a = .ok := by
  rw [need_ok_iff]; simp [hq, hc]
theorem need_no_member {a : Word} {M : List Nat} {c : Nat} (h : 255 < q ∨ c ∉ M) :
    need (decide (q ≤ 255) && M.contains c) 5 a = .trap 5 a := by
  have : (decide (q ≤ 255) && M.contains c) = false := by
    rw [Bool.and_eq_false_iff, decide_eq_false_iff_not, Nat.not_le]
    exact h.imp_right fun hc => by simpa using hc
  rw [this]; rfl

end

theorem groupBarriers : Spec.groupBarriers := by
  intro s a T hmode htask hb c n M hout contained
  have hjoin := execGrpbar_joins (a := a) hmode htask (by simp [hb])
  have hcount (k : Nat) : counted s (newEpisode s T.launch n) k = true ↔
      k = c ∨ (s.core k).isSealed = true ∨ coreGone s k = true ∨ contained k := by
    rw [counted_iff]; simp [newEpisode, c, contained]
  have hpre (hn : n ≤ 255) (hc : c ∈ M) : memberPre s T.launch n (s.x a) = .ok := (memberPre_none hb).trans (need_member hn hc)
  refine ⟨fun hn hc hall => ?_, fun hn hc hsome => ?_, fun hno => ?_⟩
  · have hover : barrierOver (atBarrier s T.launch n [newEpisode s T.launch n]) (newEpisode s T.launch n) = true :=
      barrierOver_true (List.ne_nil_of_mem hc) fun k hk => (hcount k).2 (hall k hk)
    have hend := barrierCheck_ends rfl hover rfl (congrArg Hart.stalled (atBarrier_me s T.launch n _))
    refine ⟨_, hjoin.trans ((finish_joins hout (hpre hn hc)).trans (congrArg _ ((barrierJoin_begins hb).trans hend))), rfl, ?_, fun hv => ?_⟩
    · exact congrArg Hart.stalled (retire_retired (atBarrier s T.launch n [newEpisode s T.launch n])).rest
    · have hme := atBarrier_me s T.launch n [newEpisode s T.launch n]
      have hpc := (retire_retired (atBarrier s T.launch n [newEpisode s T.launch n])).pc (by rw [hme]; exact hv)
      rw [hme] at hpc
      exact hpc
  · obtain ⟨k, hk, hkc, hks, hkg, hkn⟩ := hsome
    have hover : barrierOver (atBarrier s T.launch n [newEpisode s T.launch n]) (newEpisode s T.launch n) = false := by
      refine barrierOver_false ⟨k, hk, Bool.eq_false_iff.2 fun h => ?_⟩
      have := (hcount k).1 h
      simp [hkc, hks, hkg, hkn] at this
    exact hjoin.trans ((finish_joins hout (hpre hn hc)).trans (congrArg _ ((barrierJoin_begins hb).trans (barrierCheck_holds rfl hover))))
  · exact hjoin.trans (finish_fails ((memberPre_none hb).trans (need_no_member hno)))

theorem barrierEpisodes : Spec.barrierEpisodes := by
  intro s a T b hmode htask hb hn hq hm hout c
  have hjoin := execGrpbar_joins (a := a) hmode htask (by simp [hb, hm])
  rw [← hq] at hjoin
  have hpre := memberPre_some (a := s.x a) hb hn rfl hm
  refine ⟨fun hc harr hh hsome => ?_, fun hc hle hmem => ?_, fun hc hno => ?_⟩
  · obtain ⟨k, hk, hkc, hkn⟩ := hsome
    have hover : barrierOver (atBarrier s T.launch b.group [{ b with arrived := b.arrived ++ [c], harts := b.harts ++ [s.cur] }])
        { b with arrived := b.arrived ++ [c], harts := b.harts ++ [s.cur] } = false := by
      refine barrierOver_false ⟨k, hk, Bool.eq_false_iff.2 fun h => ?_⟩
      rw [Bool.eq_false_iff, Ne, counted_iff] at hkn
      refine hkn (((counted_iff _ _ _).1 h).imp_left fun hmem => ?_)
      simpa [hkc] using hmem
    exact hjoin.trans ((finish_joins hout (hpre.trans (if_pos (by simpa using hc)))).trans
      (congrArg _ ((barrierJoin_arrives hb hn rfl hm harr hh).trans (barrierCheck_holds rfl hover))))
  · rw [if_neg (by simpa using hc), need_member hle hmem] at hpre
    rw [hjoin, hpre]; rfl
  · rw [if_neg (by simpa using hc), need_no_member hno] at hpre
    exact hjoin.trans (finish_fails hpre)

end Sys2Proof.Machine

namespace Sys2Proof.Machine
open Sys2Proof

/-! What is left of a hart and of memory when its streams, its registers and its engine state go. -/

/-- A key that is taken off for every listed entry leaves no entry. -/
theorem foldl_del_keys {α : Type} (l : SMap α) : ∀ m : SMap α, (∀ e ∈ m, e.1 ∈ l.map Prod.fst) → l.foldl (fun m e => SMap.del m e.1) m = [] := by
  have hmem (k : Nat) : ∀ (m : SMap α), ∀ e ∈ SMap.del m k, e ∈ m ∧ e.1 ≠ k := by
    intro m
    induction m with
    | nil => intro e he; cases he
    | cons p r ih =>
      obtain ⟨j, v⟩ := p
      intro e he
      unfold SMap.del at he
      split at he
      case isTrue => exact ⟨List.mem_cons_of_mem _ (ih e he).1, (ih e he).2⟩
      case isFalse hj =>
        obtain rfl | he := List.mem_cons.1 he
        · exact ⟨List.mem_cons_self, hj⟩
        · exact ⟨List.mem_cons_of_mem _ (ih e he).1, (ih e he).2⟩
  induction l with
  | nil => exact fun m hm => List.eq_nil_iff_forall_not_mem.2 fun e he => by simpa using hm e he
  | cons p l ih =>
    refine fun m hm => ih _ fun e he => ?_
    obtain ⟨he, hne⟩ := hmem p.1 m e he
    exact (List.mem_cons.1 (hm e he)).resolve_left hne

theorem unbindAll_streams (H : Hart) : (unbindAll H).streams = [] := by
  have key (l : SMap Stream) : ∀ H : Hart, (l.foldl (fun H e => unbind H e.1) H).streams = l.foldl (fun m e => SMap.del m e.1) H.streams := by
    induction l with
    | nil => exact fun H => rfl
    | cons e l ih => exact fun H => ih (unbind H e.1)
  exact (key H.streams H).trans (foldl_del_keys _ _ fun e he => List.mem_map_of_mem he)

/-- A slot or accumulator that is wiped lies beyond what any address reaches. -/
theorem wipe_read (s : State) (g : Nat) (acc : Bool) (u : Nat) {x : Nat} (hx : x < 2 ^ 66) : (wipe s g acc u).mem.read x = s.mem.read x := by
  unfold wipe
  cases acc
  case true => rfl
  case false =>
    change SMap.get _ (List.filter (fun e => !decide (opLoc g (u * 8192) ≤ e.1 ∧ e.1 < opLoc g (u * 8192) + 8192)) s.mem) x = _
    rw [SMap.get_filter _ fun a => !decide (opLoc g (u * 8192) ≤ a ∧ a < opLoc g (u * 8192) + 8192), if_pos]
    · rfl
    · have : ¬ opLoc g (u * 8192) ≤ x := by unfold opLoc; omega
      simp [this]

theorem unmap_read (s : State) (h : Nat) (acc : Bool) (l : List Nat) {x : Nat} (hx : x < 2 ^ 66) :
    (unmap s h acc l).mem.read x = s.mem.read x :=
  foldl_keeps (fun s => s.mem.read x) _ (fun _ _ => wipe_read _ _ _ _ hx) _ _

theorem releaseEngine_read (s : State) (h : Nat) {x : Nat} (hx : x < 2 ^ 66) : (releaseEngine s h).mem.read x = s.mem.read x :=
  (unmap_read _ _ _ _ hx).trans (unmap_read _ _ _ _ hx)
theorem releaseEngine_number (s : State) (h : Nat) : (releaseEngine s h).pkg.number = s.pkg.number :=
  pkg_of_standing ((standing_modHart _ _ _).trans (standing_unmapAll s h)) Pkg.number fun _ => rfl

/-! The end of a task's record (R254). -/

theorem joinValid_congr {s t : State} (h : t.pkg.number = s.pkg.number) (j : Nat) : joinValid t j = joinValid s j := by
  have hp (a : Word) : placeOf t 0 none a = placeOf s 0 none a := by unfold placeOf; rw [h]
  unfold joinValid
  rw [hp]

theorem sendDev_harts (s : State) (g slot key : Nat) (b : Body) : (sendDev s g slot key b).harts = s.harts ∧ (sendDev s g slot key b).cur = s.cur :=
  ⟨stand_harts _ _ _, stand_cur _ _ _⟩
theorem signalEnd_harts (s : State) (g : Nat) (r : TaskRec) (n v : Nat) : (signalEnd s g r n v).harts = s.harts ∧ (signalEnd s g r n v).cur = s.cur := by
  unfold signalEnd
  dsimp only
  split
  · exact sendDev_harts _ _ _ _ _
  · split <;> exact sendDev_harts _ _ _ _ _
theorem groupCount_harts (s : State) (p : Nat × Nat) (v : Nat) : (groupCount s p v).harts = s.harts ∧ (groupCount s p v).cur = s.cur := by
  unfold groupCount
  dsimp only
  split
  · exact ⟨rfl, rfl⟩
  · split
    · split
      · exact signalEnd_harts _ _ _ _ _
      · exact ⟨rfl, rfl⟩
    · exact ⟨rfl, rfl⟩
theorem endRecord_harts (s : State) (g : Nat) (r : TaskRec) (p : Option (Nat × Nat)) (n v : Nat) :
    (endRecord s g r p n v).harts = s.harts ∧ (endRecord s g r p n v).cur = s.cur := by
  cases p with
  | none => exact signalEnd_harts _ _ _ _ _
  | some p => exact groupCount_harts _ _ _

theorem endRecord_mem (s : State) (g : Nat) (r : TaskRec) (p : Option (Nat × Nat)) (n v : Nat) : (endRecord s g r p n v).mem = s.mem := by
  cases p with
  | none => exact bystander_mem.signalEnd _ _ _ _ _
  | some p => exact bystander_mem.groupCount _ _ _

/-- The one signal of an end: the arrival at the record's counter, or the release of its entry. -/
theorem signalEnd_sends (s : State) (g : Nat) (r : TaskRec) (n v : Nat) : ∃ p, (signalEnd s g r n v).net.getLast? = some p ∧
    p.body = if r.join ≠ 0 ∧ joinValid s r.join = true then .dec r.join v (keyOfRec r) n else .release (keyOfRec r) n := by
  unfold signalEnd
  dsimp only
  split
  · next h => exact ⟨_, by rw [sendDev, sendAs_net]; exact List.getLast?_concat, rfl⟩
  · next h =>
    refine ⟨{ id := s.nextId, hart := devHart g, slot := some r.slot, key := launchKey s n, body := .release (keyOfRec r) n, imgs := imagesNow (s.hart (devHart g)) }, ?_, rfl⟩
    split
    all_goals
      simp only [orStatus, State.modCluster, State.setCluster, sendDev, sendAs_net]
      exact List.getLast?_concat

theorem leaveTask_mem (s : State) (h : Nat) : (leaveTask s h).mem = s.mem := by
  change (dropFrame (dropCost s h) h).mem = s.mem
  rw [bystander_mem.dropFrame, bystander_mem.dropCost]

theorem leaveTask_number (s : State) (h : Nat) : (leaveTask s h).pkg.number = s.pkg.number := by
  have a : Bystander fun s => s.pkg.number := bystander_pkg Pkg.number fun _ _ => rfl
  exact (a.dropFrame _ h).trans (a.dropCost s h)

section
variable {s : State} {T : Task}

/-- TEND past its waits. -/
theorem endTask_eq (hT : s.me.task = some T) (v : Nat) : endTask s v =
    endRecord (orStatus (leaveTask (disarmHart (retire s s.cur) s.cur) s.cur) (cluOfHart s.cur) T.launch v) (cluOfHart s.cur) T.trec T.group T.launch v := by
  unfold endTask
  simp only [hT]

/-- The hart that TEND frees. -/
theorem endTask_me (hT : s.me.task = some T) (v : Nat) : (endTask s v).me = freeHart (disarm (retire s s.cur).me) := by
  have he := endTask_eq hT v
  obtain ⟨hl, hc⟩ := leaveTask_hart (disarmHart (retire s s.cur) s.cur) s.cur
  obtain ⟨hh, hcur⟩ := endRecord_harts (orStatus (leaveTask (disarmHart (retire s s.cur) s.cur) s.cur) (cluOfHart s.cur) T.launch v)
    (cluOfHart s.cur) T.trec T.group T.launch v
  have hc' : (endTask s v).cur = s.cur := by rw [he, hcur]; exact hc.trans (disarmHart_cur _ _)
  rw [State.me, hc', he, State.hart, hh]
  exact hl.trans (congrArg freeHart (disarmHart_hart _ _))

theorem endTask_mem (hT : s.me.task = some T) (v : Nat) : (endTask s v).mem = s.mem := by
  rw [endTask_eq hT, endRecord_mem, bystander_mem.orStatus, leaveTask_mem, bystander_mem.disarmHart]; rfl

theorem endTask_sends (hT : s.me.task = some T) (v : Nat) (hg : T.group = none) : ∃ p, (endTask s v).net.getLast? = some p ∧
    p.body = if T.trec.join ≠ 0 ∧ joinValid s T.trec.join = true then .dec T.trec.join v (keyOfRec T.trec) T.launch
      else .release (keyOfRec T.trec) T.launch := by
  have hn : (orStatus (leaveTask (disarmHart (retire s s.cur) s.cur) s.cur) (cluOfHart s.cur) T.launch v).pkg.number = s.pkg.number :=
    (leaveTask_number _ _).trans ((bystander_pkg Pkg.number fun _ _ => rfl).disarmHart _ _)
  rw [endTask_eq hT, hg, ← joinValid_congr hn]
  exact signalEnd_sends _ _ _ _ _

end

theorem execTend_ends {s : State} {a : BitVec 5} {T : Task} (hmode : s.me.mode = .U) (htask : s.me.task = some T) (hd : s.me.deque = [])
    (hu : unbindAllPre s.me = .ok) (he : endPre (s.modHart s.cur unbindAll) = .ok)
    (hs : sigEnd (releaseEngine (s.modHart s.cur unbindAll) s.cur) = .ok) :
    exec (.tend a) s = .next (endTask (releaseEngine (s.modHart s.cur unbindAll) s.cur) (tendStatus (s.x a))) := by
  have hlegal : taskLegal s = .ok := by simp [taskLegal, legal, hmode, htask]
  have hall : Pre.all [taskLegal s, (if s.me.deque.isEmpty then .ok else dequeBad 4), unbindAllPre s.me] = .ok := by
    rw [hlegal, hd, hu]; rfl
  change execTend a s = _
  unfold execTend
  simp only [hall]
  exact endWork_ends he rfl hs

/-- The hart from which TEND takes the task. -/
theorem tending_me (s : State) : let u := releaseEngine (s.modHart s.cur unbindAll) s.cur
    u.cur = s.cur ∧ u.me.task = s.me.task ∧ u.me.streams = [] ∧ u.me.bq = [] := by
  intro u
  obtain ⟨⟨sl, ac, hh⟩, hc⟩ := releaseEngine_hart (s.modHart s.cur unbindAll) s.cur
  have hcur : u.cur = s.cur := hc
  have hme : u.me = { unbindAll s.me with slots := sl, accs := ac, csr := { (unbindAll s.me).csr with mstr := [] } } := by
    rw [State.me, hcur]
    refine hh.trans ?_
    rw [State.modHart_hart_same]; rfl
  have hkept : (unbindAll s.me).task = s.me.task := by
    obtain ⟨v, st, hu⟩ := unbindAll_rest s.me
    rw [hu]
  exact ⟨hcur, (congrArg Hart.task hme).trans hkept, (congrArg Hart.streams hme).trans (unbindAll_streams _), congrArg Hart.bq hme⟩

/-- What is left of the hart's streams, queue and armed registers. -/
theorem freed_rest (H : Hart) : (freeHart (disarm H)).streams = H.streams ∧ (freeHart (disarm H)).bq = H.bq ∧ (freeHart (disarm H)).armed = [] := by
  obtain ⟨x, fl, h⟩ := disarm_rest H
  rw [h]
  exact ⟨rfl, rfl, rfl⟩

theorem tendFrees : Spec.taskEnds := by
  intro s a T hmode htask hd hu s1 he hs
  obtain ⟨hcur, hutask, hust, hubq⟩ := tending_me s
  have hread : ∀ x, x < 2 ^ 66 → (releaseEngine s1 s.cur).mem.read x = s.mem.read x := fun x hx => releaseEngine_read s1 s.cur hx
  have hnum : (releaseEngine s1 s.cur).pkg.number = s.pkg.number := releaseEngine_number s1 s.cur
  have hexec := execTend_ends (a := a) hmode htask hd hu he hs
  change exec (.tend a) s = .next (endTask (releaseEngine s1 s.cur) (tendStatus (s.x a))) at hexec
  generalize releaseEngine s1 s.cur = u at hcur hutask hust hubq hread hnum hexec
  have hT := hutask.trans htask
  have hme := endTask_me hT (tendStatus (s.x a))
  obtain ⟨hfst, hfbq, hfarm⟩ := freed_rest (retire u u.cur).me
  have hrest := (retire_retired u).rest
  refine ⟨_, hexec, congrArg Hart.task hme, congrArg Hart.free hme, ?_, ?_, ?_, fun x hx => ?_, fun hg => ?_⟩
  · rw [hme, hfst, hrest]; exact hust
  · rw [hme, hfbq, hrest]; exact hubq
  · rw [hme, hfarm]
  · rw [endTask_mem hT]; exact hread x hx
  · rw [← joinValid_congr hnum]
    exact endTask_sends hT _ hg

end Sys2Proof.Machine

namespace Sys2Proof.Machine
open Sys2Proof

/-! Safe points (R99). -/

/-- Error handling leaves the code objects. -/
theorem rowFix_objs (s : State) (c k : Nat) (f : RowFix) : ((rowFix s c f).core k).objs = (s.core k).objs := by
  have hmod : ∀ g : Core → Core, (g (s.core c)).objs = (s.core c).objs → ((s.modCore c g).core k).objs = (s.core k).objs := fun g hg => by
    rw [State.modCore_core]; split
    · next e => rw [e, hg]
    · rfl
  cases f with
  | corrected r => exact hmod (fun C => { C with ce := min 255 (C.ce + 1), flaws := SMap.del C.flaws r }) rfl
  | reported r => rfl
  | gone r => exact hmod (fun C => { C with flaws := SMap.del C.flaws r }) rfl
  | poisoned n => rfl
theorem scrub_objs (s : State) (l n k : Nat) (w : Bool) : ((scrub s l n w).core k).objs = (s.core k).objs := by
  unfold scrub; split
  · exact foldl_keeps (fun s => (s.core k).objs) _ (fun _ _ => foldl_keeps (fun s => (s.core k).objs) _ (fun _ _ => rowFix_objs _ _ _ _) _ _) _ _
  · rfl
theorem readRecord_objs (s : State) (a : Word) (align n k : Nat) : ((readRecord s a align n).core k).objs = (s.core k).objs := by
  unfold readRecord
  split
  · split
    · rfl
    · exact scrub_objs _ _ _ _ _
  · rfl

/-- Reading a record leaves where the live masks are. -/
theorem readRecord_maskAddr (s : State) (a : Word) (align n k : Nat) : maskAddr (readRecord s a align n) k = maskAddr s k := by
  obtain ⟨-, hh, -, hc⟩ := (readRecord_rest s a align n).1
  have hme : (readRecord s a align n).me = s.me := by rw [State.me, State.hart, hh, hc]; rfl
  unfold maskAddr objectOf
  rw [hme, hc, readRecord_objs]

theorem execSafept_retires {s : State} {k : BitVec 10} (hp : preempts s.me = false) (hs : sigEnd s = .ok) :
    exec (.safept k) s = .next (retire s s.cur) := by
  change execSafept k s = _
  unfold execSafept
  dsimp only
  rw [hp, hs]
  rfl

/-- The resume record of hart H's task T at a safe point of core c, as its cluster G takes it (R278). -/
def resumeEntry (c : Nat) (H : Hart) (T : Task) (G : Cluster) : QEnt :=
  { trec := { T.trec with carry := true, range := true }, regs := dequeWords H.deque, launch := T.launch, slot := T.slot, key := T.key
    ent := { entry := H.pc.toNat / 4 + 1, obj := 0, frame := 0, streams := T.streams, pull := 0, prio := 0, restart := false, cbase := 0, crow := 0, trows := 0 }
    level := T.prio, order := G.order, resume := some (c, T), armed := H.dropped }

/-- State u past the store of the image: the resume record is queued. -/
def resumeQueued (u : State) (c : Nat) (H : Hart) (T : Task) : State :=
  u.modCluster (cluOf c) fun G => { G with queue := G.queue ++ [resumeEntry c H T G], order := G.order + 1 }

theorem resumeQueued_last (u : State) (c : Nat) (H : Hart) (T : Task) :
    ((resumeQueued u c H T).cluster (cluOf c)).queue.getLast? = some (resumeEntry c H T (u.cluster (cluOf c))) := by
  rw [resumeQueued, State.modCluster_cluster_same]
  exact List.getLast?_concat

/-- A pre-emption stores an image, queues the resume record and frees the hart. -/
theorem preempt_eq {s : State} {T : Task} (hT : s.me.task = some T) (k : Nat) (e : LiveMask) : ∃ u : State,
    preempt s k e = (leaveBarriers (resumeQueued u (coreOf s.cur) (landCv s.me.cvPend s.me) T) (resumeQueued u (coreOf s.cur) (landCv s.me.cvPend s.me) T).cur).modHart
      (resumeQueued u (coreOf s.cur) (landCv s.me.cvPend s.me) T).cur fun H => { freeHart H with deque := [] } := by
  unfold preempt
  simp only [hT]
  exact ⟨_, rfl⟩

theorem preempt_me {s : State} {T : Task} (hT : s.me.task = some T) (k : Nat) (e : LiveMask) :
    (preempt s k e).me.task = none ∧ (preempt s k e).me.free = true ∧ (preempt s k e).me.deque = [] := by
  obtain ⟨u, h⟩ := preempt_eq hT k e
  generalize resumeQueued u (coreOf s.cur) (landCv s.me.cvPend s.me) T = r at h
  have hme : (preempt s k e).me = { freeHart ((leaveBarriers r r.cur).hart r.cur) with deque := [] } := by
    rw [h]; exact State.modHart_hart_same _ _ _
  rw [hme]
  exact ⟨rfl, rfl, rfl⟩

/-- The resume record is the last in its cluster's queue. -/
theorem preempt_queue {s : State} {T : Task} (hT : s.me.task = some T) (k : Nat) (e : LiveMask) : ∃ q,
    ((preempt s k e).cluster (cluOfHart s.cur)).queue.getLast? = some q ∧ q.launch = T.launch ∧
    q.resume = some (coreOf s.cur, T) ∧ q.ent.entry = s.me.pc.toNat / 4 + 1 ∧ q.regs = dequeWords s.me.deque := by
  obtain ⟨x, a, f, hL⟩ := landCv_eq s.me.cvPend s.me
  obtain ⟨u, h⟩ := preempt_eq hT k e
  have hq := resumeQueued_last u (coreOf s.cur) (landCv s.me.cvPend s.me) T
  generalize resumeQueued u (coreOf s.cur) (landCv s.me.cvPend s.me) T = r at h hq
  refine ⟨resumeEntry (coreOf s.cur) (landCv s.me.cvPend s.me) T (u.cluster (cluOf (coreOf s.cur))), ?_, rfl, rfl, ?_, ?_⟩
  · rw [h]; exact hq
  · rw [hL]; rfl
  · rw [hL]; rfl

/-- The state in which a safe point's hart reads its live mask: every stream unbound, every armed register dropped and disarmed. -/
def safeState (s : State) : State :=
  disarmHart (s.modHart s.cur fun H => { unbindAll H with dropped := H.dropped ++ H.armed }) s.cur

theorem safeState_me (s : State) : (safeState s).cur = s.cur ∧ (safeState s).me.task = s.me.task ∧ (safeState s).me.pc = s.me.pc ∧
    (safeState s).me.deque = s.me.deque := by
  have hc : (safeState s).cur = s.cur := disarmHart_cur _ _
  have hme : (safeState s).me = disarm { unbindAll s.me with dropped := s.me.dropped ++ s.me.armed } := by
    rw [State.me, hc]
    refine (disarmHart_hart _ _).trans ?_
    rw [State.modHart_hart_same]; rfl
  obtain ⟨v, st, hu⟩ := unbindAll_rest s.me
  obtain ⟨x, fl, hd⟩ := disarm_rest { unbindAll s.me with dropped := s.me.dropped ++ s.me.armed }
  rw [hme, hd, hu]
  exact ⟨hc, rfl, rfl, rfl⟩

/-- The state past the end waits of a safe point whose live mask is at a. -/
theorem released_safe (s : State) (a : Word) (k n : Nat) : let u := releaseEngine (readRecord (safeState s) a k n) s.cur
    u.cur = s.cur ∧ u.me.task = s.me.task ∧ u.me.pc = s.me.pc ∧ u.me.deque = s.me.deque := by
  intro u
  obtain ⟨hc, htask, hpc, hdeque⟩ := safeState_me s
  obtain ⟨-, hh, -, hcr⟩ := (readRecord_rest (safeState s) a k n).1
  obtain ⟨⟨sl, ac, he⟩, hce⟩ := releaseEngine_hart (readRecord (safeState s) a k n) s.cur
  have hcur : u.cur = s.cur := hce.trans (hcr.trans hc)
  have hme : u.me = { (safeState s).me with slots := sl, accs := ac, csr := { (safeState s).me.csr with mstr := [] } } := by
    rw [State.me, hcur]
    refine he.trans ?_
    rw [State.hart, hh, State.me, hc]; rfl
  exact ⟨hcur, (congrArg Hart.task hme).trans htask, (congrArg Hart.pc hme).trans hpc, (congrArg Hart.deque hme).trans hdeque⟩

theorem execSafept_preempts {s : State} {k : BitVec 10} (hp : preempts s.me = true) (hu : unbindAllPre s.me = .ok) (hcm : s.me.commit = none)
    (hheld : s.me.held = none) :
    let a := maskAddr (safeState s) k.toNat
    let s1 := readRecord (safeState s) a 16 16
    let e := parseMask (recordBytes s1 a 16)
    endPre s1 = .ok → poisonPre s1 a 16 = .ok → e.valid = true → sigEnd (releaseEngine s1 s.cur) = .ok →
    exec (.safept k) s = .next (preempt (releaseEngine s1 s.cur) k.toNat e) := by
  intro a s1 e hend hpoi hval hsig
  have hc : s1.cur = s.cur := (readRecord_rest (safeState s) a 16 16).1.2.2.2.trans (safeState_me s).1
  have hmore : Pre.seq (poisonPre s1 a 16) (need e.valid 5 a) = .ok := by rw [hpoi, hval]; rfl
  rw [← hc] at hsig ⊢
  rw [← endWork_ends (f := fun t => preempt t k.toNat e) hend hmore hsig]
  change execSafept k s = _
  unfold execSafept
  simp only [hp, hu, hcm, hheld]
  rfl

theorem safePoints : Spec.safePoints := by
  intro s k H asked
  refine ⟨fun hp hs => ⟨_, execSafept_retires hp hs, retire_retired s⟩, ?_⟩
  intro T hp htask hu hcm hheld s0 s1 e hend hpoi hval hsig
  have hmask : maskAddr s1 k.toNat = maskAddr s0 k.toNat := readRecord_maskAddr _ _ _ _ _
  have hexec : exec (.safept k) s = .next (preempt (releaseEngine s1 s.cur) k.toNat e) := by
    simp only [e, hmask] at hpoi hval ⊢
    exact execSafept_preempts hp hu hcm hheld hend hpoi hval hsig
  obtain ⟨hcur, hutask, hupc, hudeque⟩ : (releaseEngine s1 s.cur).cur = s.cur ∧ (releaseEngine s1 s.cur).me.task = s.me.task ∧
    (releaseEngine s1 s.cur).me.pc = s.me.pc ∧ (releaseEngine s1 s.cur).me.deque = s.me.deque := released_safe s _ _ _
  clear_value s1 e
  generalize releaseEngine s1 s.cur = u at hexec hcur hutask hupc hudeque
  have hT := hutask.trans htask
  obtain ⟨ht, hf, hd⟩ := preempt_me hT k.toNat e
  obtain ⟨q, hq, hql, hqr, hqe, hqd⟩ := preempt_queue hT k.toNat e
  rw [hcur] at hq hqr
  exact ⟨_, q, hexec, ht, hf, hd, hq, hql, hqr, by rw [hqe, hupc], by rw [hqd, hudeque]⟩

/-- Settles O35, by the word that ends or holds the hart's work. -/
theorem taskEnds : Obligations.TaskEnds :=
  ⟨tendFrees, environmentCalls, firmwareAnswers, safePoints, groupBarriers, barrierEpisodes⟩

end Sys2Proof.Machine

namespace Sys2Proof.Machine
open Sys2Proof

/-! What a hart holds — its task, its armed registers, its streams — through the seals and retirements of cores (R409, R412). -/

/-- The task, the armed registers and the streams of a hart. -/
def Hart.holds (H : Hart) : Option Task × List Nat × SMap Stream := (H.task, H.armed, H.streams)
/-- What hart h holds. -/
def holdings (h : Nat) (s : State) : Option Task × List Nat × SMap Stream := (s.hart h).holds

section
variable (h : Nat) (s : State)

theorem holdings_of_harts {s t : State} (e : t.harts = s.harts) : holdings h t = holdings h s := by
  rw [holdings, State.hart, e]; rfl
theorem holdings_modHart (n : Nat) (f : Hart → Hart) (hf : h = n → (f (s.hart n)).holds = (s.hart n).holds) :
    holdings h (s.modHart n f) = holdings h s := by
  unfold holdings
  by_cases e : h = n
  · subst e; rw [State.modHart_hart_same, hf rfl]
  · rw [State.modHart_hart_ne _ _ _ e]

/-! Stores and full-empty waiters. -/

theorem holdings_store (w : Option Nat) (l : Nat) (b : List Byte) (p : Bool) : holdings h (store s w l b p) = holdings h s := by
  unfold holdings
  rw [(losesResv_store s w l b p h).1]; rfl
theorem holdings_loseResv (w : Option Nat) (l n : Nat) : holdings h (loseResv s w l n) = holdings h s := by
  unfold holdings
  rw [(losesResv_loseResv s w l n h).1]; rfl
theorem holdings_load (l n : Nat) : holdings h (load s l n).1 = holdings h s := holdings_of_harts h (scrub_harts _ _ _ _)

theorem holdings_feAt (w : Option Nat) (l : Nat) (op : MemOp) (x : State × Reply) (hx : feAt s w l op = some x) :
    holdings h x.1 = holdings h s := by
  delta feAt at hx
  cases op with
  | feLoad clr =>
    have hl := holdings_load h s l 8
    dsimp only at hx
    split at hx
    · cases hx
    · split at hx <;> rw [← Option.some.inj hx]
      · exact hl
      · cases clr
        · exact hl
        · exact (holdings_loseResv h _ _ _ _).trans hl
  | feStore v =>
    dsimp only at hx
    split at hx
    · cases hx
    · rw [← Option.some.inj hx]; exact holdings_store h _ _ _ _ _
  | feSet b => rw [← Option.some.inj hx]; exact holdings_loseResv h _ _ _ _
  | feQuery => rw [← Option.some.inj hx]; exact holdings_of_harts h (scrub_harts _ _ _ _)
  | load | store | loads | stores | amo | fxAdd | fxRead | fxClear | joinInit | joinAdd | relStore | joinArm | mcw => cases hx

theorem holdings_firstServed (t : State) (loc : Nat) (q : Packet) (r : Reply) :
    ∀ l : List Packet, firstServed s loc l = some (q, t, r) → holdings h t = holdings h s := by
  intro l
  induction l with
  | nil => intro hx; cases hx
  | cons p l ih =>
    intro hx
    unfold firstServed at hx
    split at hx
    · split at hx
      · split at hx
        · next hf => cases hx; exact holdings_feAt h _ _ _ _ _ hf
        · exact ih hx
      · exact ih hx
    · exact ih hx
theorem holdings_serveFe (n : Nat) : ∀ (s : State) (loc : Nat), holdings h (serveFe n s loc) = holdings h s := by
  induction n with
  | zero => exact fun _ _ => rfl
  | succ n ih =>
    intro s loc
    unfold serveFe
    dsimp only
    split
    · rfl
    · next p t r hf =>
      refine (ih _ _).trans ((holdings_of_harts h (putBackAt_harts _ _ _)).trans ?_)
      exact holdings_firstServed h s t _ _ _ _ hf
theorem holdings_fillGranules (l n : Nat) : holdings h (fillGranules s l n) = holdings h s := by
  unfold fillGranules
  split
  · refine foldl_keeps (holdings h) _ (fun t g => ?_) _ _
    split
    · rfl
    · exact holdings_serveFe h _ _ _
  · rfl

/-! What the engines do when their commands are discarded. -/

theorem holdings_writeOut (l : List OutElem) : holdings h (writeOut s l) = holdings h s := by
  unfold writeOut
  dsimp only
  rw [foldl_keeps (holdings h) _ fun _ _ => holdings_fillGranules h _ _ _, foldl_keeps (holdings h) _ fun _ _ => ?_,
    foldl_keeps (holdings h) _ fun _ _ => holdings_store h _ _ _ _ _]
  split <;> rfl
theorem translate_harts (d k a : Nat) (w : Bool) : (translate s d k a w).1.harts = s.harts := by
  unfold translate
  repeat' split
  all_goals rfl
theorem reach_harts (A : Agent) (a : Word) (n : Nat) (w : Bool) : (reach s A a n w).1.harts = s.harts := by
  unfold reach
  dsimp only
  split
  · rfl
  split
  · rfl
  split
  · rfl
  · rfl
  · rfl
  · split
    · rfl
    · rfl
    · split <;> rfl
  · rfl
  · next v _ =>
    split
    · rfl
    · have ht := translate_harts s (dieOfHart A.hart) (A.slot.getD 0) v w
      split <;> next e => rw [e] at ht; exact ht
theorem spTarget_harts (A : Agent) (b : Word) (n i k : Nat) : (spTarget s A b n i k).1.harts = s.harts := by
  have hr := reach_harts s A (b + word (i * n)) n true
  unfold spTarget
  split <;> next e => rw [e] at hr; exact hr
theorem holdings_writePtrs (A : Agent) (d : ConvDesc) (b : Bool) (l : List (List (Nat × Nat))) :
    ∀ (s : State) (e : Option SpStop), holdings h (writePtrs A d b l s e).1 = holdings h s := by
  induction l with
  | nil => exact fun _ _ => rfl
  | cons g r ih =>
    intro s e
    unfold writePtrs
    extract_lets i l go
    have hgo : ∀ s x, holdings h (go s x).1 = holdings h s := by
      intro s x
      cases x with
      | fail c a n => exact ih _ _
      | need w =>
        simp only [go]
        cases b
        · rfl
        · exact (ih _ _).trans (holdings_of_harts h (stand_harts _ _ _))
    have ht := spTarget_harts s A d.optr 4 i 6
    split <;> rename_i e1 <;> rw [e1] at ht
    · exact (hgo _ _).trans (holdings_of_harts h ht)
    · split
      · exact (hgo _ _).trans (holdings_of_harts h ht)
      · exact (ih _ _).trans ((holdings_writeOut h _ _).trans (holdings_of_harts h ht))
theorem holdings_endSparse (g : Nat) (c : SpCmd) (n r : Nat) (p : Bool) : holdings h (endSparse s g c n r p) = holdings h s := by
  unfold endSparse wakeFe
  dsimp only
  refine (holdings_serveFe h _ _ _).trans ((holdings_store h _ _ _ _ _).trans ?_)
  exact holdings_modHart h _ _ _ fun _ => rfl
theorem holdings_dropSparseOf (g : Nat) (p : Nat → Bool) : holdings h (dropSparseOf s g p) = holdings h s := by
  unfold dropSparseOf
  extract_lets G mine s1 s2 s3
  have h1 : holdings h s1 = holdings h s := by
    simp only [s1]
    split
    · split
      · exact holdings_writeOut h _ _
      · rfl
    · rfl
  have h2 : holdings h s2 = holdings h s := by
    simp only [s2]
    split
    · split
      · exact (holdings_endSparse h _ _ _ _ _ _).trans ((holdings_writePtrs h _ _ _ _ _ _).trans ((holdings_writeOut h _ _).trans h1))
      · exact h1
    · exact h1
  rw [foldl_keeps (holdings h) _ fun _ _ => ?_]
  · exact h2
  · rfl

theorem holdings_unmap (n : Nat) (b : Bool) (l : List Nat) : holdings h (unmap s n b l) = holdings h s := by
  unfold unmap
  dsimp only
  refine (holdings_modHart h _ _ _ fun _ => by cases b <;> rfl).trans ?_
  exact foldl_keeps (holdings h) _ (fun _ _ => holdings_of_harts h (wipe_harts _ _ _ _).1) _ _
theorem discardOf_harts (g : Nat) (p : Nat → Bool) : (discardOf s g p).harts = s.harts := by
  unfold discardOf
  dsimp only
  rw [foldl_keeps State.harts _ fun _ _ => ?_] <;> rfl
theorem holdings_dropMatrix (c : Nat) : holdings h (dropMatrix s c) = holdings h s := by
  unfold dropMatrix
  dsimp only
  refine (foldl_keeps (holdings h) _ (fun s n => ?_) _ _).trans (holdings_of_harts h (discardOf_harts _ _ _))
  exact (holdings_unmap h _ _ _ _).trans (holdings_unmap h _ _ _ _)

/-! Losses. -/

theorem loseWork_harts (g : Nat) (r : TaskRec) (n k j : Nat) (p : Option (Nat × Nat)) (b : Bool) : (loseWork s g r n k j p b).harts = s.harts := by
  unfold loseWork
  split
  · exact (sendDev_harts _ _ _ _ _).1
  · split
    · rfl
    · split
      · exact (sendDev_harts _ _ _ _ _).1
      · exact (groupCount_harts _ _ _).1
theorem loseTask_harts (n : Nat) : (loseTask s n).harts = s.harts := by
  unfold loseTask dropFrame dropCost
  split
  · rfl
  · refine (loseWork_harts _ _ _ _ _ _ _ _).trans ?_
    repeat' split
    all_goals rfl
theorem loseResumes_harts (c : Nat) : (loseResumes s c).harts = s.harts := by
  unfold loseResumes
  refine foldl_keeps State.harts _ (fun s q => ?_) _ _
  split
  · exact loseWork_harts _ _ _ _ _ _ _ _
  · rfl
theorem loseCtx_harts (g : Nat) (x : Ctx) : (loseCtx s g x).harts = s.harts := loseWork_harts _ _ _ _ _ _ _ _
theorem refuseWaiters_harts (c : Nat) : (refuseWaiters s c).harts = s.harts :=
  foldl_keeps State.harts _ (fun _ _ => putBackAt_harts _ _ _) _ _

/-! Barriers. -/

theorem retire_holds (n : Nat) : holdings h (retire s n) = holdings h s := by
  unfold holdings retire
  by_cases e : h = n
  · subst e
    have hr : SameButRetire (s.hart h) (retiredHart s h) := retiredHart_rest s h
    rw [State.setHart_hart_same, hr]; rfl
  · rw [State.setHart_hart_ne _ _ _ e]
theorem holdings_barriersEnd (l : List Barrier) : ∀ s, holdings h (barriersEnd l s) = holdings h s := by
  induction l with
  | nil => exact fun _ => rfl
  | cons b r ih =>
    intro s
    unfold barriersEnd
    dsimp only
    split
    · refine (ih _).trans ?_
      exact foldl_keeps (holdings h) _ (fun _ _ => retire_holds h _ _) _ _
    · exact ih s

/-! Seals and retirements. -/

theorem holdings_sealHarts (l : List Nat) :
    holdings h (l.foldl (fun s n => s.modHart n sealHart) s) = if h ∈ l then (none, [], []) else holdings h s := by
  rw [holdings, foldl_modHart_hart (f := sealHart) fun _ => rfl]
  split <;> rfl

/-- The seal of core k empties its harts, and leaves what the others hold. -/
theorem holdings_sealCore (k : Nat) : holdings h (sealCore s k) =
    if (s.core k).isSealed = false ∧ h ∈ hartsOf k then (none, [], []) else holdings h s := by
  unfold sealCore
  dsimp only
  split
  · next hs => simp [hs]
  · next hs =>
    have hs' : (s.core k).isSealed = false := by simpa using hs
    simp only [hs', true_and]
    rw [barrierCheck, holdings_barriersEnd, holdings_of_harts (t := orphanAll _ k) h rfl]
    refine (holdings_sealHarts h _ (hartsOf k)).trans (if_congr Iff.rfl rfl ?_)
    rw [foldl_keeps (holdings h) _ fun _ _ => holdings_of_harts h (loseCtx_harts _ _ _), holdings_of_harts h (loseResumes_harts _ _),
      foldl_keeps (holdings h) _ fun _ _ => holdings_of_harts h (loseTask_harts _ _)]
    refine (holdings_dropSparseOf h _ _ _).trans ((holdings_dropMatrix h _ _).trans ?_)
    exact (holdings_of_harts h (refuseDeposits_harts _ _ _).1).trans (holdings_of_harts h (refuseWaiters_harts _ _))

end

/-- Hart h holds nothing. -/
def Bare (h : Nat) (s : State) : Prop := holdings h s = (none, [], [])

namespace Bare
variable {h : Nat} {s : State}

theorem of_harts {t : State} (e : t.harts = s.harts) (hb : Bare h s) : Bare h t := (holdings_of_harts h e).trans hb
theorem sealCore (k : Nat) (hb : Bare h s) : Bare h (sealCore s k) := by
  rw [Bare, holdings_sealCore, hb, ite_self]
theorem sealCore_own {c : Nat} (hc : h ∈ hartsOf c) (hs : (s.core c).isSealed = false) : Bare h (Machine.sealCore s c) := by
  rw [Bare, holdings_sealCore, if_pos ⟨hs, hc⟩]
theorem foldl_sealCore (l : List Nat) : ∀ s, Bare h s → Bare h (l.foldl Machine.sealCore s) := by
  induction l with
  | nil => exact fun _ hb => hb
  | cons k l ih => exact fun s hb => ih _ (hb.sealCore k)

theorem retireCluster (g : Nat) (hb : Bare h s) : Bare h (retireCluster s g) := by
  unfold Machine.retireCluster
  dsimp only
  split
  · exact hb
  · have h1 := foldl_sealCore (coresOf g) s hb
    generalize (coresOf g).foldl Machine.sealCore s = s1 at h1
    rw [Bare, barrierCheck, holdings_barriersEnd]
    refine Bare.of_harts (s := List.foldl _ _ _) rfl ?_
    rw [Bare, foldl_keeps (holdings h) _ fun s p => ?_, foldl_keeps (holdings h) _ fun s e => ?_, foldl_keeps (holdings h) _ fun s e => ?_]
    · exact h1
    · split
      · rfl
      · exact holdings_of_harts h (loseWork_harts _ _ _ _ _ _ _ _)
    · split
      · exact holdings_of_harts h (sendDev_harts _ _ _ _ _).1
      · rfl
    · split
      · exact holdings_of_harts h (loseWork_harts _ _ _ _ _ _ _ _)
      · rfl
theorem retireCore (c : Nat) (hb : Bare h s) : Bare h (retireCore s c) := by
  have hk : Bare h (record ((Machine.sealCore s c).modCore c fun C => { C with isRetired := true }) 1 c) := hb.sealCore c
  unfold Machine.retireCore clusterRule
  split
  · exact hk.retireCluster _
  · exact hk

/-- A core that is contained leaves nothing in its harts. -/
theorem containCore {c : Nat} (hc : h ∈ hartsOf c) (hs : (s.core c).isSealed = false) : Bare h (containCore s c) := by
  have hb : Bare h ((Machine.sealCore s c).modCore c fun C => { C with seals := C.seals + 1 }) := sealCore_own hc hs
  unfold Machine.containCore
  rw [if_neg (by simp [hs])]
  dsimp only
  generalize (Machine.sealCore s c).modCore c _ = t at hb
  split
  · exact hb
  · split
    · exact Bare.retireCore c (hb.of_harts rfl)
    · exact hb

end Bare

end Sys2Proof.Machine

namespace Sys2Proof.Machine
open Sys2Proof

/-! The code words of a core: what commits and starts make executable (R73, R74, R101). -/

/-- Every listed key is set. -/
theorem get_foldl_set (v : Bool) (f : Nat → Nat) (l : List Nat) {i : Nat} :
    ∀ m : SMap Bool, (i ∈ l ∨ SMap.get false m (f i) = v) → SMap.get false (l.foldl (fun m j => SMap.set false m (f j) v) m) (f i) = v := by
  induction l with
  | nil => exact fun m h => h.resolve_left List.not_mem_nil
  | cons j r ih =>
    intro m h
    refine ih _ ?_
    by_cases hf : f i = f j
    · exact .inr (by rw [hf, SMap.get_set_same])
    · refine h.imp (fun h => (List.mem_cons.1 h).resolve_left fun e => hf (congrArg f e)) fun h => ?_
      rw [SMap.get_set_ne _ _ _ hf, h]

theorem clearExec_get (C : Core) {first count i : Nat} (h : i < count) : SMap.get false (clearExec C first count).exec (first + i) = false := by
  have hm : clearExec C first count = { C with exec := ((List.range count).map (first + ·)).foldl SMap.del C.exec } := by
    rw [List.foldl_map]; rfl
  rw [hm]
  dsimp only
  rw [SMap.get_foldl_del, if_pos (List.mem_map_of_mem (List.mem_range.2 h))]

section
variable (C : Core) (o : CodeObj) (b : Bool)

theorem acceptObj_exec {i : Nat} (h : i < o.count) : SMap.get false (acceptObj C o b).exec (o.first + i) = true :=
  SMap.get_foldl_put false true (o.first + ·) (List.range o.count) (i := i) (addObject C o).exec (.inl (List.mem_range.2 h))
theorem acceptObj_signed {i : Nat} (h : i < o.count) : SMap.get false (acceptObj C o b).signed (o.first + i) = b :=
  get_foldl_set b (o.first + ·) (List.range o.count) (i := i) (addObject C o).signed (.inl (List.mem_range.2 h))
theorem acceptObj_last : (acceptObj C o b).objs.getLast? = some o := List.getLast?_concat

/-- Records that leave the store take only executable words with them. -/
theorem foldl_clearExec (l : List CodeObj) : ∀ C : Core,
    l.foldl (fun C q => clearExec C q.first q.count) C = { C with exec := (l.foldl (fun C q => clearExec C q.first q.count) C).exec } := by
  induction l with
  | nil => exact fun _ => rfl
  | cons q l ih => exact fun C => ih (clearExec C q.first q.count)
theorem addObject_rest : addObject C o = { C with exec := (addObject C o).exec, objs := (addObject C o).objs } := by
  unfold addObject
  dsimp only
  rw [foldl_clearExec]
  split
  · split <;> rfl
  · rfl
/-- What a record that enters the store leaves of its core. -/
theorem acceptObj_rest : acceptObj C o b = { C with exec := (acceptObj C o b).exec, signed := (acceptObj C o b).signed, objs := (acceptObj C o b).objs } := by
  have h := addObject_rest C o
  unfold acceptObj setExec
  rw [h]

end

/-! CODECMT and its scan. -/

/-- A word whose first check is that it is legal, where it is not. -/
theorem finish_all_illegal (s t : State) (l : List Pre) : finish s (.all (legal s false :: l)) t = .next (Spec.illegal s) :=
  finish_trap_none _ _ _ _

theorem exec_codecmt_U {s : State} {rd a : BitVec 5} (h : s.me.mode = .U) : exec (.codecmt rd a) s = .next (Spec.illegal s) := by
  change execCodecmt rd a s = _
  unfold execCodecmt
  dsimp only
  rw [h]
  exact finish_all_illegal _ _ _

section
variable {s : State} {rd a : BitVec 5} {off : Nat}

theorem exec_codecmt (hm : s.me.mode ≠ .U) (hp : placeNow s (s.x a) = .own off) (ho : off + 32 ≤ padSize (coreOf s.cur)) (hr : rd.toNat ∉ s.me.armed) :
    exec (.codecmt rd a) s = finish s (ready s.me.commit.isNone)
      ((retireWith s fun H => { H with commit := some rd.toNat }).modCore (coreOf s.cur) fun C =>
        { C with commits := C.commits ++ [{ hart := s.cur, rd := rd.toNat, desc := s.x a }] }) := by
  have hl : legal s (s.me.mode != .U) = .ok := by rw [bne_iff_ne.2 hm]; rfl
  have hall : Pre.all [legal s (s.me.mode != .U), need (decide (off + 32 ≤ padSize (coreOf s.cur))) 5 (s.x a), armedW s rd, ready s.me.commit.isNone] =
      Pre.seq (ready s.me.commit.isNone) .ok := by
    rw [decide_eq_true ho]
    simp only [Pre.all, hl, (armedW_ok_iff s rd).2 hr, need, Pre.seq, if_true]
  change execCodecmt rd a s = _
  unfold execCodecmt
  simp only [hp]
  rw [hall]
  cases s.me.commit <;> rfl

theorem codecmt_queues (hm : s.me.mode ≠ .U) (hp : placeNow s (s.x a) = .own off) (ho : off + 32 ≤ padSize (coreOf s.cur)) (hr : rd.toNat ∉ s.me.armed) :
    (s.me.commit ≠ none → exec (.codecmt rd a) s = .next (Spec.waits s .issue)) ∧
    (s.me.commit = none → ∃ t, exec (.codecmt rd a) s = .next t ∧
      Retired ((s.modHart s.cur fun H => { H with commit := some rd.toNat }).modCore (coreOf s.cur) fun C =>
        { C with commits := C.commits ++ [{ hart := s.cur, rd := rd.toNat, desc := s.x a }] }) t) := by
  have he := exec_codecmt hm hp ho hr
  refine ⟨fun hc => ?_, fun hc => ?_⟩
  · rw [he, Option.isNone_eq_false_iff.2 (Option.isSome_iff_ne_none.2 hc)]; rfl
  · rw [he, hc]
    exact ⟨_, rfl, retire_retired _⟩

end

theorem leAt_lt (l : List Byte) (o n : Nat) : leAt l o n < 2 ^ (8 * n) := by
  refine lt_of_lt_of_le (ofBytes_lt _) (Nat.pow_le_pow_right (by decide) ?_)
  rw [List.length_take]; omega

section
variable {s : State} (c loc n : Nat)

theorem scrub_onlyRows (s : State) : Spec.OnlyRows s (scrub s loc n false) :=
  ⟨fun x => by rw [scrub_mem], scrub_harts _ _ _ _, scrub_net _ _ _ _, scrub_cur _ _ _ _⟩
theorem descOk_congr {s t : State} (h : t.pkg = s.pkg) (l : List Byte) : descOk t c l = descOk s c l := by
  unfold descOk descOff placeOf
  rw [h]
theorem coreScan_congr {s t : State} (h : t.mem = s.mem) (first count : Nat) (b : Bool) (k : Nat) :
    coreScan t c first count b k = coreScan s c first count b k := by
  unfold coreScan codeRange State.loadN
  rw [h]

end

/-- The commit under way once its descriptor, the bytes l, has been read. -/
def begun (s : State) (c : Nat) (q : Commit) (l : List Byte) : Commit :=
  { q with
    started := true, bad := coreScan s c (leAt l 0 2) (leAt l 2 2) (leAt l 6 1 % 2 == 1) (leAt l 16 2), first := leAt l 0 2, count := leAt l 2 2
    id := leAt l 4 2, signed := leAt l 6 1 % 2 == 1, table := word (leAt l 8 8), entries := leAt l 16 2 }

theorem exec_codeScanStart {s : State} {c : Nat} {q : Commit} {r : List Commit} (hq : (s.core c).commits = q :: r) (hs : q.started = false) :
    let loc := padBase c + (descOff s c q.desc).getD 0
    let l := s.mem.readBytes loc 32
    let S := scrub s loc 32 false
    exec (.codeScanStart c) s = if (poisonedAt S loc 32).isSome then .next (endCommit S c q (scanResult 11 0))
      else if !descOk s c l then .next (endCommit S c q (scanResult 8 (leAt l 0 2)))
      else .next (S.modCore c fun C => { clearExec C (leAt l 0 2) (leAt l 2 2) with commits := begun s c q l :: r }) := by
  intro loc l S
  have hd : descOk S c l = descOk s c l := descOk_congr c (scrub_pkg _ _ _ _) l
  have hb : begun S c q l = begun s c q l := by
    unfold begun
    rw [coreScan_congr c (scrub_mem s loc 32 false)]
  rw [← hd, ← hb, show l = S.mem.readBytes loc 32 from congrArg (Memory.readBytes · loc 32) (scrub_mem s loc 32 false).symm]
  change execCodeScanStart c s = _
  unfold execCodeScanStart
  simp only [hq, hs]
  rfl

theorem codeScan {s : State} {c : Nat} {q : Commit} {r : List Commit} (hq : (s.core c).commits = q :: r) (hs : q.started = false) :
    let loc := padBase c + (descOff s c q.desc).getD 0
    let l := s.mem.readBytes loc 32
    let S := scrub s loc 32 false
    (poisonedAt S loc 32 ≠ none → exec (.codeScanStart c) s = .next (endCommit S c q (BitVec.ofNat 64 (2 ^ 63 + 11 * 2 ^ 48)))) ∧
    (poisonedAt S loc 32 = none → descOk s c l = false →
      exec (.codeScanStart c) s = .next (endCommit S c q (BitVec.ofNat 64 (2 ^ 63 + 8 * 2 ^ 48 + leAt l 0 2)))) ∧
    (poisonedAt S loc 32 = none → descOk s c l = true → ∃ t q', exec (.codeScanStart c) s = .next t ∧
      (t.core c).commits = q' :: r ∧ q'.started = true ∧ q'.hart = q.hart ∧ q'.rd = q.rd ∧ q'.first = leAt l 0 2 ∧ q'.count = leAt l 2 2 ∧
      q'.bad = coreScan s c (leAt l 0 2) (leAt l 2 2) (leAt l 6 1 % 2 == 1) (leAt l 16 2) ∧
      (∀ i, i < leAt l 2 2 → SMap.get false (t.core c).exec (leAt l 0 2 + i) = false) ∧ t.mem = s.mem ∧ t.harts = s.harts) := by
  intro loc l S
  have he := exec_codeScanStart hq hs
  refine ⟨fun hp => ?_, fun hp hd => ?_, fun hp hd => ?_⟩
  · rw [he, if_pos (Option.isSome_iff_ne_none.2 hp)]; rfl
  · have hlt : leAt l 0 2 % 2 ^ 16 = leAt l 0 2 := Nat.mod_eq_of_lt (leAt_lt l 0 2)
    rw [he, if_neg (by simp [S, loc] at hp; simp [hp]), if_pos (by rw [show descOk s c _ = false from hd]; rfl), scanResult, hlt]; rfl
  · refine ⟨_, begun s c q l, he.trans ((if_neg ?_).trans (if_neg ?_)), ?_, rfl, rfl, rfl, rfl, rfl, rfl, fun i hi => ?_, scrub_mem _ _ _ _, scrub_harts _ _ _ _⟩
    · rw [show poisonedAt _ _ _ = none from hp]; exact Bool.false_ne_true
    · rw [show descOk s c _ = true from hd]; exact Bool.false_ne_true
    · rw [State.modCore_core_same]
    · rw [State.modCore_core_same]
      exact clearExec_get _ hi

/-- The result word of a scan, and the core it leaves but for the commit. -/
def scanned (C : Core) (q : Commit) : Core × Word :=
  match q.dirty, q.bad with
  | some w, _ => (C, scanResult 9 w)
  | none, some (j, k) => (C, scanResult k (q.first + j))
  | none, none => (acceptObj C { first := q.first, count := q.count, id := q.id, table := q.table, entries := q.entries } q.signed, 0)

theorem scanned_commits (C : Core) (q : Commit) : (scanned C q).1.commits = C.commits := by
  unfold scanned
  split
  · rfl
  · rfl
  · rw [acceptObj_rest]

/-- The hart whose commit has ended. -/
def committed (H : Hart) (q : Commit) (v : Word) : Hart := if H.commit = some q.rd then { endWfm (landX H q.rd v) with commit := none } else H

theorem modCore_modCore (s : State) (n : Nat) (f g : Core → Core) : (s.modCore n f).modCore n g = s.modCore n fun C => g (f C) := by
  simp [State.modCore, State.setCore, State.core]
theorem endCommit_modCore (s : State) (c : Nat) (q : Commit) (f : Core → Core) (v : Word) : endCommit (s.modCore c f) c q v =
    (s.modCore c fun C => { f C with commits := (f C).commits.tail }).modHart q.hart fun H => committed H q v := by
  unfold endCommit
  rw [modCore_modCore]
  rfl

/-- The end of a commit: its core, its hart, and the prefetch buffers of its core's harts. -/
def commitEnded (s : State) (c : Nat) (q : Commit) : State :=
  (hartsOf c).foldl (fun s h => s.modHart h fun H => { H with prefetch := [] })
    ((s.modCore c fun C => { (scanned C q).1 with commits := (scanned C q).1.commits.tail }).modHart q.hart fun H => committed H q (scanned (s.core c) q).2)

theorem exec_codecmtCompletion {s : State} {c : Nat} {q : Commit} {r : List Commit} (hq : (s.core c).commits = q :: r) (hs : q.started = true) :
    exec (.codecmtCompletion c) s = .next (commitEnded s c q) := by
  change execCodecmtCompletion c s = _
  unfold execCodecmtCompletion commitEnded scanned
  simp only [hq, hs]
  cases q.dirty with
  | some w => rfl
  | none =>
    cases q.bad with
    | some e => rfl
    | none =>
      change Host.Outcome.next (List.foldl _ (endCommit (s.modCore c _) c q 0) _) = _
      rw [endCommit_modCore]

theorem commitEnded_core (s : State) (c : Nat) (q : Commit) :
    (commitEnded s c q).core c = { (scanned (s.core c) q).1 with commits := (scanned (s.core c) q).1.commits.tail } :=
  (foldl_keeps (fun s => s.core c) (fun s h => s.modHart h fun H => { H with prefetch := [] }) (fun _ _ => rfl) (hartsOf c) _).trans
    (by rw [State.modHart_core, State.modCore_core_same])
theorem commitEnded_hart {s : State} {c : Nat} {q : Commit} (hh : q.hart ∈ hartsOf c) :
    (commitEnded s c q).hart q.hart = { committed (s.hart q.hart) q (scanned (s.core c) q).2 with prefetch := [] } := by
  refine (foldl_modHart_hart (f := fun H => { H with prefetch := [] }) (fun _ => rfl) q.hart (hartsOf c) _).trans ?_
  rw [if_pos hh, State.modHart_hart_same]; rfl
theorem commitEnded_mem (s : State) (c : Nat) (q : Commit) : (commitEnded s c q).mem = s.mem :=
  foldl_keeps State.mem (fun s h => s.modHart h fun H => { H with prefetch := [] }) (fun _ _ => rfl) (hartsOf c) _

theorem codecmt_completes {s : State} {c : Nat} {q : Commit} {r : List Commit} (hq : (s.core c).commits = q :: r) (hs : q.started = true)
    (hh : q.hart ∈ hartsOf c) (hc : (s.hart q.hart).commit = some q.rd) :
    let v := (scanned (s.core c) q).2
    ∃ t, exec (.codecmtCompletion c) s = .next t ∧ (t.core c).commits = r ∧
      t.hart q.hart = { endWfm (landX (s.hart q.hart) q.rd v) with commit := none, prefetch := [] } ∧ t.mem = s.mem ∧
      (q.dirty ≠ none ∨ q.bad ≠ none → (t.core c).exec = (s.core c).exec ∧ (t.core c).objs = (s.core c).objs) ∧
      (q.dirty = none → q.bad = none →
        (∀ i, i < q.count → SMap.get false (t.core c).exec (q.first + i) = true ∧ SMap.get false (t.core c).signed (q.first + i) = q.signed) ∧
        (t.core c).objs.getLast? = some { first := q.first, count := q.count, id := q.id, table := q.table, entries := q.entries }) := by
  intro v
  refine ⟨_, exec_codecmtCompletion hq hs, ?_, ?_, commitEnded_mem _ _ _, fun hf => ?_, fun hd hb => ?_⟩
  · rw [commitEnded_core, scanned_commits, hq]; rfl
  · rw [commitEnded_hart hh, committed, if_pos hc]
  · have hsame : (scanned (s.core c) q).1 = s.core c := by
      unfold scanned
      split
      · rfl
      · rfl
      · next hd hb => simp [hd, hb] at hf
    rw [commitEnded_core, hsame]
    exact ⟨rfl, rfl⟩
  · have hacc : (scanned (s.core c) q).1 =
        acceptObj (s.core c) { first := q.first, count := q.count, id := q.id, table := q.table, entries := q.entries } q.signed := by
      unfold scanned
      rw [hd, hb]
    rw [commitEnded_core, hacc]
    exact ⟨fun i hi => ⟨acceptObj_exec _ _ q.signed hi, acceptObj_signed _ _ q.signed hi⟩, acceptObj_last _ _ q.signed⟩

/-! CSEAL and CRESTART. -/

section
variable {s : State} {a : BitVec 5}

theorem exec_cseal_illegal (h : s.me.mode ≠ .M) : exec (.cseal a) s = .next (Spec.illegal s) := by
  change finish s (.seq (legal s (s.me.mode == .M)) (need (decide ((s.x a).toNat ≤ 15)) 7 (s.x a))) _ = _
  rw [beq_eq_false_iff_ne.2 h]
  exact finish_trap_none _ _ _ _
theorem exec_cseal_M (h : s.me.mode = .M) : exec (.cseal a) s = finish s (need (decide ((s.x a).toNat ≤ 15)) 7 (s.x a))
    (containCore (retire s s.cur) (coreAt (cluOfHart s.cur) (s.x a).toNat)) := by
  change finish s (.seq (legal s (s.me.mode == .M)) (need (decide ((s.x a).toNat ≤ 15)) 7 (s.x a))) _ = _
  rw [h]; rfl

theorem cseals (h : s.me.mode = .M) (hw : (s.x a).toNat ≤ 15) : let c := coreAt (cluOfHart s.cur) (s.x a).toNat
    ∃ (u t : State), exec (.cseal a) s = .next t ∧ Retired s u ∧ t = containCore u c ∧ (t.core c).isSealed = true ∧
      ((s.core c).isSealed = false → ∀ h ∈ hartsOf c, (t.hart h).task = none ∧ (t.hart h).armed = [] ∧ (t.hart h).streams = []) := by
  intro c
  refine ⟨_, _, (exec_cseal_M h).trans (by rw [decide_eq_true hw]; rfl), retire_retired s, rfl, isSealed_containCore _ _, fun hs k hk => ?_⟩
  have hb : Bare k (containCore (retire s s.cur) c) := Bare.containCore hk hs
  simpa [Bare, holdings, Hart.holds] using hb

theorem exec_crestart_illegal (h : s.me.mode ≠ .M) : exec (.crestart a) s = .next (Spec.illegal s) := by
  change execCrestart a s = _
  unfold execCrestart
  dsimp only
  rw [beq_eq_false_iff_ne.2 h]
  exact finish_all_illegal _ _ _

/-- CRESTART with a good layout. -/
theorem exec_crestart {c n : Nat} (h : s.me.mode = .M) (hc : c < 16) (h1 : 1 ≤ n) (h2 : n ≤ 8192) (hw : (s.x a).toNat = c + 2 ^ 16 * n) :
    let k := coreAt (cluOfHart s.cur) c
    exec (.crestart a) s = finish s (.seq (need ((s.core k).isSealed && (s.core k).lostG.isNone) 7 (s.x a))
      ((firmwareFault s k n).elim .ok fun r => .trap 7 r)) (restartCore (retire s s.cur) k n) := by
  intro k
  have hk : (s.x a).toNat % 16 = c := by omega
  have hn : (s.x a).toNat / 2 ^ 16 = n := by omega
  have hz : (s.x a).toNat / 16 % 2 ^ 12 = 0 := by omega
  have hl : need (decide ((s.x a).toNat / 16 % 2 ^ 12 = 0 ∧ 1 ≤ n ∧ n ≤ 8192)) 7 (s.x a) = .ok := by
    rw [decide_eq_true ⟨hz, h1, h2⟩]; rfl
  change execCrestart a s = _
  unfold execCrestart
  simp only [hk, hn, hl, h]
  change finish s (.seq _ (.seq _ .ok)) _ = finish s (.seq _ _) _
  cases firmwareFault s k n <;> rfl

theorem crestart_refused {c n : Nat} (h : s.me.mode = .M) (hc : c < 16) (h1 : 1 ≤ n) (h2 : n ≤ 8192) (hw : (s.x a).toNat = c + 2 ^ 16 * n)
    (hk : (s.core (coreAt (cluOfHart s.cur) c)).isSealed = false ∨ (s.core (coreAt (cluOfHart s.cur) c)).lostG ≠ none) :
    exec (.crestart a) s = .next (takeTrap s s.cur false 7 (s.x a)) := by
  have hf : ((s.core (coreAt (cluOfHart s.cur) c)).isSealed && (s.core (coreAt (cluOfHart s.cur) c)).lostG.isNone) = false := by
    obtain hs | hs := hk
    · rw [hs]; rfl
    · rw [Option.isNone_eq_false_iff.2 (Option.isSome_iff_ne_none.2 hs), Bool.and_false]
  rw [exec_crestart h hc h1 h2 hw, hf]
  exact finish_trap_none _ _ _ _

theorem crestart_sealed {c n : Nat} (h : s.me.mode = .M) (hc : c < 16) (h1 : 1 ≤ n) (h2 : n ≤ 8192) (hw : (s.x a).toNat = c + 2 ^ 16 * n)
    (hs : (s.core (coreAt (cluOfHart s.cur) c)).isSealed = true) (hg : (s.core (coreAt (cluOfHart s.cur) c)).lostG = none) :
    exec (.crestart a) s = finish s ((firmwareFault s (coreAt (cluOfHart s.cur) c) n).elim .ok fun r => .trap 7 r)
      (restartCore (retire s s.cur) (coreAt (cluOfHart s.cur) c) n) := by
  rw [exec_crestart h hc h1 h2 hw, hs, hg]; rfl

end

section
variable (s : State) (k n : Nat)

/-- What the restart of a core does besides setting its harts. -/
theorem restartCore_rest {γ : Type} (g : State → γ) (hg : ∀ s h H, g (State.setHart s h H) = g s) :
    g (restartCore s k n) = g ((wipeMem s (padBase k) (2 ^ 17)).setCore k (startedCore (s.core k) n)) :=
  foldl_keeps g (fun s h => s.setHart h {}) (fun s h => hg s h _) _ _
theorem restartCore_core : (restartCore s k n).core k = startedCore (s.core k) n :=
  (restartCore_rest s k n (fun s => s.core k) fun _ _ _ => rfl).trans (State.setCore_core_same _ _ _)
theorem restartCore_hart {h : Nat} (hh : h ∈ hartsOf k) : (restartCore s k n).hart h = {} :=
  (foldl_modHart_hart (f := fun _ => {}) (fun _ => rfl) h (hartsOf k) _).trans (if_pos hh)
/-- A restarted core's memory reads 0, and the rest as before. -/
theorem restartCore_read (x : Nat) :
    (restartCore s k n).mem.read x = if x < padBase k ∨ padBase k + 2 ^ 17 ≤ x then s.mem.read x else 0 := by
  rw [restartCore_rest s k n State.mem fun _ _ _ => rfl]
  refine (SMap.get_filter _ (fun k' => decide (k' < padBase k ∨ padBase k + 2 ^ 17 ≤ k')) x s.mem).trans ?_
  simp only [decide_eq_true_eq]
  rfl

theorem startedCore_rest (C : Core) : (startedCore C n).isSealed = C.isRetired ∧ (startedCore C n).banks = C.banks ∧ (startedCore C n).members = C.members := by
  unfold startedCore
  rw [acceptObj_rest]
  exact ⟨rfl, rfl, rfl⟩
theorem startedCore_code (C : Core) {i : Nat} (hi : i < n) :
    SMap.get false (startedCore C n).exec i = true ∧ SMap.get false (startedCore C n).signed i = false := by
  have he := acceptObj_exec { isSealed := C.isRetired, banks := C.banks, members := C.members, isRetired := C.isRetired, seals := C.seals }
    { first := 0, count := n, id := 0, table := 0, entries := 0 } false hi
  have hg := acceptObj_signed { isSealed := C.isRetired, banks := C.banks, members := C.members, isRetired := C.isRetired, seals := C.seals }
    { first := 0, count := n, id := 0, table := 0, entries := 0 } false hi
  rw [Nat.zero_add] at he hg
  exact ⟨he, hg⟩

end

/-- The result word is the one R75 gives. -/
theorem scanned_word (C : Core) (q : Commit) : (scanned C q).2 = q.dirty.elim
    (q.bad.elim 0 fun e => BitVec.ofNat 64 (2 ^ 63 + e.2 * 2 ^ 48 + (q.first + e.1) % 2 ^ 16)) fun w => BitVec.ofNat 64 (2 ^ 63 + 9 * 2 ^ 48 + w % 2 ^ 16) := by
  unfold scanned
  cases q.dirty with
  | some w => rfl
  | none => cases q.bad <;> rfl

end Sys2Proof.Machine

namespace Sys2Proof.Laws.Code
open Sys2Proof Sys2Proof.Machine

/-- Settles O44, clause by clause: a commit's issue, scan and end, the seal, and the restart by what it finds. -/
theorem codeWords : Obligations.CodeWords := by
  intro s rd a
  refine ⟨exec_codecmt_U, fun off hm hp ho hr => codecmt_queues hm hp ho hr, fun c q r hq hs => ⟨scrub_onlyRows _ _ s, codeScan hq hs⟩,
    fun c q r hq hs _ hh hc => ?_, fun h => ⟨exec_cseal_illegal h, exec_crestart_illegal h⟩, fun h => ⟨fun hw => ?_, fun hw => cseals h hw, ?_⟩⟩
  · intro v
    have hv : v = (scanned (s.core c) q).2 := by
      rw [scanned_word]
      simp only [v]
      cases q.dirty with
      | some w => rfl
      | none => cases q.bad <;> rfl
    clear_value v
    subst hv
    exact codecmt_completes hq hs hh hc
  · rw [exec_cseal_M h, decide_eq_false (Nat.not_le.2 hw)]
    exact finish_trap_none _ _ _ _
  · intro c n hc h1 h2 hw k
    refine ⟨fun hk => crestart_refused h hc h1 h2 hw hk, fun hs hg => ⟨fun j r hscan => ?_, fun hscan => ?_⟩⟩
    · rw [crestart_sealed h hc h1 h2 hw hs hg, firmwareFault, hscan]
      exact finish_trap_none _ _ _ _
    · have he : exec (.crestart a) s = .next (restartCore (retire s s.cur) k n) := by
        rw [crestart_sealed h hc h1 h2 hw hs hg, firmwareFault, hscan]; rfl
      obtain ⟨hseal, hbanks, hmem⟩ := startedCore_rest n (s.core k)
      have hcore : (restartCore (retire s s.cur) k n).core k = startedCore (s.core k) n := restartCore_core _ _ _
      refine ⟨_, he, fun hr => ?_, fun i hi => restartCore_hart _ _ _ hi, fun i hi => ?_, ?_, ?_, fun o ho => ?_, fun x hx => ?_⟩
      · rw [hcore, hseal, hr]
      · rw [hcore]; exact startedCore_code n _ hi
      · rw [hcore, hbanks]
      · rw [hcore, hmem]
      · rw [restartCore_read, if_neg (by omega)]
      · rw [restartCore_read, if_pos hx]; rfl

end Sys2Proof.Laws.Code

namespace Sys2Proof.Machine
open Sys2Proof

/-! Accesses that leave the core (R89, R90, R91, R231, R233, R295). -/

/-- The address lies neither in the executing hart's own memory nor in the window of its own core. -/
structure Away (s : State) (a : Word) : Prop where
  own    : ∀ off, placeNow s a ≠ .own off
  window : ∀ c off, placeNow s a = .window c off → c ≠ coreOf s.cur

/-- What an access does for which a request place is free, or is not (R211). -/
theorem finish_places (s : State) (k : Nat) (t : State) :
    (placesFor s s.cur k = true → finish s (ready (placesFor s s.cur k)) t = .next t) ∧
    (placesFor s s.cur k = false → finish s (ready (placesFor s s.cur k)) t = .next (s.modHart s.cur fun H => { H with stalled := some .issue })) :=
  ⟨fun h => by rw [h]; rfl, fun h => by rw [h]; rfl⟩

section
variable {s : State} {a : Word}

theorem loadInstr_away (h : Away s a) (rd : Option (BitVec 5)) (kind : HeldKind) (n : Nat) (op : MemOp) :
    loadInstr .ok rd kind a n op s = sendChecked s (armedD s rd) kind a op op := by
  unfold loadInstr
  cases hp : placeNow s a with
  | own off => exact absurd hp (h.own off)
  | window t off =>
    have ho : ownWindow s t = false := beq_eq_false_iff_ne.2 (h.window t off hp)
    simp only [ho, Bool.false_eq_true, if_false]
  | pad t off => rfl
  | other n => rfl
  | virt n => rfl
  | bad => rfl

theorem storeInstr_away (h : Away s a) (bytes : List Byte) :
    storeInstr .ok a bytes s = finish s (ready (placesFor s s.cur 1)) (sendPosted s a (.store bytes false)) := by
  unfold storeInstr
  cases hp : placeNow s a with
  | own off => exact absurd hp (h.own off)
  | window t off =>
    have ho : ownWindow s t = false := beq_eq_false_iff_ne.2 (h.window t off hp)
    simp only [ho, Bool.false_eq_true, if_false]
  | pad t off => rfl
  | other n => rfl
  | virt n => rfl
  | bad => rfl

theorem amoInstr_away (h : Away s a) (q : Pre) (rd : BitVec 5) (kind : HeldKind) (op n : Nat) (v : Word) (cmp : Option Word) :
    amoInstr .ok q rd kind a op n v cmp s = sendChecked s (.seq q (armedW s rd)) kind a (.amo op n v cmp) (.load n) := by
  unfold amoInstr
  cases hp : placeNow s a with
  | own off => exact absurd hp (h.own off)
  | window t off => rfl
  | pad t off => rfl
  | other n => rfl
  | virt n => rfl
  | bad => rfl

/-- ARMED_WRITE stands for the destination of an access only where the destination is in the X file (R295). -/
theorem armedD_dest {rd : BitVec 5} {fp : Bool} (h : fp = false → rd.toNat ∉ s.me.armed) : armedD s (if fp then none else some rd) = .ok := by
  cases fp with
  | true => rfl
  | false => exact (armedW_ok_iff s rd).2 (h rfl)

/-- LR and SC have own memory only (R91). -/
theorem ownPre_notOwn (h : ∀ off, placeNow s a ≠ .own off) (c : Nat) : ownPre s a c = .trap c a := by
  unfold ownPre
  cases hp : placeNow s a with
  | own off => exact absurd hp (h off)
  | window t off => rfl
  | pad t off => rfl
  | other n => rfl
  | virt n => rfl
  | bad => rfl

end

theorem loadReserved_notOwn {s : State} {r : BitVec 5} {n : Nat} (h : ∀ off, placeNow s (s.x r) ≠ .own off) (ha : (s.x r).toNat % n = 0)
    (rd : BitVec 5) (rl : Bool) : loadReserved rd r n rl s = .next (takeTrap s s.cur false 5 (s.x r)) := by
  have hp : Pre.all [alignPre (s.x r) n false, ownPre s (s.x r) 5, lockPre s (s.x r) n false, rlPre s rl] = .trap 5 (s.x r) := by
    rw [Pre.all, Pre.all, ownPre_notOwn h, alignPre, ha]; rfl
  unfold loadReserved
  dsimp only
  rw [hp]
  exact finish_trap_none s s 5 _

theorem storeCond_notOwn {s : State} {r : BitVec 5} {n : Nat} (h : ∀ off, placeNow s (s.x r) ≠ .own off) (ha : (s.x r).toNat % n = 0)
    (rd b : BitVec 5) (rl : Bool) : storeCond rd r b n rl s = .next (takeTrap s s.cur false 7 (s.x r)) := by
  have hp : Pre.all [alignPre (s.x r) n true, ownPre s (s.x r) 7, lockPre s (s.x r) n true, armedW s rd, rlPre s rl] = .trap 7 (s.x r) := by
    rw [Pre.all, Pre.all, ownPre_notOwn h, alignPre, ha]; rfl
  unfold storeCond
  dsimp only
  rw [hp]
  exact finish_trap_none s s 7 _

/-- Settles O8: each operation of the model on an address away from the core is one packet under a request place. -/
theorem remoteAccesses : Obligations.RemoteAccesses := by
  unfold Obligations.RemoteAccesses
  intro i s a ho hw
  have h : Away s a := ⟨ho, hw⟩
  refine ⟨fun rd fp n signed hf hpre hrd => ?_, fun rd n signed hf hpre hrd => ?_, fun A hA ha hpre hrel => ?_,
    fun rd rs1 rs2 aq rl wide hx hal => ?_, fun bytes rel hf hpre hrel => ?_⟩
  · rw [exec_loadForm hf, hpre, loadInstr_away h, armedD_dest hrd]
    exact finish_places s 1 _
  · rw [exec_loadForm hf, hpre, loadInstr_away h]
    change _ → sendChecked s (armedW s rd) _ a _ _ = _
    rw [armedW_armed hrd]
    exact (finish_places s 1 _).1
  · subst ha
    obtain ⟨p, q, op, v, cmp, he, hr, -, hnew, hcmp⟩ := isAmo_of_form hA
    obtain ⟨rfl, rfl⟩ := hr hrel
    rw [hpre] at he
    change exec i s = amoInstr .ok .ok A.rd _ A.adr op A.n v cmp s at he
    rw [he, amoInstr_away h]
    refine ⟨op, v, cmp, fun old _ => hnew old, hcmp.symm, ?_⟩
    by_cases hrd : A.rd.toNat ∈ s.me.armed
    · rw [Pre.seq, armedW_armed hrd]
      exact ⟨(finish_places s 1 _).2, fun hp => ⟨fun hn => absurd hrd hn, fun _ => (finish_places s 1 _).1 hp⟩⟩
    · rw [Pre.seq, (armedW_ok_iff s A.rd).2 hrd]
      exact ⟨(finish_places s 1 _).2, fun hp => ⟨fun _ => (finish_places s 1 _).1 hp, fun hy => absurd hy hrd⟩⟩
  · subst hx
    refine ⟨?_, ?_⟩
    · rintro rfl
      rw [exec_lr]
      exact loadReserved_notOwn ho hal rd rl
    · rintro rfl
      rw [exec_sc]
      exact storeCond_notOwn ho hal rd rs2 rl
  · obtain ⟨q, he, hq⟩ := exec_storeForm hf
    rw [hpre, hq hrel, Pre.seq, storeInstr_away h] at he
    rw [he]
    refine ⟨fun hp => ⟨_, (finish_places s 1 _).1 hp, ?_⟩, (finish_places s 1 _).2⟩
    have hr := retire_retired (send s s.cur (.mem a.toNat (.store bytes false) (.posted false) (whereOf (placeNow s a))))
    rwa [send_cur] at hr

end Sys2Proof.Machine

namespace Sys2Proof.Machine
open Sys2Proof

/-! Hardware loops (R95, R96, R98). -/

/-- The state in which HLOOP has loaded its level. -/
def loopLoaded (s : State) (level : Bool) (rs1 : BitVec 5) (soff : BitVec 2) (eoff : BitVec 10) : State :=
  s.modHart s.cur fun H => { H with csr := hloopCsr H.csr level H.pc (s.x rs1) soff.toNat eoff.toNat }

theorem exec_hloop (s : State) (level : Bool) (rs1 : BitVec 5) (soff : BitVec 2) (eoff : BitVec 10) :
    exec (.hloop level rs1 soff eoff) s = .next (if s.x rs1 = 0
      then retireTo (loopLoaded s level rs1 soff eoff) s.cur (s.me.pc + BitVec.ofNat 64 (4 * eoff.toNat + 4)) .direct
      else retire (loopLoaded s level rs1 soff eoff) s.cur) := rfl

theorem loopSetup : Spec.loopSetup := by
  intro s level rs1 soff eoff l C u
  have hu : loopLoaded s level rs1 soff eoff = u := by
    cases level <;> rfl
  rw [exec_hloop, hu]
  refine ⟨fun hn => ⟨_, congrArg Host.Outcome.next (if_neg hn), retire_retired u⟩,
    fun hz => ⟨_, congrArg Host.Outcome.next (if_pos hz), retireTo_jumped u _ _⟩, ⟨_, rfl, ?_⟩, ⟨_, rfl, ?_⟩⟩
  · exact retireWith_retired s fun H => { H with csr := { H.csr with loop0 := { H.csr.loop0 with count := 0 } } }
  · exact retireWith_retired s fun H => { H with csr := { H.csr with loop1 := { H.csr.loop1 with count := 0 } } }

/-- The word at a is the last of a level that is under way (R96). -/
def meetsEnd (l : LoopLevel) (a : Word) : Bool := l.count != 0 && a == l.stop

theorem goesBack_eq (C : Csrs) (l : LoopLevel) (a : Word) : goesBack C l a = (leBit C && meetsEnd l a && l.count != 1) := by
  unfold goesBack meetsEnd
  cases leBit C <;> cases l.count != 0 <;> cases l.count != 1 <;> cases a == l.stop <;> rfl

theorem meetsEnd_iff (l : LoopLevel) (a : Word) : meetsEnd l a = true ↔ l.count ≠ 0 ∧ a = l.stop := by
  simp [meetsEnd]

/-- A level away from its end is as it was. -/
theorem loopLevel_inside {l : LoopLevel} {a : Word} (h : meetsEnd l a = false) : loopLevel l a = (l, none, false) :=
  if_neg fun hc => by rw [(meetsEnd_iff l a).2 hc] at h; cases h
/-- The end of the last pass. -/
theorem loopLevel_last {l : LoopLevel} {a : Word} (h : meetsEnd l a = true) (h1 : l.count = 1) :
    loopLevel l a = ({ l with count := 0 }, none, true) := (if_pos ((meetsEnd_iff l a).1 h)).trans (if_pos h1)
/-- The end of a pass with others to come. -/
theorem loopLevel_again {l : LoopLevel} {a : Word} (h : meetsEnd l a = true) (h1 : l.count ≠ 1) :
    loopLevel l a = ({ l with count := l.count - 1 }, some l.start, true) := (if_pos ((meetsEnd_iff l a).1 h)).trans (if_neg h1)

theorem loopLevel_count (l : LoopLevel) (a : Word) : (loopLevel l a).1.count = if meetsEnd l a then l.count - 1 else l.count := by
  by_cases h : meetsEnd l a = true
  · rw [if_pos h]
    by_cases h1 : l.count = 1
    · rw [loopLevel_last h h1, h1]; rfl
    · rw [loopLevel_again h h1]
  · rw [if_neg h, loopLevel_inside (Bool.eq_false_of_not_eq_true h)]

theorem loopLevel_target (l : LoopLevel) (a : Word) : (loopLevel l a).2.1 = if meetsEnd l a && l.count != 1 then some l.start else none := by
  by_cases h : meetsEnd l a = true
  · by_cases h1 : l.count = 1
    · simp [loopLevel_last h h1, h1]
    · simpa [loopLevel_again h h1, h] using h1
  · rw [Bool.not_eq_true] at h
    simp [loopLevel_inside h, h]

theorem loopEval_back {C : Csrs} {a : Word} {l : LoopLevel} {t : Word} {e : Bool} (hle : leBit C = true)
    (h : loopLevel C.loop0 a = (l, some t, e)) : loopEval C a = ({ C with loop0 := l }, some t, e) := by
  unfold loopEval
  rw [hle, h]; rfl
theorem loopEval_on {C : Csrs} {a : Word} {l0 l1 : LoopLevel} {t : Option Word} {e0 e1 : Bool} (hle : leBit C = true)
    (h0 : loopLevel C.loop0 a = (l0, none, e0)) (h1 : loopLevel C.loop1 a = (l1, t, e1)) :
    loopEval C a = ({ C with loop0 := l0, loop1 := l1 }, t, e0 || e1) := by
  unfold loopEval
  rw [hle, h0, h1]; rfl

/-- The evaluation of a word, level 0 first and level 1 only when level 0 did not go back (R96). -/
theorem loopEval_eq (C : Csrs) (a : Word) :
    let at0 := leBit C && meetsEnd C.loop0 a
    let at1 := leBit C && meetsEnd C.loop1 a && !goesBack C C.loop0 a
    let r := loopEval C a
    r.1.loop0.count = (if at0 then C.loop0.count - 1 else C.loop0.count) ∧
    r.1.loop1.count = (if at1 then C.loop1.count - 1 else C.loop1.count) ∧
    r.2.1 = if goesBack C C.loop0 a then some C.loop0.start else if at1 && C.loop1.count != 1 then some C.loop1.start else none := by
  intro at0 at1 r
  by_cases hle : leBit C = true
  case neg =>
    rw [Bool.not_eq_true] at hle
    have hr : r = (C, none, false) := if_pos (by rw [hle]; rfl)
    simp [hr, at0, at1, hle, goesBack_eq]
  case pos =>
    have h0c := loopLevel_count C.loop0 a
    have h0t := loopLevel_target C.loop0 a
    have h1c := loopLevel_count C.loop1 a
    have h1t := loopLevel_target C.loop1 a
    have hg : goesBack C C.loop0 a = (meetsEnd C.loop0 a && C.loop0.count != 1) := by rw [goesBack_eq, hle, Bool.true_and]
    rw [← hg] at h0t
    rcases hl0 : loopLevel C.loop0 a with ⟨l0, t0, e0⟩
    rcases hl1 : loopLevel C.loop1 a with ⟨l1, t1, e1⟩
    rw [hl0] at h0c h0t
    rw [hl1] at h1c h1t
    dsimp only at h0c h0t h1c h1t
    by_cases hb : goesBack C C.loop0 a = true
    · rw [if_pos hb] at h0t
      subst h0t
      have hr : r = _ := loopEval_back hle hl0
      simp only [hr, at0, at1, hle, hb, h0c, Bool.true_and, Bool.not_true, Bool.and_false, Bool.false_eq_true, if_true, if_false, and_self]
    · rw [if_neg hb] at h0t
      subst h0t
      have hr : r = _ := loopEval_on hle hl0 hl1
      simp only [hr, at0, at1, hle, hb, h0c, h1c, h1t, Bool.true_and, Bool.not_false, Bool.and_true, Bool.false_eq_true, if_false, and_self]

/-- Outside a VLOOP a word retires by its loop evaluation (R96, R147). -/
theorem retiredHart_follow (s : State) (h : Nat) (hv : (s.hart h).vloop = none) :
    let r := loopEval (s.hart h).csr (s.hart h).pc
    let T := retiredHart s h
    T.csr = r.1 ∧ T.pc = r.2.1.getD ((s.hart h).pc + 4) ∧ T.arrival = if r.2.1.isSome then .back else .seq := by
  intro r T
  have hf (b : Bool) : let F := follow (s.hart h) r b
      F.csr = r.1 ∧ F.pc = r.2.1.getD ((s.hart h).pc + 4) ∧ F.arrival = if r.2.1.isSome then .back else .seq := ⟨rfl, rfl, rfl⟩
  have hT : T = retiredHart s h := rfl
  unfold retiredHart at hT
  dsimp only at hT
  rw [hv] at hT
  cases hb : (s.hart h).broken with
  | none =>
    rw [hb] at hT
    rw [hT]
    exact hf true
  | some b =>
    rw [hb] at hT
    dsimp only at hT
    rw [hT]
    split
    · unfold brokenWord
      dsimp only
      split
      · exact hf false
      · exact hf false
    · exact hf true

theorem loopCounts : Spec.loopCounts := by
  intro s hv C T at0 at1
  have hT : T = retiredHart s s.cur := State.setHart_me s _
  obtain ⟨hcsr, hpc, harr⟩ := retiredHart_follow s s.cur hv
  obtain ⟨h0, h1, ht⟩ := loopEval_eq C s.me.pc
  have e0 : (leBit C && meetsEnd C.loop0 s.me.pc) = at0 := (Bool.and_assoc ..).symm
  have e1 : (leBit C && meetsEnd C.loop1 s.me.pc && !goesBack C C.loop0 s.me.pc) = at1 := by
    rw [meetsEnd, ← Bool.and_assoc]
  rw [e0] at h0
  rw [e1] at h1 ht
  rw [← hT] at hcsr hpc harr
  change T.csr = (loopEval C s.me.pc).1 at hcsr
  change T.pc = (loopEval C s.me.pc).2.1.getD (s.me.pc + 4) at hpc
  change T.arrival = (if (loopEval C s.me.pc).2.1.isSome then Arrival.back else .seq) at harr
  rw [hcsr, hpc, harr, h0, h1, ht]
  refine ⟨rfl, rfl, ?_, ?_⟩
  · split
    · rfl
    · split <;> rfl
  · by_cases hb : goesBack C C.loop0 s.me.pc = true
    · simp [hb]
    · simp [hb]

/-- Settles O16: HLOOP and LCLR by the state they retire, and retirement by the evaluation of the two levels. -/
theorem hardwareLoops : Obligations.HardwareLoops := ⟨loopSetup, loopCounts⟩

end Sys2Proof.Machine

namespace Sys2Proof.Machine
open Sys2Proof

/-! Exact values and integer conversions (R92, R151, R153, R158, R169). -/

section
variable (f : FFmt) (mode : RMode) (neg : Bool)

/-- A magnitude that is a multiple of its quantum is kept, in every mode and without a flag (R158). -/
theorem roundAt_exact (mag : Nat) (exp : Int) : roundAt mode neg mag exp false exp = (mag, false) := by
  simp [roundAt]

/-- A zero or subnormal magnitude of the format is its fraction field. -/
theorem roundMag_subnormal {fr : Nat} (hf : fr < 2 ^ f.m) : roundMag f mode neg fr f.emin false = (fr, false) := by
  by_cases h0 : fr = 0
  · subst h0; rfl
  · have hq : quantum f fr f.emin = f.emin := by
      have hlog : Nat.log2 fr < f.m := (Nat.log2_lt h0).2 hf
      unfold quantum topExp
      rw [if_pos (by omega)]
    unfold roundMag
    rw [if_neg (by simp [h0])]
    simp only [beq_iff_eq, h0, if_false]
    rw [hq, roundAt_exact]
    simp

/-- A normal magnitude of the format is its exponent and fraction fields. -/
theorem roundMag_normal {fr ex : Nat} (hf : fr < 2 ^ f.m) (he : 1 ≤ ex) :
    roundMag f mode neg (2 ^ f.m + fr) (f.emin + ex - 1) false = (ex * 2 ^ f.m + fr, false) := by
  have h0 : 2 ^ f.m + fr ≠ 0 := by have := Nat.two_pow_pos f.m; omega
  have hlog : Nat.log2 (2 ^ f.m + fr) = f.m := (Nat.log2_eq_iff h0).2 ⟨by omega, by rw [pow_succ]; omega⟩
  have hq : quantum f (2 ^ f.m + fr) (f.emin + ex - 1) = f.emin + ex - 1 := by
    unfold quantum topExp
    rw [hlog, if_neg (by omega)]
    omega
  have hx : (f.emin + (ex : Int) - 1 - f.emin).toNat = ex - 1 := by omega
  unfold roundMag
  rw [if_neg (by simp)]
  simp only [beq_iff_eq, h0, if_false]
  rw [hq, roundAt_exact]
  dsimp only
  rw [hx, ← Nat.add_assoc, ← Nat.succ_mul, Nat.succ_eq_add_one, Nat.sub_add_cancel he]

end

/-- A pattern is its sign and its magnitude bits. -/
theorem withSign_split {p : Nat} (hp : p < 2 ^ 32) : f32F.withSign (p / 2 ^ 31 % 2 == 1) (p % 2 ^ 31) = p := by
  have h2 : p / 2 ^ 31 = 0 ∨ p / 2 ^ 31 = 1 := by omega
  have hs : f32F.signBit = 2 ^ 31 := rfl
  unfold FFmt.withSign
  rw [hs]
  rcases h2 with h | h <;> rw [h]
  · simp; omega
  · simp; omega

theorem rne_fin {neg : Bool} {m : Nat} {e : Int} {a : Nat} (h : roundMag f32F .rne neg m e false = (a, false)) (ha : a ≤ f32F.maxFin) :
    rne f32F (.fin neg m e) = f32F.withSign neg a := by
  unfold rne
  dsimp only
  rw [h]
  exact if_neg (by omega)

/-- The value of an f32 pattern, by its fields (R151). -/
theorem dec_f32 (p : Nat) : f32F.dec p =
    if p % 2 ^ 31 / 2 ^ 23 = 255 then (if p % 2 ^ 31 % 2 ^ 23 = 0 then .inf (p / 2 ^ 31 % 2 == 1) else .nan)
    else if p % 2 ^ 31 / 2 ^ 23 = 0 then .fin (p / 2 ^ 31 % 2 == 1) (p % 2 ^ 31 % 2 ^ 23) f32F.emin
    else .fin (p / 2 ^ 31 % 2 == 1) (2 ^ 23 + p % 2 ^ 31 % 2 ^ 23) (f32F.emin + (p % 2 ^ 31 / 2 ^ 23 : Nat) - 1) := by
  simp [FFmt.dec, f32F, FFmt.signBit]

theorem floatExact : Spec.floatExact := by
  intro p hp hn
  have hmax : f32F.maxFin = 255 * 2 ^ 23 - 1 := rfl
  have hsplit := withSign_split hp
  generalize hs : (p / 2 ^ 31 % 2 == 1) = neg at hsplit
  generalize ha : p % 2 ^ 31 = a at hsplit
  have hlt : a < 2 ^ 31 := by omega
  rw [dec_f32, hs, ha] at hn ⊢
  have hfr : a % 2 ^ 23 < 2 ^ f32F.m := Nat.mod_lt _ (by decide)
  by_cases h255 : a / 2 ^ 23 = 255
  · rw [if_pos h255] at hn ⊢
    have h0 : a % 2 ^ 23 = 0 := by
      by_contra h
      exact hn (if_neg h)
    have hinf : a = f32F.infPat := by
      have : f32F.infPat = 255 * 2 ^ 23 := rfl
      omega
    rw [if_pos h0]
    exact (congrArg (f32F.withSign neg) hinf.symm).trans hsplit
  · rw [if_neg h255]
    by_cases h0 : a / 2 ^ 23 = 0
    · rw [if_pos h0, rne_fin (roundMag_subnormal f32F .rne neg hfr) (by omega), show a % 2 ^ 23 = a by omega, hsplit]
    · have hm := roundMag_normal f32F .rne neg hfr (ex := a / 2 ^ 23) (by omega)
      have ha : a / 2 ^ 23 * 2 ^ f32F.m + a % 2 ^ 23 = a := Nat.div_add_mod' a (2 ^ 23)
      rw [ha] at hm
      rw [if_neg h0]
      exact (rne_fin hm (by omega)).trans hsplit

/-! Integers to integers. -/

theorem ffmt_int {f : Fmt} (h : f.isInt = true) : ffmt f = none := by
  revert h
  cases f <;> decide

/-- The magnitude of an integer, with its sign, is the integer in every rounding mode. -/
theorem roundAt_integer (m : RMode) (i : Int) : sgn (decide (i < 0)) (roundAt m (decide (i < 0)) i.natAbs 0 false 0).1 = i := by
  rw [roundAt_exact]
  unfold sgn
  by_cases h : i < 0
  · rw [decide_eq_true h, if_pos rfl]; omega
  · rw [decide_eq_false h, if_neg Bool.false_ne_true]; omega

theorem intLo_le_intHi (f : Fmt) : intLo f ≤ intHi f := by
  cases f <;> decide

theorem convElem_integer {fd : Fmt} (hd : fd.isInt = true) (fa : Fmt) (m : RMode) (sat : Bool) (i : Int) :
    convElem fa fd m sat (.fin (decide (i < 0)) i.natAbs 0) =
      if intLo fd ≤ i ∧ i ≤ intHi fd then { code := ofSigned fd.width i }
      else if fa.isInt && !sat then { code := ofSigned fd.width i, ovf := true }
      else { code := satInt fd i, sat := true } := by
  unfold convElem
  rw [ffmt_int hd]
  dsimp only
  rw [roundAt_integer]

theorem integerConversions : Spec.integerConversions := by
  intro fa fd m sat i hd ha lo hi v wrap
  have hle : lo ≤ hi := intLo_le_intHi fd
  have hc := convElem_integer hd fa m sat i
  change convElem fa fd m sat v = if lo ≤ i ∧ i ≤ hi then { code := wrap i } else if fa.isInt && !sat then { code := wrap i, ovf := true }
    else { code := wrap (max lo (min hi i)), sat := true } at hc
  have hinf (b : Bool) : convElem .f32 fd m sat (.inf b) = { code := wrap (max lo (min hi (if b then lo else hi))), sat := true } := by
    unfold convElem
    rw [ffmt_int hd]
    rfl
  refine ⟨fun h => hc.trans (if_pos h), fun h hsat => ?_, fun h hsat => ?_, fun h hsat => ?_, ?_, ?_, ?_⟩
  · rw [hc, if_neg (by omega), hsat, ha, if_neg (by decide), show max lo (min hi i) = lo by omega]
  · rw [hc, if_neg (by omega), hsat, ha, if_neg (by decide), show max lo (min hi i) = hi by omega]
  · rw [hc, if_neg (by omega), hsat, ha, if_pos (by decide)]
  · unfold convElem
    rw [ffmt_int hd]
  · rw [hinf, if_neg (by decide), show max lo (min hi hi) = hi by omega]
  · rw [hinf, if_pos rfl, show max lo (min hi lo) = lo by omega]

/-- Settles O26: a pattern's fields are the rounding of its value, and an integer is rounded to itself. -/
theorem exactNumbers : Obligations.ExactNumbers := ⟨floatExact, integerConversions⟩

end Sys2Proof.Machine

namespace Sys2Proof.Machine
open Sys2Proof

/-! Lists put into groups: what `groupOn` gives. -/

section
variable {α : Type} {key : α → Nat}

/-- g is the list l in groups: one for each key, with the members of that key in their order. -/
structure Grouped (key : α → Nat) (l : List α) (g : List (Nat × List α)) : Prop where
  nodup   : (g.map Prod.fst).Nodup
  keys    : ∀ j, j ∈ g.map Prod.fst ↔ j ∈ l.map key
  members : ∀ p ∈ g, p.2 = l.filter fun x => key x == p.1

theorem addTo_keys (k : Nat) (x : α) (g : List (Nat × List α)) :
    (addTo k x g).map Prod.fst = if k ∈ g.map Prod.fst then g.map Prod.fst else g.map Prod.fst ++ [k] := by
  induction g with
  | nil => rfl
  | cons p r ih =>
    obtain ⟨j, l⟩ := p
    unfold addTo
    by_cases h : j = k
    · simp [h]
    · have hk : ¬ k = j := fun e => h e.symm
      rw [if_neg h, List.map_cons, ih, List.map_cons]
      by_cases hr : k ∈ r.map Prod.fst
      · rw [if_pos hr, if_pos (List.mem_cons_of_mem _ hr)]
      · rw [if_neg hr, if_neg (by simp only [List.mem_cons, not_or]; exact ⟨hk, hr⟩)]; rfl

/-- A group after an addition is an old one under another key, or the group of the key with the new member at its end. -/
theorem mem_addTo {k : Nat} {x : α} {p : Nat × List α} : ∀ {g : List (Nat × List α)}, (g.map Prod.fst).Nodup → p ∈ addTo k x g →
    (p.1 ≠ k ∧ p ∈ g) ∨ (p.1 = k ∧ ((∃ l, (k, l) ∈ g ∧ p.2 = l ++ [x]) ∨ (k ∉ g.map Prod.fst ∧ p.2 = [x])))
  | [], _, hp => by
    obtain rfl := List.mem_singleton.1 hp
    exact .inr ⟨rfl, .inr ⟨List.not_mem_nil, rfl⟩⟩
  | (j, l) :: r, hn, hp => by
    obtain ⟨hj, hr⟩ := List.nodup_cons.1 hn
    unfold addTo at hp
    split at hp
    · next e =>
      subst e
      rcases List.mem_cons.1 hp with rfl | hp
      · exact .inr ⟨rfl, .inl ⟨l, List.mem_cons_self, rfl⟩⟩
      · exact .inl ⟨fun e => hj (List.mem_map.2 ⟨p, hp, e⟩), List.mem_cons_of_mem _ hp⟩
    · next e =>
      rcases List.mem_cons.1 hp with rfl | hp
      · exact .inl ⟨e, List.mem_cons_self⟩
      · rcases mem_addTo hr hp with ⟨h1, h2⟩ | ⟨h1, ⟨m, hm, h2⟩ | ⟨hk, h2⟩⟩
        · exact .inl ⟨h1, List.mem_cons_of_mem _ h2⟩
        · exact .inr ⟨h1, .inl ⟨m, List.mem_cons_of_mem _ hm, h2⟩⟩
        · exact .inr ⟨h1, .inr ⟨fun h => (List.mem_cons.1 h).elim (fun he => e he.symm) hk, h2⟩⟩

theorem Grouped.addTo {l : List α} {g : List (Nat × List α)} (h : Grouped key l g) (x : α) :
    Grouped key (l ++ [x]) (addTo (key x) x g) := by
  obtain ⟨hn, hk, hm⟩ := h
  have he : (l.filter fun y => key y == key x) = [] ↔ key x ∉ g.map Prod.fst := by
    rw [hk, List.filter_eq_nil_iff]
    simp
  refine ⟨?_, fun j => ?_, fun p hp => ?_⟩
  · rw [addTo_keys]
    split
    · exact hn
    · next hx => exact List.nodup_append.2 ⟨hn, List.nodup_singleton _, fun a ha b hb e => hx (List.mem_singleton.1 hb ▸ e ▸ ha)⟩
  · rw [addTo_keys, List.map_append, List.mem_append, ← hk]
    split
    · next hx => exact ⟨.inl, fun h => h.elim id fun h => List.mem_singleton.1 h ▸ hx⟩
    · exact List.mem_append
  · rw [List.filter_append]
    obtain ⟨j, m⟩ := p
    rcases mem_addTo hn hp with ⟨h1, h2⟩ | ⟨rfl, ⟨k, h2, rfl⟩ | ⟨h2, rfl⟩⟩
    · have hx : (key x == j) = false := beq_eq_false_iff_ne.2 fun e => h1 e.symm
      rw [List.filter_singleton, hx, hm _ h2, cond_false, List.append_nil]
    · rw [List.filter_singleton, beq_self_eq_true, ← hm _ h2, cond_true]
    · rw [List.filter_singleton, beq_self_eq_true, he.2 h2, cond_true, List.nil_append]

theorem grouped_groupOn (key : α → Nat) (l : List α) : Grouped key l (groupOn key l) := by
  induction l using List.reverseRecOn with
  | nil => exact ⟨List.nodup_nil, fun _ => Iff.rfl, fun _ h => absurd h List.not_mem_nil⟩
  | append_singleton l x ih =>
    have h : groupOn key (l ++ [x]) = addTo (key x) x (groupOn key l) := List.foldl_concat _ _ _ _
    rw [h]
    exact ih.addTo x

/-- There are as many groups as different keys. -/
theorem groupOn_length (key : α → Nat) (l : List α) : (groupOn key l).length = (l.map key).dedup.length := by
  obtain ⟨hn, hk, -⟩ := grouped_groupOn key l
  have hp : ((groupOn key l).map Prod.fst).Perm (l.map key).dedup :=
    (List.perm_ext_iff_of_nodup hn (List.nodup_dedup _)).2 fun j => (hk j).trans List.mem_dedup.symm
  rw [← hp.length_eq, List.length_map]

theorem flatMap_one_key {β : Type} (L : List β) (j : Nat) : ∀ {g : List (Nat × List α)}, (g.map Prod.fst).Nodup →
    (g.flatMap fun p => if p.1 = j then L else []) = if j ∈ g.map Prod.fst then L else []
  | [], _ => rfl
  | (i, l) :: r, hn => by
    obtain ⟨hi, hr⟩ := List.nodup_cons.1 hn
    rw [List.flatMap_cons, flatMap_one_key L j hr]
    by_cases h : i = j
    · subst h
      rw [if_pos rfl, if_neg hi, List.append_nil, List.map_cons, if_pos List.mem_cons_self]
    · have hj : j ∈ ((i, l) :: r).map Prod.fst ↔ j ∈ r.map Prod.fst := by simp [Ne.symm h]
      rw [if_neg h, List.nil_append]
      simp only [hj]

/-- Of one key the groups in a row have the members that the list has, in its order. -/
theorem groupOn_filter (key : α → Nat) (l : List α) (j : Nat) :
    ((groupOn key l).flatMap Prod.snd).filter (fun x => key x == j) = l.filter fun x => key x == j := by
  obtain ⟨hn, hk, hm⟩ := grouped_groupOn key l
  have hf : ∀ p ∈ groupOn key l, p.2.filter (fun x => key x == j) = if p.1 = j then l.filter (fun x => key x == j) else [] := fun p hp => by
    rw [hm p hp, List.filter_filter]
    split
    · next e => subst e; simp only [Bool.and_self]
    · next e =>
      refine List.filter_eq_nil_iff.2 fun x _ h => e ?_
      simp only [Bool.and_eq_true, beq_iff_eq] at h
      exact h.2.symm.trans h.1
  rw [List.filter_flatMap, List.flatMap_congr hf, flatMap_one_key _ j hn]
  split
  · rfl
  · next h =>
    rw [hk] at h
    exact (List.filter_eq_nil_iff.2 fun x hx hxj => h (List.mem_map.2 ⟨x, hx, beq_iff_eq.1 hxj⟩)).symm

theorem groupOn_mem_key {l : List α} {p : Nat × List α} (hp : p ∈ groupOn key l) {x : α} (hx : x ∈ p.2) : key x = p.1 := by
  rw [(grouped_groupOn key l).members p hp] at hx
  exact beq_iff_eq.1 (List.mem_filter.1 hx).2

theorem groupOn_mem {l : List α} {x : α} (hx : x ∈ (groupOn key l).flatMap Prod.snd) : x ∈ l := by
  obtain ⟨p, hp, hx⟩ := List.mem_flatMap.1 hx
  rw [(grouped_groupOn key l).members p hp] at hx
  exact (List.mem_filter.1 hx).1

end

/-! Writes in groups: a byte sees only the writes to its own line. -/

section
variable {α : Type}

/-- The writes of a list, in its order. -/
def writeAll (loc : α → Nat) (dat : α → List Byte) (l : List α) (m : Memory) : Memory := l.foldl (fun m e => m.writeBytes (loc e) (dat e)) m

theorem read_writeBytes_congr {m k : Memory} {x : Nat} (h : m.read x = k.read x) (a : Nat) (b : List Byte) :
    (m.writeBytes a b).read x = (k.writeBytes a b).read x := by
  by_cases hx : a ≤ x ∧ x < a + b.length
  · obtain ⟨i, rfl⟩ := Nat.exists_eq_add_of_le hx.1
    have hi : i < b.length := by omega
    rw [Memory.read_writeBytes_inside _ _ _ _ hi, Memory.read_writeBytes_inside _ _ _ _ hi]
  · have ho : x < a ∨ a + b.length ≤ x := by omega
    rw [Memory.read_writeBytes_outside _ _ _ _ ho, Memory.read_writeBytes_outside _ _ _ _ ho, h]

variable {loc : α → Nat} {dat : α → List Byte}

/-- Writes that leave a byte alone may be left out. -/
theorem read_writeAll_filter (p : α → Bool) {x : Nat} : ∀ {l : List α} {m k : Memory},
    (∀ e ∈ l, p e = false → x < loc e ∨ loc e + (dat e).length ≤ x) → m.read x = k.read x →
    (writeAll loc dat l m).read x = (writeAll loc dat (l.filter p) k).read x
  | [], _, _, _, h => h
  | e :: r, m, k, ho, h => by
    have hr : ∀ e ∈ r, p e = false → x < loc e ∨ loc e + (dat e).length ≤ x := fun e he => ho e (List.mem_cons_of_mem _ he)
    cases hp : p e with
    | true =>
      rw [List.filter_cons_of_pos hp]
      exact read_writeAll_filter p hr (read_writeBytes_congr h _ _)
    | false =>
      rw [List.filter_cons_of_neg (by rw [hp]; exact Bool.false_ne_true)]
      exact read_writeAll_filter p hr ((Memory.read_writeBytes_outside _ _ _ _ (ho e List.mem_cons_self hp)).trans h)

/-- Writes within 64-byte lines give the same bytes line by line as in their own order. -/
theorem read_writeAll_lines {l : List α} (h : ∀ e ∈ l, loc e % 64 + (dat e).length ≤ 64) (m : Memory) (x : Nat) :
    (writeAll loc dat ((groupOn (fun e => loc e / 64) l).flatMap Prod.snd) m).read x = (writeAll loc dat l m).read x := by
  have hout : ∀ e ∈ l, (loc e / 64 == x / 64) = false → x < loc e ∨ loc e + (dat e).length ≤ x := fun e he hne => by
    have h64 := h e he
    have hd := beq_eq_false_iff_ne.1 hne
    omega
  rw [read_writeAll_filter _ (fun e he => hout e (groupOn_mem he)) rfl, groupOn_filter (fun e => loc e / 64), ← read_writeAll_filter _ hout rfl]

end

/-! Lanes of own memory that a vector store writes (R131). -/

theorem storeSegs_aside {γ : Type} {g : State → γ} (a : Aside g) (s : State) (wr : Option Nat) (line : Nat) (segs : List (Nat × List Byte)) :
    g (storeSegs s wr line segs) = g (segs.foldl (fun s e => store s wr (line + e.1) e.2 false) s) := by
  unfold storeSegs
  dsimp only
  split
  · split
    · exact foldl_keeps g _ (fun _ _ => a.setPoi _ _ _) _ _
    · rfl
  · refine foldl_keeps g _ (fun _ _ => ?_) _ _
    split
    · exact a.setPoi _ _ _
    · rfl

theorem storeSegs_mem (s : State) (wr : Option Nat) (line : Nat) (segs : List (Nat × List Byte)) :
    (storeSegs s wr line segs).mem = writeAll (fun e => line + e.1) Prod.snd segs s.mem := by
  rw [storeSegs_aside aside_mem]
  exact (List.foldl_hom State.mem fun _ _ => (store_mem _ _ _ _ _).symm).symm

theorem storeSegs_net (s : State) (wr : Option Nat) (line : Nat) (segs : List (Nat × List Byte)) : (storeSegs s wr line segs).net = s.net := by
  rw [storeSegs_aside aside_net]
  exact foldl_keeps State.net _ (fun _ _ => store_net _ _ _ _ _) _ _

theorem storeSegs_cur (s : State) (wr : Option Nat) (line : Nat) (segs : List (Nat × List Byte)) : (storeSegs s wr line segs).cur = s.cur := by
  rw [storeSegs_aside aside_cur]
  exact foldl_keeps State.cur _ (fun _ _ => store_cur _ _ _ _ _) _ _

theorem losesResv_storeSegs (s : State) (wr : Option Nat) (line : Nat) (segs : List (Nat × List Byte)) :
    LosesResv wr s (storeSegs s wr line segs) := by
  have hs := LosesResv.foldl (fun t (e : Nat × List Byte) => losesResv_store t wr (line + e.1) e.2 false) segs s
  unfold storeSegs
  dsimp only
  split
  · split
    · exact hs.trans (LosesResv.foldl (f := fun t o => t.setPoi (line + o) false) (fun _ _ => .of_harts rfl) _ _)
    · exact hs
  · refine hs.trans (.foldl (fun _ _ => ?_) _ _)
    split
    · exact .of_harts rfl
    · exact .of_harts rfl

/-- The bytes of a lane of a register. -/
def laneBytes (w : Nat) (v : VReg) (k : Lane) : List Byte := toBytes (w / 8) ((lanes w v).getD k.i 0)

/-- What lanes of one line write in it. -/
def laneSegs (w : Nat) (v : VReg) (l : List (Lane × Nat)) : List (Nat × List Byte) := l.map fun k => (k.2 % 64, laneBytes w v k.1)

/-- Lanes of own memory, each with its location, written line by line. -/
def storeOwn (s : State) (w : Nat) (v : VReg) (l : List (Lane × Nat)) : State :=
  (groupOn (fun k => k.2 / 64) l).foldl (fun t p => storeSegs t (some s.cur) (p.1 * 64) (laneSegs w v p.2)) s

section
variable (s : State) (w : Nat) (v : VReg) (l : List (Lane × Nat))

theorem storeOwn_net : (storeOwn s w v l).net = s.net := foldl_keeps State.net _ (fun _ _ => storeSegs_net _ _ _ _) _ _
theorem storeOwn_cur : (storeOwn s w v l).cur = s.cur := foldl_keeps State.cur _ (fun _ _ => storeSegs_cur _ _ _ _) _ _
theorem storeOwn_me : (storeOwn s w v l).me = s.me := by
  rw [State.me, storeOwn_cur]
  exact (LosesResv.foldl (fun t (p : Nat × List (Lane × Nat)) => losesResv_storeSegs t (some s.cur) (p.1 * 64) _) _ s s.cur).2 rfl

/-- Line by line, each lane is written at its location. -/
theorem storeOwn_mem :
    (storeOwn s w v l).mem = writeAll Prod.snd (fun k => laneBytes w v k.1) ((groupOn (fun k => k.2 / 64) l).flatMap Prod.snd) s.mem := by
  have hp : ∀ m, ∀ p ∈ groupOn (fun k : Lane × Nat => k.2 / 64) l,
      writeAll (fun e => p.1 * 64 + e.1) Prod.snd (laneSegs w v p.2) m =
        writeAll Prod.snd (fun k => laneBytes w v k.1) p.2 m := fun m p hp => by
    unfold writeAll laneSegs
    rw [List.foldl_map]
    refine List.foldl_ext _ _ _ fun m k hk => ?_
    have hkey : k.2 / 64 = p.1 := groupOn_mem_key hp hk
    have hloc : p.1 * 64 + k.2 % 64 = k.2 := by omega
    exact congrArg (m.writeBytes · (laneBytes w v k.1)) hloc
  calc (storeOwn s w v l).mem
      = (groupOn (fun k => k.2 / 64) l).foldl (fun m p =>
          writeAll (fun e => p.1 * 64 + e.1) Prod.snd (laneSegs w v p.2) m) s.mem :=
        (List.foldl_hom State.mem fun t p => (storeSegs_mem t (some s.cur) (p.1 * 64) (laneSegs w v p.2)).symm).symm
    _ = (groupOn (fun k => k.2 / 64) l).foldl (fun m p => writeAll Prod.snd (fun k => laneBytes w v k.1) p.2 m) s.mem :=
        List.foldl_ext _ _ _ hp
    _ = writeAll Prod.snd (fun k => laneBytes w v k.1) ((groupOn (fun k => k.2 / 64) l).flatMap Prod.snd) s.mem :=
        List.foldl_flatMap.symm

/-- Lanes within lines are written as in their own order. -/
theorem storeOwn_read (h : ∀ k ∈ l, k.2 % 64 + w / 8 ≤ 64) (x : Nat) :
    (storeOwn s w v l).mem.read x = (writeAll Prod.snd (fun k => laneBytes w v k.1) l s.mem).read x := by
  rw [storeOwn_mem]
  exact read_writeAll_lines (loc := Prod.snd) (fun k hk => by rw [laneBytes, toBytes_length]; exact h k hk) _ x

end

/-! Packets for the lines elsewhere (R89, R222). -/

/-- One packet for each group of lanes. -/
def sendLines (s : State) (op : List Lane → MemOp) (r : Sink) (t : State) (g : List (Nat × List Lane)) : State :=
  g.foldl (fun t p => send t s.cur (.mem (lineWhere s p.2).1 (op p.2) r (lineWhere s p.2).2)) t

section
variable (s : State) (op : List Lane → MemOp) (r : Sink) (t : State) (g : List (Nat × List Lane))

theorem sendLines_harts : (sendLines s op r t g).harts = t.harts := foldl_keeps State.harts _ (fun _ _ => send_harts _ _ _) _ _
theorem sendLines_mem : (sendLines s op r t g).mem = t.mem := foldl_keeps State.mem _ (fun _ _ => send_mem _ _ _) _ _
theorem sendLines_cur : (sendLines s op r t g).cur = t.cur := foldl_keeps State.cur _ (fun _ _ => send_cur _ _ _) _ _
theorem sendLines_me : (sendLines s op r t g).me = t.me := by
  rw [State.me, State.hart, sendLines_harts, sendLines_cur]; rfl

/-- As many packets as groups join those on their way. -/
theorem sendLines_net : ∃ l, (sendLines s op r t g).net = t.net ++ l ∧ l.length = g.length := by
  induction g generalizing t with
  | nil => exact ⟨[], (List.append_nil _).symm, rfl⟩
  | cons p g ih =>
    obtain ⟨l, h, hl⟩ := ih (send t s.cur (.mem (lineWhere s p.2).1 (op p.2) r (lineWhere s p.2).2))
    rw [send_net, List.append_assoc] at h
    exact ⟨_, h, by rw [List.length_append, hl, List.length_singleton, List.length_cons, Nat.add_comm]⟩

theorem sendLines_net_length : (sendLines s op r t g).net.length = t.net.length + g.length := by
  obtain ⟨l, h, hl⟩ := sendLines_net s op r t g
  rw [h, List.length_append, hl]
theorem sendLines_net_take : (sendLines s op r t g).net.take t.net.length = t.net := by
  obtain ⟨l, h, -⟩ := sendLines_net s op r t g
  rw [h, List.take_left]

end

/-! Lanes of a register's number (R112, R113). -/

theorem lane_zero (w k : Nat) : Spec.lane w 0#512 k = 0 := by rw [Spec.lane, BitVec.toNat_zero, Nat.zero_div, Nat.zero_mod]

theorem lane_or (w : Nat) (a b : VReg) (k : Nat) : Spec.lane w (a ||| b) k = Spec.lane w a k ||| Spec.lane w b k := by
  simp only [Spec.lane, BitVec.toNat_or, ← Nat.shiftRight_eq_div_pow, Nat.shiftRight_or_distrib, Nat.or_mod_two_pow]

/-- A number put at a lane's place is that lane, and the others are 0. -/
theorem lane_shifted {w v i : Nat} (hv : v < 2 ^ w) (hi : i < 512 / w) (k : Nat) :
    Spec.lane w (BitVec.ofNat 512 v <<< (i * w)) k = if i = k then v else 0 := by
  have hw : (i + 1) * w ≤ 512 := Nat.mul_le_of_le_div w _ _ hi
  have hlt : ∀ n, (i + 1) * w ≤ n → v * 2 ^ (i * w) < 2 ^ n := fun n hn => calc
    v * 2 ^ (i * w) < 2 ^ w * 2 ^ (i * w) := Nat.mul_lt_mul_of_pos_right hv (Nat.two_pow_pos _)
    _ = 2 ^ ((i + 1) * w) := by rw [← pow_add, Nat.add_mul, Nat.one_mul, Nat.add_comm]
    _ ≤ 2 ^ n := Nat.pow_le_pow_right Nat.two_pos hn
  have hv' : v < 2 ^ 512 := Nat.lt_of_le_of_lt (Nat.le_mul_of_pos_right _ (Nat.two_pow_pos _)) (hlt 512 hw)
  have hn : (BitVec.ofNat 512 v <<< (i * w)).toNat = v * 2 ^ (i * w) := by
    rw [BitVec.toNat_shiftLeft, BitVec.toNat_ofNat, Nat.shiftLeft_eq, Nat.mod_eq_of_lt hv', Nat.mod_eq_of_lt (hlt 512 hw)]
  rw [Spec.lane, hn, Nat.mul_comm w k]
  rcases Nat.lt_trichotomy i k with h | rfl | h
  · have hk : (i + 1) * w ≤ k * w := Nat.mul_le_mul_right w h
    rw [if_neg (by omega), Nat.div_eq_of_lt (hlt _ hk), Nat.zero_mod]
  · rw [if_pos rfl, Nat.mul_div_cancel _ (Nat.two_pow_pos _), Nat.mod_eq_of_lt hv]
  · have hk : i * w = (i - k - 1) * w + w + k * w := by
      rw [← Nat.succ_mul, ← Nat.add_mul]
      congr 1
      omega
    rw [if_neg (by omega), hk, pow_add, ← Nat.mul_assoc, Nat.mul_div_cancel _ (Nat.two_pow_pos _), pow_add, ← Nat.mul_assoc, Nat.mul_mod_left]

theorem chop_getD (w : Nat) : ∀ (n v k : Nat), k < n → (chop w n v).getD k 0 = v / 2 ^ (w * k) % 2 ^ w
  | n + 1, v, 0, _ => by rw [chop, List.getD_cons_zero, Nat.mul_zero, pow_zero, Nat.div_one]
  | n + 1, v, k + 1, h => by
    rw [chop, List.getD_cons_succ, chop_getD w n _ k (Nat.lt_of_succ_lt_succ h), Nat.div_div_eq_div_mul, ← pow_add, Nat.mul_succ, Nat.add_comm]

theorem lanes_getD {w k : Nat} (v : VReg) (h : k < 512 / w) : (lanes w v).getD k 0 = Spec.lane w v k := chop_getD w _ _ k h

theorem pack_lt (w : Nat) : ∀ l : List Nat, pack w l < 2 ^ (w * l.length)
  | [] => Nat.two_pow_pos _
  | a :: r => by
    have hr := pack_lt w r
    have ha : a % 2 ^ w < 2 ^ w := Nat.mod_lt _ (Nat.two_pow_pos _)
    rw [pack, List.length_cons, Nat.mul_succ, Nat.add_comm (w * _), pow_add]
    calc a % 2 ^ w + 2 ^ w * pack w r < 2 ^ w + 2 ^ w * pack w r := Nat.add_lt_add_right ha _
      _ = 2 ^ w * (pack w r + 1) := by rw [Nat.mul_succ, Nat.add_comm]
      _ ≤ 2 ^ w * 2 ^ (w * r.length) := Nat.mul_le_mul_left _ hr

theorem pack_lane (w : Nat) : ∀ (l : List Nat) (k : Nat), pack w l / 2 ^ (w * k) % 2 ^ w = l.getD k 0 % 2 ^ w
  | [], k => by rw [pack, Nat.zero_div, List.getD_nil]
  | a :: r, 0 => by rw [pack, Nat.mul_zero, pow_zero, Nat.div_one, Nat.add_mul_mod_self_left, Nat.mod_mod, List.getD_cons_zero]
  | a :: r, k + 1 => by
    rw [Nat.mul_succ, Nat.add_comm (w * k), pow_add, ← Nat.div_div_eq_div_mul, pack, Nat.add_mul_div_left _ _ (Nat.two_pow_pos w),
      Nat.div_eq_of_lt (Nat.mod_lt _ (Nat.two_pow_pos w)), Nat.zero_add, pack_lane w r k, List.getD_cons_succ]

theorem pack_lt_of_le {w n : Nat} {l : List Nat} (h : w * l.length ≤ n) : pack w l < 2 ^ n :=
  Nat.lt_of_lt_of_le (pack_lt w l) (Nat.pow_le_pow_right Nat.two_pos h)

/-- The mask that goes with a load has all bits of the active lanes. -/
theorem laneMask_lane {w k : Nat} (l : List Lane) (h : k < 512 / w) :
    Spec.lane w (laneMask w l) k = if k ∈ l.map Lane.i then 2 ^ w - 1 else 0 := by
  have hlt : ∀ f : Nat → Nat, pack w ((List.range (512 / w)).map f) < 2 ^ 512 := fun f => by
    refine pack_lt_of_le ?_
    rw [List.length_map, List.length_range]
    exact Nat.mul_div_le 512 w
  rw [Spec.lane, laneMask, BitVec.toNat_ofNat, Nat.mod_eq_of_lt (hlt _), pack_lane, List.getD_eq_getElem?_getD, List.getElem?_map,
    List.getElem?_range h]
  have hi : (l.any fun e => e.i == k) = true ↔ k ∈ l.map Lane.i := by simp
  simp only [Option.map_some, Option.getD_some, hi]
  split
  · exact Nat.mod_eq_of_lt (Nat.sub_lt (Nat.two_pow_pos _) Nat.one_pos)
  · exact Nat.zero_mod _

/-! Lanes of own memory that a vector load reads (R129, R130). -/

theorem load_rows (s : State) (loc n : Nat) : Spec.OnlyRows s (load s loc n).1 :=
  ⟨fun _ => by rw [load_mem], scrub_harts _ _ _ _, load_net _ _ _, load_cur _ _ _⟩

theorem readOwn_rows (w : Nat) : ∀ (l : List (Lane × Nat)) (s : State), Spec.OnlyRows s (readOwn s w l).1
  | [], _ => ⟨fun _ => rfl, rfl, rfl, rfl⟩
  | _ :: r, s => OnlyRows.trans (load_rows s _ _) (readOwn_rows w r _)

theorem readOwn_cons (s : State) (w : Nat) (k : Lane) (loc : Nat) (r : List (Lane × Nat)) :
    (readOwn s w ((k, loc) :: r)).2.1 = (readOwn (load s loc (w / 8)).1 w r).2.1 ||| (BitVec.ofNat 512 (load s loc (w / 8)).2.1 <<< (k.i * w)) := rfl

section
variable {w : Nat} (hw : w ∈ [8, 16, 32])
include hw

/-- The lanes read at issue: those of the list have the bytes at their locations, the others are 0. -/
theorem readOwn_lane (j : Nat) : ∀ {l : List (Lane × Nat)} {s : State}, (∀ e ∈ l, e.1.i < 512 / w) →
    (j ∉ l.map (fun e => e.1.i) → Spec.lane w (readOwn s w l).2.1 j = 0) ∧
    ((l.map fun e => e.1.i).Nodup → ∀ e ∈ l, e.1.i = j → Spec.lane w (readOwn s w l).2.1 j = ofBytes (s.mem.readBytes e.2 (w / 8)))
  | [], s, _ => ⟨fun _ => lane_zero w j, fun _ _ he => absurd he List.not_mem_nil⟩
  | (k, loc) :: r, s, hi => by
    obtain ⟨hnone, hsome⟩ := readOwn_lane j (s := (load s loc (w / 8)).1) fun e he => hi e (List.mem_cons_of_mem _ he)
    have h8 : 8 * (w / 8) = w := by
      simp only [List.mem_cons, List.not_mem_nil, or_false] at hw
      omega
    have hv : (load s loc (w / 8)).2.1 < 2 ^ w := by
      have h := ofBytes_lt (s.mem.readBytes loc (w / 8))
      rwa [Memory.readBytes_length, h8, ← load_value] at h
    rw [readOwn_cons, lane_or, lane_shifted hv (hi _ List.mem_cons_self), List.map_cons]
    refine ⟨fun hj => ?_, fun hn e he hej => ?_⟩
    · rw [List.mem_cons, not_or] at hj
      rw [hnone hj.2, if_neg fun e => hj.1 e.symm]; rfl
    · obtain ⟨hk, hr⟩ := List.nodup_cons.1 hn
      rcases List.mem_cons.1 he with rfl | he
      · rw [hnone (hej ▸ hk), if_pos hej, Nat.zero_or, load_value]
      · have hkj : k.i ≠ j := fun h => hk (List.mem_map.2 ⟨e, he, hej.trans h.symm⟩)
        rw [hsome hr e he hej, if_neg hkj, Nat.or_zero, load_mem]

end

/-! Lanes here and lanes elsewhere. -/

/-- The address lies in the executing hart's own memory. -/
def isOwn (s : State) (a : Word) : Bool := match placeNow s a with | .own _ => true | _ => false

theorem isOwn_iff (s : State) (a : Word) : isOwn s a = true ↔ ∃ off, placeNow s a = .own off := by
  unfold isOwn
  split
  · next off h => exact ⟨fun _ => ⟨off, h⟩, fun _ => rfl⟩
  · next h => exact ⟨fun e => absurd e Bool.false_ne_true, fun ⟨off, e⟩ => absurd e (h off)⟩

theorem awayLanes_eq (s : State) (l : List Lane) : awayLanes s l = l.filter fun k => !isOwn s k.a := by
  refine List.filter_congr fun k _ => ?_
  unfold isOwn
  cases placeNow s k.a <;> rfl

theorem mem_ownLanes {s : State} {l : List Lane} {e : Lane × Nat} :
    e ∈ ownLanes s l ↔ e.1 ∈ l ∧ ∃ off, placeNow s e.1.a = .own off ∧ e.2 = Spec.own s off := by
  obtain ⟨k, loc⟩ := e
  simp only [ownLanes, List.mem_filterMap]
  constructor
  · rintro ⟨j, hj, h⟩
    split at h
    · next off hp => cases h; exact ⟨hj, off, hp, rfl⟩
    · cases h
  · rintro ⟨hk, off, hp, rfl⟩
    exact ⟨k, hk, by rw [hp]; rfl⟩

theorem ownLanes_fst (s : State) (l : List Lane) : (ownLanes s l).map Prod.fst = l.filter fun k => isOwn s k.a := by
  rw [ownLanes, List.map_filterMap, ← List.filterMap_eq_filter]
  refine List.filterMap_congr fun k _ => ?_
  cases h : placeNow s k.a <;> simp [isOwn, Option.guard, h]

/-- What is written of the own lanes is written of all lanes in turn. -/
theorem writeAll_ownLanes (s : State) (f : Lane → List Byte) (l : List Lane) (m : Memory) :
    writeAll Prod.snd (fun e => f e.1) (ownLanes s l) m =
      l.foldl (fun m k => match placeNow s k.a with | .own off => m.writeBytes (Spec.own s off) (f k) | _ => m) m := by
  rw [writeAll, ownLanes, List.foldl_filterMap]
  refine List.foldl_ext _ _ _ fun m k _ => ?_
  cases placeNow s k.a <;> rfl

theorem placeNow_own_off {s : State} {a : Word} {off : Nat} (h : placeNow s a = .own off) : off = a.toNat % 2 ^ 17 := by
  unfold placeNow placeOf at h
  dsimp only at h
  repeat' split at h
  all_goals cases h
  all_goals rfl

theorem padBase_line (c : Nat) : padBase c % 64 = 0 := by
  unfold padBase
  split <;> omega

/-- An aligned element of own memory lies within one 64-byte line. -/
theorem own_inLine {s : State} {a : Word} {off n : Nat} (hp : placeNow s a = .own off) (hn : n ∈ [1, 2, 4]) (ha : a.toNat % n = 0) :
    Spec.own s off % 64 + n ≤ 64 := by
  have hb := padBase_line (coreOf s.cur)
  have ho := placeNow_own_off hp
  simp only [List.mem_cons, List.not_mem_nil, or_false] at hn
  unfold Spec.own
  rcases hn with rfl | rfl | rfl <;> omega

/-- Lanes that pass the checks are aligned. -/
theorem lanesPre_aligned {s : State} {l : List Lane} {n : Nat} {write : Bool} (h : lanesPre s l n write = .ok) {k : Lane} (hk : k ∈ l) :
    k.a.toNat % n = 0 := by
  unfold lanesPre at h
  have ha := (Pre.all_cons_ok_iff _ _).1 h |>.1
  dsimp only at ha
  split at ha
  · next j hj =>
    have hne := List.find?_some hj
    rw [ha] at hne
    exact absurd hne (by decide)
  · next hnone =>
    have hok : ¬ (alignPre k.a n write != .ok) = true := List.find?_eq_none.1 hnone k hk
    rw [bne_iff_ne, not_not, alignPre, need_ok_iff] at hok
    exact beq_iff_eq.1 hok

/-! The forms. -/

section
variable {s : State} {F : Spec.LaneForm} {i : Instr}

theorem bits_mem (w : VWidth) : VWidth.bits w ∈ [8, 16, 32] := by cases w <;> decide

theorem lanes_i (F : Spec.LaneForm) (s : State) : (F.lanes s).map Lane.i = F.act s := by
  rw [Spec.LaneForm.lanes, List.map_map]
  exact List.map_id _

theorem act_nodup (F : Spec.LaneForm) (s : State) : (F.act s).Nodup := List.nodup_range.filter _

theorem act_lt {k : Nat} (h : k ∈ F.act s) : k < 512 / F.w := List.mem_range.1 (List.mem_filter.1 h).1

theorem mem_lanes {e : Lane} : e ∈ F.lanes s ↔ e.i ∈ F.act s ∧ e.a = F.adr e.i := by
  obtain ⟨k, a⟩ := e
  simp only [Spec.LaneForm.lanes, List.mem_map, Lane.mk.injEq]
  exact ⟨fun ⟨j, hj, e1, e2⟩ => e1 ▸ ⟨hj, e2.symm⟩, fun ⟨hk, e⟩ => ⟨k, hk, rfl, e.symm⟩⟩

/-- The own lanes have different numbers, each that of a lane. -/
theorem ownLanes_i (F : Spec.LaneForm) (s : State) :
    (ownLanes s (F.lanes s)).map (fun e => e.1.i) = (F.act s).filter fun k => isOwn s (F.adr k) := by
  have h : (ownLanes s (F.lanes s)).map (fun e => e.1.i) = ((ownLanes s (F.lanes s)).map Prod.fst).map Lane.i := (List.map_map).symm
  rw [h, ownLanes_fst, Spec.LaneForm.lanes, List.filter_map, List.map_map]
  exact List.map_id _

theorem awayLanes_form (F : Spec.LaneForm) (s : State) :
    awayLanes s (F.lanes s) = ((F.act s).filter fun k => !isOwn s (F.adr k)).map fun k => ⟨k, F.adr k⟩ := by
  rw [awayLanes_eq, Spec.LaneForm.lanes, List.filter_map]; rfl

/-- The lanes elsewhere, line by line. -/
def linesAway (s : State) (F : Spec.LaneForm) : List (Nat × List Lane) := groupOn (fun k => k.a.toNat / 64) (awayLanes s (F.lanes s))

theorem linesAway_length (s : State) (F : Spec.LaneForm) :
    (linesAway s F).length = (((F.act s).filter fun k => !isOwn s (F.adr k)).map fun k => (F.adr k).toNat / 64).dedup.length := by
  rw [linesAway, groupOn_length, awayLanes_form, List.map_map]; rfl

theorem linesAway_ne_nil (h : ((F.act s).filter fun k => !isOwn s (F.adr k)) ≠ []) : (linesAway s F).isEmpty = false := by
  obtain ⟨k, hk⟩ := List.exists_mem_of_ne_nil _ h
  have hm : (F.adr k).toNat / 64 ∈ (awayLanes s (F.lanes s)).map fun k => k.a.toNat / 64 := by
    rw [awayLanes_form, List.map_map]
    exact List.mem_map_of_mem hk
  rw [← (grouped_groupOn _ _).keys] at hm
  obtain ⟨p, hp, -⟩ := List.mem_map.1 hm
  exact List.isEmpty_eq_false_iff.2 (List.ne_nil_of_mem hp)

/-- A vector load of the table is `vectorLoad` on its lanes. -/
theorem exec_vloadForm (h : Spec.vloadForm s i = some F) : F.w ∈ [8, 16, 32] ∧ ∃ rs1 rs2 mk strided,
    exec i s = vectorLoad F.reg rs1 rs2 mk F.w strided s ∧ activeLanes s.me F.w mk (laneAddr s rs1 rs2 F.w strided) = F.lanes s := by
  unfold Spec.vloadForm at h
  split at h
  · next d a b mk w =>
    cases h
    simp only [wBits_eq]
    exact ⟨bits_mem w, a, b, mk, false, rfl, rfl⟩
  · next d a b mk w =>
    cases h
    simp only [wBits_eq]
    exact ⟨bits_mem w, a, b, mk, true, rfl, rfl⟩
  · cases h

theorem exec_vstoreForm (h : Spec.vstoreForm s i = some F) : F.w ∈ [8, 16, 32] ∧ ∃ rs1 rs2 mk strided,
    exec i s = vectorStore F.reg rs1 rs2 mk F.w strided s ∧ activeLanes s.me F.w mk (laneAddr s rs1 rs2 F.w strided) = F.lanes s := by
  unfold Spec.vstoreForm at h
  split at h
  · next d a b mk w =>
    cases h
    simp only [wBits_eq]
    exact ⟨bits_mem w, a, b, mk, false, rfl, rfl⟩
  · next d a b mk w =>
    cases h
    simp only [wBits_eq]
    exact ⟨bits_mem w, a, b, mk, true, rfl, rfl⟩
  · cases h

end

/-! Loads with lanes elsewhere. -/

/-- What the packet of a line of a load asks for. -/
def lineLoads (w : Nat) (l : List Lane) : MemOp := .loads (bySegs (l.map fun k => (k.a.toNat % 64, w / 8, k.i * w)))

/-- The load as it is held: the replies it waits for, the lanes it takes, and the own lanes it has read. -/
def vloadHeld (s : State) (F : Spec.LaneForm) (a : Word) : Held :=
  let own := readOwn s F.w (ownLanes s (F.lanes s))
  { kind := .vload F.reg.toNat, addr := a, parts := (linesAway s F).length, mask := laneMask F.w (F.lanes s), acc := own.2.1, bad := own.2.2 }

/-- The state once the own lanes of a load are read and the load is held. -/
def vloadRead (s : State) (F : Spec.LaneForm) (a : Word) : State :=
  (readOwn s F.w (ownLanes s (F.lanes s))).1.modHart s.cur fun H => { H with stalled := none, held := some (vloadHeld s F a) }

/-- The state after a load with lanes elsewhere: besides, one packet for each line has gone out. -/
def vloadSent (s : State) (F : Spec.LaneForm) (a : Word) : State := sendLines s (lineLoads F.w) (.held 0) (vloadRead s F a) (linesAway s F)

/-- What the packet of a line of a store brings. -/
def lineStores (w : Nat) (v : VReg) (l : List Lane) : MemOp := .stores (l.map fun k => (k.a.toNat % 64, laneBytes w v k))

/-- The state after a store with lanes elsewhere has gone out: own lanes written, one packet for each line. -/
def vstoreSent (s : State) (F : Spec.LaneForm) : State :=
  sendLines s (lineStores F.w (srcVal s.me F.reg.toNat)) (.posted false)
    (storeOwn s F.w (srcVal s.me F.reg.toNat) (ownLanes s (F.lanes s))) (linesAway s F)

section
variable {s : State} {F : Spec.LaneForm} {i : Instr}
variable (hg : gatherPre s.me [F.reg.toNat] = .ok) (haway : ((F.act s).filter fun k => !isOwn s (F.adr k)) ≠ [])
include haway

theorem lanes_isEmpty : (F.lanes s).isEmpty = false := by
  refine List.isEmpty_eq_false_iff.2 fun h => haway ?_
  have ha : F.act s = [] := by rw [← lanes_i, h]; rfl
  rw [ha]; rfl

include hg

theorem exec_vload_away (hf : Spec.vloadForm s i = some F) (hl : lanesPre s (F.lanes s) (F.w / 8) false = .ok)
    (hd : dstPre s (some F.w) F.reg.toNat = .ok) :
    ∃ a, exec i s = finish s (ready (placesFor s s.cur (linesAway s F).length)) (vloadSent s F a) := by
  obtain ⟨-, rs1, rs2, mk, strided, he, hlanes⟩ := exec_vloadForm hf
  have hne : (groupOn (fun k => k.a.toNat / 64) (awayLanes s (F.lanes s))).isEmpty = false := linesAway_ne_nil haway
  refine ⟨s.x rs1, ?_⟩
  rw [he]
  unfold vectorLoad
  simp only [hlanes, lanes_isEmpty haway, hl, hne, hg, hd]
  rfl

theorem exec_vstore_away (hf : Spec.vstoreForm s i = some F) (hl : lanesPre s (F.lanes s) (F.w / 8) true = .ok)
    (hs : srcPre s (some F.w) F.reg.toNat = .ok) :
    exec i s = finish s (ready (placesFor s s.cur (linesAway s F).length)) (retireWith (vstoreSent s F) fun H => consume H F.reg.toNat) := by
  obtain ⟨-, rs1, rs2, mk, strided, he, hlanes⟩ := exec_vstoreForm hf
  have hp : ∀ p, Pre.all [.ok, .ok, .ok, p] = p := Pre.all_single
  rw [he]
  unfold vectorStore
  simp only [hlanes, lanes_isEmpty haway, hl, hs, hg, hp]
  rfl

end

theorem OnlyRows.hart_eq {s t : State} (h : Spec.OnlyRows s t) (k : Nat) : t.hart k = s.hart k := by
  rw [State.hart, h.2.1]; rfl

section
variable (s : State) (F : Spec.LaneForm) (a : Word)

theorem vloadSent_memory : SameMemory s (vloadSent s F a) := fun x =>
  (congrArg (Memory.read · x) (sendLines_mem _ _ _ _ _)).trans ((readOwn_rows _ _ s).1 x)

theorem vloadSent_others : OtherHarts s (vloadSent s F a) := fun h hh => by
  rw [State.hart, vloadSent, sendLines_harts]
  exact (State.modHart_hart_ne _ _ _ hh).trans (OnlyRows.hart_eq (readOwn_rows _ _ s) h)

theorem vloadSent_net :
    (vloadSent s F a).net.length = s.net.length + (linesAway s F).length ∧ (vloadSent s F a).net.take s.net.length = s.net := by
  have hn : (vloadRead s F a).net = s.net := (readOwn_rows _ _ s).2.2.1
  rw [← hn]
  exact ⟨sendLines_net_length _ _ _ _ _, sendLines_net_take _ _ _ _ _⟩

theorem vloadSent_me : (vloadSent s F a).me = { s.me with held := some (vloadHeld s F a), stalled := none } := by
  have hr := readOwn_rows F.w (ownLanes s (F.lanes s)) s
  have hc : (vloadRead s F a).cur = s.cur := hr.2.2.2
  rw [vloadSent, sendLines_me, State.me, hc, vloadRead, State.modHart_hart_same, OnlyRows.hart_eq hr]
  rfl

theorem vstoreSent_cur : (vstoreSent s F).cur = s.cur := (sendLines_cur _ _ _ _ _).trans (storeOwn_cur _ _ _ _)
theorem vstoreSent_me : (vstoreSent s F).me = s.me := (sendLines_me _ _ _ _ _).trans (storeOwn_me _ _ _ _)

theorem vstoreSent_net :
    (vstoreSent s F).net.length = s.net.length + (linesAway s F).length ∧ (vstoreSent s F).net.take s.net.length = s.net := by
  have hn := storeOwn_net s F.w (srcVal s.me F.reg.toNat) (ownLanes s (F.lanes s))
  rw [← hn]
  exact ⟨sendLines_net_length _ _ _ _ _, sendLines_net_take _ _ _ _ _⟩

end

/-- The lanes of a load as it is held: those read at issue have their bytes, those to come are 0. -/
theorem vloadHeld_lanes {s : State} {F : Spec.LaneForm} (hw : F.w ∈ [8, 16, 32]) (a : Word) :
    (∀ k, k < 512 / F.w → Spec.lane F.w (vloadHeld s F a).mask k = if k ∈ F.act s then 2 ^ F.w - 1 else 0) ∧
    (∀ k, k ∉ (F.act s).filter (fun k => isOwn s (F.adr k)) → Spec.lane F.w (vloadHeld s F a).acc k = 0) ∧
    (∀ k ∈ F.act s, ∀ off, placeNow s (F.adr k) = .own off →
      Spec.lane F.w (vloadHeld s F a).acc k = ofBytes (s.mem.readBytes (Spec.own s off) (F.w / 8))) := by
  have hlt : ∀ e ∈ ownLanes s (F.lanes s), e.1.i < 512 / F.w := fun e he => act_lt (mem_lanes.1 (mem_ownLanes.1 he).1).1
  have hn : ((ownLanes s (F.lanes s)).map fun e => e.1.i).Nodup := ownLanes_i F s ▸ (act_nodup F s).filter _
  refine ⟨fun k hk => ?_, fun k hk => (readOwn_lane hw k hlt).1 (ownLanes_i F s ▸ hk), fun k hk off hp => ?_⟩
  · rw [← lanes_i F s]
    exact laneMask_lane _ hk
  · have he : ((⟨k, F.adr k⟩, Spec.own s off) : Lane × Nat) ∈ ownLanes s (F.lanes s) := mem_ownLanes.2 ⟨mem_lanes.2 ⟨hk, rfl⟩, off, hp, rfl⟩
    exact (readOwn_lane hw k hlt).2 hn _ he rfl

/-- Every own lane of a store that passes its checks is written, in the order of the lanes. -/
theorem vstoreSent_read {s : State} {F : Spec.LaneForm} (hw : F.w ∈ [8, 16, 32]) (hl : lanesPre s (F.lanes s) (F.w / 8) true = .ok) (x : Nat) :
    (vstoreSent s F).mem.read x = ((F.act s).foldl (fun m k => match placeNow s (F.adr k) with
      | .own off => m.writeBytes (Spec.own s off) (toBytes (F.w / 8) (Spec.lane F.w (srcVal s.me F.reg.toNat) k))
      | _ => m) s.mem).read x := by
  have hin : ∀ e ∈ ownLanes s (F.lanes s), e.2 % 64 + F.w / 8 ≤ 64 := fun e he => by
    obtain ⟨hm, off, hp, hloc⟩ := mem_ownLanes.1 he
    have hn : F.w / 8 ∈ [1, 2, 4] := by
      simp only [List.mem_cons, List.not_mem_nil, or_false] at hw ⊢
      omega
    rw [hloc]
    exact own_inLine hp hn (lanesPre_aligned hl hm)
  rw [vstoreSent, sendLines_mem, storeOwn_read _ _ _ _ hin, writeAll_ownLanes, Spec.LaneForm.lanes, List.foldl_map]
  congr 1
  refine List.foldl_ext _ _ _ fun m k hk => ?_
  rw [laneBytes, lanes_getD _ (act_lt hk)]

/-- A store with lanes elsewhere that has its places: it has gone out and taken its source's image, and retires. -/
theorem vstore_goes {s : State} {F : Spec.LaneForm} {i : Instr}
    (he : exec i s = finish s (ready (placesFor s s.cur (linesAway s F).length)) (retireWith (vstoreSent s F) fun H => consume H F.reg.toNat))
    (hp : placesFor s s.cur (linesAway s F).length = true) :
    ∃ u t : State, exec i s = .next t ∧ Retired u t ∧ u.me = consume s.me F.reg.toNat ∧
      u.net = (vstoreSent s F).net ∧ u.mem = (vstoreSent s F).mem ∧ ∀ h, h ≠ s.cur → u.hart h = (vstoreSent s F).hart h := by
  refine ⟨_, _, he.trans ((finish_places s _ _).1 hp), retireWith_retired _ _, ?_, rfl, rfl, fun h hh => ?_⟩
  · rw [State.modHart_me, vstoreSent_me]
  · exact State.modHart_hart_ne _ _ _ (vstoreSent_cur s F ▸ hh)

/-- With no lane in own memory a store leaves memory and every hart alone. -/
theorem vstoreSent_unmixed {s : State} {F : Spec.LaneForm} (h : ownLanes s (F.lanes s) = []) :
    (vstoreSent s F).mem = s.mem ∧ (vstoreSent s F).harts = s.harts := by
  rw [vstoreSent, h]
  exact ⟨sendLines_mem _ _ _ _ _, sendLines_harts _ _ _ _ _⟩

theorem mixedVectors : Spec.mixedVectors := by
  intro i s F hg own away lines haway
  have hlines : (linesAway s F).length = lines := linesAway_length s F
  refine ⟨fun hf hl hd => ?_, fun hf hl hs => ?_⟩
  · obtain ⟨a, he⟩ := exec_vload_away hg haway hf hl hd
    obtain ⟨hw, -⟩ := exec_vloadForm hf
    obtain ⟨hmask, hnone, hown⟩ := vloadHeld_lanes hw a
    obtain ⟨hlen, htake⟩ := vloadSent_net s F a
    rw [hlines] at he hlen
    rw [he]
    refine ⟨(finish_places s lines _).2, fun hp => ⟨vloadSent s F a, (finish_places s lines _).1 hp, vloadSent_memory s F a, vloadSent_others s F a,
      hlen, htake, vloadHeld s F a, rfl, hlines, vloadSent_me s F a, hmask, fun k _ hk => hnone k fun hko => ?_, hown⟩⟩
    obtain ⟨hact, hisOwn⟩ := List.mem_filter.1 hko
    rcases hk with hk | hk
    · have hnot : (!isOwn s (F.adr k)) = true := (List.mem_filter.1 hk).2
      rw [hisOwn] at hnot
      exact absurd hnot (by decide)
    · exact hk hact
  · have he := exec_vstore_away hg haway hf hl hs
    obtain ⟨hw, -⟩ := exec_vstoreForm hf
    obtain ⟨hlen, htake⟩ := vstoreSent_net s F
    rw [← hlines]
    refine ⟨fun hp => he.trans ((finish_places s _ _).2 hp), fun hp => ?_⟩
    obtain ⟨u, t, ht, hr, hme, hnet, hmem, -⟩ := vstore_goes he hp
    rw [← hnet] at hlen htake
    exact ⟨u, t, ht, hr, hme, hlen, htake, fun x => hmem ▸ vstoreSent_read hw hl x⟩

theorem awayVectors : Spec.awayVectors := by
  intro i s F hact hg haway lines hp
  have hno : ∀ k ∈ F.act s, isOwn s (F.adr k) = false := fun k hk =>
    Bool.eq_false_iff.2 fun h => (isOwn_iff s _).1 h |>.elim (haway k hk)
  have hall : ((F.act s).filter fun k => !isOwn s (F.adr k)) = F.act s := List.filter_eq_self.2 fun k hk => by rw [hno k hk]; rfl
  have hne : ((F.act s).filter fun k => !isOwn s (F.adr k)) ≠ [] := hall.symm ▸ hact
  have hlines : (linesAway s F).length = lines := by rw [linesAway_length, hall]
  rw [← hlines] at hp
  refine ⟨fun hf hl hd => ?_, fun hf hl hs => ?_⟩
  · obtain ⟨a, he⟩ := exec_vload_away hg hne hf hl hd
    obtain ⟨hlen, htake⟩ := vloadSent_net s F a
    exact ⟨_, he.trans ((finish_places s _ _).1 hp), vloadSent_memory s F a, vloadSent_others s F a, hlines ▸ hlen, htake,
      vloadHeld s F a, rfl, hlines, vloadSent_me s F a⟩
  · have hown : ownLanes s (F.lanes s) = [] := by
      refine List.eq_nil_iff_forall_not_mem.2 fun e he => ?_
      obtain ⟨hm, off, ho, -⟩ := mem_ownLanes.1 he
      obtain ⟨hk, ha⟩ := mem_lanes.1 hm
      exact haway _ hk off (ha ▸ ho)
    obtain ⟨hmem, hharts⟩ := vstoreSent_unmixed hown
    obtain ⟨hlen, htake⟩ := vstoreSent_net s F
    obtain ⟨u, t, ht, hr, hme, hnet, humem, hothers⟩ := vstore_goes (exec_vstore_away hg hne hf hl hs) hp
    rw [← hnet] at hlen htake
    refine ⟨u, t, ht, hr, fun x => by rw [humem, hmem], hlines ▸ hlen, htake, hme, fun h hh => ?_⟩
    rw [hothers h hh, State.hart, hharts]; rfl

/-- Settles O29: own lanes are read or written at issue, and each group of `groupOn` is one packet. -/
theorem awayVectorAccesses : Obligations.AwayVectorAccesses := ⟨awayVectors, mixedVectors⟩

end Sys2Proof.Machine

namespace Sys2Proof.Machine
open Sys2Proof

/-! What accesses leave alone: of a core all but its stored errors, their count and its code; of a granule its full-empty bit. -/

section
variable {γ : Type} {g : Core → γ} (hg : ∀ C n l, g { C with ce := n, flaws := l } = g C)
include hg

theorem rowFix_core_keeps (s : State) (c k : Nat) (f : RowFix) : g ((rowFix s c f).core k) = g (s.core k) := by
  have hmod : ∀ m : Core → Core, (∀ C, g (m C) = g C) → g ((s.modCore c m).core k) = g (s.core k) := fun m hm => by
    rw [State.modCore_core]; split
    · next e => rw [e, hm]
    · rfl
  cases f with
  | corrected r => exact hmod (fun C => { C with ce := min 255 (C.ce + 1), flaws := SMap.del C.flaws r }) fun C => hg C _ _
  | reported r => rfl
  | gone r => exact hmod (fun C => { C with flaws := SMap.del C.flaws r }) fun C => hg C C.ce _
  | poisoned n => rfl

theorem scrub_core_keeps (s : State) (l n k : Nat) (w : Bool) : g ((scrub s l n w).core k) = g (s.core k) := by
  unfold scrub; split
  · exact foldl_keeps (fun s => g (s.core k)) _ (fun _ _ => foldl_keeps (fun s => g (s.core k)) _ (fun _ _ => rowFix_core_keeps hg _ _ _ _) _ _) _ _
  · rfl

end

theorem scrub_feWait (s : State) (l n k : Nat) (w : Bool) : ((scrub s l n w).core k).feWait = (s.core k).feWait :=
  scrub_core_keeps (g := Core.feWait) (fun _ _ _ => rfl) s l n k w

theorem dirtyCode_feWait (s : State) (l n k : Nat) : ((dirtyCode s l n).core k).feWait = (s.core k).feWait := by
  unfold dirtyCode; split
  · rfl
  · rw [State.modCore_core]; split
    · next e => rw [e]
    · rfl

theorem store_feWait (s : State) (w : Option Nat) (l : Nat) (b : List Byte) (p : Bool) (k : Nat) :
    ((store s w l b p).core k).feWait = (s.core k).feWait := by
  unfold store; dsimp only
  rw [dirtyCode_feWait, loseResv_core, poisonWrite_core]
  exact scrub_feWait s l b.length k true

theorem setFe_fe (s : State) (l : Nat) (b : Bool) : ((s.setFe l b).gbits l).fe = b := by
  simp [State.setFe, State.setGbits, State.gbits]

theorem setPoi_fe (s : State) (l : Nat) (b : Bool) (k : Nat) : ((s.setPoi l b).gbits k).fe = (s.gbits k).fe := by
  unfold State.setPoi State.setGbits State.gbits
  dsimp only
  by_cases h : k / 16 = l / 16
  · rw [h, SMap.get_set_same]
  · rw [SMap.get_set_ne _ _ _ h]

theorem rowFix_fe (s : State) (c : Nat) (f : RowFix) (k : Nat) : ((rowFix s c f).gbits k).fe = (s.gbits k).fe := by
  cases f with
  | corrected r => rfl
  | reported r => rfl
  | gone r => rfl
  | poisoned n => exact setPoi_fe s _ true k

theorem scrub_fe (s : State) (l n : Nat) (w : Bool) (k : Nat) : ((scrub s l n w).gbits k).fe = (s.gbits k).fe := by
  unfold scrub; split
  · exact foldl_keeps (fun s => (s.gbits k).fe) _ (fun _ _ => foldl_keeps (fun s => (s.gbits k).fe) _ (fun _ _ => rowFix_fe _ _ _ _) _ _) _ _
  · rfl

theorem loseResv_gran (s : State) (w : Option Nat) (l n : Nat) : (loseResv s w l n).gran = s.gran := by
  unfold loseResv; split
  · refine foldl_keeps State.gran _ (fun _ _ => ?_) _ _
    repeat' split
    all_goals rfl
  · rfl

theorem loseResv_me (s : State) (l n : Nat) : (loseResv s (some s.cur) l n).me = s.me := by
  rw [State.me, aside_cur.loseResv]
  exact (losesResv_loseResv s (some s.cur) l n s.cur).2 rfl

/-! Full-empty operations (R195 to R200). -/

/-- u is s after a full-empty operation at loc that leaves the bit `full`: the executing hart and the waiting requests are as before. -/
structure FeServed (s u : State) (loc : Nat) (full : Bool) : Prop where
  cur_eq  : u.cur = s.cur
  me_eq   : u.me = s.me
  fe_eq   : (u.gbits loc).fe = full
  waiters : ∀ k, (u.core k).feWait = (s.core k).feWait

theorem feServed_setFe (s : State) (loc l n : Nat) (b : Bool) : FeServed s (loseResv (s.setFe loc b) (some s.cur) l n) loc b where
  cur_eq := aside_cur.loseResv _ _ _ _
  me_eq := loseResv_me (s.setFe loc b) l n
  fe_eq := by
    rw [State.gbits, loseResv_gran]
    exact setFe_fe s loc b
  waiters k := by rw [loseResv_core]; rfl

theorem feServed_load (s : State) (loc n : Nat) : FeServed s (load s loc n).1 loc (s.gbits loc).fe :=
  ⟨load_cur _ _ _, load_me _ _ _, scrub_fe _ _ _ _ _, fun _ => scrub_feWait _ _ _ _ _⟩

theorem feServed_store (s : State) (loc : Nat) (b : List Byte) : FeServed s ((store s (some s.cur) loc b false).setFe loc true) loc true where
  cur_eq := store_cur _ _ _ _ _
  me_eq := store_me _ _ _ _
  fe_eq := setFe_fe _ _ _
  waiters _ := store_feWait _ _ _ _ _ _

theorem FeServed.trans {s t u : State} {loc : Nat} {b c : Bool} (h : FeServed s t loc b) (k : FeServed t u loc c) :
    FeServed s u loc c := ⟨k.cur_eq.trans h.cur_eq, k.me_eq.trans h.me_eq, k.fe_eq, fun n => (k.waiters n).trans (h.waiters n)⟩

section
variable {s : State} {loc : Nat}

theorem load_good {n : Nat} (h : (load s loc n).2.2 = none) : load s loc n = ((load s loc n).1, ofBytes (s.mem.readBytes loc n), none) := by
  rw [← h, ← load_value s loc n]

/-- LD.FE of a full granule without poison takes its doubleword, and empties it with clr (R198). -/
theorem feAt_load (hfe : (s.gbits loc).fe = true) (hl : (load s loc 8).2.2 = none) (clr : Bool) :
    ∃ u, feAt s (some s.cur) loc (.feLoad clr) = some (u, .data (BitVec.ofNat 512 (ofBytes (s.mem.readBytes loc 8))) none) ∧
      FeServed s u loc (!clr) ∧ u.mem = s.mem := by
  unfold feAt
  rw [hfe, load_good hl]
  have h := feServed_load s loc 8
  rw [hfe] at h
  cases clr with
  | false => exact ⟨_, rfl, h, load_mem _ _ _⟩
  | true =>
    have hs := feServed_setFe (load s loc 8).1 loc loc 8 false
    rw [load_cur] at hs
    exact ⟨_, rfl, h.trans hs, (aside_mem.loseResv _ _ _ _).trans (load_mem _ _ _)⟩

theorem feAt_load_empty (hfe : (s.gbits loc).fe = false) (w : Option Nat) (clr : Bool) : feAt s w loc (.feLoad clr) = none := by
  unfold feAt
  rw [hfe]; rfl
theorem feAt_store (hfe : (s.gbits loc).fe = false) (w : Option Nat) (v : Word) :
    feAt s w loc (.feStore v) = some ((store s w loc (toBytes 8 v.toNat) false).setFe loc true, .ack) := by
  unfold feAt
  rw [hfe]; rfl
theorem feAt_store_full (hfe : (s.gbits loc).fe = true) (w : Option Nat) (v : Word) : feAt s w loc (.feStore v) = none := by
  unfold feAt
  rw [hfe]; rfl

/-! Requests that wait. -/

theorem firstServed_quiet (t : State) : ∀ l : List Packet, (∀ p ∈ l, ∀ a op k x, p.body = .mem a op k (.at_ x) → x / 16 ≠ loc / 16) →
    firstServed t loc l = none := by
  intro l
  induction l with
  | nil => intro _; rfl
  | cons p r ih =>
    intro h
    have hr := ih fun q hq => h q (List.mem_cons_of_mem _ hq)
    unfold firstServed
    split
    · next op x hb => rw [if_neg (h p List.mem_cons_self _ _ _ _ hb), hr]
    · exact hr

/-- A bit changes that no request waits for. -/
theorem wakeFe_quiet {u : State} {b : Bool} (hs : FeServed s u loc b) (hq : Spec.quiet s loc) : wakeFe u loc = u := by
  have hf : firstServed u loc (u.core (coreOfLoc loc)).feWait = none := by
    rw [hs.waiters]
    exact firstServed_quiet u _ hq
  unfold wakeFe serveFe
  dsimp only
  rw [hf]

end

section
variable {s : State} {a : Word} {off : Nat} (hp : placeNow s a = .own off)
include hp

/-- A full-empty operation that is served and gives a number: the number lands. -/
theorem feInstr_lands {op : MemOp} {u : State} {v : Nat} {b : Bool} (hq : Spec.quiet s (Spec.own s off))
    (hf : feAt s (some s.cur) (Spec.own s off) op = some (u, .data (BitVec.ofNat 512 v) none)) (hs : FeServed s u (Spec.own s off) b) (rd : Nat) :
    ∃ t, feInstr .ok (.plain rd) a op s = .next t ∧ Retired (u.modHart s.cur fun H => H.setX rd (BitVec.ofNat 64 v)) t := by
  have hv : (BitVec.ofNat 512 (BitVec.ofNat 512 v).toNat).setWidth 64 = BitVec.ofNat 64 v := by
    rw [BitVec.ofNat_toNat, BitVec.setWidth_eq, BitVec.setWidth_ofNat_of_le (by decide)]
  have hl : landNow u (.plain rd) a (BitVec.ofNat 512 v).toNat = .next (retireWith u fun H => H.setX rd (BitVec.ofNat 64 v)) := by
    rw [← hv]; rfl
  refine ⟨_, ?_, hs.cur_eq ▸ retireWith_retired u _⟩
  unfold feInstr
  dsimp only
  rw [hp]
  dsimp only
  rw [ownLoc_eq, hf]
  dsimp only
  rw [wakeFe_quiet hs hq]
  exact hl

/-- A full-empty operation that is served and gives nothing: it retires. -/
theorem feInstr_retires {op : MemOp} {u : State} {b : Bool} (hq : Spec.quiet s (Spec.own s off))
    (hf : feAt s (some s.cur) (Spec.own s off) op = some (u, .ack)) (hs : FeServed s u (Spec.own s off) b) (kind : HeldKind) :
    ∃ t, feInstr .ok kind a op s = .next t ∧ Retired u t := by
  refine ⟨_, ?_, retire_retired u⟩
  unfold feInstr
  dsimp only
  rw [hp]
  dsimp only
  rw [ownLoc_eq, hf]
  dsimp only
  rw [wakeFe_quiet hs hq, hs.cur_eq]
  rfl

theorem feInstr_joins {op : MemOp} (hf : feAt s (some s.cur) (Spec.own s off) op = none) (kind : HeldKind) :
    feInstr .ok kind a op s = feJoin s kind a (Spec.own s off) op := by
  unfold feInstr
  dsimp only
  rw [hp]
  dsimp only
  rw [ownLoc_eq, hf]

end

section
variable {s : State} {a : Word} (ho : ∀ off, placeNow s a ≠ .own off)
include ho

theorem feInstr_holds {op : MemOp} (hop : ∀ b, op ≠ .feSet b) (kind : HeldKind) :
    feInstr .ok kind a op s = finish s (ready (placesFor s s.cur 1)) (sendHeld s kind a op) := by
  unfold feInstr
  dsimp only
  split
  · next off hp => exact absurd hp (ho off)
  · congr 1
    split
    · next b => exact absurd rfl (hop b)
    · rfl

theorem feInstr_posts (full : Bool) (kind : HeldKind) :
    feInstr .ok kind a (.feSet full) s = finish s (ready (placesFor s s.cur 1)) (sendPosted s a (.feSet full)) := by
  unfold feInstr
  dsimp only
  split
  · next off hp => exact absurd hp (ho off)
  · rfl

end

section
variable {s : State} {rd a b : BitVec 5}

/-! The checks of the forms. -/

theorem feLoad_checked {clr : Bool} (ha : (s.x a).toNat % 8 = 0) (hp : fePlace s (s.x a) = true) (hl : lockPre s (s.x a) 8 clr = .ok)
    (hrd : rd.toNat ∉ s.me.armed) : feLoad rd a clr s = feInstr .ok (.plain rd.toNat) (s.x a) (.feLoad clr) s := by
  have h : Pre.all [alignPre (s.x a) 8 false, need (fePlace s (s.x a)) 5 (s.x a), lockPre s (s.x a) 8 clr, armedW s rd] = .ok := by
    rw [alignPre, ha, hp, hl, (armedW_ok_iff s rd).2 hrd]; rfl
  unfold feLoad
  dsimp only
  rw [h]

theorem execStFe_checked (ha : (s.x a).toNat % 8 = 0) (hp : fePlace s (s.x a) = true) (hl : lockPre s (s.x a) 8 true = .ok)
    (hr : feRelease s (s.x a) = .ok) : execStFe a b s = feInstr .ok (.plain 0) (s.x a) (.feStore (s.x b)) s := by
  have h : Pre.all [alignPre (s.x a) 8 true, need (fePlace s (s.x a)) 7 (s.x a), lockPre s (s.x a) 8 true, feRelease s (s.x a)] = .ok := by
    rw [alignPre, ha, hp, hl, hr]; rfl
  unfold execStFe
  dsimp only
  rw [h]

theorem feSetInstr_checked (hp : fePlace s (s.x a) = true) (hl : granuleLockPre s (s.x a) = .ok) (hr : feRelease s (s.x a) = .ok) (full : Bool) :
    feSetInstr a full s = feInstr .ok (.plain 0) (s.x a) (.feSet full) s := by
  have h : Pre.all [need (fePlace s (s.x a)) 7 (s.x a), granuleLockPre s (s.x a), feRelease s (s.x a)] = .ok := by
    rw [hp, hl, hr]; rfl
  unfold feSetInstr
  dsimp only
  rw [h]

theorem execFeqry_checked (hp : fePlace s (s.x a) = true) (hrd : rd.toNat ∉ s.me.armed) :
    execFeqry rd a s = feInstr .ok (.plain rd.toNat) (s.x a) .feQuery s := by
  have h : Pre.all [need (fePlace s (s.x a)) 5 (s.x a), armedW s rd] = .ok := by
    rw [hp, (armedW_ok_iff s rd).2 hrd]; rfl
  unfold execFeqry
  dsimp only
  rw [h]

theorem exec_ldFeKeep : exec (.ldFeKeep rd a) s = feLoad rd a false s := rfl
theorem exec_ldFeClr : exec (.ldFeClr rd a) s = feLoad rd a true s := rfl
theorem exec_stFe : exec (.stFe a b) s = execStFe a b s := rfl
theorem exec_fesetEmpty : exec (.fesetEmpty a) s = feSetInstr a false s := rfl
theorem exec_fesetFull : exec (.fesetFull a) s = feSetInstr a true s := rfl
theorem exec_feqry : exec (.feqry rd a) s = execFeqry rd a s := rfl

/-- The own scratchpad of a worker hart has full-empty bits (R195). -/
theorem fePlace_own {off : Nat} {x : Word} (hp : placeNow s x = .own off) (hm : isMordant s.cur = false) : fePlace s x = true := by
  unfold fePlace
  rw [hp, hm]; rfl

/-! The operations at home. -/

theorem feSet_atHome {off : Nat} (hp : placeNow s (s.x a) = .own off) (hm : isMordant s.cur = false) (hq : Spec.quiet s (Spec.own s off))
    (hl : granuleLockPre s (s.x a) = .ok) (hr : feRelease s (s.x a) = .ok) (full : Bool) :
    ∃ u t : State, feSetInstr a full s = .next t ∧ Retired u t ∧ SameMemory s u ∧ (u.gbits (Spec.own s off)).fe = full ∧ u.me = s.me := by
  have hs := feServed_setFe s (Spec.own s off) (Spec.own s off / 16 * 16) 16 full
  obtain ⟨t, he, ht⟩ := feInstr_retires hp (op := .feSet full) hq rfl hs (.plain 0)
  rw [← feSetInstr_checked (fePlace_own hp hm) hl hr] at he
  refine ⟨_, t, he, ht, fun k => ?_, hs.fe_eq, hs.me_eq⟩
  rw [aside_mem.loseResv]; rfl

/-- The bits of what FEQRY tells: full, poisoned, and the number of requests that wait (R198). -/
theorem feQuery_bits (f p : Bool) (n : Nat) :
    bit (BitVec.ofNat 64 ((if f then 1 else 0) + 2 * (if p then 1 else 0) + 256 * n)) 0 = f ∧
    bit (BitVec.ofNat 64 ((if f then 1 else 0) + 2 * (if p then 1 else 0) + 256 * n)) 1 = p := by
  simp only [bit, BitVec.getLsbD_ofNat, Nat.testBit_eq_decide_div_mod_eq]
  cases f <;> cases p <;> simp <;> omega

theorem feLoad_atHome {off : Nat} {clr : Bool} (hp : placeNow s (s.x a) = .own off) (hm : isMordant s.cur = false) (hq : Spec.quiet s (Spec.own s off))
    (hrd : rd.toNat ∉ s.me.armed) (ha : (s.x a).toNat % 8 = 0) (hl : lockPre s (s.x a) 8 clr = .ok)
    (hfe : (s.gbits (Spec.own s off)).fe = true) (hg : (load s (Spec.own s off) 8).2.2 = none) :
    ∃ u t : State, feLoad rd a clr s = .next t ∧
      Retired (u.modHart s.cur fun H => H.setX rd.toNat (BitVec.ofNat 64 (ofBytes (s.mem.readBytes (Spec.own s off) 8)))) t ∧
      SameMemory s u ∧ u.me = s.me ∧ (u.gbits (Spec.own s off)).fe = !clr := by
  obtain ⟨u, hf, hs, hmem⟩ := feAt_load hfe hg clr
  obtain ⟨t, he, ht⟩ := feInstr_lands hp hq hf hs rd.toNat
  rw [← feLoad_checked ha (fePlace_own hp hm) hl hrd] at he
  exact ⟨u, t, he, ht, fun k => by rw [hmem], hs.me_eq, hs.fe_eq⟩

end

theorem fullEmptyAtHome : Spec.fullEmptyAtHome := by
  intro s rd a b off loc hp hm hq hrd
  have hpl := fePlace_own hp hm
  refine ⟨fun ha hl hfe hg => feLoad_atHome (clr := false) hp hm hq hrd ha hl hfe hg,
    fun ha hl hfe hg => feLoad_atHome (clr := true) hp hm hq hrd ha hl hfe hg, fun hr ha hl hfe => ?_,
    fun hr hl => ⟨feSet_atHome hp hm hq hl hr false, feSet_atHome hp hm hq hl hr true⟩, ?_⟩
  · have hs := feServed_store s loc (toBytes 8 (s.x b).toNat)
    obtain ⟨t, he, ht⟩ := feInstr_retires hp hq (feAt_store hfe (some s.cur) (s.x b)) hs (.plain 0)
    rw [← execStFe_checked ha hpl hl hr] at he
    have hb := Memory.readBytes_writeBytes (toBytes 8 (s.x b).toNat) s.mem loc
    rw [toBytes_length, ← store_mem s (some s.cur) loc _ false] at hb
    refine ⟨_, t, he, ht, hb, fun k hk => ?_, hs.fe_eq, hs.me_eq⟩
    exact store_outside s _ loc _ false k (by rwa [toBytes_length])
  · have hs : FeServed s (scrub s (loc / 16 * 16) 16 false) loc (s.gbits loc).fe :=
      ⟨scrub_cur _ _ _ _, scrub_me _ _ _ _, scrub_fe _ _ _ _ _, fun _ => scrub_feWait _ _ _ _ _⟩
    obtain ⟨t, he, ht⟩ := feInstr_lands hp (op := .feQuery) hq rfl hs rd.toNat
    rw [← execFeqry_checked hpl hrd] at he
    obtain ⟨h0, h1⟩ := feQuery_bits (s.gbits loc).fe (s.gbits loc).poi (feWaiters (s.core (coreOfLoc loc)) loc)
    exact ⟨_, _, t, he, ht, fun _ => by rw [scrub_mem], hs.me_eq, h0, h1⟩

/-! Waiting (R199, R200). -/

theorem feJoin_full {s : State} (h : 64 ≤ (s.core (coreOf s.cur)).feWait.length) (kind : HeldKind) (a : Word) (loc : Nat) (op : MemOp) :
    feJoin s kind a loc op = .next (takeTrap s s.cur false 28 a) := by
  unfold feJoin
  dsimp only
  rw [if_pos h]
  exact finish_trap_none s s 28 a

theorem feJoin_waits {s : State} (h : (s.core (coreOf s.cur)).feWait.length < 64) (kind : HeldKind) (a : Word) (loc : Nat) (op : MemOp) :
    ∃ t p, feJoin s kind a loc op = .next t ∧ SameMemory s t ∧ t.net = s.net ∧
      (t.core (coreOf s.cur)).feWait = (s.core (coreOf s.cur)).feWait ++ [p] ∧ p.hart = s.cur ∧ p.body = .mem a.toNat op (.held 0) (.at_ loc) ∧
      t.me = { s.me with held := some { kind := kind, addr := a, parts := 1 }, stalled := none } := by
  unfold feJoin
  dsimp only
  rw [if_neg (by omega), finish_ok]
  refine ⟨_, { id := s.nextId, hart := s.cur, slot := slotOf s.me, key := keyOf s.me, body := .mem a.toNat op (.held 0) (.at_ loc)
               limit := (s.core (coreOf s.cur)).feLimit }, rfl, fun k => rfl, rfl, ?_, rfl, rfl, ?_⟩
  · rw [State.modHart_core, State.modCore_core_same]; rfl
  · rw [State.modHart_me]; rfl

theorem fullEmptyWaits : Spec.fullEmptyWaits := by
  intro s rd a b off loc c hp hm hrd ha joined
  have hpl := fePlace_own hp hm
  have hjoined {i : Instr} {k : HeldKind} {op : MemOp} (he : exec i s = feInstr .ok k (s.x a) op s) (hf : feAt s (some s.cur) loc op = none) :
      joined i k op := by
    rw [feInstr_joins hp hf] at he
    exact ⟨fun h => he.trans (feJoin_full h k _ _ op), fun h => he ▸ feJoin_waits h k _ _ op⟩
  exact ⟨fun hfe hl => hjoined (feLoad_checked ha hpl hl hrd) (feAt_load_empty hfe _ _),
    fun hfe hl => hjoined (feLoad_checked ha hpl hl hrd) (feAt_load_empty hfe _ _),
    fun hfe hl hr => hjoined (execStFe_checked ha hpl hl hr) (feAt_store_full hfe _ _)⟩

/-! Faults (R195, R197). -/

theorem feInstr_trap {p : Pre} {c : Nat} {v : Word} (h : p = .trap c v) (kind : HeldKind) (a : Word) (op : MemOp) (s : State) :
    feInstr p kind a op s = .next (takeTrap s s.cur false c v) := by
  subst h
  exact finish_trap_none s s c v

section
variable {s : State} {rd a b : BitVec 5}

theorem feLoad_misaligned (h : (s.x a).toNat % 8 ≠ 0) (clr : Bool) : feLoad rd a clr s = .next (takeTrap s s.cur false 4 (s.x a)) := by
  have ha : alignPre (s.x a) 8 false = .trap 4 (s.x a) := by simp [alignPre, need, h]
  unfold feLoad
  dsimp only
  rw [ha]
  exact feInstr_trap rfl _ _ _ s

theorem feLoad_nowhere (h : (s.x a).toNat % 8 = 0) (hp : fePlace s (s.x a) = false) (clr : Bool) :
    feLoad rd a clr s = .next (takeTrap s s.cur false 5 (s.x a)) := by
  unfold feLoad
  dsimp only
  rw [Pre.all, alignPre, h, hp]
  exact feInstr_trap rfl _ _ _ s

theorem execStFe_misaligned (h : (s.x a).toNat % 8 ≠ 0) : execStFe a b s = .next (takeTrap s s.cur false 6 (s.x a)) := by
  have ha : alignPre (s.x a) 8 true = .trap 6 (s.x a) := by simp [alignPre, need, h]
  unfold execStFe
  dsimp only
  rw [ha]
  exact feInstr_trap rfl _ _ _ s

theorem execStFe_nowhere (h : (s.x a).toNat % 8 = 0) (hp : fePlace s (s.x a) = false) :
    execStFe a b s = .next (takeTrap s s.cur false 7 (s.x a)) := by
  unfold execStFe
  dsimp only
  rw [Pre.all, alignPre, h, hp]
  exact feInstr_trap rfl _ _ _ s

theorem feSetInstr_nowhere (hp : fePlace s (s.x a) = false) (full : Bool) : feSetInstr a full s = .next (takeTrap s s.cur false 7 (s.x a)) := by
  unfold feSetInstr
  dsimp only
  rw [hp]
  exact feInstr_trap rfl _ _ _ s

theorem execFeqry_nowhere (hp : fePlace s (s.x a) = false) : execFeqry rd a s = .next (takeTrap s s.cur false 5 (s.x a)) := by
  unfold execFeqry
  dsimp only
  rw [hp]
  exact feInstr_trap rfl _ _ _ s

end

theorem fullEmptyFaults : Spec.fullEmptyFaults := by
  intro s rd a b traps
  exact ⟨fun h => ⟨feLoad_misaligned h false, feLoad_misaligned h true, execStFe_misaligned h⟩,
    fun hp => ⟨feSetInstr_nowhere hp false, feSetInstr_nowhere hp true, execFeqry_nowhere hp,
      fun h => ⟨feLoad_nowhere h hp false, feLoad_nowhere h hp true, execStFe_nowhere h hp⟩⟩⟩

/-! Elsewhere (R89, R197, R211). -/

theorem fullEmptyAway : Spec.fullEmptyAway := by
  intro s rd a b ho hpl goes
  have hgoes {i : Instr} {t : State} (he : exec i s = finish s (ready (placesFor s s.cur 1)) t) : goes i t := by
    simp only [goes, he]
    exact finish_places s 1 t
  refine ⟨fun hrd => ⟨hgoes ?_, fun ha hl => hgoes ?_, fun ha hl => hgoes ?_⟩, fun hr ha hl => hgoes ?_, fun hr hl => ⟨hgoes ?_, hgoes ?_⟩⟩
  · exact (execFeqry_checked hpl hrd).trans (feInstr_holds ho (fun _ h => by cases h) _)
  · exact (feLoad_checked ha hpl hl hrd).trans (feInstr_holds ho (fun _ h => by cases h) _)
  · exact (feLoad_checked ha hpl hl hrd).trans (feInstr_holds ho (fun _ h => by cases h) _)
  · exact (execStFe_checked ha hpl hl hr).trans (feInstr_holds ho (fun _ h => by cases h) _)
  · exact (feSetInstr_checked hpl hl hr false).trans (feInstr_posts ho false _)
  · exact (feSetInstr_checked hpl hl hr true).trans (feInstr_posts ho true _)

/-- Settles O33: at home by `feAt` and what waits on the granule, elsewhere by one packet. -/
theorem fullEmptyOperations : Obligations.FullEmptyOperations := ⟨fullEmptyAtHome, fullEmptyWaits, fullEmptyFaults, fullEmptyAway⟩

end Sys2Proof.Machine

namespace Sys2Proof.Machine
open Sys2Proof

/-! Requests, replies and stream images: which of two failed stores a hart records (R90). -/

/-- A store of hart 0 has failed, as packet 0; the error reply of another, packet 1, has come to its cluster. -/
def secondFailure : State :=
  { State.reset with net := [{ id := 1, hart := 0, slot := none, key := 0, body := .reply 0 false (.posted false) (.err 5 0 0) }], nextId := 2 }.modHart 0
    fun H => { H with failed := some { id := 0, cause := 7, addr := 64, count := 1, host := false, scope := 0 } }

/-- The number of the failed store that hart 0 records. -/
def recordedFailure : Host.Outcome State Fault Refusal → Option Nat
  | .next t => (t.hart 0).failed.map FailRec.id
  | _ => none

/-- R90: the older failure stays recorded. -/
theorem recordedFailure_errorReply : recordedFailure (exec (.errorReply 1) secondFailure) = some 0 := by decide

/-- Refutes O46: of two failed posted stores its clause of the error reply records the younger, packet 1 here, where the model
keeps the older, packet 0, as R90 says. -/
theorem not_networkSteps : ¬ Obligations.NetworkSteps := by
  unfold Obligations.NetworkSteps
  intro h
  obtain ⟨-, -, -, -, hposted, -⟩ := h secondFailure 1 _ rfl
  have he := hposted 0 false false 5 0 0 rfl (by decide) fun _ => rfl
  have hr := recordedFailure_errorReply
  rw [he] at hr
  exact absurd hr (by decide)

end Sys2Proof.Machine

namespace Sys2Proof.Machine
open Sys2Proof

/-! VLOOP and the words of its body (R145, R147). -/

/-- A change of the executing hart that sends control to `d` and retires its word: registers and loop levels stay. -/
theorem modHart_jumped {s : State} {f : Hart → Hart} {d : Word} (hregs : ∀ q n, (f s.me).getReg q n = s.me.getReg q n)
    (hrest : SameButRetire s.me (f s.me)) (hloops : (f s.me).csr = s.me.csr) (hpc : (f s.me).pc = d) : Jumped s (s.modHart s.cur f) d := by
  have hme : (s.modHart s.cur f).me = f s.me := State.modHart_me s f
  exact ⟨⟨rfl, rfl, rfl, rfl, rfl, rfl, rfl, rfl, rfl, rfl, rfl, rfl⟩, fun _ => rfl, fun h hh => State.modHart_hart_ne _ _ _ hh,
    hme ▸ hregs, hme ▸ hrest, hme ▸ hloops, hme ▸ hpc⟩

/-- The hart past a body of n words whose count is 0; the checker has counted the VLOOP and its body. -/
def pastBody (s : State) (n : Nat) (H : Hart) : Hart :=
  let T := retireCommon H false false
  { T with pc := H.pc + word (4 + 4 * n), arrival := .seq, broken := none, chk := { T.chk with run := vloopCrc s (coreOf s.cur) H H.pc n [] } }

/-- The hart at the first word of a body of n words, whose passes register r counts. -/
def intoBody (n r : Nat) (H : Hart) : Hart :=
  { retireCommon H false false with pc := H.pc + 4, arrival := .seq, broken := none, vloop := some { pc := H.pc, len := n, at_ := 0, reg := r } }

theorem exec_vloop (s : State) (rs1 : BitVec 5) (len : BitVec 4) : exec (.vloop rs1 len) s =
    .next (s.modHart s.cur fun H => if s.x rs1 = 0 then pastBody s (len.toNat + 1) H else intoBody (len.toNat + 1) rs1.toNat H) := rfl

theorem vloopStarts : Spec.vloopStarts := by
  intro s rs1 len n
  rw [exec_vloop]
  refine ⟨fun h => ?_, fun h => ?_⟩
  · simp only [if_pos h]
    exact ⟨_, rfl, modHart_jumped (fun q n => getReg_congr rfl rfl rfl rfl q n) rfl rfl rfl, by rw [State.modHart_me]; rfl⟩
  · simp only [if_neg h]
    exact ⟨_, rfl, modHart_jumped (fun q n => getReg_congr rfl rfl rfl rfl q n) rfl rfl rfl, by rw [State.modHart_me]; rfl⟩

section
variable {s : State} {h : Nat} {v : VLoop} (hv : (s.hart h).vloop = some v)
include hv

theorem retiredHart_inBody (ha : v.at_ + 1 < v.len) : retiredHart s h = bodyWord (s.hart h) v := by
  unfold retiredHart
  simp only [hv]
  exact if_pos ha

theorem retiredHart_lastPass (ha : v.at_ + 1 = v.len) (h1 : (s.hart h).getX v.reg = 1) :
    retiredHart s h = bodyEnd (s.hart h) v (vloopCrc s (coreOf h) (s.hart h) v.pc v.len v.queue) := by
  unfold retiredHart
  simp only [hv]
  exact (if_neg (by omega)).trans (if_pos h1)

theorem retiredHart_nextPass (ha : v.at_ + 1 = v.len) (h1 : (s.hart h).getX v.reg ≠ 1) : retiredHart s h = bodyAgain (s.hart h) v := by
  unfold retiredHart
  simp only [hv]
  exact (if_neg (by omega)).trans (if_neg h1)

end

/-- A word within the body, but in the last pass: no loop level is evaluated. -/
theorem bodyWord_of_passes {H : Hart} {v : VLoop} (h : H.getX v.reg ≠ 1) :
    bodyWord H v = { follow H (H.csr, none, false) false with vloop := some { v with at_ := v.at_ + 1 } } := by
  unfold bodyWord
  rw [if_neg h]
  rfl

theorem bodyAgain_count {H : Hart} {v : VLoop} (h : v.reg ≠ 0) : (bodyAgain H v).getX v.reg = H.getX v.reg - 1 :=
  Hart.getX_setX_same (retireCommon H false false) h _

theorem bodyAgain_csr (H : Hart) (v : VLoop) : (bodyAgain H v).csr = H.csr := by
  unfold bodyAgain
  rw [Hart.setX_rest]; rfl

theorem bodyEnd_count {H : Hart} {v : VLoop} (h : H.getX v.reg = 1) (run : BitVec 12) : (bodyEnd H v run).getX v.reg = 0 := by
  have h0 : v.reg ≠ 0 := fun e => by
    rw [e, Hart.getX_zero] at h
    exact absurd h (by decide)
  have hset := Hart.getX_setX_same (follow H (loopEval H.csr H.pc) false) h0 (H.getX v.reg - 1)
  exact hset.trans (by rw [h]; rfl)

theorem bodyEnd_pc (H : Hart) (v : VLoop) (run : BitVec 12) : (bodyEnd H v run).pc = nextPc H := by
  unfold bodyEnd
  rw [Hart.setX_rest]
  exact loopEval_next H

theorem vloopPasses : Spec.vloopPasses := by
  intro s v hv T last
  have hT : T = retiredHart s s.cur := State.setHart_me s _
  refine ⟨fun ha h1 => ?_, fun ha h1 => ?_, fun ha h1 => ?_, fun q n hne => (retire_retired s).regs q n ?_⟩
  · rw [hT, retiredHart_inBody hv ha, bodyWord_of_passes (H := s.hart s.cur) h1]
    exact ⟨rfl, rfl, rfl, rfl⟩
  · rw [hT, retiredHart_nextPass hv ha h1]
    exact ⟨rfl, bodyAgain_csr _ v, rfl, bodyAgain_count⟩
  · rw [hT, retiredHart_lastPass hv ha h1]
    exact ⟨rfl, bodyEnd_pc _ v _, bodyEnd_count h1 _⟩
  · rw [countsPasses, hv, Bool.and_eq_false_iff]
    by_contra hc
    simp only [not_or, Bool.not_eq_false, beq_iff_eq] at hc
    exact hne (Prod.ext hc.1 hc.2.symm)

/-- Settles O17: VLOOP by its count, and the words of its body by their place in it and by the pass. -/
theorem sequencerLoops : Obligations.SequencerLoops := ⟨vloopStarts, vloopPasses⟩

end Sys2Proof.Machine

namespace Sys2Proof.Machine
open Sys2Proof

/-! The branch-outcome queue (R148, R149). -/

theorem exec_bqput (s : State) (r : BitVec 5) : exec (.bqput r) s =
    finish s (need (decide (s.me.bq.length < 16)) 54 (streamTval 6 0)) (retireWith s fun H => { H with bq := H.bq ++ [s.x r] }) := rfl

theorem exec_bqget_some {s : State} {v : Word} {l : List Word} (h : s.me.bq = v :: l) (r : BitVec 5) :
    exec (.bqget r) s = finish s (armedW s r) (retireWith s fun H => { H.setX r.toNat v with bq := l }) := by
  change execBqget r s = _
  unfold execBqget
  rw [h]

theorem exec_bqget_nil {s : State} (h : s.me.bq = []) (r : BitVec 5) : exec (.bqget r) s = finish s (.trap 54 (streamTval 7 0)) s := by
  change execBqget r s = _
  unfold execBqget
  rw [h]

/-- Settles O19, by the length of the queue. -/
theorem branchQueue : Obligations.BranchQueue := by
  intro s r
  refine ⟨fun h => ?_, fun h => ?_, fun v l h hr => ?_, fun h => ?_⟩
  · rw [exec_bqput, (need_ok_iff _ _ _).2 (decide_eq_true h)]
    exact ⟨_, rfl, retireWith_retired s fun H => { H with bq := H.bq ++ [s.x r] }⟩
  · rw [exec_bqput, decide_eq_false (Nat.not_lt.2 h)]
    exact finish_trap_none s _ 54 _
  · rw [exec_bqget_some h, (armedW_ok_iff s r).2 hr]
    exact ⟨_, rfl, retireWith_retired s fun H => { H.setX r.toNat v with bq := l }⟩
  · rw [exec_bqget_nil h]
    exact finish_trap_none s s 54 _

end Sys2Proof.Machine

namespace Sys2Proof.Machine
open Sys2Proof

/-! Stream and channel bindings (R119, R121, R122, R307, R308). -/

section
variable {s R : State} (h : Spec.OnlyRows s R)
include h

theorem OnlyRows.me_eq : R.me = s.me := by rw [State.me, OnlyRows.hart_eq h, h.2.2.2]; rfl

theorem OnlyRows.contextPre_eq (r : Nat) : contextPre R r = contextPre s r := by
  have hu : contextsUsed R (coreOf s.cur) = contextsUsed s (coreOf s.cur) := by
    unfold contextsUsed
    simp only [OnlyRows.hart_eq h]
  unfold contextPre
  rw [OnlyRows.me_eq h, h.2.2.2, hu]

end

theorem readRecord_nextId (s : State) (a : Word) (align n : Nat) : (readRecord s a align n).nextId = s.nextId := by
  unfold readRecord
  split
  · split
    · rfl
    · exact scrub_nextId _ _ _ _
  · rfl

theorem exec_sunbind (s : State) (v : BitVec 3) :
    exec (.sunbind v) s = finish s (unbindPre s.me (24 + v.toNat)) (retireWith s fun H => unbind H (24 + v.toNat)) := rfl

/-- The hart whose register r is bound anew, to kind k, as binding b. -/
def boundTo (k : StreamKind) (b r : Nat) (H : Hart) : Hart := setStream (unbind H r) r { kind := k, born := b }

section
variable {s : State} {v : BitVec 3} {a : BitVec 5} (hu : unbindPre s.me (24 + v.toNat) = .ok) (hc : contextPre s (24 + v.toNat) = .ok)
include hu hc

/-- A binding word past the checks of its record ends in those of its shape: SBIND's checks of the register are those before the read. -/
theorem sbind_read (hr : recordPre s (s.x a) 8 = .ok) (hp : poisonPre (readRecord s (s.x a) 8 32) (s.x a) 32 = .ok) (mk : Shape → StreamKind) :
    sbind v a mk s = finish (readRecord s (s.x a) 8 32)
      (if (parseShape (recordBytes s (s.x a) 32)).valid then .ok else streamBad 5 (24 + v.toNat))
      (retireWith (readRecord s (s.x a) 8 32) (boundTo (mk (parseShape (recordBytes s (s.x a) 32))) s.nextId (24 + v.toNat))) := by
  obtain ⟨hR, hpkg⟩ := readRecord_rest s (s.x a) 8 32
  have hid := readRecord_nextId s (s.x a) 8 32
  unfold sbind streamReg
  extract_lets A r R shp
  change Spec.OnlyRows s R at hR
  change R.pkg = s.pkg at hpkg
  change R.nextId = s.nextId at hid
  change poisonPre R A 32 = .ok at hp
  have hshp : shp = parseShape (recordBytes s A 32) := congrArg parseShape (OnlyRows.recordBytes_eq hR hpkg A 32)
  have hr' : recordPre R A 8 = .ok := (OnlyRows.recordPre_eq hR hpkg A 8).trans hr
  have hu' : unbindPre R.me r = .ok := by rw [OnlyRows.me_eq hR]; exact hu
  have hc' : contextPre R r = .ok := (OnlyRows.contextPre_eq hR r).trans hc
  rw [hr', hp, hu', hc', hid, hshp]
  cases hv : (parseShape (recordBytes s A 32)).valid <;> rfl

theorem sbind_valid (hr : recordPre s (s.x a) 8 = .ok) (hp : poisonPre (readRecord s (s.x a) 8 32) (s.x a) 32 = .ok)
    (hv : (parseShape (recordBytes s (s.x a) 32)).valid = true) (mk : Shape → StreamKind) :
    ∃ t, sbind v a mk s = .next t ∧ Retired ((readRecord s (s.x a) 8 32).modHart s.cur
      (boundTo (mk (parseShape (recordBytes s (s.x a) 32))) s.nextId (24 + v.toNat))) t := by
  rw [sbind_read hu hc hr hp, if_pos hv]
  have ht := retireWith_retired (readRecord s (s.x a) 8 32) (boundTo (mk (parseShape (recordBytes s (s.x a) 32))) s.nextId (24 + v.toNat))
  rw [(readRecord_rest s (s.x a) 8 32).1.2.2.2] at ht
  exact ⟨_, rfl, ht⟩

theorem sbind_invalid (hr : recordPre s (s.x a) 8 = .ok) (hp : poisonPre (readRecord s (s.x a) 8 32) (s.x a) 32 = .ok)
    (hv : (parseShape (recordBytes s (s.x a) 32)).valid = false) (mk : Shape → StreamKind) :
    sbind v a mk s = .next (takeTrap (readRecord s (s.x a) 8 32) s.cur false 54 (BitVec.ofNat 64 (5 + 256 * (24 + v.toNat)))) := by
  rw [sbind_read hu hc hr hp, hv, if_neg Bool.false_ne_true, streamBad, finish_trap_none, (readRecord_rest s (s.x a) 8 32).1.2.2.2, Nat.mul_comm]
  rfl

theorem chbind_outbound (ho : bit (s.x a) 63 = true) (hz : bits (s.x a) 43 20 = 0) : exec (.chbind v a) s =
    .next (retireWith s (boundTo (.chOut (bits (s.x a) 0 16) (bits (s.x a) 16 25) (bits (s.x a) 41 2)) s.nextId (24 + v.toNat))) := by
  change execChbind v a s = _
  unfold execChbind streamReg
  extract_lets c r out ok kind
  have ho' : out = true := ho
  have hz' : bits c 43 20 = 0 := hz
  simp only [ok, kind, ho', hz', hu, hc, r, if_true, Bool.not_true, Bool.false_and, BEq.rfl]
  rfl

theorem chbind_inbound (ho : bit (s.x a) 63 = false) (hz : bits (s.x a) 16 47 = 0)
    (ht : tagBound s.me (24 + v.toNat) (bits (s.x a) 0 16) = false) :
    exec (.chbind v a) s = .next (retireWith s (boundTo (.chIn (bits (s.x a) 0 16)) s.nextId (24 + v.toNat))) := by
  change execChbind v a s = _
  unfold execChbind streamReg
  extract_lets c r out ok kind
  have ho' : out = false := ho
  have hz' : bits c 16 47 = 0 := hz
  have ht' : tagBound s.me r (bits c 0 16) = false := ht
  simp only [ok, kind, ho', hz', ht', hu, hc, r, Bool.and_false, if_true, Bool.false_eq_true, if_false, BEq.rfl]
  rfl

end

/-- Settles O32: a binding word past its checks is `boundTo`, and SUNBIND past its wait is `unbind`. -/
theorem bindings : Obligations.Bindings := by
  intro s v a hu r clear bound
  refine ⟨?_, fun hc => ⟨?_, fun ho hz => ?_, fun ho hz ht => ?_⟩⟩
  · rw [exec_sunbind, hu]
    exact ⟨_, rfl, retireWith_retired s clear⟩
  · intro R hr hp shp
    refine ⟨(readRecord_rest s (s.x a) 8 32).1, fun hv => ?_, fun hv => ?_⟩
    · exact ⟨sbind_valid hu hc hr hp hv .src, sbind_valid hu hc hr hp hv .dst⟩
    · exact ⟨sbind_invalid hu hc hr hp hv .src, sbind_invalid hu hc hr hp hv .dst⟩
  · exact ⟨_, chbind_outbound hu hc ho hz, retireWith_retired s _⟩
  · exact ⟨_, chbind_inbound hu hc ho hz ht, retireWith_retired s _⟩

end Sys2Proof.Machine

namespace Sys2Proof.Machine
open Sys2Proof

/-! Lanes of whole registers (R112, R113). -/

theorem lane_lt (w : Nat) (v : VReg) (k : Nat) : Spec.lane w v k < 2 ^ w := Nat.mod_lt _ (Nat.two_pow_pos _)

theorem lane_and (w : Nat) (a b : VReg) (k : Nat) : Spec.lane w (a &&& b) k = Spec.lane w a k &&& Spec.lane w b k := by
  simp only [Spec.lane, BitVec.toNat_and, ← Nat.shiftRight_eq_div_pow, Nat.shiftRight_and_distrib, Nat.and_mod_two_pow]

theorem lane_xor (w : Nat) (a b : VReg) (k : Nat) : Spec.lane w (a ^^^ b) k = Spec.lane w a k ^^^ Spec.lane w b k := by
  simp only [Spec.lane, BitVec.toNat_xor, ← Nat.shiftRight_eq_div_pow, Nat.shiftRight_xor_distrib, Nat.xor_mod_two_pow]

theorem chop_length (w : Nat) : ∀ n v, (chop w n v).length = n
  | 0, _ => rfl
  | n + 1, v => by rw [chop, List.length_cons, chop_length w n]

theorem lanes_length (w : Nat) (v : VReg) : (lanes w v).length = 512 / w := chop_length _ _ _

theorem lanes_getElem {w : Nat} {v : VReg} {k : Nat} (h : k < (lanes w v).length) : (lanes w v)[k] = Spec.lane w v k := by
  rw [← lanes_getD v (lanes_length w v ▸ h), List.getD_eq_getElem _ _ h]

/-- A lane of a register written from a list: the entry of the list, or 0 past its end. -/
theorem lane_ofLanes_getD {w k : Nat} (l : List Nat) (h : k < 512 / w) : Spec.lane w (ofLanes w l) k = l.getD k 0 % 2 ^ w := by
  have hlt : pack w (l.take (512 / w)) < 2 ^ 512 :=
    pack_lt_of_le ((Nat.mul_le_mul_left w (List.length_take_le _ _)).trans (Nat.mul_div_le 512 w))
  rw [Spec.lane, ofLanes, BitVec.toNat_ofNat, Nat.mod_eq_of_lt hlt, pack_lane, List.getD_eq_getElem?_getD,
    List.getElem?_take_of_lt h, List.getD_eq_getElem?_getD]

theorem lane_ofLanes {w k : Nat} {l : List Nat} (h : k < 512 / w) (hl : k < l.length) : Spec.lane w (ofLanes w l) k = l[k] % 2 ^ w := by
  rw [lane_ofLanes_getD l h, List.getD_eq_getElem _ _ hl]

/-- Every lane of v is the one that f gives. -/
def LanesAre (w : Nat) (v : VReg) (f : Nat → Nat) : Prop := ∀ k, k < 512 / w → Spec.lane w v k = f k

section
variable {w : Nat}

theorem lanesAre_map1 {g f : Nat → Nat} (h : ∀ a < 2 ^ w, g a = f a ∧ f a < 2 ^ w) (A : VReg) :
    LanesAre w (map1 w g A) fun k => f (Spec.lane w A k) := fun k hk => by
  obtain ⟨hg, hf⟩ := h _ (lane_lt w A k)
  rw [map1, lane_ofLanes hk (by rwa [List.length_map, lanes_length]), List.getElem_map, lanes_getElem, hg, Nat.mod_eq_of_lt hf]

theorem lanesAre_map2 {g f : Nat → Nat → Nat} (h : ∀ a < 2 ^ w, ∀ b < 2 ^ w, g a b = f a b ∧ f a b < 2 ^ w) (A B : VReg) :
    LanesAre w (map2 w g A B) fun k => f (Spec.lane w A k) (Spec.lane w B k) := fun k hk => by
  obtain ⟨hg, hf⟩ := h _ (lane_lt w A k) _ (lane_lt w B k)
  rw [map2, lane_ofLanes hk (by simpa [lanes_length] using hk), List.getElem_zipWith, lanes_getElem, lanes_getElem, hg, Nat.mod_eq_of_lt hf]

theorem lanesAre_map3 {g f : Nat → Nat → Nat → Nat} (h : ∀ d a b, g d a b = f d a b ∧ f d a b < 2 ^ w) (D A B : VReg) :
    LanesAre w (map3 w g D A B) fun k => f (Spec.lane w D k) (Spec.lane w A k) (Spec.lane w B k) := fun k hk => by
  obtain ⟨hg, hf⟩ := h (Spec.lane w D k) (Spec.lane w A k) (Spec.lane w B k)
  rw [map3, lane_ofLanes hk (by simpa [lanes_length] using hk), List.getElem_zipWith, List.getElem_zipWith, lanes_getElem, lanes_getElem,
    lanes_getElem, hg, Nat.mod_eq_of_lt hf]

theorem lanesAre_fill {v : Nat} (h : v < 2 ^ w) : LanesAre w (fill w v) fun _ => v := fun k hk => by
  rw [fill, lane_ofLanes hk (by rwa [List.length_replicate]), List.getElem_replicate, Nat.mod_eq_of_lt h]

/-- R142: an index past the last lane gives 0. -/
theorem lanesAre_permute (A B : VReg) :
    LanesAre w (permute w A B) fun k => if Spec.lane w B k < 512 / w then Spec.lane w A (Spec.lane w B k) else 0 := fun k hk => by
  rw [permute, lane_ofLanes hk (by rwa [List.length_map, lanes_length]), List.getElem_map, lanes_getElem]
  dsimp only
  split
  · next hi => rw [lanes_getD A hi, Nat.mod_eq_of_lt (lane_lt _ _ _)]
  · next hi => rw [List.getD_eq_default _ _ (by rw [lanes_length]; omega), Nat.zero_mod]

/-- R143. -/
theorem lanesAre_slideDn (n : Nat) (A : VReg) :
    LanesAre w (slide w n false A) fun k => if k + n < 512 / w then Spec.lane w A (k + n) else 0 := fun k hk => by
  have hs : slide w n false A = ofLanes w ((lanes w A).drop n) := rfl
  rw [hs, lane_ofLanes_getD _ hk, List.getD_eq_getElem?_getD, List.getElem?_drop, ← List.getD_eq_getElem?_getD, Nat.add_comm n k]
  dsimp only
  split
  · next hi => rw [lanes_getD A hi, Nat.mod_eq_of_lt (lane_lt _ _ _)]
  · next hi => rw [List.getD_eq_default _ _ (by rw [lanes_length]; omega), Nat.zero_mod]

/-- R143. -/
theorem lanesAre_slideUp (n : Nat) (A : VReg) :
    LanesAre w (slide w n true A) fun k => if n ≤ k then Spec.lane w A (k - n) else 0 := fun k hk => by
  have hs : slide w n true A = ofLanes w (List.replicate n 0 ++ lanes w A) := rfl
  rw [hs, lane_ofLanes_getD _ hk]
  dsimp only
  split
  · next hi =>
    rw [List.getD_append_right _ _ _ _ (by rwa [List.length_replicate]), List.length_replicate, lanes_getD A (by omega),
      Nat.mod_eq_of_lt (lane_lt _ _ _)]
  · next hi =>
    rw [List.getD_append _ _ _ _ (by rw [List.length_replicate]; omega), List.getD_replicate _ (by omega), Nat.zero_mod]

end

/-! The pairwise tree (R138). -/

theorem pairUp_getD (g : Nat → Nat → Nat) : ∀ (n : Nat) (l : List Nat), l.length = 2 * n → ∀ j < n,
    (pairUp g l).getD j 0 = g (l.getD (2 * j) 0) (l.getD (2 * j + 1) 0)
  | n + 1, a :: b :: r, h, 0, _ => rfl
  | n + 1, a :: b :: r, h, j + 1, hj => by
    rw [pairUp, List.getD_cons_succ, pairUp_getD g n r (by simp only [List.length_cons] at h; omega) j (by omega)]
    rfl

theorem pairUp_length (g : Nat → Nat → Nat) : ∀ (n : Nat) (l : List Nat), l.length = 2 * n → (pairUp g l).length = n
  | 0, [], _ => rfl
  | n + 1, a :: b :: r, h => by
    rw [pairUp, List.length_cons, pairUp_length g n r (by simp only [List.length_cons] at h; omega)]

/-- Neighbours combined first are the lowest level of the tree. -/
theorem tree_pairs (g : Nat → Nat → Nat) (A : Nat → Nat) : ∀ k j,
    Spec.tree g (fun i => g (A (2 * i)) (A (2 * i + 1))) k j = Spec.tree g A (k + 1) (2 * j)
  | 0, _ => rfl
  | k + 1, j => by
    rw [Spec.tree, tree_pairs g A k j, tree_pairs g A k (j + 2 ^ k), Nat.mul_add, ← Nat.pow_succ']
    rfl

/-- Trees over lanes that agree, of operations that agree where P holds and keep it. -/
theorem tree_congr {P : Nat → Prop} {f g : Nat → Nat → Nat} {A B : Nat → Nat} {n : Nat} (hA : ∀ i < n, A i = B i ∧ P (B i))
    (hop : ∀ x y, P x → P y → f x y = g x y ∧ P (g x y)) : ∀ k j, j + 2 ^ k ≤ n →
    Spec.tree f A k j = Spec.tree g B k j ∧ P (Spec.tree g B k j)
  | 0, j, h => hA j (by omega)
  | k + 1, j, h => by
    have hk : 0 < 2 ^ k := Nat.two_pow_pos k
    obtain ⟨e1, p1⟩ := tree_congr hA hop k j (by omega)
    obtain ⟨e2, p2⟩ := tree_congr hA hop k (j + 2 ^ k) (by omega)
    rw [Spec.tree, Spec.tree, e1, e2]
    exact hop _ _ p1 p2

theorem treeOf_eq (g : Nat → Nat → Nat) : ∀ (k : Nat) (l : List Nat), l.length = 2 ^ k → treeOf g k l = Spec.tree g (fun i => l.getD i 0) k 0
  | 0, [a], _ => rfl
  | k + 1, l, h => by
    have h2 : l.length = 2 * 2 ^ k := h.trans Nat.pow_succ'
    have hp : ∀ i < 2 ^ k, (pairUp g l).getD i 0 = g (l.getD (2 * i) 0) (l.getD (2 * i + 1) 0) ∧ True := fun i hi => ⟨pairUp_getD g _ l h2 i hi, trivial⟩
    rw [treeOf, treeOf_eq g k _ (pairUp_length g _ l h2), (tree_congr (P := fun _ => True) hp (fun _ _ _ _ => ⟨rfl, trivial⟩) k 0 (by omega)).1]
    exact tree_pairs g (fun i => l.getD i 0) k 0

/-- R138: a reduction is its tree, in every lane. -/
theorem lanesAre_reduce {w : Nat} (hw : w ∈ [8, 16, 32]) {f g : Nat → Nat → Nat}
    (h : ∀ a < 2 ^ w, ∀ b < 2 ^ w, g a b = f a b ∧ f a b < 2 ^ w) (A : VReg) :
    LanesAre w (reduce w g A) fun _ => Spec.tree f (Spec.lane w A) (Spec.lgLanes w) 0 := by
  have hlg : Nat.log2 (512 / w) = Spec.lgLanes w ∧ 512 / w = 2 ^ Spec.lgLanes w := by
    clear h
    revert w
    decide
  have hA : ∀ i < 512 / w, (lanes w A).getD i 0 = Spec.lane w A i ∧ Spec.lane w A i < 2 ^ w := fun i hi => ⟨lanes_getD A hi, lane_lt w A i⟩
  obtain ⟨ht, hlt⟩ := tree_congr (P := (· < 2 ^ w)) hA (fun x y hx hy => h x hx y hy) (Spec.lgLanes w) 0 (by omega)
  rw [reduce, hlg.1, treeOf_eq g _ _ ((lanes_length w A).trans hlg.2), ht]
  exact lanesAre_fill hlt

end Sys2Proof.Machine

namespace Sys2Proof.Machine
open Sys2Proof

/-! Lane operations: float results fit their lanes (R115, R144, R151). -/

theorem withSign_lt {F : FFmt} {n : Nat} (h : n < F.signBit) (neg : Bool) : F.withSign neg n < 2 * F.signBit := by
  unfold FFmt.withSign
  split <;> omega

/-- The magnitude patterns of the float formats lie below their sign bit, the highest bit of the lane. -/
theorem ffmt_bounds {t : Fmt} {F : FFmt} (h : ffmt t = some F) :
    2 ^ t.width = 2 * F.signBit ∧ F.canonNaN < F.signBit ∧ F.infPat < F.signBit ∧ F.maxFin < F.signBit := by
  revert h
  cases t <;> intro h <;> cases h <;> decide

section
variable {t : Fmt} {F : FFmt} (h : ffmt t = some F)
include h

theorem canonNaN_lt : F.canonNaN < 2 ^ t.width := by
  obtain ⟨hw, hn, -, -⟩ := ffmt_bounds h
  omega

theorem infPat_lt : F.infPat < 2 ^ t.width := by
  obtain ⟨hw, -, hi, -⟩ := ffmt_bounds h
  omega

theorem signed_lt {n : Nat} (hn : n < F.signBit) (neg : Bool) : F.withSign neg n < 2 ^ t.width :=
  (ffmt_bounds h).1 ▸ withSign_lt hn neg

theorem signedInf_lt (neg : Bool) : F.withSign neg F.infPat < 2 ^ t.width := signed_lt h (ffmt_bounds h).2.2.1 neg

/-- A pattern that has not overflowed. -/
theorem signedFin_lt {p : Nat} (hp : ¬ F.maxFin < p) (neg : Bool) : F.withSign neg p < 2 ^ t.width :=
  signed_lt h (Nat.lt_of_le_of_lt (Nat.not_lt.1 hp) (ffmt_bounds h).2.2.2) neg

theorem rne_lt (x : FVal) : rne F x < 2 ^ t.width := by
  cases x with
  | nan => exact canonNaN_lt h
  | inf neg =>
    unfold rne
    dsimp only
    split
    · exact signedInf_lt h neg
    · exact canonNaN_lt h
  | fin neg m e =>
    unfold rne
    dsimp only
    split
    · split
      · exact signedInf_lt h neg
      · exact canonNaN_lt h
    · next hp => exact signedFin_lt h hp neg

theorem rneSticky_lt (neg : Bool) (m : Nat) (e : Int) (sticky : Bool) : rneSticky F neg m e sticky < 2 ^ t.width := by
  unfold rneSticky
  dsimp only
  split
  · exact signedInf_lt h neg
  · next hp => exact signedFin_lt h hp neg

/-- R144: each special function ends in a rounding, a NaN, an infinity or a zero. -/
theorem exp2_lt (x : FVal) : exp2 F x < 2 ^ t.width := by
  have hz : 0 < 2 ^ t.width := Nat.two_pow_pos _
  unfold exp2
  dsimp only
  repeat' split
  all_goals simp only [hz, canonNaN_lt h, infPat_lt h, rne_lt h, rneSticky_lt h]

theorem log2_lt (x : FVal) : log2 F x < 2 ^ t.width := by
  unfold log2
  dsimp only
  repeat' split
  all_goals simp only [canonNaN_lt h, infPat_lt h, signedInf_lt h, rne_lt h, rneSticky_lt h]

theorem rcp_lt (x : FVal) : rcp F x < 2 ^ t.width := by
  have hz (neg : Bool) : F.withSign neg 0 < 2 ^ t.width := signedFin_lt h (Nat.not_lt_zero _) neg
  unfold rcp
  dsimp only
  repeat' split
  all_goals simp only [hz, canonNaN_lt h, signedInf_lt h, rneSticky_lt h]

theorem rsq_lt (x : FVal) : rsq F x < 2 ^ t.width := by
  have hz : 0 < 2 ^ t.width := Nat.two_pow_pos _
  unfold rsq
  dsimp only
  repeat' split
  all_goals simp only [hz, canonNaN_lt h, signedInf_lt h, rneSticky_lt h]

end

/-! Lane operations: integers (R114). -/

theorem width_pos (t : Fmt) : 0 < t.width := by cases t <;> decide

theorem width_mem {t : Fmt} (h : Spec.arith t = true) : t.width ∈ [8, 16, 32] := by
  revert h
  cases t <;> decide

/-- A float type has a layout. -/
theorem ffmt_isFlt {t : Fmt} (h : t.isFlt = true) : ∃ F, ffmt t = some F := by
  revert h
  cases t <;> simp [ffmt, Fmt.isFlt]

/-- An arithmetic type without a float layout is an integer type. -/
theorem isInt_iff_ffmt {t : Fmt} (h : Spec.arith t = true) : t.isInt = true ↔ ffmt t = none := by
  revert h
  cases t <;> decide

theorem toSigned_eq_toInt {w a : Nat} (hw : 0 < w) (h : a < 2 ^ w) : toSigned w a = (BitVec.ofNat w a).toInt := by
  have h2 : 2 ^ w = 2 * 2 ^ (w - 1) := by rw [← Nat.pow_succ', Nat.succ_eq_add_one, Nat.sub_add_cancel hw]
  rw [BitVec.toInt_eq_toNat_cond, BitVec.toNat_ofNat, Nat.mod_eq_of_lt h, toSigned]
  have hiff : 2 * a < 2 ^ w ↔ a < 2 ^ (w - 1) := by omega
  simp only [hiff]
  push_cast
  rfl

theorem intLane_eq_num {t : Fmt} {a : Nat} (h : a < 2 ^ t.width) : intLane t a = Spec.num t a := by
  unfold intLane Spec.num
  rw [toSigned_eq_toInt (width_pos t) h]

theorem num_modEq (t : Fmt) (a : Nat) : Spec.num t a ≡ a [ZMOD 2 ^ t.width] := by
  unfold Spec.num
  split
  · rw [BitVec.toInt_ofNat', Int.ModEq]
    exact_mod_cast Int.bmod_emod
  · rfl

theorem back_lt (w : Nat) (z : Int) : Spec.back w z < 2 ^ w := by
  have hp : (0 : Int) < 2 ^ w := by positivity
  have := Int.emod_lt_of_pos z hp
  have := Int.emod_nonneg z hp.ne'
  unfold Spec.back
  zify
  omega

theorem back_congr {w : Nat} {y z : Int} (h : y ≡ z [ZMOD 2 ^ w]) : Spec.back w y = Spec.back w z := congrArg Int.toNat h

theorem back_natCast (w n : Nat) : Spec.back w (n : Int) = n % 2 ^ w := by
  unfold Spec.back
  exact_mod_cast Int.toNat_natCast _

theorem back_num {t : Fmt} {a : Nat} (h : a < 2 ^ t.width) : Spec.back t.width (Spec.num t a) = a := by
  rw [back_congr (num_modEq t a), back_natCast, Nat.mod_eq_of_lt h]

/-! Lane operations: each is the spec's, and its result fits the lane (R133, R134, R136, R137, R139). -/

theorem laneOf_lt (t : Fmt) (f : Int → Int → Int) (g : FVal → FVal → FVal) (a b : Nat) : Spec.laneOf t f g a b < 2 ^ t.width := by
  unfold Spec.laneOf
  split
  · next F h => exact rne_lt h _
  · exact back_lt _ _

/-- A lane operation of an arithmetic type that is the integer one modulo 2^width, and the float one with one rounding. -/
theorem laneArith {t : Fmt} (ht : Spec.arith t = true) {f : Int → Int → Int} {g : FVal → FVal → FVal} {a b n : Nat}
    (hn : Spec.back t.width (f (Spec.num t a) (Spec.num t b)) = n) :
    (if t.isInt then n else fltLane t g a b) = Spec.laneOf t f g a b ∧ Spec.laneOf t f g a b < 2 ^ t.width := by
  refine ⟨?_, laneOf_lt _ _ _ _ _⟩
  unfold Spec.laneOf fltLane
  cases h : ffmt t with
  | none => rw [if_pos ((isInt_iff_ffmt ht).2 h), hn]
  | some F => rw [if_neg fun hi => by rw [(isInt_iff_ffmt ht).1 hi] at h; cases h]

section
variable {t : Fmt} (ht : Spec.arith t = true)
include ht

theorem laneAdd_spec (a b : Nat) : laneAdd t a b = Spec.laneOf t (· + ·) (FVal.add false) a b ∧ Spec.laneOf t (· + ·) (FVal.add false) a b < 2 ^ t.width := by
  refine laneArith ht ?_
  rw [← back_natCast, Nat.cast_add]
  exact back_congr ((num_modEq t a).add (num_modEq t b))

theorem laneSub_spec (a b : Nat) (hb : b < 2 ^ t.width) :
    laneSub t a b = Spec.laneOf t (· - ·) (fun x y => FVal.add false x y.neg) a b ∧
      Spec.laneOf t (· - ·) (fun x y => FVal.add false x y.neg) a b < 2 ^ t.width := by
  refine laneArith ht ?_
  rw [← back_natCast, Nat.cast_sub (by omega), Nat.cast_add, Nat.cast_pow, Nat.cast_ofNat, add_sub_right_comm]
  exact back_congr (((num_modEq t a).sub (num_modEq t b)).trans (Int.add_emod_right _ _).symm)

theorem laneMul_spec (a b : Nat) : laneMul t a b = Spec.laneOf t (· * ·) FVal.mul a b ∧ Spec.laneOf t (· * ·) FVal.mul a b < 2 ^ t.width := by
  refine laneArith ht ?_
  rw [← back_natCast, Nat.cast_mul]
  exact back_congr ((num_modEq t a).mul (num_modEq t b))

end

theorem beq_pick (below most : Bool) (a b : Nat) :
    (if below == most then b else a) = if most then (if below then b else a) else if below then a else b := by
  cases below <;> cases most <;> rfl

theorem laneMinMax_spec {t : Fmt} (most : Bool) {a b : Nat} (ha : a < 2 ^ t.width) (hb : b < 2 ^ t.width) :
    laneMinMax most t a b = Spec.laneLeast most t a b ∧ Spec.laneLeast most t a b < 2 ^ t.width := by
  unfold laneMinMax Spec.laneLeast
  cases h : ffmt t with
  | none =>
    refine ⟨?_, back_lt _ _⟩
    dsimp only
    rw [intLane_eq_num ha, intLane_eq_num hb]
    by_cases hlt : Spec.num t a < Spec.num t b
    · cases most
      · simp [hlt, min_eq_left hlt.le, back_num ha]
      · simp [hlt, max_eq_right hlt.le, back_num hb]
    · cases most
      · simp [hlt, min_eq_right (not_lt.1 hlt), back_num hb]
      · simp [hlt, max_eq_left (not_lt.1 hlt), back_num ha]
  | some F =>
    constructor
    · dsimp only
      generalize F.dec a = x
      generalize F.dec b = y
      cases x with
      | nan => cases y <;> rfl
      | inf | fin =>
        cases y
        case nan => rfl
        all_goals exact beq_pick _ _ _ _
    · have hn := canonNaN_lt h
      dsimp only
      repeat' split
      all_goals assumption

theorem laneFma_lt (sub : Bool) (t : Fmt) (d a b : Nat) : laneFma sub t d a b < 2 ^ t.width := by
  unfold laneFma
  split
  · next F h => exact rne_lt h _
  · exact Nat.two_pow_pos _

theorem laneShl_spec (w a b : Nat) : laneShift 0 w a b = a * 2 ^ (b % w) % 2 ^ w ∧ a * 2 ^ (b % w) % 2 ^ w < 2 ^ w :=
  ⟨rfl, Nat.mod_lt _ (Nat.two_pow_pos w)⟩

theorem laneShr_spec {w a : Nat} (ha : a < 2 ^ w) (b : Nat) : laneShift 1 w a b = a / 2 ^ (b % w) ∧ a / 2 ^ (b % w) < 2 ^ w :=
  ⟨rfl, Nat.lt_of_le_of_lt (Nat.div_le_self _ _) ha⟩

theorem laneSra_spec {w a : Nat} (hw : 0 < w) (ha : a < 2 ^ w) (b : Nat) :
    laneShift 2 w a b = Spec.back w ((BitVec.ofNat w a).toInt / 2 ^ (b % w)) ∧ Spec.back w ((BitVec.ofNat w a).toInt / 2 ^ (b % w)) < 2 ^ w := by
  refine ⟨?_, back_lt _ _⟩
  rw [← toSigned_eq_toInt hw ha]
  rfl

theorem laneAbs_spec {t : Fmt} (ht : t.isSig = true ∨ t.isFlt = true) {a : Nat} (ha : a < 2 ^ t.width) :
    laneAbs t a = Spec.laneSign false t a ∧ Spec.laneSign false t a < 2 ^ t.width := by
  unfold laneAbs Spec.laneSign
  cases h : ffmt t with
  | none =>
    have hs : t.isSig = true := ht.resolve_right fun hf => by
      obtain ⟨F, hF⟩ := ffmt_isFlt hf
      rw [h] at hF
      cases hF
    have hn : Spec.num t a = toSigned t.width a := by rw [← intLane_eq_num ha, intLane, if_pos hs]
    refine ⟨?_, back_lt _ _⟩
    dsimp only
    rw [if_neg Bool.false_ne_true, hn, toSigned]
    split
    · next hge =>
      have ha' : (a : Int) < 2 ^ t.width := by exact_mod_cast ha
      rw [if_neg (Nat.not_lt.2 hge), abs_of_neg (by omega), ← back_natCast, Nat.cast_sub ha.le, neg_sub]
      push_cast
      rfl
    · next hlt => rw [if_pos (Nat.not_le.1 hlt), Nat.abs_cast, back_natCast, Nat.mod_eq_of_lt ha]
  | some F =>
    obtain ⟨hw, -, -, -⟩ := ffmt_bounds h
    have hm : a % F.signBit < F.signBit := Nat.mod_lt _ (Nat.two_pow_pos _)
    dsimp only
    rw [if_neg Bool.false_ne_true]
    split
    · exact ⟨rfl, canonNaN_lt h⟩
    · exact ⟨rfl, by omega⟩

theorem laneNeg_spec {t : Fmt} {a : Nat} (ha : a < 2 ^ t.width) :
    laneNeg t a = Spec.laneSign true t a ∧ Spec.laneSign true t a < 2 ^ t.width := by
  unfold laneNeg Spec.laneSign
  cases h : ffmt t with
  | none =>
    refine ⟨?_, back_lt _ _⟩
    dsimp only
    rw [if_pos rfl, ← back_natCast, Nat.cast_sub ha.le, Nat.cast_pow, Nat.cast_ofNat]
    rw [sub_eq_neg_add]
    exact back_congr ((Int.add_emod_right _ _).trans (num_modEq t a).neg.symm)
  | some F =>
    obtain ⟨hw, hn, -, -⟩ := ffmt_bounds h
    dsimp only
    rw [if_pos rfl]
    split
    · exact ⟨rfl, canonNaN_lt h⟩
    · split
      · rw [Nat.mod_eq_sub_mod (by omega), Nat.mod_eq_of_lt (by omega)]
        omega
      · rw [Nat.mod_eq_of_lt (by omega)]
        omega

end Sys2Proof.Machine

namespace Sys2Proof.Machine
open Sys2Proof

/-! Results of custom-0 words, lane by lane (R133 to R144). -/

/-- R135: the four products of a lane and what it held. -/
theorem lanesAre_dot4 {ta tb : Fmt} (ha : ta.width = 8) (hb : tb.width = 8) (D A B : VReg) :
    LanesAre 32 (dot4 ta tb D A B) fun k => Spec.back 32 (Spec.lane 32 D k +
      (List.range 4 |>.map fun j => Spec.num ta (Spec.lane 8 A (4 * k + j)) * Spec.num tb (Spec.lane 8 B (4 * k + j))).sum) := fun k hk => by
  have hp : ∀ j < 4, (List.zipWith (fun x y => intLane ta x * intLane tb y) (lanes 8 A) (lanes 8 B)).getD (4 * k + j) 0 =
      Spec.num ta (Spec.lane 8 A (4 * k + j)) * Spec.num tb (Spec.lane 8 B (4 * k + j)) := fun j hj => by
    have hlt : 4 * k + j < 512 / 8 := by omega
    rw [List.getD_eq_getElem _ _ (by simpa [lanes_length] using hlt), List.getElem_zipWith, lanes_getElem, lanes_getElem,
      intLane_eq_num (ha ▸ lane_lt 8 A _), intLane_eq_num (hb ▸ lane_lt 8 B _)]
  unfold dot4
  rw [lane_ofLanes hk (by simpa using hk), List.getElem_map, List.getElem_range, lanes_getD D hk,
    show List.range 4 = [0, 1, 2, 3] from rfl, List.map_congr_left fun j hj => hp j (by revert hj; revert j; decide)]
  exact Nat.mod_eq_of_lt (back_lt 32 _)

/-- R134: one rounding. -/
theorem lanesAre_fma (sub : Bool) (t : Fmt) (D A B : VReg) : LanesAre t.width (map3 t.width (laneFma sub t) D A B) fun k =>
    laneFma sub t (Spec.lane t.width D k) (Spec.lane t.width A k) (Spec.lane t.width B k) :=
  lanesAre_map3 (fun d a b => ⟨rfl, laneFma_lt sub t d a b⟩) D A B

/-- R137: lane 0 in every lane. -/
theorem lanesAre_broadcast (w : Nat) (A : VReg) : LanesAre w (fill w ((lanes w A).headD 0)) fun _ => Spec.lane w A 0 := fun k hk => by
  have h0 : (lanes w A).headD 0 = Spec.lane w A 0 := by
    rw [← lanes_getD A (Nat.lt_of_le_of_lt (Nat.zero_le k) hk)]
    cases lanes w A <;> rfl
  rw [h0]
  exact lanesAre_fill (lane_lt w A 0) k hk

/-- R137: the lane numbers in a type. -/
theorem laneIdx_spec {t : Fmt} (ht : Spec.arith t = true) {k : Nat} (hk : k < 512 / t.width) :
    laneIdx t k = (match ffmt t with | some F => rne F (.fin false k 0) | none => k) ∧ laneIdx t k < 2 ^ t.width := by
  have hw : ∀ w ∈ [8, 16, 32], 512 / w < 2 ^ w := by decide
  have hlt : k < 2 ^ t.width := hk.trans (hw _ (width_mem ht))
  unfold laneIdx
  cases h : ffmt t with
  | none => exact ⟨Nat.mod_eq_of_lt hlt, Nat.mod_lt _ (Nat.two_pow_pos _)⟩
  | some F => exact ⟨rfl, rne_lt h _⟩

theorem lanesAre_idx {t : Fmt} (ht : Spec.arith t = true) :
    LanesAre t.width (ofLanes t.width ((List.range (laneCount t.width)).map (laneIdx t))) fun k =>
      match ffmt t with | some F => rne F (.fin false k 0) | none => k := fun k hk => by
  obtain ⟨he, hlt⟩ := laneIdx_spec ht hk
  rw [lane_ofLanes hk (by simpa [laneCount] using hk), List.getElem_map, List.getElem_range, Nat.mod_eq_of_lt hlt, he]

/-- R137: a scalar in a type fits its lane. -/
theorem splat_lt (t : Fmt) (f : Nat) (x : Nat) :
    (match ffmt t with | some F => rne F (f32F.dec f) | none => x % 2 ^ t.width) < 2 ^ t.width := by
  split
  · next F h => exact rne_lt h _
  · exact Nat.mod_lt _ (Nat.two_pow_pos _)

theorem lane1_spec {t : Fmt} (ht : t.isFlt = true) {g : FFmt → FVal → Nat} (hg : ∀ F, ffmt t = some F → ∀ x, g F x < 2 ^ t.width) (a : Nat) :
    laneSpecial g t a = Spec.lane1 t g a ∧ Spec.lane1 t g a < 2 ^ t.width := by
  obtain ⟨F, h⟩ := ffmt_isFlt ht
  unfold laneSpecial Spec.lane1
  rw [h]
  exact ⟨rfl, hg F h _⟩

theorem laneCmp_eq (cc : Cc) {t : Fmt} {a b : Nat} (ha : a < 2 ^ t.width) (hb : b < 2 ^ t.width) : laneCmp cc t a b = Spec.laneTest cc t a b := by
  unfold laneCmp Spec.laneTest
  rw [intLane_eq_num ha, intLane_eq_num hb]
  cases ffmt t <;> cases cc <;> rfl

/-! The shapes of custom-0 words: checks, then the write of lanes that the form gives (R123, R124). -/

/-- The outcome is that of the form F: past its checks the word writes the lanes F gives and ends. -/
def RunsForm (s : State) (F : Spec.VecForm) (o : Host.Outcome State Fault Refusal) : Prop :=
  ∃ v, o = finish s (formChecks s F) (vretire s (vwrite s F.vd v) (F.srcs.map Prod.fst) F.lat F.sc [(.v, F.vd)]) ∧ LanesAre F.w v F.val

section
variable {s : State} {d a b : BitVec 5} {L : Nat} {sc : BitVec 3} {w : Nat} {val : Nat → Nat}

theorem vbin_runs {g : VReg → VReg → VReg} (h : LanesAre w (g (srcVal s.me a.toNat) (srcVal s.me b.toNat)) val) (wS wD : Option Nat) :
    RunsForm s ⟨d.toNat, [(a.toNat, wS), (b.toNat, wS)], false, wD, L, sc, w, val⟩ (vbin wS wD d a b L sc g s) := ⟨_, rfl, h⟩

theorem vacc_runs {g : VReg → VReg → VReg → VReg} (h : LanesAre w (g (s.me.getV d.toNat) (srcVal s.me a.toNat) (srcVal s.me b.toNat)) val)
    (wS : Nat) (wD : Option Nat) :
    RunsForm s ⟨d.toNat, [(a.toNat, some wS), (b.toNat, some wS)], true, wD, L, sc, w, val⟩ (vacc wS d a b L sc g s) := ⟨_, rfl, h⟩

theorem vun_runs {g : VReg → VReg} (h : LanesAre w (g (srcVal s.me a.toNat)) val) (wS wD : Option Nat) :
    RunsForm s ⟨d.toNat, [(a.toNat, wS)], false, wD, L, sc, w, val⟩ (vun wS wD d a L sc g s) := ⟨_, rfl, h⟩

theorem vgen_runs {v : VReg} (h : LanesAre w v val) : RunsForm s ⟨d.toNat, [], false, some w, L, sc, w, val⟩ (vgen w d L sc v s) :=
  ⟨v, congrArg (finish s · _) (Pre.all_single _).symm, h⟩

end

/-- A typed word past its formats runs its form. -/
theorem typed0_runs {t : VType} {s : State} {ok : Payload → Bool} {f : Payload → Spec.VecForm} {F : Spec.VecForm}
    {k : Payload → Host.Outcome State Fault Refusal} (h : Spec.onType t s ok f = some F) (hk : ∀ p, ok p = true → RunsForm s (f p) (k p)) :
    RunsForm s F (typed0 t s k) := by
  unfold Spec.onType at h
  obtain ⟨p, hp, hf⟩ := Option.bind_eq_some_iff.1 h
  split at hf
  · next hok =>
    cases hf
    unfold typed0
    rw [hp]
    exact hk p hok
  · cases hf

/-- Every custom-0 word of the table runs its form: the shape of the word, and its operation lane by lane. -/
theorem exec_runsForm {i : Instr} {s : State} {F : Spec.VecForm} (h : Spec.vecForm s i = some F) : RunsForm s F (exec i s) := by
  unfold Spec.vecForm at h
  split at h
  case h_1 => -- VADD
    exact typed0_runs h fun p hp => vbin_runs (lanesAre_map2 (fun a _ b _ => laneAdd_spec hp a b) _ _) _ _
  case h_2 => -- VSUB
    exact typed0_runs h fun p hp => vbin_runs (lanesAre_map2 (fun a _ b hb => laneSub_spec hp a b hb) _ _) _ _
  case h_3 => -- VMUL
    exact typed0_runs h fun p hp => vbin_runs (lanesAre_map2 (fun a _ b _ => laneMul_spec hp a b) _ _) _ _
  case h_4 | h_5 => -- VMIN, VMAX
    exact typed0_runs h fun p _ => vbin_runs (lanesAre_map2 (fun a ha b hb => laneMinMax_spec _ ha hb) _ _) _ _
  case h_6 => -- VFMA
    exact typed0_runs h fun p _ => vacc_runs (lanesAre_fma false p.fd _ _ _) _ _
  case h_7 => -- VFMS
    exact typed0_runs h fun p _ => vacc_runs (lanesAre_fma true p.fd _ _ _) _ _
  case h_8 => -- VDOT4
    refine typed0_runs h fun p hp => ?_
    simp only [Bool.and_eq_true, beq_iff_eq] at hp
    obtain ⟨⟨⟨ha, -⟩, hb⟩, -⟩ := hp
    exact vacc_runs (lanesAre_dot4 ha hb _ _ _) _ _
  case h_9 => -- VSHL
    exact typed0_runs h fun p _ => vbin_runs (lanesAre_map2 (fun a _ b _ => laneShl_spec _ a b) _ _) _ _
  case h_10 => -- VSHR
    exact typed0_runs h fun p _ => vbin_runs (lanesAre_map2 (fun a ha b _ => laneShr_spec ha b) _ _) _ _
  case h_11 => -- VSRA
    exact typed0_runs h fun p _ => vbin_runs (lanesAre_map2 (fun a ha b _ => laneSra_spec (width_pos _) ha b) _ _) _ _
  case h_12 => -- VAND
    cases h
    exact vbin_runs (fun k _ => lane_and 8 _ _ k) _ _
  case h_13 => -- VOR
    cases h
    exact vbin_runs (fun k _ => lane_or 8 _ _ k) _ _
  case h_14 => -- VXOR
    cases h
    exact vbin_runs (fun k _ => lane_xor 8 _ _ k) _ _
  case h_15 => -- VPERM
    cases h
    simp only [wBits_eq]
    exact vbin_runs (lanesAre_permute _ _) _ _
  case h_16 => -- VABS
    exact typed0_runs h fun p hp => vun_runs (lanesAre_map1 (fun a ha => laneAbs_spec (by simpa using hp) ha) _) _ _
  case h_17 => -- VNEG
    exact typed0_runs h fun p _ => vun_runs (lanesAre_map1 (fun a ha => laneNeg_spec ha) _) _ _
  case h_18 => -- VMOV
    exact typed0_runs h fun p _ => vun_runs (fun _ _ => rfl) _ _
  case h_19 => -- VEXP2
    exact typed0_runs h fun p hp => vun_runs (lanesAre_map1 (fun a _ => lane1_spec hp (fun _ h => exp2_lt h) a) _) _ _
  case h_20 => -- VLOG2
    exact typed0_runs h fun p hp => vun_runs (lanesAre_map1 (fun a _ => lane1_spec hp (fun _ h => log2_lt h) a) _) _ _
  case h_21 => -- VRCP
    exact typed0_runs h fun p hp => vun_runs (lanesAre_map1 (fun a _ => lane1_spec hp (fun _ h => rcp_lt h) a) _) _ _
  case h_22 => -- VRSQ
    exact typed0_runs h fun p hp => vun_runs (lanesAre_map1 (fun a _ => lane1_spec hp (fun _ h => rsq_lt h) a) _) _ _
  case h_23 => -- VRSUM
    exact typed0_runs h fun p hp => vun_runs (lanesAre_reduce (width_mem hp) (fun a _ b _ => laneAdd_spec hp a b) _) _ _
  case h_24 | h_25 => -- VRMAX, VRMIN
    exact typed0_runs h fun p hp => vun_runs (lanesAre_reduce (width_mem hp) (fun a ha b hb => laneMinMax_spec _ ha hb) _) _ _
  case h_26 => -- VIDX
    exact typed0_runs h fun p hp => vgen_runs (lanesAre_idx hp)
  case h_27 => -- VSPLAT
    exact typed0_runs h fun p _ => vgen_runs (lanesAre_fill (splat_lt _ _ _))
  case h_28 => -- VBCAST
    exact typed0_runs h fun p _ => vun_runs (lanesAre_broadcast _ _) _ _
  case h_29 => -- VSLIDE down
    cases h
    simp only [wBits_eq]
    exact vun_runs (lanesAre_slideDn _ _) _ _
  case h_30 => -- VSLIDE up
    cases h
    simp only [wBits_eq]
    exact vun_runs (lanesAre_slideUp _ _) _ _
  case h_31 => cases h

theorem formChecks_ready {s : State} {F : Spec.VecForm} (h : F.ready s) : formChecks s F = .ok := by
  obtain ⟨hs, hd⟩ := h
  have hall : ∀ l : List (Nat × Option Nat), (∀ q ∈ l, srcPre s q.2 q.1 = .ok) →
      Pre.all (l.map (fun q => srcPre s q.2 q.1) ++ [if F.acc then bothPre s F.vd else dstPre s F.wd F.vd]) = .ok := by
    intro l hl
    induction l with
    | nil => exact (Pre.all_single _).trans hd
    | cons q l ih =>
      rw [List.map_cons, List.cons_append, Pre.all_cons_ok_iff]
      exact ⟨hl q List.mem_cons_self, ih fun q hq => hl q (List.mem_cons_of_mem _ hq)⟩
  exact hall F.srcs hs

theorem vwrite_cur (s : State) (r : Nat) (v : VReg) : (vwrite s r v).cur = s.cur := by
  unfold vwrite vwriteAt
  split
  · rfl
  · split
    · exact send_cur _ _ _
    · rfl

/-- The end of a custom-0 word, as its form's effect and a retirement. -/
theorem vretire_retired (s : State) (F : Spec.VecForm) (v : VReg) :
    Retired (F.effect s v) (vretire s (vwrite s F.vd v) (F.srcs.map Prod.fst) F.lat F.sc [(.v, F.vd)]) := by
  have hregs : [(RFile.v, F.vd)].filter (fun r => r.1 != .v || (streamOf s.me r.2).isNone) =
      if (streamOf s.me F.vd).isNone then [(RFile.v, F.vd)] else [] := by
    cases h : (streamOf s.me F.vd).isNone <;> simp [h]
  have hr := retireWith_retired (vwrite s F.vd v) fun H => withLatency s.me ((F.srcs.map Prod.fst).foldl consume H) F.lat F.sc.toNat
    (if (streamOf s.me F.vd).isNone then [(RFile.v, F.vd)] else [])
  rw [← hregs, vwrite_cur] at hr
  rw [Spec.VecForm.effect, ← hregs]
  exact hr

/-- Settles O22: every form of the table runs, by the shape of its word and the lanes of its operation. -/
theorem vectorResults : Obligations.VectorResults := by
  intro i s F hF hr
  obtain ⟨v, he, hv⟩ := exec_runsForm hF
  rw [formChecks_ready hr] at he
  exact ⟨v, _, he, vretire_retired s F v, hv⟩

end Sys2Proof.Machine

namespace Sys2Proof.Machine
open Sys2Proof

/-! VCMP, VSEL and the mask forms (R139 to R141). -/

/-- A mask of Booleans has each at its place, and 0 above. -/
theorem ofMask_getLsbD (l : List Bool) {k : Nat} (hk : k < 64) : (ofMask l).getLsbD k = l.getD k false := by
  have hp := pack_lane 1 (l.map fun b => if b then 1 else 0) k
  rw [ofMask, word, BitVec.getLsbD_ofNat, Nat.testBit_eq_decide_div_mod_eq, decide_eq_true hk, Bool.true_and]
  rw [Nat.one_mul, Nat.pow_one] at hp
  rw [hp, List.getD_eq_getElem?_getD, List.getD_eq_getElem?_getD, List.getElem?_map]
  rcases l[k]? with _ | (_ | _) <;> rfl

/-- What VCMP writes to its mask register. -/
def compareMask (s : State) (cc : Cc) (t : Fmt) (a b : BitVec 5) : Word :=
  ofMask (List.zipWith (laneCmp cc t) (lanes t.width (srcVal s.me a.toNat)) (lanes t.width (srcVal s.me b.toNat)))

theorem exec_vcmp {s : State} {t : VType} {p : Payload} (h : typesOf t s.me = some p) (md : BitVec 3) (cc : Cc) (a b : BitVec 5) (sc : BitVec 3) :
    exec (.vcmp md cc a b t sc) s = finish s (.all [srcPre s (some p.fa.width) a.toNat, srcPre s (some p.fa.width) b.toNat])
      (vretire s (s.modHart s.cur fun H => H.setM md.toNat (compareMask s cc p.fa a b)) [a.toNat, b.toNat] 2 sc [(.m, md.toNat)]) := by
  change execVcmp md cc a b t sc s = _
  unfold execVcmp typed0
  rw [h]
  rfl

/-- A mask register is no stream: its result always takes the word's latency. -/
theorem vretire_mask_retired (s : State) (md : BitVec 3) (v : Word) (a b : Nat) (L : Nat) (sc : BitVec 3) :
    Retired (s.modHart s.cur fun H => withLatency s.me (consume (consume (H.setM md.toNat v) a) b) L sc.toNat [(.m, md.toNat)])
      (vretire s (s.modHart s.cur fun H => H.setM md.toNat v) [a, b] L sc [(.m, md.toNat)]) := by
  have hr := retireWith_retired (s.modHart s.cur fun H => H.setM md.toNat v)
    fun H => withLatency s.me (consume (consume H a) b) L sc.toNat [(.m, md.toNat)]
  rw [State.modHart_cur, State.modHart_modHart] at hr
  exact hr

theorem compareMask_getLsbD (s : State) (cc : Cc) (t : Fmt) (a b : BitVec 5) {k : Nat} (hk : k < 64) :
    (compareMask s cc t a b).getLsbD k =
      (decide (k < 512 / t.width) && Spec.laneTest cc t (Spec.inLane s t.width a k) (Spec.inLane s t.width b k)) := by
  rw [compareMask, ofMask_getLsbD _ hk]
  by_cases hl : k < 512 / t.width
  · rw [List.getD_eq_getElem _ _ (by simpa [lanes_length] using hl), List.getElem_zipWith, lanes_getElem, lanes_getElem,
      laneCmp_eq cc (lane_lt _ _ _) (lane_lt _ _ _), decide_eq_true hl, Bool.true_and]
    rfl
  · rw [List.getD_eq_default _ _ (by simpa [lanes_length] using hl), decide_eq_false hl, Bool.false_and]

theorem vectorCompares : Spec.vectorCompares := by
  intro s md cc a b t sc p ht _ ha hb
  have he := exec_vcmp ht md cc a b sc
  rw [ha, hb] at he
  exact ⟨compareMask s cc p.fa a b, _, he, vretire_mask_retired s md _ _ _ _ _, fun k hk => compareMask_getLsbD s cc p.fa a b hk⟩

theorem maskBits_getElem {n k : Nat} {m : Word} (h : k < (maskBits n m).length) : (maskBits n m)[k] = m.getLsbD k := by
  simp [maskBits, bit]

/-- What VSEL writes to its destination. -/
def selected (n : Nat) (M : Word) (A B : VReg) : VReg :=
  ofLanes n (List.zipWith (fun (x : Nat × Nat) (k : Bool) => if k then x.1 else x.2) ((lanes n A).zip (lanes n B)) (maskBits (512 / n) M))

theorem lanesAre_selected (n : Nat) (M : Word) (A B : VReg) :
    LanesAre n (selected n M A B) fun k => if M.getLsbD k then Spec.lane n A k else Spec.lane n B k := fun k hk => by
  rw [selected, lane_ofLanes hk (by simpa [lanes_length, maskBits] using hk), List.getElem_zipWith, List.getElem_zip, lanes_getElem, lanes_getElem,
    maskBits_getElem]
  dsimp only
  split
  · exact Nat.mod_eq_of_lt (lane_lt _ _ _)
  · exact Nat.mod_eq_of_lt (lane_lt _ _ _)

theorem exec_vsel (s : State) (d a b : BitVec 5) (mk : BitVec 3) (w : VWidth) :
    let n := VWidth.bits w
    exec (.vsel d a b mk w) s = finish s (.all [srcPre s (some n) a.toNat, srcPre s (some n) b.toNat, dstPre s (some n) d.toNat])
      (retireWith (vwrite s d.toNat (selected n (s.me.getM mk.toNat) (srcVal s.me a.toNat) (srcVal s.me b.toNat)))
        fun H => consume (consume H a.toNat) b.toNat) := rfl

theorem vectorSelect : Spec.vectorSelect := by
  intro s d a b mk w n ha hb hd
  have hn : n = VWidth.bits w := wBits_eq w
  rw [hn] at ha hb hd ⊢
  have he := exec_vsel s d a b mk w
  dsimp only at he
  rw [ha, hb, hd] at he
  have hr := retireWith_retired (vwrite s d.toNat (selected (VWidth.bits w) (s.me.getM mk.toNat) (srcVal s.me a.toNat) (srcVal s.me b.toNat)))
    fun H => consume (consume H a.toNat) b.toNat
  rw [vwrite_cur] at hr
  exact ⟨_, _, he, hr, lanesAre_selected _ _ _ _⟩

theorem maskForms : Spec.maskForms := by
  intro s rd md m1 m2 A B set
  have hset (v : Word) : ∃ t, maskOp md v s = .next t ∧ Retired (set v) t := ⟨_, rfl, retireWith_retired s _⟩
  refine ⟨hset _, hset _, hset _, hset _, fun hr => ?_⟩
  have he : exec (.mpop rd m1) s = execMpop rd m1 s := rfl
  have hcount : ((maskBits 64 A).filter id).length = (List.range 64).countP fun k => A.getLsbD k := by
    rw [← List.countP_eq_length_filter, maskBits, List.countP_map]
    rfl
  rw [execMpop, (armedW_ok_iff s rd).2 hr, hcount] at he
  exact ⟨_, he, retireWith_retired s _⟩

/-- Settles O24, form by form. -/
theorem masksAndSelect : Obligations.MasksAndSelect := ⟨vectorCompares, vectorSelect, maskForms⟩

end Sys2Proof.Machine

namespace Sys2Proof.Machine
open Sys2Proof

/-! Vector loads and stores of own memory (R128 to R131, R194): the statement fails for a hart number that no package has. -/

/-- Hart 33280 is no hart of the package (R4); its core would be 8704, whose locations the model counts to core 8192. The granule at
offset 0 of its own memory is poisoned, core 8192 has a correctable error stored in that row, and mask m1 selects lane 0. -/
def beyondLane : State :=
  ((({ State.reset with cur := 33280 }).modCore 8192 fun C => { C with flaws := [(0, false)] }).setPoi (padBase 8704) true).modHart 33280
    fun H => (H.setX 6 0x9000000000000000).setM 1 1

/-- The stored errors of core 8192 after a step. -/
def flawsAfter : Host.Outcome State Fault Refusal → SMap Bool
  | .next t => (t.core 8192).flaws
  | _ => []

theorem flawsAfter_vld : flawsAfter (exec (.vld 1 6 0 1 .w32) beyondLane) = [] := by decide

/-- Refutes O28: its clause of poisoned lanes binds no hart number, and the load of hart 33280, which no package has, corrects the
stored error of core 8192 before it raises POISON_CONSUMED. -/
theorem not_ownVectorAccesses : ¬ Obligations.OwnVectorAccesses := by
  rintro ⟨h, -⟩
  obtain ⟨-, -, h⟩ := h (.vld 1 6 0 1 .w32) beyondLane _ id rfl (by decide)
  obtain ⟨k, -, -, -, he⟩ := h (by decide) (by decide) (by decide) ⟨0, by decide, by decide⟩
  have hf : flawsAfter (exec (.vld 1 6 0 1 .w32) beyondLane) = [(0, false)] := by
    rw [he]
    rfl
  exact absurd (flawsAfter_vld.symm.trans hf) (by decide)

end Sys2Proof.Machine

namespace Sys2Proof.Machine
open Sys2Proof

/-! What holds of these accesses: stores and sound loads for every hart, poisoned loads for every hart of the package. -/

section
variable {s : State} {F : Spec.LaneForm} {i : Instr} {off : Nat → Nat} (hg : gatherPre s.me [F.reg.toNat] = .ok)

theorem lanes_nil (h : F.act s = []) : F.lanes s = [] := by rw [Spec.LaneForm.lanes, h]; rfl

theorem lanes_isEmpty_of_act (h : F.act s ≠ []) : (F.lanes s).isEmpty = false :=
  List.isEmpty_eq_false_iff.2 fun hl => h (by rw [← lanes_i, hl]; rfl)

include hg in
/-- R129: with no active lane nothing happens. -/
theorem exec_vload_idle (hf : Spec.vloadForm s i = some F) (h : F.act s = []) : exec i s = .next (retire s s.cur) := by
  obtain ⟨-, rs1, rs2, mk, strided, he, hlanes⟩ := exec_vloadForm hf
  rw [he]
  unfold vectorLoad
  simp only [hlanes, lanes_nil h, List.isEmpty_nil, if_true, hg]
  rfl

include hg in
theorem exec_vstore_idle (hf : Spec.vstoreForm s i = some F) (h : F.act s = []) : exec i s = .next (retire s s.cur) := by
  obtain ⟨-, rs1, rs2, mk, strided, he, hlanes⟩ := exec_vstoreForm hf
  rw [he]
  unfold vectorStore
  simp only [hlanes, lanes_nil h, List.isEmpty_nil, if_true, hg]
  rfl

section
variable (hown : ∀ k ∈ F.act s, placeNow s (F.adr k) = .own (off k))
include hown

theorem awayLanes_nil : awayLanes s (F.lanes s) = [] := by
  rw [awayLanes_form, List.map_eq_nil_iff, List.filter_eq_nil_iff]
  intro k hk hne
  rw [(isOwn_iff s _).2 ⟨off k, hown k hk⟩] at hne
  exact absurd hne (by decide)

theorem mem_ownLanes_form {e : Lane × Nat} : e ∈ ownLanes s (F.lanes s) ↔ ∃ k ∈ F.act s, e = (⟨k, F.adr k⟩, Spec.own s (off k)) := by
  rw [mem_ownLanes, mem_lanes]
  obtain ⟨⟨j, a⟩, loc⟩ := e
  constructor
  · rintro ⟨⟨hk, ha⟩, o, hp, hl⟩
    dsimp only at hk ha hp hl
    rw [ha, hown j hk] at hp
    cases hp
    exact ⟨j, hk, by rw [ha, hl]⟩
  · rintro ⟨k, hk, he⟩
    cases he
    exact ⟨⟨hk, rfl⟩, off j, hown j hk, rfl⟩

include hg in
/-- A load of own memory: the poison it meets comes first, then the checks of its destination. -/
theorem exec_vload_own (hf : Spec.vloadForm s i = some F) (h : F.act s ≠ []) (hl : lanesPre s (F.lanes s) (F.w / 8) false = .ok) :
    let r := readOwn s F.w (ownLanes s (F.lanes s))
    exec i s = finish r.1 (.seq (match r.2.2 with | some (_, c, a) => .trap c a | none => .ok) (dstPre s (some F.w) F.reg.toNat))
      (retire (vwrite r.1 F.reg.toNat ((s.me.getV F.reg.toNat &&& ~~~laneMask F.w (F.lanes s)) ||| r.2.1)) s.cur) := by
  obtain ⟨-, rs1, rs2, mk, strided, he, hlanes⟩ := exec_vloadForm hf
  have haway : groupOn (fun k : Lane => k.a.toNat / 64) (awayLanes s (F.lanes s)) = [] := by rw [awayLanes_nil hown]; rfl
  rw [he]
  unfold vectorLoad
  simp only [hlanes, lanes_isEmpty_of_act h, hl, haway, hg]
  rfl

include hg in
/-- A store of own memory, with no packet to send. -/
theorem exec_vstore_own (hf : Spec.vstoreForm s i = some F) (h : F.act s ≠ []) (hs : srcPre s (some F.w) F.reg.toNat = .ok)
    (hl : lanesPre s (F.lanes s) (F.w / 8) true = .ok) (hp : placesFor s s.cur 0 = true) :
    exec i s = .next (retireWith (vstoreSent s F) fun H => consume H F.reg.toNat) := by
  obtain ⟨-, rs1, rs2, mk, strided, he, hlanes⟩ := exec_vstoreForm hf
  have haway : groupOn (fun k : Lane => k.a.toNat / 64) (awayLanes s (F.lanes s)) = [] := by rw [awayLanes_nil hown]; rfl
  rw [he, vstoreSent, linesAway]
  unfold vectorStore
  simp only [hlanes, lanes_isEmpty_of_act h, hs, hl, hg, haway, List.length_nil, hp]
  rfl

theorem vstoreSent_own_net : (vstoreSent s F).net = s.net := by
  rw [vstoreSent, linesAway, awayLanes_nil hown]
  exact storeOwn_net _ _ _ _

end

theorem vstoreSent_own_read (hw : F.w ∈ [8, 16, 32]) (hown : ∀ k ∈ F.act s, placeNow s (F.adr k) = .own (off k))
    (hl : lanesPre s (F.lanes s) (F.w / 8) true = .ok) (x : Nat) :
    (vstoreSent s F).mem.read x = ((F.act s).foldl (fun m k =>
      m.writeBytes (Spec.own s (off k)) (toBytes (F.w / 8) (Spec.lane F.w (srcVal s.me F.reg.toNat) k))) s.mem).read x := by
  rw [vstoreSent_read hw hl]
  congr 1
  refine List.foldl_ext _ _ _ fun m k hk => ?_
  rw [hown k hk]

end

theorem ownVectorStores : Spec.ownVectorStores := by
  intro i s F off hf hg
  refine ⟨fun h => ⟨_, exec_vstore_idle hg hf h, retire_retired s⟩, fun h hown hs hl hp => ?_⟩
  obtain ⟨hw, -⟩ := exec_vstoreForm hf
  have hr := retireWith_retired (vstoreSent s F) fun H => consume H F.reg.toNat
  rw [vstoreSent_cur] at hr
  exact ⟨vstoreSent s F, _, exec_vstore_own hg hown hf h hs hl hp, hr, vstoreSent_me s F, vstoreSent_own_net hown, vstoreSent_own_read hw hown hl⟩

/-! Lanes that a load keeps (R129, R130). -/

theorem lane_testBit (w : Nat) (v : VReg) (k j : Nat) : (Spec.lane w v k).testBit j = (decide (j < w) && v.getLsbD (w * k + j)) := by
  rw [Spec.lane, Nat.testBit_mod_two_pow, Nat.testBit_div_two_pow, BitVec.getLsbD, Nat.add_comm]

section
variable {w k : Nat} {M : VReg}

theorem lane_cleared (h : Spec.lane w M k = 2 ^ w - 1) (v : VReg) : Spec.lane w (v &&& ~~~M) k = 0 := by
  refine Nat.eq_of_testBit_eq fun j => ?_
  have hb := congrArg (Nat.testBit · j) h
  simp only [lane_testBit, Nat.testBit_two_pow_sub_one] at hb
  rw [lane_testBit, BitVec.getLsbD_and, BitVec.getLsbD_not, Nat.zero_testBit]
  by_cases hj : j < w
  · simp [hj] at hb
    simp [hb]
  · simp [hj]

theorem lane_uncleared (hk : k < 512 / w) (h : Spec.lane w M k = 0) (v : VReg) : Spec.lane w (v &&& ~~~M) k = Spec.lane w v k := by
  refine Nat.eq_of_testBit_eq fun j => ?_
  have hb := congrArg (Nat.testBit · j) h
  simp only [lane_testBit, Nat.zero_testBit] at hb
  rw [lane_testBit, lane_testBit, BitVec.getLsbD_and, BitVec.getLsbD_not]
  by_cases hj : j < w
  · have hle : (k + 1) * w ≤ 512 := Nat.mul_le_of_le_div w _ _ hk
    have hlt : w * k + j < 512 := by rw [Nat.succ_mul, Nat.mul_comm] at hle; omega
    rw [decide_eq_true hj, Bool.true_and] at hb
    rw [hb, decide_eq_true hlt]
    simp
  · simp [hj]

end

/-- The lanes of the destination after a load: the active ones have their bytes, the others are kept. -/
theorem vload_lanes {s : State} {F : Spec.LaneForm} {off : Nat → Nat} (hw : F.w ∈ [8, 16, 32])
    (hown : ∀ k ∈ F.act s, placeNow s (F.adr k) = .own (off k)) (v : VReg) {k : Nat} (hk : k < 512 / F.w) :
    Spec.lane F.w ((v &&& ~~~laneMask F.w (F.lanes s)) ||| (readOwn s F.w (ownLanes s (F.lanes s))).2.1) k =
      if k ∈ F.act s then ofBytes (s.mem.readBytes (Spec.own s (off k)) (F.w / 8)) else Spec.lane F.w v k := by
  obtain ⟨hmask, hnone, hbytes⟩ := vloadHeld_lanes hw (s := s) (F := F) 0
  have hm : Spec.lane F.w (laneMask F.w (F.lanes s)) k = _ := hmask k hk
  rw [lane_or]
  by_cases ha : k ∈ F.act s
  · rw [if_pos ha] at hm ⊢
    rw [lane_cleared hm, Nat.zero_or]
    exact hbytes k ha _ (hown k ha)
  · rw [if_neg ha] at hm ⊢
    have h0 := hnone k fun h => ha (List.mem_filter.1 h).1
    rw [lane_uncleared hk hm]
    exact (congrArg (Spec.lane F.w v k ||| ·) h0).trans (Nat.or_zero _)

/-- The clauses of loads that meet no poison, for every hart. -/
theorem soundVectorLoads {i : Instr} {s : State} {F : Spec.LaneForm} {off : Nat → Nat} (hf : Spec.vloadForm s i = some F)
    (hg : gatherPre s.me [F.reg.toNat] = .ok) :
    (F.act s = [] → ∃ t, exec i s = .next t ∧ Retired s t) ∧
    (F.act s ≠ [] → (∀ k ∈ F.act s, placeNow s (F.adr k) = .own (off k)) →
      lanesPre s (F.lanes s) (F.w / 8) false = .ok → dstPre s (some F.w) F.reg.toNat = .ok →
      (readOwn s F.w (ownLanes s (F.lanes s))).2.2 = none →
      ∃ (u : State) (v : VReg) (t : State), exec i s = .next t ∧ Retired (vwrite u F.reg.toNat v) t ∧ SameMemory s u ∧ (∀ h, u.hart h = s.hart h) ∧ u.net = s.net ∧
        ∀ k, k < 512 / F.w → Spec.lane F.w v k =
          if k ∈ F.act s then ofBytes (s.mem.readBytes (Spec.own s (off k)) (F.w / 8)) else Spec.lane F.w (s.me.getV F.reg.toNat) k) := by
  refine ⟨fun h => ⟨_, exec_vload_idle hg hf h, retire_retired s⟩, fun h hown hl hd hn => ?_⟩
  obtain ⟨hw, -⟩ := exec_vloadForm hf
  have hrows := readOwn_rows F.w (ownLanes s (F.lanes s)) s
  have he := exec_vload_own hg hown hf h hl
  dsimp only at he
  rw [hn, hd] at he
  have hr := retire_retired (vwrite (readOwn s F.w (ownLanes s (F.lanes s))).1 F.reg.toNat
    ((s.me.getV F.reg.toNat &&& ~~~laneMask F.w (F.lanes s)) ||| (readOwn s F.w (ownLanes s (F.lanes s))).2.1))
  rw [vwrite_cur, hrows.2.2.2] at hr
  exact ⟨_, _, _, he, hr, hrows.1, OnlyRows.hart_eq hrows, hrows.2.2.1, fun k hk => vload_lanes hw hown _ hk⟩

/-! The poisoned lane of the lowest address (R194). -/

/-- An access to a core without stored errors changes none. -/
theorem scrub_sound {s : State} {loc : Nat} (h : (s.core (coreOfLoc loc)).flaws = []) (n : Nat) (w : Bool) : scrub s loc n w = s := by
  unfold scrub
  split
  · refine List.foldl_fixed' (fun g => ?_) _
    unfold scrubGranule
    dsimp only
    rw [h]
    rfl
  · rfl

/-- What a load reports of lanes of own memory: nothing, or the poisoned lane of the lowest address. -/
def ReportsLowest (s : State) (w : Nat) (l : List (Lane × Nat)) : Option (Nat × Nat × Word) → Prop
  | none => ∀ e ∈ l, poisonedAt s e.2 (w / 8) = none
  | some (_, c, a) => c = 27 ∧ ∃ e ∈ l, e.1.a = a ∧ poisonedAt s e.2 (w / 8) ≠ none ∧
      ∀ j ∈ l, poisonedAt s j.2 (w / 8) ≠ none → a.toNat ≤ j.1.a.toNat

theorem readOwn_lowest {s : State} (w : Nat) : ∀ {l : List (Lane × Nat)}, (∀ e ∈ l, (s.core (coreOfLoc e.2)).flaws = []) →
    (readOwn s w l).1 = s ∧ ReportsLowest s w l (readOwn s w l).2.2
  | [], _ => ⟨rfl, fun _ h => absurd h List.not_mem_nil⟩
  | (k, loc) :: r, h => by
    obtain ⟨hs, hr⟩ := readOwn_lowest w fun e he => h e (List.mem_cons_of_mem _ he)
    have hload : load s loc (w / 8) = (s, s.loadN loc (w / 8), poisonedAt s loc (w / 8)) := by
      unfold load
      rw [scrub_sound (h _ List.mem_cons_self)]
    unfold readOwn
    simp only [hload]
    refine ⟨hs, ?_⟩
    cases hp : poisonedAt s loc (w / 8) with
    | none =>
      cases hb : (readOwn s w r).2.2 with
      | none =>
        rw [hb] at hr
        exact List.forall_mem_cons.2 ⟨hp, hr⟩
      | some b =>
        rw [hb] at hr
        obtain ⟨hc, e, he, ha, hpe, hmin⟩ := hr
        exact ⟨hc, e, List.mem_cons_of_mem _ he, ha, hpe, List.forall_mem_cons.2 ⟨fun hne => absurd hp hne, hmin⟩⟩
    | some p =>
      have hne : poisonedAt s loc (w / 8) ≠ none := by rw [hp]; exact Option.some_ne_none p
      cases hb : (readOwn s w r).2.2 with
      | none =>
        rw [hb] at hr
        exact ⟨rfl, (k, loc), List.mem_cons_self, rfl, hne,
          List.forall_mem_cons.2 ⟨fun _ => le_rfl, fun j hj hpj => absurd (hr j hj) hpj⟩⟩
      | some b =>
        rw [hb] at hr
        obtain ⟨hc, e, he, ha, hpe, hmin⟩ := hr
        simp only [Option.isSome_some, if_true]
        by_cases hlt : b.2.2.ult k.a
        · have hle : b.2.2.toNat ≤ k.a.toNat := (BitVec.ult_iff_lt.1 hlt).le
          rw [if_pos hlt]
          exact ⟨hc, e, List.mem_cons_of_mem _ he, ha, hpe, List.forall_mem_cons.2 ⟨fun _ => hle, hmin⟩⟩
        · have hle : k.a.toNat ≤ b.2.2.toNat := Nat.not_lt.1 fun h => hlt (BitVec.ult_iff_lt.2 h)
          rw [if_neg hlt]
          exact ⟨rfl, (k, loc), List.mem_cons_self, rfl, hne,
            List.forall_mem_cons.2 ⟨fun _ => le_rfl, fun j hj hpj => hle.trans (hmin j hj hpj)⟩⟩

/-- The own memory of a hart of the package is that of its core. -/
theorem coreOfLoc_own {s : State} (hc : s.cur < 33280) {off : Nat} (ho : off < 2 ^ 17) : coreOfLoc (Spec.own s off) = coreOf s.cur := by
  have hlt : coreOf s.cur < 8704 := by unfold coreOf; split <;> omega
  unfold Spec.own
  generalize coreOf s.cur = c at hlt
  unfold coreOfLoc padBase
  dsimp only
  split
  · rw [if_neg (by omega)]; omega
  · rw [if_pos (by omega)]; omega

/-- The clause of poisoned lanes, for a hart of the package (R4): the lowest address of them raises POISON_CONSUMED. -/
theorem poisonedVectorLoads_of_device {i : Instr} {s : State} {F : Spec.LaneForm} {off : Nat → Nat} (hc : s.cur < 33280)
    (hf : Spec.vloadForm s i = some F) (hg : gatherPre s.me [F.reg.toNat] = .ok) (hown : ∀ k ∈ F.act s, placeNow s (F.adr k) = .own (off k))
    (hl : lanesPre s (F.lanes s) (F.w / 8) false = .ok) (hsound : (s.core (coreOf s.cur)).flaws = []) :
    let poisoned := fun k => poisonedAt s (Spec.own s (off k)) (F.w / 8) ≠ none
    (∃ k ∈ F.act s, poisoned k) → ∃ k ∈ F.act s, poisoned k ∧ (∀ j ∈ F.act s, poisoned j → (F.adr k).toNat ≤ (F.adr j).toNat) ∧
      exec i s = .next (takeTrap s s.cur false 27 (F.adr k)) := by
  rintro poisoned ⟨k, hk, hpk⟩
  have hlow := readOwn_lowest (s := s) F.w (l := ownLanes s (F.lanes s)) fun e he => by
    obtain ⟨j, hj, rfl⟩ := (mem_ownLanes_form hown).1 he
    rw [coreOfLoc_own hc (by rw [placeNow_own_off (hown j hj)]; exact Nat.mod_lt _ (by decide))]
    exact hsound
  have hmem (j : Nat) (hj : j ∈ F.act s) : ((⟨j, F.adr j⟩, Spec.own s (off j)) : Lane × Nat) ∈ ownLanes s (F.lanes s) :=
    (mem_ownLanes_form hown).2 ⟨j, hj, rfl⟩
  have he := exec_vload_own hg hown hf (List.ne_nil_of_mem hk) hl
  dsimp only at he
  obtain ⟨hs, hrep⟩ := hlow
  cases hb : (readOwn s F.w (ownLanes s (F.lanes s))).2.2 with
  | none =>
    rw [hb] at hrep
    exact absurd (hrep _ (hmem k hk)) hpk
  | some b =>
    obtain ⟨pos, c, a⟩ := b
    rw [hb] at hrep
    obtain ⟨rfl, e, hin, rfl, hpe, hmin⟩ := hrep
    obtain ⟨j, hj, rfl⟩ := (mem_ownLanes_form hown).1 hin
    rw [hb, hs] at he
    dsimp only [Pre.seq] at he
    rw [finish_trap_none] at he
    exact ⟨j, hj, hpe, fun m hm hpm => hmin (⟨m, F.adr m⟩, Spec.own s (off m)) (hmem m hm) hpm, he⟩

end Sys2Proof.Machine
